-- ==== Sys2Proof/Word.lean ====
section
/-!
DEFINITION. The words the device is made of (00 Notation): octets, 32-bit registers, 64-bit values, and the clock
counts of the time unit, held in 2^-40 ns so that every increment of 11 R607 is exact.
-/
namespace Sys2Proof

/-- One octet. -/
abbrev Byte := BitVec 8

/-- A 32-bit register (00 R24). -/
abbrev Word := BitVec 32

/-- A 64-bit value: a LO register below a HI register (00 R30). -/
abbrev DWord := BitVec 64

/-- A string of octets, first octet first. -/
abbrev Bytes := List Byte

/-- Octets of which some may be erased (03 R142). -/
abbrev Octets := List (Option Byte)

/-- A clock of the time unit: 48 bits of ns above 40 bits of fraction (11 R607). -/
abbrev Clock := BitVec 88

end Sys2Proof
end

