-- ==== Sys2Proof/Syntax.lean ====
section
/-!
DEFINITION. The commands: one constructor per row of spec/opcode_table.json, with the row's operands. A command is a
register access, an event on a pin or a line, a reply that an outside party gives, or an event of the device's own engines.
A choice the spec leaves to contention or to an outside party is an operand.
-/
namespace Sys2Proof

/-- What a read request over PCI Express, or a read of the device's own memories, comes back with (10 R540 R560); or a completion whose tag is
that of no request (10 R605). -/
inductive Reply where
  | ok (bytes : Bytes)
  | poisoned (bytes : Bytes)
  | failed
  | timedOut
  | stray (tag : BitVec 10)
  deriving DecidableEq, Repr

/-- A frame as a client MAC receives it, from destination address to FCS, with what the PCS says of it (09 R490), and
how long ago its start-of-frame delimiter was detected, in 2^-16 ns (11 R630); and the FEC codewords that the PCS has corrected and failed
to decode since the last arrival (09 R529). -/
structure Arrival where
  bytes    : Bytes
  codeErr  : Bool := false
  age      : Nat := 0
  fecOk    : Nat := 0
  fecBad   : Nat := 0
  deriving DecidableEq, Repr

/-- The configuration registers of the function (10 R537, R538, R540): identifiers, class code, a half of a base address, the device
capabilities and controls, and Advanced Error Reporting. -/
inductive ConfigReg where
  | ids | classCode
  | bar (n : Fin 6)
  | deviceCap | deviceCtl | deviceCap2 | deviceCtl2
  | aerStatus | aerMask | aerSeverity
  | linkCap | pmCap | pmCtl | msixCtl | msixTable | msixPba
  deriving DecidableEq, Repr

/-- How the host reaches the function apart from BAR0 and BAR2 (log 131, DESIGN CHOICE): it writes an entry of the MSI-X table with its mask,
the function mask, or the enable (12 R691); it reads an entry, or the pending-bit array (10 R541); it reads or writes a configuration register. -/
inductive FunctionAccess where
  | entry (n : Fin 32) (addr : DWord) (data : Word) (masked : Bool)
  | functionMask (on : Bool)
  | enable (on : Bool)
  | readEntry (n : Fin 32)
  | readPending
  | config (r : ConfigReg) (write : Option Word)
  deriving DecidableEq, Repr

/-- What the cistern's ECC finds on the reads of a command (08 R442, R443): 64-bit words that have become uncorrectable, and how
many reads it corrects. -/
structure Upset where
  bad  : List Nat := []
  corr : Nat := 0
  deriving DecidableEq, Repr

/-- What a tract replica's ECC finds in a pass (07 R438): nodes and rule entries that have become uncorrectable, and how many reads it
corrects. -/
structure ReplicaUpset where
  nodes : List Nat := []
  rules : List Nat := []
  corr  : Nat := 0
  deriving DecidableEq, Repr

/-- A regulator's response frame to an AVSBus frame (16 R848). -/
structure Ack where
  response : Word
  deriving DecidableEq, Repr

/-- What the flash answers at reset: whether its JEDEC identification and its SFDP tables are there, and its size in bytes (15 R762). -/
structure FlashId where
  jedec : Bool
  sfdp  : Bool
  bytes : Nat
  deriving DecidableEq, Repr

/-- What the checks of the FACTORY image in ROM find: nothing, a header fault, or a fault of the section of a TYPE (15 R778, R781). -/
inductive RomCheck where
  | good | header
  | section_ (k : Fin 9)
  deriving DecidableEq, Repr

/-- The commands, in the order of spec/opcode_table.json. -/
inductive Instr where
  -- power and reset
  | vkeepPowerUp
  | vkeepLow
  | corePgLow
  | coreLeavesReset (bootSel : BitVec 2) (addrSel : Bool) (flash : FlashId)
  | resetN (ns : Nat) (acts : Bool)
  | globalSoftReset (v : Word)
  | perstN
  | functionLevelReset
  | d3hotEntry
  | d3hotToD0
  | resetSequenceComplete (rom : RomCheck)
  | channelTraining (ch : Fin 8) (fitted : Nat) (trains : List Nat)
  | bootImageLoaded
  | modeRequest (v : Word)
  | modeCommit (avs : List (Nat × Ack))
  | frontRoutingDrainEnd (front : Fin 18)
  | keeperWake
  | pgTimeout
  -- reach protocol
  | codeword (lane : Fin 16) (bits : BitVec 5600) (pos : Nat) (age : Nat)
  | convoyHeader
  | routeParamsTakeEffect
  | eqdLoad
  | assignIdTakesEffect
  | keyInstall
  | keySlotsEmptied
  | reassemblyTimeout (tid : BitVec 12) (flow : BitVec 16)
  | servoNoInput (d : Bool)
  | mapEntry (ecc : List Nat)
  | hem
  | assignId
  | assignEqd
  | routeParams
  | deregister
  | wake
  | timeEpoch
  | offer
  | activate
  | group
  | retire
  | segment
  -- allotments and the headgate
  | allotmentDue (ecc : List Nat)
  | launchInstantRemoval
  | launchCommit (dry : Option Nat) (u : Upset)
  | windowEnd
  | registerWaitEnd
  | handoffDeadline (t : Fin 8)
  -- the drover
  | entryVector (t : Fin 8) (ecc : Bool)
  | next (t : Fin 8) (ecc : Bool)
  | branch (t : Fin 8) (ecc : Bool)
  | call (t : Fin 8) (ecc : Bool)
  | ret (t : Fin 8) (ecc : Bool)
  | dispatch (t : Fin 8) (ecc : Bool)
  | idle (t : Fin 8)
  | aluNop (t : Fin 8)
  | mov (t : Fin 8)
  | add (t : Fin 8)
  | sub (t : Fin 8)
  | and (t : Fin 8)
  | or (t : Fin 8)
  | xor (t : Fin 8)
  | shl (t : Fin 8)
  | shr (t : Fin 8)
  | min (t : Fin 8)
  | max (t : Fin 8)
  | cmp (t : Fin 8)
  | test (t : Fin 8)
  | ioNop (t : Fin 8)
  | head (t : Fin 8)
  | takeRun (t : Fin 8)
  | takePart (t : Fin 8)
  | msg (t : Fin 8)
  | commit (t : Fin 8) (u : Upset)
  | abandon (t : Fin 8)
  | droverRestart (t : Fin 8) (v : Word)
  | lineHgPreamble (n : Fin 16) (v : Word)
  | preambleTransfer
  | lineGaspCtl (v : Word)
  | lineHgLead (v : Word)
  | linePm (n : Fin 16) (v : Word)
  -- client ports
  | receivedFrame (p : Fin 16) (f : Arrival)
  | pauseTimerEnd (p : Fin 16) (k : Option (Fin 8))
  | linkDown (p : Fin 16) (lf rf : Bool)
  | linkUp (p : Fin 16)
  | speedTry
  | detecting
  | transmitQueue (p : Fin 16)
  | transmitFrame (p : Fin 16) (u : Upset)
  | pfcGeneration (p : Fin 16)
  | pauseGeneration (p : Fin 16)
  | refresh (p : Fin 16)
  | clientFcCtl (p : Fin 16) (v : Word)
  | clientStatPreset (p : Fin 16) (v : Word)
  -- cells
  | headToken (tag : Nat) (u : ReplicaUpset)
  | payloadComplete (tag : Nat) (granules : List Nat)
  | dispatchStage (tag : Nat) (checkFails : Bool)
  | cellStall (t : Fin 8) (c : Fin 18)
  | tractCellMap (t : Fin 8) (n : Fin 4) (v : Word)
  | tractCellReset (t : Fin 8) (v : Word)
  | cellResetDone (t : Fin 8) (c : Fin 18)
  -- queues, cistern, reservoir
  | enqueue (t : Fin 8)
  | queueQWm (q : Fin 32768) (v : Word)
  | spill (q : Fin 32768) (room : Bool) (page : Nat) (u : Upset)
  | spillPageAccepted (ch : Fin 8)
  | draw (q : Fin 32768) (badPrimary badMirror : Bool)
  | drawPageArrived (q : Fin 32768) (badBeats : List Nat) (corr : Nat) (granules : List Nat)
  | resHalt (ch : Fin 8) (cause : Fin 3)
  | bufferQRecover (v : Word)
  -- host unit
  | dmaStart (c : Fin 64) (v : Word)
  | dmaBeat (c : Fin 64) (r : Reply) (corr : Nat)
  | ringEnable (rx : Bool) (r : Fin 256) (v : Word)
  | ringDisable (rx : Bool) (r : Fin 256) (v : Word)
  | ringStopped (rx : Bool) (r : Fin 256)
  | ringDbTail (rx : Bool) (r : Fin 256) (v : Word)
  | descriptorFetch (rx : Bool) (r : Fin 256) (reply : Reply)
  | transmitRingFrame (r : Fin 256) (reply : Reply)
  | ringReceiveFrame (r : Fin 256) (u : Upset)
  | writeBack (rx : Bool) (r : Fin 256)
  | registerWrite (off : Nat) (be : BitVec 4) (v : Word)
  | rcRead (off : Nat) (len : Nat)
  | loRead (off : Nat) (len : Nat)
  | mgtWrite (addr : BitVec 7) (off : BitVec 32) (data : Word)
  | mgtSetOffset (addr : BitVec 7) (off : BitVec 32)
  | mgtRead (addr : BitVec 7)
  -- interrupts
  | deliveryCommit (n : Fin 32)
  | intcCompletion (n : Fin 32) (k : Option (Fin 32)) (v : Word)
  | intcRetarget (v : Word)
  | intcSrcCfg (src : Fin 1024) (v : Word)
  | intcSwi (v : Word)
  | intcHtIdle (v : Word)
  | intcHtSummary (n : Fin 32)
  | intcHtState (v : Word)
  | intcWatcher (v : Word)
  | holdOffTimerEnd (g : Fin 128)
  | stranded (n : Fin 32)
  -- check units
  | checkStart (e : Fin 4) (v : Word)
  | checkAbort (e : Fin 4) (v : Word)
  | checkBeat (e : Fin 4) (r : Reply) (corr : Nat)
  -- counters and sampling
  | tallyEnable (v : Word)
  | tallyDisable (v : Word)
  | tallyDump (skips : List Nat)
  | tractCellPreset (t : Fin 8) (c : Fin 18) (v : Word)
  | tractPerfPreset (t : Fin 8) (v : Word)
  | perfAccPreset (v : Word)
  | snap (t : Fin 8) (v : Word)
  | perfSampleW0
  -- time
  | timeServoEnable (d : Bool) (v : Word)
  | resume (d : Bool) (v : Word)
  | incrWrite (d : Bool) (hi : Bool) (v : Word)
  | switch (v : Word)
  | switchDone
  | timeTxqW0
  | timeTodRead (d : Bool)
  | winDone (n : Fin 8)
  | schedArm (n : Fin 16) (v : Word)
  | sched (n : Fin 16)
  | pps
  | todMessage
  -- Keeper
  | scStateChange (codes : List Byte)
  | keeperScCtl (n : Fin 8) (filt : Bool) (v : Word)
  | alarm
  | keeperAlarmCtl (v : Word)
  | rtcSet
  | todHoldover
  | keeperLogSel (v : Word)
  | xtalStop (back : Bool)
  -- pace and temperature
  | paceWindowEnd (t : Fin 8) (measured : Nat) (read write : Ack)
  | raiseCredited (t : Fin 8)
  | paceRestart (t : Fin 8) (v : Word) (write : Ack)
  | tempUpdate (readings : List (BitVec 16))
  -- sideband
  | mdioAddress (port : BitVec 7) (devad : BitVec 5) (data : BitVec 16)
  | mdioWrite (port : BitVec 7) (devad : BitVec 5) (data : BitVec 16)
  | mdioReadInc (port : BitVec 7) (devad : BitVec 5) (data : BitVec 16)
  | mdioRead (port : BitVec 7) (devad : BitVec 5) (data : BitVec 16)
  | i2cWrite (port : BitVec 7) (devad : BitVec 5) (data : BitVec 16)
  | i2cRead (port : BitVec 7) (devad : BitVec 5) (data : BitVec 16)
  | sidebandDone (rdata : Option (BitVec 16))
  -- rule versions
  | put (index : BitVec 13)
  | remove (index : BitVec 13)
  | putDefault (index : BitVec 13)
  | discard
  | classCommit
  | cancel
  | applying
  | commitInstant
  | entriesReturned
  | classPriv (n : Fin 4) (rate : Bool) (v : Word)
  -- images
  | verify (scope : BitVec 2) (tract : BitVec 3)
  | commitDevice
  | commitTract (tract : BitVec 3)
  | commitRules
  | rollback (scope : BitVec 2) (tract : BitVec 3)
  | floor
  | imageStaged (r : Reply)
  | imageChecked
  | deviceApplyingEnd
  | reloadCommit
  | flashDone (ok : Bool) (step : Nat)
  | perstNRelease
  | bar2Access (off : Nat) (write : Option Bytes) (len : Nat) (u : Upset)
  | msiXMask (w : FunctionAccess)
  | floorDone
  | localOrRemoteFault (p : Fin 16) (lf rf : Bool)
  | keyMsg
  | badCmd (v : Word)
  | badOp (v : Word)
  deriving DecidableEq, Repr

end Sys2Proof
end

