-- ==== Sys2Proof/Decode.lean ====
section
/-!
DEFINITION. Words and commands. No row of spec/opcode_table.json gives bits, so no word spells a command (log 5, DEDUCED).
-/
namespace Sys2Proof

/-- The command that a word spells by the table's bits: none. -/
def decodeTableWord (_nbits _w : Nat) : Option Instr := none

end Sys2Proof
end

