-- ==== Sys2Proof/Machine/State.lean ====
section
/-!
DEFINITION. The state of the device as plain data: everything the spec gives the machine (INVENTORY.md lists every piece
with its rule and reset value), the queue of waiting commands, the faults and refusals, and the state after reset.
Registers are held by BAR0 offset in `regs` (Machine/RegMap.lean names them); what a register only shows is held in the
structures below.
-/
namespace Sys2Proof.Machine

/-- Data by number, in one canonical form: numbers strictly rising, no entry equal to what an unlisted number holds. -/
abbrev Sparse (α : Type) := List (Nat × α)

/-- Why a command cannot be carried out: the address does not exist. -/
inductive Fault where
  /-- A BAR0 access at or above 64 MiB (00 R24, 17 R903); raised by REGISTER_WRITE, RC_READ and LO_READ; safe. -/
  | outsideBar0
  /-- A BAR2 access at or above 256 MiB (the BAR table of 00); raised by BAR2_ACCESS; safe. -/
  | outsideBar2
  deriving DecidableEq, Repr

/-- Why the model gives a command no meaning. -/
inductive Refusal where
  /-- The row of the command table has no meaning yet; raised by Dispatch only; safe. -/
  | notModelled (mnemonic : String)
  deriving DecidableEq, Repr

/-! ### Fuses, power and modes -/

/-- The family members (00 R3). -/
inductive Part where
  | dlb9716 | dlb9716n | dlb9708
  deriving DecidableEq, Repr

/-- What is fixed at manufacture (00 R1-R3, 04 R234 R268, 15 R778), the device identity key by its private scalar, and the anti-rollback
fuses (15 R807). -/
structure Fuses where
  part      : Part := .dlb9716
  serial    : DWord := 1
  keyHash   : List Word := []
  idKey     : Nat := 1
  floor     : Word := 0
  floorLeft : Nat := 63
  deriving DecidableEq, Repr

/-- Supplies, resets and straps (02 R101-R105, 16 R844-R846, 17 R873-R879 R892 R898). `pgFrom` is the tick from which CORE_PG can have been high,
while the core waits for it (17 R876, R877); `enTicks` counts the Keeper ticks since CORE_EN last changed (16 R814). -/
structure Power where
  vkeep      : Bool := true
  coreEn     : Bool := true
  coreUp     : Bool := true
  enTicks    : Nat := 0
  pgWait     : Bool := false
  pgFrom     : Option Nat := none
  cause      : Nat := 1
  nextCause  : Nat := 1
  straps     : Nat := 0
  strapped   : Bool := false
  barOpen    : Bool := false
  thermAlert : Bool := false
  deriving DecidableEq, Repr

/-- GLOBAL_MODE_STATUS.MODE (02 R84): the six modes and the two transitional states. -/
inductive Mode where
  | dormant | fallow | provision | service | hold | test | loading | resetting
  deriving DecidableEq, Repr

/-- The PROVISION substates (02 Modes). -/
inductive Sub where
  | listen | registered | ranging | silent
  deriving DecidableEq, Repr

/-- Mode control (02 R83-R100, 15 R787 R788): the request that is pending, whether the device made it itself, and whether a deregistration has
met it (R98), the tick at which it was accepted (16 R857); the mode held while MODE reads LOADING, and whether that load is the boot's (R912);
the tick, own ID and mode of a registered terminal that a commit took out of its mode (R98); the fronts that drain (01 R75); whether the rails of a
change to or from FALLOW have been written (16 R857, R858). -/
structure ModeState where
  mode    : Mode := .resetting
  sub     : Sub := .listen
  request : Option Mode := none
  auto    : Bool := false
  met     : Bool := false
  refuse  : Nat := 0
  back    : Mode := .provision
  backSub : Sub := .listen
  boot    : Bool := false
  left    : Option (Nat × Word × Mode) := none
  dereg   : Bool := false
  since   : Nat := 0
  lineOn  : Bool := false
  rails   : Bool := false
  drain   : List Nat := []
  wake    : Bool := false
  deriving DecidableEq, Repr

/-! ### The Keeper (chapter 16) -/

/-- The state of a supply comparator (16 R825). -/
inductive Supply where
  | normal | sag | swell | dropout
  deriving DecidableEq, Repr

/-- One supply comparator: its state, how many samples in a row have qualified for DROPOUT, SWELL, SAG and NORMAL, and
the start and worst state of the excursion under way (16 R826-R830). -/
structure Comparator where
  st      : Supply := .normal
  qDrop   : Nat := 0
  qSwell  : Nat := 0
  qSag    : Nat := 0
  qNormal : Nat := 0
  start   : Nat := 0
  worst   : Supply := .normal
  deriving DecidableEq, Repr

/-- The Keeper's clocks, comparators and log (16 R812-R846). `rtcSet` is the tick at which SET was written and the seconds that it loads (R818),
`alarmDue` an alarm that fires (R819), `trip` the comparators in trip at the last tick (R836), `logOld` the index, the tick and the earlier words
of each entry that the last tick with entries has replaced (R834); `rtcLatch` and `todLatch` hold the ticks that a LO read has latched, by path
(R817, R824, 17 R904); `inputs` the codes at the comparators' inputs as last given and `sampled` whether this tick's samples have been taken
(R826); `xtal` whether the crystal runs, and `quiet` for how many ticks of the time unit no Keeper tick has reached it (R866, 17 R887). -/
structure Keeper where
  ticks     : Nat := 0
  rtcSec    : Nat := 0
  rtcSub    : Nat := 0
  rtcSet    : Option (Nat × Nat) := none
  alarmDue  : Bool := false
  trip      : Nat := 0
  todSec    : Nat := 0
  todSub    : Nat := 0
  todValid  : Bool := false
  todHold   : Bool := false
  trimValid : Bool := false
  trimAcc   : Int := 0
  edgeTicks : Nat := 0
  runSecs   : Nat := 0
  runTicks  : Nat := 0
  lastEdge  : Option Nat := none
  rtcLatch  : Sparse Nat := []
  todLatch  : Sparse Nat := []
  scs       : Sparse Comparator := []
  log       : Sparse (List Word) := []
  logCount  : Nat := 0
  logOld    : List (Nat × Nat × List Word) := []
  inputs    : List Byte := []
  sampled   : Bool := true
  frac      : Nat := 0
  xtal      : Bool := false
  quiet     : Nat := 0
  deriving DecidableEq, Repr

/-! ### The time unit (chapter 11) -/

/-- Servo state of a domain (11 R614 R617). -/
inductive Servo where
  | off | acquire | lock | holdover
  deriving DecidableEq, Repr

/-- A time domain: count, frequency term in 2^-40 ns, servo (11 R614-R620). -/
structure Domain where
  cnt     : Clock := 0
  freq    : Int := 0
  st      : Servo := .off
  cause   : Nat := 0
  ever    : Bool := false
  meas    : Nat := 0
  lockRun : Nat := 0
  idle    : Nat := 0
  hist    : List (BitVec 48) := []
  deriving DecidableEq, Repr

/-- State of a scheduled action (11 R650). -/
inductive SchedState where
  | idle | armed | done | late
  deriving DecidableEq, Repr

/-- An entry of the transmit timestamp queue (11 R635 R637). -/
structure TxStamp where
  port  : Nat
  ring  : Nat
  seq   : Nat
  stamp : DWord
  slew  : Bool
  sel   : Bool
  deriving DecidableEq, Repr

/-- The ToD message owed after a PPS edge: seconds of the edge and its tick (11 R656). -/
structure TodOwed where
  sec : Nat
  at_ : Nat
  deriving DecidableEq, Repr

/-- The reach counter, the domains, output time with the tick and size of its steps of the last millisecond, newest first, the transmit
timestamp queue, the scheduled actions and the PPS pin: its level, when it falls, the PPS offset and the second last seen, and whether a second
has been crossed whose edge is still to come (11 R654). -/
structure TimeUnit where
  reach    : Clock := 0
  reachSet : Bool := false
  flock    : Nat := 0
  doms     : Sparse Domain := []
  sel      : Bool := false
  remain   : Int := 0
  slewDone : Bool := false
  steps    : Nat := 0
  stepLog  : List (Nat × Int) := []
  refused  : Bool := false
  txq      : List TxStamp := []
  todNs    : Sparse Word := []
  sched    : Sparse SchedState := []
  ppsHigh  : Bool := false
  ppsFall  : Nat := 0
  ppsAt    : Option (Word × Nat) := none
  ppsOwed  : Bool := false
  todMsg   : List TodOwed := []
  deriving DecidableEq, Repr

/-! ### The line unit (chapters 03 and 04) -/

/-- A codeword that a lane holds: when its first bit arrived (in 2^-16/5 ns), the output time and the count of output steps at that instant
(11 R634), and its 20 blocks: an erased one is none, an IDLE one has no octets (03 R137, R142). -/
structure Held where
  at_    : Nat
  out    : Clock
  steps  : Nat
  blocks : List (Option Bytes)
  deriving DecidableEq, Repr

/-- A line lane, by its pin LLn (03 R134-R142): codeword boundary and run counts, lock, the descrambler, the place and arrival of its latest
codeword, the place that the convoy number before a jump of it gives that codeword, the place of its latest codeword with CW_INDEX 0, and the
codewords held for the line unit. A place is 2,500 times the convoy number plus CW_INDEX. -/
structure Lane where
  pos    : Nat := 0
  good   : Nat := 0
  bad    : Nat := 0
  locked : Bool := false
  descr  : BitVec 58 := 0
  last   : Option (Nat × Nat) := none
  alt    : Option Nat := none
  zero   : Option Nat := none
  held   : List (Nat × Held) := []
  deriving DecidableEq, Repr

/-- A message's effect that waits for the next convoy start; `since` is the convoy count at which it was staged. -/
structure Waiting (α : Type) where
  val   : α
  since : Nat
  deriving DecidableEq, Repr

/-- Convoy reception and ranging (03 R44 R146-R172, 04 R215-R237): the lanes; bytes in the line receive FIFO; the start of the
convoy in which it overran, with the lanes that have not come to the next one yet; the place of a found convoy that is not judged yet; the sampling instant of the latest codeword 0 of LL0, with
reach counter and domain counts then; the convoy in progress: its sampling instant, its place, its map entries and messages and how many are done, where the next
message or segment begins, whether it is truncated and whether the rest of it is discarded; perfect matching; what waits for a convoy start;
the REGISTER wait, and what seeds its random draws and how many there have been since the last reset (04 R231); LINE_SB_CMD as the sideband
frame or transaction in progress was started with (17 R900). -/
structure Line where
  lanes   : Sparse Lane := []
  skewed  : Bool := false
  fill    : Nat := 0
  drops   : Option (Nat × List Nat) := none
  found   : Option Nat := none
  tcAt    : Nat := 0
  t0      : Nat := 0
  tcReach : Clock := 0
  tcA     : Clock := 0
  tcB     : Clock := 0
  convoys : Nat := 0
  live    : Bool := false
  start   : Nat := 0
  maps    : Nat := 0
  mapsDone : Nat := 0
  hems    : Nat := 0
  hemsDone : Nat := 0
  cursor  : Nat := 0
  trunc   : Bool := false
  ended   : Bool := false
  lock    : Bool := false
  any     : Bool := false
  number  : Word := 0
  reach   : DWord := 0
  domA    : DWord := 0
  domB    : DWord := 0
  pmLive  : Sparse Word := []
  route   : Option (Waiting (BitVec 30 × Word)) := none
  eqd     : Option (Waiting (BitVec 30 × Bool)) := none
  ident   : Option (Waiting (BitVec 12)) := none
  held    : Bool := false
  wait    : Option Nat := none
  skip    : Nat := 0
  seed    : DWord := 0
  sb      : Word := 0
  draws   : Nat := 0
  seq     : Option Word := none
  deriving DecidableEq, Repr

/-- A downstream key in a slot: key, salt, and the highest PN accepted (03 R177 R179, 04 R266). -/
structure DownKey where
  key  : Bytes := []
  salt : Bytes := []
  high : Nat := 0
  deriving DecidableEq, Repr

/-- An upstream key: key, salt, and the next PN (03 R178, 04 R263). -/
structure UpKey where
  key  : Bytes := []
  salt : Bytes := []
  pn   : Nat := 1
  deriving DecidableEq, Repr

/-- A key slot change waiting for the next convoy start: the slot's number (4 * index + slot), the key to install or none to
empty it, and what becomes of the upstream key of the slot, none where the change leaves it alone (04 R261 R264). -/
structure KeyWait where
  slot : Nat
  key  : Option DownKey
  up   : Option (Option UpKey)
  since : Nat
  deriving DecidableEq, Repr

/-- The key slots (04 R257-R268). -/
structure Keys where
  down    : Sparse (Option DownKey) := []
  up      : Sparse (Option UpKey) := []
  upSlot  : Nat := 0
  kek     : Option Bytes := none
  waiting : List KeyWait := []
  emptyAt : Option Nat := none
  deriving DecidableEq, Repr

/-- An open reassembly context (03 R181-R183): its key, the KEY_INDEX of its first segment, the bytes so far, the convoy
of its last segment, and the row instant of its first with the count of output steps then (11 R634, R644). -/
structure Context where
  tid   : Nat
  flow  : Nat
  key   : Nat
  bytes : Bytes
  seen  : Nat
  stamp : DWord
  steps : Nat
  deriving DecidableEq, Repr

/-- The reassembler: open contexts, and the keys whose segments are discarded up to the next FIRST or WHOLE, or also no further than a LAST
(03 R183). -/
structure Reasm where
  ctxs  : List Context := []
  skips : List (Nat × Nat × Bool) := []
  deriving DecidableEq, Repr

/-! ### Interrupts (chapter 12) -/

/-- What the register accesses of one instant have changed for a delivery commit of the same instant, which is taken as first (12 R686): the tick;
the interrupt controller's registers as they stood before; the sources whose pending bit has set, and whose pending bit and ANNOUNCED have cleared;
and those whose ANNOUNCED a write clears. Private source i of target n counts as source 1024 + 32n + i. -/
structure Accesses where
  at_      : Nat
  regs     : Sparse Word := []
  raised   : List Nat := []
  gone     : List Nat := []
  annGone  : List Nat := []
  cleared  : List Nat := []
  deriving DecidableEq, Repr

/-- A fault as its block's record captures it, with the tick of its commit and the record's place (02 R114-R117). -/
structure FaultNote where
  at_   : Nat
  base  : Nat
  code  : Nat
  tag   : Word
  ident : DWord
  time  : DWord
  deriving DecidableEq, Repr

/-- Pending and announced bits, the lines as last sampled, hold-off timers, strand times, and the targets whose strand time stays stopped at its
limit (12 R660-R697); what register accesses of the present instant have changed (R686), and the faults of the present instant (02 R117). -/
structure Intc where
  pend    : List Nat := []
  ann     : List Nat := []
  last    : List Nat := []
  priv    : Sparse Nat := []
  privAnn : Sparse Nat := []
  strandLine : Bool := false
  strandOff  : List Nat := []
  timers  : Sparse (Option Nat) := []
  strand  : Sparse (Option Nat) := []
  before  : Option Accesses := none
  faults  : List FaultNote := []
  deriving DecidableEq, Repr

/-! ### Pace governors (chapter 16) -/

/-- State of a governor (16 R849). -/
inductive PaceState where
  | fixed | governing | fallow | stopped
  deriving DecidableEq, Repr

/-- One tract's governor: setpoint, the raise not yet credited (the old setpoint and the half tick at which it settles), the half tick at which the
last write has slewed and settled, and the demand of the window so far with the ticks at which the crossbar held a token (16 R849-R858). -/
structure Pace where
  st       : PaceState := .fixed
  setpoint : Nat := 800
  raising  : Option (Nat × Nat) := none
  settles  : Nat := 0
  sat      : Bool := false
  short    : Bool := false
  low      : Nat := 0
  since    : Nat := 0
  tokens   : Sparse Nat := []
  words    : Nat := 0
  late     : Bool := false
  held     : Nat := 0
  deriving DecidableEq, Repr
/-! ### The host unit's function (chapters 00, 10, 12, 17) -/

/-- An entry of the MSI-X table (the BAR4 table of 00, 10 R541). -/
structure Vector where
  addr   : DWord := 0
  data   : Word := 0
  masked : Bool := true
  deriving DecidableEq, Repr

/-- The configuration registers that the host programs (10 R537, R538, R540; log 131, PRESUMED from PCI Express 5.0): the halves of BAR0, BAR2
and BAR4, Device Control, Device Control 2, and the uncorrectable error status, mask and severity of Advanced Error Reporting. -/
structure HostConfig where
  bars   : Sparse Word := []
  ctl    : Word := 0x2000
  ctl2   : Word := 0
  aer    : Word := 0
  aerMask : Word := 0x00400000
  aerSev : Word := 0x00462030
  deriving DecidableEq, Repr

/-- The PCI Express function: PERST_N, power state, configuration, MSI-X, the HI latches of each path (00 R31-R33, 17 R904), the LO halves
written (00 R34), the management target's read offset (17 R902), and the DMA channel and the transmit ring served last in their round robins
(10 R556, R583). -/
structure HostUnit where
  cfg      : HostConfig := {}
  dmaTurn  : Nat := 63
  ringTurn : Nat := 255
  perst    : Bool := true
  d3       : Bool := false
  msixOn   : Bool := false
  fmask    : Bool := false
  vectors  : Sparse Vector := []
  latch    : Sparse Word := []
  stage    : Sparse Word := []
  mgt      : Word := 0
  deriving DecidableEq, Repr

/-! ### Counters and sampling (chapter 14) -/

/-- A drover sample in the FIFO: its four words (14 R747-R749). -/
structure Sample where
  w0   : Word
  w1   : Word
  time : DWord
  deriving DecidableEq, Repr

/-- The tally settings in force, latched when EN set (14 R727-R732): spaces, area, interval, and the next dump. -/
structure Tally where
  clear    : Bool
  space    : Bool
  depth    : Nat
  interval : Nat
  base     : DWord
  since    : Nat
  k        : Nat := 0
  stop     : Bool := false
  deriving DecidableEq, Repr

/-- The sample FIFO, the tally dump in force, per cell (18 * tract + cell) the overflow bits that set since its last snapshot (14 R730), and per
tract counter (32 * tract + counter) the tick of its last preset and what it held before, until an increment has met it (14 R736). -/
structure Perf where
  samples : List Sample := []
  tally   : Option Tally := none
  fresh   : Sparse Nat := []
  presets : Sparse (Option (Nat × Word)) := []
  deriving DecidableEq, Repr

/-! ### Frames in the device (01, 05, 08) -/

/-- Where a frame entered (01 table of descriptor fields). -/
inductive Source where
  | client (p : Nat)
  | ring (r : Nat)
  | line
  deriving DecidableEq, Repr

/-- A descriptor token: what the device carries about a frame (01 R58), with the timestamp request of a ring frame (10 R586), the front's
tag (02 R127), the PCP of a downstream frame (07 R395) and the count of output steps when the front stamped it (11 R644). -/
structure Token where
  uid   : Nat := 0
  len   : Nat := 0
  src   : Source := .line
  port  : Nat := 17
  slot  : Nat := 0
  ver   : Word := 0
  flags : Nat := 0
  csum  : Nat := 0
  stamp : DWord := 0
  hash  : Nat := 0
  steps : Nat := 0
  tsReq : Option Nat := none
  key   : Nat := 0
  pcp   : Option Nat := none
  deriving DecidableEq, Repr

/-- A run of a frame's bytes: in cistern granules from byte `skip` of them, or in a reservoir page from byte `skip` of it. -/
inductive Chunk where
  | cis (gran : List Nat) (skip len : Nat)
  | res (page : Nat) (skip len : Nat)
  deriving DecidableEq, Repr

/-- A queued frame or part of one: bytes `carried` to `stop - 1` of the frame of `tok`, which lie in `parts` in order. -/
structure QFrame where
  tok     : Token
  carried : Nat := 0
  stop    : Nat := 0
  parts   : List Chunk := []
  deriving DecidableEq, Repr

/-- An upstream queue (05 R274-R286, 08 R450-R472): its frames oldest first, the pages of its reservoir segment in order, whether
the first page is lost, whether a page of it is being written or drawn, and pressure. While it has pages, its tail segment begins at byte
`cut.2` of frame `cut.1`, and `header` holds one more than the bytes of that frame's record header still to be written, where none of the frame's
bytes has been. -/
structure Queue where
  frames  : List QFrame := []
  pages   : List Nat := []
  broken  : Bool := false
  writing : Bool := false
  drawing : Bool := false
  cut     : Nat × Nat := (0, 0)
  header  : Nat := 0
  press   : Bool := false
  deriving DecidableEq, Repr

/-- The cistern (08 R440-R449): its bytes, the 64-bit words that are uncorrectable, how many holders each granule has, and the
granules free in the general area and the draw reserve, those of the reassembly pool, drawn ones included, by how many the pool is short (07 R385), and the
credits outstanding. -/
structure Cistern where
  mem     : List Host.Cell := []
  poison  : List Nat := []
  refs    : Sparse Nat := []
  gen     : Nat := 0
  reserve : Nat := 0
  pool    : Nat := 0
  short   : Nat := 0
  credits : Nat := 0
  deriving DecidableEq, Repr

/-- The metadata of a page (08 R465): its queue, the queue's next page, its byte count, the offset of its first record header, and the channel
that holds the mirror copy. -/
structure PageMeta where
  q      : Nat := 0
  next   : Option Nat := none
  count  : Nat := 0
  first  : Option Nat := none
  mirror : Nat := 0
  deriving DecidableEq, Repr

/-- A reservoir page (08 R451, R465): its bytes, the beats that carry poison, the record headers in it, each with its offset, length and
frame, and its metadata. -/
structure Page where
  data   : Bytes := []
  poison : List Nat := []
  recs   : List (Nat × Nat × Nat) := []
  info   : PageMeta := {}
  deriving DecidableEq, Repr

/-- A page on its way to a channel (08 R453): its queue, number and content, how many bytes it takes of which frames in order, where the queue's
tail begins behind it, and the header bytes of the last frame that it does not hold. -/
structure Writing where
  q    : Nat
  page : Nat
  body : Page
  cuts : List (Nat × Nat × Nat)
  stop : Nat × Nat
  left : Nat
  deriving DecidableEq, Repr

/-- A geometry of a channel (08 R459, R461): capacity in GiB, ranks, and device width. -/
structure Geometry where
  gib   : Nat
  ranks : Nat
  width : Nat
  deriving DecidableEq, Repr

/-- A reservoir channel: free pages, the page being written, its training outcome while a load waits for it (0 for a failure, else the
capacity in GiB), the geometry that the image states, none for detection, and the geometry in use (08 R453-R476, R919). -/
structure Channel where
  free    : Nat := 0
  writing : Option Writing := none
  result  : Option Nat := none
  want    : Option Geometry := none
  geom    : Option Geometry := none
  deriving DecidableEq, Repr

/-- The reservoir (08): channels, pages, the pages lost until the next load (08 R474), the rotations, and the record stream of the present
millisecond. -/
structure Reservoir where
  chans   : Sparse Channel := []
  pages   : Sparse Page := []
  lost    : List Nat := []
  turn    : Nat := 7
  qturn   : Nat := 0
  dturn   : Nat := 0
  spilled : Nat := 0
  drawn   : Nat := 0
  deriving DecidableEq, Repr

/-! ### Allotments, drovers and the headgate (05, 06) -/

/-- The kind of an allotment (05 R293). -/
inductive Kind where
  | register | range | data
  deriving DecidableEq, Repr

/-- Where an allotment stands (05 R294-R312): waiting for its due instant, kept to its launch instant as held or unranged, handed to
its drover or the headgate, or past its launch commit. -/
inductive Stage where
  | waiting | held | unranged | handed | launched
  deriving DecidableEq, Repr

/-- An entry of the allotment table (05 R293); its launch instant is fixed once it is taken as due. -/
structure Entry where
  id      : Nat := 0
  kind    : Kind := .data
  aid     : Nat := 0
  gaspOk  : Bool := false
  report  : Bool := false
  start   : Nat := 0
  len     : Nat := 0
  launch  : Option DWord := none
  stage   : Stage := .waiting
  deriving DecidableEq, Repr

/-- A terminal message in the pool: its bytes, whether the terminal-message ring brought it (10 R593), and its order of arrival. -/
structure Msg where
  id    : Nat
  bytes : Bytes
  ring  : Bool
  deriving DecidableEq, Repr

/-- A segment reserved by an assembly (06 R336-R341): its queue and the frame bytes it carries. -/
structure Taken where
  q     : Nat
  uid   : Nat
  from_ : Nat
  upto    : Nat
  last  : Bool
  deriving DecidableEq, Repr

/-- State of a drover (06 R324). -/
inductive DroverState where
  | idle | running | stopped | reloading
  deriving DecidableEq, Repr

/-- Why an assembly is to be given up at the next word boundary (06 R344). -/
inductive Abort where
  | hold | silent | deadline | reload
  deriving DecidableEq, Repr

/-- What the ALU slot of the word in progress leaves (06 R335). -/
structure AluOut where
  val   : DWord
  write : Bool
  flags : Option (Bool × Bool × Bool)
  deriving DecidableEq, Repr

/-- What the IO slot of the word in progress leaves (06 R337). -/
structure IoOut where
  dst   : Option DWord := none
  w15   : Option DWord := none
  offer : Option (Bool × Bool) := none
  fail  : Option Bool := none
  deriving DecidableEq, Repr

/-- The drover ledger's open account (14 R739-R742). -/
structure Ledger where
  cls   : Sparse Nat := []
  hist  : Sparse Nat := []
  least : Nat := 0xFFFFFFFF
  deriving DecidableEq, Repr

/-- A tagged word of the assembly (14 R746-R749): its address, stack depth, output time, and ticks it waited. -/
structure Tag where
  pc   : Nat
  sp   : Nat
  time : DWord
  wait : Nat := 0
  deriving DecidableEq, Repr

/-- A drover (06 R321-R347): its state, registers, flags, micro-stack, the entry in assembly and the assembly's number, entries waiting, what it
has reserved, the word in progress, the abort owed, its ledger and its sampling, with how many gaps it has drawn since the last reset
(14 R739-R748). -/
structure Drover where
  st      : DroverState := .idle
  fault   : Nat := 0
  pc      : Nat := 0
  stack   : List Nat := []
  asm     : Nat := 0
  w       : Sparse DWord := []
  z       : Bool := false
  n       : Bool := false
  c       : Bool := false
  qData   : Bool := false
  rem     : Bool := false
  ioFail  : Bool := false
  keyed   : Bool := false
  ovr    : Nat := 0
  frag    : Word := 0
  slot    : Nat := 0
  entry   : Option Entry := none
  waiting : List Entry := []
  segs    : List Taken := []
  msgs    : List Msg := []
  part    : Bool := false
  offer   : Option (Nat × Nat) := none
  robins  : List (Nat × Nat) := []
  begun   : Bool := false
  alu     : Option AluOut := none
  io      : Option IoOut := none
  settled : Option Bool := none
  faulted : List Entry := []
  reload  : Bool := false
  abort   : Option Abort := none
  ledger  : Ledger := {}
  live    : Nat := 0
  gap     : Nat := 0
  draws   : Nat := 0
  tags    : List Tag := []
  tagNow  : Bool := false
  deriving DecidableEq, Repr

/-- Where a round-robin position has been put back (06 R345): the position, the number of the earliest assembly returned so far, and the number
that the next assembly had then. -/
structure RobinMark where
  pos  : Nat
  asm  : Nat
  made : Nat
  deriving DecidableEq, Repr

/-- What a burst is (06 R320). -/
inductive BurstKind where
  | register | range | data | fallback | held
  deriving DecidableEq, Repr

/-- A segment of a committed burst: the queue and priority it came from, the frame bytes it carries, and whether it ends its
frame (06 R340, R345). -/
structure Seg where
  q     : Nat
  prio  : Nat
  frame : QFrame
  last  : Bool
  deriving DecidableEq, Repr

/-- A frame's transparent-clock correction (11 R641-R644): the frame, the bytes it replaced and where in the frame they lie, and
whether it saturated or was left out for an output step. -/
structure TcSave where
  q     : Nat
  uid   : Nat
  steps : Nat
  old   : List (Nat × Bytes) := []
  step  : Bool := false
  sat   : Bool := false
  deriving DecidableEq, Repr

/-- A burst awaiting launch (06 R354, R355, R368): its entry, what it carries, its reports, what a return needs, its assembly's number, and the
frame bytes that the staging FIFO holds of it, from how many reads of the cistern they come, and whether the next one met bad data. -/
structure Burst where
  entry   : Entry
  launch  : DWord
  kind    : BurstKind
  tract   : Nat := 0
  segs    : List Seg := []
  msgs    : List Msg := []
  reports : List Nat := []
  slot    : Nat := 0
  ovr    : Nat := 0
  robins  : List (Nat × Nat) := []
  tc      : List TcSave := []
  asm     : Nat := 0
  got     : Bytes := []
  reads   : Nat := 0
  bad     : Bool := false
  deriving DecidableEq, Repr

/-- The headgate (06 R351-R369): bursts awaiting launch, the BURST_EN edges to come in reach time, the rises of bursts
launched and not yet counted (05 R313), whether BURST_EN is high, and the preamble transfer. -/
structure Gate where
  bursts  : List Burst := []
  edges   : List (DWord × DWord) := []
  rises   : List DWord := []
  high    : Bool := false
  pre     : Bool := false
  deriving DecidableEq, Repr
/-! ### Parsing, classification and cells (01, 02, 07) -/

/-- The parser graph: the 64 bytes of each node (07 R389) and the start node of each class port. -/
structure Parser where
  nodes  : Sparse Bytes := []
  starts : List Nat := []
  deriving DecidableEq, Repr

/-- A rule: VALUE and MASK of 72 bytes, and the action word (07 R401). -/
structure Rule where
  value : Bytes := []
  mask  : Bytes := []
  act   : DWord := 0
  deriving DecidableEq, Repr

/-- State of a version slot (07 R406). -/
inductive SlotState where
  | free | current | draining
  deriving DecidableEq, Repr

/-- A version slot: state, version number, packets that hold it, the physical entry of each position that holds a rule, and the
default action of each class port (07 R406-R412). -/
structure RuleSlot where
  st   : SlotState := .free
  ver  : Word := 0
  ref  : Nat := 0
  pos  : Sparse Nat := []
  defs : Sparse DWord := []
  deriving DecidableEq, Repr

/-- A staged change: at number `index` a position, at number 8192 + port a default action (07 R415). -/
inductive Change where
  | put (r : Rule)
  | remove
  | default (act : DWord)
  deriving DecidableEq, Repr

/-- STATE of CLASS_COMMIT_STATUS; APPLYING with the slot it writes (07 R418). -/
inductive CommitState where
  | idle | waiting
  | applying (slot : Nat)
  deriving DecidableEq, Repr

/-- The content of a RULES section: rules by position, default actions by class port, and the privileged ports (07 R424, R428). -/
structure RuleSet where
  rules : Sparse Rule := []
  defs  : Sparse DWord := []
  privs : List (Word × Word) := []
  deriving DecidableEq, Repr

/-- A privileged port's token bucket: its level in 1/3,125,000 of a token at tick `since` (07 R430). -/
structure Bucket where
  level : Nat := 0
  since : Nat := 0
  deriving DecidableEq, Repr

/-- The classifier: slots, the store of physical entries, entries owed back to it, staged changes, the commit under way with its image
if it is one, token buckets, and the uncorrectable nodes and entries of the tract replicas, as number + tract * 2^14 (07 R406-R438). -/
structure Classifier where
  slots    : Sparse RuleSlot := []
  current  : Nat := 0
  store    : Sparse Rule := []
  owed     : List Nat := []
  staged   : Sparse Change := []
  commit   : CommitState := .idle
  image    : Option RuleSet := none
  buckets  : Sparse Bucket := []
  badNodes : List Nat := []
  badRules : List Nat := []
  deriving DecidableEq, Repr

/-- What a parse walk leaves: HDR_COUNT and the stop flag, the extracted key bytes, the PCP, the last KIND, and the largest bound still
to be compared with L (07 R390-R397). -/
structure Walk where
  flags   : Nat := 0
  key     : Bytes := []
  pcp     : Option Nat := none
  kind    : Nat := 0
  pending : Nat := 0
  deriving DecidableEq, Repr

/-- What becomes of a frame at dispatch: a DROP action, a drop that no action asked for, or its destination. -/
inductive Fate where
  | drop | lost
  | queue (q : Nat)
  | port (p : Nat)
  | ring (r : Nat)
  deriving DecidableEq, Repr

/-- Where a frame's head token is: at its front, in a cell, or on the recirculation path. -/
inductive HeadAt where
  | front | cell | recirc
  deriving DecidableEq, Repr

/-- A frame between its front and the acceptance of its descriptor token (01 R52-R59, 02 R127, 07 R394-R435). -/
structure Flight where
  tag    : Nat
  tok    : Token
  head   : Bytes := []
  data   : Bytes := []
  err    : Bool := false
  runt   : Bool := false
  loc    : HeadAt := .front
  tract  : Nat := 0
  role   : Nat := 0
  cell   : Nat := 0
  since  : Nat := 0
  pass   : Nat := 1
  node   : Nat := 0
  off    : Nat := 0
  walk   : Option Walk := none
  fate   : Option Fate := none
  count  : Nat := 0
  full   : Bool := false
  credit : Nat := 0
  pool   : Nat := 0
  parts  : List Chunk := []
  deriving DecidableEq, Repr

/-- A token that a fenced cell still holds, of a frame already released: its tag, tract and cell (02 R126). -/
structure Ghost where
  tag   : Nat
  tract : Nat
  cell  : Nat
  deriving DecidableEq, Repr

/-! ### The host unit's engines (10) -/

/-- STATE of a ring (10 R561). -/
inductive RingState where
  | disabled | running | halted | stopping
  deriving DecidableEq, Repr

/-- A buffer descriptor that a ring has fetched (10 R570): its address, its buffer and length, its bits, how many descriptors the ring
had read when it came, and the bytes a receive frame has put into it. -/
structure Desc where
  addr : DWord
  buf  : DWord
  len  : Nat
  int_ : Bool := false
  eop  : Bool := false
  l4   : Bool := false
  ip4  : Bool := false
  ts   : Bool := false
  nth  : Nat := 0
  used : Nat := 0
  deriving DecidableEq, Repr

/-- A frame that is done and not yet written back (10 R581, R582): its descriptors, dwords 4 to 6, dword 7 apart from EOP and BYTES,
whether BYTES is written, and the tag of a frame that waits for its timestamp outcome (10 R588). -/
structure DoneFrame where
  descs : List Desc
  w4    : Word := 0
  w5    : Word := 0
  w6    : Word := 0
  w7    : Word := 0
  rx    : Bool := false
  wait  : Option Nat := none
  deriving DecidableEq, Repr

/-- What a receive ring takes: a frame, or a head-end message with its convoy's reach time and number, and whether the device consumed it as
well (03 R167, 10 R595). -/
inductive RxItem where
  | frame (f : QFrame)
  | hem (bytes : Bytes) (time : DWord) (number : Word) (copied : Bool)
  deriving DecidableEq, Repr

/-- A receive frame in progress: its bytes, whether they are good, how many are written, and the descriptors it has used. -/
structure RxCur where
  item  : RxItem
  bytes : Bytes
  good  : Bool
  off   : Nat := 0
  descs : List Desc := []
  deriving DecidableEq, Repr

/-- What a front stamps a frame with when its head token starts (07 R410, 11 R644): slot and version number, output time, and the count of
output steps. -/
structure FrontStamp where
  slot  : Nat
  ver   : Word
  stamp : DWord
  steps : Nat
  deriving DecidableEq, Repr

/-- A descriptor ring (10 R561-R603): its state, what enabling latched, where it fetches, its counts modulo 2^16, the descriptors read and
those read when its last frame ended (R579), those fetched and unused, the transmit frame in progress with its front stamp, the frames done,
the timestamp sequence, what waits for a receive ring, and whether a read of a descriptor or of a buffer hangs (R540). -/
structure Ring where
  st      : RingState := .disabled
  reason  : Nat := 0
  atBuf   : Bool := false
  base    : DWord := 0
  size    : Nat := 0
  chained : Bool := false
  fetch   : DWord := 0
  idx     : Nat := 0
  head    : Nat := 0
  tail    : Nat := 0
  fetched : Nat := 0
  reads   : Nat := 0
  mark    : Nat := 0
  descs   : List Desc := []
  taken   : List Desc := []
  part    : Bytes := []
  got     : Nat := 0
  front   : Option FrontStamp := none
  done    : List DoneFrame := []
  seq     : Nat := 0
  inbox   : List RxItem := []
  cur     : Option RxCur := none
  hungFetch : Bool := false
  hungRead  : Bool := false
  deriving DecidableEq, Repr

/-- A block DMA channel's transfer (10 R547-R560): whether it has begun under R545, its length, the offset of its next beat, and the bytes
read that wait for the rest of their word under SWAP (R555), and whether its read hangs (R540). -/
structure Dma where
  busy  : Bool := false
  begun : Bool := false
  total : Nat := 0
  off   : Nat := 0
  held  : Bytes := []
  hung  : Bool := false
  deriving DecidableEq, Repr

/-! ### Client ports (09) -/

/-- A frame in transmission: when its last bit leaves (in ps), its bytes with padding and FCS, the granules it holds, whether it ends with
an error (09 R510), and the counter of the generated frame that it is, if it is one (17 PAUSE, 18 PFC). -/
structure TxCur where
  ends  : Nat
  bytes : Bytes
  parts : List Chunk := []
  bad   : Bool := false
  gen   : Option Nat := none
  deriving DecidableEq, Repr

/-- What a client port sends between frames (09 R484, R487, R488, R493): nothing, its lanes being electrically idle, or the idle or the
remote-fault stream of a speed. -/
inductive Signal where
  | off
  | idle (speed : Nat)
  | remoteFault (speed : Nat)
  deriving DecidableEq, Repr

/-- A client port: link and faults, speed and its detection (in ticks), the transmit queue, the frame in transmission and when the next may
begin, received timers with the end of the 60 ns and of the stop (in ps), the advertised set and the start of the last generated frame
(09 R486-R524, R922). -/
structure Port where
  link      : Bool := false
  lf        : Bool := false
  rf        : Bool := false
  detecting : Bool := false
  speed     : Nat := 0
  tryAt     : Nat := 0
  upAt      : Nat := 0
  downAt    : Nat := 0
  txq       : List QFrame := []
  cur       : Option TxCur := none
  idleAt    : Nat := 0
  pause     : Option (Nat × Nat) := none
  pfc       : Sparse (Option (Nat × Nat)) := []
  told      : Nat := 0
  genAt     : Option Nat := none
  sends     : Signal := .off
  deriving DecidableEq, Repr

/-! ### Scan engines (13) -/

/-- A scan engine's computation: whether it is busy, the running value, the bytes of the range processed, and whether
its read hangs (10 R540, 13 R700-R711). -/
structure Scan where
  busy : Bool := false
  crc  : DWord := 0
  off  : Nat := 0
  hung : Bool := false
  deriving DecidableEq, Repr

/-! ### Images (15) -/

/-- STATE of IMAGE_STATUS (15 R809). -/
inductive LoaderState where
  | idle | reading | checking | waiting | applying | writing
  deriving DecidableEq, Repr

/-- The SPI NOR flash (15 R758-R762): whether a part that FLASH_OK accepts is fitted, the sector of each directory copy, and the
image in each area. -/
structure Flash where
  ok    : Bool := false
  dirs  : Sparse Bytes := []
  areas : Sparse Bytes := []
  deriving DecidableEq, Repr

/-- The image loader (15 R779-R811): its state, whether it works for the boot, whether MODE stays LOADING until a device-scope commit
succeeds, whether a read of it hangs (10 R540), the staging store, what is in force, how many steps of storing it are done (15 R802), the last refusal, and what of the STRUCTURE and TIMING sections in force no register shows:
TRACT_EN, the lane bytes and the DDR5 timing. -/
structure Loader where
  st      : LoaderState := .idle
  boot    : Bool := false
  stuck   : Bool := false
  hung    : Bool := false
  staged  : Bytes := []
  source  : Nat := 0
  version : Word := 0
  partial_ : Bool := false
  stale   : Bool := false
  wrote   : Nat := 0
  reason  : Nat := 0
  detail  : Nat := 0
  tractEn : Nat := 0
  lineLanes : Bytes := []
  clientLanes : Bytes := []
  ddr     : Bytes := []
  deriving DecidableEq, Repr

/-! ### What leaves the device -/

/-- What the device puts on a pin, a line, a bus or an interface (log 6, DESIGN CHOICE), oldest first in `State.wire`. -/
inductive Output where
  /-- CORE_EN driven high or low (17 R873). -/
  | coreEn (high : Bool)
  /-- PPS_OUT rises (11 R654). -/
  | pps
  /-- The ToD message on TOD_OUT (11 R656). -/
  | tod (bytes : Bytes)
  /-- An AVSBus frame to the rail of a tract (16 R848). -/
  | avs (t : Nat) (frame : Word)
  /-- An MSI-X message: its attributes, vector, address and data (10 R539, 12 R677). -/
  | msix (attr : BitVec 3) (n : Nat) (addr : DWord) (data : Word)
  /-- A burst: the reach time at which its codeword set 0 begins, its content, and the codewords of each pin LLn (03 R185-R196, 06
  R356-R361). -/
  | burst (first : DWord) (content : Bytes) (lanes : List (List (BitVec 5600)))
  /-- The codeword of IDLE blocks that each pin LLn carries from here on until the next burst (06 R362). -/
  | lineIdle (lanes : List (BitVec 5600))
  /-- BURST_EN rises or falls, at a reach time (06 R357, R358, R363). -/
  | burstEn (high : Bool) (at_ : DWord)
  /-- A preamble transfer to the transceiver, with PRE_STB high throughout: PRE_D1 and PRE_D0 at each edge of its 128 cycles of PRE_CLK, from the
  first rising one (06 R364, 17 R891). -/
  | preamble (edges : List (Bool × Bool))
  /-- A sideband frame or transaction: LINE_SB_CMD as sent (17 R900). -/
  | sideband (cmd : Word)
  /-- A management read's four octets, most significant first (17 R902). -/
  | mgtData (v : Word)
  /-- The management target does not acknowledge its address (0), or an octet of the offset (17 R901, R903). -/
  | mgtNack (octet : Nat)
  /-- A memory write over PCI Express: its attributes Relaxed Ordering, ID-Based Ordering and No Snoop, its address and bytes (10 R539). -/
  | hostWrite (attr : BitVec 3) (addr : DWord) (bytes : Bytes)
  /-- A memory read over PCI Express: its attributes, address and length (10 R539). -/
  | hostRead (attr : BitVec 3) (addr : DWord) (len : Nat)
  /-- What a configuration read returns (10 R537). -/
  | configData (v : Word)
  /-- A client port has sent a frame: its bytes from the destination address on, and whether it ends in error, with a PCS error or cut off
  (09 R507, R509, R510). -/
  | frame (p : Nat) (bytes : Bytes) (err : Bool)
  /-- What a client port sends between frames from here on (09 R484, R487, R488, R493). -/
  | signal (p : Nat) (what : Signal)
  /-- The port that each client lane belongs to and whether its transmit polarity is inverted; none where its transmitter is electrically idle
  (09 R481, R484, 15 R766). -/
  | clientLanes (lanes : List (Option (Nat × Bool)))
  /-- The completion of a host read (00 R910), and whether it carries the poisoned bit (08 R444). -/
  | readData (bytes : Bytes) (poisoned : Bool)
  deriving DecidableEq, Repr

/-! ### Arbiters (01 R38-R41) -/

/-- An arbiter whose requests are served by commands of their own: the input of a logical role, fed by the fronts; the queue manager of a tract,
a client port's and a receive ring's end of the egress switch, each fed by the cells; the delivery of messages, fed by the targets; the host
unit, shared by block DMA (0), the frame path (1) and the host scans (2 to 5, 13 R717); the operations in flight, for which rings (0 to 511) and DMA
channels (512 to 575) wait (10 R545); and a bank of the cistern, where drovers (0 to 7), DMA channels (8 to 71) and scans (72 to 75) meet. -/
inductive Arbiter where
  | role (t role : Nat)
  | queueIn (t : Nat)
  | portIn (p : Nat)
  | ringIn (r : Nat)
  | message
  | link
  | ops
  | bank (n : Nat)
  deriving DecidableEq, Repr

/-- An input that has lost at an arbiter: the winner is not granted again before it (01 R39). -/
structure Turn where
  at_    : Arbiter
  winner : Nat
  loser  : Nat
  deriving DecidableEq, Repr

/-! ### The state -/

/-- The whole state. `past` keeps the writes to the receive settings of client ports, newest first: the tick, the register, and what it held
before (09 R496, R497, R528, 11 R632). -/
structure State where
  pending   : List Instr := []
  wire      : List Output := []
  free      : Nat := 0
  now       : Nat := 0
  fuses     : Fuses := {}
  power     : Power := {}
  mode      : ModeState := {}
  keeper    : Keeper := {}
  time      : TimeUnit := {}
  line      : Line := {}
  keys      : Keys := {}
  reasm     : Reasm := {}
  intc      : Intc := {}
  host      : HostUnit := {}
  perf      : Perf := {}
  paces     : Sparse Pace := []
  serial    : Nat := 1
  past      : List (Nat × Nat × Word) := []
  turns     : List Turn := []
  cistern   : Cistern := {}
  res       : Reservoir := {}
  queues    : Sparse Queue := []
  robins    : Sparse Nat := []
  marks     : Sparse (Option RobinMark) := []
  table     : List Entry := []
  drovers   : Sparse Drover := []
  store     : Sparse (BitVec 192) := []
  gate      : Gate := {}
  msgs      : List Msg := []
  parser    : Parser := {}
  cls       : Classifier := {}
  flights   : List Flight := []
  ghosts    : List Ghost := []
  toQueue   : List (Nat × QFrame) := []
  toPort    : List (Nat × QFrame) := []
  rings     : Sparse Ring := []
  dmas      : Sparse Dma := []
  scans     : Sparse Scan := []
  ports     : Sparse Port := []
  flash     : Flash := {}
  loader    : Loader := {}
  regs      : Sparse Word := []
  deriving DecidableEq, Repr

/-- The state just after VKEEP power-up with the core leaving reset (log 9, DESIGN CHOICE): every field holds the value the spec gives
for reset, or the one the log names. -/
def State.reset : State := {}

end Sys2Proof.Machine
end

