-- ==== Sys2Proof/Machine/RegMap.lean ====
section
/-!
DEFINITION. The register map: the BAR0 offset of every register (00 R24 and the register tables of each chapter), the
table of what its bits take on a write, and its reset value. Names are the manual's. A pair (00 R30) is named by its LO register.
-/
namespace Sys2Proof.Machine

namespace R

abbrev GLOBAL_UNIT_PRESENT : Nat := 4
abbrev GLOBAL_MODE_CTL : Nat := 0x10
abbrev GLOBAL_MODE_STATUS : Nat := 0x14
abbrev GLOBAL_RESET_CAUSE : Nat := 0x18
abbrev GLOBAL_SOFT_RESET : Nat := 0x1c
abbrev GLOBAL_TEMP : Nat := 0x20
abbrev GLOBAL_TEMP_ALERT : Nat := 0x24
abbrev GLOBAL_STRAPS : Nat := 0x28
abbrev GLOBAL_SPREAD_UP (p : Nat) : Nat := 0x400 + p * 4
abbrev GLOBAL_SPREAD_DN (p : Nat) : Nat := 0x480 + p * 4
abbrev KEEPER_RTC_SEC : Nat := 0x10000
abbrev KEEPER_RTC_SUB : Nat := 0x10008
abbrev KEEPER_RTC_SET : Nat := 0x10010
abbrev KEEPER_RTC_CTL : Nat := 0x10018
abbrev KEEPER_ALARM : Nat := 0x10020
abbrev KEEPER_ALARM_CTL : Nat := 0x10028
abbrev KEEPER_TOD_SEC : Nat := 0x10030
abbrev KEEPER_TOD_STATE : Nat := 0x10038
abbrev KEEPER_TOD_TRIM : Nat := 0x1003c
abbrev KEEPER_WAKE_CTL : Nat := 0x10040
abbrev KEEPER_WAKE_CAUSE : Nat := 0x10044
abbrev KEEPER_EVENT : Nat := 0x10048
abbrev KEEPER_PWR_CTL : Nat := 0x1004c
abbrev KEEPER_SC_CTL (p : Nat) : Nat := 0x10100 + p * 0x10
abbrev KEEPER_SC_FILT (p : Nat) : Nat := 0x10104 + p * 0x10
abbrev KEEPER_SC_STATE (p : Nat) : Nat := 0x10108 + p * 0x10
abbrev KEEPER_LOG_NEXT : Nat := 0x10200
abbrev KEEPER_LOG_SEL : Nat := 0x10204
abbrev KEEPER_LOG_OVER : Nat := 0x10208
abbrev KEEPER_LOG_E (p : Nat) : Nat := 0x10210 + p * 4
abbrev IMAGE_CMD : Nat := 0x20000
abbrev IMAGE_STATUS : Nat := 0x20004
abbrev IMAGE_SRC : Nat := 0x20008
abbrev IMAGE_FLOOR : Nat := 0x20010
abbrev IMAGE_FLOOR_LEFT : Nat := 0x20014
abbrev IMAGE_FLOOR_SET : Nat := 0x20018
abbrev IMAGE_VER_FORCE : Nat := 0x20020
abbrev IMAGE_VER_CURRENT : Nat := 0x20024
abbrev IMAGE_VER_PREVIOUS : Nat := 0x20028
abbrev IMAGE_SLOT_VALID : Nat := 0x2002c
abbrev IMAGE_EVENT : Nat := 0x20030
abbrev IMAGE_HASH (p : Nat) : Nat := 0x20040 + p * 4
abbrev IMAGE_KEYHASH (p : Nat) : Nat := 0x20080 + p * 4
abbrev IMAGE_CNT_FLUSH : Nat := 0x20100
abbrev FAULT_SUMMARY : Nat := 0x30000
abbrev FAULT_CLIENT_SUMMARY : Nat := 0x30004
abbrev INTC_HT_STATE : Nat := 0x100000
abbrev INTC_HT_IDLE : Nat := 0x100004
abbrev INTC_WATCHER : Nat := 0x100008
abbrev INTC_STRAND_LIMIT : Nat := 0x10000c
abbrev INTC_STRANDED : Nat := 0x100010
abbrev INTC_RETARGET : Nat := 0x100014
abbrev INTC_SWI : Nat := 0x100018
abbrev INTC_GROUP (p : Nat) : Nat := 0x100200 + p * 4
abbrev INTC_PEND (p : Nat) : Nat := 0x100400 + p * 4
abbrev INTC_LINE (p : Nat) : Nat := 0x100480 + p * 4
abbrev INTC_SRC_CFG (p : Nat) : Nat := 0x101000 + p * 4
abbrev INTC_HT_SUMMARY (p : Nat) : Nat := 0x110000 + p * 0x1000
abbrev INTC_HT_PRIV (p : Nat) : Nat := 0x110004 + p * 0x1000
abbrev INTC_HT_PRIV_MASK (p : Nat) : Nat := 0x110008 + p * 0x1000
abbrev INTC_HT_CNT_MSG (p : Nat) : Nat := 0x11000c + p * 0x1000
abbrev INTC_HT_CNT_EMPTY (p : Nat) : Nat := 0x110010 + p * 0x1000
abbrev INTC_HT_BANK (p q : Nat) : Nat := 0x110080 + p * 0x1000 + q * 4
abbrev CHECK_SRC (p : Nat) : Nat := 0x180000 + p * 0x100
abbrev CHECK_LEN (p : Nat) : Nat := 0x180008 + p * 0x100
abbrev CHECK_FOLD (p : Nat) : Nat := 0x180010 + p * 0x100
abbrev CHECK_EXPECT (p : Nat) : Nat := 0x180018 + p * 0x100
abbrev CHECK_STORE_ADDR (p : Nat) : Nat := 0x180020 + p * 0x100
abbrev CHECK_CTL (p : Nat) : Nat := 0x180028 + p * 0x100
abbrev CHECK_STATE (p : Nat) : Nat := 0x18002c + p * 0x100
abbrev CHECK_COMPUTED (p : Nat) : Nat := 0x180030 + p * 0x100
abbrev CHECK_STORED (p : Nat) : Nat := 0x180038 + p * 0x100
abbrev CHECK_ERR_OFFSET (p : Nat) : Nat := 0x180040 + p * 0x100
abbrev CHECK_DONE_SUM : Nat := 0x180400
abbrev DMA_DONE_SUM : Nat := 0x200000
abbrev DMA_SRC (p : Nat) : Nat := 0x201000 + p * 0x40
abbrev DMA_DST (p : Nat) : Nat := 0x201008 + p * 0x40
abbrev DMA_COUNT (p : Nat) : Nat := 0x201010 + p * 0x40
abbrev DMA_CTL (p : Nat) : Nat := 0x201014 + p * 0x40
abbrev DMA_STATE (p : Nat) : Nat := 0x201018 + p * 0x40
abbrev DMA_REC (p : Nat) : Nat := 0x201020 + p * 0x40
abbrev DMA_ERR_OFFSET (p : Nat) : Nat := 0x201028 + p * 0x40
abbrev RING_WALK_LIMIT : Nat := 0x300000
abbrev RING_INFLIGHT : Nat := 0x300004
abbrev RING_INFLIGHT_PEAK : Nat := 0x300008
abbrev RING_RX_BACKLOG : Nat := 0x300010
abbrev RING_HALTED (p : Nat) : Nat := 0x300100 + p * 4
abbrev RING_CTL (p q : Nat) : Nat := 0x310000 + p * 0x10000 + q * 0x40
abbrev RING_STATUS (p q : Nat) : Nat := 0x310004 + p * 0x10000 + q * 0x40
abbrev RING_BASE (p q : Nat) : Nat := 0x310008 + p * 0x10000 + q * 0x40
abbrev RING_HEAD (p q : Nat) : Nat := 0x310010 + p * 0x10000 + q * 0x40
abbrev RING_TAIL (p q : Nat) : Nat := 0x310014 + p * 0x10000 + q * 0x40
abbrev RING_HALT_ADDR (p q : Nat) : Nat := 0x310018 + p * 0x10000 + q * 0x40
abbrev RING_EVENT (p q : Nat) : Nat := 0x310020 + p * 0x10000 + q * 0x40
abbrev RING_CNT_FRAMES (p q : Nat) : Nat := 0x310024 + p * 0x10000 + q * 0x40
abbrev RING_CNT_BAD (p q : Nat) : Nat := 0x310028 + p * 0x10000 + q * 0x40
abbrev RING_CNT_ABANDON (p q : Nat) : Nat := 0x31002c + p * 0x10000 + q * 0x40
abbrev RING_CNT_OFF (p q : Nat) : Nat := 0x310030 + p * 0x10000 + q * 0x40
abbrev RING_DB_TAIL (p q : Nat) : Nat := 0x3000000 + p * 0x100000 + q * 0x1000
abbrev RING_DB_HEAD (p q : Nat) : Nat := 0x3000004 + p * 0x100000 + q * 0x1000
abbrev RING_DB_EVENT (p q : Nat) : Nat := 0x3000008 + p * 0x100000 + q * 0x1000
abbrev TIME_REACH : Nat := 0x400010
abbrev TIME_REACH_INCR : Nat := 0x400018
abbrev TIME_REACH_RESID : Nat := 0x400020
abbrev TIME_REACH_STATUS : Nat := 0x400024
abbrev TIME_EVENT : Nat := 0x400040
abbrev TIME_CNT (p : Nat) : Nat := 0x400100 + p * 0x100
abbrev TIME_INCR (p : Nat) : Nat := 0x400108 + p * 0x100
abbrev TIME_SERVO_CTL (p : Nat) : Nat := 0x400110 + p * 0x100
abbrev TIME_SERVO_STATUS (p : Nat) : Nat := 0x400114 + p * 0x100
abbrev TIME_RESID (p : Nat) : Nat := 0x400118 + p * 0x100
abbrev TIME_ASYM (p : Nat) : Nat := 0x40011c + p * 0x100
abbrev TIME_THRESH (p : Nat) : Nat := 0x400120 + p * 0x100
abbrev TIME_LOCK (p : Nat) : Nat := 0x400124 + p * 0x100
abbrev TIME_EPOCH_SEC (p : Nat) : Nat := 0x400130 + p * 0x100
abbrev TIME_EPOCH_NS (p : Nat) : Nat := 0x400138 + p * 0x100
abbrev TIME_EPOCH_UTC (p : Nat) : Nat := 0x40013c + p * 0x100
abbrev TIME_EPOCH_REF (p : Nat) : Nat := 0x400140 + p * 0x100
abbrev TIME_TOD (p : Nat) : Nat := 0x400148 + p * 0x100
abbrev TIME_TOD_NS (p : Nat) : Nat := 0x400150 + p * 0x100
abbrev TIME_OUT_CTL : Nat := 0x400300
abbrev TIME_OUT_STATUS : Nat := 0x400304
abbrev TIME_OUT_REMAIN : Nat := 0x400308
abbrev TIME_OUT : Nat := 0x400310
abbrev TIME_PPS_CTL : Nat := 0x400400
abbrev TIME_PPS_OFFSET : Nat := 0x400404
abbrev TIME_TOD_CTL : Nat := 0x400408
abbrev TIME_WIN_CTL (p : Nat) : Nat := 0x400500 + p * 0x20
abbrev TIME_WIN_START (p : Nat) : Nat := 0x400504 + p * 0x20
abbrev TIME_WIN_END (p : Nat) : Nat := 0x40050c + p * 0x20
abbrev TIME_WIN_FRAMES (p : Nat) : Nat := 0x400514 + p * 0x20
abbrev TIME_WIN_BYTES (p : Nat) : Nat := 0x400518 + p * 0x20
abbrev TIME_TXQ_STATUS : Nat := 0x400700
abbrev TIME_TXQ_OVERFLOW : Nat := 0x400704
abbrev TIME_TXQ_W0 : Nat := 0x400708
abbrev TIME_TXQ_W (p : Nat) : Nat := 0x40070c + p * 4
abbrev TIME_TC_CTL : Nat := 0x400780
abbrev TIME_TC_ADD (p : Nat) : Nat := 0x400784 + p * 4
abbrev TIME_TC_CNT : Nat := 0x40078c
abbrev TIME_TC_CNT_STEP : Nat := 0x400790
abbrev TIME_TC_CNT_SAT : Nat := 0x400794
abbrev TIME_CORR_RX (p q : Nat) : Nat := 0x400800 + p * 0x20 + q * 4
abbrev TIME_CORR_TX (p q : Nat) : Nat := 0x400810 + p * 0x20 + q * 4
abbrev TIME_SCHED_CTL (p : Nat) : Nat := 0x400a00 + p * 0x20
abbrev TIME_SCHED_AT (p : Nat) : Nat := 0x400a04 + p * 0x20
abbrev TIME_SCHED_ADDR (p : Nat) : Nat := 0x400a0c + p * 0x20
abbrev TIME_SCHED_DATA (p : Nat) : Nat := 0x400a10 + p * 0x20
abbrev TIME_SCHED_DONE (p : Nat) : Nat := 0x400a14 + p * 0x20
abbrev LINE_RLF_STATUS : Nat := 0x500000
abbrev LINE_CONVOY_LAST : Nat := 0x500008
abbrev LINE_BURST_P : Nat := 0x500010
abbrev LINE_CNT_CONVOY : Nat := 0x500040
abbrev LINE_CNT_CONVOY_BAD : Nat := 0x500044
abbrev LINE_CNT_CONVOY_GAP : Nat := 0x500048
abbrev LINE_CNT_FEC_CORR : Nat := 0x50004c
abbrev LINE_CNT_FEC_UNCORR : Nat := 0x500050
abbrev LINE_CNT_MAP_BAD : Nat := 0x500054
abbrev LINE_CNT_HEM_BAD : Nat := 0x500058
abbrev LINE_CNT_HEM_DROP : Nat := 0x50005c
abbrev LINE_CNT_SEG_BAD : Nat := 0x500060
abbrev LINE_CNT_SEG_KEY : Nat := 0x500064
abbrev LINE_CNT_REASM_OK : Nat := 0x500068
abbrev LINE_CNT_REASM_DROP : Nat := 0x50006c
abbrev LINE_CNT_REG_SENT : Nat := 0x500070
abbrev LINE_CNT_RANGE_SENT : Nat := 0x500074
abbrev LINE_CNT_ALLOT_UNRANGED : Nat := 0x500078
abbrev LINE_PM (p : Nat) : Nat := 0x500200 + p * 4
abbrev LINE_REASM_CTL : Nat := 0x500300
abbrev LINE_REASM_POOL : Nat := 0x500304
abbrev LINE_HEM_CTL : Nat := 0x500310
abbrev LINE_LOGICAL_REACH : Nat := 0x500400
abbrev LINE_EQD : Nat := 0x500404
abbrev LINE_RTT : Nat := 0x500408
abbrev LINE_REG_CTL : Nat := 0x500410
abbrev LINE_STEP_THRESH : Nat := 0x500414
abbrev LINE_RANGE_EVENT : Nat := 0x500418
abbrev LINE_TID : Nat := 0x50041c
abbrev LINE_SERIAL : Nat := 0x500420
abbrev LINE_RTT_STEP : Nat := 0x500428
abbrev LINE_HG_LEAD : Nat := 0x500500
abbrev LINE_ADMIT_HORIZON : Nat := 0x500504
abbrev LINE_ALLOT_EXPIRED : Nat := 0x500510
abbrev LINE_CNT_ALLOT_ADMITTED : Nat := 0x500514
abbrev LINE_CNT_ALLOT_OVERLAP : Nat := 0x500518
abbrev LINE_CNT_ALLOT_UNDEF : Nat := 0x50051c
abbrev LINE_CNT_ALLOT_SHORT : Nat := 0x500520
abbrev LINE_CNT_ALLOT_FAR : Nat := 0x500524
abbrev LINE_CNT_ALLOT_FULL : Nat := 0x500528
abbrev LINE_CNT_ALLOT_HELD : Nat := 0x50052c
abbrev LINE_CNT_ALLOT_EMPTY : Nat := 0x500530
abbrev LINE_CNT_ALLOT_LAUNCHED : Nat := 0x500534
abbrev LINE_HG_BURST_EN : Nat := 0x500600
abbrev LINE_HG_STAGE : Nat := 0x500604
abbrev LINE_HG_STATUS : Nat := 0x500608
abbrev LINE_GASP_CTL : Nat := 0x500610
abbrev LINE_GASP_LAUNCH : Nat := 0x500618
abbrev LINE_CNT_HG_FALLBACK : Nat := 0x500620
abbrev LINE_CNT_HG_HELD : Nat := 0x500624
abbrev LINE_CNT_HG_RETURNED : Nat := 0x500628
abbrev LINE_CNT_HG_GATHER : Nat := 0x50062c
abbrev LINE_CNT_GASP : Nat := 0x500630
abbrev LINE_HG_PREAMBLE (p : Nat) : Nat := 0x500640 + p * 4
abbrev LINE_SB_CMD : Nat := 0x500700
abbrev LINE_SB_STATUS : Nat := 0x500704
abbrev LINE_LANE_TXEQ (p : Nat) : Nat := 0x500740 + p * 4
abbrev CIPHER_KEY_STATUS : Nat := 0x580000
abbrev CIPHER_UP_SLOT : Nat := 0x580004
abbrev CIPHER_ID_PUB (p : Nat) : Nat := 0x580100 + p * 4
abbrev CIPHER_HE_KEYHASH (p : Nat) : Nat := 0x580200 + p * 4
abbrev CLIENT_PORT_CFG (p : Nat) : Nat := 0x600000 + p * 0x8000
abbrev CLIENT_PORT_STATUS (p : Nat) : Nat := 0x600004 + p * 0x8000
abbrev CLIENT_RX_CTL (p : Nat) : Nat := 0x600008 + p * 0x8000
abbrev CLIENT_FC_CTL (p : Nat) : Nat := 0x60000c + p * 0x8000
abbrev CLIENT_TX_CTL (p : Nat) : Nat := 0x600010 + p * 0x8000
abbrev CLIENT_FC_STATE (p : Nat) : Nat := 0x600014 + p * 0x8000
abbrev CLIENT_EVENT (p : Nat) : Nat := 0x600018 + p * 0x8000
abbrev CLIENT_RUNT_CAP (p : Nat) : Nat := 0x600020 + p * 0x8000
abbrev CLIENT_RUNT_TIME (p : Nat) : Nat := 0x600024 + p * 0x8000
abbrev CLIENT_STAT_PRESET (p : Nat) : Nat := 0x600030 + p * 0x8000
abbrev CLIENT_STAT_PRESET_V (p : Nat) : Nat := 0x600034 + p * 0x8000
abbrev CLIENT_MAC_ADDR (p q : Nat) : Nat := 0x600100 + p * 0x8000 + q * 8
abbrev CP_STAT (p q : Nat) : Nat := 0x601000 + p * 0x8000 + q * 8
abbrev CLIENT_WAKE_HIT : Nat := 0x700000
abbrev CLIENT_WAKE_FIRST : Nat := 0x700004
abbrev CLIENT_LANE_TXEQ (p : Nat) : Nat := 0x700800 + p * 4
abbrev CLIENT_WAKE_CTL (p : Nat) : Nat := 0x701000 + p * 0x100
abbrev CLIENT_WAKE_MASK (p q : Nat) : Nat := 0x701010 + p * 0x100 + q * 4
abbrev CLIENT_WAKE_DATA (p q : Nat) : Nat := 0x701080 + p * 0x100 + q * 4
abbrev CLASS_COMMIT_CTL : Nat := 0x800000
abbrev CLASS_COMMIT_STATUS : Nat := 0x800004
abbrev CLASS_SLOT (p : Nat) : Nat := 0x800010 + p * 4
abbrev CLASS_SLOT_VER (p : Nat) : Nat := 0x800020 + p * 4
abbrev CLASS_STORE_FREE : Nat := 0x800030
abbrev CLASS_STAGE_CMD : Nat := 0x800100
abbrev CLASS_STAGE_STATUS : Nat := 0x800104
abbrev CLASS_STAGE_ACT : Nat := 0x800108
abbrev CLASS_STAGE_KEY (p : Nat) : Nat := 0x800140 + p * 4
abbrev CLASS_STAGE_MASK (p : Nat) : Nat := 0x800190 + p * 4
abbrev CLASS_PRIV (p : Nat) : Nat := 0x800580 + p * 8
abbrev CLASS_PRIV_RATE (p : Nat) : Nat := 0x800584 + p * 8
abbrev CLASS_EVENT : Nat := 0x8005c0
abbrev CLASS_CNT (p : Nat) : Nat := 0x800600 + p * 4
abbrev CLASS_RULE_SEL : Nat := 0x800800
abbrev CLASS_RULE_KEY (p : Nat) : Nat := 0x800840 + p * 4
abbrev CLASS_RULE_MASK (p : Nat) : Nat := 0x800890 + p * 4
abbrev CLASS_RULE_ACT : Nat := 0x8008e0
abbrev CLASS_ACT_CNT (p : Nat) : Nat := 0x801000 + p * 4
abbrev BUFFER_CIS_FREE : Nat := 0xa00000
abbrev BUFFER_CIS_QUEUED : Nat := 0xa00004
abbrev BUFFER_CIS_SPILL_WM : Nat := 0xa00008
abbrev BUFFER_CIS_RESERVE : Nat := 0xa0000c
abbrev BUFFER_CIS_DRAW_WM : Nat := 0xa00010
abbrev BUFFER_CIS_ECC_CORR : Nat := 0xa00014
abbrev BUFFER_CIS_ECC_UNCORR : Nat := 0xa00018
abbrev BUFFER_CNT_NOBUF (p : Nat) : Nat := 0xa00020 + p * 4
abbrev BUFFER_RES_CH_CFG (p : Nat) : Nat := 0xa00100 + p * 0x20
abbrev BUFFER_RES_CH_FREE (p : Nat) : Nat := 0xa00104 + p * 0x20
abbrev BUFFER_RES_CH_CORR (p : Nat) : Nat := 0xa00108 + p * 0x20
abbrev BUFFER_RES_CH_UNCORR (p : Nat) : Nat := 0xa0010c + p * 0x20
abbrev BUFFER_RES_PAGES_FREE : Nat := 0xa00200
abbrev BUFFER_RES_USED_PEAK : Nat := 0xa00204
abbrev BUFFER_RES_PAGES_LOST : Nat := 0xa00208
abbrev BUFFER_RES_LOW_WM : Nat := 0xa0020c
abbrev BUFFER_RES_RATE : Nat := 0xa00210
abbrev BUFFER_Q_RECOVER : Nat := 0xa00214
abbrev BUFFER_Q_SEL : Nat := 0xa00218
abbrev BUFFER_Q_RES : Nat := 0xa0021c
abbrev BUFFER_CNT_POISON_DROP : Nat := 0xa00220
abbrev BUFFER_CNT_RECOVER_DROP : Nat := 0xa00224
abbrev BUFFER_EVENT : Nat := 0xa00230
abbrev PERF_TALLY_CTL : Nat := 0xc00000
abbrev PERF_TALLY_INTERVAL : Nat := 0xc00004
abbrev PERF_TALLY_BASE : Nat := 0xc00008
abbrev PERF_TALLY_SEQ : Nat := 0xc00010
abbrev PERF_TALLY_SKIP : Nat := 0xc00014
abbrev PERF_USER_EN : Nat := 0xc00020
abbrev PERF_EVENT : Nat := 0xc00030
abbrev PERF_SAMPLE_CTL : Nat := 0xc00040
abbrev PERF_SAMPLE_STATUS : Nat := 0xc00044
abbrev PERF_SAMPLE_LOST : Nat := 0xc00048
abbrev PERF_SAMPLE_W0 : Nat := 0xc00050
abbrev PERF_SAMPLE_W (p : Nat) : Nat := 0xc00054 + p * 4
abbrev PERF_ACC_CTL (p : Nat) : Nat := 0xc00100 + p * 0x20
abbrev PERF_ACC_START (p : Nat) : Nat := 0xc00108 + p * 0x20
abbrev PERF_ACC_END (p : Nat) : Nat := 0xc00110 + p * 0x20
abbrev PERF_ACC_CNT (p : Nat) : Nat := 0xc00118 + p * 0x20
abbrev PERF_ACC_PRESET : Nat := 0xc00200
abbrev PERF_ACC_PRESET_LO : Nat := 0xc00204
abbrev PERF_ACC_PRESET_HI : Nat := 0xc00208
abbrev PERF_USER_WIN (p q : Nat) : Nat := 0xc10000 + p * 0x1000 + q * 4
abbrev QUEUE_ALLOT_COUNT : Nat := 0x1000000
abbrev QUEUE_ALLOT_PEAK : Nat := 0x1000004
abbrev QUEUE_ALLOT_NEXT : Nat := 0x1000008
abbrev QUEUE_CNT_INVALID : Nat := 0x1000010
abbrev QUEUE_FC_STATE (p : Nat) : Nat := 0x1000200 + p * 4
abbrev QUEUE_AID (p : Nat) : Nat := 0x1001000 + p * 4
abbrev QUEUE_Q_MAP (p : Nat) : Nat := 0x1100000 + p * 0x10
abbrev QUEUE_Q_WM (p : Nat) : Nat := 0x1100004 + p * 0x10
abbrev QUEUE_Q_LIMIT (p : Nat) : Nat := 0x1100008 + p * 0x10
abbrev QUEUE_Q_OCC (p : Nat) : Nat := 0x110000c + p * 0x10
abbrev QUEUE_Q_DROP (p : Nat) : Nat := 0x1200000 + p * 4
abbrev TRACT_CELL_MAP (p q : Nat) : Nat := 0x2000100 + p * 0x200000 + q * 4
abbrev TRACT_CELL_HEALTH (p : Nat) : Nat := 0x2000120 + p * 0x200000
abbrev TRACT_CELL_FENCE (p : Nat) : Nat := 0x2000124 + p * 0x200000
abbrev TRACT_CELL_RESET (p : Nat) : Nat := 0x2000128 + p * 0x200000
abbrev TRACT_CELL_WATCH (p : Nat) : Nat := 0x200012c + p * 0x200000
abbrev TRACT_FENCE_DROP (p : Nat) : Nat := 0x2000130 + p * 0x200000
abbrev TRACT_FENCE_ABANDON (p : Nat) : Nat := 0x2000134 + p * 0x200000
abbrev TRACT_PACE_CTL (p : Nat) : Nat := 0x2000200 + p * 0x200000
abbrev TRACT_PACE_LIMIT (p : Nat) : Nat := 0x2000204 + p * 0x200000
abbrev TRACT_PACE_TIMING (p : Nat) : Nat := 0x2000208 + p * 0x200000
abbrev TRACT_PACE_FIXED (p : Nat) : Nat := 0x200020c + p * 0x200000
abbrev TRACT_PACE_STATUS (p : Nat) : Nat := 0x2000210 + p * 0x200000
abbrev TRACT_PACE_RAIL (p : Nat) : Nat := 0x2000214 + p * 0x200000
abbrev TRACT_PACE_DEMAND (p : Nat) : Nat := 0x2000218 + p * 0x200000
abbrev TRACT_PACE_MARGIN (p : Nat) : Nat := 0x200021c + p * 0x200000
abbrev TRACT_PACE_CNT_SHORT (p : Nat) : Nat := 0x2000220 + p * 0x200000
abbrev TRACT_PACE_CNT_SAT (p : Nat) : Nat := 0x2000224 + p * 0x200000
abbrev TRACT_DROVER_CTL (p : Nat) : Nat := 0x2008000 + p * 0x200000
abbrev TRACT_DROVER_STATUS (p : Nat) : Nat := 0x2008004 + p * 0x200000
abbrev TRACT_DROVER_FRAG (p : Nat) : Nat := 0x2008008 + p * 0x200000
abbrev TRACT_DROVER_ENTRY (p : Nat) : Nat := 0x200800c + p * 0x200000
abbrev TRACT_DROVER_STACK (p q : Nat) : Nat := 0x2008010 + p * 0x200000 + q * 4
abbrev TRACT_DROVER_W (p q : Nat) : Nat := 0x2008040 + p * 0x200000 + q * 8
abbrev TRACT_DROVER_CS_ADDR (p : Nat) : Nat := 0x20080c0 + p * 0x200000
abbrev TRACT_DROVER_CS_DATA (p q : Nat) : Nat := 0x20080c4 + p * 0x200000 + q * 4
abbrev TRACT_PERF_CNT (p q : Nat) : Nat := 0x2010000 + p * 0x200000 + q * 4
abbrev TRACT_PERF_SEL (p q : Nat) : Nat := 0x2010080 + p * 0x200000 + q * 4
abbrev TRACT_PERF_OVF (p : Nat) : Nat := 0x2010100 + p * 0x200000
abbrev TRACT_PERF_PRESET (p : Nat) : Nat := 0x2010104 + p * 0x200000
abbrev TRACT_PERF_PRESET_VAL (p : Nat) : Nat := 0x2010108 + p * 0x200000
abbrev TRACT_LEDGER_CTL (p : Nat) : Nat := 0x2010200 + p * 0x200000
abbrev TRACT_LEDGER_OVF (p : Nat) : Nat := 0x2010204 + p * 0x200000
abbrev TRACT_LEDGER_CLASS (p q : Nat) : Nat := 0x2010208 + p * 0x200000 + q * 8
abbrev TRACT_LEDGER_OPEN (p : Nat) : Nat := 0x2010248 + p * 0x200000
abbrev TRACT_LEDGER_SLACK (p q : Nat) : Nat := 0x2010260 + p * 0x200000 + q * 4
abbrev TRACT_LEDGER_SLACK_MIN (p : Nat) : Nat := 0x2010280 + p * 0x200000
abbrev TRACT_SAMPLE_CTL (p : Nat) : Nat := 0x2010300 + p * 0x200000
abbrev TRACT_CELL_EVSEL (p q r : Nat) : Nat := 0x2100000 + p * 0x200000 + q * 0x8000 + r * 4
abbrev TRACT_CELL_CNT (p q r : Nat) : Nat := 0x2100100 + p * 0x200000 + q * 0x8000 + r * 8
abbrev TRACT_CELL_CNT_OVF (p q : Nat) : Nat := 0x2100180 + p * 0x200000 + q * 0x8000
abbrev TRACT_CELL_PRESET (p q : Nat) : Nat := 0x2100184 + p * 0x200000 + q * 0x8000
abbrev TRACT_CELL_PRESET_LO (p q : Nat) : Nat := 0x2100188 + p * 0x200000 + q * 0x8000
abbrev TRACT_CELL_PRESET_HI (p q : Nat) : Nat := 0x210018c + p * 0x200000 + q * 0x8000

end R

/-- How a register is held: a stored word, a view computed from the rest of the state, a read-write pair (00 R34), a
stored read-only pair, a 64-bit counter pair that a LO read clears (00 R32), or a view pair. -/
inductive RegKind where
  | word | view | pairRW | pairRO | pairCnt | pairView
  deriving DecidableEq, Repr

/-- A row of the map: where the register stands (its array dimensions, outermost first, as count and stride), how it is
held, its RW, W1C and RC bits, and the bits whose write of 1 acts: SC and WO (00 R25). -/
structure RegRow where
  base : Nat
  dims : List (Nat × Nat)
  kind : RegKind
  rw   : Nat
  w1c  : Nat
  rc   : Nat
  act  : Nat
  deriving DecidableEq, Repr

def regRows0 : List RegRow :=
  [ ⟨4, [], .view, 0, 0, 0, 0⟩,
    ⟨0x10, [], .word, 0x20007, 0, 0, 0x10000⟩,
    ⟨0x14, [], .view, 0, 0, 0, 0⟩,
    ⟨0x18, [], .view, 0, 0, 0, 0⟩,
    ⟨0x1c, [], .word, 0, 0, 0, 0xffffffff⟩,
    ⟨0x20, [], .word, 0, 0, 0, 0⟩,
    ⟨0x24, [], .word, 0x8000ffff, 0, 0, 0⟩,
    ⟨0x28, [], .view, 0, 0, 0, 0⟩,
    ⟨0x400, [(32, 4)], .word, 0, 0, 0, 0⟩,
    ⟨0x480, [(32, 4)], .word, 0, 0, 0, 0⟩,
    ⟨0x10000, [], .pairView, 0, 0, 0, 0⟩,
    ⟨0x10008, [], .view, 0, 0, 0, 0⟩,
    ⟨0x10010, [], .pairRW, 0xffffffffffff, 0, 0, 0⟩,
    ⟨0x10018, [], .word, 0, 0, 0, 0x80000000⟩,
    ⟨0x10020, [], .pairRW, 0xffffffffffff, 0, 0, 0⟩,
    ⟨0x10028, [], .word, 0x80000000, 0, 0, 0⟩,
    ⟨0x10030, [], .pairView, 0, 0, 0, 0⟩,
    ⟨0x10038, [], .view, 0, 0, 0, 0⟩,
    ⟨0x1003c, [], .word, 0, 0, 0, 0⟩,
    ⟨0x10040, [], .word, 0x1ffff, 0, 0, 0⟩,
    ⟨0x10044, [], .word, 0, 0x1ffff, 0, 0⟩,
    ⟨0x10048, [], .word, 0, 7, 0, 0⟩,
    ⟨0x1004c, [], .word, 0xffff, 0, 0, 0⟩,
    ⟨0x10100, [(8, 0x10)], .word, 0xbfffffff, 0, 0, 0⟩ ]

def regRows1 : List RegRow :=
  [ ⟨0x10104, [(8, 0x10)], .word, 0xff, 0, 0, 0⟩,
    ⟨0x10108, [(8, 0x10)], .view, 0, 0, 0, 0⟩,
    ⟨0x10200, [], .view, 0, 0, 0, 0⟩,
    ⟨0x10204, [], .word, 0x3f, 0, 0, 0⟩,
    ⟨0x10208, [], .word, 0, 0, 0xffffffff, 0⟩,
    ⟨0x10210, [(6, 4)], .word, 0, 0, 0, 0⟩,
    ⟨0x20000, [], .word, 0xf370000, 0, 0, 0x80000000⟩,
    ⟨0x20004, [], .view, 0, 0, 0, 0⟩,
    ⟨0x20008, [], .pairRW, 0xffffffffffffffc0, 0, 0, 0⟩,
    ⟨0x20010, [], .view, 0, 0, 0, 0⟩,
    ⟨0x20014, [], .view, 0, 0, 0, 0⟩,
    ⟨0x20018, [], .word, 0xffffffff, 0, 0, 0⟩,
    ⟨0x20020, [], .view, 0, 0, 0, 0⟩,
    ⟨0x20024, [], .view, 0, 0, 0, 0⟩,
    ⟨0x20028, [], .view, 0, 0, 0, 0⟩,
    ⟨0x2002c, [], .view, 0, 0, 0, 0⟩,
    ⟨0x20030, [], .word, 0, 7, 0, 0⟩,
    ⟨0x20040, [(4, 4)], .word, 0, 0, 0, 0⟩,
    ⟨0x20080, [(12, 4)], .view, 0, 0, 0, 0⟩,
    ⟨0x20100, [], .word, 0, 0, 0xffffffff, 0⟩,
    ⟨0x30000, [], .view, 0, 0, 0, 0⟩,
    ⟨0x30004, [], .view, 0, 0, 0, 0⟩,
    ⟨0x100000, [], .word, 0xffffffff, 0, 0, 0⟩,
    ⟨0x100004, [], .word, 0, 0, 0, 0xffffffff⟩ ]

def regRows2 : List RegRow :=
  [ ⟨0x100008, [], .word, 0x1f, 0, 0, 0⟩,
    ⟨0x10000c, [], .word, 0xffff, 0, 0, 0⟩,
    ⟨0x100010, [], .word, 0, 0xffffffff, 0, 0⟩,
    ⟨0x100014, [], .word, 0, 0, 0, 0x801f03ff⟩,
    ⟨0x100018, [], .word, 0, 0, 0, 0x1fffff⟩,
    ⟨0x100200, [(128, 4)], .word, 0xffff, 0, 0, 0⟩,
    ⟨0x100400, [(32, 4)], .view, 0, 0, 0, 0⟩,
    ⟨0x100480, [(32, 4)], .view, 0, 0, 0, 0⟩,
    ⟨0x101000, [(1024, 4)], .word, 0x807f001f, 0, 0, 0⟩,
    ⟨0x110000, [(32, 0x1000)], .view, 0, 0, 0, 0⟩,
    ⟨0x110004, [(32, 0x1000)], .word, 0, 0, 0, 0x1ffff⟩,
    ⟨0x110008, [(32, 0x1000)], .word, 0x1ffff, 0, 0, 0⟩,
    ⟨0x11000c, [(32, 0x1000)], .word, 0, 0, 0xffffffff, 0⟩,
    ⟨0x110010, [(32, 0x1000)], .word, 0, 0, 0xffffffff, 0⟩,
    ⟨0x110080, [(32, 0x1000), (32, 4)], .view, 0, 0, 0, 0xffffffff⟩,
    ⟨0x180000, [(4, 0x100)], .pairRW, 0xffffffffffffffff, 0, 0, 0⟩,
    ⟨0x180008, [(4, 0x100)], .pairRW, 0xffffffffff, 0, 0, 0⟩,
    ⟨0x180010, [(4, 0x100)], .pairRW, 0xffffffffffffffff, 0, 0, 0⟩,
    ⟨0x180018, [(4, 0x100)], .pairRW, 0xffffffffffffffff, 0, 0, 0⟩,
    ⟨0x180020, [(4, 0x100)], .pairRW, 0xffffffffffffffff, 0, 0, 0⟩,
    ⟨0x180028, [(4, 0x100)], .word, 0x23371310, 0, 0, 0xc0000000⟩,
    ⟨0x18002c, [(4, 0x100)], .word, 0, 0x60000000, 0, 0⟩,
    ⟨0x180030, [(4, 0x100)], .pairRO, 0, 0, 0, 0⟩,
    ⟨0x180038, [(4, 0x100)], .pairRO, 0, 0, 0, 0⟩ ]

def regRows3 : List RegRow :=
  [ ⟨0x180040, [(4, 0x100)], .pairRO, 0, 0, 0, 0⟩,
    ⟨0x180400, [], .view, 0, 0, 0, 0⟩,
    ⟨0x200000, [], .pairView, 0, 0, 0, 0⟩,
    ⟨0x201000, [(64, 0x40)], .pairRW, 0xffffffffffffffff, 0, 0, 0⟩,
    ⟨0x201008, [(64, 0x40)], .pairRW, 0xffffffffffffffff, 0, 0, 0⟩,
    ⟨0x201010, [(64, 0x40)], .word, 0xffffffff, 0, 0, 0⟩,
    ⟨0x201014, [(64, 0x40)], .word, 0x63110000, 0, 0, 0x80000000⟩,
    ⟨0x201018, [(64, 0x40)], .word, 0, 0x60000000, 0, 0⟩,
    ⟨0x201020, [(64, 0x40)], .pairRW, 0xfffffffffffffff0, 0, 0, 0⟩,
    ⟨0x201028, [(64, 0x40)], .word, 0, 0, 0, 0⟩,
    ⟨0x300000, [], .word, 0xffff, 0, 0, 0⟩,
    ⟨0x300004, [], .view, 0, 0, 0, 0⟩,
    ⟨0x300008, [], .word, 0, 0, 0xffffffff, 0⟩,
    ⟨0x300010, [], .word, 0xffff, 0, 0, 0⟩,
    ⟨0x300100, [(16, 4)], .view, 0, 0, 0, 0⟩,
    ⟨0x310000, [(2, 0x10000), (256, 0x40)], .word, 0xe000ffff, 0, 0, 0⟩,
    ⟨0x310004, [(2, 0x10000), (256, 0x40)], .view, 0, 0, 0, 0⟩,
    ⟨0x310008, [(2, 0x10000), (256, 0x40)], .pairRW, 0xffffffffffffffe0, 0, 0, 0⟩,
    ⟨0x310010, [(2, 0x10000), (256, 0x40)], .view, 0, 0, 0, 0⟩,
    ⟨0x310014, [(2, 0x10000), (256, 0x40)], .view, 0, 0, 0, 0⟩,
    ⟨0x310018, [(2, 0x10000), (256, 0x40)], .pairRO, 0, 0, 0, 0⟩,
    ⟨0x310020, [(2, 0x10000), (256, 0x40)], .word, 0, 3, 0, 0⟩,
    ⟨0x310024, [(2, 0x10000), (256, 0x40)], .word, 0, 0, 0xffffffff, 0⟩,
    ⟨0x310028, [(2, 0x10000), (256, 0x40)], .word, 0, 0, 0xffffffff, 0⟩ ]

def regRows4 : List RegRow :=
  [ ⟨0x31002c, [(2, 0x10000), (256, 0x40)], .word, 0, 0, 0xffffffff, 0⟩,
    ⟨0x310030, [(2, 0x10000), (256, 0x40)], .word, 0, 0, 0xffffffff, 0⟩,
    ⟨0x3000000, [(2, 0x100000), (256, 0x1000)], .view, 0, 0, 0, 0xffff⟩,
    ⟨0x3000004, [(2, 0x100000), (256, 0x1000)], .view, 0, 0, 0, 0⟩,
    ⟨0x3000008, [(2, 0x100000), (256, 0x1000)], .view, 0, 0, 0, 3⟩,
    ⟨0x400010, [], .pairView, 0, 0, 0, 0⟩,
    ⟨0x400018, [], .pairRO, 0, 0, 0, 0⟩,
    ⟨0x400020, [], .word, 0, 0, 0, 0⟩,
    ⟨0x400024, [], .view, 0, 0, 0, 0⟩,
    ⟨0x400040, [], .word, 0, 0x7fff, 0, 0⟩,
    ⟨0x400100, [(2, 0x100)], .pairView, 0, 0, 0, 0⟩,
    ⟨0x400108, [(2, 0x100)], .pairRW, 0xffffffffffff, 0, 0, 0⟩,
    ⟨0x400110, [(2, 0x100)], .word, 0x80000f0f, 0, 0, 0x40000000⟩,
    ⟨0x400114, [(2, 0x100)], .view, 0, 0, 0, 0⟩,
    ⟨0x400118, [(2, 0x100)], .word, 0, 0, 0, 0⟩,
    ⟨0x40011c, [(2, 0x100)], .word, 0xffffffff, 0, 0, 0⟩,
    ⟨0x400120, [(2, 0x100)], .word, 0xffffffff, 0, 0, 0⟩,
    ⟨0x400124, [(2, 0x100)], .word, 0xffffffff, 0, 0, 0⟩,
    ⟨0x400130, [(2, 0x100)], .pairRO, 0, 0, 0, 0⟩,
    ⟨0x400138, [(2, 0x100)], .word, 0, 0, 0, 0⟩,
    ⟨0x40013c, [(2, 0x100)], .word, 0, 0, 0, 0⟩,
    ⟨0x400140, [(2, 0x100)], .pairRO, 0, 0, 0, 0⟩,
    ⟨0x400148, [(2, 0x100)], .pairView, 0, 0, 0, 0⟩,
    ⟨0x400150, [(2, 0x100)], .view, 0, 0, 0, 0⟩ ]

def regRows5 : List RegRow :=
  [ ⟨0x400300, [], .word, 0x10fffff, 0, 0, 0x80000000⟩,
    ⟨0x400304, [], .view, 0, 0, 0, 0⟩,
    ⟨0x400308, [], .view, 0, 0, 0, 0⟩,
    ⟨0x400310, [], .pairView, 0, 0, 0, 0⟩,
    ⟨0x400400, [], .word, 0xc000ffff, 0, 0, 0⟩,
    ⟨0x400404, [], .word, 0xffffffff, 0, 0, 0⟩,
    ⟨0x400408, [], .word, 0x80000000, 0, 0, 0⟩,
    ⟨0x400500, [(8, 0x20)], .word, 0x8001ffff, 0x40000000, 0, 0⟩,
    ⟨0x400504, [(8, 0x20)], .pairRW, 0xffffffffffffffff, 0, 0, 0⟩,
    ⟨0x40050c, [(8, 0x20)], .pairRW, 0xffffffffffffffff, 0, 0, 0⟩,
    ⟨0x400514, [(8, 0x20)], .word, 0, 0, 0xffffffff, 0⟩,
    ⟨0x400518, [(8, 0x20)], .pairCnt, 0, 0, 0, 0⟩,
    ⟨0x400700, [], .view, 0, 0, 0, 0⟩,
    ⟨0x400704, [], .word, 0, 0, 0xffffffff, 0⟩,
    ⟨0x400708, [], .view, 0, 0, 0, 0⟩,
    ⟨0x40070c, [(3, 4)], .word, 0, 0, 0, 0⟩,
    ⟨0x400780, [], .word, 0xc000ffff, 0, 0, 0⟩,
    ⟨0x400784, [(2, 4)], .word, 0xffffffff, 0, 0, 0⟩,
    ⟨0x40078c, [], .word, 0, 0, 0xffffffff, 0⟩,
    ⟨0x400790, [], .word, 0, 0, 0xffffffff, 0⟩,
    ⟨0x400794, [], .word, 0, 0, 0xffffffff, 0⟩,
    ⟨0x400800, [(16, 0x20), (4, 4)], .word, 0xffffffff, 0, 0, 0⟩,
    ⟨0x400810, [(16, 0x20), (4, 4)], .word, 0xffffffff, 0, 0, 0⟩,
    ⟨0x400a00, [(16, 0x20)], .word, 0x83010000, 0, 0, 0⟩ ]

def regRows6 : List RegRow :=
  [ ⟨0x400a04, [(16, 0x20)], .pairRW, 0xffffffffffffffff, 0, 0, 0⟩,
    ⟨0x400a0c, [(16, 0x20)], .word, 0x3fffffc, 0, 0, 0⟩,
    ⟨0x400a10, [(16, 0x20)], .word, 0xffffffff, 0, 0, 0⟩,
    ⟨0x400a14, [(16, 0x20)], .pairRO, 0, 0, 0, 0⟩,
    ⟨0x500000, [], .view, 0, 0, 0, 0⟩,
    ⟨0x500008, [], .word, 0, 0, 0, 0⟩,
    ⟨0x500010, [], .word, 0, 0, 0, 0⟩,
    ⟨0x500040, [], .word, 0, 0, 0xffffffff, 0⟩,
    ⟨0x500044, [], .word, 0, 0, 0xffffffff, 0⟩,
    ⟨0x500048, [], .word, 0, 0, 0xffffffff, 0⟩,
    ⟨0x50004c, [], .word, 0, 0, 0xffffffff, 0⟩,
    ⟨0x500050, [], .word, 0, 0, 0xffffffff, 0⟩,
    ⟨0x500054, [], .word, 0, 0, 0xffffffff, 0⟩,
    ⟨0x500058, [], .word, 0, 0, 0xffffffff, 0⟩,
    ⟨0x50005c, [], .word, 0, 0, 0xffffffff, 0⟩,
    ⟨0x500060, [], .word, 0, 0, 0xffffffff, 0⟩,
    ⟨0x500064, [], .word, 0, 0, 0xffffffff, 0⟩,
    ⟨0x500068, [], .word, 0, 0, 0xffffffff, 0⟩,
    ⟨0x50006c, [], .word, 0, 0, 0xffffffff, 0⟩,
    ⟨0x500070, [], .word, 0, 0, 0xffffffff, 0⟩,
    ⟨0x500074, [], .word, 0, 0, 0xffffffff, 0⟩,
    ⟨0x500078, [], .word, 0, 0, 0xffffffff, 0⟩,
    ⟨0x500200, [(16, 4)], .word, 0x80000fff, 0, 0, 0⟩,
    ⟨0x500300, [], .word, 0xff3fff, 0, 0, 0⟩ ]

def regRows7 : List RegRow :=
  [ ⟨0x500304, [], .view, 0, 0, 0, 0⟩,
    ⟨0x500310, [], .word, 0xc0ff00ff, 0, 0, 0⟩,
    ⟨0x500400, [], .word, 0, 0, 0, 0⟩,
    ⟨0x500404, [], .word, 0, 0, 0, 0⟩,
    ⟨0x500408, [], .view, 0, 0, 0, 0⟩,
    ⟨0x500410, [], .word, 0x3fffffff, 0, 0, 0⟩,
    ⟨0x500414, [], .word, 0xffff, 0, 0, 0⟩,
    ⟨0x500418, [], .word, 0, 0x3f, 0, 0⟩,
    ⟨0x50041c, [], .word, 0, 0, 0, 0⟩,
    ⟨0x500420, [], .pairView, 0, 0, 0, 0⟩,
    ⟨0x500428, [], .word, 0, 0, 0, 0⟩,
    ⟨0x500500, [], .word, 0xffff, 0, 0, 0⟩,
    ⟨0x500504, [], .word, 0xffff, 0, 0, 0⟩,
    ⟨0x500510, [], .word, 0, 0, 0xffffffff, 0⟩,
    ⟨0x500514, [], .word, 0, 0, 0xffffffff, 0⟩,
    ⟨0x500518, [], .word, 0, 0, 0xffffffff, 0⟩,
    ⟨0x50051c, [], .word, 0, 0, 0xffffffff, 0⟩,
    ⟨0x500520, [], .word, 0, 0, 0xffffffff, 0⟩,
    ⟨0x500524, [], .word, 0, 0, 0xffffffff, 0⟩,
    ⟨0x500528, [], .word, 0, 0, 0xffffffff, 0⟩,
    ⟨0x50052c, [], .word, 0, 0, 0xffffffff, 0⟩,
    ⟨0x500530, [], .word, 0, 0, 0xffffffff, 0⟩,
    ⟨0x500534, [], .word, 0, 0, 0xffffffff, 0⟩,
    ⟨0x500600, [], .word, 0xffffffff, 0, 0, 0⟩ ]

def regRows8 : List RegRow :=
  [ ⟨0x500604, [], .word, 0xffff, 0, 0, 0⟩,
    ⟨0x500608, [], .view, 0, 0, 0, 0⟩,
    ⟨0x500610, [], .word, 0x80000000, 0x20000000, 0, 0⟩,
    ⟨0x500618, [], .pairRO, 0, 0, 0, 0⟩,
    ⟨0x500620, [], .word, 0, 0, 0xffffffff, 0⟩,
    ⟨0x500624, [], .word, 0, 0, 0xffffffff, 0⟩,
    ⟨0x500628, [], .word, 0, 0, 0xffffffff, 0⟩,
    ⟨0x50062c, [], .word, 0, 0, 0xffffffff, 0⟩,
    ⟨0x500630, [], .word, 0, 0, 0xffffffff, 0⟩,
    ⟨0x500640, [(16, 4)], .word, 0xffffffff, 0, 0, 0⟩,
    ⟨0x500700, [], .word, 0x7fffffff, 0, 0, 0x80000000⟩,
    ⟨0x500704, [], .word, 0, 0, 0, 0⟩,
    ⟨0x500740, [(16, 4)], .word, 0xf3f3f3f, 0, 0, 0⟩,
    ⟨0x580000, [], .view, 0, 0, 0, 0⟩,
    ⟨0x580004, [], .view, 0, 0, 0, 0⟩,
    ⟨0x580100, [(24, 4)], .view, 0, 0, 0, 0⟩,
    ⟨0x580200, [(12, 4)], .word, 0, 0, 0, 0⟩,
    ⟨0x600000, [(16, 0x8000)], .word, 0, 0, 0, 0⟩,
    ⟨0x600004, [(16, 0x8000)], .view, 0, 0, 0, 0⟩,
    ⟨0x600008, [(16, 0x8000)], .word, 0xe0007fff, 0, 0, 0⟩,
    ⟨0x60000c, [(16, 0x8000)], .word, 0xf000ffff, 0, 0, 0⟩,
    ⟨0x600010, [(16, 0x8000)], .word, 0x7ffff, 0, 0, 0⟩,
    ⟨0x600014, [(16, 0x8000)], .view, 0, 0, 0, 0⟩,
    ⟨0x600018, [(16, 0x8000)], .word, 0, 7, 0, 0⟩ ]

def regRows9 : List RegRow :=
  [ ⟨0x600020, [(16, 0x8000)], .word, 0, 0x80000000, 0, 0⟩,
    ⟨0x600024, [(16, 0x8000)], .pairRO, 0, 0, 0, 0⟩,
    ⟨0x600030, [(16, 0x8000)], .word, 0x1f, 0, 0, 0x80000000⟩,
    ⟨0x600034, [(16, 0x8000)], .pairRW, 0xffffffffffffffff, 0, 0, 0⟩,
    ⟨0x600100, [(16, 0x8000), (16, 8)], .pairRW, 0x8000ffffffffffff, 0, 0, 0⟩,
    ⟨0x601000, [(16, 0x8000), (25, 8)], .pairCnt, 0, 0, 0, 0⟩,
    ⟨0x700000, [], .word, 0, 0xffffffff, 0, 0⟩,
    ⟨0x700004, [], .word, 0, 0x80000000, 0, 0⟩,
    ⟨0x700800, [(16, 4)], .word, 0xf3f3f3f, 0, 0, 0⟩,
    ⟨0x701000, [(32, 0x100)], .word, 0x800f00ff, 0, 0, 0⟩,
    ⟨0x701010, [(32, 0x100), (4, 4)], .word, 0xffffffff, 0, 0, 0⟩,
    ⟨0x701080, [(32, 0x100), (32, 4)], .word, 0xffffffff, 0, 0, 0⟩,
    ⟨0x800000, [], .word, 0, 0, 0, 3⟩,
    ⟨0x800004, [], .view, 0, 0, 0, 0⟩,
    ⟨0x800010, [(4, 4)], .view, 0, 0, 0, 0⟩,
    ⟨0x800020, [(4, 4)], .view, 0, 0, 0, 0⟩,
    ⟨0x800030, [], .view, 0, 0, 0, 0⟩,
    ⟨0x800100, [], .word, 0, 0, 0, 0xf0001fff⟩,
    ⟨0x800104, [], .word, 0, 0, 0, 0⟩,
    ⟨0x800108, [], .pairRW, 0xffffffffffffffff, 0, 0, 0⟩,
    ⟨0x800140, [(18, 4)], .word, 0xffffffff, 0, 0, 0⟩,
    ⟨0x800190, [(18, 4)], .word, 0xffffffff, 0, 0, 0⟩,
    ⟨0x800580, [(4, 8)], .word, 0x801f00ff, 0, 0, 0⟩,
    ⟨0x800584, [(4, 8)], .word, 0xffffffff, 0, 0, 0⟩ ]

def regRows10 : List RegRow :=
  [ ⟨0x8005c0, [], .word, 0, 0x1f, 0, 0⟩,
    ⟨0x800600, [(11, 4)], .word, 0, 0, 0xffffffff, 0⟩,
    ⟨0x800800, [], .word, 0x3001fff, 0, 0, 0⟩,
    ⟨0x800840, [(18, 4)], .view, 0, 0, 0, 0⟩,
    ⟨0x800890, [(18, 4)], .view, 0, 0, 0, 0⟩,
    ⟨0x8008e0, [], .pairView, 0, 0, 0, 0⟩,
    ⟨0x801000, [(1024, 4)], .word, 0, 0, 0xffffffff, 0⟩,
    ⟨0xa00000, [], .view, 0, 0, 0, 0⟩,
    ⟨0xa00004, [], .view, 0, 0, 0, 0⟩,
    ⟨0xa00008, [], .word, 0xfff, 0, 0, 0⟩,
    ⟨0xa0000c, [], .word, 0, 0, 0, 0⟩,
    ⟨0xa00010, [], .word, 0xffff, 0, 0, 0⟩,
    ⟨0xa00014, [], .word, 0, 0, 0xffffffff, 0⟩,
    ⟨0xa00018, [], .word, 0, 0, 0xffffffff, 0⟩,
    ⟨0xa00020, [(18, 4)], .word, 0, 0, 0xffffffff, 0⟩,
    ⟨0xa00100, [(8, 0x20)], .word, 0, 0, 0, 0⟩,
    ⟨0xa00104, [(8, 0x20)], .view, 0, 0, 0, 0⟩,
    ⟨0xa00108, [(8, 0x20)], .word, 0, 0, 0xffffffff, 0⟩,
    ⟨0xa0010c, [(8, 0x20)], .word, 0, 0, 0xffffffff, 0⟩,
    ⟨0xa00200, [], .view, 0, 0, 0, 0⟩,
    ⟨0xa00204, [], .word, 0, 0, 0xffffffff, 0⟩,
    ⟨0xa00208, [], .word, 0, 0, 0, 0⟩,
    ⟨0xa0020c, [], .word, 0x3ff, 0, 0, 0⟩,
    ⟨0xa00210, [], .word, 0, 0, 0, 0⟩ ]

def regRows11 : List RegRow :=
  [ ⟨0xa00214, [], .word, 0, 0, 0, 0x80007fff⟩,
    ⟨0xa00218, [], .word, 0x7fff, 0, 0, 0⟩,
    ⟨0xa0021c, [], .view, 0, 0, 0, 0⟩,
    ⟨0xa00220, [], .word, 0, 0, 0xffffffff, 0⟩,
    ⟨0xa00224, [], .word, 0, 0, 0xffffffff, 0⟩,
    ⟨0xa00230, [], .word, 0, 7, 0, 0⟩,
    ⟨0xc00000, [], .word, 0xe0000f00, 0, 0, 0⟩,
    ⟨0xc00004, [], .word, 0xfffff, 0, 0, 0⟩,
    ⟨0xc00008, [], .pairRW, 0xffffffffffffff00, 0, 0, 0⟩,
    ⟨0xc00010, [], .word, 0, 0, 0, 0⟩,
    ⟨0xc00014, [], .word, 0, 0, 0xffffffff, 0⟩,
    ⟨0xc00020, [], .word, 0x1ff, 0, 0, 0⟩,
    ⟨0xc00030, [], .word, 0, 7, 0, 0⟩,
    ⟨0xc00040, [], .word, 0x7ff, 0, 0, 0⟩,
    ⟨0xc00044, [], .view, 0, 0, 0, 0⟩,
    ⟨0xc00048, [], .word, 0, 0, 0xffffffff, 0⟩,
    ⟨0xc00050, [], .view, 0, 0, 0, 0⟩,
    ⟨0xc00054, [(3, 4)], .word, 0, 0, 0, 0⟩,
    ⟨0xc00100, [(8, 0x20)], .word, 0x8737ffff, 0, 0, 0⟩,
    ⟨0xc00108, [(8, 0x20)], .pairRW, 0xffffffffffffffff, 0, 0, 0⟩,
    ⟨0xc00110, [(8, 0x20)], .pairRW, 0xffffffffffffffff, 0, 0, 0⟩,
    ⟨0xc00118, [(8, 0x20)], .pairCnt, 0, 0, 0, 0⟩,
    ⟨0xc00200, [], .word, 7, 0, 0, 0x80000000⟩,
    ⟨0xc00204, [], .word, 0xffffffff, 0, 0, 0⟩ ]

def regRows12 : List RegRow :=
  [ ⟨0xc00208, [], .word, 0xffff, 0, 0, 0⟩,
    ⟨0xc10000, [(9, 0x1000), (1024, 4)], .view, 0, 0, 0, 0⟩,
    ⟨0x1000000, [], .view, 0, 0, 0, 0⟩,
    ⟨0x1000004, [], .word, 0, 0, 0xffffffff, 0⟩,
    ⟨0x1000008, [], .pairView, 0, 0, 0, 0⟩,
    ⟨0x1000010, [], .word, 0, 0, 0xffffffff, 0⟩,
    ⟨0x1000200, [(16, 4)], .view, 0, 0, 0, 0⟩,
    ⟨0x1001000, [(1024, 4)], .word, 0, 0, 0, 0⟩,
    ⟨0x1100000, [(32768, 0x10)], .word, 0x7f800000, 0, 0, 0⟩,
    ⟨0x1100004, [(32768, 0x10)], .word, 0xffffffff, 0, 0, 0⟩,
    ⟨0x1100008, [(32768, 0x10)], .word, 0xffffffff, 0, 0, 0⟩,
    ⟨0x110000c, [(32768, 0x10)], .view, 0, 0, 0, 0⟩,
    ⟨0x1200000, [(32768, 4)], .word, 0, 0, 0xffffffff, 0⟩,
    ⟨0x2000100, [(8, 0x200000), (4, 4)], .word, 0x1f1f1f1f, 0, 0, 0⟩,
    ⟨0x2000120, [(8, 0x200000)], .word, 0, 0x3ffff, 0, 0⟩,
    ⟨0x2000124, [(8, 0x200000)], .word, 0, 0, 0, 0⟩,
    ⟨0x2000128, [(8, 0x200000)], .word, 0, 0, 0, 0x3ffff⟩,
    ⟨0x200012c, [(8, 0x200000)], .word, 0xffff, 0, 0, 0⟩,
    ⟨0x2000130, [(8, 0x200000)], .word, 0, 0, 0xffffffff, 0⟩,
    ⟨0x2000134, [(8, 0x200000)], .word, 0, 0, 0xffffffff, 0⟩,
    ⟨0x2000200, [(8, 0x200000)], .word, 0x80ffffff, 0, 0, 0x40000000⟩,
    ⟨0x2000204, [(8, 0x200000)], .word, 0xffffffff, 0, 0, 0⟩,
    ⟨0x2000208, [(8, 0x200000)], .word, 0xff00ffff, 0, 0, 0⟩,
    ⟨0x200020c, [(8, 0x200000)], .word, 0xffff, 0, 0, 0⟩ ]

def regRows13 : List RegRow :=
  [ ⟨0x2000210, [(8, 0x200000)], .view, 0, 0, 0, 0⟩,
    ⟨0x2000214, [(8, 0x200000)], .word, 0, 0, 0, 0⟩,
    ⟨0x2000218, [(8, 0x200000)], .word, 0, 0, 0, 0⟩,
    ⟨0x200021c, [(8, 0x200000)], .word, 0, 0, 0, 0⟩,
    ⟨0x2000220, [(8, 0x200000)], .word, 0, 0, 0xffffffff, 0⟩,
    ⟨0x2000224, [(8, 0x200000)], .word, 0, 0, 0xffffffff, 0⟩,
    ⟨0x2008000, [(8, 0x200000)], .word, 0, 0, 0, 1⟩,
    ⟨0x2008004, [(8, 0x200000)], .view, 0, 0, 0, 0⟩,
    ⟨0x2008008, [(8, 0x200000)], .word, 0x3fff00ff, 0, 0, 0⟩,
    ⟨0x200800c, [(8, 0x200000)], .view, 0, 0, 0, 0⟩,
    ⟨0x2008010, [(8, 0x200000), (8, 4)], .view, 0, 0, 0, 0⟩,
    ⟨0x2008040, [(8, 0x200000), (16, 8)], .pairView, 0, 0, 0, 0⟩,
    ⟨0x20080c0, [(8, 0x200000)], .word, 0xfff, 0, 0, 0⟩,
    ⟨0x20080c4, [(8, 0x200000), (6, 4)], .view, 0, 0, 0, 0⟩,
    ⟨0x2010000, [(8, 0x200000), (32, 4)], .word, 0, 0, 0xffffffff, 0⟩,
    ⟨0x2010080, [(8, 0x200000), (32, 4)], .word, 0x800000ff, 0, 0, 0⟩,
    ⟨0x2010100, [(8, 0x200000)], .word, 0, 0xffffffff, 0, 0⟩,
    ⟨0x2010104, [(8, 0x200000)], .word, 0x1f, 0, 0, 0x80000000⟩,
    ⟨0x2010108, [(8, 0x200000)], .word, 0xffffffff, 0, 0, 0⟩,
    ⟨0x2010200, [(8, 0x200000)], .word, 0, 0, 0, 0x80000000⟩,
    ⟨0x2010204, [(8, 0x200000)], .word, 0, 0xff, 0, 0⟩,
    ⟨0x2010208, [(8, 0x200000), (8, 8)], .pairRO, 0, 0, 0, 0⟩,
    ⟨0x2010248, [(8, 0x200000)], .word, 0, 0, 0, 0⟩,
    ⟨0x2010260, [(8, 0x200000), (8, 4)], .word, 0, 0, 0, 0⟩ ]

def regRows14 : List RegRow :=
  [ ⟨0x2010280, [(8, 0x200000)], .word, 0, 0, 0, 0⟩,
    ⟨0x2010300, [(8, 0x200000)], .word, 0x8000ffff, 0, 0, 0⟩,
    ⟨0x2100000, [(8, 0x200000), (18, 0x8000), (16, 4)], .word, 0xff, 0, 0, 0⟩,
    ⟨0x2100100, [(8, 0x200000), (18, 0x8000), (16, 8)], .pairCnt, 0, 0, 0, 0⟩,
    ⟨0x2100180, [(8, 0x200000), (18, 0x8000)], .word, 0, 0xffff, 0, 0⟩,
    ⟨0x2100184, [(8, 0x200000), (18, 0x8000)], .word, 0xf, 0, 0, 0x80000000⟩,
    ⟨0x2100188, [(8, 0x200000), (18, 0x8000)], .word, 0xffffffff, 0, 0, 0⟩,
    ⟨0x210018c, [(8, 0x200000), (18, 0x8000)], .word, 0xffff, 0, 0, 0⟩,
    ⟨0xf00, [], .word, 0, 0xfffffffe, 0, 0⟩,
    ⟨0xf04, [], .word, 0, 0, 0xffffffff, 0⟩,
    ⟨0xf08, [], .word, 0, 0, 0, 0⟩,
    ⟨0xf10, [], .pairRO, 0, 0, 0, 0⟩,
    ⟨0xf18, [], .pairRO, 0, 0, 0, 0⟩,
    ⟨0x10f00, [], .word, 0, 0xfffffffe, 0, 0⟩,
    ⟨0x10f04, [], .word, 0, 0, 0xffffffff, 0⟩,
    ⟨0x10f08, [], .word, 0, 0, 0, 0⟩,
    ⟨0x10f10, [], .pairRO, 0, 0, 0, 0⟩,
    ⟨0x10f18, [], .pairRO, 0, 0, 0, 0⟩,
    ⟨0x20f00, [], .word, 0, 0xfffffffe, 0, 0⟩,
    ⟨0x20f04, [], .word, 0, 0, 0xffffffff, 0⟩,
    ⟨0x20f08, [], .word, 0, 0, 0, 0⟩,
    ⟨0x20f10, [], .pairRO, 0, 0, 0, 0⟩,
    ⟨0x20f18, [], .pairRO, 0, 0, 0, 0⟩,
    ⟨0x30f00, [], .word, 0, 0xfffffffe, 0, 0⟩ ]

def regRows15 : List RegRow :=
  [ ⟨0x30f04, [], .word, 0, 0, 0xffffffff, 0⟩,
    ⟨0x30f08, [], .word, 0, 0, 0, 0⟩,
    ⟨0x30f10, [], .pairRO, 0, 0, 0, 0⟩,
    ⟨0x30f18, [], .pairRO, 0, 0, 0, 0⟩,
    ⟨0x100f00, [], .word, 0, 0xfffffffe, 0, 0⟩,
    ⟨0x100f04, [], .word, 0, 0, 0xffffffff, 0⟩,
    ⟨0x100f08, [], .word, 0, 0, 0, 0⟩,
    ⟨0x100f10, [], .pairRO, 0, 0, 0, 0⟩,
    ⟨0x100f18, [], .pairRO, 0, 0, 0, 0⟩,
    ⟨0x180f00, [], .word, 0, 0xfffffffe, 0, 0⟩,
    ⟨0x180f04, [], .word, 0, 0, 0xffffffff, 0⟩,
    ⟨0x180f08, [], .word, 0, 0, 0, 0⟩,
    ⟨0x180f10, [], .pairRO, 0, 0, 0, 0⟩,
    ⟨0x180f18, [], .pairRO, 0, 0, 0, 0⟩,
    ⟨0x200f00, [], .word, 0, 0xfffffffe, 0, 0⟩,
    ⟨0x200f04, [], .word, 0, 0, 0xffffffff, 0⟩,
    ⟨0x200f08, [], .word, 0, 0, 0, 0⟩,
    ⟨0x200f10, [], .pairRO, 0, 0, 0, 0⟩,
    ⟨0x200f18, [], .pairRO, 0, 0, 0, 0⟩,
    ⟨0x300f00, [], .word, 0, 0xfffffffe, 0, 0⟩,
    ⟨0x300f04, [], .word, 0, 0, 0xffffffff, 0⟩,
    ⟨0x300f08, [], .word, 0, 0, 0, 0⟩,
    ⟨0x300f10, [], .pairRO, 0, 0, 0, 0⟩,
    ⟨0x300f18, [], .pairRO, 0, 0, 0, 0⟩ ]

def regRows16 : List RegRow :=
  [ ⟨0x400f00, [], .word, 0, 0xfffffffe, 0, 0⟩,
    ⟨0x400f04, [], .word, 0, 0, 0xffffffff, 0⟩,
    ⟨0x400f08, [], .word, 0, 0, 0, 0⟩,
    ⟨0x400f10, [], .pairRO, 0, 0, 0, 0⟩,
    ⟨0x400f18, [], .pairRO, 0, 0, 0, 0⟩,
    ⟨0x500f00, [], .word, 0, 0xfffffffe, 0, 0⟩,
    ⟨0x500f04, [], .word, 0, 0, 0xffffffff, 0⟩,
    ⟨0x500f08, [], .word, 0, 0, 0, 0⟩,
    ⟨0x500f10, [], .pairRO, 0, 0, 0, 0⟩,
    ⟨0x500f18, [], .pairRO, 0, 0, 0, 0⟩,
    ⟨0x580f00, [], .word, 0, 0xfffffffe, 0, 0⟩,
    ⟨0x580f04, [], .word, 0, 0, 0xffffffff, 0⟩,
    ⟨0x580f08, [], .word, 0, 0, 0, 0⟩,
    ⟨0x580f10, [], .pairRO, 0, 0, 0, 0⟩,
    ⟨0x580f18, [], .pairRO, 0, 0, 0, 0⟩,
    ⟨0x600f00, [(16, 0x8000)], .word, 0, 0xfffffffe, 0, 0⟩,
    ⟨0x600f04, [(16, 0x8000)], .word, 0, 0, 0xffffffff, 0⟩,
    ⟨0x600f08, [(16, 0x8000)], .word, 0, 0, 0, 0⟩,
    ⟨0x600f10, [(16, 0x8000)], .pairRO, 0, 0, 0, 0⟩,
    ⟨0x600f18, [(16, 0x8000)], .pairRO, 0, 0, 0, 0⟩,
    ⟨0x800f00, [], .word, 0, 0xfffffffe, 0, 0⟩,
    ⟨0x800f04, [], .word, 0, 0, 0xffffffff, 0⟩,
    ⟨0x800f08, [], .word, 0, 0, 0, 0⟩,
    ⟨0x800f10, [], .pairRO, 0, 0, 0, 0⟩ ]

def regRows17 : List RegRow :=
  [ ⟨0x800f18, [], .pairRO, 0, 0, 0, 0⟩,
    ⟨0xa00f00, [], .word, 0, 0xfffffffe, 0, 0⟩,
    ⟨0xa00f04, [], .word, 0, 0, 0xffffffff, 0⟩,
    ⟨0xa00f08, [], .word, 0, 0, 0, 0⟩,
    ⟨0xa00f10, [], .pairRO, 0, 0, 0, 0⟩,
    ⟨0xa00f18, [], .pairRO, 0, 0, 0, 0⟩,
    ⟨0xc00f00, [], .word, 0, 0xfffffffe, 0, 0⟩,
    ⟨0xc00f04, [], .word, 0, 0, 0xffffffff, 0⟩,
    ⟨0xc00f08, [], .word, 0, 0, 0, 0⟩,
    ⟨0xc00f10, [], .pairRO, 0, 0, 0, 0⟩,
    ⟨0xc00f18, [], .pairRO, 0, 0, 0, 0⟩,
    ⟨0x1000f00, [], .word, 0, 0xfffffffe, 0, 0⟩,
    ⟨0x1000f04, [], .word, 0, 0, 0xffffffff, 0⟩,
    ⟨0x1000f08, [], .word, 0, 0, 0, 0⟩,
    ⟨0x1000f10, [], .pairRO, 0, 0, 0, 0⟩,
    ⟨0x1000f18, [], .pairRO, 0, 0, 0, 0⟩,
    ⟨0x2000f00, [(8, 0x200000)], .word, 0, 0xfffffffe, 0, 0⟩,
    ⟨0x2000f04, [(8, 0x200000)], .word, 0, 0, 0xffffffff, 0⟩,
    ⟨0x2000f08, [(8, 0x200000)], .word, 0, 0, 0, 0⟩,
    ⟨0x2000f10, [(8, 0x200000)], .pairRO, 0, 0, 0, 0⟩,
    ⟨0x2000f18, [(8, 0x200000)], .pairRO, 0, 0, 0, 0⟩ ]

/-- The whole map. -/
def regRows : List RegRow :=
  regRows0 ++ regRows1 ++ regRows2 ++ regRows3 ++ regRows4 ++ regRows5 ++ regRows6 ++ regRows7 ++
  regRows8 ++ regRows9 ++ regRows10 ++ regRows11 ++ regRows12 ++ regRows13 ++ regRows14 ++ regRows15 ++ regRows16 ++ regRows17

/-- The indices of a register array that the offset `o` from its base falls on, with what is left of the offset. -/
def regIndex : List (Nat × Nat) → Nat → Option (List Nat × Nat)
  | [], o => some ([], o)
  | (count, stride) :: ds, o =>
    if o / stride < count then
      match regIndex ds (o % stride) with
      | some (ix, r) => some (o / stride :: ix, r)
      | none => none
    else none

/-- A register that an offset decodes to: its row, its indices, and whether it is the HI half of a pair. -/
structure RegHit where
  row : RegRow
  ix  : List Nat
  hi  : Bool
  deriving DecidableEq, Repr

/-- Whether the aligned offset `a` is one of the registers of `row`. -/
def RegRow.hit (row : RegRow) (a : Nat) : Option RegHit :=
  if a < row.base then none else
  match regIndex row.dims (a - row.base) with
  | none => none
  | some (ix, r) =>
    let pair := row.kind != .word && row.kind != .view
    if r = 0 then some ⟨row, ix, false⟩
    else if pair && r == 4 then some ⟨row, ix, true⟩
    else none

/-- Which of `rows` the offset decodes to. -/
def regFind : List RegRow → Nat → Option RegHit
  | [], _ => none
  | row :: rows, a =>
    match row.hit a with
    | some h => some h
    | none => regFind rows a

/-- Address decode of BAR0 (10 R544): the register an aligned offset selects, or none. -/
def decodeReg (a : Nat) : Option RegHit := regFind regRows a

/-- Whether `a` is a register of the array at `base`. -/
def isAt (base : Nat) (dims : List (Nat × Nat)) (a : Nat) : Bool :=
  if a < base then false else
  match regIndex dims (a - base) with
  | some (_, 0) => true
  | _ => false

/-- The non-zero reset values of the registers from 0 on, as the register tables give them. -/
def resetLow (a : Nat) : Word :=
  if a == 0x24 then 0x8000041a else -- GLOBAL_TEMP_ALERT
  if a == 0x1004c then 0x64 else -- KEEPER_PWR_CTL
  if a == 0x10000c then 0x3e8 else -- INTC_STRAND_LIMIT
  if isAt 0x101000 [(1024, 4)] a then 0x80000000 else -- INTC_SRC_CFG
  if isAt 0x110008 [(32, 0x1000)] a then 0x1ffff else -- INTC_HT_PRIV_MASK
  if a == 0x300000 then 0x200 else -- RING_WALK_LIMIT
  if a == 0x300010 then 0x200 else -- RING_RX_BACKLOG
  0

/-- The non-zero reset values of the registers from 0x400000 on, as the register tables give them. -/
def resetTime (a : Nat) : Word :=
  if a == 0x400018 then 0x33333333 else -- TIME_REACH_INCR
  if a == 0x40001c then 0x333 else -- TIME_REACH_INCR
  if isAt 0x400108 [(2, 0x100)] a then 0x33333333 else -- TIME_INCR
  if isAt 0x40010c [(2, 0x100)] a then 0x333 else -- TIME_INCR
  if isAt 0x400110 [(2, 0x100)] a then 0xc09 else -- TIME_SERVO_CTL
  if isAt 0x400120 [(2, 0x100)] a then 0x3e800c8 else -- TIME_THRESH
  if isAt 0x400124 [(2, 0x100)] a then 0x144010 else -- TIME_LOCK
  if a == 0x400300 then 0xa0032 else -- TIME_OUT_CTL
  if a == 0x400400 then 0x64 else -- TIME_PPS_CTL
  0

/-- The non-zero reset values of the registers from 0x500000 on, as the register tables give them. -/
def resetMid (a : Nat) : Word :=
  if isAt 0x500200 [(16, 4)] a then 0xfff else -- LINE_PM
  if a == 0x500300 then 0x22400 else -- LINE_REASM_CTL
  if a == 0x500410 then 0xc000320 else -- LINE_REG_CTL
  if a == 0x500414 then 0x64 else -- LINE_STEP_THRESH
  if a == 0x500500 then 0xc8 else -- LINE_HG_LEAD
  if a == 0x500504 then 0x3e8 else -- LINE_ADMIT_HORIZON
  if a == 0x500600 then 0xffff0000 else -- LINE_HG_BURST_EN
  if a == 0x500604 then 0x64 else -- LINE_HG_STAGE
  if isAt 0x500740 [(16, 4)] a then 0x60039 else -- LINE_LANE_TXEQ
  if isAt 0x600008 [(16, 0x8000)] a then 0x40002400 else -- CLIENT_RX_CTL
  if isAt 0x60000c [(16, 0x8000)] a then 0xffff else -- CLIENT_FC_CTL
  if isAt 0x600010 [(16, 0x8000)] a then 0x100 else -- CLIENT_TX_CTL
  if isAt 0x700800 [(16, 4)] a then 0x60039 else -- CLIENT_LANE_TXEQ
  if isAt 0x800584 [(4, 8)] a then 0x400064 else -- CLASS_PRIV_RATE
  if a == 0xa00010 then 0x10 else -- BUFFER_CIS_DRAW_WM
  if a == 0xc00004 then 0x3e8 else -- PERF_TALLY_INTERVAL
  if a == 0xc00040 then 1 else -- PERF_SAMPLE_CTL
  if isAt 0xc00100 [(8, 0x20)] a then 0xff else -- PERF_ACC_CTL
  if isAt 0xc00110 [(8, 0x20)] a then 0xffffffff else -- PERF_ACC_END
  if isAt 0xc00114 [(8, 0x20)] a then 0xffffffff else -- PERF_ACC_END
  0

/-- The non-zero reset values of the registers from 0x2000000 on, as the register tables give them. -/
def resetTract (a : Nat) : Word :=
  if isAt 0x200012c [(8, 0x200000)] a then 0xa else -- TRACT_CELL_WATCH
  if isAt 0x2000200 [(8, 0x200000)] a then 0x140064 else -- TRACT_PACE_CTL
  if isAt 0x2000204 [(8, 0x200000)] a then 0x32002d0 else -- TRACT_PACE_LIMIT
  if isAt 0x2000208 [(8, 0x200000)] a then 0xa000a14 else -- TRACT_PACE_TIMING
  if isAt 0x200020c [(8, 0x200000)] a then 0x320 else -- TRACT_PACE_FIXED
  if isAt 0x2008008 [(8, 0x200000)] a then 0x400000 else -- TRACT_DROVER_FRAG
  if isAt 0x2010280 [(8, 0x200000)] a then 0xffffffff else -- TRACT_LEDGER_SLACK_MIN
  if isAt 0x2010300 [(8, 0x200000)] a then 0x1000 else -- TRACT_SAMPLE_CTL
  if isAt 0x2000100 [(8, 0x200000), (4, 4)] a then
    0x03020100 + 0x04040404 * BitVec.ofNat 32 (a % 16 / 4) else -- TRACT_CELL_MAP
  0

/-- The reset value of a stored register (the Reset column of its table; 0 where the table says 0). -/
def regReset (a : Nat) : Word :=
  if a < 0x400000 then resetLow a
  else if a < 0x500000 then resetTime a
  else if a < 0x2000000 then resetMid a
  else resetTract a

end Sys2Proof.Machine
end

