-- ==== Sys2Proof/Machine/Ops.lean ====
section
/-!
DEFINITION. The named operations over the state: sparse data, register fields, registers and pairs, unit presence,
free values, counters, events, fault records (02 R112-R117), and the outcome of a command.
-/
namespace Sys2Proof.Machine

/-- What a command answers. -/
abbrev Out := Host.Outcome State Fault Refusal

/-! ### Sparse data -/

/-- The entry of number `n`, or `d` where none is listed. -/
def look {α : Type} (d : α) : Sparse α → Nat → α
  | [], _ => d
  | (k, v) :: m, n => if n = k then v else look d m n

/-- `m` without entries of number `n`. -/
def del {α : Type} (n : Nat) : Sparse α → Sparse α
  | [] => []
  | (k, v) :: m => if n = k then del n m else (k, v) :: del n m

/-- `m` with `v` as the entry of number `n`. -/
def ins {α : Type} (n : Nat) (v : α) : Sparse α → Sparse α
  | [] => [(n, v)]
  | (k, w) :: m => if n < k then (n, v) :: (k, w) :: m else if n = k then (n, v) :: m else (k, w) :: ins n v m

/-- `m` with number `n` holding `v`, where an unlisted `n` holds `d`. -/
def put {α : Type} [DecidableEq α] (d : α) (m : Sparse α) (n : Nat) (v : α) : Sparse α :=
  if v = d then del n m else ins n v m

/-- The canonical form above number `lo`: numbers rise strictly and no entry equals what an unlisted one holds. -/
def Sparse.wfFrom {α : Type} [DecidableEq α] (d : Nat → α) : Nat → Sparse α → Bool
  | _, [] => true
  | lo, (k, v) :: m => decide (lo ≤ k) && decide (v ≠ d k) && Sparse.wfFrom d (k + 1) m

/-- The canonical form. -/
def Sparse.wf {α : Type} [DecidableEq α] (d : Nat → α) (m : Sparse α) : Bool := Sparse.wfFrom d 0 m

/-- `n` put into a rising list without repeats. -/
def setIns (n : Nat) : List Nat → List Nat
  | [] => [n]
  | k :: l => if n < k then n :: k :: l else if n = k then k :: l else k :: setIns n l

/-- `n` taken out of a list. -/
def setDel (n : Nat) (l : List Nat) : List Nat := l.filter (· != n)

/-! ### Fields of a word -/

/-- The `len` bits of `w` from bit `lo` up, as a number. -/
def fld {n : Nat} (w : BitVec n) (lo len : Nat) : Nat := (w.toNat >>> lo) % 2 ^ len

/-- Bit `i` of `w`. -/
def bit {n : Nat} (w : BitVec n) (i : Nat) : Bool := w.getLsbD i

/-- The word whose bit `i` alone is set. -/
def oneHot (i : Nat) : Word := BitVec.ofNat 32 (1 <<< i)

/-- `w` with bit `i` equal to `b`. -/
def setBit (w : Word) (i : Nat) (b : Bool) : Word := if b then w ||| oneHot i else w &&& ~~~(oneHot i)

/-- A word from its fields: each value shifted to its low bit. -/
def pack : List (Nat × Nat) → Word
  | [] => 0
  | (lo, v) :: fs => BitVec.ofNat 32 (v <<< lo) ||| pack fs

/-- One bit as a number. -/
def b2n (b : Bool) : Nat := if b then 1 else 0

/-- The word of the bits `i` below `n` for which `p` holds. -/
def bitsOf (n : Nat) (p : Nat → Bool) : Word :=
  BitVec.ofNat 32 (((List.range n).filter p).foldl (fun a i => a + 2 ^ i) 0)

/-- What a write of `v` leaves in a register holding `old`: RW bits take the value, W1C bits clear on a 1, all others stay
(00 R25). -/
def merge (old v rw w1c : Word) : Word := ((old &&& ~~~rw) ||| (v &&& rw)) &&& ~~~(v &&& w1c)

/-- The value nearest `x` between `lo` and `hi`. -/
def clampNat (lo hi x : Nat) : Nat := if x < lo then lo else if hi < x then hi else x

/-- A field that acts as 1 when it holds 0. -/
def zeroAsOne (x : Nat) : Nat := if x = 0 then 1 else x

/-- A number in 32 bits that holds at 0xFFFF_FFFF. -/
def sat32 (n : Nat) : Word := if 0xFFFFFFFF ≤ n then 0xFFFFFFFF else BitVec.ofNat 32 n

/-! ### Octets -/

/-- The number that octets spell, first octet most significant (03). -/
def beNat (b : Bytes) : Nat := b.foldl (fun a x => a * 256 + x.toNat) 0

/-- The number that octets spell, first octet least significant. -/
def leNat : Bytes → Nat
  | [] => 0
  | x :: b => x.toNat + 256 * leNat b

/-- `n` octets of `v`, most significant first. -/
def beBytes : Nat → Nat → Bytes
  | 0, _ => []
  | n + 1, v => beBytes n (v / 256) ++ [BitVec.ofNat 8 v]

/-- `n` octets of `v`, least significant first. -/
def leBytes : Nat → Nat → Bytes
  | 0, _ => []
  | n + 1, v => BitVec.ofNat 8 v :: leBytes n (v / 256)

/-- `n` octets of `b` from octet `i`, with 0 where `b` ends. -/
def slice (b : Bytes) (i n : Nat) : Bytes :=
  let p := (b.drop i).take n
  p ++ List.replicate (n - p.length) 0

/-- The number in octets `i` to `i + n - 1`, most significant first. -/
def beAt (b : Bytes) (i n : Nat) : Nat := beNat (slice b i n)

/-- The number in octets `i` to `i + n - 1`, least significant first. -/
def leAt (b : Bytes) (i n : Nat) : Nat := leNat (slice b i n)

/-- `b` with octets from `i` on replaced by `v`. -/
def patch (b : Bytes) (i : Nat) (v : Bytes) : Bytes := b.take i ++ v ++ b.drop (i + v.length)

/-- `n` rounded up to a multiple of `m`. -/
def roundUp (n m : Nat) : Nat := (n + m - 1) / m * m

/-- `b` followed by 0x00 to `n` octets. -/
def padTo (b : Bytes) (n : Nat) : Bytes := b ++ List.replicate (n - b.length) 0

/-- The octets, if none is erased (03 R142). -/
def whole : Octets → Option Bytes
  | [] => some []
  | none :: _ => none
  | some x :: o => (whole o).map (x :: ·)

/-- The octets with 0 in place of the erased ones, for a fault record. -/
def blanked (o : Octets) : Bytes := o.map (·.getD 0)

/-! ### Registers -/

/-- The register at an aligned BAR0 offset, as held. -/
def rd (s : State) (a : Nat) : Word := look (regReset a) s.regs a

/-- The register at an aligned BAR0 offset set to `v`. -/
def wr (s : State) (a : Nat) (v : Word) : State := { s with regs := put (regReset a) s.regs a v }

/-- The pair whose LO half is at `a` (00 R30). -/
def rd64 (s : State) (a : Nat) : DWord := rd s (a + 4) ++ rd s a

/-- Both halves of the pair at `a` set. -/
def wr64 (s : State) (a : Nat) (v : DWord) : State :=
  wr (wr s a (v.extractLsb' 0 32)) (a + 4) (v.extractLsb' 32 32)

/-- A field of the register at `a`. -/
def rfld (s : State) (a lo len : Nat) : Nat := fld (rd s a) lo len

/-- A bit of the register at `a`. -/
def rbit (s : State) (a i : Nat) : Bool := bit (rd s a) i

/-- A plain write: RW and W1C bits of the register at `a` take `v` as 00 R25 says. -/
def wrField (s : State) (a : Nat) (v rw w1c : Word) : State := wr s a (merge (rd s a) v rw w1c)

/-- A 32-bit counter that holds at 0xFFFF_FFFF counts `n` more. -/
def bumpBy (s : State) (a n : Nat) : State := wr s a (sat32 ((rd s a).toNat + n))

/-- A 32-bit counter counts one more. -/
def bump (s : State) (a : Nat) : State := bumpBy s a 1

/-- What the register at `a` held at instant `x`, in units of 2^-16/5 ns: a write of that instant or later is not seen (09 R496, R497,
R528). -/
def rdAt (s : State) (x a : Nat) : Word :=
  (s.past.filter fun e => e.2.1 == a && decide (x ≤ 2 ^ 20 * e.1)).foldl (fun _ e => e.2.2) (rd s a)

/-- What register `a` held before a change from `old` is kept. -/
def keepPast (old : State) (a : Nat) (s : State) : State :=
  if rd s a = rd old a then s else { s with past := (s.now, a, rd old a) :: s.past }

/-- Bit `i` of an event register sets. -/
def event (s : State) (a i : Nat) : State := wr s a (rd s a ||| oneHot i)

/-- A 64-bit counter pair counts `n` more, modulo 2^64. -/
def bump64 (s : State) (a n : Nat) : State := wr64 s a (rd64 s a + BitVec.ofNat 64 n)

/-! ### Pairs (00 R30-R34) -/

/-- A write to the LO half of a read-write pair: the half waits for its HI half (00 R34). -/
def stageLo (s : State) (a : Nat) (v : Word) : State :=
  { s with host := { s.host with stage := put (regReset a) s.host.stage a v } }

/-- A write to the HI half of the pair at `a`: the pair takes it with the LO half last written (00 R34). -/
def takeHi (s : State) (a : Nat) (v : Word) (mask : DWord) : State :=
  wr64 s a ((v ++ look (regReset a) s.host.stage a) &&& mask)

/-- The register-access paths, each with its own HI latches (17 R904, 14 R753). -/
abbrev hostPath : Nat := 0
/-- The management path. -/
abbrev mgtPath : Nat := 1

/-- A LO read latches the HI half of the pair at `a` (00 R31). -/
def setLatch (s : State) (path a : Nat) (v : Word) : State :=
  { s with host := { s.host with latch := put 0 s.host.latch (path * 0x4000000 + a) v } }

/-- The HI half last latched, or 0 after reset (00 R33). -/
def getLatch (s : State) (path a : Nat) : Word := look 0 s.host.latch (path * 0x4000000 + a)

/-! ### The part and its units -/

/-- GLOBAL_UNIT_PRESENT (00 R3). -/
def unitPresent (s : State) : Word :=
  match s.fuses.part with
  | .dlb9716 => 0x0003FFFF
  | .dlb9716n => 0x0001FFFF
  | .dlb9708 => 0x00020F0F

/-- Tract `t` is fitted. -/
def hasTract (s : State) (t : Nat) : Bool := t < 8 && bit (unitPresent s) t

/-- Reservoir channel `ch` is fitted. -/
def hasChannel (s : State) (ch : Nat) : Bool := ch < 8 && bit (unitPresent s) (8 + ch)

/-- Time domain B is fitted. -/
def hasB (s : State) : Bool := bit (unitPresent s) 16

/-- The cipher is fitted. -/
def hasCipher (s : State) : Bool := bit (unitPresent s) 17

/-- The tracts fitted. -/
def tracts (s : State) : List Nat := (List.range 8).filter (hasTract s)

/-- The tract that a register of a tract, a queue or an allotment ID belongs to is fitted (00 R4-R7). -/
def tractCount (s : State) : Nat := (tracts s).length

/-! ### Outputs, free values and faults -/

/-- `o` leaves the device. -/
def emit (s : State) (o : Output) : State := { s with wire := s.wire ++ [o] }

/-- The next number to draw a free value by; `free` counts the draws. -/
def draw1 (s : State) : State := { s with free := s.free + 1 }

/-! ### Arbiters (01 R38-R41) -/

/-- Input `i` of an arbiter may not be granted yet: an input that lost to it still waits (01 R39). -/
def barred (s : State) (a : Arbiter) (i : Nat) (waits : Nat → Bool) : Bool :=
  s.turns.any fun x => x.at_ == a && x.winner == i && waits x.loser

/-- Input `i` of an arbiter is granted while the inputs of `waiting` ask: each other one of them goes before it the next time; what was owed to
`i`, and to inputs that ask no longer, is over (01 R39, R40). -/
def granted (a : Arbiter) (i : Nat) (waiting : List Nat) (s : State) : State :=
  let old := s.turns.filter fun x => x.at_ != a || (x.loser != i && x.winner != i && waiting.contains x.loser)
  { s with turns := old ++ (waiting.filter (· != i)).map fun j => ⟨a, i, j⟩ }

/-- The reach counter as a register reads it (11 R607). -/
def reachNow (s : State) : DWord := s.time.reach.extractLsb' 24 64

/-- A block that has a fault record (02 R112, R118). -/
inductive Block where
  | global | keeper | image | host | intc | check | dma | ring | time | line | cipher
  | client (p : Nat) | cls | buffer | perf | queue | tract (t : Nat)
  deriving DecidableEq, Repr

/-- Where the block's fault record lies (02 R112). -/
def Block.base : Block → Nat
  | .global => 0x0F00
  | .keeper => 0x10F00
  | .image => 0x20F00
  | .host => 0x30F00
  | .intc => 0x100F00
  | .check => 0x180F00
  | .dma => 0x200F00
  | .ring => 0x300F00
  | .time => 0x400F00
  | .line => 0x500F00
  | .cipher => 0x580F00
  | .client p => 0x600F00 + p * 0x8000
  | .cls => 0x800F00
  | .buffer => 0xA00F00
  | .perf => 0xC00F00
  | .queue => 0x1000F00
  | .tract t => 0x2000F00 + t * 0x200000

/-- The block's identifier (02 R118). -/
def Block.id : Block → Nat
  | .global => 0
  | .keeper => 1
  | .image => 2
  | .host => 3
  | .intc => 4
  | .check => 5
  | .dma => 6
  | .ring => 7
  | .time => 8
  | .line => 9
  | .cipher => 10
  | .client _ => 11
  | .cls => 12
  | .buffer => 13
  | .perf => 14
  | .queue => 15
  | .tract t => 16 + t

/-- A fault's CODE bit sets, and it is captured while FIRST_VALID is 0 (02 R117). -/
def capture (s : State) (x : FaultNote) : State :=
  let st := rd s x.base
  let s1 := wr s x.base (st ||| oneHot x.code ||| oneHot 31)
  if bit st 31 then s1 else wr64 (wr64 (wr s1 (x.base + 8) x.tag) (x.base + 0x10) x.ident) (x.base + 0x18) x.time

/-- The faults of the present instant. -/
def faultsNow (s : State) : List FaultNote := s.intc.faults.filter fun x => x.at_ == s.now

/-- The block detects a fault of reach time `time`: its CODE bit sets and it counts, and it is captured while FIRST_VALID is 0
(02 R113-R117). -/
def faultAt (s : State) (b : Block) (code inst : Nat) (ident time : DWord) : State :=
  let x : FaultNote := ⟨s.now, b.base, code, pack [(24, b.id), (16, code), (0, inst)], ident, time⟩
  capture (bump { s with intc := { s.intc with faults := faultsNow s ++ [x] } } (b.base + 4)) x

/-- The block detects a fault now. -/
def fault (s : State) (b : Block) (code inst : Nat) (ident : DWord) : State := faultAt s b code inst ident (reachNow s)

/-- INSTANCE for a block as a whole (02 R115). -/
abbrev wholeBlock : Nat := 0xFFFF

/-! ### Requests of the host unit (10 R539, R540, R605) -/

/-- The attributes of every request: Relaxed Ordering, ID-Based Ordering and No Snoop are clear. -/
abbrev noAttrs : BitVec 3 := 0

/-- The pieces of `n` bytes from `a` on, cut at the multiples of `m`: each with its address and length. -/
def busPieces (m : Nat) : Nat → Nat → Nat → List (Nat × Nat)
  | 0, _, _ => []
  | k + 1, a, n =>
    if n = 0 then []
    else
      let c := Nat.min n (m - a % m)
      (a, c) :: busPieces m k (a + c) (n - c)

/-- Bytes of the size that three bits of Device Control give: 128 and its doubles, up to `top` (10 R537; log 131, PRESUMED). -/
def sizeField (s : State) (i top : Nat) : Nat := Nat.min top (128 * 2 ^ fld s.host.cfg.ctl i 3)

/-- Requests that go out one after the other. -/
def emitAll (s : State) (l : List Output) : State := { s with wire := s.wire ++ l }

/-- Memory writes to the host, of at most Max Payload Size each (10 R537). -/
def hostWr (s : State) (a : DWord) (b : Bytes) : State :=
  let m := sizeField s 5 512
  emitAll s ((busPieces m (b.length / m + 2) a.toNat b.length).map fun p =>
    .hostWrite noAttrs (BitVec.ofNat 64 p.1) (slice b (p.1 - a.toNat) p.2))

/-- Memory reads from the host, of at most Max Read Request Size each (10 R537). -/
def hostRd (s : State) (a : DWord) (n : Nat) : State :=
  let m := sizeField s 12 4096
  emitAll s ((busPieces m (n / m + 2) a.toNat n).map fun p => .hostRead noAttrs (BitVec.ofNat 64 p.1) p.2)

/-- Bit `i` of the uncorrectable error status sets (log 131, PRESUMED). -/
def noteError (s : State) (i : Nat) : State :=
  { s with host := { s.host with cfg := { s.host.cfg with aer := s.host.cfg.aer ||| oneHot i } } }

/-- The next of numbers below `n`, in rotation after `turn`, for which `p` holds. -/
def nextAfter (turn n : Nat) (p : Nat → Bool) : Option Nat := ((List.range n).map fun i => (turn + 1 + i) % n).find? p

/-- A read that is not answered holds its operation: the completion timeout is disabled (10 R540). -/
def hangs (s : State) (r : Reply) : Bool := decide (r = .timedOut) && bit s.host.cfg.ctl2 4

/-- A host read is issued and answered by `r`, and its operation goes on with `f`; one that hangs is `held` for ever (10 R540). -/
def answered (r : Reply) (issue f held : State → State) (s : State) : State :=
  match r with
  | .stray _ => s
  | .timedOut => if hangs s r then held (issue s) else f (noteError (issue s) 14)
  | .poisoned _ => f (noteError (issue s) 12)
  | .ok _ => f (issue s)
  | .failed => f (issue s)

/-! ### Modes -/

/-- BAR0 is accessible (02 R105 step 4, R108): the core runs and step 4 has passed. -/
def barOpen (s : State) : Bool := s.power.coreUp && s.power.barOpen && s.mode.mode != .dormant

/-- The core is powered, out of reset and not in DORMANT: its clocks and engines run (16 R844, 17 R876 R877). -/
def running (s : State) : Bool := s.power.coreUp && s.mode.mode != .dormant

/-- The host's PCI Express accesses reach the function: PERST_N is released and it is in D0 (02 R102, 10 R543). -/
def hostUp (s : State) : Bool := running s && !s.host.perst && !s.host.d3

/-- The unit that awaits a read takes its reply with `f`; a completion that answers no request of the device is recorded, whatever the unit is
doing (10 R605). -/
def onReply (r : Reply) (f : State → State) (s : State) : State :=
  match r with
  | .stray tag => if hostUp s then fault (noteError s 16) .host 3 wholeBlock (tag.setWidth 64) else s
  | _ => f s

end Sys2Proof.Machine
end

