-- ==== Sys2Proof/Machine/Crypto.lean ====
section
/-!
DEFINITION. The standard algorithms that the spec names and does not restate (log 20, PRESUMED: written from the standards): SHA-384 (FIPS 180-4), HMAC and
HKDF over it (RFC 2104, RFC 5869), AES-256 (FIPS 197), GCM (SP 800-38D), the RFC 3394 key unwrap, and ECDSA and ECDH on P-384 (FIPS 186-4, SP 800-56A).
-/
namespace Sys2Proof.Machine

/-! ### SHA-384 -/

/-- The greatest number below `r + 2 ^ k` whose power `e` is at most `n`, found bit by bit from `r` on. -/
def rootFrom (e n : Nat) : Nat → Nat → Nat
  | 0, r => r
  | k + 1, r => rootFrom e n k (if (r + 2 ^ k) ^ e ≤ n then r + 2 ^ k else r)

/-- The first 64 bits of the fractional part of the root of degree `e` of `p`. -/
def rootFraction (e p : Nat) : DWord := BitVec.ofNat 64 (rootFrom e (p * 2 ^ (64 * e)) 70 0)

/-- The first eighty primes. -/
def shaPrimes : List Nat := (List.range 410).filter fun p => decide (2 ≤ p) && (List.range p).all fun d => decide (d < 2) || p % d != 0

/-- The constants of the eighty rounds: cube roots of the primes. -/
def shaK : List DWord := shaPrimes.map (rootFraction 3)

/-- The initial hash value: square roots of the ninth to the sixteenth prime. -/
def shaInit : List DWord := ((shaPrimes.drop 8).take 8).map (rootFraction 2)

/-- A word turned right by two distances, the two added to a third. -/
def turned (w : DWord) (i j : Nat) (last : DWord) : DWord := last ^^^ (w.rotateRight i ^^^ w.rotateRight j)

/-- The next word of the message schedule, which is held newest word first. -/
def shaNext (w : List DWord) : DWord :=
  let old := w.getD 14 0
  let new := w.getD 1 0
  turned new 19 61 (new >>> 6) + w.getD 6 0 + turned old 1 8 (old >>> 7) + w.getD 15 0

/-- The message schedule with `n` words more, newest word first. -/
def shaSchedule : Nat → List DWord → List DWord
  | 0, w => w
  | n + 1, w => shaSchedule n (shaNext w :: w)

/-- One round on the eight working variables, with the sum of round constant and schedule word: seven of them move down one place, the fifth
place takes the fourth variable with the round's sum, and a new one comes first. -/
def shaRound (v : List DWord) (kw : DWord) : List DWord :=
  let x (i : Nat) : DWord := v.getD i 0
  let choice := x 6 ^^^ (x 4 &&& (x 5 ^^^ x 6))
  let majority := (x 0 &&& x 1) ||| (x 2 &&& (x 0 ||| x 1))
  let sum := kw + x 7 + choice + turned (x 4) 14 18 ((x 4).rotateRight 41)
  ((sum + majority + turned (x 0) 28 34 ((x 0).rotateRight 39)) :: v.take 7).set 4 (x 3 + sum)

/-- The 64-bit words of octets, eight octets each. -/
def octetWords : Nat → Bytes → List DWord
  | 0, _ => []
  | n + 1, b => BitVec.ofNat 64 (beNat (b.take 8)) :: octetWords n (b.drop 8)

/-- The hash value after one block of 128 octets. -/
def shaBlock (h : List DWord) (b : Bytes) : List DWord :=
  let w := (shaSchedule 64 (octetWords 16 b).reverse).reverse
  List.zipWith (· + ·) h ((List.zipWith (· + ·) shaK w).foldl shaRound h)

/-- The hash value after `n` blocks. -/
def shaBlocks : Nat → List DWord → Bytes → List DWord
  | 0, h, _ => h
  | n + 1, h, b => shaBlocks n (shaBlock h (b.take 128)) (b.drop 128)

/-- The padding of a message of `n` octets: a 1 bit, zeros, and the length in bits as 16 octets. -/
def shaPad (n : Nat) : Bytes := 0x80#8 :: List.replicate ((239 - n % 128) % 128) 0 ++ beBytes 16 (8 * n)

/-- SHA-384 of octets: 48 octets. -/
def sha384 (b : Bytes) : Bytes :=
  let m := b ++ shaPad b.length
  ((shaBlocks (m.length / 128) shaInit m).take 6).flatMap fun w => beBytes 8 w.toNat

/-- HMAC-SHA-384 under a key of at most 128 octets, which every key here is. -/
def hmac384 (key text : Bytes) : Bytes :=
  let k := padTo key 128
  sha384 (k.map (· ^^^ 0x5C#8) ++ sha384 (k.map (· ^^^ 0x36#8) ++ text))

/-- HKDF-SHA-384: extract with the salt, then the first `len` octets of one block of output, which is all that is asked of it (04 R259). -/
def hkdf384 (salt ikm info : Bytes) (len : Nat) : Bytes := (hmac384 (hmac384 salt ikm) (info ++ [0x01#8])).take len

/-! ### AES-256 -/

/-- The substitution table, entry `i` in octet `i`. -/
def aesTable : Nat := 0x16bb54b00f2d99416842e6bf0d89a18cdf2855cee9871e9b948ed9691198f8e19e1dc186b95735610ef6034866b53e708a8bbd4b1f74dde8c6b4a61c2e2578ba08ae7a65eaf4566ca94ed58d6d37c8e779e4959162acd3c25c2406490a3a32e0db0b5ede14b8ee4688902a22dc4f816073195d643d7ea7c41744975fec130ccdd2f3ff1021dab6bcf5389d928f40a351a89f3c507f02f94585334d43fbaaefd0cf584c4a39becb6a5bb1fc20ed00d153842fe329b3d63b52a05a6e1b1a2c830975b227ebe28012079a059618c323c7041531d871f1e5a534ccf73f362693fdb7c072a49cafa2d4adf04759fa7dc982ca76abd7fe2b670130c56f6bf27b777c63

/-- The inverse substitution table. -/
def aesInvTable : Nat := 0x7d0c2155631469e126d677ba7e042b17619953833cbbebc8b0f52aae4d3be0a0ef9cc9939f7ae52d0d4ab519a97f51605fec8027591012b131c7078833a8dd1ff45acd78fec0db9a2079d2c64b3e56fc1bbe18aa0e62b76f89c5291d711af1476edf751ce837f9e28535ade72274ac9673e6b4f0cecff297eadc674f4111913a6b8a130103bdafc1020f3fca8f1e2cd00645b3b80558e4f70ad3bc8c00abd890849d8da75746155edab9edfd5048706c92b6655dcc5ca4d41698688664f6f87225d18b6d49a25b76b224d92866a12e084ec3fa420b954cee3d23c2a632947b54cbe9dec444438e3487ff2f9b8239e37cfbd7f3819ea340bf38a53630d56a0952

/-- An octet substituted. -/
def aesSub (x : Byte) : Byte := BitVec.ofNat 8 (aesTable >>> (8 * x.toNat))

/-- An octet substituted back. -/
def aesInvSub (x : Byte) : Byte := BitVec.ofNat 8 (aesInvTable >>> (8 * x.toNat))

/-- An octet times x in the field of AES. -/
def aesDouble (x : Byte) : Byte := x <<< 1 ^^^ (if x.msb then 0x1B#8 else 0)

/-- An octet times a constant below 16. -/
def aesTimes (k : Nat) (x : Byte) : Byte :=
  let x2 := aesDouble x
  let x4 := aesDouble x2
  (if k.testBit 0 then x else 0) ^^^ (if k.testBit 1 then x2 else 0) ^^^ (if k.testBit 2 then x4 else 0) ^^^ (if k.testBit 3 then aesDouble x4 else 0)

/-- Octets added octet by octet. -/
def xorBytes (a b : Bytes) : Bytes := List.zipWith (· ^^^ ·) a b

/-- The next 4-octet word of the key schedule, which is held newest word first; `i` is its number. -/
def aesNextWord (i : Nat) (ws : List Bytes) : Bytes :=
  let t := ws.headD []
  let u :=
    if i % 8 = 0 then xorBytes (t.rotateLeft.map aesSub) [(BitVec.ofNat 8 1) <<< (i / 8 - 1), 0, 0, 0]
    else if i % 8 = 4 then t.map aesSub else t
  xorBytes (ws.getD 7 []) u

/-- The key schedule with `n` words more, from word `i`. -/
def aesSchedule : Nat → Nat → List Bytes → List Bytes
  | 0, _, ws => ws
  | n + 1, i, ws => aesSchedule n (i + 1) (aesNextWord i ws :: ws)

/-- The octets cut into pieces of `m`, `n` pieces. -/
def pieces (m : Nat) : Nat → Bytes → List Bytes
  | 0, _ => []
  | n + 1, b => b.take m :: pieces m n (b.drop m)

/-- The fifteen round keys of a 32-octet key. -/
def aesKeys (key : Bytes) : List Bytes := pieces 16 15 (aesSchedule 52 8 (pieces 4 8 key).reverse).reverse.flatten

/-- The rows of the state moved: octet `i` comes from octet `f i`. -/
def aesMove (f : Nat → Nat) (b : Bytes) : Bytes := (List.range 16).map fun i => b.getD (f i) 0

/-- ShiftRows. -/
def aesShift (b : Bytes) : Bytes := aesMove (fun i => (i + 4 * (i % 4)) % 16) b

/-- InvShiftRows. -/
def aesUnshift (b : Bytes) : Bytes := aesMove (fun i => (i + 12 * (i % 4)) % 16) b

/-- The columns mixed with the matrix whose first row is `m`. -/
def aesMix (m : List Nat) (b : Bytes) : Bytes :=
  (List.range 16).map fun i =>
    (List.range 4).foldl (fun a j => a ^^^ aesTimes (m.getD ((j + 4 - i % 4) % 4) 0) (b.getD (i / 4 * 4 + j) 0)) 0

/-- A middle round of encryption. -/
def aesRound (b k : Bytes) : Bytes := xorBytes (aesMix [2, 3, 1, 1] (aesShift (b.map aesSub))) k

/-- A middle round of decryption. -/
def aesInvRound (b k : Bytes) : Bytes := aesMix [14, 11, 13, 9] (xorBytes ((aesUnshift b).map aesInvSub) k)

/-- AES-256 encryption of a block of 16 octets. -/
def aesEnc (key b : Bytes) : Bytes :=
  let ks := aesKeys key
  xorBytes (aesShift (((ks.drop 1).take 13).foldl aesRound (xorBytes b (ks.headD [])) |>.map aesSub)) (ks.getD 14 [])

/-- AES-256 decryption of a block of 16 octets. -/
def aesDec (key b : Bytes) : Bytes :=
  let ks := aesKeys key
  xorBytes ((aesUnshift (((ks.drop 1).take 13).reverse.foldl aesInvRound (xorBytes b (ks.getD 14 [])))).map aesInvSub) (ks.headD [])

/-! ### GCM -/

/-- The product of two blocks in the field of GCM, a block being a number whose most significant bit is coefficient 0: `n` bits of `x` from the most
significant on are used, with `v` the multiple of `y` that the next one takes. -/
def ghashMul : Nat → Nat → Nat → Nat → Nat
  | 0, _, _, z => z
  | n + 1, x, v, z =>
    ghashMul n x (if v % 2 = 1 then v / 2 ^^^ (0xE1 <<< 120) else v / 2) (if x.testBit n then z ^^^ v else z)

/-- The GHASH of `n` blocks of octets under the hash key `h`, from `y`; the octets are padded with zeros. -/
def ghash (h : Nat) : Nat → Bytes → Nat → Nat
  | 0, _, y => y
  | n + 1, b, y => ghash h n (b.drop 16) (ghashMul 128 (y ^^^ beAt b 0 16) h 0)

/-- The blocks that octets fill. -/
def blocksOf (b : Bytes) : Nat := (b.length + 15) / 16

/-- Octets under the counter-mode key stream of a 96-bit IV, whose first block is counter `c`; `n` blocks. -/
def gcmStream (key iv : Bytes) : Nat → Nat → Bytes → Bytes
  | 0, _, _ => []
  | n + 1, c, b => xorBytes (b.take 16) (aesEnc key (iv ++ beBytes 4 c)) ++ gcmStream key iv n (c + 1) (b.drop 16)

/-- The cipher of AES-256-GCM on octets: cleartext to ciphertext, or back (03 R177). -/
def gcmApply (key iv text : Bytes) : Bytes := gcmStream key iv (blocksOf text) 2 text

/-- The 16-octet tag of AES-256-GCM for additional data and a ciphertext (03 R177). -/
def gcmTagOf (key iv aad cipher : Bytes) : Bytes :=
  let h := beNat (aesEnc key (List.replicate 16 0))
  let y := ghash h (blocksOf cipher) cipher (ghash h (blocksOf aad) aad 0)
  let len := beBytes 8 (8 * aad.length) ++ beBytes 8 (8 * cipher.length)
  xorBytes (beBytes 16 (ghash h 1 len y)) (aesEnc key (iv ++ beBytes 4 1))

/-! ### Key unwrap -/

/-- One step of the unwrap: the register A, the `n` semiblocks with the one to be opened last, and the step's number. -/
def unwrapStep (kek : Bytes) (x : Bytes × List Bytes) (t : Nat) : Bytes × List Bytes :=
  let b := aesDec kek (xorBytes x.1 (beBytes 8 t) ++ x.2.getLastD [])
  (b.take 8, b.drop 8 :: x.2.dropLast)

/-- The RFC 3394 unwrap of octets under a key-encryption key; none when the integrity check fails. -/
def keyUnwrap (kek wrapped : Bytes) : Option Bytes :=
  let n := wrapped.length / 8 - 1
  let r := ((List.range (6 * n)).map (· + 1)).reverse.foldl (unwrapStep kek) (wrapped.take 8, pieces 8 n (wrapped.drop 8))
  if r.1 == List.replicate 8 0xA6#8 then some r.2.flatten else none

/-! ### P-384 -/

/-- The prime of the field. -/
def p384 : Nat := 2 ^ 384 - 2 ^ 128 - 2 ^ 96 + 2 ^ 32 - 1

/-- The order of the base point. -/
def n384 : Nat := 0xffffffffffffffffffffffffffffffffffffffffffffffffc7634d81f4372ddf581a0db248b0a77aecec196accc52973

/-- The coefficient b of the curve y^2 = x^3 - 3x + b. -/
def b384 : Nat := 0xb3312fa7e23ee7e4988e056be3f82d19181d9c6efe8141120314088f5013875ac656398d8a2ed19d2a85c8edd3ec2aef

/-- The power `x ^ e` modulo `m`, over the `n` low bits of `e`. -/
def powMod (m x e : Nat) : Nat → Nat
  | 0 => 1
  | n + 1 =>
    let y := powMod m x (e / 2) n
    if e % 2 = 1 then y * y % m * x % m else y * y % m

/-- The inverse of `x` modulo a prime below 2^384. -/
def invMod (m x : Nat) : Nat := powMod m (x % m) (m - 2) 384

/-- A point in Jacobian coordinates; Z is 0 for the point at infinity. -/
structure JPoint where
  x : Nat
  y : Nat
  z : Nat
  deriving DecidableEq, Repr

/-- The difference of two field elements. -/
def subP (a b : Nat) : Nat := (a + p384 - b % p384) % p384

/-- A point doubled. -/
def dblJ (p : JPoint) : JPoint :=
  let y2 := p.y * p.y % p384
  let z2 := p.z * p.z % p384
  let s := 4 * p.x * y2 % p384
  let m := 3 * (subP p.x z2 * (p.x + z2)) % p384
  let x := subP (m * m) (2 * s)
  { x := x, y := subP (m * subP s x) (8 * y2 * y2), z := 2 * p.y * p.z % p384 }

/-- The sum of two points. -/
def addJ (p q : JPoint) : JPoint :=
  if p.z = 0 then q else if q.z = 0 then p
  else
    let pz := p.z * p.z % p384
    let qz := q.z * q.z % p384
    let u := p.x * qz % p384
    let s := p.y * qz % p384 * q.z % p384
    let h := subP (q.x * pz) u
    let r := subP (q.y * pz % p384 * p.z) s
    if h = 0 then if r = 0 then dblJ p else { x := 1, y := 1, z := 0 }
    else
      let h2 := h * h % p384
      let h3 := h * h2 % p384
      let v := u * h2 % p384
      let x := subP (r * r) (h3 + 2 * v)
      { x := x, y := subP (r * subP v x) (s * h3), z := h * p.z % p384 * q.z % p384 }

/-- The multiple of a point by the `n` low bits of `k`. -/
def mulJ (p : JPoint) (k : Nat) : Nat → JPoint
  | 0 => { x := 1, y := 1, z := 0 }
  | n + 1 =>
    let d := dblJ (mulJ p (k / 2) n)
    if k % 2 = 1 then addJ d p else d

/-- The affine coordinates of a point; none at infinity. -/
def affine (p : JPoint) : Option (Nat × Nat) :=
  if p.z = 0 then none
  else
    let i := invMod p384 p.z
    let i2 := i * i % p384
    some (p.x * i2 % p384, p.y * i2 % p384 * i % p384)

/-- The base point. -/
def g384 : JPoint :=
  { x := 0xaa87ca22be8b05378eb1c71ef320ad746e1d3b628ba79b9859f741e082542a385502f25dbf55296c3a545e3872760ab7,
    y := 0x3617de4a96262c6f5d9e98bf9292dc29f8f41dbd289a147ce9da3113b5f0b8c00a60b1ce1d7e819d7a431d7c90ea0e5f, z := 1 }

/-- The point that 97 octets spell uncompressed: 0x04, X, Y; none where they spell no point of the curve. -/
def pointOf (b : Bytes) : Option JPoint :=
  let x := beAt b 1 48
  let y := beAt b 49 48
  if b.headD 0 == 0x04#8 && decide (x < p384) && decide (y < p384) && decide (y * y % p384 = (x * x % p384 * x + (p384 - 3) * x + b384) % p384)
  then some { x := x, y := y, z := 1 } else none

/-- The 96 octets of X and Y of the public key of a private scalar. -/
def publicXY (d : Nat) : Bytes :=
  match affine (mulJ g384 d 384) with
  | some (x, y) => beBytes 48 x ++ beBytes 48 y
  | none => List.replicate 96 0

/-- A number reduced to the private scalars 1 to n - 1. -/
def scalarOf (k : Nat) : Nat := k % (n384 - 1) + 1

/-- The ECDH shared x-coordinate, 48 octets; none where the peer's octets are no public key. -/
def ecdh (d : Nat) (peer : Bytes) : Option Bytes :=
  ((pointOf peer).bind fun p => affine (mulJ p d 384)).map fun x => beBytes 48 x.1

/-- The ECDSA signature (r, s) with SHA-384 over octets, by the private scalar `d` with the secret number `k`: 96 octets. -/
def ecdsaSign (d k : Nat) (text : Bytes) : Bytes :=
  let r := ((affine (mulJ g384 k 384)).getD (0, 0)).1 % n384
  beBytes 48 r ++ beBytes 48 (invMod n384 k * ((beNat (sha384 text) + r * d) % n384) % n384)

/-- The ECDSA signature (r, s) with SHA-384 over octets verifies under the public key of 97 octets. -/
def ecdsaOk (pub text sig : Bytes) : Bool :=
  let r := beAt sig 0 48
  let t := beAt sig 48 48
  match pointOf pub with
  | none => false
  | some q =>
    let w := invMod n384 t
    let u := beNat (sha384 text) * w % n384
    decide (0 < r) && decide (r < n384) && decide (0 < t) && decide (t < n384) &&
      (match affine (addJ (mulJ g384 u 384) (mulJ q (r * w % n384) 384)) with
       | some (x, _) => x % n384 == r
       | none => false)

/-- The points of the curve with the x-coordinate `x`; the prime is 3 modulo 4. -/
def liftX (x : Nat) : List JPoint :=
  let a := (x * x % p384 * x + (p384 - 3) * x + b384) % p384
  let y := powMod p384 a ((p384 + 1) / 4) 384
  if x < p384 ∧ y * y % p384 = a then [{ x := x, y := y, z := 1 }, { x := x, y := p384 - y, z := 1 }] else []

/-- The public keys, X then Y, under which the ECDSA signature (r, s) with SHA-384 over octets verifies: at most four. -/
def ecdsaKeys (text sig : Bytes) : List Bytes :=
  let r := beAt sig 0 48
  let t := beAt sig 48 48
  if 0 < r ∧ r < n384 ∧ 0 < t ∧ t < n384 then
    let w := invMod n384 r
    let g := mulJ g384 (n384 - beNat (sha384 text) * w % n384) 385
    ([r, r + n384].flatMap liftX).filterMap fun q =>
      (affine (addJ (mulJ q (t * w % n384) 384) g)).map fun x => beBytes 48 x.1 ++ beBytes 48 x.2
  else []

end Sys2Proof.Machine
end

