-- ==== Sys2Proof/Config.lean ====
section
/-!
DEFINITION. The values the spec leaves open, as constants without a body: each is applied to the counter of free values
(`State.free`), so that every use is a fresh value that nothing constrains (log 7, DESIGN CHOICE); the two random sources that the spec seeds
are applied to their seeds and the number of the draw instead.
-/
namespace Sys2Proof.Config

/-- The increment that the reach counter's frequency loop sets after a convoy (11 R611 states only its result; log 30, DEDUCED). -/
opaque reachIncr : Nat → BitVec 48

/-- The random draw of k after a REGISTER burst, before it is reduced to its range: its source is seeded with a serial number and a value of
the reach counter, and this is draw number `n` of it (04 R230, R231; log 21, DEDUCED). -/
opaque backoff (serial reach : DWord) (n : Nat) : Nat

/-- The random draw of the gap between tagged drover words, before it is reduced to its range: its source is seeded with a serial number and a
tract number, and this is draw number `n` of it (14 R746; log 21, DEDUCED). -/
opaque sampleGap (serial : DWord) (tract n : Nat) : Nat

/-- Which of two values a register holds that one operation writes twice, where the spec orders neither (log 37, DEDUCED). -/
opaque pick : Nat → Bool

/-- The bank of the cistern that an address lies in (01 R38 names banks and gives no layout; log 145, DESIGN CHOICE). -/
opaque cisBank : Nat → Nat

/-- The byte address within a channel of the metadata of a page, which the spec does not give (08 R465; log 148, DESIGN CHOICE). -/
opaque metaAt : Nat → Nat

/-- Octet `i` of content that the spec gives a place and no encoding, such as a record header in a reservoir page (08 R451). -/
opaque freeByte : Nat → Nat → Byte

/-- The random draw of the terminal's ephemeral private scalar, before it is reduced to its range (04 R258; log 20, DESIGN CHOICE). -/
opaque ephemeral : Nat → Nat

/-- The random draw of the secret number of an ECDSA signature, before it is reduced to its range (04 R258; log 20, DESIGN CHOICE). -/
opaque nonce : Nat → Nat

end Sys2Proof.Config
end

