-- ==== Sys2Proof/Machine/Codes.lean ====
section
/-!
DEFINITION. The codes the spec defines bit by bit: cyclic checks (03 R143, 13 R704), the internet checksum, the
self-synchronous scrambler (03 R138) and RS(560,530) over GF(2^10) (03 R135).
-/
namespace Sys2Proof.Machine

/-! ### Cyclic checks -/

/-- Eight steps of a check that takes the least significant bit first. -/
def crcLsbBits {n : Nat} (poly : BitVec n) : Nat → BitVec n → BitVec n
  | 0, c => c
  | k + 1, c => crcLsbBits poly k (if c.getLsbD 0 then (c >>> 1) ^^^ poly else c >>> 1)

/-- Eight steps of a check that takes the most significant bit first. -/
def crcMsbBits {n : Nat} (poly : BitVec n) : Nat → BitVec n → BitVec n
  | 0, c => c
  | k + 1, c => crcMsbBits poly k (if c.msb then (c <<< 1) ^^^ poly else c <<< 1)

/-- A reflected check over octets, from the running value `c`; `poly` is the reflected polynomial. -/
def crcLsb {n : Nat} (poly : BitVec n) (c : BitVec n) (b : Bytes) : BitVec n :=
  b.foldl (fun c x => crcLsbBits poly 8 (c ^^^ x.setWidth n)) c

/-- An unreflected check over octets, from the running value `c`. -/
def crcMsb {n : Nat} (poly : BitVec n) (c : BitVec n) (b : Bytes) : BitVec n :=
  b.foldl (fun c x => crcMsbBits poly 8 (c ^^^ (x.setWidth n).shiftLeft (n - 8))) c

/-- CRC-32C of octets (03 R143). -/
def crc32c (b : Bytes) : Word := ~~~(crcLsb 0x82F63B78#32 0xFFFFFFFF#32 b)

/-- CRC-16/CCITT-FALSE of octets (03 R143). -/
def crc16 (b : Bytes) : BitVec 16 := crcMsb 0x1021#16 0xFFFF#16 b

/-- The Ethernet frame check sequence of octets, as a number. -/
def crc32 (b : Bytes) : Word := ~~~(crcLsb 0xEDB88320#32 0xFFFFFFFF#32 b)

/-! ### The internet checksum -/

/-- The sum of the 16-bit words of octets, an odd octet padded with 0 on the right. -/
def sum16 : Bytes → Nat
  | [] => 0
  | [x] => x.toNat * 256
  | x :: y :: b => x.toNat * 256 + y.toNat + sum16 b

/-- A sum folded into 16 bits with end-around carry. -/
def fold16 (n : Nat) : Nat := if n = 0 then 0 else (n - 1) % 0xFFFF + 1

/-- The ones' complement checksum of octets. -/
def checksum16 (b : Bytes) : Nat := 0xFFFF - fold16 (sum16 b)

/-! ### Scrambling -/

/-- The descrambler of 1 + x^39 + x^58: each received bit exclusive-ored with those 39 and 58 before it; `st` holds the last
58 received bits, the newest at bit 0. -/
def descramble : List Bool → BitVec 58 → List Bool × BitVec 58
  | [], st => ([], st)
  | x :: xs, st =>
    let r := descramble xs ((st <<< 1) ||| BitVec.ofNat 58 (b2n x))
    ((x ^^ st.getLsbD 38 ^^ st.getLsbD 57) :: r.1, r.2)

/-- The scrambler of 1 + x^39 + x^58; `st` holds the last 58 transmitted bits. -/
def scramble : List Bool → BitVec 58 → List Bool × BitVec 58
  | [], st => ([], st)
  | x :: xs, st =>
    let y := x ^^ st.getLsbD 38 ^^ st.getLsbD 57
    let r := scramble xs ((st <<< 1) ||| BitVec.ofNat 58 (b2n y))
    (y :: r.1, r.2)

/-- The bits of an octet, most significant first. -/
def octetBits (x : Byte) : List Bool := (List.range 8).map fun i => x.getLsbD (7 - i)

/-- The bits of octets in transmitted order (03: most significant octet and bit first). -/
def bitsOfBytes (b : Bytes) : List Bool := b.flatMap octetBits

/-- The number that bits spell, first bit most significant. -/
def natOfBits (l : List Bool) : Nat := l.foldl (fun a b => 2 * a + b2n b) 0

/-- Octets from bits in transmitted order, `n` octets. -/
def bytesOfBits : Nat → List Bool → Bytes
  | 0, _ => []
  | n + 1, l => BitVec.ofNat 8 (natOfBits (l.take 8)) :: bytesOfBits n (l.drop 8)

/-! ### RS(560,530) over GF(2^10), field polynomial x^10 + x^3 + 1 (03 R135) -/

/-- A symbol. -/
abbrev Sym := BitVec 10

/-- A symbol times α. -/
def gfX (a : Sym) : Sym := if a.msb then (a <<< 1) ^^^ 0x009#10 else a <<< 1

/-- Product by the top `k` bits still to add, from the most significant down. -/
def gfMulAux (a b : Sym) : Nat → Sym → Sym
  | 0, acc => acc
  | k + 1, acc => gfMulAux a b k ((gfX acc) ^^^ (if b.getLsbD k then a else 0))

/-- The product in GF(2^10). -/
def gfMul (a b : Sym) : Sym := gfMulAux a b 10 0

/-- The `n`-th power. -/
def gfPow (a : Sym) : Nat → Sym
  | 0 => 1
  | n + 1 => gfMul a (gfPow a n)

/-- The inverse: the 1022nd power. -/
def gfInv (a : Sym) : Sym :=
  let a2 := gfMul a a
  let a4 := gfMul a2 a2
  let a8 := gfMul a4 a4
  let a16 := gfMul a8 a8
  let a32 := gfMul a16 a16
  let a64 := gfMul a32 a32
  let a128 := gfMul a64 a64
  let a256 := gfMul a128 a128
  let a512 := gfMul a256 a256
  gfMul a2 (gfMul a4 (gfMul a8 (gfMul a16 (gfMul a32 (gfMul a64 (gfMul a128 (gfMul a256 a512)))))))

/-- The element α. -/
def gfAlpha : Sym := 2

/-- The value at `x` of the polynomial whose coefficients are listed highest degree first. -/
def polyEval (p : List Sym) (x : Sym) : Sym := p.foldl (fun a c => gfMul a x ^^^ c) 0

/-- The thirty syndromes of a received codeword, first symbol of the highest degree. -/
def syndromes (cw : List Sym) : List Sym := (List.range 30).map fun j => polyEval cw (gfPow gfAlpha j)

/-- Sum of two polynomials listed lowest degree first. -/
def polyAdd : List Sym → List Sym → List Sym
  | [], q => q
  | p, [] => p
  | a :: p, b :: q => (a ^^^ b) :: polyAdd p q

/-- A polynomial times a symbol. -/
def polyScale (c : Sym) (p : List Sym) : List Sym := p.map (gfMul c)

/-- The discrepancy of the locator `l` at syndrome `n`. -/
def discrepancy (l syn : List Sym) (n : Nat) : Sym :=
  (List.range l.length).foldl (fun a i => if i ≤ n then a ^^^ gfMul (l.getD i 0) (syn.getD (n - i) 0) else a) 0

/-- Berlekamp-Massey over the syndromes from number `n` on: locator `l`, its length `len`, the previous locator `b` with its
discrepancy `d0`, `m` steps ago. Coefficients lowest degree first. -/
def massey (syn : List Sym) : Nat → Nat → List Sym → Nat → List Sym → Sym → Nat → List Sym × Nat
  | 0, _, l, len, _, _, _ => (l, len)
  | k + 1, n, l, len, b, d0, m =>
    let d := discrepancy l syn n
    if d = 0 then massey syn k (n + 1) l len b d0 (m + 1)
    else
      let l' := polyAdd l (List.replicate m 0 ++ polyScale (gfMul d (gfInv d0)) b)
      if 2 * len ≤ n then massey syn k (n + 1) l' (n + 1 - len) l d 1
      else massey syn k (n + 1) l' len b d0 (m + 1)

/-- Value at `x` of a polynomial listed lowest degree first. -/
def polyAt (p : List Sym) (x : Sym) : Sym := polyEval p.reverse x

/-- The formal derivative, lowest degree first. -/
def polyDeriv (p : List Sym) : List Sym :=
  (List.range (p.length - 1)).map fun i => if i % 2 = 0 then p.getD (i + 1) 0 else 0

/-- Product of two polynomials lowest degree first, of which the first `k` coefficients are kept. -/
def polyMulTrunc (p q : List Sym) (k : Nat) : List Sym :=
  (List.range k).map fun n =>
    (List.range (n + 1)).foldl (fun a i => a ^^^ gfMul (p.getD i 0) (q.getD (n - i) 0)) 0

/-- The error in the symbol of degree `deg`, by Forney's formula, when the locator has a root there. -/
def errorAt (loc omega deriv : List Sym) (deg : Nat) : Option Sym :=
  let x := gfPow gfAlpha deg
  let xi := gfInv x
  if polyAt loc xi = 0 then some (gfMul x (gfMul (polyAt omega xi) (gfInv (polyAt deriv xi)))) else none

/-- A codeword with the errors that the locator names taken out, and how many there were. -/
def fixSymbols (loc omega deriv : List Sym) : List Sym → List Sym × Nat
  | [] => ([], 0)
  | c :: cs =>
    let r := fixSymbols loc omega deriv cs
    match errorAt loc omega deriv cs.length with
    | some e => ((c ^^^ e) :: r.1, r.2 + 1)
    | none => (c :: r.1, r.2)

/-- Decoding of a codeword of 560 symbols: the corrected codeword and how many symbols were corrected, or none when more than
15 symbols would have to be (03 R135, R142). -/
def rsDecode (cw : List Sym) : Option (List Sym × Nat) :=
  let syn := syndromes cw
  if syn.all (· == 0) then some (cw, 0)
  else
    let (loc, len) := massey syn 30 0 [1] 0 [1] 1 1
    if 15 < len then none
    else
      let (fixed, n) := fixSymbols loc (polyMulTrunc syn loc 30) (polyDeriv loc) cw
      if n = len && (syndromes fixed).all (· == 0) then some (fixed, n) else none

/-- The generator polynomial less its leading 1, highest degree first: the product of (x - α^j) for j below `k`. -/
def rsGenerator : Nat → List Sym
  | 0 => [1]
  | k + 1 =>
    let g := rsGenerator k
    polyAdd (g ++ [0]).reverse (polyScale (gfPow gfAlpha k) g).reverse |>.reverse

/-- The remainder register after one more symbol of the message. -/
def rsStep (gen : List Sym) (r : List Sym) (c : Sym) : List Sym :=
  let f := c ^^^ r.headD 0
  (r.drop 1 ++ [0]).zipWith (fun a g => a ^^^ gfMul f g) gen

/-- The 30 parity symbols of 530 message symbols. -/
def rsParity (msg : List Sym) : List Sym :=
  let gen := (rsGenerator 30).drop 1
  msg.foldl (rsStep gen) (List.replicate 30 0)

/-! ### Lane codewords (03 R134-R138) -/

/-- The symbols of a codeword of 5,600 bits, in transmitted order. -/
def symbolsOf (bits : BitVec 5600) : List Sym := (List.range 560).map fun i => bits.extractLsb' (5590 - 10 * i) 10

/-- The bits of symbols in transmitted order. -/
def bitsOfSymbols (l : List Sym) : List Bool := l.flatMap fun c => (List.range 10).map fun i => c.getLsbD (9 - i)

/-- Symbols from bits in transmitted order, `n` symbols. -/
def symbolsOfBits : Nat → List Bool → List Sym
  | 0, _ => []
  | n + 1, l => BitVec.ofNat 10 (natOfBits (l.take 10)) :: symbolsOfBits n (l.drop 10)

/-- One lane block from its 257 bits still scrambled, with the descrambler: a data block gives its 32 octets, IDLE gives no
octets, any other control block is erased (03 R137 R138), one of type 0x1E with another byte than 0x00 after it included (log 127, DESIGN
CHOICE). -/
def laneBlock (l : List Bool) (st : BitVec 58) : Option Bytes × BitVec 58 :=
  let r := descramble (l.drop 1 |>.take 256) st
  let bytes := bytesOfBits 32 r.1
  if l.headD false then (if bytes = 0x1E#8 :: List.replicate 31 0 then some [] else none, r.2)
  else (some bytes, r.2)

/-- The `n` lane blocks of a codeword. -/
def laneBlocks : Nat → List Bool → BitVec 58 → List (Option Bytes) × BitVec 58
  | 0, _, st => ([], st)
  | n + 1, l, st =>
    let b := laneBlock l st
    let r := laneBlocks n (l.drop 257) b.2
    (b.1 :: r.1, r.2)

/-- The bits of `n` lane blocks of a burst, scrambled, from their 32-octet data; where the data has ended, IDLE control blocks. -/
def scrambleBlocks : Nat → List (Option Bytes) → BitVec 58 → List Bool × BitVec 58
  | 0, _, st => ([], st)
  | n + 1, bs, st =>
    let (hdr, body) := match bs with
      | some b :: _ => (false, padTo b 32)
      | _ => (true, 0x1E#8 :: List.replicate 31 0)
    let b := scramble (bitsOfBytes body) st
    let r := scrambleBlocks n (bs.drop 1) b.2
    (hdr :: b.1 ++ r.1, r.2)

/-- The data of lane `lane` in codeword set `k` of a burst whose content is `content`: one entry a block, none where the
content has ended at the row's start (03 R139, R187). The last block with content is filled with 0x00 (log 159, DESIGN CHOICE). -/
def laneData (content : Bytes) (k lane : Nat) : List (Option Bytes) :=
  (List.range 20).map fun b =>
    let row := k * 20 + b
    let start := row * 512 + lane * 32
    if content.length ≤ start then none else some (padTo ((content.drop start).take 32) 32)

/-- The 160 bits of lane overhead of codeword set `k` of a burst (03 R136, R186). -/
def burstLoh (k lane : Nat) : Bytes :=
  beBytes 4 0x9D4C52B7 ++ beBytes 1 lane ++ beBytes 2 ((k % 4096) * 16 + 1) ++ beBytes 4 0 ++ List.replicate 9 0

/-- A lane's codewords of a burst from codeword set `k` on, `n` of them; the scrambler runs on from `st`. -/
def laneCodewords (content : Bytes) (lane : Nat) : Nat → Nat → BitVec 58 → List (BitVec 5600)
  | 0, _, _ => []
  | n + 1, k, st =>
    let r := scrambleBlocks 20 (laneData content k lane) st
    let msg := symbolsOfBits 530 (bitsOfBytes (burstLoh k lane) ++ r.1)
    let cw := msg ++ rsParity msg
    BitVec.ofNat 5600 (natOfBits (bitsOfSymbols cw)) :: laneCodewords content lane n (k + 1) r.2

/-- What the sixteen lanes send for a burst of `n` codeword sets: the scrambler preset to ones (03 R138, R185-R187). -/
def burstLanes (content : Bytes) (n : Nat) : List (List (BitVec 5600)) :=
  (List.range 16).map fun lane => laneCodewords content lane n 0 (BitVec.allOnes 58)

end Sys2Proof.Machine
end

