-- ==== Sys2Proof/Machine/Lines.lean ====
section
/-!
DEFINITION. Interrupt lines (12 R659-R665): which shared sources are asserted, pending bits that latch a rise, wanted and
deferred messages, strand times; and `done`, which every meaning ends with.
-/
namespace Sys2Proof.Machine

/-- CODE of an ERR_STATUS is not zero (02 R120). -/
def anyCode (v : Word) : Bool := fld v 1 30 != 0

/-- The shared source that an error record drives (12 R663). -/
def errSource (a : Nat) : Option Nat :=
  if a == 0x0F00 then some 641 else if a == 0x10F00 then some 642 else if a == 0x20F00 then some 643
  else if a == 0x30F00 then some 644 else if a == 0x100F00 then some 645 else if a == 0x180F00 then some 646
  else if a == 0x200F00 then some 647 else if a == 0x300F00 then some 648 else if a == 0x400F00 then some 649
  else if a == 0x500F00 then some 650 else if a == 0x580F00 then some 651 else if a == 0x800F00 then some 652
  else if a == 0xA00F00 then some 653 else if a == 0xC00F00 then some 654 else if a == 0x1000F00 then some 655
  else if isAt 0x600F00 [(16, 0x8000)] a then some (624 + (a - 0x600F00) / 0x8000)
  else if isAt 0x2000F00 [(8, 0x200000)] a then some (656 + (a - 0x2000F00) / 0x200000)
  else none

/-- The shared source that an event register drives while any of its W1C bits is 1 (12 R663). -/
def eventSource (a : Nat) : Option Nat :=
  if isAt 0x310020 [(2, 0x10000), (256, 0x40)] a then some ((a - 0x310000) / 0x10000 * 256 + (a % 0x10000) / 0x40)
  else if isAt 0x600018 [(16, 0x8000)] a then some (608 + (a - 0x600000) / 0x8000)
  else if a == R.CLIENT_WAKE_HIT then some 640
  else if a == R.LINE_RANGE_EVENT then some 665
  else if a == R.CLASS_EVENT then some 667
  else if a == R.BUFFER_EVENT then some 668
  else if a == R.TIME_EVENT then some 669
  else if a == R.KEEPER_EVENT then some 671
  else if a == R.IMAGE_EVENT then some 672
  else if a == R.PERF_EVENT then some 673
  else none

/-- The source that the stored register at `a`, holding `v`, asserts by itself. -/
def regSource (s : State) (a : Nat) (v : Word) : Option Nat :=
  if v = 0 then none
  else match eventSource a with
  | some n => some n
  | none =>
    match errSource a with
    | some n => if anyCode v then some n else none
    | none =>
      if a == R.LINE_GASP_CTL then (if bit v 29 then some 666 else none)
      else if isAt 0x201018 [(64, 0x40)] a then
        (if bit v 30 && rbit s (a - 4) 29 then some (512 + (a - 0x201000) / 0x40) else none)
      else if isAt 0x18002C [(4, 0x100)] a then
        (if bit v 30 && rbit s (a - 4) 29 then some (576 + (a - 0x180000) / 0x100) else none)
      else none

/-- SAMPLE of PERF_EVENT: COUNT has reached WM (14 R755). -/
def sampleReady (s : State) : Bool :=
  decide (zeroAsOne (rfld s R.PERF_SAMPLE_CTL 0 11) ≤ s.perf.samples.length)

/-- The shared sources whose lines are asserted, rising (12 R659, R663). -/
def lines (s : State) : List Nat :=
  let base := s.regs.foldl (fun l e => match regSource s e.1 e.2 with | some n => setIns n l | none => l) []
  let l1 := if s.mode.wake then setIns 664 base else base
  let l2 := if s.time.txq.isEmpty then l1 else setIns 670 l1
  if sampleReady s then setIns 673 l2 else l2

/-- A source exists: not reserved, and its unit fitted (12 R664). -/
def sourceExists (s : State) (src : Nat) : Bool :=
  if src < 580 then true
  else if src < 608 then false
  else if src == 651 then hasCipher s
  else if src < 656 then true
  else if src < 664 then hasTract s (src - 656)
  else decide (src < 674)

/-- Source `src` is masked (12 R666). -/
def srcMasked (s : State) (src : Nat) : Bool := rbit s (R.INTC_SRC_CFG src) 31

/-- The target of a shared source. -/
def srcTarget (s : State) (src : Nat) : Nat := rfld s (R.INTC_SRC_CFG src) 0 5

/-- The hold-off group of a shared source. -/
def srcGroup (s : State) (src : Nat) : Nat := rfld s (R.INTC_SRC_CFG src) 16 7

/-- The sources shown in the bank of target `n`: pending, unmasked and targeted at it (12 R671). -/
def shown (s : State) (n : Nat) : List Nat := s.intc.pend.filter fun src => !srcMasked s src && srcTarget s src == n

/-- The private sources pending and unmasked for target `n`, as bits (12 R665, R670). -/
def privShown (s : State) (n : Nat) : Word :=
  BitVec.ofNat 32 (look 0 s.intc.priv n) &&& ~~~(rd s (R.INTC_HT_PRIV_MASK n))

/-- A hold-off holds source `src` for target `n` (12 R681, R685). -/
def heldOff (s : State) (n src : Nat) : Bool :=
  (look none s.intc.timers (srcGroup s src)).isSome && !rbit s R.INTC_HT_IDLE n

/-- A message is wanted for target `n` (12 R676). -/
def wanted (s : State) (n : Nat) : Bool :=
  ((shown s n).any fun src => !s.intc.ann.contains src && !heldOff s n src)
    || (privShown s n &&& ~~~(BitVec.ofNat 32 (look 0 s.intc.privAnn n))) != 0

/-- The vector of target `n` takes no message: masked, function masked, MSI-X off, or the function not in D0. -/
def vectorBlocked (s : State) (n : Nat) : Bool :=
  (look {} s.host.vectors n).masked || s.host.fmask || !s.host.msixOn || s.host.d3 || s.host.perst

/-- A message wanted for target `n` is deferred (12 R691). -/
def deferred (s : State) (n : Nat) : Bool := rbit s R.INTC_HT_STATE n || vectorBlocked s n

/-- Sets private pending bits of target `n`. -/
def privSet (i : Intc) (n bits : Nat) : Intc := { i with priv := put 0 i.priv n (look 0 i.priv n ||| bits) }

/-- Pending bits latch the lines that have risen (12 R660), the STRANDED line included (12 R665). -/
def latchLines (s : State) : State :=
  let cur := lines s
  let pend := (cur.filter fun n => !s.intc.last.contains n).foldl (fun l n => setIns n l) s.intc.pend
  let strandNow := rd s R.INTC_STRANDED != 0
  let i := { s.intc with pend := pend, last := cur, strandLine := strandNow }
  { s with intc := if strandNow && !s.intc.strandLine then privSet i (rfld s R.INTC_WATCHER 0 5) 0x10000 else i }

/-- The strand time of target `n` runs while its message is wanted and deferred; at its limit it stops until the message is sent or the STRANDED
bit is cleared (12 R693 R695). -/
def strandRuns (s : State) (n : Nat) : Bool := wanted s n && deferred s n && !s.intc.strandOff.contains n

/-- The strand time of target `n` starts or stops. -/
def strandOf (s : State) (m : Sparse (Option Nat)) (n : Nat) : Sparse (Option Nat) :=
  match strandRuns s n, look none m n with
  | true, none => put none m n (some s.now)
  | false, some _ => put none m n none
  | _, _ => m

/-- Strand times start and stop. -/
def latchStrand (s : State) : State :=
  let s1 := { s with intc := { s.intc with strandOff := s.intc.strandOff.filter (rbit s R.INTC_STRANDED) } }
  { s1 with intc := { s1.intc with strand := (List.range 32).foldl (strandOf s1) s1.intc.strand } }

/-- The interrupt controller samples every line after a command has taken effect (12 R661, R662). -/
def settle (s : State) : State := latchStrand (latchLines s)

/-- The end of every meaning: the state with the lines sampled. -/
def done (s : State) : Out := .next (settle s)

/-! ### Accesses of the instant of a delivery commit (12 R686) -/

/-- The numbers of private bits, source i of target n being 1024 + 32n + i. -/
def privNumbers (m : Sparse Nat) : List Nat := m.flatMap fun e => ((List.range 17).filter e.2.testBit).map (1024 + 32 * e.1 + ·)

/-- The private bits that the numbers of a list name. -/
def privBits (l : List Nat) : Sparse Nat :=
  (l.filter (1024 ≤ ·)).foldl (fun m x => put 0 m ((x - 1024) / 32) (look 0 m ((x - 1024) / 32) ||| 2 ^ (x % 32))) []

/-- Every source pending, the private ones included. -/
def pendAll (i : Intc) : List Nat := i.pend ++ privNumbers i.priv

/-- Every source announced, the private ones included. -/
def annAll (i : Intc) : List Nat := i.ann ++ privNumbers i.privAnn

/-- The elements of `a` that are not in `b`. -/
def without (a b : List Nat) : List Nat := a.filter fun x => !b.contains x

/-- A register that decides what is shown, held off and deferred. -/
def inIntcCfg (a : Nat) : Bool := decide (0x100000 ≤ a) && decide (a < 0x130000) && !(decide (0x100F00 ≤ a) && decide (a < 0x101000))

/-- What accesses of this instant have changed so far. -/
def accessesOf (s : State) : Accesses :=
  match s.intc.before with
  | some b => if b.at_ = s.now then b else { at_ := s.now }
  | none => { at_ := s.now }

/-- A write clears ANNOUNCED of sources, whether or not they had been announced. -/
def noteCleared (l : List Nat) (s : State) : State :=
  let b := accessesOf s
  { s with intc := { s.intc with before := some { b with cleared := b.cleared ++ l } } }

/-- An access has taken `old` to `s`: what it has changed is kept for a delivery commit of the same instant. -/
def accessed (old s : State) : State :=
  let b := accessesOf s
  let up := without (pendAll s.intc) (pendAll old.intc)
  let down := without (pendAll old.intc) (pendAll s.intc)
  let regs := (old.regs ++ s.regs).foldl (fun m e =>
    if inIntcCfg e.1 && rd s e.1 != rd old e.1 && !(b.regs.any fun x => x.1 == e.1) then ins e.1 (rd old e.1) m else m) b.regs
  { s with intc := { s.intc with before := some { b with
      regs := regs
      raised := without b.raised down ++ without up b.gone
      gone := without b.gone up ++ without down b.raised
      annGone := b.annGone ++ without (annAll old.intc) (annAll s.intc) } } }

/-- The state as a delivery commit of this instant sees it: without what register accesses of the instant have changed (12 R686; log 140, DEDUCED). -/
def beforeWrites (s : State) : State :=
  match s.intc.before with
  | some b =>
    if b.at_ = s.now then
      let pend := without (pendAll s.intc) b.raised ++ b.gone
      let ann := annAll s.intc ++ b.annGone
      { s with
        regs := b.regs.foldl (fun m e => put (regReset e.1) m e.1 e.2) s.regs
        intc := { s.intc with
          pend := pend.foldl (fun l x => if x < 1024 then setIns x l else l) []
          ann := ann.foldl (fun l x => if x < 1024 then setIns x l else l) []
          priv := privBits pend, privAnn := privBits ann } }
    else s
  | none => s

/-- A register-path access whose registers are accessible takes effect as `f`; otherwise nothing happens (02 R105 step 4). -/
def viaBar (s : State) (f : State → State) : Out := if barOpen s then .next (accessed s (settle (f s))) else done s

/-- An event of the core's engines takes effect as `f` while the core runs (16 R844, 17 R877). -/
def viaCore (s : State) (f : State → State) : Out := if running s then done (f s) else done s

/-- A value read over BAR0 leaves the device. -/
def answer (s : State) (v : Word) : State := emit s (.readData (leBytes 4 v.toNat) false)

end Sys2Proof.Machine
end

