-- ==== Sys2Proof/Machine/Interrupts.lean ====
section
/-!
DEFINITION. The interrupt controller's commands (chapter 12): configuration, retargets, completions, delivery, hold-off,
idle and sleeping targets, the watcher, stranding, and the MSI-X masks.
-/
namespace Sys2Proof.Machine

/-- INTC_SRC_CFG_s as read (12 R666). -/
def srcCfgView (s : State) (src : Nat) : Word :=
  if sourceExists s src then
    setBit (setBit (setBit (rd s (R.INTC_SRC_CFG src) &&& 0x807F001F) 30 (s.intc.ann.contains src))
      29 (s.intc.pend.contains src)) 28 (s.intc.last.contains src)
  else 0

/-- INTC_HT_BANK_n_k: the sources 32k to 32k + 31 shown for target `n` (12 R670). -/
def bankView (s : State) (n k : Nat) : Word := bitsOf 32 fun b => (shown s n).contains (32 * k + b)

/-- INTC_HT_SUMMARY_n: the banks of target `n` that are not 0 (12 R670). -/
def summaryView (s : State) (n : Nat) : Word := bitsOf 32 fun k => bankView s n k != 0

/-- INTC_HT_PRIV_n as read. -/
def privView (s : State) (n : Nat) : Word := BitVec.ofNat 32 (look 0 s.intc.priv n)

/-- Completion of shared source `src`: pending and ANNOUNCED clear, and the line is sampled again (12 R672, R660). -/
def complete (s : State) (src : Nat) : State :=
  let pend := setDel src s.intc.pend
  { s with intc := { s.intc with
      pend := if (lines s).contains src then setIns src pend else pend
      ann := setDel src s.intc.ann } } |> noteCleared [src]

/-- Writes of 1 to the bank of target `n`: each source targeted at `n` completes (12 R672). -/
def completeBank (s : State) (n k : Nat) (v : Word) : State :=
  (List.range 32).foldl (fun s b =>
    if bit v b && srcTarget s (32 * k + b) == n then complete s (32 * k + b) else s) s

/-- Writes of 1 to INTC_HT_PRIV_n: each private source completes; STRANDED is sampled again (12 R672, R665). -/
def completePriv (s : State) (n : Nat) (v : Word) : State :=
  let keep := (0xFFFFFFFF ^^^ v.toNat)
  let again := if bit v 16 && rd s R.INTC_STRANDED != 0 && rfld s R.INTC_WATCHER 0 5 == n then 0x10000 else 0
  { s with intc := { s.intc with
      priv := put 0 s.intc.priv n ((look 0 s.intc.priv n &&& keep) ||| again)
      privAnn := put 0 s.intc.privAnn n (look 0 s.intc.privAnn n &&& keep) } } |> noteCleared (privNumbers [(n, v.toNat)])

/-- The effect of a completion write to bank `k`, or to the private bits (12 R672). -/
def intcCompletionEff (n : Nat) (k : Option Nat) (v : Word) (s : State) : State :=
  match k with
  | some k => completeBank s n k v
  | none => completePriv s n v

/-- INTC_COMPLETION: a write of 1 bits to a bank or to the private bits of a target. -/
def execIntcCompletion (n : Fin 32) (k : Option (Fin 32)) (v : Word) (s : State) : Out :=
  viaBar s (intcCompletionEff n (k.map (·.val)) v)

/-- ANNOUNCED of source `src` clears. -/
def unannounce (src : Nat) (s : State) : State :=
  noteCleared [src] { s with intc := { s.intc with ann := setDel src s.intc.ann } }

/-- A write to INTC_SRC_CFG_s: mask, group and target; setting MASK clears ANNOUNCED (12 R666, R667, R687). -/
def intcSrcCfgEff (src : Nat) (v : Word) (s : State) : State :=
  if sourceExists s src then
    let s1 := wrField s (R.INTC_SRC_CFG src) v 0x807F001F 0
    if bit v 31 then unannounce src s1 else s1
  else s

/-- INTC_SRC_CFG. -/
def execIntcSrcCfg (src : Fin 1024) (v : Word) (s : State) : Out := viaBar s (intcSrcCfgEff src v)

/-- A write to INTC_RETARGET: the source moves to its new target; REDELIVER clears ANNOUNCED (12 R668, R687-R689). -/
def intcRetargetEff (v : Word) (s : State) : State :=
  let src := fld v 0 10
  if sourceExists s src then
    let a := R.INTC_SRC_CFG src
    let s1 := wr s a (merge (rd s a) (v >>> 16) 0x1F 0)
    if bit v 31 then unannounce src s1 else s1
  else s

/-- INTC_RETARGET. -/
def execIntcRetarget (v : Word) (s : State) : Out := viaBar s (intcRetargetEff v)

/-- A write to INTC_SWI: software-interrupt private bits of a target set (12 R673). -/
def intcSwiEff (v : Word) (s : State) : State :=
  { s with intc := privSet s.intc (fld v 16 5) (fld v 0 16) }

/-- INTC_SWI. -/
def execIntcSwi (v : Word) (s : State) : Out := viaBar s (intcSwiEff v)

/-- A write to INTC_HT_IDLE: bits of 1 set (12 R685). -/
def intcHtIdleEff (v : Word) (s : State) : State := wr s R.INTC_HT_IDLE (rd s R.INTC_HT_IDLE ||| v)

/-- INTC_HT_IDLE. -/
def execIntcHtIdle (v : Word) (s : State) : Out := viaBar s (intcHtIdleEff v)

/-- What a read of INTC_HT_SUMMARY_n leaves: its IDLE bit clears, and an empty scan counts (12 R670, R685). -/
def summaryRead (n : Nat) (s : State) : State :=
  let s1 := wr s R.INTC_HT_IDLE (setBit (rd s R.INTC_HT_IDLE) n false)
  if summaryView s n = 0 && privShown s n = 0 then bump s1 (R.INTC_HT_CNT_EMPTY n) else s1

/-- INTC_HT_SUMMARY: a read of a target's summary. -/
def execIntcHtSummary (n : Fin 32) (s : State) : Out :=
  viaBar s fun s => answer (summaryRead n s) (summaryView s n)

/-- A write to INTC_HT_STATE: targets asleep or awake (12 R690). -/
def intcHtStateEff (v : Word) (s : State) : State := wr s R.INTC_HT_STATE v

/-- INTC_HT_STATE. -/
def execIntcHtState (v : Word) (s : State) : Out := viaBar s (intcHtStateEff v)

/-- A write to INTC_WATCHER: a change clears STRANDED at the old watcher and samples its line at the new (12 R697). -/
def intcWatcherEff (v : Word) (s : State) : State :=
  let old := rfld s R.INTC_WATCHER 0 5
  let new := fld v 0 5
  if old = new then s
  else
    let s1 := wr s R.INTC_WATCHER (BitVec.ofNat 32 new)
    let i := { s1.intc with
      priv := put 0 s1.intc.priv old (look 0 s1.intc.priv old &&& 0xFFFF)
      privAnn := put 0 s1.intc.privAnn old (look 0 s1.intc.privAnn old &&& 0xFFFF) }
    { s1 with intc := if rd s R.INTC_STRANDED != 0 then privSet i new 0x10000 else i } |> noteCleared [1024 + 32 * old + 16]

/-- INTC_WATCHER. -/
def execIntcWatcher (v : Word) (s : State) : Out := viaBar s (intcWatcherEff v)

/-- The hold-off timer of the group of an announced source starts afresh, as the settings of `v` have it; its end is kept in half ticks of 1.6 ns
(12 R681). -/
def startTimer (v s : State) (src : Nat) : State :=
  let g := srcGroup v src
  let h := rfld v (R.INTC_GROUP g) 0 16
  if h = 0 then s
  else { s with intc := { s.intc with timers := put none s.intc.timers g (some (2 * s.now + 625 * h)) } }

/-- A delivery commit: the message leaves, and every source shown in `v`, and every unmasked private source pending in it, is announced; `v` is the
state as the commit sees it, and a write of the same instant then clears what it clears (12 R677, R681, R686). -/
def deliver (n : Nat) (v s : State) : State :=
  let src := shown v n
  let off := (accessesOf s).cleared
  let vec := look {} s.host.vectors n
  let priv := without (privNumbers [(n, (privShown v n).toNat)]) off
  let s1 := emit (bump s (R.INTC_HT_CNT_MSG n)) (.msix noAttrs n vec.addr vec.data)
  let s2 := { s1 with intc := { s1.intc with
    ann := (without src off).foldl (fun l x => setIns x l) s1.intc.ann
    privAnn := put 0 s1.intc.privAnn n (look 0 s1.intc.privAnn n ||| look 0 (privBits priv) n)
    strandOff := setDel n s1.intc.strandOff } }
  src.foldl (startTimer v) s2

/-- A message for target `n` can be sent: it is wanted and nothing defers it (12 R676, R691). -/
def sendable (s : State) (n : Nat) : Bool := wanted s n && !deferred s n

/-- DELIVERY_COMMIT: the message is sent, unless a target that lost to this one still waits (12 R676-R678, 01 R39); it is taken as before the
register accesses of its instant (12 R686). -/
def execDeliveryCommit (n : Fin 32) (s : State) : Out :=
  viaCore s fun s =>
    let v := beforeWrites s
    if sendable v n && !barred s .message n (sendable v) then
      deliver n v (granted .message n ((List.range 32).filter (sendable v)) s)
    else s

/-- HOLD_OFF_TIMER_END: the group's timer has run its time and ends (12 R681, R682). -/
def execHoldOffTimerEnd (g : Fin 128) (s : State) : Out :=
  viaCore s fun s =>
    match look none s.intc.timers g with
    | some e => if e ≤ 2 * s.now then { s with intc := { s.intc with timers := put none s.intc.timers g none } } else s
    | none => s

/-- The strand time of target `n` has reached LIMIT (12 R694, R695). -/
def strandDue (s : State) (n : Nat) : Bool :=
  match look none s.intc.strand n with
  | some t0 => rfld s R.INTC_STRAND_LIMIT 0 16 != 0 && decide (625 * rfld s R.INTC_STRAND_LIMIT 0 16 ≤ 2 * (s.now - t0))
  | none => false

/-- The strand time of target `n` stops at its limit: its STRANDED bit sets and the fault is recorded (12 R695, R698). -/
def strandEnds (n : Nat) (s : State) : State :=
  let s1 := { s with intc := { s.intc with strandOff := setIns n s.intc.strandOff } }
  fault (event s1 R.INTC_STRANDED n) .intc 1 n (BitVec.ofNat 64 (b2n (rbit s R.INTC_HT_STATE n) + 2 * b2n (vectorBlocked s n)))

/-- STRANDED. -/
def execStranded (n : Fin 32) (s : State) : Out := viaCore s fun s => if strandDue s n then strandEnds n s else s

/-! ### The function's own registers (00 the BAR table, 10 R537-R541, 12 R691) -/

/-- The pending-bit array: messages that wait only for a vector mask or the function mask (10 R541, 12 R691; log 135, DEDUCED). -/
def pendingBits (s : State) : Word :=
  bitsOf 32 fun n => s.host.msixOn && ((look {} s.host.vectors n).masked || s.host.fmask) && !rbit s R.INTC_HT_STATE n && wanted s n

/-- The address bits that a half of a base address holds: BAR0 is 64 MiB, BAR2 256 MiB, BAR4 8 KiB (00). -/
def barMask : Nat → Word
  | 0 => 0xFC000000
  | 2 => 0xF0000000
  | 4 => 0xFFFFE000
  | _ => 0xFFFFFFFF

/-- The type bits of a base address: 64-bit memory, BAR2 prefetchable (10 R538). -/
def barType : Nat → Word
  | 0 => 0x4
  | 2 => 0xC
  | 4 => 0x4
  | _ => 0

/-- What a configuration register reads as (10 R537, R538, R540; log 131, PRESUMED): Vendor ID 0x1F3A and Device ID 0x9700, class code
0x028000, a Max Payload Size of 512 bytes, Function Level Reset, timeout ranges A to D and their disabling, 10-bit tags, 32.0 GT/s and 16 lanes,
D0 and D3hot without No_Soft_Reset, and 32 MSI-X vectors with their table and pending-bit array in BAR4. -/
def configRead (s : State) : ConfigReg → Word
  | .ids => 0x97001F3A
  | .classCode => 0x02800000
  | .bar n => look 0 s.host.cfg.bars n ||| barType n
  | .deviceCap => 0x10000022
  | .deviceCtl => s.host.cfg.ctl
  | .deviceCap2 => 0x0003001F
  | .deviceCtl2 => s.host.cfg.ctl2
  | .aerStatus => s.host.cfg.aer
  | .aerMask => s.host.cfg.aerMask
  | .aerSeverity => s.host.cfg.aerSev
  | .linkCap => 0x00000105
  | .pmCap => 0x00030001
  | .pmCtl => if s.host.d3 then 3 else 0
  | .msixCtl => pack [(31, b2n s.host.msixOn), (30, b2n s.host.fmask), (16, 31), (0, 0x11)]
  | .msixTable => 0x00000004
  | .msixPba => 0x00001004

/-- A configuration register takes `v`: of Device Control the sizes and tags, Relaxed Ordering and No Snoop being wired to 0; of Device Control 2
the timeout and tags (10 R537-R540). -/
def configWrite (v : Word) (c : HostConfig) : ConfigReg → HostConfig
  | .bar n => { c with bars := put 0 c.bars n (v &&& barMask n) }
  | .deviceCtl => { c with ctl := merge c.ctl v 0x71E0 0 }
  | .deviceCtl2 => { c with ctl2 := merge c.ctl2 v 0x101F 0 }
  | .aerStatus => { c with aer := c.aer &&& ~~~v }
  | .aerMask => { c with aerMask := v }
  | .aerSeverity => { c with aerSev := v }
  | _ => c

/-- The host's accesses to the MSI-X table, to the pending-bit array and to configuration registers. -/
def functionEff (w : FunctionAccess) (s : State) : State :=
  match w with
  | .entry n addr data m =>
    { s with host := { s.host with vectors := put {} s.host.vectors n { addr := addr, data := data, masked := m } } }
  | .functionMask on => { s with host := { s.host with fmask := on } }
  | .enable on => { s with host := { s.host with msixOn := on } }
  | .readEntry n =>
    let v := look {} s.host.vectors n
    emit s (.readData (leBytes 8 v.addr.toNat ++ leBytes 4 v.data.toNat ++ leBytes 4 (b2n v.masked)) false)
  | .readPending => emit s (.readData (leBytes 4 (pendingBits s).toNat) false)
  | .config .msixCtl (some v) => { s with host := { s.host with msixOn := bit v 31, fmask := bit v 30 } }
  | .config r none => emit s (.configData (configRead s r))
  | .config r (some v) => { s with host := { s.host with cfg := configWrite v s.host.cfg r } }

/-- The access goes to memory space, BAR4, and not to configuration space. -/
def toBar4 : FunctionAccess → Bool
  | .entry _ _ _ _ => true
  | .readEntry _ => true
  | .readPending => true
  | _ => false

/-- The function answers: it is out of PERST_N and, for memory space, in D0. -/
def functionUp (w : FunctionAccess) (s : State) : Bool := running s && !s.host.perst && !(toBar4 w && s.host.d3)

/-- MSI_X_MASK: the host masks or unmasks vectors, the function, or MSI-X as a whole. -/
def execMsiXMask (w : FunctionAccess) (s : State) : Out := if functionUp w s then done (functionEff w s) else done s

end Sys2Proof.Machine
end

