-- ==== Sys2Proof/Machine/KeeperUnit.lean ====
section
/-!
DEFINITION. The Keeper (chapter 16): its clocks, the alarm, the holdover time of day, the supply comparators and their
log, the gasp trip, and wake conditions.
-/
namespace Sys2Proof.Machine

/-! ### Clocks -/

/-- Time of day of the Keeper advances by `n` of its ticks. -/
def todAdvance (k : Keeper) (n : Nat) : Keeper :=
  let sub := k.todSub + n
  if 32768 ≤ sub then { k with todSub := sub - 32768, todSec := (k.todSec + 1) % 2 ^ 48 } else { k with todSub := sub }

/-- In HOLDOVER one crystal period advances the time of day by one tick, by none when the accumulated trim reaches one tick,
or by two when it reaches minus one (16 R823); `trim` is in 0.1 ppm. -/
def todHoldTick (k : Keeper) (trim : Int) : Keeper :=
  let acc := k.trimAcc + trim
  if 10000000 ≤ acc then { k with trimAcc := acc - 10000000 }
  else if acc ≤ -10000000 then todAdvance { k with trimAcc := acc + 10000000 } 2
  else todAdvance { k with trimAcc := acc } 1

/-- One Keeper tick (16 R814, R816, R823). -/
def keeperTick (k : Keeper) (trim : Int) : Keeper :=
  let sub := k.rtcSub + 1
  let k1 := { k with
    ticks := k.ticks + 1
    edgeTicks := k.edgeTicks + 1
    sampled := false
    quiet := 0
    rtcSub := if sub = 32768 then 0 else sub
    rtcSec := if sub = 32768 then (k.rtcSec + 1) % 2 ^ 48 else k.rtcSec }
  if k1.todHold && k1.trimValid then todHoldTick k1 trim else todAdvance k1 1

/-- The trim, signed, in 0.1 ppm (16 R824). -/
def keeperTrim (s : State) : Int := ((rd s R.KEEPER_TOD_TRIM).extractLsb' 0 16).toInt

/-- `a` is at or past `b` among 48-bit seconds (11 R608, 16 R820). -/
def atOrPast48 (a b : Nat) : Bool := decide ((a + 2 ^ 48 - b) % 2 ^ 48 < 2 ^ 47)

/-! ### Wake conditions -/

/-- A wake condition: in FALLOW it raises the GLOBAL wake source and starts the return to SERVICE (02 R100, R90). The return is a request that
is pending: PENDING reads 1, and a request of software's is BUSY (R84; log 123, DESIGN CHOICE). -/
def wakeCondition (s : State) : State :=
  if s.mode.mode = .fallow then
    { s with mode := { s.mode with
      wake := true, auto := s.mode.auto || s.mode.request.isNone, request := some (s.mode.request.getD .service)
      since := if s.mode.request.isNone then s.now else s.mode.since } }
  else s

/-- KEEPER_WAKE_CAUSE AND KEEPER_WAKE_CTL is not zero (16 R841). -/
def keeperWakeHolds (s : State) : Bool := (rd s R.KEEPER_WAKE_CAUSE &&& rd s R.KEEPER_WAKE_CTL) != 0

/-- In FALLOW a Keeper wake condition is a wake condition (16 R842, R847). -/
def keeperWakeCheck (s : State) : State := if keeperWakeHolds s && running s then wakeCondition s else s

/-- A cause bit sets, whether or not it is enabled (16 R841). -/
def wakeCause (s : State) (i : Nat) : State := event s R.KEEPER_WAKE_CAUSE i

/-! ### Alarm and RTC -/

/-- The alarm time, 48 bits. -/
def alarmSec (s : State) : Nat := (rd64 s R.KEEPER_ALARM).toNat % 2 ^ 48

/-- Where EN is 1 and the RTC seconds have just become equal to ALARM, coming from `old`, the alarm is to fire (16 R819). -/
def alarmFalls (old : Nat) (s : State) : State :=
  let k := s.keeper
  if rbit s R.KEEPER_ALARM_CTL 31 && k.rtcSec != old && k.rtcSec == alarmSec s then { s with keeper := { k with alarmDue := true } } else s

/-- EN clears and LATE sets: the alarm time has passed (16 R820). -/
def alarmLate (s : State) : State := wr s R.KEEPER_ALARM_CTL (oneHot 30)

/-- The alarm fires: EN clears, the event and the cause set (16 R819). -/
def alarmFires (s : State) : State :=
  let s1 := wr { s with keeper := { s.keeper with alarmDue := false } } R.KEEPER_ALARM_CTL (setBit (rd s R.KEEPER_ALARM_CTL) 31 false)
  keeperWakeCheck (wakeCause (event s1 R.KEEPER_EVENT 1) 16)

/-- ALARM: the RTC seconds have become equal to ALARM with EN set. -/
def execAlarm (s : State) : Out := done (if s.power.vkeep && s.keeper.alarmDue then alarmFires s else s)

/-- EN is written: it arms the alarm unless its time has passed (16 R820). -/
def alarmArm (v : Word) (s : State) : State :=
  if bit v 31 then if atOrPast48 s.keeper.rtcSec (alarmSec s) then alarmLate s else wr s R.KEEPER_ALARM_CTL (oneHot 31)
  else wr s R.KEEPER_ALARM_CTL (setBit (rd s R.KEEPER_ALARM_CTL) 31 false)

/-- SET, with the seconds of the SET pair as the write finds it; the load follows at the next tick (16 R815, R818). -/
def rtcCtlWrite (v : Word) (s : State) : State :=
  if bit v 31 then { s with keeper := { s.keeper with rtcSet := some (s.keeper.ticks, (rd64 s R.KEEPER_RTC_SET).toNat % 2 ^ 48) } } else s

/-- SET loads seconds and a tick count of 0; an armed alarm that it carries past is late (16 R818, R820). -/
def rtcLoad (s : State) : State :=
  let sec := (s.keeper.rtcSet.map (·.2)).getD s.keeper.rtcSec
  let s1 := { s with keeper := { s.keeper with rtcSec := sec, rtcSub := 0, rtcSet := none } }
  if rbit s R.KEEPER_ALARM_CTL 31 && !atOrPast48 s.keeper.rtcSec (alarmSec s) && atOrPast48 sec (alarmSec s)
  then alarmLate s1 else alarmFalls s.keeper.rtcSec s1

/-- SET was written before the last Keeper tick began (16 R815, R818). -/
def rtcSetDue (k : Keeper) : Bool := k.rtcSet.any fun t => decide (t.1 < k.ticks)

/-- RTC_SET: the first Keeper tick after SET was written. -/
def execRtcSet (s : State) : Out := done (if s.power.vkeep && rtcSetDue s.keeper then rtcLoad s else s)

/-! ### Holdover time of day -/

/-- The trim from the ticks of 64 seconds, in 0.1 ppm, to the nearest unit (16 R822). -/
def trimOf (runTicks : Nat) : Int :=
  let d : Int := (runTicks : Int) - 2097152
  let x := if 0 ≤ d then (2 * d * 10000000 + 2097152) / 4194304 else -((2 * (-d) * 10000000 + 2097152) / 4194304)
  if x < -32768 then -32768 else if 32767 < x then 32767 else x

/-- A rising edge of PPS_OUT at time of day `sec` disciplines the Keeper (16 R821, R822). -/
def keeperEdge (sec : Nat) (s : State) : State :=
  let k := s.keeper
  let inRun := k.lastEdge == some ((sec + 2 ^ 48 - 1) % 2 ^ 48)
  let secs := if inRun then k.runSecs + 1 else 0
  let ticks := if inRun then k.runTicks + k.edgeTicks else 0
  let full := secs == 64
  let s1 := if full then wr s R.KEEPER_TOD_TRIM (((BitVec.ofInt 16 (trimOf ticks))).setWidth 32) else s
  { s1 with keeper := { k with
    todSec := sec % 2 ^ 48, todSub := 0, todValid := true, todHold := false
    trimValid := k.trimValid || full
    edgeTicks := 0
    runSecs := if full then 0 else secs
    runTicks := if full then 0 else ticks
    lastEdge := some sec } }

/-- No PPS edge for 1.5 s, which is 49,152 Keeper ticks: the time of day enters HOLDOVER (16 R823). -/
def todHoldover (s : State) : State :=
  if decide (49152 ≤ s.keeper.edgeTicks) && !s.keeper.todHold then
    { s with keeper := { s.keeper with todHold := true, trimAcc := 0, runSecs := 0, runTicks := 0, lastEdge := none } }
  else s

/-- TOD_HOLDOVER. -/
def execTodHoldover (s : State) : Out := done (if s.power.vkeep then todHoldover s else s)

/-! ### Supply comparators -/

/-- The code of a state (16 R825). -/
def Supply.code : Supply → Nat
  | .normal => 0
  | .sag => 1
  | .swell => 2
  | .dropout => 3

/-- The kind of a log entry for a state (16 R833). -/
def Supply.kind : Supply → Nat
  | .sag => 0
  | .swell => 1
  | .dropout => 2
  | .normal => 3

/-- Severity, from least to most: SWELL, SAG, DROPOUT (16 R830). -/
def Supply.severity : Supply → Nat
  | .normal => 0
  | .swell => 1
  | .sag => 2
  | .dropout => 3

/-- The more severe of two states. -/
def Supply.worse (a b : Supply) : Supply := if a.severity < b.severity then b else a

/-- Comparator `n`. -/
def comparator (s : State) (n : Nat) : Comparator := look {} s.keeper.scs n

/-- Comparator `n` set. -/
def setComparator (s : State) (n : Nat) (c : Comparator) : State :=
  { s with keeper := { s.keeper with scs := put {} s.keeper.scs n c } }

/-- Comparator `n` is in trip under its GASP (16 R828). -/
def inTrip (s : State) (n : Nat) : Bool :=
  let st := (comparator s n).st
  match rfld s (R.KEEPER_SC_CTL n) 28 2 with
  | 1 => st == .sag || st == .dropout
  | 2 => st == .dropout
  | _ => false

/-- The comparators in trip, as a mask. -/
def tripMask (s : State) : Nat := (bitsOf 8 (inTrip s)).toNat

/-- At a tick a comparator that was not in trip at the tick before is in trip: a gasp trip (16 R836), on which the line unit keeps the mask
and sets PENDING if armed (06 R371). -/
def tripCheck (s : State) : State :=
  let m := tripMask s
  let s1 := { s with keeper := { s.keeper with trip := m } }
  if ((List.range 8).any fun n => m.testBit n && !s.keeper.trip.testBit n) && running s then
    let g := (rd s R.LINE_GASP_CTL &&& 0xFFFFFF00) ||| BitVec.ofNat 32 m
    wr s1 R.LINE_GASP_CTL (if bit g 31 then setBit g 30 true else g)
  else s1

/-- The qualifying counts of a comparator after one more sample (16 R826). -/
def qualify (c : Comparator) (ctl : Word) (code : Nat) : Comparator :=
  let drop := fld ctl 0 8
  let low := fld ctl 8 8
  let high := fld ctl 16 8
  let hyst := fld ctl 24 4
  { c with
    qDrop := if code < drop then c.qDrop + 1 else 0
    qSag := if code < low then c.qSag + 1 else 0
    qSwell := if high < code then c.qSwell + 1 else 0
    qNormal := if low + hyst ≤ code ∧ code + hyst ≤ high then c.qNormal + 1 else 0 }

/-- The state a comparator changes to when states have qualified on `f` samples in a row (16 R827). -/
def nextSupply (c : Comparator) (f : Nat) : Option Supply :=
  if f ≤ c.qDrop && c.st != .dropout then some .dropout
  else if f ≤ c.qSwell && c.st != .swell && c.st != .dropout then some .swell
  else if f ≤ c.qSag && c.st != .sag && c.st != .dropout then some .sag
  else if f ≤ c.qNormal && c.st != .normal then some .normal
  else none

/-- One entry joins the supply event log (16 R830-R835). -/
def logEntry (s : State) (n : Nat) (kind worst duration : Nat) : State :=
  let k := s.keeper
  let words : List Word :=
    [ pack [(16, k.logCount % 65536), (15, 1), (12, n), (10, kind), (8, worst), (7, b2n k.todHold)],
      sat32 duration,
      BitVec.ofNat 32 k.rtcSec,
      pack [(16, k.rtcSec / 2 ^ 32), (0, k.rtcSub)],
      BitVec.ofNat 32 k.todSec,
      pack [(16, k.todSec / 2 ^ 32), (15, b2n k.todValid), (0, k.todSub)] ]
  let i := k.logCount % 64
  let s1 := event { s with keeper := { k with
    log := put [] k.log i words, logCount := k.logCount + 1
    logOld := (k.logOld.filter fun e => e.2.1 == k.ticks) ++ [(i, k.ticks, look [] k.log i)] } } R.KEEPER_EVENT 0
  if 64 ≤ k.logCount then event (bump s1 R.KEEPER_LOG_OVER) R.KEEPER_EVENT 2 else s1

/-- Comparator `n` changes to `st`: its log entry and its wake causes (16 R830, R841). -/
def supplyChange (s : State) (n : Nat) (st : Supply) : State :=
  let c := comparator s n
  let leaving := c.st == .normal
  let c1 := { c with
    st := st
    start := if leaving then s.keeper.ticks else c.start
    worst := if st == .normal then .normal else if leaving then st else c.worst.worse st }
  let s1 := setComparator s n c1
  let s2 := if st == .normal then logEntry s1 n 3 c.worst.kind (s.keeper.ticks - c.start) else logEntry s1 n st.kind 0 0
  if leaving then wakeCause s2 n else if st == .normal then wakeCause s2 (8 + n) else s2

/-- One sample of comparator `n`'s input (16 R826, R827). -/
def supplySample (s : State) (n : Nat) (code : Byte) : State :=
  let ctl := rd s (R.KEEPER_SC_CTL n)
  if bit ctl 31 then
    let c := qualify (comparator s n) ctl code.toNat
    let s1 := setComparator s n c
    match nextSupply c (rfld s (R.KEEPER_SC_FILT n) 0 8 + 1) with
    | some st => supplyChange s1 n st
    | none => s1
  else s

/-- Every comparator takes its sample of this tick, the lower number first; one whose input has not been given yet takes none. Then the
comparators in trip at this tick are known (16 R826, R830, R836; log 69, DESIGN CHOICE). -/
def sampleAll (s : State) : State :=
  let s1 := { s with keeper := { s.keeper with sampled := true } }
  keeperWakeCheck (tripCheck ((s.keeper.inputs.zipIdx.take 8).foldl (fun s x => supplySample s x.2 x.1) s1))

/-- The inputs of the comparators stand at `codes` from here on; where this tick's samples are still to come, they are taken (16 R826). -/
def supplyInputs (codes : List Byte) (s : State) : State :=
  let s1 := { s with keeper := { s.keeper with inputs := codes } }
  if s.keeper.sampled then s1 else sampleAll s1

/-- SC_STATE_CHANGE: the samples of the present Keeper tick, comparator 0 first, some of which may change a state. -/
def execScStateChange (codes : List Byte) (s : State) : Out := done (if s.power.vkeep then supplyInputs codes s else s)

/-- What is due at the Keeper tick that has begun: the load of SET, the alarm, the samples, and HOLDOVER (16 R818, R819, R823, R826). -/
def keeperDue (s : State) : State :=
  if s.power.vkeep then
    let s1 := if rtcSetDue s.keeper then rtcLoad s else s
    let s2 := if s1.keeper.alarmDue then alarmFires s1 else s1
    todHoldover (if s2.keeper.sampled then s2 else sampleAll s2)
  else s

/-- A write to KEEPER_ALARM_CTL; what the tick that has begun brings comes first (16 R815, R819, R820). -/
def keeperAlarmCtlEff (v : Word) (s : State) : State := alarmArm v (keeperDue s)

/-- KEEPER_ALARM_CTL. -/
def execKeeperAlarmCtl (v : Word) (s : State) : Out := viaBar s (keeperAlarmCtlEff v)

/-- A write to KEEPER_RTC_CTL. -/
def rtcCtlEff (v : Word) (s : State) : State := rtcCtlWrite v (keeperDue s)

/-- The qualifying counts of comparator `n` start again (16 R829). -/
def restartCounts (s : State) (n : Nat) : State :=
  setComparator s n { comparator s n with qDrop := 0, qSwell := 0, qSag := 0, qNormal := 0 }

/-- The settings of comparator `n` are written (16 R825, R829). -/
def scWrite (n : Nat) (filt : Bool) (v : Word) (s : State) : State :=
  if filt then
    let s1 := wrField s (R.KEEPER_SC_FILT n) v 0xFF 0
    if rd s1 (R.KEEPER_SC_FILT n) = rd s (R.KEEPER_SC_FILT n) then s1 else restartCounts s1 n
  else
    let s1 := wrField s (R.KEEPER_SC_CTL n) v 0xBFFFFFFF 0
    if !bit v 31 then setComparator s1 n {}
    else if (rd s1 (R.KEEPER_SC_CTL n) ^^^ rd s (R.KEEPER_SC_CTL n)) &&& 0x0FFFFFFF = 0 then s1
    else restartCounts s1 n

/-- A write to KEEPER_SC_CTL_n or KEEPER_SC_FILT_n; what the tick that has begun brings comes first (16 R815). -/
def keeperScCtlEff (n : Nat) (filt : Bool) (v : Word) (s : State) : State := scWrite n filt v (keeperDue s)

/-- KEEPER_SC_CTL. -/
def execKeeperScCtl (n : Fin 8) (filt : Bool) (v : Word) (s : State) : Out := viaBar s (keeperScCtlEff n filt v)

/-- The entry at index `i` as a KEEPER_LOG_SEL write sees it: one that this tick has written as it stood before (16 R834). -/
def logSeen (k : Keeper) (i : Nat) : List Word :=
  match k.logOld.find? fun e => e.1 == i && e.2.1 == k.ticks with
  | some e => e.2.2
  | none => look [] k.log i

/-- The entry named is latched into E0 to E5 (16 R832-R834). -/
def logLatch (v : Word) (s : State) : State :=
  let i := fld v 0 6
  let e := logSeen s.keeper i
  (List.range 6).foldl (fun s k => wr s (R.KEEPER_LOG_E k) (e.getD k 0)) (wr s R.KEEPER_LOG_SEL (BitVec.ofNat 32 i))

/-- A write to KEEPER_LOG_SEL; what the tick that has begun brings comes first (16 R815, R834). -/
def keeperLogSelEff (v : Word) (s : State) : State := logLatch v (keeperDue s)

/-- KEEPER_LOG_SEL. -/
def execKeeperLogSel (v : Word) (s : State) : Out := viaBar s (keeperLogSelEff v)

/-- Ticks of the time unit in 1 ms. -/
abbrev xtalLimit : Nat := 312500

/-- No Keeper tick has reached the time unit for 1 ms: it is recorded once (16 R866). -/
def quietDue (s : State) : State :=
  if s.keeper.quiet = xtalLimit then fault { s with keeper := { s.keeper with quiet := xtalLimit + 1 } } .keeper 2 wholeBlock 0 else s

/-- XTAL_STOP: where 1 ms has passed without a Keeper tick, it is recorded; from here on the crystal runs or does not, as `back` says
(16 R866, 17 R887; log 141, DESIGN CHOICE). -/
def execXtalStop (back : Bool) (s : State) : Out :=
  done (if s.power.vkeep then let s1 := quietDue s; { s1 with keeper := { s1.keeper with xtal := back } } else s)

/-! ### The tick -/

/-- The first Keeper tick after a write applies it: a wake condition it makes and a trip it causes are seen then (16 R815, R836, R841). -/
def keeperTicked (trim : Int) (s : State) : State :=
  let s1 := alarmFalls s.keeper.rtcSec { s with keeper := keeperTick s.keeper trim }
  keeperWakeCheck (tripCheck s1)

/-- The time unit counts how long no Keeper tick has reached it, while the core runs, up to 1 ms and the record of it (16 R866). -/
def quietTick (s : State) : State :=
  { s with keeper := { s.keeper with quiet := if s.power.coreUp then Nat.min (s.keeper.quiet + 1) (Nat.max s.keeper.quiet xtalLimit) else 0 } }

/-- One tick of the time unit as the Keeper sees it: 32,768 Keeper ticks fall in 312,500,000 of them (log 24, DESIGN CHOICE), while the crystal
runs. A Keeper tick counts for the times of CORE_EN (16 R814). -/
def keeperRun (s0 : State) : State :=
  let s := quietTick s0
  let k := s.keeper
  if k.xtal && s.power.vkeep then
    let f := k.frac + 32768
    if 312500000 ≤ f then
      keeperTicked (keeperTrim s) { s with keeper := { k with frac := f - 312500000 }, power := { s.power with enTicks := s.power.enTicks + 1 } }
    else { s with keeper := { k with frac := f } }
  else s

end Sys2Proof.Machine
end

