-- ==== Sys2Proof/Machine/TimeUnit.lean ====
section
/-!
DEFINITION. The time unit (chapter 11): clocks, measurements and servos, output time and its switching, the transmit timestamp
queue, time windows, scheduled actions (all but their writes), 1PPS and ToD, and the transparent clock.
-/
namespace Sys2Proof.Machine

/-! ### Clocks -/

/-- A 64-bit time as a clock count (11 R606, R607). -/
def toClock (d : DWord) : Clock := d.setWidth 88 <<< 24

/-- The top 64 bits of a clock: what a read returns (11 R607). -/
def ofClock (c : Clock) : DWord := c.extractLsb' 24 64

/-- `a - b`, signed, modulo 2^48 ns (11 R608), in 2^-40 ns. -/
def clockDiff (a b : Clock) : Int := (a - b).toInt

/-- A clock moved by a signed number of 2^-40 ns. -/
def clockAdd (c : Clock) (x : Int) : Clock := c + BitVec.ofInt 88 x

/-- `a` is at or past `b` (11 R608). -/
def atOrPast (a b : DWord) : Bool := decide (0 ≤ (a - b).toInt)

/-- A signed value in 2^-40 ns as a saturating difference in 1/16 ns (11 R606). -/
def sixteenths (x : Int) : Word :=
  let y := x >>> 36
  if y < -2147483648 then 0x80000000 else if 2147483647 < y then 0x7FFFFFFF else BitVec.ofInt 32 y

/-- ns in units of 2^-40 ns. -/
def nsUnits (n : Nat) : Int := (n : Int) * 2 ^ 40

/-- The magnitude of a signed value, in its own units. -/
def mag (x : Int) : Int := x.natAbs

/-- Domain A (false) or B (true) is fitted. -/
def hasDomain (s : State) (d : Bool) : Bool := !d || hasB s

/-- The state of a domain. -/
def dom (s : State) (d : Bool) : Domain := look {} s.time.doms (b2n d)

/-- The state of a domain set. -/
def setDom (s : State) (d : Bool) (x : Domain) : State :=
  { s with time := { s.time with doms := put {} s.time.doms (b2n d) x } }

/-- A domain's increment in force (11 R614). -/
def domIncr (s : State) (d : Bool) : BitVec 48 := (rd64 s (R.TIME_INCR (b2n d))).setWidth 48

/-- A domain's increment set. -/
def setIncr (s : State) (d : Bool) (v : BitVec 48) : State := wr64 s (R.TIME_INCR (b2n d)) (v.setWidth 64)

/-- Output time: the selected domain's count less the slew remainder (11 R624). -/
def outClock (s : State) : Clock := clockAdd (dom s s.time.sel).cnt (-s.time.remain)

/-- Output time as a register reads it. -/
def outNow (s : State) : DWord := ofClock (outClock s)

/-- SLEW of TIME_OUT_CTL in ppm (11 R625). -/
def slewPpm (s : State) : Nat := clampNat 1 10 (rfld s R.TIME_OUT_CTL 16 4)

/-- The slew remainder after one tick, and whether it has just reached 0 (11 R626). -/
def slewTick (s : State) : Int × Bool :=
  let r := s.time.remain
  let d : Int := ((domIncr s s.time.sel).toNat * slewPpm s / 1000000 : Nat)
  if r = 0 then (0, false)
  else if mag r ≤ d then (0, true)
  else (if 0 < r then r - d else r + d, false)

/-- A domain's count and idle time after one tick (11 R607). -/
def domTick (s : State) (d : Bool) : Domain :=
  let x := dom s d
  { x with cnt := x.cnt + (domIncr s d).setWidth 88, idle := x.idle + 1 }

/-- One tick of every clock of the time unit (11 R607, R610, R626). -/
def clocksTick (s : State) : State :=
  let (rem, fin) := slewTick s
  let incr := (rd64 s R.TIME_REACH_INCR).setWidth 48
  let a := domTick s false
  let b := domTick s true
  let ds := put {} s.time.doms 0 a
  { s with time := { s.time with
    reach := if s.time.reachSet then s.time.reach + incr.setWidth 88 else s.time.reach
    doms := if hasB s then put {} ds 1 b else ds
    remain := rem
    slewDone := s.time.slewDone || fin } }

/-! ### Scheduled actions -/

/-- The clock of scheduled action `n` (11 R650: 3 acts as 2). -/
def schedClock (s : State) (n : Nat) : DWord :=
  match rfld s (R.TIME_SCHED_CTL n) 24 2 with
  | 0 => ofClock (dom s false).cnt
  | 1 => ofClock (dom s true).cnt
  | _ => outNow s

/-- The clock of action `n` is at or past AT. -/
def schedPast (s : State) (n : Nat) : Bool := atOrPast (schedClock s n) (rd64 s (R.TIME_SCHED_AT n))

/-- The state of action `n`. -/
def schedState (s : State) (n : Nat) : SchedState := look .idle s.time.sched n

/-- The state of action `n` set. -/
def setSched (s : State) (n : Nat) (x : SchedState) : State :=
  { s with time := { s.time with sched := put .idle s.time.sched n x } }

/-- Action `n` becomes LATE: ARM clears and TIME_EVENT.LATE sets (11 R651, R653). -/
def schedLate (s : State) (n : Nat) : State :=
  event (wr (setSched s n .late) (R.TIME_SCHED_CTL n) (setBit (rd s (R.TIME_SCHED_CTL n)) 31 false)) R.TIME_EVENT 9

/-- A step has taken the clocks from `old` to `s`: every armed action that it carried past AT becomes LATE (11 R653). -/
def lateCheck (old s : State) : State :=
  (List.range 16).foldl (fun s n =>
    if schedState s n = .armed && !schedPast old n && schedPast s n then schedLate s n else s) s

/-! ### Output steps -/

/-- Output time steps by `e`: the step counts and sets its event (11 R626, R628). -/
def outStep (s : State) (e : Int) : State :=
  event { s with time := { s.time with
    steps := s.time.steps + 1
    stepLog := (s.now, e) :: s.time.stepLog.filter fun x => decide (s.now < x.1 + 312500) } } R.TIME_EVENT 7

/-- The output steps of the last `age` 2^-16 ns; a tick is 2^20/5 of them (11 R626). -/
def stepsWithin (s : State) (age : Nat) : List (Nat × Int) := s.time.stepLog.filter fun x => decide ((s.now - x.1) * 2 ^ 20 < 5 * age)

/-- Output time as it stood `age` 2^-16 ns ago (11 R629). -/
def outAgo (s : State) (age : Nat) : Clock :=
  clockAdd (outClock s) (-((age : Int) * 2 ^ 24) - (stepsWithin s age).foldl (fun a x => a + x.2) 0)

/-- The count of output steps as it stood `age` 2^-16 ns ago (11 R644). -/
def stepsAgo (s : State) (age : Nat) : Nat := s.time.steps - (stepsWithin s age).length

/-! ### Servos (11 R616-R620) -/

/-- The mean of the increments applied over the measurements kept, or the present one where there are none (11 R619). -/
def heldIncr (s : State) (d : Bool) : BitVec 48 :=
  let h := (dom s d).hist
  if h.isEmpty then domIncr s d else BitVec.ofNat 48 ((h.foldl (fun a x => a + x.toNat) 0) / h.length)

/-- Entry to HOLDOVER: the increment becomes the mean and is held, and the event sets (11 R617, R619). -/
def enterHoldover (s : State) (d : Bool) (cause : Nat) : State :=
  let s1 := setIncr s d (heldIncr s d)
  event (setDom s1 d { dom s d with st := .holdover, cause := cause, lockRun := 0 }) R.TIME_EVENT (3 + b2n d)

/-- The increment and frequency after a measurement that does not step the count (11 R618). -/
def tune (s : State) (d : Bool) (e : Int) : State :=
  let c := R.TIME_SERVO_CTL (b2n d)
  let kp := clampNat 8 15 (rfld s c 8 4)
  let ki := clampNat 4 15 (rfld s c 0 4)
  let x := dom s d
  let f := x.freq + (e >>> ki)
  let i := BitVec.ofInt 48 (0x033333333333 + f + (e >>> kp))
  setDom (setIncr s d i) d { x with freq := f, hist := (i :: x.hist).take 1024 }

/-- LOCK is entered: EVER_LOCKED and the event set (11 R617). -/
def enterLock (s : State) (d : Bool) : State :=
  event (setDom s d { dom s d with st := .lock, cause := 0, ever := true }) R.TIME_EVENT (5 + b2n d)

/-- The count steps by `e`, output time with it when the domain is selected (11 R617, R628). -/
def stepCount (s : State) (d : Bool) (e : Int) : State :=
  let x := dom s d
  let s1 := event (setDom s d { x with cnt := clockAdd x.cnt e, lockRun := 0, hist := (domIncr s d :: x.hist).take 1024 })
    R.TIME_EVENT (1 + b2n d)
  lateCheck s (if s.time.sel = d then outStep s1 e else s1)

/-- A measurement with residual `e` in ACQUIRE (11 R617). -/
def measureAcquire (s : State) (d : Bool) (e : Int) : State :=
  if nsUnits (rfld s (R.TIME_THRESH (b2n d)) 16 16) < mag e then stepCount s d e
  else
    let near := decide (mag e ≤ nsUnits (rfld s (R.TIME_LOCK (b2n d)) 16 16))
    let run := if near then (dom s d).lockRun + 1 else 0
    let s1 := tune (setDom s d { dom s d with lockRun := run }) d e
    if zeroAsOne (rfld s (R.TIME_LOCK (b2n d)) 8 8) ≤ run then enterLock s1 d else s1

/-- A measurement with residual `e` in HOLDOVER with cause NO_INPUT (11 R617, R619). -/
def measureNoInput (s : State) (d : Bool) (e : Int) : State :=
  if mag e ≤ nsUnits (rfld s (R.TIME_THRESH (b2n d)) 0 16) then
    let x := dom s d
    enterLock (tune (setDom s d { x with freq := ((domIncr s d).toNat : Int) - 0x033333333333 }) d e) d
  else setDom s d { dom s d with cause := 2 }

/-- Domain `d` takes a measurement whose residual is `e`, in 2^-40 ns (11 R616, R617). -/
def measure (s : State) (d : Bool) (e : Int) : State :=
  let x := dom s d
  let s1 := setDom (wr s (R.TIME_RESID (b2n d)) (sixteenths e)) d { x with meas := Nat.min (x.meas + 1) 65535, idle := 0 }
  match x.st with
  | .off => s
  | .acquire => measureAcquire s1 d e
  | .lock =>
    if nsUnits (rfld s (R.TIME_THRESH (b2n d)) 0 16) < mag e then enterHoldover s1 d 2 else tune s1 d e
  | .holdover => if x.cause = 1 then measureNoInput s1 d e else s1

/-- An RTT step takes domain `d` into HOLDOVER with cause RTT_STEP (11 R617). -/
def rttStepDomain (s : State) (d : Bool) : State :=
  if hasDomain s d then
    match (dom s d).st with
    | .off => s
    | .acquire => enterHoldover s d 3
    | .lock => enterHoldover s d 3
    | .holdover => setDom s d { dom s d with cause := 3 }
  else s

/-- An RTT step takes both domains (04 R248). -/
def rttStepServos (s : State) : State := rttStepDomain (rttStepDomain s false) true

/-- The convoy periods since the last measurement, or since the servo started, after which none of HOLD_AFTER periods had one: a
measurement falls in the period that it opens (11 R617, log 114, DEDUCED). -/
def silentPeriods (s : State) (d : Bool) : Nat :=
  zeroAsOne (rfld s (R.TIME_LOCK (b2n d)) 0 8) + (if (dom s d).meas = 0 then 0 else 1)

/-- SERVO_NO_INPUT: HOLD_AFTER convoy periods of 125 us have passed without a measurement (11 R617). -/
def execServoNoInput (d : Bool) (s : State) : Out :=
  viaCore s fun s =>
    let x := dom s d
    if hasDomain s d && (x.st == .acquire || x.st == .lock)
        && decide (78125 * silentPeriods s d ≤ 2 * x.idle)
    then enterHoldover s d 1 else s

/-- A servo starts acquiring: MEAS clears (11 R617). -/
def enterAcquire (s : State) (d : Bool) : State :=
  setDom s d { dom s d with st := .acquire, cause := 0, meas := 0, lockRun := 0, idle := 0, hist := [] }

/-- A write to TIME_SERVO_CTL_x (11 R614, R617). -/
def servoCtlEff (d : Bool) (v : Word) (s : State) : State :=
  if hasDomain s d then
    let s1 := wrField s (R.TIME_SERVO_CTL (b2n d)) v 0x80000F0F 0
    let st := (dom s d).st
    if !bit v 31 then setDom s1 d { dom s d with st := .off, cause := 0 }
    else if st = .off || (st = .holdover && bit v 30) then enterAcquire s1 d
    else s1
  else s

/-- TIME_SERVO_ENABLE: a write of ENABLE. -/
def execTimeServoEnable (d : Bool) (v : Word) (s : State) : Out := viaBar s (servoCtlEff d v)

/-- RESUME: the same register written with RESUME = 1 (11 R617, R620). -/
def execResume (d : Bool) (v : Word) (s : State) : Out := viaBar s (servoCtlEff d (v ||| 0x40000000))

/-- A write to a half of TIME_INCR_x: discarded and recorded while the servo is not OFF (11 R615). -/
def incrEff (d hi : Bool) (v : Word) (s : State) : State :=
  if hasDomain s d then
    if (dom s d).st != .off then fault s .time 1 (b2n d) (v.setWidth 64)
    else if hi then takeHi s (R.TIME_INCR (b2n d)) v 0xFFFFFFFFFFFF
    else stageLo s (R.TIME_INCR (b2n d)) v
  else s

/-- INCR_WRITE. -/
def execIncrWrite (d hi : Bool) (v : Word) (s : State) : Out := viaBar s (incrEff d hi v)

/-! ### Switching output time (11 R626, R627) -/

/-- A switch of output time to domain `d` commits. -/
def switchTo (d : Bool) (s : State) : State :=
  let delta := clockDiff (dom s d).cnt (outClock s)
  let s1 := { s with time := { s.time with refused := false } }
  if s.time.sel = d && s.time.remain = 0 then s1
  else if nsUnits (rfld s R.TIME_OUT_CTL 0 16) < mag delta then
    lateCheck s (outStep { s1 with time := { s1.time with sel := d, remain := 0 } } delta)
  else { s1 with time := { s1.time with sel := d, remain := delta, slewDone := s1.time.slewDone || delta = 0 } }

/-- A write to TIME_OUT_CTL: its fields, and with GO a switch to SEL, refused for an absent domain (11 R625, R626). -/
def switchEff (v : Word) (s : State) : State :=
  let s1 := wrField s R.TIME_OUT_CTL v 0x010FFFFF 0
  if bit v 31 then
    if hasDomain s (bit v 24) then switchTo (bit v 24) s1
    else { s with time := { s.time with refused := true } }
  else s1

/-- SWITCH. -/
def execSwitch (v : Word) (s : State) : Out := viaBar s (switchEff v)

/-- SWITCH_DONE: the slew remainder has reached 0 (11 R626). -/
def execSwitchDone (s : State) : Out :=
  viaCore s fun s =>
    if s.time.slewDone then event { s with time := { s.time with slewDone := false } } R.TIME_EVENT 8 else s

/-! ### Time of day (11 R621-R623) -/

/-- An epoch is held for the domain. -/
def epochHeld (s : State) (d : Bool) : Bool := rbit s (R.TIME_EPOCH_UTC (b2n d)) 31

/-- The time of day of a count of domain `d`: seconds and ns (11 R622). -/
def todOf (s : State) (d : Bool) (c : DWord) : Nat × Nat :=
  let x := b2n d
  let t : Int := (rd s (R.TIME_EPOCH_NS x)).toNat + ((c - rd64 s (R.TIME_EPOCH_REF x)).toInt >>> 16)
  let sec : Int := (rd64 s (R.TIME_EPOCH_SEC x)).toNat + t / 1000000000
  ((sec % 2 ^ 48).toNat, (t % 1000000000).toNat)

/-- A read of TIME_TOD_x_LO: seconds, with the HI half and ns latched from the same instant (11 R623). -/
def todRead (path : Nat) (d : Bool) (s : State) : Word × State :=
  if hasDomain s d then
    let t := if epochHeld s d then todOf s d (ofClock (dom s d).cnt) else (0, 0)
    let s1 := setLatch s path (R.TIME_TOD (b2n d) + 4) (BitVec.ofNat 32 (t.1 / 2 ^ 32))
    (BitVec.ofNat 32 t.1, { s1 with time := { s1.time with todNs := put 0 s1.time.todNs (2 * path + b2n d) (BitVec.ofNat 32 t.2) } })
  else (0, s)

/-- TIME_TOD_READ. -/
def execTimeTodRead (d : Bool) (s : State) : Out :=
  viaBar s fun s => answer (todRead hostPath d s).2 (todRead hostPath d s).1

/-! ### The transmit timestamp queue (11 R635-R637) -/

/-- A frame from a host ring with TS_REQ reaches its delimiter: whether an entry was queued, and the state (11 R635). -/
def stampQueue (e : TxStamp) (s : State) : Bool × State :=
  if s.time.txq.length < 4096 then (true, { s with time := { s.time with txq := s.time.txq ++ [e] } })
  else (false, event (bump s R.TIME_TXQ_OVERFLOW) R.TIME_EVENT 12)

/-- The words W1 to W3 of an entry, or zeros. -/
def txqWords (s : State) (e : Option TxStamp) : State :=
  let (a, b, c) := match e with
    | some e => (e.stamp.extractLsb' 0 32, e.stamp.extractLsb' 32 32, pack [(1, b2n e.slew), (0, b2n e.sel)])
    | none => (0, 0, 0)
  wr (wr (wr s (R.TIME_TXQ_W 0) a) (R.TIME_TXQ_W 1) b) (R.TIME_TXQ_W 2) c

/-- A read of TIME_TXQ_W0 removes the head entry and latches its other words (11 R637). -/
def txqRead (s : State) : Word × State :=
  match s.time.txq with
  | [] => (0, txqWords s none)
  | e :: q =>
    (pack [(31, 1), (24, e.port), (16, e.ring), (0, e.seq)],
      txqWords { s with time := { s.time with txq := q } } (some e))

/-- TIME_TXQ_W0. -/
def execTimeTxqW0 (s : State) : Out := viaBar s fun s => answer (txqRead s).2 (txqRead s).1

/-! ### Time windows (11 R646-R649) -/

/-- An armed window counts a frame stamped `t` of `len` bytes when it selects its source: a port, or the line (11 R647). -/
def winCount (port : Option Nat) (t : DWord) (len : Nat) (s : State) : State :=
  (List.range 8).foldl (fun s n =>
    let c := rd s (R.TIME_WIN_CTL n)
    let sel := match port with
      | some p => bit c p
      | none => bit c 16
    if bit c 31 && sel && atOrPast t (rd64 s (R.TIME_WIN_START n)) && !atOrPast t (rd64 s (R.TIME_WIN_END n)) then
      bump64 (bump s (R.TIME_WIN_FRAMES n)) (R.TIME_WIN_BYTES n) len
    else s) s

/-- WIN_DONE: output time has reached END + 10 us (11 R649). -/
def execWinDone (n : Fin 8) (s : State) : Out :=
  viaCore s fun s =>
    let c := rd s (R.TIME_WIN_CTL n)
    if bit c 31 && atOrPast (outNow s) (rd64 s (R.TIME_WIN_END n) + 0x27100000) then
      event (wr s (R.TIME_WIN_CTL n) (setBit (setBit c 31 false) 30 true)) R.TIME_EVENT 11
    else s

/-! ### Arming a scheduled action (11 R651) -/

/-- The targets that a scheduled write may not have (11 R651). -/
def schedForbidden (a : Nat) : Bool := decide (a < 0x100000) || (decide (0x400A00 ≤ a) && decide (a < 0x400C00))

/-- A write to TIME_SCHED_CTL_n (11 R650, R651, R653). -/
def schedArmEff (n : Nat) (v : Word) (s : State) : State :=
  let a := (rd s (R.TIME_SCHED_ADDR n)).toNat
  let s1 := wrField s (R.TIME_SCHED_CTL n) v 0x83010000 0
  if bit v 31 then
    if (!bit v 16 && schedForbidden a) || (fld v 24 2 == 1 && !hasB s) then fault s .time 3 n (BitVec.ofNat 64 a)
    else if schedPast s1 n then schedLate s1 n
    else setSched s1 n .armed
  else if schedState s n = .armed then setSched s1 n .idle
  else s1

/-- SCHED_ARM. -/
def execSchedArm (n : Fin 16) (v : Word) (s : State) : Out := viaBar s (schedArmEff n v)

/-! ### 1PPS and ToD (11 R654-R656) -/

/-- PPS_OUT may rise: enabled, with an epoch, and qualified if QUALIFY says so (11 R655). -/
def ppsAllowed (s : State) : Bool :=
  rbit s R.TIME_PPS_CTL 31 && epochHeld s s.time.sel && (!rbit s R.TIME_PPS_CTL 30 || (dom s s.time.sel).ever)

/-- Output time less the PPS offset: the second it lies in and the ns within (11 R654). -/
def ppsSecond (s : State) : Nat × Nat :=
  let off : Int := (rd s R.TIME_PPS_OFFSET).toInt
  todOf s s.time.sel (outNow s - BitVec.ofInt 64 (off * 65536))

/-- The time of day of output time is looked at: an edge is owed where it has crossed a whole second plus the offset upward since it was last
looked at, however far it went past it; a new offset starts afresh (11 R654; log 136, DEDUCED). -/
def ppsObserve (s : State) : State :=
  let sec := (ppsSecond s).1
  let off := rd s R.TIME_PPS_OFFSET
  let crossed := match s.time.ppsAt with | some (o, k) => o == off && decide (k < sec) | none => false
  if ppsAllowed s then { s with time := { s.time with ppsAt := some (off, sec), ppsOwed := s.time.ppsOwed || crossed } }
  else { s with time := { s.time with ppsAt := none, ppsOwed := false } }

/-- PPS_OUT rises, and the Keeper is disciplined by the edge. -/
def ppsEdge (s : State) : State :=
  let sec := (todOf s s.time.sel (outNow s)).1
  let s1 := emit { s with time := { s.time with
    ppsHigh := true
    ppsFall := 2 * s.now + 625 * zeroAsOne (rfld s R.TIME_PPS_CTL 0 16)
    ppsOwed := false
    todMsg := s.time.todMsg ++ [⟨sec, s.now⟩] } } .pps
  if s.power.vkeep then keeperEdge sec s1 else s1

/-- An edge that is owed comes. -/
def ppsEff (s : State) : State :=
  let s1 := ppsObserve s
  if s1.time.ppsOwed then ppsEdge s1 else s1

/-- PPS. -/
def execPps (s : State) : Out := viaCore s ppsEff

/-- The PPS pin falls after its width, or while a condition of 11 R655 holds it low. -/
def ppsTick (s : State) : State :=
  if s.time.ppsHigh && (decide (s.time.ppsFall ≤ 2 * s.now) || !ppsAllowed s) then
    { s with time := { s.time with ppsHigh := false } }
  else s

/-- The code of a servo state (11 R614). -/
def Servo.code : Servo → Nat
  | .off => 0
  | .acquire => 1
  | .lock => 2
  | .holdover => 3

/-- The ToD message of an edge at second `sec` (11 R656). -/
def todBytes (s : State) (sec : Nat) : Bytes :=
  let d := s.time.sel
  let b := [0x5A#8, 0xA5#8] ++ beBytes 1 (b2n d * 128 + (dom s d).st.code) ++ [0#8] ++ beBytes 6 sec
    ++ beBytes 2 (rfld s (R.TIME_EPOCH_UTC (b2n d)) 0 16) ++ [0#8, 0#8]
  b ++ beBytes 2 (crc16 b).toNat

/-- `wait` ticks after the edge, the oldest message owed is sent, or is given up with EN = 0 (11 R656; log 144, DEDUCED). -/
def todSend (wait : Nat) (s : State) : State :=
  match s.time.todMsg with
  | o :: l =>
    if o.at_ + wait ≤ s.now then
      let s1 := { s with time := { s.time with todMsg := l } }
      if rbit s R.TIME_TOD_CTL 31 then emit s1 (.tod (todBytes s o.sec)) else s1
    else s
  | [] => s

/-- TOD_MESSAGE: a message may start from 1 ms after its edge (11 R656). -/
def execTodMessage (s : State) : Out := viaCore s (todSend 312500)

/-- A message starts at the latest 2 ms after its edge (11 R656). -/
def todDeadline (s : State) : State := todSend 625000 s

/-! ### The transparent clock (11 R638-R645) -/

/-- What a PTP event frame has to be corrected in: where its PTP header starts, and where its UDP checksum lies, with whether 0
there means none (IPv4). -/
structure PtpAt where
  ptp  : Nat
  udp  : Option (Nat × Bool)
  deriving DecidableEq, Repr

/-- The offset of the EtherType after the Ethernet header and at most two VLAN tags (11 R638). -/
def etherTypeAt (b : Bytes) : Nat :=
  let tag (i : Nat) := beAt b i 2 == 0x8100 || beAt b i 2 == 0x88A8
  if tag 12 then (if tag 16 then 20 else 16) else 12

/-- The PTP header of a PTP event frame (11 R638). -/
def ptpEvent (b : Bytes) : Option PtpAt :=
  let e := etherTypeAt b
  let ip := e + 2
  let cand : Option PtpAt :=
    if beAt b e 2 = 0x88F7 then some ⟨ip, none⟩
    else if beAt b e 2 = 0x0800 ∧ beAt b ip 1 / 16 = 4 then
      let udp := ip + 4 * (beAt b ip 1 % 16)
      if beAt b (ip + 6) 2 % 0x4000 = 0 ∧ beAt b (ip + 9) 1 = 17 ∧ beAt b (udp + 2) 2 = 319
      then some ⟨udp + 8, some (udp + 6, true)⟩ else none
    else if beAt b e 2 = 0x86DD ∧ beAt b ip 1 / 16 = 6 then
      let udp := ip + 40
      if beAt b (ip + 6) 1 = 17 ∧ beAt b (udp + 2) 2 = 319 then some ⟨udp + 8, some (udp + 6, false)⟩ else none
    else none
  match cand with
  | some p =>
    if beAt b p.ptp 1 % 16 ≤ 3 ∧ beAt b (p.ptp + 1) 1 % 16 = 2 ∧ p.ptp + beAt b (p.ptp + 2) 2 ≤ b.length
        ∧ p.ptp + 16 ≤ b.length
    then some p else none
  | none => none

/-- The checksum after the words at `i` change from those of `old` to those of `new` (11 R641); 0x0000 is written as 0xFFFF. -/
def recheck (hc : Nat) (old new : Bytes) : Nat :=
  let n := fold16 ((0xFFFF - hc) + (4 * 0xFFFF - sum16 old) + sum16 new)
  if n = 0xFFFF then 0xFFFF else 0xFFFF - n

/-- A corrected frame: its bytes, and whether the field saturated (11 R641). -/
def tcApply (b : Bytes) (p : PtpAt) (residence : DWord) (add : Word) : Bytes × Bool :=
  let old : DWord := BitVec.ofNat 64 (beAt b (p.ptp + 8) 8)
  let sum : Int := old.toInt + residence.toInt + add.toInt * 4096
  let sat := old = 0x7FFFFFFFFFFFFFFF || decide (sum < -(2 ^ 63)) || decide ((2 ^ 63 - 1 : Int) < sum)
  let new : DWord := if sat then 0x7FFFFFFFFFFFFFFF else BitVec.ofInt 64 sum
  let cf := beBytes 8 new.toNat
  let b1 := patch b (p.ptp + 8) cf
  match p.udp with
  | some (i, zeroNone) =>
    let hc := beAt b i 2
    if zeroNone && hc == 0 then (b1, sat)
    else (patch b1 i (beBytes 2 (recheck hc (slice b (p.ptp + 8) 8) cf)), sat)
  | none => (b1, sat)

/-- A correction in ps as 2^-16 ns (11 R630, R631). -/
def psUnits (w : Word) : DWord := BitVec.ofInt 64 (w.toInt * 65536 / 1000)

/-- The row instant of stream byte `b` after t0, in 2^-16 ns (11 R633). -/
def rowOffset (b : Nat) : Nat :=
  let r := b / 512
  50 * 65536 * (r / 20) + (160 + 257 * (r % 20)) * 65536 / 112

end Sys2Proof.Machine
end

