-- ==== Sys2Proof/Machine/PaceUnit.lean ====
section
/-!
DEFINITION. The pace governors (16 R848-R861), temperature (17 R897 R898) and the transceiver sideband (17 R899 R900).
-/
namespace Sys2Proof.Machine

/-! ### Pace governors -/

/-- A row of the guaranteed rates (01 R37): rail in mV, cell rate in 0.1 Mframe/s, drover rate in M steps/s. -/
structure PaceRow where
  mv   : Nat
  cell : Nat
  step : Nat
  deriving DecidableEq, Repr

/-- The table of 01 R37. -/
def paceRows : List PaceRow :=
  [ ⟨650, 340, 302⟩, ⟨680, 390, 347⟩, ⟨720, 450, 400⟩, ⟨760, 510, 453⟩, ⟨800, 560, 498⟩, ⟨840, 610, 542⟩, ⟨880, 650, 578⟩ ]

/-- The row at or below a voltage; below the table its first row. -/
def paceRow (mv : Nat) : PaceRow := (paceRows.filter fun r => r.mv ≤ mv).getLastD ⟨650, 340, 302⟩

/-- The governor of tract `t`. -/
def pace (s : State) (t : Nat) : Pace := look {} s.paces t

/-- The governor of tract `t` set. -/
def setPace (s : State) (t : Nat) (p : Pace) : State := { s with paces := put {} s.paces t p }

/-- FLOOR in mV as it acts (16 R850). -/
def paceFloor (s : State) (t : Nat) : Nat := clampNat 650 880 (rfld s (R.TRACT_PACE_LIMIT t) 0 16)

/-- CEILING in mV as it acts (16 R850). -/
def paceCeiling (s : State) (t : Nat) : Nat :=
  Nat.max (paceFloor s t) (clampNat 650 880 (rfld s (R.TRACT_PACE_LIMIT t) 16 16))

/-- FIXED in mV as it acts (16 R850). -/
def paceFixed (s : State) (t : Nat) : Nat := clampNat 650 880 (rfld s (R.TRACT_PACE_FIXED t) 0 16)

/-- WINDOW in us as it acts (16 R849). -/
def paceWindow (s : State) (t : Nat) : Nat := clampNat 10 10000 (rfld s (R.TRACT_PACE_CTL t) 0 16)

/-- HEADROOM in % as it acts (16 R849). -/
def paceHeadroom (s : State) (t : Nat) : Nat := Nat.min 100 (rfld s (R.TRACT_PACE_CTL t) 16 8)

/-- The candidates, rising: FLOOR, CEILING and the voltages of 01 R37 between them (16 R853). -/
def candidates (s : State) (t : Nat) : List Nat :=
  let lo := paceFloor s t
  let hi := paceCeiling s t
  setIns lo (setIns hi ((paceRows.map (·.mv)).filter fun v => lo < v && v < hi))

/-- The time a change of `dv` mV takes to slew and settle, in half ticks (16 R854). -/
def paceSettle (s : State) (t dv : Nat) : Nat :=
  625 * dv * 10 / zeroAsOne (rfld s (R.TRACT_PACE_TIMING t) 8 8) + 625 * rfld s (R.TRACT_PACE_TIMING t) 0 8

/-- The CRC of an AVSBus frame, over its bits 31 to 3 with x^3 + x + 1 (16 R848; log 143, PRESUMED). -/
def avsCrc (w : Word) : Nat :=
  (List.range 29).foldl (fun c k => let f := (c / 4 + b2n (bit w (31 - k))) % 2; (2 * c % 8) ^^^ (3 * f)) 0

/-- An AVSBus frame whose bits 31 to 3 are those of `w`. -/
def avsSeal (w : Word) : Word := w ||| BitVec.ofNat 32 (avsCrc w)

/-- The frame that writes and commits `mv` mV on RailSel `t`, or reads its voltage back (16 R848; log 143, PRESUMED). -/
def avsFrame (t : Nat) (write : Option Nat) : Word :=
  avsSeal (match write with
    | some mv => pack [(30, 1), (19, t), (3, mv)]
    | none => pack [(30, 1), (28, 3), (19, t), (3, 0xFFFF)])

/-- A response acknowledges: its CRC is right, and it reports no error, neither of the frame nor in its status (16 R848; log 143, PRESUMED). -/
def ackTaken (a : Ack) : Bool := decide (fld a.response 0 3 = avsCrc a.response) && fld a.response 29 3 == 0 && !bit a.response 27

/-- The voltage that a response to a read carries, in mV (log 143, PRESUMED). -/
def ackRail (a : Ack) : Nat := fld a.response 8 16

/-- The frame `f` to tract `t` is not acknowledged: its governor stops (16 R859). -/
def avsFail (s : State) (t : Nat) (f : Word) (a : Ack) : State :=
  fault (setPace s t { pace s t with st := .stopped }) (.tract t) 14 t (f ++ a.response)

/-- The rail of tract `t` is written to `mv`; a raise waits to be credited (16 R854, R855). -/
def writeRail (s : State) (t mv : Nat) (a : Ack) : State :=
  let p := pace s t
  let f := avsFrame t (some mv)
  let s1 := emit s (.avs t f)
  if ackTaken a then
    let ends := 2 * s.now + paceSettle s t ((mv - p.setpoint) + (p.setpoint - mv))
    let raising := if p.setpoint < mv then some ((p.raising.map (·.1)).getD p.setpoint, Nat.max ends ((p.raising.map (·.2)).getD 0))
      else p.raising
    setPace s1 t { p with setpoint := mv, raising := raising, settles := ends }
  else avsFail s1 t f a

/-- A response that acknowledges: no error, with the reserved bits set. -/
def ackOk : Ack := ⟨avsSeal 0xF8⟩

/-- Four octets that no rule gives, as a word. -/
def freeWord (s : State) (i : Nat) : Word := BitVec.ofNat 32 (beNat ((List.range 4).map fun k => Config.freeByte s.free (4 * i + k)))

/-- The answer to an AVSBus frame of which no command carries the answer: acknowledged or not (16 R848, R859; log 76, DESIGN CHOICE). -/
def freeAck (s : State) : Ack := ⟨freeWord s 0⟩

/-- The largest number of head tokens that entered one role in the window (16 R851). -/
def paceTokens (p : Pace) : Nat := p.tokens.foldl (fun a e => Nat.max a e.2) 0

/-- A candidate's row meets the window's demand plus headroom (16 R853). -/
def paceMeets (s : State) (t : Nat) (p : Pace) (mv : Nat) : Bool :=
  let r := paceRow mv
  let w := paceWindow s t
  let h := 100 + paceHeadroom s t
  decide (paceTokens p * 10 * h ≤ r.cell * w * 100) && decide (p.words * h ≤ r.step * w * 100)

/-- The window was saturated (16 R852): a token held for more than 1 % of its ticks, or DROVER_LATE. -/
def paceSaturated (s : State) (t : Nat) (p : Pace) : Bool := decide (625 * paceWindow s t < 200 * p.held) || p.late

/-- The choice of the GOVERNING state at a window end (16 R853-R855). -/
def paceChoose (s : State) (t : Nat) (write : Ack) : State :=
  let p := pace s t
  let sat := paceSaturated s t p
  let fit := (candidates s t).find? (paceMeets s t p)
  let chosen := if sat then paceCeiling s t else fit.getD (paceCeiling s t)
  let short := fit.isNone
  let s1 := if short then bump s (R.TRACT_PACE_CNT_SHORT t) else s
  let s2 := if sat then bump s1 (R.TRACT_PACE_CNT_SAT t) else s1
  let low := if chosen < p.setpoint then p.low + 1 else 0
  let s3 := setPace s2 t { p with sat := sat, short := short, low := low }
  if p.setpoint < chosen then writeRail s3 t chosen write
  else if zeroAsOne (rfld s (R.TRACT_PACE_TIMING t) 24 8) ≤ low && p.raising.isNone then
    let next := ((candidates s t).filter (· < p.setpoint)).getLastD p.setpoint
    let s4 := writeRail s3 t next write
    setPace s4 t { pace s4 t with low := 0 }
  else s3

/-- The demand and the pace monitor at a window end, with the rail as it was read back last (16 R851, R860, R861). -/
def paceMonitor (s : State) (t measured : Nat) : State :=
  let p := pace s t
  let w := paceWindow s t
  let cap := (paceRow (rfld s (R.TRACT_PACE_RAIL t) 0 16)).cell
  let margin : Int := (measured * 1000 : Nat) / (cap : Int) - 1000
  let s1 := wr s (R.TRACT_PACE_DEMAND t) (pack [(16, (paceTokens p * 10 / w) % 65536), (0, (p.words / w) % 65536)])
  let s3 := wr s1 (R.TRACT_PACE_MARGIN t) (BitVec.ofNat 16 measured ++ BitVec.ofInt 16 margin)
  if measured < cap then fault s3 (.tract t) 15 wholeBlock (BitVec.ofNat 64 (measured * 2 ^ 32 + cap)) else s3

/-- A new window begins. -/
def paceNewWindow (s : State) (t : Nat) : State :=
  setPace s t { pace s t with since := s.now, tokens := [], words := 0, late := false, held := 0 }

/-- The rail voltage of tract `t` is read back at a window's end, unless its governor is stopped (16 R848, R859). -/
def paceRead (s : State) (t : Nat) (read : Ack) : State :=
  if (pace s t).st = .stopped then s
  else
    let f := avsFrame t none
    let s1 := emit s (.avs t f)
    if ackTaken read then wr s1 (R.TRACT_PACE_RAIL t) (BitVec.ofNat 32 (ackRail read)) else avsFail s1 t f read

/-- The end of a window of tract `t`; the pace monitor measures in every window, against the rail read back last (16 R851-R861). -/
def paceWindowEff (t measured : Nat) (read write : Ack) (s : State) : State :=
  if !hasTract s t || s.mode.mode == .loading || decide (2 * (s.now - (pace s t).since) < 625 * paceWindow s t) then s
  else
    let s1 := paceMonitor (paceRead s t read) t measured
    paceNewWindow (if (pace s1 t).st = .governing then paceChoose s1 t write else s1) t

/-- PACE_WINDOW_END. -/
def execPaceWindowEnd (t : Fin 8) (measured : Nat) (read write : Ack) (s : State) : Out :=
  viaCore s (paceWindowEff t measured read write)

/-- A raise of tract `t` that has slewed and settled is credited (16 R854). -/
def creditRaise (s : State) (t : Nat) : State :=
  match (pace s t).raising with
  | some (_, e) => if e ≤ 2 * s.now then setPace s t { pace s t with raising := none } else s
  | none => s

/-- RAISE_CREDITED: an acknowledged raise has slewed and settled (16 R854). -/
def execRaiseCredited (t : Fin 8) (s : State) : Out := viaCore s fun s => creditRaise s t

/-- The state that EN selects, with the rail at FIXED while EN = 0, except that LOADING holds the rail (16 R849, R856). -/
def paceSelect (s : State) (t : Nat) (a : Ack) : State :=
  let p := pace s t
  if rbit s (R.TRACT_PACE_CTL t) 31 then setPace s t { p with st := .governing, low := 0 }
  else
    let s1 := setPace s t { p with st := .fixed, low := 0 }
    if p.setpoint = paceFixed s t ∨ s.mode.mode = .loading then s1 else writeRail s1 t (paceFixed s t) a

/-- A write to TRACT_PACE_CTL (16 R849, R859). -/
def paceCtlEff (t : Nat) (v : Word) (a : Ack) (s : State) : State :=
  if hasTract s t then
    let s1 := wrField s (R.TRACT_PACE_CTL t) v 0x80FFFFFF 0
    match (pace s t).st with
    | .stopped => if bit v 30 then paceSelect s1 t a else s1
    | .fallow => s1
    | _ => if bit (rd s (R.TRACT_PACE_CTL t)) 31 = bit v 31 then s1 else paceSelect s1 t a
  else s

/-- PACE_RESTART: the register written with RESTART = 1, and how the regulator answers a write of the rail. -/
def execPaceRestart (t : Fin 8) (v : Word) (write : Ack) (s : State) : Out := viaBar s (paceCtlEff t (v ||| 0x40000000) write)

/-- A write to TRACT_PACE_FIXED moves the rail of a tract in FIXED, except that LOADING holds it (16 R849, R856). -/
def paceFixedEff (t : Nat) (v : Word) (a : Ack) (s : State) : State :=
  let s1 := wrField s (R.TRACT_PACE_FIXED t) v 0xFFFF 0
  if (pace s t).st = .fixed ∧ (pace s t).setpoint ≠ paceFixed s1 t ∧ s.mode.mode ≠ .loading then writeRail s1 t (paceFixed s1 t) a else s1

/-- After LOADING every governor goes on with a new window, and a rail in FIXED goes to what FIXED holds now (16 R856). -/
def paceResume (s : State) : State :=
  (tracts s).foldl (fun s t =>
    if (pace s t).st = .stopped then s
    else if (pace s t).st = .fixed ∧ (pace s t).setpoint ≠ paceFixed s t then
      paceNewWindow (writeRail (draw1 s) t (paceFixed s t) (freeAck s)) t
    else paceNewWindow s t) s

/-- The acknowledgement an AVSBus write of tract `t` meets at a mode commit; a tract not listed acknowledges. -/
def ackOf (avs : List (Nat × Ack)) (t : Nat) : Ack := ((avs.find? (·.1 == t)).map (·.2)).getD ackOk

/-- The rail that a commit of `m` moves tract `t` to (16 R857, R858). -/
def railTarget (s : State) (m : Mode) (t : Nat) : Nat :=
  if m = .fallow then paceFloor s t else if rbit s (R.TRACT_PACE_CTL t) 31 then paceCeiling s t else paceFixed s t

/-- Entry to FALLOW, or the return from it: a change of mode that moves the rails (16 R857, R858). -/
def movesRails (s : State) (m : Mode) : Bool := m == .fallow || (s.mode.mode == .fallow && m == .service)

/-- The change of mode to `m` writes every present tract's rail, and the governors make no choice until it has committed; a tract in STOPPED is
left out (16 R857-R859). -/
def railsMove (m : Mode) (avs : List (Nat × Ack)) (s : State) : State :=
  (tracts s).foldl (fun s t =>
    if (pace s t).st = .stopped then s
    else writeRail (setPace s t { pace s t with st := .fallow, raising := none, low := 0 }) t (railTarget s m t) (ackOf avs t))
    { s with mode := { s.mode with rails := true } }

/-- The rails that the change of mode wrote have slewed and settled; a tract whose governor is stopped is not waited for (16 R857-R859). -/
def railsReady (s : State) : Bool :=
  (tracts s).all fun t => (pace s t).st == .stopped || decide ((pace s t).settles ≤ 2 * s.now)

/-- The governors that a change of mode held run again as EN selects, each with a new window (16 R856, R858). -/
def railsFree (s : State) : State :=
  (tracts s).foldl (fun s t =>
    if (pace s t).st = .fallow then paceNewWindow (paceSelect (draw1 (creditRaise s t)) t (freeAck s)) t else s) s

/-- The code of a governor's state (16 R849). -/
def PaceState.code : PaceState → Nat
  | .fixed => 0
  | .governing => 1
  | .fallow => 2
  | .stopped => 3

/-- TRACT_PACE_STATUS as read (16 R849). -/
def paceStatus (s : State) (t : Nat) : Word :=
  let p := pace s t
  pack [(30, p.st.code), (29, b2n p.raising.isSome), (28, b2n p.sat), (27, b2n p.short), (0, p.setpoint)]

/-! ### Temperature -/

/-- A sensor takes part: 0-7 of a present tract, 8-15 of the core (17 R897). -/
def sensorPresent (s : State) (i : Nat) : Bool := if i < 8 then hasTract s i else decide (i < 16)

/-- The hottest of the sensors that take part, the lowest number among equals. -/
def hottest (s : State) : Nat → List (BitVec 16) → Option (Nat × BitVec 16) → Option (Nat × BitVec 16)
  | _, [], best => best
  | i, x :: xs, best =>
    let better := match best with
      | some (_, b) => decide (b.toInt < x.toInt)
      | none => true
    hottest s (i + 1) xs (if sensorPresent s i && better then some (i, x) else best)

/-- THERM_ALERT_N after an update at temperature `temp` (17 R898). -/
def thermAlert (s : State) (temp : Int) : Bool :=
  let v := rd s R.GLOBAL_TEMP_ALERT
  let th := (v.extractLsb' 0 16).toInt
  if !bit v 31 then false
  else if th ≤ temp then true
  else if temp ≤ th - 20 then false
  else s.power.thermAlert

/-- TEMP_UPDATE: the hottest reading is shown and the alert pin driven or released (17 R897, R898). -/
def execTempUpdate (readings : List (BitVec 16)) (s : State) : Out :=
  viaCore s fun s =>
    match hottest s 0 readings none with
    | some (i, x) =>
      let s1 := wr s R.GLOBAL_TEMP (pack [(16, i), (0, x.toNat)])
      { s1 with power := { s1.power with thermAlert := thermAlert s x.toInt } }
    | none => s

/-! ### The transceiver sideband -/

/-- A write to LINE_SB_CMD: a GO while BUSY is discarded; otherwise the frame or transaction starts, or an I2C OP of 0 or 2
ends at once with ERR (17 R899, R900). -/
def sbCmdEff (v : Word) (s : State) : State :=
  if bit v 31 then
    if rbit s R.LINE_SB_STATUS 31 then s
    else
      let s1 := wrField s R.LINE_SB_CMD v 0x7FFFFFFF 0
      let old := rd s R.LINE_SB_STATUS &&& 0xFFFF
      if bit v 30 && !bit v 28 then wr s1 R.LINE_SB_STATUS (old ||| oneHot 30)
      else emit (wr { s1 with line := { s1.line with sb := v &&& 0x7FFFFFFF } } R.LINE_SB_STATUS (old ||| oneHot 31)) (.sideband (v &&& 0x7FFFFFFF))
  else wrField s R.LINE_SB_CMD v 0x7FFFFFFF 0

/-- The value of LINE_SB_CMD with GO for a bus, an operation and its operands (17 R899). -/
def sbWord (i2c : Bool) (op : Nat) (port : BitVec 7) (devad : BitVec 5) (data : BitVec 16) : Word :=
  pack [(31, 1), (30, b2n i2c), (28, op), (21, port.toNat), (16, devad.toNat), (0, data.toNat)]

/-- MDIO_ADDRESS: OP 0. -/
def execMdioAddress (port : BitVec 7) (devad : BitVec 5) (data : BitVec 16) (s : State) : Out :=
  viaBar s (sbCmdEff (sbWord false 0 port devad data))

/-- MDIO_WRITE: OP 1. -/
def execMdioWrite (port : BitVec 7) (devad : BitVec 5) (data : BitVec 16) (s : State) : Out :=
  viaBar s (sbCmdEff (sbWord false 1 port devad data))

/-- MDIO_READ_INC: OP 2. -/
def execMdioReadInc (port : BitVec 7) (devad : BitVec 5) (data : BitVec 16) (s : State) : Out :=
  viaBar s (sbCmdEff (sbWord false 2 port devad data))

/-- MDIO_READ: OP 3. -/
def execMdioRead (port : BitVec 7) (devad : BitVec 5) (data : BitVec 16) (s : State) : Out :=
  viaBar s (sbCmdEff (sbWord false 3 port devad data))

/-- I2C_WRITE: BUS 1, OP 1. -/
def execI2cWrite (port : BitVec 7) (devad : BitVec 5) (data : BitVec 16) (s : State) : Out :=
  viaBar s (sbCmdEff (sbWord true 1 port devad data))

/-- I2C_READ: BUS 1, OP 3. -/
def execI2cRead (port : BitVec 7) (devad : BitVec 5) (data : BitVec 16) (s : State) : Out :=
  viaBar s (sbCmdEff (sbWord true 3 port devad data))

/-- What LINE_SB_STATUS holds when the frame or transaction that GO started ends: `rdata` is none where nothing responded (17 R900). -/
def sbResult (s : State) (rdata : Option (BitVec 16)) : Word :=
  let c := s.line.sb
  let old := rd s R.LINE_SB_STATUS &&& 0xFFFF
  let reads := bit c 29
  if bit c 30 then
    match rdata with
    | some d => if reads then BitVec.ofNat 32 (d.toNat % 256) else old
    | none => old ||| oneHot 30
  else if reads then BitVec.ofNat 32 ((rdata.getD 0xFFFF).toNat)
  else old

/-- SIDEBAND_DONE. -/
def execSidebandDone (rdata : Option (BitVec 16)) (s : State) : Out :=
  viaCore s fun s => if rbit s R.LINE_SB_STATUS 31 then wr s R.LINE_SB_STATUS (sbResult s rdata) else s

end Sys2Proof.Machine
end

