-- ==== Sys2Proof/Machine/LineRx.lean ====
section
/-!
DEFINITION. Line reception up to the rows of a convoy (03 R133-R142, R146, R154, R198, R913; 01 R42-R44): lane codewords, lock, places, skew,
the line receive FIFO, what the lanes hold for the line unit, and the octets of the convoy body. Row CODEWORD.
-/
namespace Sys2Proof.Machine

/-! ### Lanes and places -/

/-- The lane on pin LLn. -/
def lane (s : State) (l : Nat) : Lane := look {} s.line.lanes l

/-- The lane on pin LLn set. -/
def setLane (s : State) (l : Nat) (x : Lane) : State :=
  { s with line := { s.line with lanes := put {} s.line.lanes l x } }

/-- The sixteen pins LL0-LL15. -/
def pins : List Nat := List.range 16

/-- The codewords of a convoy period on a lane (03 R146). -/
abbrev periodCws : Nat := 2500

/-- How many places there are: 2,500 to each of the 2^32 convoy numbers. -/
abbrev places : Nat := 2500 * 2 ^ 32

/-- The place of the next codeword. -/
def nextPlace (p : Nat) : Nat := (p + 1) % places

/-- How far place `a` lies past place `b`, signed, convoy numbers being counted modulo 2^32 (03 R149). -/
def placeDiff (a b : Nat) : Int := ((a : Int) - b + places / 2) % places - places / 2

/-- The pin that carries logical lane `n`: the one that LINE_LANES names, LLn where no image has said (15 R766). -/
def llPin (s : State) (n : Nat) : Nat :=
  match s.loader.lineLanes[n]? with
  | some b => b.toNat % 16
  | none => n

/-- The LINE_LANES byte of the logical lane that pin LLl carries. -/
def llByte (s : State) (l : Nat) : Byte := (s.loader.lineLanes.find? fun b => b.toNat % 16 == l).getD 0

/-- The arrival instant of what came `age` 2^-16 ns ago, in 2^-16/5 ns: a tick of 3.2 ns is 2^20 of these. -/
def arrival (s : State) (age : Nat) : Nat := 2 ^ 20 * s.now - 5 * age

/-! ### Codewords (03 R134-R138) -/

/-- What a received codeword decodes to: its bits in order after correction, how many symbols were corrected, SYNC found, LOH_KIND,
CW_INDEX and LOH_CONVOY; none when it cannot be corrected (03 R135, R136, R142). -/
structure Decoded where
  body  : List Bool
  fixed : Nat
  sync  : Bool
  kind  : Nat
  index : Nat
  conv  : Nat
  deriving DecidableEq, Repr

/-- What corrected symbols decode to; an LOH_KIND other than 0 and 1 makes the codeword uncorrectable (03 R136). -/
def decodedOf : Option (List Sym × Nat) → Option Decoded
  | some (cw, n) =>
    let l := bitsOfSymbols cw
    let loh := bytesOfBits 20 (l.take 160)
    let kind := beAt loh 6 1 % 16
    if kind ≤ 1 then some ⟨l.drop 160, n, beAt loh 0 4 == 0x9D4C52B7, kind, beAt loh 5 2 / 16, beAt loh 7 4⟩ else none
  | none => none

/-- A lane codeword decoded. -/
def decodeCodeword (bits : BitVec 5600) : Option Decoded := decodedOf (rsDecode (symbolsOf bits))

/-- The bits of a received codeword after its LOH, as received. -/
def rawBody (bits : BitVec 5600) : List Bool := (bitsOfSymbols (symbolsOf bits)).drop 160

/-- The bits as they arrived at pin LLl, with its receive polarity taken out (15 R766; log 115, DEDUCED). -/
def rxBits (s : State) (l : Nat) (bits : BitVec 5600) : BitVec 5600 := if (llByte s l).getLsbD 7 then ~~~bits else bits

/-- The place that a codeword's LOH states: a downstream codeword with SYNC and a CW_INDEX of a convoy period (03 R136, R141). -/
def Decoded.place (d : Decoded) : Option Nat :=
  if d.sync && d.kind == 0 && decide (d.index < periodCws) then some (d.conv * periodCws + d.index) else none

/-- The place of a lane's codeword: the one its LOH states, else the one after its last (log 115, DEDUCED). -/
def codewordPlace (x : Lane) (d : Option Decoded) : Option Nat :=
  match d.bind Decoded.place with
  | some p => some p
  | none => x.last.map fun p => nextPlace p.1

/-- The place that the convoy number before a jump gives the codeword of place `p`, for the convoy period in which the jump came: CW_INDEX goes on
across a jump (03 R141, R155). -/
def laneAlt (x : Lane) (p : Option Nat) : Option Nat :=
  match x.last, p with
  | some q, some p =>
    let n := nextPlace q.1
    if p ≠ n ∧ p % periodCws = n % periodCws then some n
    else x.alt.bind fun a => if nextPlace a % periodCws = 0 then none else some (nextPlace a)
  | _, _ => none

/-- The codeword counts towards lock: SYNC found, and decoded (03 R140). -/
def lockGood (d : Option Decoded) : Bool := d.any (·.sync)

/-- A lane's run counts and lock after a codeword that is good or not: lock is gained by 4 good ones in a row at one position and lost by 8
bad ones in a row (03 R140). -/
def laneLock (x : Lane) (ok : Bool) (pos : Nat) : Lane :=
  let good := if ok then (if x.good ≠ 0 ∧ pos = x.pos then x.good + 1 else 1) else 0
  let bad := if ok then 0 else x.bad + 1
  let locked := if x.locked then decide (bad < 8) else decide (4 ≤ good)
  { x with pos := pos, good := good, bad := if locked then bad else 0, locked := locked }

/-- The blocks of a codeword and the descrambler after it; a codeword that failed to decode has erased blocks only (03 R137, R138, R142). -/
def cwBlocks (x : Lane) (bits : BitVec 5600) (d : Option Decoded) : List (Option Bytes) × BitVec 58 :=
  match d with
  | some d => laneBlocks 20 d.body x.descr
  | none =>
    let r := laneBlocks 20 (rawBody bits) x.descr
    (r.1.map fun _ => none, r.2)

/-- A lane after a codeword that arrived at `at_`: lock, descrambler, and its place while it is locked (03 R138, R140, R141). -/
def laneNext (x : Lane) (bits : BitVec 5600) (pos at_ : Nat) (d : Option Decoded) : Lane :=
  let y := laneLock x (lockGood d) pos
  { y with descr := (cwBlocks x bits d).2
           last := if y.locked then (codewordPlace x d).map fun p => (p, at_) else none
           alt := if y.locked then laneAlt x (codewordPlace x d) else none
           zero := if y.locked then x.zero else none }

/-- Codewords decoded with a correction, and those that failed to decode, are counted (03 R197). -/
def fecCount (d : Option Decoded) (s : State) : State :=
  match d with
  | some d => if d.fixed = 0 then s else bump s R.LINE_CNT_FEC_CORR
  | none => bump s R.LINE_CNT_FEC_UNCORR

/-! ### Skew (03 R141) -/

/-- How much later than the one of `r` the codeword of `x` came than its place says, in 2^-16/5 ns: a codeword lasts 50 ns. -/
def placeLag (r x : Nat × Nat) : Int := ((x.2 : Int) - r.2) - 16384000 * placeDiff x.1 r.1

/-- The nearer to 0 of two lags. -/
def nearer (a b : Int) : Int := if b.natAbs < a.natAbs then b else a

/-- How much later than lane `r` lane `x` is, each with place, other place and arrival; where one of them has come to a jump of the convoy
number and the other has not, they are compared in the numbers before it (03 R141, R155). -/
def laneLag (r x : Nat × Option Nat × Nat) : Int :=
  let a := placeLag (r.1, r.2.2) (x.1, x.2.2)
  let b := match r.2.1 with | some p => nearer a (placeLag (p, r.2.2) (x.1, x.2.2)) | none => a
  match x.2.1 with | some p => nearer b (placeLag (r.1, r.2.2) (p, x.2.2)) | none => b

/-- The locked lanes whose place is known. -/
def placedLanes (s : State) : List (Nat × (Nat × Option Nat × Nat)) :=
  pins.filterMap fun l => (lane s l).last.map fun p => (l, p.1, (lane s l).alt, p.2)

/-- The skew of the locked lanes, in 2^-16/5 ns, and the latest of them. -/
def laneSkew (s : State) : Nat × Nat :=
  match placedLanes s with
  | [] => (0, 0)
  | (l, r) :: rest =>
    let lags := rest.map fun e => (e.1, laneLag r e.2)
    let hi := lags.foldl (fun a e => if a.2 < e.2 then e else a) (l, (0 : Int))
    let lo := lags.foldl (fun a e => if e.2 < a then e.2 else a) (0 : Int)
    ((hi.2 - lo).toNat, hi.1)

/-- A skew of 1 ns. -/
abbrev skewNs : Nat := 327680

/-- All 16 lanes are locked, placed and within the skew bound (03 R198). -/
def aligned (s : State) : Bool := (pins.all fun l => (lane s l).last.isSome) && !s.line.skewed

/-- Skew above 200 ns is recorded when it begins (03 R141). -/
def skewCheck (s : State) : State :=
  let k := laneSkew s
  let skewed := decide (200 * skewNs < k.1)
  let s1 := if skewed && !s.line.skewed then fault s .line 3 k.2 (BitVec.ofNat 64 (k.1 / skewNs)) else s
  { s1 with line := { s1.line with skewed := skewed } }

/-! ### The convoy in progress (03 R146, R154) -/

/-- Every lane has received all of the convoy in progress. -/
def periodIn (s : State) : Bool :=
  pins.all fun l => (lane s l).last.any fun p => decide (0 ≤ placeDiff p.1 (s.line.start + (periodCws - 1)))

/-- The convoy period of the convoy in progress is over: every locked lane has received a codeword past it (03 R146). -/
def periodOver (s : State) : Bool :=
  s.line.live && pins.all fun l => (lane s l).last.all fun p => decide ((periodCws : Int) ≤ placeDiff p.1 s.line.start)

/-- Lock or alignment is lost: what is still to come of the convoy in progress is cut off (03 R154). -/
def truncateConvoy (s : State) : State :=
  if s.line.live && !s.line.trunc then
    fault { s with line := { s.line with trunc := true } } .line 5 wholeBlock (s.line.number.setWidth 64)
  else s

/-- The rest of the convoy in progress is discarded. -/
def endConvoy (s : State) : State := { s with line := { s.line with ended := true } }

/-! ### The line receive FIFO (01 R42-R44) -/

/-- The line unit is held: a reassembled frame waits at its front (01 R76). -/
def lineHeld (s : State) : Bool := s.flights.any fun f => f.loc == .front && f.tok.port == 17

/-- A lane that has come to the start of the next convoy, at place `p`, ends an overrun's discard for itself (01 R44). -/
def dropEnds (l p : Nat) (s : State) : State :=
  { s with line := { s.line with
    drops := s.line.drops.map fun d => (d.1, if p % periodCws = 0 ∧ p ≠ d.1 then d.2.filter (· != l) else d.2) } }

/-- Data of place `p` on pin LLl is discarded: an overrun lasts, or the convoy that it belongs to is cut off. -/
def discards (s : State) (l p : Nat) : Bool :=
  (s.line.drops.any fun d => d.2.contains l)
    || (s.line.live && s.line.trunc && decide (p / periodCws = s.line.start / periodCws))

/-- The 640 bytes of a codeword of place `p`, which came `age` ago, enter the 32 KiB of the FIFO while the line unit is held; on a full one they
are discarded with all data up to the next convoy (01 R42, R44; log 116, DEDUCED). -/
def fifoTake (l p age : Nat) (s : State) : State :=
  if !lineHeld s then { s with line := { s.line with fill := 0 } }
  else if discards s l p then s
  else if 32768 < s.line.fill + 640 then
    faultAt { s with line := { s.line with drops := some (p / periodCws * periodCws, pins) } } .line 1 wholeBlock 0 (reachNow s - BitVec.ofNat 64 age)
  else { s with line := { s.line with fill := s.line.fill + 640 } }

/-! ### What the lanes hold -/

/-- The lane holds a codeword of place `p`; what lies two convoy periods back is held no longer. -/
def holdCw (x : Lane) (p : Nat) (h : Held) : Lane :=
  { x with held := (p, h) :: x.held.filter fun e => e.1 != p && decide (placeDiff p e.1 < 2 * periodCws)
           zero := if p % periodCws = 0 then some p else x.zero }

/-- The codeword of place `p` on pin LLl, which came `age` ago, is held for the line unit, erased while the lanes are skewed (03 R141). -/
def storeCw (l p age : Nat) (blocks : List (Option Bytes)) (s : State) : State :=
  if discards s l p then s
  else
    setLane s l (holdCw (lane s l) p
      { at_ := arrival s age, out := outAgo s age, steps := stepsAgo s age
        blocks := if s.line.skewed then blocks.map fun _ => none else blocks })

/-- The sampling instant of codeword 0 on LL0, with the counts at that instant (11 R609, R610, R616). -/
def sampleTc (l p age : Nat) (s : State) : State :=
  if l = 0 ∧ p % periodCws = 0 then
    let a := BitVec.ofNat 88 (age * 2 ^ 24)
    { s with line := { s.line with
      tcAt := arrival s age, tcReach := s.time.reach - a, tcA := (dom s false).cnt - a, tcB := (dom s true).cnt - a } }
  else s

/-- The convoy whose first codeword has place `p` is found: that codeword is held on all 16 lanes, locked and aligned (03 R913). -/
def convoyFound (s : State) (p : Nat) : Bool := aligned s && pins.all fun l => (lane s l).zero == some p

/-- A convoy is found as its last codeword with CW_INDEX 0 comes, and the convoy in progress ends as its period does (03 R146, R913). -/
def periodChange (p : Nat) (s : State) : State :=
  let s1 := if p % periodCws = 0 ∧ convoyFound s p then { s with line := { s.line with found := some p } } else s
  if periodOver s1 then { s1 with line := { s1.line with live := false } } else s1

/-- A codeword of a locked lane goes to the line unit. -/
def takeCw (l p age : Nat) (blocks : List (Option Bytes)) (s : State) : State :=
  periodChange p (sampleTc l p age (storeCw l p age blocks (fifoTake l p age (dropEnds l p s))))

/-! ### CODEWORD -/

/-- A lane's lock, descrambler and place after a codeword, the FEC counters, RLF_LOCK and RLF_SKEW, and a truncation of the convoy in
progress (03 R140-R142, R154). -/
def laneTake (l : Nat) (bits : BitVec 5600) (pos age : Nat) (d : Option Decoded) (s : State) : State :=
  let x := lane s l
  let y := laneNext x bits pos (arrival s age) d
  let s1 := setLane (fecCount d s) l y
  let lost := x.locked && !y.locked
  let s2 := skewCheck (if lost then fault s1 .line 2 l 0 else s1)
  if (lost || (s2.line.skewed && !s.line.skewed)) && !periodIn s then truncateConvoy s2 else s2

/-- A codeword on pin LLl whose first bit came `age` 2^-16 ns ago (03 R134-R142). -/
def codewordEff (l : Nat) (bits : BitVec 5600) (pos age : Nat) (s : State) : State :=
  let b := rxBits s l bits
  let d := decodeCodeword b
  let s1 := laneTake l b pos age d s
  match (lane s1 l).last with
  | some p => takeCw l p.1 age (cwBlocks (lane s l) b d).1 s1
  | none => s1

/-- CODEWORD; nothing is received before the line unit begins to receive convoys (02 R912). -/
def execCodeword (l : Fin 16) (bits : BitVec 5600) (pos age : Nat) (s : State) : Out :=
  viaCore s fun s => if s.mode.lineOn then codewordEff l bits pos age s else s

/-! ### The octets of a convoy body (03 R139, R142, R148) -/

/-- What the line unit gets of a part of the body: nothing yet, nothing any more, or its octets. -/
inductive Got where
  | wait | cut
  | octets (o : Octets)
  deriving DecidableEq, Repr

/-- Two parts that lie one after the other. -/
def Got.append : Got → Got → Got
  | .cut, _ => .cut
  | _, .cut => .cut
  | .wait, _ => .wait
  | _, .wait => .wait
  | .octets a, .octets b => .octets (a ++ b)

/-- 32 erased octets. -/
def erasedBlock : Octets := List.replicate 32 none

/-- The octets of a held block: an erased block and an IDLE block hold no data (03 R137, R142; log 115, DEDUCED). -/
def blockOctets : Option Bytes → Octets
  | some (b :: bs) => (b :: bs).map some
  | _ => erasedBlock

/-- Block `n` of the body of the convoy whose first codeword has place `start`: row n / 16, logical lane n % 16 (03 R139). -/
def bodyBlock (s : State) (start n : Nat) : Got :=
  let c := n / 320
  let x := lane s (llPin s (n % 16))
  if periodCws ≤ c then .octets erasedBlock
  else
    match x.held.find? fun e => e.1 == start + c with
    | some e => .octets (blockOctets (e.2.blocks.getD (n / 16 % 20) none))
    | none =>
      if s.line.trunc || (s.line.drops.any fun d => d.1 == start) then .cut
      else if x.last.any fun p => decide (0 < placeDiff p.1 (start + c)) then .octets erasedBlock
      else .wait

/-- `k` blocks of the body from block `n` on. -/
def bodyBlocks (s : State) (start : Nat) : Nat → Nat → Got
  | 0, _ => .octets []
  | k + 1, n => (bodyBlock s start n).append (bodyBlocks s start k (n + 1))

/-- `len` octets of the body from byte `off` on. -/
def bodyOctets (s : State) (start off len : Nat) : Got :=
  if len = 0 then .octets []
  else
    match bodyBlocks s start ((off + len - 1) / 32 - off / 32 + 1) (off / 32) with
    | .octets o => .octets ((o.drop (off % 32)).take len)
    | g => g

/-- Output time and the count of output steps at instant `x`, from what they were at instant `base`, both in 2^-16/5 ns: the steps between them
count (11 R626, R634). -/
def outFrom (s : State) (base : Nat) (out : Clock) (steps x : Nat) : DWord × Nat :=
  let fwd := s.time.stepLog.filter fun e => decide (base < 2 ^ 20 * e.1) && decide (2 ^ 20 * e.1 ≤ x)
  let back := s.time.stepLog.filter fun e => decide (x < 2 ^ 20 * e.1) && decide (2 ^ 20 * e.1 ≤ base)
  let moved := fwd.foldl (fun a e => a + e.2) (back.foldl (fun a e => a - e.2) 0)
  (ofClock (clockAdd out (((x : Int) - base) * 2 ^ 24 / 5 + moved)), steps + fwd.length - back.length)

/-- The row instant of body byte `off` of the convoy in progress, in output time, and the count of output steps then: the first bit of its
row's block on LL0, from that lane's codeword, or from the sampling instant of the convoy while LL0 has not got so far (11 R633, R634). -/
def rowInstant (s : State) (off : Nat) : DWord × Nat :=
  match (lane s 0).held.find? fun e => e.1 == s.line.start + off / 10240 with
  | some e => outFrom s e.2.at_ e.2.out e.2.steps (e.2.at_ + 5 * rowOffset (off % 10240))
  | none => outFrom s (arrival s 0) (outClock s) s.time.steps (s.line.t0 + 5 * rowOffset off)

/-- LINE_RLF_STATUS (03 R198). -/
def rlfStatus (s : State) : Word :=
  setBit (setBit (bitsOf 16 fun l => (lane s l).locked) 16 (aligned s)) 17 s.line.lock

end Sys2Proof.Machine
end

