-- ==== Sys2Proof/Machine/Convoy.lean ====
section
/-!
DEFINITION. The convoy header (03 R146-R155), the effects that wait for a convoy start (04 R221-R264),
the perfect-match table (03 R168-R172), and what abandons a frame under reassembly (03 R183).
-/
namespace Sys2Proof.Machine

/-! ### Where the terminal stands -/

/-- The mode the line unit judges by: the mode held before a load while MODE reads LOADING (15 R787, 02 R912). -/
def effMode (s : State) : Mode := if s.mode.mode = .loading then s.mode.back else s.mode.mode

/-- The substate the line unit judges by: LISTEN throughout a boot load (02 R912). -/
def effSub (s : State) : Sub :=
  if s.mode.mode = .loading then (if s.mode.boot then .listen else s.mode.backSub) else s.mode.sub

/-- The substate set, in the mode held while MODE reads LOADING. -/
def setSub (s : State) (x : Sub) : State :=
  if s.mode.mode = .loading then { s with mode := { s.mode with backSub := x } }
  else { s with mode := { s.mode with sub := x } }

/-- PROVISION with substate `x`. -/
def inSub (s : State) (x : Sub) : Bool := effMode s == .provision && effSub s == x

/-- LISTEN or SILENT (04 R228, R232). -/
def unregistered (s : State) : Bool := inSub s .listen || inSub s .silent

/-- REGISTERED or RANGING, SERVICE, HOLD or FALLOW (04 R222, R235). -/
def registered (s : State) : Bool :=
  inSub s .registered || inSub s .ranging || effMode s == .service || effMode s == .hold || effMode s == .fallow

/-- The own ID while one is held (04 R233). -/
def ownId (s : State) : Option Nat := if rbit s R.LINE_TID 31 then some (rfld s R.LINE_TID 0 12) else none

/-- A perfect-match entry as matching uses it (03 R169, R172). -/
def pmEntry (s : State) (i : Nat) : Word := look 0xFFF s.line.pmLive i

/-- Entry `i` matches terminal ID `tid` (03 R168-R171). -/
def pmHits (s : State) (tid i : Nat) : Bool :=
  bit (pmEntry s i) 31 && fld (pmEntry s i) 0 12 == tid
    && (i == 0 || (tid != 0 && tid != 0xFFF && ownId s != some tid))

/-- The perfect-match index of a terminal ID, if an entry matches it. -/
def pmIndex (s : State) (tid : Nat) : Option Nat := (List.range 16).find? (pmHits s tid)

/-- A terminal ID is matched: broadcast always is (03 R168, R176). -/
def pmMatches (s : State) (tid : Nat) : Bool := tid == 0 || (pmIndex s tid).isSome

/-- The perfect-match index as an INSTANCE: the whole block where no entry matches (log 32, DEDUCED). -/
def pmInstance (s : State) (tid : Nat) : Nat := (pmIndex s tid).getD wholeBlock

/-- L in 1/16 ns. -/
def logicalReach (s : State) : Nat := rfld s R.LINE_LOGICAL_REACH 0 30

/-- EQD in 1/16 ns. -/
def eqdNow (s : State) : Nat := rfld s R.LINE_EQD 0 30

/-- LINE_EQD.VALID: ranging is complete (04 R216). -/
def ranged (s : State) : Bool := rbit s R.LINE_EQD 31

/-- LINE_RTT: L - EQD while both are valid, else 0 (04 R219). -/
def lineRtt (s : State) : Nat :=
  if rbit s R.LINE_LOGICAL_REACH 31 && ranged s then (logicalReach s - eqdNow s) % 2 ^ 30 else 0

/-- Both VALID bits of LINE_RTT are 1. -/
def rttValid (s : State) : Bool := rbit s R.LINE_LOGICAL_REACH 31 && ranged s

/-! ### Abandoned frames (03 R183) -/

/-- A frame under reassembly is abandoned with a reason code and counted once. -/
def reasmDrop (s : State) (tid flow reason : Nat) : State :=
  fault (bump s R.LINE_CNT_REASM_DROP) .line 10 (pmInstance s tid)
    (BitVec.ofNat 64 (reason * 2 ^ 32 + tid * 2 ^ 16 + flow))

/-- Every open context is abandoned with reason CONVOY_LOST. -/
def abandonAll (s : State) : State :=
  s.reasm.ctxs.foldl (fun s c => reasmDrop s c.tid c.flow 5) { s with reasm := { s.reasm with ctxs := [] } }

/-- The open context of a key. -/
def findCtx (s : State) (tid flow : Nat) : Option Context := s.reasm.ctxs.find? fun c => c.tid == tid && c.flow == flow

/-- The context of a key removed. -/
def closeCtx (s : State) (tid flow : Nat) : State :=
  { s with reasm := { s.reasm with ctxs := s.reasm.ctxs.filter fun c => !(c.tid == tid && c.flow == flow) } }

/-- REASSEMBLY_TIMEOUT: TIMEOUT convoys have passed without a segment of the context (03 R182, R183). -/
def execReassemblyTimeout (tid : BitVec 12) (flow : BitVec 16) (s : State) : Out :=
  viaCore s fun s =>
    match findCtx s tid.toNat flow.toNat with
    | some c =>
      if c.seen + zeroAsOne (rfld s R.LINE_REASM_CTL 16 8) < s.line.convoys
      then reasmDrop (closeCtx s c.tid c.flow) c.tid c.flow 4 else s
    | none => s

/-! ### The effects of a convoy start -/

/-- A waiting effect is due: a convoy has started since it was staged. -/
def isDue {α : Type} (s : State) (w : Option (Waiting α)) : Option α :=
  match w with
  | some w => if w.since < s.line.convoys then some w.val else none
  | none => none

/-- Entry into SERVICE is requested when ranging completes with AUTO_SERVICE = 1 (04 R237, 02 R90). -/
def autoService (s : State) : State :=
  if rbit s R.GLOBAL_MODE_CTL 17 && s.mode.mode == .provision && (s.mode.sub == .registered || s.mode.sub == .ranging)
      && s.mode.request.isNone
  then { s with mode := { s.mode with request := some .service, auto := true } } else s

/-- A due ROUTE_PARAMS loads L and P (04 R221). -/
def loadRoute (s : State) : State :=
  match isDue s s.line.route with
  | some (l, p) =>
    let change := rbit s R.LINE_LOGICAL_REACH 31 && logicalReach s != l.toNat
    let s1 := { s with line := { s.line with route := none } }
    let s2 := wr (wr s1 R.LINE_LOGICAL_REACH (setBit (l.setWidth 32) 31 true)) R.LINE_BURST_P p
    if change then event s2 R.LINE_RANGE_EVENT 4 else s2
  | none => s

/-- A due ASSIGN_EQD is checked against L and loads EQD, or is discarded as EQD_BAD (04 R223, R237). -/
def loadEqd (s : State) : State :=
  match isDue s s.line.eqd with
  | some (e, r) =>
    let s1 := { s with line := { s.line with eqd := none } }
    if logicalReach s < e.toNat then
      fault s1 .line 13 wholeBlock (BitVec.ofNat 64 (e.toNat * 2 ^ 32 + logicalReach s))
    else
      let s2 := wr s1 R.LINE_EQD (setBit (setBit (e.setWidth 32) 30 true) 31 r)
      if r then autoService (event s2 R.LINE_RANGE_EVENT 1) else s2
  | none => s

/-- LINE_EQD.VALID and LOADED clear. -/
def clearEqd (s : State) : State := wr s R.LINE_EQD (rd s R.LINE_EQD &&& 0x3FFFFFFF)

/-- The EQD in force against a new L (04 R916). -/
def checkEqd (old s : State) : State :=
  if (isDue old old.line.route).isSome && rbit s R.LINE_EQD 30 && decide (logicalReach s < eqdNow s) then
    fault (clearEqd s) .line 13 wholeBlock (BitVec.ofNat 64 (eqdNow s * 2 ^ 32 + logicalReach s))
  else s

/-- The change of LINE_RTT from `old` to `s` is reported when it was valid before and after; beyond the threshold it is an
RTT step (04 R248-R250). -/
def reportStep (old s : State) : State :=
  if rttValid old && rttValid s && (logicalReach old != logicalReach s || eqdNow old != eqdNow s) then
    let d : Int := (lineRtt s : Int) - lineRtt old
    let s1 := wr s R.LINE_RTT_STEP (BitVec.ofInt 32 d)
    if 16 * rfld s R.LINE_STEP_THRESH 0 16 < d.natAbs then rttStepServos (event s1 R.LINE_RANGE_EVENT 2) else s1
  else s

/-- The ROUTE_PARAMS and ASSIGN_EQD due at this convoy start take effect, with one report of the step (04 R221-R223, R248,
R916). -/
def rangeEffects (s : State) : State := reportStep s (checkEqd s (loadEqd (loadRoute s)))

/-- ROUTE_PARAMS_TAKE_EFFECT: a waiting L and P take effect, with the EQD that is due at the same start. -/
def execRouteParamsTakeEffect (s : State) : Out :=
  viaCore s fun s => if (isDue s s.line.route).isSome then rangeEffects s else s

/-- EQD_LOAD: a waiting EQD loads, after the L that is due at the same start. -/
def execEqdLoad (s : State) : Out :=
  viaCore s fun s => if (isDue s s.line.eqd).isSome then rangeEffects s else s

/-- Perfect-match entry 0, as read and as matched (03 R170). -/
def setPm0 (s : State) (v : Word) : State :=
  let s1 := wr s (R.LINE_PM 0) v
  { s1 with line := { s1.line with pmLive := put 0xFFF s1.line.pmLive 0 v } }

/-- Every key slot emptied (04 R257). -/
def emptySlots (s : State) : State :=
  { s with keys := { s.keys with down := [], up := [], upSlot := 0, waiting := [], emptyAt := none } }

/-- An assigned ID becomes the own ID; the EQD is invalid and the key slots are empty (04 R232, R244). -/
def assignEffect (tid : Nat) (s : State) : State :=
  let v := BitVec.ofNat 32 tid ||| oneHot 31
  let s1 := emptySlots (clearEqd (setPm0 (wr s R.LINE_TID v) v))
  let s2 := setSub { s1 with line := { s1.line with seq := some 0, wait := none, skip := 0 } } .registered
  event s2 R.LINE_RANGE_EVENT 0

/-- The last steps of an install or a retire of a slot (04 R261, R264, R266). -/
def keyEffect (s : State) (w : KeyWait) : State :=
  let k := s.keys
  let up := w.slot / 4 = 0
  { s with keys := { k with
    down := put none k.down w.slot w.key
    up := match w.up with
      | some u => if up then put none k.up (w.slot % 4) u else k.up
      | none => k.up
    upSlot := if up && w.key.isNone && k.upSlot == w.slot % 4 then 0 else k.upSlot } }

/-- KEY_INSTALL: the installs and retires due at this convoy start take effect in the order staged (04 R264). -/
def execKeyInstall (s : State) : Out :=
  viaCore s fun s =>
    let (now, later) := s.keys.waiting.partition fun w => w.since < s.line.convoys
    now.foldl keyEffect { s with keys := { s.keys with waiting := later } }

/-- KEY_SLOTS_EMPTIED: the convoy after entry to SILENT or LISTEN has started (04 R257). -/
def execKeySlotsEmptied (s : State) : Out :=
  viaCore s fun s =>
    match s.keys.emptyAt with
    | some n => if n < s.line.convoys then emptySlots s else s
    | none => s

/-! ### The convoy header (03 R149-R155, 11 R609-R616) -/

/-- The header check over its fold tag and bytes 0 to 31 (03 R144). -/
def headerCheck (b : Bytes) : Word := crc32c ([0x44#8, 0x43#8, 0#8, 0#8] ++ slice b 0 4 ++ slice b 0 32)

/-- The header is accepted (03 R150); the map and the messages always end within the body, whatever MAP_COUNT and HEM_COUNT. -/
def headerAccepted (o : Octets) : Option Bytes :=
  if o.length < 36 then none
  else
    match whole (o.take 36) with
    | some b => if beAt b 32 4 = (headerCheck b).toNat ∧ beAt b 28 2 ≤ 8192 then some b else none
    | none => none

/-- The time since the sampling instant of the convoy, in 2^-40 ns. -/
def sinceTc (s : State) : Clock := BitVec.ofNat 88 ((arrival s 0 - s.line.tcAt) * 2 ^ 24 / 5)

/-- The reach counter takes the convoy's reach time: set so that it read REACH_TIME at the sampling instant, or moved by the difference
(11 R610-R613). -/
def reachConvoy (rt : DWord) (s : State) : State :=
  if s.time.reachSet then
    let rho := clockDiff (toClock rt) s.line.tcReach
    let near := decide (10 * mag rho ≤ 2 ^ 40)
    let s1 := draw1 { s with time := { s.time with
      reach := clockAdd s.time.reach rho, flock := if near then s.time.flock + 1 else 0 } }
    let s2 := wr (wr64 s1 R.TIME_REACH_INCR ((Config.reachIncr s.free).setWidth 64)) R.TIME_REACH_RESID (sixteenths rho)
    if nsUnits 1000 < mag rho then event s2 R.TIME_EVENT 0 else s2
  else { s with time := { s.time with reach := toClock rt + sinceTc s, reachSet := true } }

/-- Domain `d` takes its measurement from an accepted header, if the conditions of 11 R616 hold, with its count at the sampling instant;
LINE_RTT is the one in force at this convoy's start. -/
def measureConvoy (d : Bool) (valid : Bool) (t : DWord) (s : State) : State :=
  let rtt := lineRtt (rangeEffects s)
  if hasDomain s d && valid && (dom s d).st != .off && rtt != 0 then
    let dd : Int := ((rtt : Int) + (rd s (R.TIME_ASYM (b2n d))).toInt) * 2 ^ 35
    measure s d (clockDiff (clockAdd (toClock t) dd) (if d then s.line.tcB else s.line.tcA))
  else s

/-- The convoy period that begins at place `p` is the one in progress: what waits for its start is due, the perfect-match table as written
takes effect (03 R172), and what the lanes hold of the period before is done with. -/
def convoyStart (p : Nat) (s : State) : State :=
  { s with line := { s.line with
    convoys := s.line.convoys + 1
    lanes := s.line.lanes.map fun e => (e.1, { e.2 with held := e.2.held.filter fun h => decide (0 ≤ placeDiff h.1 p) })
    found := none, drops := s.line.drops.filter fun d => d.1 == p, t0 := s.line.tcAt, trunc := false, ended := false, live := false, start := p
    pmLive := pins.foldl (fun m i => put 0xFFF m i (rd s (R.LINE_PM i))) [] } }

/-- A found convoy whose header is not accepted (03 R153). -/
def convoyBad (o : Octets) (s : State) : State :=
  let s1 := fault (bump (abandonAll s) R.LINE_CNT_CONVOY_BAD) .line 4 wholeBlock (BitVec.ofNat 64 (beAt (blanked o) 0 4))
  { s1 with line := { s1.line with lock := false } }

/-- A gap in the convoy numbers (03 R155); the first accepted number after a reset follows none and opens no gap (log 117, DEDUCED). -/
def convoyGap (number : Word) (s : State) : State :=
  let want := rd s R.LINE_CONVOY_LAST + 1
  if s.line.any && want != number then
    fault (bump (abandonAll s) R.LINE_CNT_CONVOY_GAP) .line 6 wholeBlock (want ++ number)
  else s

/-- The layout that an accepted header states (03 R148, R149). -/
def convoyLayout (b : Bytes) (s : State) : State :=
  { s with line := { s.line with
    live := true, lock := true, any := true, number := BitVec.ofNat 32 (beAt b 0 4), reach := BitVec.ofNat 64 (beAt b 4 8)
    domA := BitVec.ofNat 64 (beAt b 12 8), domB := BitVec.ofNat 64 (beAt b 20 8)
    maps := beAt b 28 2, mapsDone := 0, hems := beAt b 30 1, hemsDone := 0, cursor := 48 + 16 * beAt b 28 2 } }

/-- An accepted header (03 R150, R155, 11 R610, R616). -/
def convoyGood (b : Bytes) (s : State) : State :=
  let number := BitVec.ofNat 32 (beAt b 0 4)
  let s1 := wr (bump (convoyGap number s) R.LINE_CNT_CONVOY) R.LINE_CONVOY_LAST number
  let s2 := reachConvoy (BitVec.ofNat 64 (beAt b 4 8)) s1
  let s3 := measureConvoy true ((b.getD 31 0).getLsbD 6) (BitVec.ofNat 64 (beAt b 20 8))
    (measureConvoy false ((b.getD 31 0).getLsbD 7) (BitVec.ofNat 64 (beAt b 12 8)) s2)
  let s4 := convoyLayout b s3
  if aligned s4 || periodIn s4 then s4 else truncateConvoy s4

/-- A found convoy's header, bytes 0 to 35 of its body, is judged (03 R148, R150, R153). -/
def convoyHeaderEff (s : State) : State :=
  match s.line.found with
  | none => s
  | some p =>
    let s1 := convoyStart p s
    match bodyOctets s1 p 0 36 with
    | .octets o =>
      match headerAccepted o with
      | some b => convoyGood b s1
      | none => convoyBad o s1
    | _ => convoyBad [] s1

/-- CONVOY_HEADER. -/
def execConvoyHeader (s : State) : Out := viaCore s convoyHeaderEff

/-- A write to LINE_PM_n is readable at once and matches from the next convoy start; entry 0 is read-only (03 R169, R172). -/
def linePmEff (n : Nat) (v : Word) (s : State) : State :=
  if n = 0 then s else wrField s (R.LINE_PM n) v 0x80000FFF 0

/-- LINE_PM. -/
def execLinePm (n : Fin 16) (v : Word) (s : State) : Out := viaBar s (linePmEff n v)

end Sys2Proof.Machine
end

