-- ==== Sys2Proof/Machine/Counters.lean ====
section
/-!
DEFINITION. Counting (chapter 14): cell event counters, tract counters with their chaining, access counters, and the port
statistics of chapter 09. Every block counts through these.
-/
namespace Sys2Proof.Machine

/-- A counter of chapter 14 wrapped (14 R723). -/
def wrapped (s : State) : State := event s R.PERF_EVENT 2

/-- A 48-bit counter pair counts `n`; `ovf` is its overflow register and bit (14 R723). -/
def inc48 (s : State) (a n ovf k : Nat) : State :=
  let v := (rd64 s a).toNat + n
  let s1 := wr64 s a (BitVec.ofNat 64 (v % 2 ^ 48))
  if v < 2 ^ 48 then s1 else wrapped (event s1 ovf k)

/-! ### Cell event counters (14 R724, R725) -/

/-- The cell events of 14 R725 by code. -/
inductive CellEv where
  | admitted | refuse | pass | headers | exc | recirc | toQueue | toEgress | discard | busy | outWait | empty | eccCorr
  deriving DecidableEq, Repr

/-- The event's code. -/
def CellEv.code : CellEv → Nat
  | .admitted => 1 | .refuse => 2 | .pass => 3 | .headers => 4 | .exc => 5 | .recirc => 6 | .toQueue => 7 | .toEgress => 8
  | .discard => 9 | .busy => 10 | .outWait => 11 | .empty => 12 | .eccCorr => 13

/-- Counter `k` of cell `c` of tract `t` counts `n`; a wrap is kept for the next snapshot as well (14 R730). -/
def cellInc (t c n : Nat) (s : State) (k : Nat) : State :=
  let s1 := inc48 s (R.TRACT_CELL_CNT t c k) n (R.TRACT_CELL_CNT_OVF t c) k
  if (rd64 s (R.TRACT_CELL_CNT t c k)).toNat + n < 2 ^ 48 then s1
  else { s1 with perf := { s1.perf with fresh := put 0 s1.perf.fresh (18 * t + c) (look 0 s1.perf.fresh (18 * t + c) ||| 2 ^ k) } }

/-- `n` events of one kind in cell `c` of tract `t`. -/
def cellEvent (s : State) (t c : Nat) (ev : CellEv) (n : Nat) : State :=
  ((List.range 16).filter fun k => rfld s (R.TRACT_CELL_EVSEL t c k) 0 8 == ev.code).foldl (cellInc t c n) s

/-! ### Tract counters (14 R733-R737) -/

/-- The tract events of 14 R734 by code. -/
inductive TractEv where
  | enq | enqUnits | qDrop | remove | commit | fallback | held | abort | spill | draw | xbarHold | fenceDrop | pressure | railLow
  deriving DecidableEq, Repr

/-- The event's code. -/
def TractEv.code : TractEv → Nat
  | .enq => 1 | .enqUnits => 2 | .qDrop => 3 | .remove => 4 | .commit => 5 | .fallback => 6 | .held => 7 | .abort => 8
  | .spill => 9 | .draw => 10 | .xbarHold => 11 | .fenceDrop => 12 | .pressure => 13 | .railLow => 14

/-- Counter `k` of tract `t` counts `n` and sets its overflow bit at a wrap (14 R723). -/
def tractCount1 (s : State) (t k n : Nat) : State :=
  let v := (rd s (R.TRACT_PERF_CNT t k)).toNat + n
  let s1 := wr s (R.TRACT_PERF_CNT t k) (BitVec.ofNat 32 v)
  if v < 2 ^ 32 then s1 else wrapped (event s1 (R.TRACT_PERF_OVF t) k)

/-- Counter `k` is the low half of a chain (14 R735). -/
def chainsUp (s : State) (t k : Nat) : Bool := k % 2 == 0 && rbit s (R.TRACT_PERF_SEL t k) 31

/-- What the low half of a chain held just before an increment that comes now: a preset of the same instant has not been before it (14 R736). -/
def heldBefore (s : State) (t k : Nat) : Word :=
  match look none s.perf.presets (32 * t + k) with
  | some (at_, old) => if at_ = s.now then old else rd s (R.TRACT_PERF_CNT t k)
  | none => rd s (R.TRACT_PERF_CNT t k)

/-- Counter `k` of tract `t` counts `n`, its carries going to the counter above when it is chained (14 R735, R736). -/
def tractInc (t n : Nat) (s : State) (k : Nat) : State :=
  if chainsUp s t k then
    let s1 := wr s (R.TRACT_PERF_CNT t k) (rd s (R.TRACT_PERF_CNT t k) + BitVec.ofNat 32 n)
    let s2 := { s1 with perf := { s1.perf with presets := put none s1.perf.presets (32 * t + k) none } }
    let carries := ((heldBefore s t k).toNat + n) / 2 ^ 32
    if carries = 0 then s2 else tractCount1 s2 t (k + 1) carries
  else tractCount1 s t k n

/-- Counter `k` counts event `ev`: it selects it, and is not the high half of a chain (14 R735). -/
def tractSelects (s : State) (t : Nat) (ev : TractEv) (k : Nat) : Bool :=
  rfld s (R.TRACT_PERF_SEL t k) 0 8 == ev.code && !(k % 2 == 1 && chainsUp s t (k - 1))

/-- `n` events of one kind in tract `t`. -/
def tractEvent (s : State) (t : Nat) (ev : TractEv) (n : Nat) : State :=
  ((List.range 32).filter (tractSelects s t ev)).foldl (tractInc t n) s

/-! ### Access counters (14 R750, R751) -/

/-- An access to the cistern or the reservoir as the filter of 14 R751 sees it. -/
structure Access where
  res    : Bool := false
  write  : Bool := false
  addr   : Nat
  bytes  : Nat
  master : Nat := 0
  id     : Nat := 0
  cls    : Option Nat := none
  priv   : Bool := false
  deriving DecidableEq, Repr

/-- What EVENT `e` counts of the access: its bytes, one, or nothing. -/
def Access.weight (a : Access) (e : Nat) : Nat :=
  if e = 0 then (if a.res || a.write then 0 else a.bytes)
  else if e = 1 then (if a.res || !a.write then 0 else a.bytes)
  else if e = 2 then (if a.res && !a.write then a.bytes else 0)
  else if e = 3 then (if a.res && a.write then a.bytes else 0)
  else if e = 4 then b2n (!a.res)
  else if e = 5 then b2n a.res
  else 0

/-- The access passes MASTER and ID. -/
def Access.masterOk (a : Access) (m id : Nat) : Bool :=
  m == 0 || (m == 3 && a.master == 3) || ((m == 1 || m == 2 || m == 4) && a.master == m && (id == 0xFF || id == a.id))

/-- The access passes CLASS: one made for no frame matches only 0xFF. -/
def Access.classOk (a : Access) (c : Nat) : Bool :=
  match a.cls with
  | some p => c.testBit p
  | none => c == 0xFF

/-- The access passes PRIV. -/
def Access.privOk (a : Access) (p : Nat) : Bool := p == 0 || p == 3 || (p == 1) == a.priv

/-- Access counter `k` counts the access. -/
def accessInc (a : Access) (s : State) (k : Nat) : State :=
  let c := rd s (R.PERF_ACC_CTL k)
  let w := a.weight (fld c 24 3)
  if bit c 31 && w != 0 && decide ((rd64 s (R.PERF_ACC_START k)).toNat ≤ a.addr) && decide (a.addr < (rd64 s (R.PERF_ACC_END k)).toNat)
      && a.masterOk (fld c 16 3) (fld c 8 8) && a.classOk (fld c 0 8) && a.privOk (fld c 20 2) then
    let v := (rd64 s (R.PERF_ACC_CNT k)).toNat + w
    let s1 := wr64 s (R.PERF_ACC_CNT k) (BitVec.ofNat 64 (v % 2 ^ 48))
    if v < 2 ^ 48 then s1 else wrapped s1
  else s

/-- Every access counter sees the access. -/
def access (s : State) (a : Access) : State := (List.range 8).foldl (accessInc a) s

/-- Class port `p` is privileged (07 R427). -/
def privPort (s : State) (p : Nat) : Bool :=
  (List.range 4).any fun n => rbit s (R.CLASS_PRIV n) 31 && rfld s (R.CLASS_PRIV n) 16 5 == p

/-! ### Port statistics (09 R529) -/

/-- Statistic `k` of port `p` counts `n` more and holds at all ones. -/
def portStat (s : State) (p k n : Nat) : State :=
  wr64 s (R.CP_STAT p k) (BitVec.ofNat 64 (Nat.min ((rd64 s (R.CP_STAT p k)).toNat + n) (2 ^ 64 - 1)))

end Sys2Proof.Machine
end

