-- ==== Sys2Proof/Machine/Cistern.lean ====
section
/-!
DEFINITION. The cistern (08 R440-R449, R920): its bytes and poisoned words, granules and the areas they return to, and reads
and writes by frames, each an access of one granule at most (log 33, DEDUCED).
-/
namespace Sys2Proof.Machine

/-- Bytes of a granule (08 R440). -/
abbrev granuleSize : Nat := 256
/-- Granules of the cistern. -/
abbrev granules : Nat := 786432
/-- Bytes of the cistern. -/
abbrev cisternSize : Nat := 201326592

/-! ### Memory -/

/-- What a byte of the cistern that is not listed holds (02 R105 step 3). -/
abbrev memDefault : Byte := 0

/-- The byte at `a`. -/
def memRead (m : List Host.Cell) (a : Nat) : Byte := look memDefault m a

/-- The memory with byte `a` holding `v`. -/
def memWrite (m : List Host.Cell) (a : Nat) (v : Byte) : List Host.Cell := put memDefault m a v

/-- The memory with `b` from `a` on. -/
def memWriteAll (m : List Host.Cell) (a : Nat) : Bytes → List Host.Cell
  | [] => m
  | v :: b => memWriteAll (memWrite m a v) (a + 1) b

/-- The memory is in canonical form: addresses rise, and no entry equals what an unlisted address holds. -/
abbrev Memory.wf (m : List Host.Cell) : Bool := Sparse.wf (fun _ => memDefault) m

/-- The cistern's byte at `a`. -/
def cisByte (s : State) (a : Nat) : Byte := memRead s.cistern.mem a

/-- `n` bytes from `a`. -/
def cisBytes (s : State) (a n : Nat) : Bytes := (List.range n).map fun i => cisByte s (a + i)

/-- The 64-bit words that `n` bytes from `a` touch. -/
def wordsOf (a n : Nat) : List Nat := if n = 0 then [] else (List.range ((a + n - 1) / 8 + 1 - a / 8)).map (a / 8 + ·)

/-- A word that the bytes touch is uncorrectable (08 R443). -/
def cisBad (s : State) (a n : Nat) : Bool := (wordsOf a n).any s.cistern.poison.contains

/-- The bytes are written; the words they touch are good again (08 R443). -/
def cisWrite (s : State) (a : Nat) (b : Bytes) : State :=
  { s with cistern := { s.cistern with
    mem := memWriteAll s.cistern.mem a b
    poison := s.cistern.poison.filter fun w => !(wordsOf a b.length).contains w } }

/-- Words become uncorrectable, and reads are corrected (08 R442, R443). -/
def upset (s : State) (u : Upset) : State :=
  let s1 := { s with cistern := { s.cistern with poison := u.bad.foldl (fun l w => setIns w l) s.cistern.poison } }
  bumpBy s1 R.BUFFER_CIS_ECC_CORR u.corr

/-- A read met an uncorrectable word of granule `g` (08 R443). -/
def cisEcc (s : State) (g : Nat) : State :=
  fault (bump s R.BUFFER_CIS_ECC_UNCORR) .buffer 1 wholeBlock (BitVec.ofNat 64 g)

/-- A read of `n` bytes at `a`, counted as an access like `acc`: the state, and whether the data is good. -/
def cisRead (s : State) (acc : Access) (a n : Nat) : State × Bool :=
  let s1 := access s { acc with addr := a, bytes := n, write := false, res := false }
  match (wordsOf a n).find? s.cistern.poison.contains with
  | some w => (cisEcc s1 (w * 8 / granuleSize), false)
  | none => (s1, true)

/-! ### Runs of bytes in granules -/

/-- The pieces of `len` bytes from byte `skip` of the granules: address and length each, one per granule. -/
def runs : List Nat → Nat → Nat → List (Nat × Nat)
  | [], _, _ => []
  | g :: gs, skip, len =>
    if len = 0 then []
    else if granuleSize ≤ skip then runs gs (skip - granuleSize) len
    else
      let n := Nat.min len (granuleSize - skip)
      (g * granuleSize + skip, n) :: runs gs 0 (len - n)

/-- The bytes of the pieces. -/
def runBytes (s : State) (l : List (Nat × Nat)) : Bytes := l.flatMap fun r => cisBytes s r.1 r.2

/-- The pieces are read: the state, and the first granule whose data is not good. -/
def readRuns (acc : Access) : State → List (Nat × Nat) → State × Option Nat
  | s, [] => (s, none)
  | s, r :: l =>
    let (s1, ok) := cisRead s acc r.1 r.2
    let (s2, bad) := readRuns acc s1 l
    (s2, if ok then bad else some (r.1 / granuleSize))

/-- The bytes are written over the pieces. -/
def writeRuns (acc : Access) : State → List (Nat × Nat) → Bytes → State
  | s, [], _ => s
  | s, r :: l, b =>
    let s1 := access s { acc with addr := r.1, bytes := r.2, write := true, res := false }
    writeRuns acc (cisWrite s1 r.1 (b.take r.2)) l (b.drop r.2)

/-- Bytes of a chunk. -/
def Chunk.len : Chunk → Nat
  | .cis _ _ n => n
  | .res _ _ n => n

/-- The chunk lies in the cistern. -/
def Chunk.inCistern : Chunk → Bool
  | .cis _ _ _ => true
  | .res _ _ _ => false

/-- The pieces of the chunks that lie in the cistern. -/
def chunkRuns (l : List Chunk) : List (Nat × Nat) :=
  l.flatMap fun c => match c with | .cis g k n => runs g k n | .res _ _ _ => []

/-- The granules a chunk holds. -/
def Chunk.granules : Chunk → List Nat
  | .cis g _ _ => g
  | .res _ _ _ => []

/-- The first `n` bytes of a list of chunks, the rest, and the granules that both hold. -/
def splitChunks : List Chunk → Nat → List Chunk × List Chunk × List Nat
  | [], _ => ([], [], [])
  | c :: l, n =>
    if n = 0 then ([], c :: l, [])
    else if c.len ≤ n then
      let (a, b, g) := splitChunks l (n - c.len)
      (c :: a, b, g)
    else
      match c with
      | .cis g k len =>
        let e := k + n
        ([.cis (g.take ((e + 255) / 256)) k n], .cis (g.drop (e / 256)) (e % 256) (len - n) :: l,
          if e % 256 = 0 then [] else (g.drop (e / 256)).take 1)
      | .res p k len => ([.res p k n], .res p (k + n) (len - n) :: l, [])

/-- The bytes of a chunk, wherever they lie. -/
def chunkBytes (s : State) : Chunk → Bytes
  | .cis g k n => runBytes s (runs g k n)
  | .res p k n => slice (look {} s.res.pages p).data k n

/-- The bytes of a list of chunks. -/
def partsBytes (s : State) (l : List Chunk) : Bytes := l.flatMap (chunkBytes s)

/-- Bytes of a chunk from its byte `k` on replaced by `b`, which lies within it. -/
def patchChunk (s : State) (c : Chunk) (k : Nat) (b : Bytes) : State :=
  match c with
  | .cis g sk _ =>
    ((runs g (sk + k) b.length).foldl (fun (x : State × Bytes) r => (cisWrite x.1 r.1 (x.2.take r.2), x.2.drop r.2)) (s, b)).1
  | .res p sk _ =>
    let x := look {} s.res.pages p
    { s with res := { s.res with pages := put {} s.res.pages p { x with data := patch x.data (sk + k) b } } }

/-- Bytes of a list of chunks from byte `i` on replaced by `b`. -/
def patchParts (s : State) : List Chunk → Nat → Bytes → State
  | [], _, _ => s
  | c :: l, i, b =>
    if b.isEmpty then s
    else if c.len ≤ i then patchParts s l (i - c.len) b
    else patchParts (patchChunk s c i (b.take (c.len - i))) l 0 (b.drop (c.len - i))

/-! ### Granules -/

/-- How many holders granule `g` has. -/
def holders (s : State) (g : Nat) : Nat := look 0 s.cistern.refs g

/-- The granules are free to be given: distinct, in the cistern, held by nobody. -/
def canGive (s : State) (l : List Nat) : Bool := decide l.Nodup && l.all fun g => decide (g < granules) && holders s g == 0

/-- Granule `g` gains a holder. -/
def hold (s : State) (g : Nat) : State :=
  { s with cistern := { s.cistern with refs := put 0 s.cistern.refs g (holders s g + 1) } }

/-- Every granule of the list gains a holder. -/
def holdAll (s : State) (l : List Nat) : State := l.foldl hold s

/-- A granule is placed in the first area that is short (08 R920). -/
def toArea (c : Cistern) (reserveSize : Nat) : Cistern :=
  if c.reserve < reserveSize then { c with reserve := c.reserve + 1 }
  else if 0 < c.short then { c with pool := c.pool + 1, short := c.short - 1 }
  else { c with gen := c.gen + 1 }

/-- `n` granules are placed, one after the other (08 R920). -/
def toAreas (n : Nat) (s : State) : State :=
  { s with cistern := (List.range n).foldl (fun c _ => toArea c (rfld s R.BUFFER_CIS_RESERVE 0 20)) s.cistern }

/-- A granule returns to the reassembly pool, also where the pool is full again (07 R385, R386; log 45, DEDUCED). -/
def toPool (c : Cistern) : Cistern := { c with pool := c.pool + 1, short := c.short - 1 }

/-- `n` granules return to the reassembly pool. -/
def toPools (n : Nat) (s : State) : State := { s with cistern := (List.range n).foldl (fun c _ => toPool c) s.cistern }

/-- `n` granules of a credit return to the free count, to the first area that is short like any other (08 R446-R448, R920). -/
def returnCredit (n : Nat) (s : State) : State :=
  toAreas n { s with cistern := { s.cistern with gen := s.cistern.gen - n, credits := s.cistern.credits - n } }

/-- A holder lets go of granule `g`: whether it was the last. -/
def unhold (s : State) (g : Nat) : State × Bool :=
  let n := holders s g
  if n = 0 then (s, false) else ({ s with cistern := { s.cistern with refs := put 0 s.cistern.refs g (n - 1) } }, n == 1)

/-- A holder lets go of granule `g`; with the last one it returns to the free count. -/
def letGo (s : State) (g : Nat) : State :=
  let (s1, last) := unhold s g
  if last then toAreas 1 s1 else s1

/-- A holder lets go of granule `g`; with the last one it returns to the reassembly pool. -/
def letGoPool (s : State) (g : Nat) : State :=
  let (s1, last) := unhold s g
  if last then toPools 1 s1 else s1

/-- Granules are let go. -/
def letGoAll (s : State) (l : List Nat) : State := l.foldl letGo s

/-- The chunks' granules are let go. -/
def freeChunks (s : State) (l : List Chunk) : State := letGoAll s (l.flatMap Chunk.granules)

/-- Free granules of the general area, less every credit outstanding (08 R447). -/
def cisFree (s : State) : Nat := s.cistern.gen - s.cistern.credits

/-- BUFFER_CIS_QUEUED: the granules that hold queued upstream data. -/
def queuedGranules (s : State) : List Nat :=
  s.queues.foldl (fun l e => (e.2.frames.flatMap fun f => f.parts.flatMap Chunk.granules).foldl (fun l g => setIns g l) l) []

end Sys2Proof.Machine
end

