-- ==== Sys2Proof/Machine/Queue.lean ====
section
/-!
DEFINITION. Upstream queues (chapter 05): topology, occupancy and pressure, enqueue, the order in which frames are offered,
reports, and the return of what a burst did not carry (06 R345). Row QUEUE_Q_WM.
-/
namespace Sys2Proof.Machine

/-! ### Topology (05 R270-R274) -/

/-- Queue `q`. -/
def queue (s : State) (q : Nat) : Queue := look {} s.queues q

/-- Queue `q` set. -/
def setQueue (s : State) (q : Nat) (x : Queue) : State := { s with queues := put {} s.queues q x }

/-- Queue `q` is part of the topology. -/
def qValid (s : State) (q : Nat) : Bool := rbit s (R.QUEUE_Q_MAP q) 31
/-- The AID of queue `q`. -/
def qAid (s : State) (q : Nat) : Nat := rfld s (R.QUEUE_Q_MAP q) 0 10
/-- The priority of queue `q`. -/
def qPrio (s : State) (q : Nat) : Nat := rfld s (R.QUEUE_Q_MAP q) 10 3
/-- The member number of queue `q`. -/
def qMember (s : State) (q : Nat) : Nat := rfld s (R.QUEUE_Q_MAP q) 13 3
/-- The tract of queue `q`. -/
def qTract (q : Nat) : Nat := q / 4096

/-- The queue numbers whose map register holds anything, rising. -/
def mappedQueues (s : State) : List Nat :=
  (s.regs.filter fun e => isAt 0x1100000 [(32768, 0x10)] e.1).map fun e => (e.1 - 0x1100000) / 0x10

/-- The valid queues of an AID. -/
def aidQueues (s : State) (aid : Nat) : List Nat := (mappedQueues s).filter fun q => qValid s q && qAid s q == aid

/-- The valid queues of priority `p` of an AID. -/
def prioQueues (s : State) (aid p : Nat) : List Nat := (aidQueues s aid).filter fun q => qPrio s q == p

/-- The tract that owns an AID (05 R273). -/
def aidTract (s : State) (aid : Nat) : Nat := rfld s (R.QUEUE_AID aid) 24 3

/-- The image defines the AID. -/
def aidDefined (s : State) (aid : Nat) : Bool := rbit s (R.QUEUE_AID aid) 31

/-! ### Occupancy and pressure (05 R275, R288-R290) -/

/-- Frame bytes not yet carried. -/
def QFrame.remain (f : QFrame) : Nat := f.stop - f.carried

/-- Bytes of a list of frames. -/
def frameBytes (l : List QFrame) : Nat := l.foldl (fun n f => n + f.remain) 0

/-- The occupancy of queue `q`. -/
def occupancy (s : State) (q : Nat) : Nat := frameBytes (queue s q).frames

/-- QUEUE_Q_OCC. -/
def occView (s : State) (q : Nat) : Word := BitVec.ofNat 32 ((occupancy s q + 63) / 64)

/-- Whether a queue of this occupancy is under pressure, given its watermarks and whether it was (log 34, DEDUCED). -/
def pressureNow (wm : Word) (occ : Nat) (was : Bool) : Bool :=
  let xoff := fld wm 16 16
  let xon := Nat.min (fld wm 0 16) xoff
  if xoff = 0 then false
  else if xoff * 65536 ≤ occ then true
  else if occ ≤ xon * 65536 then false
  else was

/-- The pressure of queue `q` is evaluated. -/
def evalPressure (s : State) (q : Nat) : State :=
  let x := queue s q
  setQueue s q { x with press := pressureNow (rd s (R.QUEUE_Q_WM q)) (frameBytes x.frames) x.press }

/-- Queue `q` presses priority `k` of client port `p` (05 R289). -/
def presses (s : State) (p k q : Nat) : Bool :=
  let m := rd s (R.QUEUE_Q_MAP q)
  bit m 31 && bit m 30 && fld m 26 4 == p && fld m 23 3 == k && (queue s q).press

/-- QUEUE_FC_STATE: the pressured priorities of client port `p` (05 R290). -/
def pressured (s : State) (p : Nat) : Nat :=
  let qs := (s.queues.filter fun e => e.2.press).map (·.1)
  (bitsOf 8 fun k => qs.any (presses s p k)).toNat

/-- The watermarks of queue `q` take `v` and its pressure is evaluated. -/
def queueWmEff (q : Nat) (v : Word) (s : State) : State :=
  if hasTract s (qTract q) then evalPressure (wr s (R.QUEUE_Q_WM q) v) q else s

/-- QUEUE_Q_WM. -/
def execQueueQWm (q : Fin 32768) (v : Word) (s : State) : Out := viaBar s (queueWmEff q v)

/-! ### Enqueue (05 R278) -/

/-- The source field of a descriptor token as a number (log 35, DESIGN CHOICE). -/
def Source.code : Source → Nat
  | .client p => p
  | .line => 17
  | .ring r => 256 + r

/-- The frame would take queue `q` above its limit (05 R278 step 2). -/
def overLimit (s : State) (q len : Nat) : Bool :=
  let l := rfld s (R.QUEUE_Q_LIMIT q) 0 16
  l != 0 && decide (l * 0x400000 < occupancy s q + len)

/-- The queue manager drops the frame under step 1. -/
def dropInvalid (q : Nat) (f : QFrame) (s : State) : State :=
  let s1 := tractEvent (bump (freeChunks s f.parts) R.QUEUE_CNT_INVALID) (qTract q) .qDrop 1
  fault s1 (.tract (qTract q)) 8 (q % 4096) (BitVec.ofNat 64 f.tok.src.code)

/-- The queue manager drops the frame under step 2. -/
def dropLimit (q : Nat) (f : QFrame) (s : State) : State :=
  tractEvent (bump (freeChunks s f.parts) (R.QUEUE_Q_DROP q)) (qTract q) .qDrop 1

/-- The queue manager links the frame at the tail under step 3. -/
def linkFrame (q : Nat) (f : QFrame) (s : State) : State :=
  let x := queue s q
  let g := { f with tok := { f.tok with uid := s.serial } }
  let s1 := setQueue { s with serial := s.serial + 1 } q { x with frames := x.frames ++ [g] }
  let s2 := tractEvent (tractEvent s1 (qTract q) .enq 1) (qTract q) .enqUnits ((f.remain + 63) / 64)
  evalPressure s2 q

/-- The queue manager handles a descriptor token (05 R278). -/
def enqueueFrame (q : Nat) (f : QFrame) (s : State) : State :=
  if !qValid s q then dropInvalid q f s
  else if overLimit s q f.remain then dropLimit q f s
  else linkFrame q f s

/-! ### The order of offers (05 R283-R286) -/

/-- The member that supplied the last whole frame of a priority of an AID (05 R284). -/
def robin (s : State) (aid p : Nat) : Nat := look 7 s.robins (aid * 8 + p)

/-- That member set. -/
def setRobin (s : State) (aid p m : Nat) : State := { s with robins := put 7 s.robins (aid * 8 + p) m }

/-- The frame is reserved by the assembly. -/
def isTaken (segs : List Taken) (f : QFrame) : Bool := segs.any fun t => t.uid == f.tok.uid

/-- The oldest frame of queue `q` that the assembly has not reserved. -/
def firstFree (s : State) (segs : List Taken) (q : Nat) : Option QFrame := (queue s q).frames.find? fun f => !isTaken segs f

/-- Members 0 to 7 in round-robin order after member `m`. -/
def membersAfter (m : Nat) : List Nat := (List.range 8).map fun i => (m + 1 + i) % 8

/-- What the members of a priority hold for the assembly, in round-robin order (05 R284). -/
def memberFrames (s : State) (aid : Nat) (segs : List Taken) (p : Nat) : List (Nat × QFrame) :=
  let qs := prioQueues s aid p
  (membersAfter (robin s aid p)).filterMap fun m =>
    qs.findSome? fun q => if qMember s q == m then (firstFree s segs q).map fun f => (q, f) else none

/-- The offer of one priority: a fragment's remainder first, else the next member's frame (05 R284, R285). -/
def offerPrio (s : State) (aid : Nat) (segs : List Taken) (p : Nat) : Option (Nat × QFrame) :=
  let l := memberFrames s aid segs p
  (l.find? fun c => c.2.carried != 0).or l.head?

/-- The frame of an AID next on offer: from the highest priority that holds data. -/
def nextOffer (s : State) (aid : Nat) (segs : List Taken) : Option (Nat × QFrame) :=
  (List.range 8).reverse.findSome? (offerPrio s aid segs)

/-- Every priority of the AID has occupancy 0. -/
def aidEmpty (s : State) (aid : Nat) : Bool := (aidQueues s aid).all fun q => occupancy s q == 0

/-- The reports of an AID (05 R315-R317, 03 R191). -/
def reportsOf (s : State) (aid : Nat) : List Nat :=
  (List.range 8).map fun p =>
    Nat.min 0xFFFFFF ((((prioQueues s aid p).map (occupancy s)).foldl (· + ·) 0 + 4095) / 4096)

/-! ### Return of what was not carried (06 R345) -/

/-- A frame put back in enqueue order; a part joins the rest of its frame. -/
def insertFrame (f : QFrame) : List QFrame → List QFrame
  | [] => [f]
  | g :: l =>
    if f.tok.uid < g.tok.uid then f :: g :: l
    else if f.tok.uid = g.tok.uid then
      { g with carried := Nat.min f.carried g.carried, stop := Nat.max f.stop g.stop
               parts := if f.carried < g.carried then f.parts ++ g.parts else g.parts ++ f.parts } :: l
    else g :: insertFrame f l

/-- A frame a reload has left no place for is discarded (06 R345, 15 R793). -/
def flushFrame (f : QFrame) (s : State) : State := bump (freeChunks s f.parts) R.IMAGE_CNT_FLUSH

/-- A segment's frame returns to its queue, unless a reload has made the queue invalid, or changed the AID or priority of a
remainder. -/
def returnSeg (aid : Nat) (s : State) (g : Seg) : State :=
  if !qValid s g.q || (g.frame.carried != 0 && !(qAid s g.q == aid && qPrio s g.q == g.prio)) then flushFrame g.frame s
  else
    let x := queue s g.q
    evalPressure (setQueue s g.q { x with frames := insertFrame g.frame x.frames }) g.q

/-- A message put back in its order. -/
def insertMsg (m : Msg) : List Msg → List Msg
  | [] => [m]
  | n :: l => if m.id < n.id then m :: n :: l else n :: insertMsg m l

/-- Messages return to the pool. -/
def returnMsgs (s : State) (l : List Msg) : State := { s with msgs := l.foldl (fun p m => insertMsg m p) s.msgs }

/-- The round-robin position of key `k`, which stood at `pos` before assembly `asm` moved it, returns: to where it stood before the earliest
assembly returned, if one that began before `asm` has been returned since `asm` began (06 R345). -/
def restoreRobin (asm k pos : Nat) (s : State) : State :=
  match look none s.marks k with
  | some m =>
    if m.asm < asm ∧ asm < m.made then { s with robins := put 7 s.robins k m.pos }
    else { s with robins := put 7 s.robins k pos, marks := put none s.marks k (some ⟨pos, asm, s.serial⟩) }
  | none => { s with robins := put 7 s.robins k pos, marks := put none s.marks k (some ⟨pos, asm, s.serial⟩) }

/-- The round-robin positions that assembly `asm` moved return; of two moves of one position, the first counts. -/
def restoreRobins (asm : Nat) (l : List (Nat × Nat)) (s : State) : State :=
  l.foldr (fun e s => restoreRobin asm e.1 e.2 s) s

/-- A message joins the pool (03 R193). -/
def queueMsg (b : Bytes) (ring : Bool) (s : State) : State :=
  { s with msgs := s.msgs ++ [⟨s.serial, b, ring⟩], serial := s.serial + 1 }

end Sys2Proof.Machine
end

