-- ==== Sys2Proof/Machine/Beats.lean ====
section
/-!
DEFINITION. What asks for a beat: rings, DMA channels and scan engines, with the limit on operations (10 R545, R546), and the arbiters of the
cistern's banks (01 R38-R41).
-/
namespace Sys2Proof.Machine

/-! ### Rings (10 R545, R546, R561, R590, R593) -/

/-- Ring `r`: transmit, or receive with `rx`. -/
def ring (s : State) (rx : Bool) (r : Nat) : Ring := look {} s.rings (b2n rx * 256 + r)

/-- Ring `r` set. -/
def setRing (s : State) (rx : Bool) (r : Nat) (x : Ring) : State := { s with rings := put {} s.rings (b2n rx * 256 + r) x }

/-- `a - b` modulo 2^16. -/
def sub16 (a b : Nat) : Nat := (a + 65536 - b % 65536) % 65536

/-- Descriptors of a contiguous ring: SIZE 0 means 65,536. -/
def Ring.slots (x : Ring) : Nat := if x.size = 0 then 65536 else x.size

/-- Posted and not yet fetched. -/
def Ring.unread (x : Ring) : Nat := sub16 x.tail x.fetched

/-- Operations that a ring has in flight, a read that hangs among them: none once it has halted, though it still sends write-backs (10 R540, R545,
R567, R580). -/
def Ring.ops (x : Ring) : Nat :=
  if x.st = .halted then 0
  else
    x.descs.length + x.taken.length + (x.done.foldl (fun n d => n + d.descs.length) 0)
      + (match x.cur with | some c => c.descs.length | none => 0) + b2n x.hungFetch

/-- A transmit frame's reading has begun; a first read that hangs has begun it. -/
def Ring.begun (x : Ring) : Bool := !x.taken.isEmpty || x.got != 0 || x.hungRead

/-- Transmit ring `r` carries terminal messages (10 R590). -/
def isTmRing (s : State) (r : Nat) : Bool := rbit s R.LINE_HEM_CTL 31 && rfld s R.LINE_HEM_CTL 16 8 == r

/-- The terminal-message ring waits: no own ID is held, or 64 of its messages are in the pool (10 R593). -/
def tmWaits (s : State) : Bool := (ownId s).isNone || decide (64 ≤ (s.msgs.filter (·.ring)).length)

/-! ### Block DMA (10 R547, R553) -/

/-- Channel `c`'s transfer. -/
def dma (s : State) (c : Nat) : Dma := look {} s.dmas c

/-- Channel `c`'s transfer set. -/
def setDma (s : State) (c : Nat) (x : Dma) : State := { s with dmas := put {} s.dmas c x }

/-- The source lies in the cistern. -/
def dmaSrcCis (s : State) (c : Nat) : Bool := rbit s (R.DMA_CTL c) 20

/-- The destination lies in the cistern. -/
def dmaDstCis (s : State) (c : Nat) : Bool := rbit s (R.DMA_CTL c) 16

/-- The source address of a channel's next beat. -/
def beatAt (s : State) (c : Nat) : Nat := (rd64 s (R.DMA_SRC c)).toNat + (dma s c).off

/-- The size of a channel's next beat: up to the next 64-byte boundary of its source (10 R553). -/
def beatLen (s : State) (c : Nat) : Nat := Nat.min (64 - beatAt s c % 64) ((dma s c).total - (dma s c).off)

/-! ### Operations in flight (10 R545, R546) -/

/-- RING_INFLIGHT. -/
def inflight (s : State) : Nat :=
  (s.rings.foldl (fun n e => n + e.2.ops) 0) + (s.dmas.filter fun e => e.2.begun).length

/-- The peak of the operations in flight is kept (10 R546). -/
def noteInflight (s : State) : State :=
  if (rd s R.RING_INFLIGHT_PEAK).toNat < inflight s then wr s R.RING_INFLIGHT_PEAK (BitVec.ofNat 32 (inflight s)) else s

/-- The ring wants a descriptor. -/
def fetchAsks (s : State) (rx : Bool) (r : Nat) : Bool :=
  let x := ring s rx r
  hostUp s && (x.st == .running || (x.st == .stopping && (x.begun || x.cur.isSome)))
    && x.unread != 0 && decide (x.descs.length < 32) && !x.hungFetch
    && (rx || (s.mode.mode != .loading && !(isTmRing s r && tmWaits s)))

/-- The transfer of channel `c` waits to begin (10 R545). -/
def beginAsks (s : State) (c : Nat) : Bool := hostUp s && (dma s c).busy && !(dma s c).begun

/-- An input of the arbiter of operations waits: ring `n` as registers number it, or channel `n - 512` (10 R545). -/
def opsWaits (s : State) (n : Nat) : Bool :=
  if n < 512 then fetchAsks s (decide (256 ≤ n)) (n % 256) else beginAsks s (n - 512)

/-- Input `n` may take an operation: fewer than 65,536 are in flight, and none that lost to it still waits (10 R545, 01 R39 R40). -/
def opsOpen (s : State) (n : Nat) : Bool := decide (inflight s < 65536) && !barred s .ops n (opsWaits s)

/-- Input `n` takes an operation; where it is the last, those that wait have lost to it. -/
def opsTake (n : Nat) (s : State) : State :=
  if 65535 ≤ inflight s then granted .ops n ((List.range 576).filter (opsWaits s)) s
  else { s with turns := s.turns.filter fun x => x.at_ != .ops || x.loser != n }

/-- The number of a ring in registers and fault records: receive ring r is 256 + r. -/
def ringNo (rx : Bool) (r : Nat) : Nat := b2n rx * 256 + r

/-- The ring may fetch a descriptor now. -/
def canFetch (s : State) (rx : Bool) (r : Nat) : Bool := fetchAsks s rx r && opsOpen s (ringNo rx r)

/-- Channel `c` can move a beat: it is busy and has begun, or can begin, while the host unit may work and no read of it hangs (10 R540, R543,
R545). -/
def dmaReady (s : State) (c : Nat) : Bool :=
  hostUp s && (dma s c).busy && !(dma s c).hung && ((dma s c).begun || opsOpen s (512 + c))

/-! ### Scan engines (13 R700, R703, R706) -/

/-- Engine `e`'s computation. -/
def scan (s : State) (e : Nat) : Scan := look {} s.scans e

/-- Engine `e`'s computation set. -/
def setScan (s : State) (e : Nat) (x : Scan) : State := { s with scans := put {} s.scans e x }

/-- The width of a function. -/
def polyWidth (p : Nat) : Nat := if p = 2 then 64 else if p = 3 then 16 else 32

/-- POLY. -/
def checkPoly (s : State) (e : Nat) : Nat := rfld s (R.CHECK_CTL e) 24 2

/-- SPACE. -/
def checkSpace (s : State) (e : Nat) : Nat := rfld s (R.CHECK_CTL e) 20 2

/-- CHANNEL. -/
def checkChan (s : State) (e : Nat) : Nat := rfld s (R.CHECK_CTL e) 16 3

/-- CMP. -/
def checkCmp (s : State) (e : Nat) : Nat := rfld s (R.CHECK_CTL e) 8 2

/-- LENGTH. -/
def checkLen (s : State) (e : Nat) : Nat := (rd64 s (R.CHECK_LEN e)).toNat % 2 ^ 40

/-- Where the next read of a scan is: in the range, or the stored value after it. -/
def scanAt (s : State) (e : Nat) : Nat :=
  if checkLen s e ≤ (scan s e).off then (rd64 s (R.CHECK_STORE_ADDR e)).toNat else (rd64 s (R.CHECK_SRC e)).toNat + (scan s e).off

/-- The length of the next read of a scan. -/
def scanLen (s : State) (e : Nat) : Nat :=
  if checkLen s e ≤ (scan s e).off then polyWidth (checkPoly s e) / 8
  else Nat.min (64 - scanAt s e % 64) (checkLen s e - (scan s e).off)

/-! ### The banks of the cistern (01 R38-R40; log 145, DESIGN CHOICE) -/

/-- The banks that the next beat of channel `c` takes. -/
def dmaBanks (s : State) (c : Nat) : List Nat :=
  (if dmaSrcCis s c then [Config.cisBank (beatAt s c)] else [])
    ++ (if dmaDstCis s c then [Config.cisBank ((rd64 s (R.DMA_DST c)).toNat + (dma s c).off)] else [])

/-- The banks that the next read of engine `e` takes. -/
def scanBanks (s : State) (e : Nat) : List Nat := if checkSpace s e = 1 then [Config.cisBank (scanAt s e)] else []

/-- A transfer or a scan asks for bank `n`: channel `i - 8`, or engine `i - 72`. -/
def beatAsks (s : State) (n i : Nat) : Bool :=
  if i < 72 then dmaReady s (i - 8) && (dmaBanks s (i - 8)).contains n
  else (scan s (i - 72)).busy && (scanBanks s (i - 72)).contains n

/-- Input `i` takes banks: those that ask for one have lost to it there, and it has no turn left to wait for. -/
def takeBanks (waits : Nat → Nat → Bool) (i : Nat) (l : List Nat) (s : State) : State :=
  let owed := { s with turns := s.turns.filter fun x =>
    match x.at_ with
    | .bank _ => x.loser != i
    | _ => true }
  l.foldl (fun s1 n => granted (.bank n) i ((List.range 76).filter (waits n)) s1) owed

end Sys2Proof.Machine
end

