-- ==== Sys2Proof/Machine/Allot.lean ====
section
/-!
DEFINITION. The allotment table (05 R293-R314): map entries, admission, what falls due, removals, and the bursts that the
headgate builds by itself (06 R320, R367, R376). Rows MAP_ENTRY, ALLOTMENT_DUE, LAUNCH_INSTANT_REMOVAL, WINDOW_END,
LINE_HG_LEAD, ASSIGN_ID_TAKES_EFFECT.
-/
namespace Sys2Proof.Machine

/-! ### Launch instants (04 R217) -/

/-- One 64-byte block of window in 2^-16 ns (03 R157). -/
abbrev blockUnits : Nat := 20480
/-- 10 ns in 2^-16 ns. -/
abbrev tenNs : Nat := 655360

/-- The launch instant of a window with the L and EQD in force. -/
def launchNow (s : State) (kind : Kind) (start : Nat) : DWord :=
  BitVec.ofNat 64 (start * 2 ^ 16) - BitVec.ofNat 64 (logicalReach s * 2 ^ 12)
    + (if kind = .register then 0 else BitVec.ofNat 64 (eqdNow s * 2 ^ 12))

/-- The launch instant of an entry: fixed, or by the L and EQD in force (05 R309). -/
def launchAt (s : State) (e : Entry) : DWord := e.launch.getD (launchNow s e.kind e.start)

/-- `a - b` as a signed interval (05 R302). -/
def lead (a b : DWord) : Int := (a - b).toInt

/-- HG_LEAD in 2^-16 ns (05 R300). -/
def hgLead (s : State) : Nat := Nat.max 20 (rfld s R.LINE_HG_LEAD 0 16) * (100 * 65536)

/-- Two windows share an instant (05 R306). -/
def overlaps (a : DWord) (la : Nat) (b : DWord) (lb : Nat) : Bool :=
  decide ((b - a).toNat < la * blockUnits) || decide ((a - b).toNat < lb * blockUnits)

/-- The window of an entry is over (05 R294). -/
def windowOver (s : State) (e : Entry) : Bool :=
  decide (0 ≤ lead (reachNow s) (launchAt s e + BitVec.ofNat 64 (e.len * blockUnits)))

/-- IDENT and INSTANCE of an allotment's fault in the LINE record (05 R305). -/
def allotFault (s : State) (code : Nat) (e : Entry) : State := fault s .line code e.aid (BitVec.ofNat 64 e.start)

/-! ### The table (05 R294-R297) -/

/-- Entry `id` removed. -/
def removeEntry (s : State) (id : Nat) : State := { s with table := s.table.filter fun e => e.id != id }

/-- Entry `id` changed. -/
def updateEntry (s : State) (id : Nat) (f : Entry → Entry) : State :=
  { s with table := s.table.map fun e => if e.id = id then f e else e }

/-- Entry `id` removed and counted at register `a`. -/
def countOut (s : State) (id a : Nat) : State := bump (removeEntry s id) a

/-- Entry `id` is in the table. -/
def inTable (s : State) (id : Nat) : Bool := s.table.any fun e => e.id == id

/-- The entry of a list whose launch instant comes first, the earlier admitted of two (05 R296). -/
def earliest (s : State) : List Entry → Option Entry
  | [] => none
  | e :: l =>
    match earliest s l with
    | some f => if lead (launchAt s f) (launchAt s e) < 0 then some f else some e
    | none => some e

/-- The table index of an entry: how many come before it, by launch instant and then by admission (05 R296). -/
def tableIndex (s : State) (e : Entry) : Nat :=
  (s.table.filter fun f =>
    let d := lead (launchAt s f) (launchAt s e)
    decide (d < 0) || (d == 0 && decide (f.id < e.id))).length

/-- The entry found uncorrectable is removed without launch: a burst it has at the headgate is cancelled at its launch commit (05 R298, 06 R356). -/
def tableFault (s : State) (e : Nat × Entry) : State :=
  fault (removeEntry s e.2.id) .queue 1 wholeBlock (BitVec.ofNat 64 e.1)

/-- The entries of these table indexes are found uncorrectable as the table is read (05 R298). -/
def tableFaults (ecc : List Nat) (s : State) : State :=
  ((s.table.map fun e => (tableIndex s e, e)).filter fun e => ecc.contains e.1).foldl tableFault s

/-- QUEUE_ALLOT_NEXT: the launch instant of the earliest entry not yet due, or 0 (05 R297). -/
def nextLaunch (s : State) : DWord :=
  match earliest s (s.table.filter fun e => e.stage == .waiting) with
  | some e => launchAt s e
  | none => 0

/-- Entries of a kind leave: past their launch commit uncounted, else counted at `a` (05 R253, R295). -/
def purge (s : State) (p : Entry → Bool) (a : Nat) : State :=
  let gone := s.table.filter p
  let n := (gone.filter fun e => e.stage != .launched).length
  bumpBy { s with table := s.table.filter fun e => !p e } a n

/-! ### Map entries and admission (03 R156-R158, 05 R299-R305) -/

/-- The fields of a map entry (03 R156). -/
def mapFields (b : Bytes) : Nat × Entry :=
  let w := beAt b 0 12
  (w / 2 ^ 84,
   { aid := w / 2 ^ 74 % 1024, gaspOk := w.testBit 73, report := w.testBit 71
     start := w / 2 ^ 20 % 2 ^ 48, len := w % 2 ^ 20
     kind := if w.testBit 72 then (if w / 2 ^ 84 = 0 then .register else .range) else .data })

/-- A map entry is one that admission takes in the current substate (03 R158). -/
def mapWanted (s : State) (tid : Nat) (e : Entry) : Bool :=
  if e.kind = .register then unregistered s else ownId s == some tid && registered s

/-- An entry refused: counted and recorded (05 R303-R305). -/
def refuseEntry (s : State) (a code : Nat) (e : Entry) : State := allotFault (bump s a) code e

/-- An entry written into the table. -/
def admitEntry (s : State) (e : Entry) : State :=
  let s1 := { s with table := s.table ++ [{ e with id := s.serial }], serial := s.serial + 1 }
  let s2 := bump s1 R.LINE_CNT_ALLOT_ADMITTED
  if (rd s2 R.QUEUE_ALLOT_PEAK).toNat < s2.table.length then wr s2 R.QUEUE_ALLOT_PEAK (BitVec.ofNat 32 s2.table.length) else s2

/-- Admission, its checks in order (05 R303); the table is read for the overlap check. -/
def admission (ecc : List Nat) (e : Entry) (s : State) : State :=
  let launch := launchAt s e
  let d := lead launch (reachNow s)
  let horizon := rfld s R.LINE_ADMIT_HORIZON 0 16
  if e.len < rfld s R.LINE_BURST_P 0 16 + 160 then refuseEntry s R.LINE_CNT_ALLOT_SHORT 18 e
  else if e.kind = .data && !aidDefined s e.aid then refuseEntry s R.LINE_CNT_ALLOT_UNDEF 17 e
  else if d < hgLead s then refuseEntry s R.LINE_ALLOT_EXPIRED 14 e
  else if horizon ≠ 0 ∧ (horizon * (100000 * 65536) : Int) < d then refuseEntry s R.LINE_CNT_ALLOT_FAR 19 e
  else
    let s1 := tableFaults ecc s
    if s1.table.any fun f => overlaps launch e.len (launchAt s1 f) f.len then refuseEntry s1 R.LINE_CNT_ALLOT_OVERLAP 16 e
    else if 65536 ≤ s1.table.length then refuseEntry s1 R.LINE_CNT_ALLOT_FULL 20 e
    else admitEntry s1 e

/-- Map entry `idx` of the convoy (03 R158); while MODE reads LOADING it is ignored (15 R787, 02 R912). -/
def mapTake (ecc : List Nat) (idx : Nat) (o : Octets) (s : State) : State :=
  if s.mode.mode == .loading then s
  else
    match whole o with
    | some b =>
      if beAt b 12 2 = (crc16 (slice b 0 12)).toNat then
        let (tid, e) := mapFields b
        if mapWanted s tid e then admission ecc e s else s
      else fault (bump s R.LINE_CNT_MAP_BAD) .line 7 idx (BitVec.ofNat 64 (beAt b 0 8))
    | none => fault (bump s R.LINE_CNT_MAP_BAD) .line 7 idx (BitVec.ofNat 64 (beAt (blanked o) 0 8))

/-- The next map entry of the convoy in progress: MAP_COUNT says how many there are (03 R149, R151). -/
def mapTurn (s : State) : Bool := s.line.live && !s.line.ended && decide (s.line.mapsDone < s.line.maps)

/-- The next entry of the map, 16 bytes at byte 48 and on (03 R148), is taken; it waits while it has not been received, and is lost where it is
cut off (03 R154). -/
def mapEntryEff (ecc : List Nat) (s : State) : State :=
  if !mapTurn s then s
  else
    match bodyOctets s s.line.start (48 + 16 * s.line.mapsDone) 16 with
    | .wait => s
    | .cut => endConvoy s
    | .octets o => mapTake ecc s.line.mapsDone o { s with line := { s.line with mapsDone := s.line.mapsDone + 1 } }

/-- MAP_ENTRY, with the table indexes of the entries found uncorrectable (05 R298). -/
def execMapEntry (ecc : List Nat) (s : State) : Out := viaCore s (mapEntryEff ecc)

/-! ### Bursts that the headgate builds (06 R320, R367, R376) -/

/-- A drover. -/
def drover (s : State) (t : Nat) : Drover := look {} s.drovers t

/-- A drover set. -/
def setDrover (s : State) (t : Nat) (d : Drover) : State := { s with drovers := put {} s.drovers t d }

/-- A burst joins the headgate. -/
def addBurst (s : State) (b : Burst) : State := { s with gate := { s.gate with bursts := s.gate.bursts ++ [b] } }

/-- An entry goes to a one-set burst of the headgate, a fallback or HELD burst with the reports of this instant (06 R367, R376). -/
def gateBurst (kind : BurstKind) (e : Entry) (s : State) : State :=
  addBurst s { entry := e, launch := launchAt s e, kind := kind, tract := aidTract s e.aid
               reports := if kind = .fallback ∨ kind = .held then reportsOf s e.aid else [] }

/-- A gasp trip is pending (06 R371). -/
def gaspPending (s : State) : Bool := rbit s R.LINE_GASP_CTL 30

/-- The entry's burst would carry nothing (06 R326). -/
def burstEmpty (s : State) (e : Entry) : Bool := aidEmpty s e.aid && s.msgs.isEmpty && !(gaspPending s && e.gaspOk)

/-! ### Falling due (05 R308-R312) -/

/-- The mode and substate launch this kind (05 R310). -/
def launches (s : State) : Kind → Bool
  | .register => unregistered s
  | .range => registered s
  | .data => effMode s == .service || effMode s == .fallow

/-- What must be known before any launch (04 R220). -/
def routeKnown (s : State) : Bool :=
  rbit s R.LINE_LOGICAL_REACH 31 && rfld s R.LINE_BURST_P 0 16 != 0 && s.time.reachSet

/-- A registration window's band is open to this terminal (04 R228). -/
def bandOpen (s : State) (e : Entry) : Bool := e.aid == 0 || e.aid == rfld s R.LINE_REG_CTL 16 10

/-- A registration window that meets R228 but is let pass (04 R230). -/
def skipsWindow (s : State) (e : Entry) : Bool :=
  e.kind == .register && launches s .register && routeKnown s && bandOpen s e && s.line.wait.isNone && s.line.skip != 0

/-- Step 1 of R310: the entry is not launched. -/
def notLaunched (s : State) (e : Entry) : Bool :=
  !launches s e.kind || !routeKnown s
    || (e.kind == .register && !(bandOpen s e && s.line.wait.isNone && s.line.skip == 0))

/-- An entry already taken as due, whatever has become of it, whose window the entry overlaps (05 R310 step 4, log 36, DEDUCED). -/
def overlapsDue (s : State) (e : Entry) : Bool :=
  s.table.any fun f => f.id != e.id && f.stage != .waiting && overlaps (launchAt s e) e.len (launchAt s f) f.len

/-- A DATA entry reaches the drover of its tract (05 R310 step 7, 06 R347, R376). -/
def handToDrover (e : Entry) (s : State) : State :=
  let t := aidTract s e.aid
  let d := drover s t
  if d.st = .reloading || d.reload then gateBurst .held e s
  else if d.st = .stopped then gateBurst .fallback e s
  else setDrover s t { d with waiting := d.waiting ++ [e] }

/-- The drover of the entry's tract decides step 5 of R310 (06 R326). -/
def decidesEmpty (s : State) (e : Entry) : Bool := (drover s (aidTract s e.aid)).st != .reloading

/-- An entry taken as due is at stage `g`, its launch instant fixed (04 R224, 05 R309). -/
def fixEntry (g : Stage) (e : Entry) (s : State) : State :=
  updateEntry s e.id fun _ => { e with launch := some (launchAt s e), stage := g }

/-- An entry goes through the steps of R310. -/
def takeDue (e : Entry) (s : State) : State :=
  if skipsWindow s e then fixEntry .held e { s with line := { s.line with skip := s.line.skip - 1 } }
  else if notLaunched s e then fixEntry .held e s
  else if e.kind = .data && !ranged s then fixEntry .unranged e s
  else if lead (launchAt s e) (reachNow s) < 1900 * 65536 then allotFault (countOut s e.id R.LINE_ALLOT_EXPIRED) 15 e
  else if overlapsDue s e then allotFault (countOut s e.id R.LINE_CNT_ALLOT_OVERLAP) 16 e
  else if e.kind = .data && !e.report && decidesEmpty s e && burstEmpty s e then countOut s e.id R.LINE_CNT_ALLOT_EMPTY
  else
    let f := { e with launch := some (launchAt s e), stage := .handed }
    let s1 := fixEntry .handed e s
    match e.kind with
    | .register => gateBurst .register f s1
    | .range => gateBurst .range f s1
    | .data => handToDrover f s1

/-- An entry is due (05 R308). -/
def entryDue (s : State) (e : Entry) : Bool := e.stage == .waiting && decide (lead (launchAt s e) (reachNow s) ≤ hgLead s)

/-- The earliest entry that is due goes through R310, unless it is among those found uncorrectable as the table is read (05 R298). -/
def allotmentDueEff (ecc : List Nat) (s : State) : State :=
  match earliest s (s.table.filter (entryDue s)) with
  | some e =>
    let s1 := tableFaults ecc s
    if inTable s1 e.id then takeDue e s1 else s1
  | none => s

/-- ALLOTMENT_DUE, with the table indexes of the entries found uncorrectable (05 R298). -/
def execAllotmentDue (ecc : List Nat) (s : State) : Out := viaCore s (allotmentDueEff ecc)

/-- Entries of kinds that a mode change from `old` has allowed, past their due instants with launch ahead, are taken as due
(05 R311). -/
def retakeHeld (old s : State) : State :=
  let l := s.table.filter fun e => (e.stage == .held || e.stage == .unranged) && launches s e.kind && !launches old e.kind
    && decide (0 < lead (launchAt s e) (reachNow s))
  l.foldl (fun s e => takeDue { e with stage := .waiting } s) s

/-- A kept entry reaches its launch instant (05 R310 steps 1 and 2, R312). -/
def launchRemovalEff (s : State) : State :=
  match earliest s (s.table.filter fun e =>
      (e.stage == .held || e.stage == .unranged) && decide (lead (launchAt s e) (reachNow s) ≤ 0)) with
  | some e => countOut s e.id (if e.stage = .unranged then R.LINE_CNT_ALLOT_UNRANGED else R.LINE_CNT_ALLOT_HELD)
  | none => s

/-- LAUNCH_INSTANT_REMOVAL. -/
def execLaunchInstantRemoval (s : State) : Out := viaCore s launchRemovalEff

/-- A window ends and its entry leaves the table (05 R294). -/
def windowEndEff (s : State) : State :=
  match earliest s (s.table.filter (windowOver s)) with
  | some e => if e.stage = .launched then removeEntry s e.id else countOut s e.id R.LINE_CNT_ALLOT_HELD
  | none => s

/-- WINDOW_END. -/
def execWindowEnd (s : State) : Out := viaCore s windowEndEff

/-- LINE_HG_LEAD takes `v` (05 R314). -/
def lineHgLeadEff (v : Word) (s : State) : State := wrField s R.LINE_HG_LEAD v 0xFFFF 0

/-- LINE_HG_LEAD. -/
def execLineHgLead (v : Word) (s : State) : Out := viaBar s (lineHgLeadEff v)

/-- The substate leaves LISTEN and SILENT: every REGISTER entry is removed (05 R295). -/
def purgeRegister (s : State) : State := purge s (fun e => e.kind == .register) R.LINE_CNT_ALLOT_HELD

/-- A waiting ASSIGN_ID takes effect at a convoy start, if the substate is still LISTEN or SILENT (04 R232). -/
def assignIdEff (s : State) : State :=
  match isDue s s.line.ident with
  | some tid =>
    let s1 := { s with line := { s.line with ident := none } }
    if unregistered s then assignEffect tid.toNat (purgeRegister s1) else s1
  | none => s

/-- ASSIGN_ID_TAKES_EFFECT. -/
def execAssignIdTakesEffect (s : State) : Out := viaCore s assignIdEff

end Sys2Proof.Machine
end

