-- ==== Sys2Proof/Machine/Drover.lean ====
section
/-!
DEFINITION. The drover (06 R321-R350): words and their slots, offers and reservations, commit, aborts and faults, with its
ledger and samples (14 R739-R748). Rows ENTRY_VECTOR, NEXT, BRANCH, CALL, RETURN, DISPATCH, IDLE, the ALU rows, the IO rows,
DROVER_RESTART, HANDOFF_DEADLINE.
-/
namespace Sys2Proof.Machine

/-! ### Microwords (06 R328) -/

/-- The word at an address of a tract's control store. -/
def storeWord (s : State) (t a : Nat) : BitVec 192 := look 0 s.store (t * 4096 + a)

/-- SEQ. -/
def wSeq (w : BitVec 192) : Nat := fld w 188 4
/-- COND. -/
def wCond (w : BitVec 192) : Nat := fld w 183 5
/-- COND_INV. -/
def wInv (w : BitVec 192) : Bool := bit w 182
/-- TARGET. -/
def wTarget (w : BitVec 192) : Nat := fld w 170 12
/-- ALU_OP. -/
def wAlu (w : BitVec 192) : Nat := fld w 164 6
/-- ALU_DST. -/
def wAluDst (w : BitVec 192) : Nat := fld w 160 4
/-- ALU_A. -/
def wA (w : BitVec 192) : Nat := fld w 156 4
/-- ALU_B. -/
def wB (w : BitVec 192) : Nat := fld w 152 4
/-- B_IMM. -/
def wBImm (w : BitVec 192) : Bool := bit w 151
/-- SET_FLAGS. -/
def wSet (w : BitVec 192) : Bool := bit w 150
/-- IO_OP. -/
def wIo (w : BitVec 192) : Nat := fld w 144 6
/-- IO_SRC. -/
def wIoSrc (w : BitVec 192) : Nat := fld w 140 4
/-- IO_DST. -/
def wIoDst (w : BitVec 192) : Nat := fld w 136 4
/-- IO_ARG. -/
def wIoArg (w : BitVec 192) : Nat := fld w 128 8
/-- IMM. -/
def wImm (w : BitVec 192) : DWord := w.extractLsb' 64 64

/-- The word has content that no loader accepts (06 R330). -/
def illegalWord (w : BitVec 192) : Bool :=
  fld w 0 64 != 0 || decide (5 < wSeq w) || decide (11 < wCond w) || decide (12 < wAlu w) || decide (6 < wIo w)
    || ((wIo w == 5 || wIo w == 6) && wSeq w != 5)

/-- The word in progress. -/
def curWord (s : State) (t : Nat) : BitVec 192 := storeWord s t (drover s t).pc

/-- A working register. -/
def wReg (d : Drover) (n : Nat) : DWord := look 0 d.w n

/-! ### The ledger and samples (14 R739-R748) -/

/-- Ledger classes by overflow bit (14 R742). -/
abbrev clsCarried : Nat := 6
/-- SPENT. -/
abbrev clsSpent : Nat := 7

/-- A ledger class of tract `t` counts `n`. -/
def ledgerAdd (s : State) (t k n : Nat) : State :=
  let d := drover s t
  let v := look 0 d.ledger.cls k + n
  let s1 := setDrover s t { d with ledger := { d.ledger with cls := put 0 d.ledger.cls k (v % 2 ^ 48) } }
  if v < 2 ^ 48 then s1 else wrapped (event s1 (R.TRACT_LEDGER_OVF t) k)

/-- The open ticks are charged to class `k` (14 R740). -/
def chargeOpen (s : State) (t k : Nat) : State :=
  let d := drover s t
  ledgerAdd (setDrover s t { d with live := 0 }) t k d.live

/-- The bin of a slack in 2^-16 ns (14 R741). -/
def slackBin (u : Nat) : Nat := Nat.min 7 (if u < 65536000 then 0 else Nat.log2 (u / 65536000) + 1)

/-- An accepted commit enters the slack histogram (14 R741). -/
def slackAdd (s : State) (t u : Nat) : State :=
  let d := drover s t
  let b := slackBin u
  setDrover s t { d with ledger := { d.ledger with
    hist := put 0 d.ledger.hist b (Nat.min 0xFFFFFFFF (look 0 d.ledger.hist b + 1))
    least := Nat.min d.ledger.least (u / tenNs) } }

/-- One sample enters the FIFO, or is lost (14 R747-R749). -/
def addSample (t aid : Nat) (carried : Bool) (s : State) (g : Tag) : State :=
  if s.perf.samples.length < 1024 then
    { s with perf := { s.perf with samples := s.perf.samples ++
      [⟨pack [(31, 1), (28, t), (27, b2n (!carried)), (26, b2n (g.wait != 0)), (16, g.sp), (0, g.pc)],
        pack [(16, Nat.min 0xFFFF g.wait), (0, aid)], g.time⟩] } }
  else event (bump s R.PERF_SAMPLE_LOST) R.PERF_EVENT 1

/-- The assembly's tagged words yield their samples. -/
def flushTags (s : State) (t : Nat) (carried : Bool) : State :=
  let d := drover s t
  let aid := (d.entry.map (·.aid)).getD 0
  d.tags.foldl (addSample t aid carried) (setDrover s t { d with tags := [], tagNow := false })

/-- The account of an assembly closes (14 R740, R747). -/
def closeAccount (s : State) (t : Nat) (carried : Bool) : State :=
  chargeOpen (flushTags s t carried) t (if carried then clsCarried else clsSpent)

/-- Draw `k` of the gap between tagged words of tract `t` (14 R746). -/
def gapDraw (s : State) (t k : Nat) : Nat :=
  Config.sampleGap s.fuses.serial t k % (2 * zeroAsOne (rfld s (R.TRACT_SAMPLE_CTL t) 0 16) - 1) + 1

/-- A word begins: it counts toward the governor's demand and the next tag (14 R746, 16 R851). -/
def beginWord (s : State) (t : Nat) : State :=
  let d := drover s t
  if d.begun then s
  else
    let p := pace s t
    let s1 := setPace (setDrover s t { d with begun := true }) t { p with words := p.words + 1 }
    if !rbit s (R.TRACT_SAMPLE_CTL t) 31 then s1
    else
      let d1 := drover s1 t
      let count := if d1.gap = 0 then gapDraw s t d1.draws else d1.gap
      let k := d1.draws + b2n (d1.gap == 0)
      if count = 1 then
        setDrover s1 t { d1 with
          draws := k + 1, gap := gapDraw s t k, tags := d1.tags ++ [⟨d1.pc, d1.stack.length, outNow s1, 0⟩], tagNow := true }
      else setDrover s1 t { d1 with draws := k, gap := count - 1, tagNow := false }

/-! ### Offers (06 R336, R342) -/

/-- SEG_BYTES of a frame with `n` bytes left, under per-segment overhead `k`. -/
def segBytes (k n : Nat) : Nat := roundUp (8 + k + n) 8

/-- A frame of queue `q` is in a page that is on its way to a channel (08 R453). -/
def beingSpilled (s : State) (q uid : Nat) : Bool :=
  (queue s q).writing && s.res.chans.any fun c =>
    match c.2.writing with
    | some w => w.q == q && w.cuts.any fun x => x.1 == uid
    | none => false

/-- The frame lies wholly in the cistern and can be offered (06 R342, 08 R452). -/
def frameReady (s : State) (q : Nat) (f : QFrame) : Bool := f.parts.all Chunk.inCistern && !beingSpilled s q f.tok.uid

/-- The frame next on offer to the assembly of drover `d` in entry `e`; none after a TAKE_PART (06 R339). -/
def droverOffer (s : State) (d : Drover) (segs : List Taken) : Option (Nat × QFrame) :=
  if d.part then none else (d.entry.map fun e => nextOffer s e.aid segs).getD none

/-- The offer word (06 R336). -/
def offerWord (s : State) (d : Drover) : Option (Nat × QFrame) → DWord
  | some (q, f) =>
    BitVec.ofNat 64 (b2n (f.carried != 0) * 2 ^ 39 + qMember s q * 2 ^ 36 + qPrio s q * 2 ^ 32 + f.remain % 2 ^ 14 * 2 ^ 16
      + segBytes d.ovr f.remain % 2 ^ 16)
  | none => 0

/-- Q_DATA and REM of an offer. -/
def offerFlags : Option (Nat × QFrame) → Bool × Bool
  | some (_, f) => (true, f.carried != 0)
  | none => (false, false)

/-- What a run of TAKE_RUN has reserved, the room left, the members it moved on to, and the frame then on offer; `ready` is false when
the next frame must come back from the reservoir first. -/
structure Run where
  segs  : List Taken
  room  : Nat
  count : Nat
  moved : List (Nat × Nat)
  offer : Option (Nat × QFrame)
  ready : Bool
  deriving DecidableEq, Repr

/-- Up to `n` more frames are reserved while they fit (06 R337). The round-robin moves are applied to the state given. -/
def takeFrames (d : Drover) (aid : Nat) : Nat → State → List Taken → Nat → Nat → List (Nat × Nat) → Run × State
  | n, s, segs, room, count, moved =>
    let o := droverOffer s d segs
    match o with
    | none => (⟨segs, room, count, moved, none, true⟩, s)
    | some (q, f) =>
      if !frameReady s q f then (⟨segs, room, count, moved, o, false⟩, s)
      else
        match n with
        | 0 => (⟨segs, room, count, moved, o, true⟩, s)
        | n + 1 =>
          let b := segBytes d.ovr f.remain
          if room < b then (⟨segs, room, count, moved, o, true⟩, s)
          else
            let p := qPrio s q
            let s1 := if f.carried = 0 then setRobin s aid p (qMember s q) else s
            takeFrames d aid n s1 (segs ++ [⟨q, f.tok.uid, f.carried, f.stop, true⟩]) (room - b) (count + 1)
              (moved ++ [(aid * 8 + p, robin s aid p)])

/-! ### Cancelling and ending (06 R344-R347) -/

/-- Every reservation of the drover's assembly is cancelled (06 R345). -/
def cancelReservations (t : Nat) (s : State) : State :=
  let d := drover s t
  let s1 := returnMsgs (restoreRobins d.asm d.robins s) d.msgs
  setDrover s1 t { d with segs := [], msgs := [], robins := [], part := false, offer := none }

/-- The drover enters RELOADING: what it holds uncommitted goes out as HELD bursts (06 R375). -/
def enterReloading (t : Nat) (s : State) : State :=
  let d := drover s t
  let s1 := setDrover s t { d with st := .reloading, reload := false, fault := 0, waiting := [], faulted := [] }
  (d.waiting ++ d.faulted).foldl (fun s e => gateBurst .held e s) s1

/-- The drover returns to IDLE, or enters RELOADING when a reload waits for it. -/
def toIdle (t : Nat) (s : State) : State :=
  let d := drover s t
  let s1 := setDrover s t { d with
    st := .idle, stack := [], entry := none, alu := none, io := none, begun := false, settled := none, abort := none }
  if d.reload then enterReloading t s1 else s1

/-- How many frames a TAKE_RUN word asks for (06 R337). -/
def runLimit (w : BitVec 192) : Nat := if wIoArg w = 0 ∨ 8 < wIoArg w then 8 else wIoArg w

/-- The frame that a HEAD or TAKE_RUN in progress waits for, and its queue (06 R342). -/
def waitFrame (s : State) (t : Nat) : Option (Nat × QFrame) :=
  let d := drover s t
  let w := curWord s t
  if d.st != .running || d.io.isSome then none
  else if wIo w = 1 then (droverOffer s d d.segs).filter fun x => !frameReady s x.1 x.2
  else if wIo w = 2 then
    let r := (takeFrames d ((d.entry.map (·.aid)).getD 0) (runLimit w) s d.segs (wReg d (wIoSrc w)).toNat 0 []).1
    if r.ready then none else r.offer
  else none

/-- The word in progress waits on the queue manager or the message pool (06 R342). -/
def waitsQueue (s : State) (t : Nat) : Bool := (waitFrame s t).isSome

/-- Bursts committed by drovers and awaiting launch (06 R354, R366). -/
def waitingBursts (s : State) : Nat := (s.gate.bursts.filter fun b => b.kind == .data).length

/-- The instant before which a COMMIT must reach the headgate (06 R351, R352). -/
def handoffAt (s : State) (e : Entry) : DWord :=
  launchAt s e - BitVec.ofNat 64 (Nat.max 60 (rfld s R.LINE_HG_STAGE 0 16) * tenNs)

/-- The banks that the frames of an assembly begin in (log 145, DESIGN CHOICE). -/
def commitBanks (s : State) (t : Nat) : List Nat :=
  (drover s t).segs.flatMap fun k =>
    match (queue s k.q).frames.find? fun f => f.tok.uid == k.uid with
    | some f => ((chunkRuns f.parts).take 1).map fun r => Config.cisBank r.1
    | none => []

/-- A COMMIT in progress that the headgate would accept asks for its banks. -/
def commitAsks (s : State) (t : Nat) : Bool :=
  let d := drover s t
  d.st == .running && d.begun && d.io.isNone && wIo (curWord s t) == 5 && decide (waitingBursts s < 64)
    && (match d.entry with | some e => decide (lead (reachNow s) (handoffAt s e) < 0) | none => false)

/-- Input `i` asks for bank `n`: the drover of tract `i`, or a transfer or a scan (01 R38, R39). -/
def bankWaits (s : State) (n i : Nat) : Bool :=
  if i < 8 then commitAsks s i && (commitBanks s i).contains n else beatAsks s n i

/-- One of the banks is another's turn. -/
def barredAt (s : State) (i : Nat) (l : List Nat) : Bool := l.any fun n => barred s (.bank n) i (bankWaits s n)

/-- The word in progress waits on the headgate (06 R354), or on a bank of the cistern. -/
def waitsGate (s : State) (t : Nat) : Bool :=
  (drover s t).io.isNone && wIo (curWord s t) == 5
    && (decide (64 ≤ waitingBursts s) || (commitAsks s t && barredAt s t (commitBanks s t)))

/-! ### The staging FIFO (01 R42, 06 R355) -/

/-- Bytes of the staging FIFO, in entries of 128. -/
abbrev stagingSize : Nat := 262144

/-- A read of the cistern takes these bytes of the FIFO (log 61, DESIGN CHOICE). -/
def entryBytes (n : Nat) : Nat := roundUp n 128

/-- The reads of a frame for a burst of tract `t` (14 R751). -/
def gatherAccess (s : State) (t : Nat) (g : Seg) : Access :=
  { addr := 0, bytes := 0, master := 1, id := t, cls := some g.prio, priv := privPort s g.frame.tok.port }

/-- The reads that gather a burst's frame bytes, in order: each with its address and length. -/
def gatherReads (s : State) (b : Burst) : List (Access × Nat × Nat) :=
  b.segs.flatMap fun g => (chunkRuns g.frame.parts).map fun r => (gatherAccess s b.tract g, r)

/-- What the FIFO holds of a burst, in bytes of entries. -/
def stagedBytes (s : State) (b : Burst) : Nat :=
  ((gatherReads s b).take b.reads).foldl (fun n r => n + entryBytes r.2.2) 0

/-- Reads of a burst are made while the FIFO has room for them and none has met bad data; the room that is left, 0 where one must wait. -/
def gatherInto : List (Access × Nat × Nat) → Nat → Burst → State → State × Burst × Nat
  | [], room, b, s => (s, b, room)
  | r :: l, room, b, s =>
    if b.bad then (s, b, room)
    else if room < entryBytes r.2.2 then (s, b, 0)
    else
      let text := cisBytes s r.2.1 r.2.2
      let (s1, ok) := cisRead s r.1 r.2.1 r.2.2
      if ok then gatherInto l (room - entryBytes r.2.2) { b with got := b.got ++ text, reads := b.reads + 1 } s1
      else (s1, { b with bad := true }, room)

/-- A burst put into a list by its launch instant, behind those of the same. -/
def insertBurst (b : Burst) : List Burst → List Burst
  | [] => [b]
  | c :: l => if lead b.launch c.launch < 0 then b :: c :: l else c :: insertBurst b l

/-- The bursts that wait, in launch order. -/
def launchOrder (s : State) : List Burst := s.gate.bursts.foldl (fun l b => insertBurst b l) []

/-- Burst `b` is kept at the headgate in its new form. -/
def keepBurst (b : Burst) (s : State) : State :=
  { s with gate := { s.gate with bursts := s.gate.bursts.map fun c => if c.entry.id = b.entry.id ∧ c.asm = b.asm then b else c } }

/-- The bursts of a list are gathered in order into `room` bytes of the FIFO. -/
def gatherAll : List Burst → Nat → State → State
  | [], _, s => s
  | b :: l, room, s =>
    let (s1, b1, room1) := gatherInto ((gatherReads s b).drop b.reads) room b s
    gatherAll l room1 (keepBurst b1 s1)

/-- The headgate gathers what the FIFO has room for, in launch order (06 R355). -/
def stageBursts (s : State) : State :=
  let used := s.gate.bursts.foldl (fun n b => n + stagedBytes s b) 0
  gatherAll (launchOrder s) (stagingSize - used) s

/-! ### Bursts that are not launched (06 R368) -/

/-- A byte of frame `uid` that the staging FIFO may hold of a burst, at byte `i` of the frame, is set. -/
def patchByte (uid i : Nat) (v : Byte) : List Seg → Nat → Bytes → Bytes
  | [], _, got => got
  | g :: l, pos, got =>
    let f := g.frame
    let got1 := if f.tok.uid = uid ∧ f.carried ≤ i ∧ i < f.stop then got.set (pos + (i - f.carried)) v else got
    patchByte uid i v l (pos + f.remain) got1

/-- Bytes of frame `uid` from byte `i` on are set in what the staging FIFO holds of a burst. -/
def patchGot (uid : Nat) : Nat → Bytes → Burst → Burst
  | _, [], b => b
  | i, v :: l, b => patchGot uid (i + 1) l { b with got := patchByte uid i v b.segs 0 b.got }

/-- The parts of frame `uid` wherever they are: in bursts, then in its queue. -/
def frameParts (s : State) (q uid : Nat) : List Chunk :=
  (s.gate.bursts.flatMap fun b => (b.segs.filter fun g => g.frame.tok.uid == uid).flatMap fun g => g.frame.parts)
    ++ ((queue s q).frames.filter fun f => f.tok.uid == uid).flatMap fun f => f.parts

/-- Bytes of frame `uid` are written back, in the cistern and in what the staging FIFO holds. -/
def writeBack (q uid : Nat) (s : State) (o : Nat × Bytes) : State :=
  let s1 := patchParts s (frameParts s q uid) o.1 o.2
  { s1 with gate := { s1.gate with bursts := s1.gate.bursts.map (patchGot uid o.1 o.2) } }

/-- A frame's original correctionField and checksum are written back (11 R643). -/
def tcRestore (s : State) (x : TcSave) : State := x.old.foldl (writeBack x.q x.uid) s

/-- A burst leaves the headgate unlaunched: its staged bytes are discarded, its frames and messages return, and it counts if a drover committed
it (06 R368). -/
def returnBurst (s : State) (b : Burst) : State :=
  let s1 := b.tc.foldl tcRestore s
  let s2 := { s1 with gate := { s1.gate with bursts := s1.gate.bursts.filter fun c => c.entry.id != b.entry.id || c.asm != b.asm } }
  let s3 := restoreRobins b.asm b.robins (returnMsgs (b.segs.foldl (returnSeg b.entry.aid) s2) b.msgs)
  if b.kind = .data then bump s3 R.LINE_CNT_HG_RETURNED else s3

/-- Committed bursts are withdrawn, the last committed first, and what waits is gathered into the room they leave. -/
def withdrawBursts (p : Burst → Bool) (s : State) : State := stageBursts ((s.gate.bursts.filter p).reverse.foldl returnBurst s)

/-! ### Aborts (06 R344) -/

/-- A burst that the word in progress has committed although HOLD has stopped its kind is withdrawn with the others (02 R96, R97, 06 R368). -/
def recallBurst (t : Nat) (s : State) : State :=
  let d := drover s t
  if d.abort = some .hold ∧ d.settled = some true then withdrawBursts (fun b => b.kind == .data && b.asm == d.asm) s else s

/-- An abort is taken: the assembly is cancelled (06 R344). -/
def takeAbort (t : Nat) (s : State) : State :=
  let s1 := cancelReservations t (tractEvent s t .abort 1)
  let d := drover s1 t
  let s2 := match d.settled with
    | none => closeAccount s1 t false
    | some ok => chargeOpen s1 t (if ok then clsCarried else clsSpent)
  let s3 := match d.abort, d.entry with
    | some .reload, some e => if d.settled.isNone then gateBurst .held e s2 else s2
    | _, _ => s2
  toIdle t s3

/-- The cause that an abort is taken for: HOLD and SILENT, which remove the entry, come before a reload that awaits the end of the word (05 R312,
06 R368, R375). -/
def abortCause (old : Option Abort) (a : Abort) : Abort :=
  match old, a with
  | none, _ => a
  | some .reload, .hold => .hold
  | some .reload, .silent => .silent
  | some b, _ => b

/-- An abort for cause `a` reaches the drover: it is taken now at a word boundary or in a waiting word, else at the end of the
word. -/
def sendAbort (a : Abort) (t : Nat) (s : State) : State :=
  let d := drover s t
  if d.st = .running then
    let s1 := setDrover s t { d with abort := some (abortCause d.abort a) }
    if !d.begun || (d.alu.isNone && d.io.isNone && (waitsQueue s t || waitsGate s t)) || waitsQueue s t || waitsGate s t
    then takeAbort t s1 else s1
  else s

/-- HOLD and SILENT abort every drover; entries whose entry vector has not begun leave the drovers (06 R344, 05 R312). -/
def abortDrovers (a : Abort) (s : State) : State :=
  (tracts s).foldl (fun s t =>
    let d := drover s t
    sendAbort a t (setDrover s t { d with waiting := [], faulted := [] })) s

/-- IDENT of a drover's fault (06 R380). -/
def entryIdent (e : Entry) : DWord := BitVec.ofNat 64 (e.aid * 2 ^ 48 + e.start)

/-- The drover stops on a fault (06 R346, R347). -/
def stopDrover (t code : Nat) (s : State) : State :=
  let s1 := closeAccount (cancelReservations t s) t false
  let d := drover s1 t
  let e := d.entry.getD {}
  let s2 := setDrover s1 t { d with
    st := .stopped, fault := code, alu := none, io := none, begun := false, settled := none, abort := none, entry := none
    faulted := if d.abort.isNone ∨ d.abort = some .reload then d.faulted ++ [e] else d.faulted, waiting := [] }
  let s3 := fault s2 (.tract t) code d.pc (entryIdent e)
  let s4 := d.waiting.foldl (fun s e => gateBurst .fallback e s) s3
  if d.reload then enterReloading t s4 else s4

/-- The word at the drover's address is fetched: an uncorrectable or illegal one stops the drover (06 R322, R331, R346). -/
def fetchWord (t : Nat) (ecc : Bool) (s : State) : State :=
  if ecc then stopDrover t 12 s else if illegalWord (curWord s t) then stopDrover t 11 s else s

/-! ### The entry vector (06 R325-R327) -/

/-- Codeword sets of a window (03 R185). -/
def codewordSets (s : State) (e : Entry) : Nat := (e.len - rfld s R.LINE_BURST_P 0 16) / 160

/-- The working registers at the entry vector. -/
def vectorRegs (s : State) (t : Nat) (e : Entry) (k : Nat) : Sparse DWord :=
  let n := codewordSets s e
  [(0, BitVec.ofNat 64 e.aid), (1, BitVec.ofNat 64 (10240 * n)), (2, BitVec.ofNat 64 e.len), (3, BitVec.ofNat 64 e.start),
   (4, BitVec.ofNat 64 (b2n e.gaspOk + 2 * b2n e.report)), (5, BitVec.ofNat 64 n), (6, launchAt s e),
   (7, (rd s (R.TRACT_DROVER_FRAG t)).setWidth 64), (8, BitVec.ofNat 64 k)].foldl (fun m x => put 0 m x.1 x.2) []

/-- An IDLE drover begins the entry vector for its earliest entry. -/
def entryVectorEff (t : Nat) (ecc : Bool) (s : State) : State :=
  let d := drover s t
  match d.st, earliest s d.waiting with
  | .idle, some e =>
    let k := if s.keys.upSlot = 0 then 0 else 24
    let s1 := setDrover { s with serial := s.serial + 1 } t { d with
      st := .running, fault := 0, pc := 0x010, stack := [], asm := s.serial, w := vectorRegs s t e k, z := false, n := false, c := false
      qData := false, rem := false, ioFail := false, keyed := k != 0, ovr := k, slot := s.keys.upSlot
      frag := rd s (R.TRACT_DROVER_FRAG t), entry := some e, waiting := d.waiting.filter fun x => x.id != e.id
      segs := [], msgs := [], part := false, offer := none, robins := [], begun := false, alu := none, io := none
      settled := none, abort := none }
    fetchWord t ecc s1
  | _, _ => s

/-- ENTRY_VECTOR. -/
def execEntryVector (t : Fin 8) (ecc : Bool) (s : State) : Out := viaCore s (entryVectorEff t ecc)

/-! ### The ALU slot (06 R335) -/

/-- The ALU operations by ALU_OP. -/
inductive AluOp where
  | nop | mov | add | sub | and | or | xor | shl | shr | min | max | cmp | test
  deriving DecidableEq, Repr

/-- ALU_OP. -/
def AluOp.code : AluOp → Nat
  | .nop => 0 | .mov => 1 | .add => 2 | .sub => 3 | .and => 4 | .or => 5 | .xor => 6 | .shl => 7 | .shr => 8
  | .min => 9 | .max => 10 | .cmp => 11 | .test => 12

/-- The operation's result on its operands. -/
def AluOp.val : AluOp → DWord → DWord → DWord
  | .nop, _, _ => 0
  | .mov, _, b => b
  | .add, a, b => a + b
  | .sub, a, b => a - b
  | .and, a, b => a &&& b
  | .or, a, b => a ||| b
  | .xor, a, b => a ^^^ b
  | .shl, a, b => a <<< fld b 0 6
  | .shr, a, b => a >>> fld b 0 6
  | .min, a, b => if a < b then a else b
  | .max, a, b => if a < b then b else a
  | .cmp, a, b => a - b
  | .test, a, b => a &&& b

/-- C after the operation sets flags: the carry of ADD, the borrow of SUB and CMP, else 0 (06 R334). -/
def AluOp.carry : AluOp → DWord → DWord → Bool
  | .add, a, b => decide (2 ^ 64 ≤ a.toNat + b.toNat)
  | .sub, a, b => decide (a < b)
  | .cmp, a, b => decide (a < b)
  | _, _, _ => false

/-- The operation writes ALU_DST. -/
def AluOp.writes : AluOp → Bool
  | .nop => false
  | .cmp => false
  | .test => false
  | _ => true

/-- The operation sets the flags, given SET_FLAGS. -/
def AluOp.setsFlags : AluOp → Bool → Bool
  | .nop, _ => false
  | .cmp, _ => true
  | .test, _ => true
  | _, b => b

/-- What the ALU slot leaves for operands `a` and `b`. -/
def aluOut (op : AluOp) (setFlags : Bool) (a b : DWord) : AluOut :=
  let v := op.val a b
  ⟨v, op.writes, if op.setsFlags setFlags then some (v == 0, v.msb, op.carry a b) else none⟩

/-- Operand B (06 R335). -/
def aluB (d : Drover) (w : BitVec 192) : DWord := if wBImm w then wImm w else wReg d (wB w)

/-- The ALU slot of the word in progress does `op`. -/
def aluEff (op : AluOp) (t : Nat) (s : State) : State :=
  let d := drover s t
  let w := curWord s t
  if d.st = .running ∧ d.alu = none ∧ wAlu w = op.code then
    let s1 := beginWord s t
    setDrover s1 t { drover s1 t with alu := some (aluOut op (wSet w) (wReg d (wA w)) (aluB d w)) }
  else s

/-- ALU_NOP. -/
def execAluNop (t : Fin 8) (s : State) : Out := viaCore s (aluEff .nop t)
/-- MOV. -/
def execMov (t : Fin 8) (s : State) : Out := viaCore s (aluEff .mov t)
/-- ADD. -/
def execAdd (t : Fin 8) (s : State) : Out := viaCore s (aluEff .add t)
/-- SUB. -/
def execSub (t : Fin 8) (s : State) : Out := viaCore s (aluEff .sub t)
/-- AND. -/
def execAnd (t : Fin 8) (s : State) : Out := viaCore s (aluEff .and t)
/-- OR. -/
def execOr (t : Fin 8) (s : State) : Out := viaCore s (aluEff .or t)
/-- XOR. -/
def execXor (t : Fin 8) (s : State) : Out := viaCore s (aluEff .xor t)
/-- SHL. -/
def execShl (t : Fin 8) (s : State) : Out := viaCore s (aluEff .shl t)
/-- SHR. -/
def execShr (t : Fin 8) (s : State) : Out := viaCore s (aluEff .shr t)
/-- MIN. -/
def execMin (t : Fin 8) (s : State) : Out := viaCore s (aluEff .min t)
/-- MAX. -/
def execMax (t : Fin 8) (s : State) : Out := viaCore s (aluEff .max t)
/-- CMP. -/
def execCmp (t : Fin 8) (s : State) : Out := viaCore s (aluEff .cmp t)
/-- TEST. -/
def execTest (t : Fin 8) (s : State) : Out := viaCore s (aluEff .test t)

/-! ### The IO slot (06 R336-R343) -/

/-- The IO slot of the word in progress, whose IO_OP is `op`, does `f`; `f` answers none while the word waits. -/
def ioEff (op : Nat) (f : Nat → State → Option (IoOut × State)) (t : Nat) (s : State) : State :=
  let d := drover s t
  if d.st = .running ∧ d.io = none ∧ wIo (curWord s t) = op then
    let s1 := beginWord s t
    match f t s1 with
    | some (o, s2) => setDrover s2 t { drover s2 t with io := some o }
    | none => s1
  else s

/-- The room in IO_SRC. -/
def ioRoom (s : State) (t : Nat) : Nat := (wReg (drover s t) (wIoSrc (curWord s t))).toNat

/-- NOP. -/
def ioNop (_ : Nat) (s : State) : Option (IoOut × State) := some ({}, s)

/-- HEAD: the next frame is put on offer. -/
def ioHead (t : Nat) (s : State) : Option (IoOut × State) :=
  let d := drover s t
  if waitsQueue s t then none
  else
    let o := droverOffer s d d.segs
    let w := offerWord s d o
    some ({ dst := some (BitVec.ofNat 64 (fld w 0 16)), w15 := some w, offer := some (offerFlags o) },
      setDrover s t { d with offer := o.map fun x => (x.1, x.2.tok.uid) })

/-- TAKE_RUN: whole frames are reserved while they fit. -/
def ioTakeRun (t : Nat) (s : State) : Option (IoOut × State) :=
  let d := drover s t
  let n := runLimit (curWord s t)
  let aid := (d.entry.map (·.aid)).getD 0
  let (r, s1) := takeFrames d aid n s d.segs (ioRoom s t) 0 []
  if r.ready then
    some ({ dst := some (BitVec.ofNat 64 r.room), w15 := some (offerWord s1 d r.offer), offer := some (offerFlags r.offer)
            fail := some (decide (r.count < n)) },
      setDrover s1 t { d with segs := r.segs, robins := d.robins ++ r.moved, offer := r.offer.map fun x => (x.1, x.2.tok.uid) })
  else none

/-- The frame on offer, if it is still there. -/
def onOffer (s : State) (d : Drover) : Option (Nat × QFrame) :=
  match d.offer with
  | some (q, uid) => ((queue s q).frames.find? fun f => f.tok.uid == uid).map fun f => (q, f)
  | none => none

/-- MIN_FRAG as it stood at the entry vector (06 R348). -/
def minFrag (d : Drover) : Nat := Nat.max 64 (fld d.frag 16 14)

/-- The bytes that TAKE_PART would take of a frame, if it is not refused (06 R337). -/
def partBytes (s : State) (d : Drover) (room : Nat) (q : Nat) (f : QFrame) : Option Nat :=
  let n := Nat.min (room - 8 - d.ovr) (f.remain - minFrag d)
  if bit d.frag (qPrio s q) && !d.part && decide (minFrag d ≤ n) then some n else none

/-- TAKE_PART: the first bytes of the frame on offer are reserved. -/
def ioTakePart (t : Nat) (s : State) : Option (IoOut × State) :=
  let d := drover s t
  let room := ioRoom s t
  match onOffer s d with
  | some (q, f) =>
    match partBytes s d room q f with
    | some n =>
      some ({ dst := some (BitVec.ofNat 64 room - BitVec.ofNat 64 (segBytes d.ovr n)), fail := some false },
        setDrover s t { d with
          segs := d.segs ++ [⟨q, f.tok.uid, f.carried, f.carried + n, false⟩], part := true, offer := none })
    | none => some ({ fail := some true }, s)
  | none => some ({ fail := some true }, s)

/-- Padded bytes of messages (03 R192). -/
def msgBytes (l : List Msg) : Nat := l.foldl (fun n m => n + roundUp m.bytes.length 8) 0

/-- Messages in queue order that fit the room and the assembly's 2,048 bytes: those taken, those left. -/
def takeMsgs : List Msg → Nat → Nat → List Msg × List Msg
  | [], _, _ => ([], [])
  | m :: l, room, used =>
    let b := roundUp m.bytes.length 8
    if b ≤ room ∧ used + b ≤ 2048 then
      let (a, r) := takeMsgs l (room - b) (used + b)
      (m :: a, r)
    else ([], m :: l)

/-- MSG: pending terminal messages are reserved. -/
def ioMsg (t : Nat) (s : State) : Option (IoOut × State) :=
  let d := drover s t
  let room := ioRoom s t
  let (a, r) := takeMsgs s.msgs room (msgBytes d.msgs)
  some ({ dst := some (BitVec.ofNat 64 (room - msgBytes a)), fail := some (!r.isEmpty) },
    setDrover { s with msgs := r } t { d with msgs := d.msgs ++ a })

/-! ### COMMIT and ABANDON (06 R343, R352, R354, R917) -/

/-- A reserved segment is removed from its queue (06 R343). -/
def removeTaken (s : State) (k : Taken) : Option Seg × State :=
  let x := queue s k.q
  match x.frames.find? fun f => f.tok.uid == k.uid with
  | some f =>
    let (a, b, shared) := splitChunks f.parts (k.upto - f.carried)
    let rest := if k.upto < f.stop then [{ f with carried := k.upto, parts := b }] else []
    let frames := x.frames.flatMap fun g => if g.tok.uid = k.uid then rest else [g]
    let s1 := holdAll (setQueue s k.q { x with frames := frames }) shared
    (some ⟨k.q, qPrio s k.q, { f with stop := k.upto, parts := a }, k.last⟩, evalPressure s1 k.q)
  | none => (none, s)

/-- Every reserved segment is removed, in reservation order. -/
def removeAll : List Taken → State → List Seg × State
  | [], s => ([], s)
  | k :: l, s =>
    let (g, s1) := removeTaken s k
    let (gs, s2) := removeAll l s1
    (g.toList ++ gs, s2)

/-- Segment bytes of frame bytes: header, overhead and padding (03 R174). -/
def Seg.size (k : Nat) (g : Seg) : Nat := segBytes k g.frame.remain

/-- The output time of a reach instant (log 38, DEDUCED). -/
def outAt (s : State) (r : DWord) : DWord := outNow s + (r - reachNow s)

/-- A frame that the transparent clock corrects at the line: a PTP event frame from a client port selected by PORTS whose first segment
this is (11 R639). -/
def tcUpstream (s : State) (f : QFrame) (k : Taken) : Bool :=
  let c := rd s R.TIME_TC_CTL
  match f.tok.src with
  | .client p => bit c 31 && bit c p && k.from_ == 0
  | _ => false

/-- A frame's bytes are corrected where they lie for a residence up to `egress`; what is needed to undo it (11 R641-R644). -/
def tcWrite (s : State) (q : Nat) (f : QFrame) (egress : DWord) (add : Word) : Option TcSave × State :=
  let b := partsBytes s f.parts
  match ptpEvent b with
  | some p =>
    if f.tok.steps ≠ s.time.steps then (some { q := q, uid := f.tok.uid, steps := f.tok.steps, step := true }, s)
    else
      let (new, sat) := tcApply b p (egress - f.tok.stamp) add
      let cf := p.ptp + 8
      let old := (cf, slice b cf 8) :: (match p.udp with | some (i, _) => [(i, slice b i 2)] | none => [])
      (some { q := q, uid := f.tok.uid, steps := f.tok.steps, old := old, sat := sat },
        old.foldl (fun s x => patchParts s f.parts x.1 (slice new x.1 x.2.length)) s)
  | none => (none, s)

/-- The corrections of an assembly's frames, each for its segment's place in the burst's content (11 R640, R642). -/
def tcBurst (launch : DWord) (k : Nat) : List Taken → Nat → State → List TcSave × State
  | [], _, s => ([], s)
  | x :: l, pos, s =>
    let next := pos + segBytes k (x.upto - x.from_)
    match (queue s x.q).frames.find? fun f => f.tok.uid == x.uid with
    | some f =>
      let (r, s1) :=
        if tcUpstream s f x then
          let at_ := launch + BitVec.ofNat 64 (rfld s R.LINE_BURST_P 0 16 * blockUnits + rowOffset pos)
          tcWrite s x.q f (outAt s at_) (rd s (R.TIME_TC_ADD 0))
        else (none, s)
      let (rs, s2) := tcBurst launch k l next s1
      (r.toList ++ rs, s2)
    | none => tcBurst launch k l next s

/-- The headgate accepts the assembly of entry `e` (06 R343, R352, R355). -/
def acceptCommit (t : Nat) (e : Entry) (u : Upset) (s : State) : State :=
  let d := drover s t
  let slack := (handoffAt s e - reachNow s).toNat
  let (tc, s0) := tcBurst (launchAt s e) d.ovr d.segs (64 + msgBytes d.msgs) s
  let (segs, s1) := removeAll d.segs s0
  let s2 := addBurst s1 { entry := e, launch := launchAt s e, kind := .data, tract := t, segs := segs, msgs := d.msgs
                          reports := reportsOf s1 e.aid, slot := d.slot, ovr := d.ovr, robins := d.robins, tc := tc, asm := d.asm }
  let s3 := tractEvent (tractEvent (stageBursts (upset s2 u)) t .commit 1) t .remove (d.segs.filter (·.last)).length
  let s4 := slackAdd (closeAccount s3 t true) t slack
  setDrover s4 t { drover s4 t with segs := [], msgs := [], robins := [], settled := some true }

/-- The headgate refuses the assembly of entry `e`, which goes to a fallback burst; under an abort for HOLD, SILENT or the deadline it has been
dealt with (06 R352, R353, R375, 05 R312). -/
def refuseCommit (t : Nat) (e : Entry) (s : State) : State :=
  let s1 := closeAccount (cancelReservations t s) t false
  let a := (drover s t).abort
  let s2 := if a.isNone || a == some .reload then gateBurst .fallback e s1 else s1
  setDrover s2 t { drover s2 t with settled := some false }

/-- COMMIT. -/
def ioCommit (u : Upset) (t : Nat) (s : State) : Option (IoOut × State) :=
  match (drover s t).entry with
  | some e =>
    if 0 ≤ lead (reachNow s) (handoffAt s e) then some ({}, refuseCommit t e s)
    else if 64 ≤ waitingBursts s || barredAt s t (commitBanks s t) then none
    else some ({}, acceptCommit t e u (takeBanks (bankWaits s) t (commitBanks s t) s))
  | none => some ({}, s)

/-- ABANDON. -/
def ioAbandon (t : Nat) (s : State) : Option (IoOut × State) := some ({}, cancelReservations t s)

/-- IO_NOP. -/
def execIoNop (t : Fin 8) (s : State) : Out := viaCore s (ioEff 0 ioNop t)
/-- HEAD. -/
def execHead (t : Fin 8) (s : State) : Out := viaCore s (ioEff 1 ioHead t)
/-- TAKE_RUN. -/
def execTakeRun (t : Fin 8) (s : State) : Out := viaCore s (ioEff 2 ioTakeRun t)
/-- TAKE_PART. -/
def execTakePart (t : Fin 8) (s : State) : Out := viaCore s (ioEff 3 ioTakePart t)
/-- MSG. -/
def execMsg (t : Fin 8) (s : State) : Out := viaCore s (ioEff 4 ioMsg t)
/-- COMMIT, with what the cistern's ECC finds on the reads of the gather. -/
def execCommit (t : Fin 8) (u : Upset) (s : State) : Out := viaCore s (ioEff 5 (ioCommit u) t)
/-- ABANDON. -/
def execAbandon (t : Fin 8) (s : State) : Out := viaCore s (ioEff 6 ioAbandon t)

/-! ### The next address (06 R332-R334, R917) -/

/-- The flags and registers as they stand after both slots of the word (06 R329, R334). -/
def applySlots (w : BitVec 192) (a : AluOut) (o : IoOut) (n : Nat) (d : Drover) : Drover :=
  let r1 := if a.write then put 0 d.w (wAluDst w) a.val else d.w
  let r2 := match o.dst with | some v => put 0 r1 (wIoDst w) v | none => r1
  let keepDst := wIoDst w == 15 && o.dst.isSome && Config.pick n
  let r3 := match o.w15 with | some v => if keepDst then r2 else put 0 r2 15 v | none => r2
  let (z, ng, c) := a.flags.getD (d.z, d.n, d.c)
  let (qd, rm) := o.offer.getD (d.qData, d.rem)
  { d with w := r3, z := z, n := ng, c := c, qData := qd, rem := rm, ioFail := o.fail.getD d.ioFail }

/-- The condition of a word on these flags (06 R334). -/
def condHolds (s : State) (w : BitVec 192) (d : Drover) : Bool :=
  let e := d.entry.getD {}
  let b := match wCond w with
    | 0 => true
    | 1 => d.z
    | 2 => d.n
    | 3 => d.c
    | 4 => d.qData
    | 5 => d.rem
    | 6 => d.ioFail
    | 7 => e.gaspOk
    | 8 => e.report
    | 9 => d.keyed
    | 10 => !s.msgs.isEmpty
    | _ => d.stack.isEmpty
  b != wInv w

/-- Where a word goes: an address with the micro-stack then, the end of the assembly, or a stack fault. -/
inductive Next where
  | go (pc : Nat) (stack : List Nat)
  | stop
  | fault (code : Nat)
  deriving DecidableEq, Repr

/-- The next address (06 R332, R333). -/
def nextAddress (w : BitVec 192) (d : Drover) (alu : DWord) (cond : Bool) : Next :=
  let up := (d.pc + 1) % 4096
  match wSeq w with
  | 0 => .go up d.stack
  | 1 => .go (if cond then wTarget w else up) d.stack
  | 2 => if cond then (if 8 ≤ d.stack.length then .fault 9 else .go (wTarget w) (d.stack ++ [up])) else .go up d.stack
  | 3 => if cond then (match d.stack.getLast? with | some a => .go a d.stack.dropLast | none => .fault 10) else .go up d.stack
  | 4 => .go ((wTarget w + fld alu 0 4) % 4096) d.stack
  | _ => .stop

/-- The word completes with SEQ `seq`: results are written, and the drover goes on, ends its assembly, faults, or takes an abort. -/
def seqEff (seq : Nat) (t : Nat) (ecc : Bool) (s : State) : State :=
  let d := drover s t
  let w := curWord s t
  match d.alu, d.io with
  | some a, some o =>
    if d.st = .running ∧ wSeq w = seq then
      let both := wIoDst w == 15 && o.dst.isSome && o.w15.isSome
      let d1 := applySlots w a o s.free d
      let s0 := if both then draw1 s else s
      match nextAddress w d1 a.val (condHolds s w d1) with
      | .fault code => stopDrover t code s0
      | .stop =>
        let s1 := setDrover s0 t { d1 with pc := d.pc }
        if d.settled.isSome then
          toIdle t (recallBurst t (chargeOpen s1 t (if d.settled = some true then clsCarried else clsSpent)))
        else
          let s2 := closeAccount (cancelReservations t s1) t false
          let s3 := match d.entry with
            | some e => if d.abort.isNone then gateBurst .fallback e s2
                        else if d.abort = some .reload then gateBurst .held e s2 else s2
            | none => s2
          toIdle t s3
      | .go pc st =>
        let s1 := setDrover s0 t { d1 with pc := pc, stack := st, alu := none, io := none, begun := false, tagNow := false }
        if d.abort.isSome then takeAbort t s1 else fetchWord t ecc s1
    else s
  | _, _ => s

/-- NEXT. -/
def execNext (t : Fin 8) (ecc : Bool) (s : State) : Out := viaCore s (seqEff 0 t ecc)
/-- BRANCH. -/
def execBranch (t : Fin 8) (ecc : Bool) (s : State) : Out := viaCore s (seqEff 1 t ecc)
/-- CALL. -/
def execCall (t : Fin 8) (ecc : Bool) (s : State) : Out := viaCore s (seqEff 2 t ecc)
/-- RETURN. -/
def execRet (t : Fin 8) (ecc : Bool) (s : State) : Out := viaCore s (seqEff 3 t ecc)
/-- DISPATCH. -/
def execDispatch (t : Fin 8) (ecc : Bool) (s : State) : Out := viaCore s (seqEff 4 t ecc)
/-- IDLE. -/
def execIdle (t : Fin 8) (s : State) : Out := viaCore s (seqEff 5 t false)

/-! ### RESTART and the hand-off deadline (06 R348, R353) -/

/-- TRACT_DROVER_CTL.RESTART. -/
def droverRestartEff (t : Nat) (v : Word) (s : State) : State :=
  let d := drover s t
  if bit v 0 && d.st == .stopped then setDrover s t { d with st := .idle, fault := 0, stack := [] } else s

/-- DROVER_RESTART. -/
def execDroverRestart (t : Fin 8) (v : Word) (s : State) : Out := viaBar s (droverRestartEff t v)

/-- DROVER_LATE is recorded (06 R353, 16 R852). -/
def droverLate (t inst : Nat) (e : Entry) (s : State) : State :=
  fault (setPace s t { pace s t with late := true }) (.tract t) 13 inst (entryIdent e)

/-- The hand-off deadline of an entry has come. -/
def pastHandoff (s : State) (e : Entry) : Bool := decide (0 ≤ lead (reachNow s) (handoffAt s e))

/-- The hand-off deadline of the entry in assembly, of one whose assembly faulted, or of the earliest that waits passes (06 R353); an assembly
that a reload is about to abort still meets its deadline (06 R375). -/
def handoffEff (t : Nat) (s : State) : State :=
  let d := drover s t
  let cur := d.entry.filter fun e =>
    d.st == .running && (d.abort.isNone || d.abort == some .reload) && d.settled.isNone && pastHandoff s e
  match cur with
  | some e => sendAbort .deadline t (droverLate t d.pc e (gateBurst .fallback e (setDrover s t { d with abort := none })))
  | none =>
    match d.faulted.find? (pastHandoff s) with
    | some e => setDrover (gateBurst .fallback e s) t { d with faulted := d.faulted.filter fun x => x.id != e.id }
    | none =>
      match earliest s (d.waiting.filter (pastHandoff s)) with
      | some e =>
        droverLate t wholeBlock e
          (setDrover (gateBurst .fallback e s) t { d with waiting := d.waiting.filter fun x => x.id != e.id })
      | none => s

/-- HANDOFF_DEADLINE. -/
def execHandoffDeadline (t : Fin 8) (s : State) : Out := viaCore s (handoffEff t)

end Sys2Proof.Machine
end

