-- ==== Sys2Proof/Machine/Launch.lean ====
section
/-!
DEFINITION. Bursts at the headgate (06 R351-R374, 03 R185-R196): launch, manifest, gather and trailer, cancelling, the wait after
a REGISTER burst, the preamble and the dying gasp. Rows LAUNCH_COMMIT, REGISTER_WAIT_END, LINE_HG_PREAMBLE, PREAMBLE_TRANSFER,
LINE_GASP_CTL.
-/
namespace Sys2Proof.Machine

/-! ### The parts of a burst (03 R173, R174, R188-R196) -/

/-- What a manifest says beyond what the device always sends. -/
structure Manifest where
  tid     : Nat
  kind    : Nat
  seq     : Word
  aid     : Nat
  reports : Option (List Nat)
  start   : Nat
  msgs    : Nat
  segs    : Nat
  data    : Bytes
  deriving DecidableEq, Repr

/-- CAPS (03 R188). -/
def capsWord (s : State) : Nat := b2n (hasCipher s) + 2 * b2n (hasB s) + 16 * tractCount s

/-- A fold tag: two letters, TERMINAL_ID and BURST_SEQ (03 R144). -/
def foldTag (c : Byte) (tid : Nat) (seq : Word) : Bytes := [0x44#8, c] ++ beBytes 2 tid ++ beBytes 4 seq.toNat

/-- The 64 bytes of a manifest (03 R188, R189). -/
def manifestBytes (s : State) (m : Manifest) : Bytes :=
  let b := beBytes 2 (m.tid * 16 + m.kind) ++ beBytes 4 m.seq.toNat
    ++ beBytes 2 (m.aid * 64 + (if m.msgs = 0 then 0 else 32) + (if m.reports.isSome then 16 else 0))
    ++ (List.range 8).flatMap (fun p => beBytes 3 ((m.reports.getD []).getD p 0))
    ++ beBytes 6 m.start ++ beBytes 2 m.msgs ++ beBytes 4 m.segs ++ beBytes 4 (capsWord s) ++ padTo m.data 12
  b ++ beBytes 4 (crc32c (foldTag 0x4D#8 m.tid m.seq ++ b)).toNat

/-- The message area (03 R192); a message keeps the ID that it was built with (log 160, DESIGN CHOICE). -/
def messageArea (l : List Msg) : Bytes := l.flatMap fun m => padTo m.bytes (roundUp m.bytes.length 8)

/-- FRAG of a segment (03 R173). -/
def Seg.frag (g : Seg) : Nat := if g.frame.carried = 0 then (if g.last then 3 else 2) else b2n g.last

/-- A segment header (03 R173, R194). -/
def segHeader (tid aid ovr slot : Nat) (g : Seg) : Bytes :=
  let b := beBytes 6 (tid * 2 ^ 36 + (aid * 64 + g.prio * 8) * 2 ^ 20 + (ovr + g.frame.remain) * 2 ^ 6 + g.frag * 2 ^ 4 + slot)
  b ++ beBytes 2 (crc16 b).toNat

/-- The upstream key of a slot; of an emptied one the model takes an empty key (03 R177; log 62, DESIGN CHOICE). -/
def upKey (s : State) (slot : Nat) : UpKey := (look none s.keys.up slot).getD {}

/-- The next PN of an upstream key is used (03 R178). -/
def nextPn (s : State) (slot : Nat) : State :=
  match look none s.keys.up slot with
  | some k => { s with keys := { s.keys with up := put none s.keys.up slot (some { k with pn := k.pn + 1 }) } }
  | none => s

/-- One segment of the frame bytes `text`, `bad` where they end early: what it puts into the content (03 R173, R177, 06 R360). -/
def sendSeg (tid aid ovr slot : Nat) (g : Seg) (text : Bytes) (bad : Bool) (s : State) : State × Bytes :=
  let hdr := segHeader tid aid ovr slot g
  if slot = 0 then (s, if bad then hdr ++ text else padTo (hdr ++ text) (segBytes 0 text.length))
  else
    let k := upKey s slot
    let pn := beBytes 8 k.pn
    let iv := k.salt ++ pn
    let cipher := gcmApply k.key iv text
    let b := hdr ++ pn ++ cipher
    let s1 := nextPn s slot
    if bad then (s1, b)
    else
      let all := b ++ gcmTagOf k.key iv hdr cipher
      (s1, padTo all (roundUp all.length 8))

/-- The segment area from the gathered bytes `text`, up to `room` bytes of it: its bytes, and whether the text ended early. -/
def sendSegs (tid aid ovr slot : Nat) : List Seg → Bytes → Nat → State → State × Bytes × Bool
  | [], _, _, s => (s, [], false)
  | g :: l, text, room, s =>
    if room = 0 then (s, [], false)
    else
      let bad := decide (text.length < g.frame.remain)
      let (s1, b) := sendSeg tid aid ovr slot g (text.take g.frame.remain) bad s
      if bad then (s1, b, true)
      else
        let (s2, bs, bad2) := sendSegs tid aid ovr slot l (text.drop g.frame.remain) (room - b.length) s1
        (s2, b ++ bs, bad2)

/-- Bytes of the segment area (03 R188). -/
def segArea (b : Burst) : Nat := b.segs.foldl (fun n g => n + g.size b.ovr) 0

/-! ### The transparent clock at the line (11 R643-R645) -/


/-- A frame counts at the launch commit of the burst with its first segment; one whose residence spans an output step is sent as it
came (11 R643-R645). -/
def tcLaunch (s : State) (x : TcSave) : State :=
  if x.step || x.steps != s.time.steps then event (bump (tcRestore s x) R.TIME_TC_CNT_STEP) R.TIME_EVENT 13
  else
    let s1 := bump s R.TIME_TC_CNT
    if x.sat then bump s1 R.TIME_TC_CNT_SAT else s1

/-! ### Cancelling (06 R356 step 1, R368) -/

/-- The kind of the entry that a burst answers. -/
def BurstKind.entryKind : BurstKind → Kind
  | .register => .register
  | .range => .range
  | _ => .data

/-- A REGISTER burst that 04 R228 no longer allows: the route is not known, the band is another, or a wait or skip runs. -/
def windowShut (s : State) (b : Burst) : Bool :=
  b.kind == .register && !(routeKnown s && bandOpen s b.entry && s.line.wait.isNone && s.line.skip == 0)

/-- A burst of a DATA entry while LINE_EQD.VALID is 0 (04 R225). -/
def lacksEqd (s : State) (b : Burst) : Bool := b.kind.entryKind == .data && !ranged s

/-- The launch commit cancels the burst: its kind is no longer launched, its entry has been removed (R253), or R225 or R228 of 04 forbids it. -/
def cancels (s : State) (b : Burst) : Bool :=
  !launches s b.kind.entryKind || !inTable s b.entry.id || windowShut s b || lacksEqd s b

/-- A burst that is not launched (04 R225, 05 R312, 06 R368). -/
def cancelBurst (b : Burst) (s : State) : State :=
  let s1 := stageBursts (returnBurst s b)
  if inTable s b.entry.id then
    countOut s1 b.entry.id
      (if launches s b.kind.entryKind && lacksEqd s b then R.LINE_CNT_ALLOT_UNRANGED else R.LINE_CNT_ALLOT_HELD)
  else s1

/-! ### Launching (06 R356-R373) -/

/-- The burst leaves with a gasp manifest (06 R372, R373). -/
def gasps (s : State) (b : Burst) : Bool := b.kind.entryKind == .data && b.entry.gaspOk && gaspPending s

/-- The gasp has left: ARM and PENDING clear, SENT sets, and the launch instant is kept (06 R372). -/
def gaspSent (launch : DWord) (s : State) : State :=
  let g := rd s R.LINE_GASP_CTL
  bump (wr64 (wr s R.LINE_GASP_CTL (setBit (setBit (setBit g 31 false) 30 false) 29 true)) R.LINE_GASP_LAUNCH launch) R.LINE_CNT_GASP

/-- BURST_SEQ of the next burst other than REGISTER (03 R190). -/
def nextSeq (s : State) : Word := s.line.seq.getD 0

/-- The manifest's KIND (03 R189). -/
def manifestKind (s : State) (b : Burst) : Nat :=
  if gasps s b then 3 else match b.kind with | .register => 1 | .range => 2 | .held => 4 | _ => 0

/-- KIND_DATA (03 R189). -/
def kindData (s : State) (b : Burst) : Bytes :=
  if gasps s b then [BitVec.ofNat 8 (tripMask s), 0#8] ++ beBytes 6 s.keeper.rtcSec
  else match b.kind with
    | .register => beBytes 8 s.fuses.serial.toNat
    | .range => beBytes 8 b.launch.toNat
    | _ => []

/-- The manifest of a burst at its launch commit. -/
def manifestOf (s : State) (b : Burst) : Manifest :=
  let reg := b.kind == .register
  let data := b.kind.entryKind == .data
  { tid := if reg then 0xFFF else rfld s R.LINE_TID 0 12, kind := manifestKind s b, seq := if reg then 0 else nextSeq s
    aid := if data then b.entry.aid else 0, reports := if data then some b.reports else none
    start := b.entry.start, msgs := (messageArea b.msgs).length, segs := segArea b, data := kindData s b }

/-- Where the content of a burst is cut short, if it is, and the reason of HG_GATHER (06 R369). -/
def cutShort (dry : Option Nat) (full have_ : Nat) (bad : Bool) : Option (Nat × Nat) :=
  let d := dry.map (Nat.max 64)
  match d with
  | some n => if n < full ∧ (!bad ∨ n ≤ have_) then some (n, 1) else if bad then some (have_, 2) else none
  | none => if bad then some (have_, 2) else none

/-- Reads of a burst that are still to be made as it is sent, none for bytes that would come after the FIFO has run dry at content byte `n`. -/
def lastReads (s : State) (b : Burst) : Option Nat → List (Access × Nat × Nat)
  | none => (gatherReads s b).drop b.reads
  | some n => if n ≤ b.got.length then [] else (gatherReads s b).drop b.reads

/-- The content of a burst whose frame bytes have been gathered: encrypted and ended with its trailer, or cut short (06 R360, R361, R369). -/
def contentOf (m : Manifest) (b : Burst) (dry : Option Nat) (s : State) : State × Bytes :=
  let top := manifestBytes s m ++ messageArea b.msgs
  let full := top.length + m.segs + 8
  let room := match dry with | some n => Nat.max 64 n - top.length | none => m.segs
  let (s1, area, bad) := sendSegs m.tid b.entry.aid b.ovr b.slot b.segs b.got room s
  let body := top ++ area
  match (if b.kind = .data then cutShort dry full body.length bad else none) with
  | some (n, reason) =>
    (fault (bump s1 R.LINE_CNT_HG_GATHER) .line 21 b.entry.aid (BitVec.ofNat 64 (reason * 2 ^ 48 + b.entry.start)), body.take n)
  | none => (s1, body ++ beBytes 4 (crc32c (foldTag 0x54#8 m.tid m.seq ++ body)).toNat ++ List.replicate 4 0#8)

/-- Codeword sets that a burst sends, with P as it is at the launch (03 R185, 06 R320, R361; log 158, DESIGN CHOICE). -/
def setsOf (s : State) (b : Burst) : Nat := if b.kind = .data then codewordSets s b.entry else 1

/-- P in 2^-16 ns. -/
def burstP (s : State) : Nat := rfld s R.LINE_BURST_P 0 16 * blockUnits

/-- When BURST_EN rises (06 R357, R358). -/
def riseAt (s : State) (b : Burst) : DWord :=
  b.launch + BitVec.ofNat 64 (burstP s - Nat.min (rfld s R.LINE_HG_BURST_EN 16 16 * 65536 / 10) (burstP s))

/-- When BURST_EN falls (06 R357, R358): a codeword set lasts 50 ns. -/
def fallAt (s : State) (b : Burst) : DWord :=
  b.launch + BitVec.ofNat 64 (burstP s + setsOf s b * 3276800 + rfld s R.LINE_HG_BURST_EN 0 16 * 65536 / 10)

/-- The BURST_EN edges with those of one more burst: where it would rise no later than the last falls, it stays high (06 R363). -/
def addEdges (rise fall : DWord) : List (DWord × DWord) → List (DWord × DWord)
  | [] => [(rise, fall)]
  | [e] => if lead rise e.2 ≤ 0 then [(e.1, if lead e.2 fall < 0 then fall else e.2)] else [e, (rise, fall)]
  | e :: l => e :: addEdges rise fall l

/-- The bursts launched whose computed rise of BURST_EN has come are counted (05 R313, 06 R358). -/
def countRises (s : State) : State :=
  let here := s.gate.rises.filter fun r => decide (0 ≤ lead (reachNow s) r)
  let s1 := bumpBy s R.LINE_CNT_ALLOT_LAUNCHED here.length
  { s1 with gate := { s1.gate with rises := s.gate.rises.filter fun r => decide (lead (reachNow s) r < 0) } }

/-- A burst whose launch instant has come and whose launch commit has not would rise at or before the fall at `x`: BURST_EN stays high for it
(06 R363). -/
def joins (s : State) (x : DWord) : Bool :=
  s.gate.bursts.any fun b => decide (0 ≤ lead (reachNow s) b.launch) && decide (lead (riseAt s b) x ≤ 0)

/-- The codewords of a logical lane with every bit inverted where LINE_LANES says so of its transmitter (15 R766). -/
def txPolarity (s : State) (l : Nat) (c : BitVec 5600) : BitVec 5600 := if (llByte s l).getLsbD 6 then ~~~c else c

/-- What each pin sends, of what each logical lane carries (15 R766). -/
def onPins (s : State) (lanes : List (List (BitVec 5600))) : List (List (BitVec 5600)) :=
  pins.map fun l => (lanes.getD ((pins.find? fun n => llPin s n == l).getD 0) []).map (txPolarity s l)

/-- The line lanes carry a codeword of IDLE blocks, again and again (06 R362; log 128, DESIGN CHOICE). -/
def sendIdle (s : State) : State := emit s (.lineIdle ((onPins s (burstLanes [] 1)).map fun l => l.headD 0))

/-- The burst leaves on the line lanes, which carry IDLE blocks after it (06 R358-R363, 03 R185-R187). -/
def sendBurst (b : Burst) (content : Bytes) (s : State) : State :=
  let s1 := { s with gate := { s.gate with
    edges := addEdges (riseAt s b) (fallAt s b) s.gate.edges, rises := s.gate.rises ++ [riseAt s b] } }
  sendIdle (emit (countRises s1)
    (.burst (b.launch + BitVec.ofNat 64 (burstP s)) content (onPins s (burstLanes content (setsOf s b)))))

/-- What counts a burst that is launched, but for LINE_CNT_ALLOT_LAUNCHED (03 R190, 04 R229-R236, 06 R367, R376). -/
def countLaunch (b : Burst) (s : State) : State :=
  let s1 := if b.kind = .register then s else { s with line := { s.line with seq := some (nextSeq s + 1) } }
  match b.kind with
  | .register =>
    bump { s1 with line := { s1.line with wait := some (s1.line.convoys + zeroAsOne (rfld s R.LINE_REG_CTL 0 16)) } }
      R.LINE_CNT_REG_SENT
  | .range =>
    let s2 := bump s1 R.LINE_CNT_RANGE_SENT
    if inSub s2 .registered then setSub s2 .ranging else s2
  | .data => s1
  | .fallback => tractEvent (bump s1 R.LINE_CNT_HG_FALLBACK) b.tract .fallback 1
  | .held => tractEvent (bump s1 R.LINE_CNT_HG_HELD) b.tract .held 1

/-- The burst as the headgate holds it. -/
def heldBurst (s : State) (b : Burst) : Burst := (s.gate.bursts.find? fun c => c.entry.id == b.entry.id && c.asm == b.asm).getD b

/-- The burst leaves the headgate. -/
def dropBurst (b : Burst) (s : State) : State :=
  { s with gate := { s.gate with bursts := s.gate.bursts.filter fun c => c.entry.id != b.entry.id || c.asm != b.asm } }

/-- A burst is launched. -/
def launchBurst (b : Burst) (dry : Option Nat) (u : Upset) (s : State) : State :=
  let m := manifestOf s b
  let s1 := if gasps s b then gaspSent b.launch s else s
  let s2 := b.tc.foldl tcLaunch (upset s1 u)
  let c := heldBurst s2 b
  let reads := lastReads s2 c dry
  let (s3, c1, _) := gatherInto reads (reads.foldl (fun n r => n + entryBytes r.2.2) 0) c s2
  let (s4, content) := contentOf m c1 dry s3
  let s5 := sendBurst b content (countLaunch b (dropBurst b s4))
  let s6 := updateEntry (freeChunks s5 (b.segs.flatMap fun g => g.frame.parts)) b.entry.id fun e => { e with stage := .launched }
  stageBursts s6

/-- The burst whose launch instant comes first. -/
def firstBurst : List Burst → Option Burst
  | [] => none
  | b :: l =>
    match firstBurst l with
    | some c => if lead c.launch b.launch < 0 then some c else some b
    | none => some b

/-- The launch commit of the earliest burst whose launch instant has come (06 R356). -/
def launchCommitEff (dry : Option Nat) (u : Upset) (s : State) : State :=
  match firstBurst s.gate.bursts with
  | some b =>
    if lead (reachNow s) b.launch < 0 then s
    else if cancels s b then cancelBurst b s
    else launchBurst b dry u s
  | none => s

/-- LAUNCH_COMMIT. -/
def execLaunchCommit (dry : Option Nat) (u : Upset) (s : State) : Out := viaCore s (launchCommitEff dry u)

/-! ### The wait after a REGISTER burst (04 R230, R231) -/

/-- WAIT convoys have passed without an ASSIGN_ID: the windows to let pass are drawn. -/
def registerWaitEff (s : State) : State :=
  match s.line.wait with
  | some n =>
    if n ≤ s.line.convoys then
      let k := Config.backoff s.fuses.serial s.line.seed s.line.draws
      { s with line := { s.line with
        wait := none, draws := s.line.draws + 1, skip := k % 2 ^ Nat.min (rfld s R.LINE_REG_CTL 26 4) 10 } }
    else s
  | none => s

/-- REGISTER_WAIT_END. -/
def execRegisterWaitEnd (s : State) : Out := viaCore s registerWaitEff

/-! ### The preamble (06 R364-R366) and the gasp register (06 R370-R372) -/

/-- BURST_EN is high. -/
def burstHigh (s : State) : Bool :=
  s.gate.edges.any fun e => decide (0 ≤ lead (reachNow s) e.1) && (decide (lead (reachNow s) e.2 < 0) || joins s e.2)

/-- LINE_HG_PREAMBLE_n takes `v`; the last starts a transfer. -/
def preambleEff (n : Nat) (v : Word) (s : State) : State :=
  let s1 := wr s (R.LINE_HG_PREAMBLE n) v
  if n = 15 then { s1 with gate := { s1.gate with pre := true } } else s1

/-- LINE_HG_PREAMBLE. -/
def execLineHgPreamble (n : Fin 16) (v : Word) (s : State) : Out := viaBar s (preambleEff n v)

/-- A launch instant falls within the next 2 us: one of a burst that waits, or of any entry of the table that has not been launched (06 R365). -/
def launchNear (s : State) : Bool :=
  (s.gate.bursts.any fun b => decide (lead b.launch (reachNow s) ≤ 2000 * 65536))
    || s.table.any fun e =>
      let d := lead (launchAt s e) (reachNow s)
      e.stage != .launched && decide (0 ≤ d) && decide (d ≤ 2000 * 65536)

/-- Bit `i` of the preamble pattern: bit 0 is bit 31 of LINE_HG_PREAMBLE_0 (17 R891). -/
def preambleBit (s : State) (i : Nat) : Bool := rbit s (R.LINE_HG_PREAMBLE (i / 32)) (31 - i % 32)

/-- PRE_D1 and PRE_D0 at the edges of a preamble transfer (17 R891). -/
def preambleEdges (s : State) : List (Bool × Bool) :=
  (List.range 256).map fun k => (preambleBit s (2 * k), preambleBit s (2 * k + 1))

/-- The transfer runs while BURST_EN is low and no launch instant falls within the next 2 us (06 R365). -/
def preambleTransferEff (s : State) : State :=
  if s.gate.pre && !burstHigh s && !launchNear s then
    emit { s with gate := { s.gate with pre := false } } (.preamble (preambleEdges s))
  else s

/-- PREAMBLE_TRANSFER. -/
def execPreambleTransfer (s : State) : Out := viaCore s preambleTransferEff

/-- LINE_HG_STATUS (06 R366). -/
def hgStatus (s : State) : Word := pack [(9, b2n s.gate.pre), (8, b2n (burstHigh s)), (0, waitingBursts s)]

/-- LINE_GASP_CTL takes `v`: a 0 in ARM clears PENDING (06 R370, R371). -/
def gaspCtlEff (v : Word) (s : State) : State :=
  let s1 := wrField s R.LINE_GASP_CTL v 0x80000000 0x20000000
  if bit v 31 then s1 else wr s1 R.LINE_GASP_CTL (setBit (rd s1 R.LINE_GASP_CTL) 30 false)

/-- LINE_GASP_CTL. -/
def execLineGaspCtl (v : Word) (s : State) : Out := viaBar s (gaspCtlEff v)

end Sys2Proof.Machine
end

