-- ==== Sys2Proof/Machine/Reservoir.lean ====
section
/-!
DEFINITION. The reservoir (08 R450-R476): spilling pages, drawing them back, failures of beats and metadata, broken queues and
halted channels. Rows SPILL, SPILL_PAGE_ACCEPTED, DRAW, DRAW_PAGE_ARRIVED, RES_HALT, BUFFER_Q_RECOVER.
-/
namespace Sys2Proof.Machine

/-! ### Channels and pages (08 R459-R468) -/

/-- Bytes of a page (08 R451). -/
abbrev pageSize : Nat := 4096

/-- The key of a page in the state: channel and page number. -/
def pageKey (ch page : Nat) : Nat := ch * 2 ^ 23 + page

/-- The channel of a page. -/
def keyChan (k : Nat) : Nat := k / 2 ^ 23

/-- The number of a page within its channel. -/
def keyPage (k : Nat) : Nat := k % 2 ^ 23

/-- Channel `ch`. -/
def chan (s : State) (ch : Nat) : Channel := look {} s.res.chans ch

/-- Channel `ch` set. -/
def setChan (s : State) (ch : Nat) (c : Channel) : State := { s with res := { s.res with chans := put {} s.res.chans ch c } }

/-- The channel is enabled and trained. -/
def chanEnabled (s : State) (ch : Nat) : Bool := rbit s (R.BUFFER_RES_CH_CFG ch) 31 && rbit s (R.BUFFER_RES_CH_CFG ch) 29

/-- The channel is halted (08 R475). -/
def chanHalted (s : State) (ch : Nat) : Bool := rbit s (R.BUFFER_RES_CH_CFG ch) 28

/-- The enabled channels, rising. -/
def enabledChans (s : State) : List Nat := (List.range 8).filter (chanEnabled s)

/-- Pages that a channel of a capacity in GiB holds (08 R462). -/
def chanPages (gib : Nat) : Nat := gib * 245760

/-- Pages of channel `ch`. -/
def pagesOf (s : State) (ch : Nat) : Nat := chanPages (rfld s (R.BUFFER_RES_CH_CFG ch) 0 6)

/-- Free pages of all channels. -/
def pagesFree (s : State) : Nat := (enabledChans s).foldl (fun n ch => n + (chan s ch).free) 0

/-- Pages in use: those of the queues, and those being written. -/
def pagesUsed (s : State) : Nat :=
  s.queues.foldl (fun n e => n + e.2.pages.length) 0 + (s.res.chans.filter fun e => e.2.writing.isSome).length

/-- The threshold of RES_LOW in pages; 0 disables it (08 R468). -/
def lowMark (s : State) : Nat := rfld s R.BUFFER_RES_LOW_WM 0 10 * 65536

/-- RES_LOW sets when the free pages have fallen below the threshold since `old` (08 R468). -/
def checkLow (old s : State) : State :=
  if lowMark s ≤ pagesFree old ∧ pagesFree s < lowMark s then event s R.BUFFER_EVENT 1 else s

/-- The most pages in use are kept. -/
def notePeak (s : State) : State :=
  if rfld s R.BUFFER_RES_USED_PEAK 0 26 < pagesUsed s then wr s R.BUFFER_RES_USED_PEAK (BitVec.ofNat 32 (pagesUsed s)) else s

/-- A channel can take a page: enabled, not halted, with a free page (08 R455). -/
def chanOpen (s : State) (ch : Nat) : Bool := chanEnabled s ch && !chanHalted s ch && (chan s ch).free != 0

/-- The next channel of the rotation after `last` (08 R455). -/
def nextChan (s : State) : Option Nat := ((List.range 8).map fun i => (s.res.turn + 1 + i) % 8).find? (chanOpen s)

/-- The address of a byte of a page as an access counter sees it (14 R751). -/
def pageAddr (k off : Nat) : Nat := keyChan k * 2 ^ 35 + keyPage k * pageSize + off

/-- The channel that holds the mirror copy of the metadata of the pages of channel `ch` (08 R465). -/
def mirrorChan (s : State) (ch : Nat) : Nat :=
  let l := enabledChans s
  l.getD ((l.idxOf ch + 1) % l.length) ch

/-! ### What of a queue can spill (08 R450-R454) -/

/-- Bytes of a list of chunks. -/
def partsLen (l : List Chunk) : Nat := l.foldl (fun n c => n + c.len) 0

/-- How many bytes of a frame lie before the tail segment: none where the queue has no pages, and all of it is its head segment (08 R450); while a
page of its bytes is being written, what lies before that page's first byte (R453). -/
def beforeCut (x : Queue) (f : QFrame) : Nat :=
  if x.pages.isEmpty && !x.writing then 0
  else if f.tok.uid < x.cut.1 then partsLen f.parts
  else if f.tok.uid = x.cut.1 then x.cut.2 - f.carried
  else 0

/-- The chunks of a frame that lie behind the reservoir segment. -/
def behindParts (x : Queue) (f : QFrame) : List Chunk := (splitChunks f.parts (beforeCut x f)).2.1

/-- The frames behind the reservoir segment with the chunks of each that lie behind it (08 R450). -/
def behind (x : Queue) : List (QFrame × List Chunk) :=
  (x.frames.map fun f => (f, behindParts x f)).filter fun e => !e.2.isEmpty

/-- A drover has reserved the frame, or has it on offer (08 R452). -/
def locked (s : State) (uid : Nat) : Bool :=
  s.drovers.any fun e => e.2.st == .running && ((e.2.segs.any fun k => k.uid == uid) || (e.2.offer.map (·.2)) == some uid)

/-- The frames of queue `q` with the chunks that can spill. -/
def spillable (s : State) (q : Nat) : List (QFrame × List Chunk) :=
  (behind (queue s q)).filter fun x => !locked s x.1.tok.uid

/-- Spillable bytes of queue `q`. -/
def spillBytes (s : State) (q : Nat) : Nat := (spillable s q).foldl (fun n x => n + partsLen x.2) 0

/-- Bytes of queue `q` in the cistern. -/
def residentBytes (s : State) (q : Nat) : Nat :=
  (queue s q).frames.foldl (fun n f => n + partsLen (f.parts.filter Chunk.inCistern)) 0

/-- Spill is wanted from queue `q`, and a page of it can be filled (08 R451, R454). -/
def spillWanted (s : State) (q : Nat) : Bool :=
  let wm := rfld s (R.QUEUE_Q_LIMIT q) 16 16
  let gwm := rfld s R.BUFFER_CIS_SPILL_WM 0 12
  ((wm != 0 && decide (wm * 65536 < residentBytes s q)) || (gwm != 0 && decide (gwm * 256 < (queuedGranules s).length)))
    && decide (pageSize ≤ spillBytes s q) && !(queue s q).writing

/-- The queues that hold anything, from after `last` round. -/
def queuesAfter (s : State) (last : Nat) : List Nat :=
  let l := s.queues.map (·.1)
  (l.filter fun q => decide (last < q)) ++ l.filter fun q => decide (q ≤ last)

/-- The queue whose turn it is to spill (08 R455). -/
def nextSpill (s : State) : Option Nat := (queuesAfter s s.res.qturn).find? (spillWanted s)

/-! ### A page's record stream (08 R451) -/

/-- A piece of a page: header bytes or bytes of a frame, its offset and length. -/
structure Piece where
  hdr : Bool
  uid : Nat
  off : Nat
  len : Nat
  deriving DecidableEq, Repr

/-- The pieces of a page from offset `off` on, for frames with their bytes and the header bytes still to write, and what `Queue.header`
then holds: one more than the header bytes owed of the last frame when none of its bytes is in the page, else 0. -/
def fillPage : List (Nat × Nat × Nat) → Nat → List Piece × Nat
  | [], _ => ([], 0)
  | (uid, n, h) :: l, off =>
    if pageSize ≤ off then ([], 0)
    else
      let h1 := Nat.min h (pageSize - off)
      let k := Nat.min n (pageSize - off - h1)
      let p := (if h1 = 0 then [] else [⟨true, uid, off, h1⟩]) ++ (if k = 0 then [] else [⟨false, uid, off + h1, k⟩])
      if k = 0 then (p, h - h1 + 1)
      else
        let r := fillPage l (off + h1 + k)
        (p ++ r.1, r.2)

/-- What queue `q` gives a page: each frame, its bytes, and the header bytes to write before them. -/
def spillInput (s : State) (q : Nat) : List (Nat × Nat × Nat) :=
  let x := queue s q
  (spillable s q).map fun e =>
    let f := e.1
    let begun := !x.pages.isEmpty && f.tok.uid == x.cut.1
    (f.tok.uid, partsLen e.2, if begun then x.header - 1 else 16)

/-- Where the tail of queue `q` begins behind a page of these pieces: in the frame of the last piece, after the bytes that the page takes of
it. -/
def tailAfter (s : State) (q : Nat) (ps : List Piece) : Nat × Nat :=
  match ps.getLast? with
  | some p =>
    match (spillable s q).find? fun e => e.1.tok.uid == p.uid with
    | some e => (p.uid, e.1.stop - partsLen e.2 + (if p.hdr then 0 else p.len))
    | none => (p.uid, 0)
  | none => (0, 0)

/-- The bytes of a frame that a page takes. -/
def pieceChunks (s : State) (q uid len : Nat) : List Chunk :=
  match (spillable s q).find? fun x => x.1.tok.uid == uid with
  | some x => (splitChunks x.2 len).1
  | none => []

/-- Which beats of a page carry the poison of the cistern words that a piece was read from (08 R443). -/
def pieceBeats (s : State) (off : Nat) (runs : List (Nat × Nat)) : List Nat :=
  let addrs := runs.flatMap fun r => (List.range r.2).map fun i => r.1 + i
  (addrs.zipIdx.filter fun x => s.cistern.poison.contains (x.1 / 8)).foldl (fun l x => setIns ((off + x.2) / 8) l) []

/-- The accesses that spill and draw make for a frame of queue `q` (14 R751). -/
def bufferAccess (s : State) (q uid : Nat) : Access :=
  let port := (((queue s q).frames.find? fun f => f.tok.uid == uid).map fun f => f.tok.port).getD 17
  { addr := 0, bytes := 0, master := 5, cls := some (qPrio s q), priv := privPort s port }

/-- A piece read for a page: the bytes, the poisoned beats, and the reads counted. -/
def readPiece (q : Nat) (x : State × Bytes × List Nat) (p : Piece) : State × Bytes × List Nat :=
  let (s, b, bad) := x
  if p.hdr then (draw1 s, b ++ (List.range p.len).map (Config.freeByte s.free), bad)
  else
    let r := chunkRuns (pieceChunks s q p.uid p.len)
    ((readRuns (bufferAccess s q p.uid) s r).1, b ++ runBytes s r, (pieceBeats s p.off r).foldl (fun l n => setIns n l) bad)

/-- A page of queue `q` begins with the rest of a header that the page before it began. -/
def headerOwed (s : State) (q : Nat) : Bool :=
  match spillInput s q with
  | (_, _, h) :: _ => h != 0 && decide (h < 16)
  | [] => false

/-- A page of queue `q` is sent to channel `ch` as page number `page` (08 R453, R455). -/
def spillPage (q ch page : Nat) (s : State) : State :=
  let (ps, owed) := fillPage (spillInput s q) 0
  let (s1, data, bad) := ps.foldl (readPiece q) (s, [], [])
  let recs := (ps.filter (·.hdr)).map fun p => (p.off, p.len, p.uid)
  let cuts := (ps.filter fun p => !p.hdr).map fun p => (p.uid, p.off, p.len)
  let info : PageMeta := { q := q, count := data.length, first := (recs.drop (b2n (headerOwed s q))).head?.map (·.1), mirror := mirrorChan s ch }
  let w : Writing := ⟨q, page, ⟨data, bad, recs, info⟩, cuts, tailAfter s q ps, owed⟩
  let c := chan s1 ch
  let s2 := setChan (setQueue s1 q { queue s1 q with writing := true }) ch { c with free := c.free - 1, writing := some w }
  notePeak (checkLow s { s2 with res := { s2.res with turn := ch, qturn := q } })

/-- The page number is one that the channel can give. -/
def pageFree (s : State) (ch page : Nat) : Bool :=
  decide (page < pagesOf s ch) && !(s.res.pages.any fun e => e.1 == pageKey ch page)
    && !(s.queues.any fun e => e.2.pages.contains (pageKey ch page)) && !s.res.lost.contains (pageKey ch page)

/-- Queue `q` spills a page when it is its turn and the next channel of the rotation has room; `page` is the page given. -/
def spillEff (q : Nat) (room : Bool) (page : Nat) (u : Upset) (s : State) : State :=
  match nextSpill s, nextChan s with
  | some q1, some ch =>
    if q1 = q ∧ room ∧ (chan s ch).writing = none ∧ pageFree s ch page then spillPage q ch page (upset s u) else s
  | _, _ => s

/-- SPILL. -/
def execSpill (q : Fin 32768) (room : Bool) (page : Nat) (u : Upset) (s : State) : Out := viaCore s (spillEff q room page u)

/-! ### A page joins the reservoir segment (08 R453) -/

/-- Bytes of a frame of queue `q` move to page `k`, and their granules are let go. -/
def cutFrame (q k : Nat) (s : State) (c : Nat × Nat × Nat) : State :=
  let (uid, off, len) := c
  let x := queue s q
  match x.frames.find? fun f => f.tok.uid == uid with
  | some f =>
    let (front, tail, split) := splitChunks f.parts (beforeCut x f)
    let (a, b, shared) := splitChunks tail len
    let g := { f with parts := front ++ [.res k off len] ++ b }
    let s1 := setQueue s q { x with frames := x.frames.map fun h => if h.tok.uid = uid then g else h }
    freeChunks (holdAll (holdAll s1 split) shared) a
  | none => s

/-- The metadata of the last page of a segment, if it has one, names page `k` as the next (08 R465). -/
def linkPage (last : Option Nat) (k : Nat) (m : Sparse Page) : Sparse Page :=
  match last with
  | some l =>
    let p := look {} m l
    put {} m l { p with info := { p.info with next := some k } }
  | none => m

/-- An access to the metadata of page `k`, 64 bytes for no frame, on channel `ch`; the spec does not say where it lies there (08 R465, 14 R751;
log 148, DESIGN CHOICE). -/
def metaAccess (ch k : Nat) (write : Bool) (s : State) : State :=
  access s { res := true, write := write, addr := ch * 2 ^ 35 + Config.metaAt k, bytes := 64, master := 5 }

/-- Both copies of the metadata of page `k` are written, the mirror copy on channel `m` (08 R465). -/
def metaWrite (k m : Nat) (s : State) : State := metaAccess m k true (metaAccess (keyChan k) k true s)

/-- The reservoir accesses of pieces of page `k`, each a record header or bytes of a frame of queue `q` (08 R451, 14 R751). -/
def pieceAccess (q k : Nat) (write : Bool) (l : List (Nat × Nat × Nat)) (s : State) : State :=
  l.foldl (fun s e => access s { bufferAccess s q e.1 with res := true, write := write, addr := pageAddr k e.2.1, bytes := e.2.2 }) s

/-- A page whose last beat has been accepted is part of its queue's reservoir segment: its pieces and its metadata are written, with the link in
the metadata of the page before it (08 R453, R465). -/
def acceptPage (ch : Nat) (w : Writing) (s : State) : State :=
  let k := pageKey ch w.page
  let pieces := pieceAccess w.q k true ((w.body.recs.map fun r => (r.2.2, r.1, r.2.1)) ++ w.cuts) s
  let own := metaWrite k w.body.info.mirror pieces
  let acc := match (queue s w.q).pages.getLast? with
    | some l => metaWrite l (look {} s.res.pages l).info.mirror own
    | none => own
  let s1 := w.cuts.foldl (cutFrame w.q k) acc
  let x := queue s1 w.q
  let s2 := setQueue s1 w.q { x with pages := x.pages ++ [k], cut := w.stop, header := w.left, writing := false }
  let s3 := setChan s2 ch { chan s2 ch with writing := none }
  let s4 := { s3 with res := { s3.res with
    pages := put {} (linkPage x.pages.getLast? k s3.res.pages) k w.body, spilled := s3.res.spilled + pageSize } }
  tractEvent s4 (qTract w.q) .spill 1

/-- The write FIFO of channel `ch` accepts the last beat of its page. -/
def spillAcceptedEff (ch : Nat) (s : State) : State :=
  match (chan s ch).writing with
  | some w => if chanHalted s ch then s else acceptPage ch w s
  | none => s

/-- SPILL_PAGE_ACCEPTED. -/
def execSpillPageAccepted (ch : Fin 8) (s : State) : Out := viaCore s (spillAcceptedEff ch)

/-! ### Drawing (08 R456, R457, R471, R472) -/

/-- Bytes of the head segment of queue `q`: what lies in the cistern before its reservoir segment. -/
def headBytes (s : State) (q : Nat) : Nat :=
  let x := queue s q
  let l := x.frames.flatMap fun f => if x.pages.isEmpty then f.parts else (splitChunks f.parts (beforeCut x f)).1
  partsLen (l.takeWhile Chunk.inCistern)

/-- A drover waits for a frame of queue `q` (06 R342). -/
def droverWaits (s : State) (q : Nat) : Bool := (List.range 8).any fun t => (waitFrame s t).map (·.1) == some q

/-- A page of queue `q` can be drawn. -/
def canDraw (s : State) (q : Nat) : Bool :=
  let x := queue s q
  !x.pages.isEmpty && !x.broken && !x.drawing

/-- Draw is wanted for queue `q` (08 R456). -/
def drawWanted (s : State) (q : Nat) : Bool :=
  canDraw s q && (decide (headBytes s q < zeroAsOne (rfld s R.BUFFER_CIS_DRAW_WM 0 16) * 65536) || droverWaits s q)

/-- Spill wants channel `ch`: the next page goes to it (08 R455). -/
def spillWants (s : State) (ch : Nat) : Bool := (nextSpill s).isSome && nextChan s == some ch

/-- Spill, which is served first, does not want the channel that holds the first page of queue `q` (08 R466). -/
def drawServed (s : State) (q : Nat) : Bool := !((queue s q).pages.head?.any fun k => spillWants s (keyChan k))

/-- The queue whose page is drawn next: queues with a waiting drover come first (08 R456, R466). -/
def nextDraw (s : State) : Option Nat :=
  let l := (queuesAfter s s.res.dturn).filter (drawServed s)
  (l.find? fun q => canDraw s q && droverWaits s q).or (l.find? (drawWanted s))

/-- Spill or draw wants channel `ch` (13 R718): the next page goes to it, a page is on its way to it or from it, or draw is wanted of the first
page of a queue. -/
def chanBusy (s : State) (ch : Nat) : Bool :=
  spillWants s ch || (chan s ch).writing.isSome
    || s.queues.any fun e => (e.2.drawing || drawWanted s e.1) && (e.2.pages.head?.map keyChan) == some ch

/-- A queue breaks before page `k` (08 R472). -/
def breakQueue (q k : Nat) (s : State) : State :=
  let s1 := setQueue s q { queue s q with broken := true, drawing := false }
  fault (event s1 R.BUFFER_EVENT 2) .buffer 4 q (BitVec.ofNat 64 (keyChan k * 2 ^ 56 + keyPage k))


/-- The metadata of the first page of queue `q` is read: the draw starts, or the queue breaks (08 R471, R472, R476). -/
def drawPage (q k : Nat) (badPrimary badMirror : Bool) (s : State) : State :=
  let ch := keyChan k
  let m := (look {} s.res.pages k).info.mirror
  if chanHalted s ch then breakQueue q k s
  else
    let s0 := metaAccess ch k false s
    let s1 := if badPrimary then bump s0 (R.BUFFER_RES_CH_UNCORR ch) else s0
    let s2 := if badPrimary && !chanHalted s m then
        (fun s => if badMirror then bump s (R.BUFFER_RES_CH_UNCORR m) else s) (metaAccess m k false s1)
      else s1
    if badPrimary && (badMirror || chanHalted s m) then breakQueue q k s2
    else
      let s3 := if badPrimary then fault s2 .buffer 3 ch (BitVec.ofNat 64 (keyPage k)) else s2
      setQueue s3 q { queue s3 q with drawing := true }

/-- A draw of a page of queue `q` begins when it is its turn. -/
def drawEff (q : Nat) (badPrimary badMirror : Bool) (s : State) : State :=
  if nextDraw s = some q then
    match (queue s q).pages with
    | k :: _ => drawPage q k badPrimary badMirror { s with res := { s.res with dturn := q } }
    | [] => s
  else s

/-- DRAW. -/
def execDraw (q : Fin 32768) (badPrimary badMirror : Bool) (s : State) : Out := viaCore s (drawEff q badPrimary badMirror)

/-! ### A drawn page (08 R457, R469, R470) -/

/-- A frame of queue `q` is discarded from the queue with every byte it has. -/
def discardFrame (q : Nat) (s : State) (uid : Nat) : State :=
  let x := queue s q
  match x.frames.find? fun f => f.tok.uid == uid with
  | some f =>
    freeChunks (setQueue s q { x with frames := x.frames.filter fun g => g.tok.uid != uid }) f.parts
  | none => s

/-- Beat `b` of a page lies within `len` bytes from `off`. -/
def beatIn (b off len : Nat) : Bool := decide (off / 8 ≤ b) && decide (b ≤ (off + len - 1) / 8) && len != 0

/-- The frames that a failing beat takes with it: those with a byte in it, and those whose records begin at or after a header in it
(08 R469, R470). -/
def lostIn (frames : List QFrame) (k : Nat) (recs : List (Nat × Nat × Nat)) (b : Nat) : List Nat :=
  let bytes := (frames.filter fun f => f.parts.any fun c =>
    match c with | .res p off len => p == k && beatIn b off len | .cis _ _ _ => false).map fun f => f.tok.uid
  let after := match recs.find? fun r => beatIn b r.1 r.2.1 with
    | some r => (recs.filter fun x => decide (r.1 ≤ x.1)).map fun x => x.2.2
    | none => []
  bytes ++ after

/-- A failing beat of a drawn page is recorded (08 R469). -/
def poisonBeat (k : Nat) (s : State) (b : Nat) : State :=
  fault s .buffer 2 (keyChan k) (BitVec.ofNat 64 (keyPage k * pageSize + b * 8))

/-- Granules for a drawn page come from the general area while it has any free, else from the draw reserve (08 R457). -/
def takeGranule (c : Cistern) : Cistern :=
  if c.gen - c.credits = 0 then { c with reserve := c.reserve - 1 } else { c with gen := c.gen - 1 }

/-- A chunk of page `k` lies in the page's granules in the cistern. -/
def drawnChunk (k : Nat) (gs : List Nat) : Chunk → Chunk
  | .res p off len => if p = k then .cis ((gs.take ((off + len + 255) / 256)).drop (off / 256)) (off % 256) len else .res p off len
  | .cis g a b => .cis g a b

/-- The chunks of page `k` in a frame. -/
def chunksIn (k : Nat) (f : QFrame) : List Chunk := f.parts.filter fun c => match c with | .res p _ _ => p == k | .cis _ _ _ => false

/-- Bytes are written over pieces of the cistern. -/
def fillRuns : List (Nat × Nat) → Bytes → State → State
  | [], _, s => s
  | r :: l, b, s => fillRuns l (b.drop r.2) (cisWrite s r.1 (b.take r.2))

/-- The granule writes for a run of a drawn page, each counted for the frame it belongs to (14 R751). -/
def landAccess (q uid : Nat) (l : List (Nat × Nat)) (s : State) : State :=
  l.foldl (fun s r => access s { bufferAccess s q uid with addr := r.1, bytes := r.2, write := true }) s

/-- The runs of page `k` that draw writes for each frame: its record header and its bytes. -/
def landRuns (x : Queue) (page : Page) (k : Nat) : List (Nat × Nat × Nat) :=
  (page.recs.map fun r => (r.2.2, r.1, r.2.1)) ++ x.frames.flatMap fun f => (chunksIn k f).filterMap fun c =>
    match c with
    | .res _ off len => some (f.tok.uid, off, len)
    | .cis _ _ _ => none

/-- The record stream of page `k` is written into the granules, and the frames' bytes lie there. -/
def landPage (q k : Nat) (gs : List Nat) (s : State) : State :=
  let x := queue s q
  let fs := x.frames.map fun f => { f with parts := f.parts.map (drawnChunk k gs) }
  let held := x.frames.flatMap fun f => (chunksIn k f).flatMap fun c => (drawnChunk k gs c).granules
  let page := look {} s.res.pages k
  let s1 := { s with cistern := gs.foldl (fun c _ => takeGranule c) s.cistern }
  let s2 := holdAll (holdAll s1 gs) held
  let s3 := fillRuns (runs gs 0 page.data.length) page.data s2
  let s4 := (landRuns x page k).foldl (fun s e => landAccess q e.1 (runs gs e.2.1 e.2.2) s) s3
  letGoAll (setQueue s4 q { x with frames := fs }) gs

/-- Page `k` returns to the free list of its channel. -/
def freePage (k : Nat) (s : State) : State :=
  let ch := keyChan k
  let c := chan s ch
  let s1 := { s with res := { s.res with pages := put {} s.res.pages k {} } }
  setChan s1 ch { c with free := c.free + 1 }

/-- A drawn page of queue `q` is in the cistern: the frames its failing beats took are gone, the rest can be offered. -/
def landDraw (q k : Nat) (badBeats : List Nat) (corr : Nat) (gs : List Nat) (s : State) : State :=
  let page := look {} s.res.pages k
  let ch := keyChan k
  let bad := badBeats.foldl (fun l b => setIns b l) page.poison
  let lost := bad.foldl (fun l b => (lostIn (queue s q).frames k page.recs b).foldl (fun l n => setIns n l) l) []
  let s0 := pieceAccess q k false (landRuns (queue s q) page k) s
  let s1 := bumpBy (bumpBy s0 (R.BUFFER_RES_CH_CORR ch) corr) (R.BUFFER_RES_CH_UNCORR ch) badBeats.length
  let s2 := bad.foldl (poisonBeat k) (bumpBy s1 R.BUFFER_CNT_POISON_DROP (lost.filter fun n => (queue s q).frames.any fun f => f.tok.uid == n).length)
  let s3 := landPage q k gs (lost.foldl (discardFrame q) s2)
  let x := queue s3 q
  let rest := x.pages.drop 1
  let s4 := setQueue s3 q { x with
    pages := rest, drawing := false, header := if rest.isEmpty then 0 else x.header
    cut := if rest.isEmpty && !x.writing then (0, 0) else x.cut }
  let s5 := freePage k { s4 with res := { s4.res with drawn := s4.res.drawn + pageSize } }
  evalPressure (tractEvent s5 (qTract q) .draw 1) q

/-- The last byte of a drawn page arrives; `granules` are those it is written into. -/
def drawArrivedEff (q : Nat) (badBeats : List Nat) (corr : Nat) (granules : List Nat) (s : State) : State :=
  let x := queue s q
  match x.pages with
  | k :: _ =>
    if x.drawing && canGive s granules && granules.length == 16 && decide (16 ≤ cisFree s + s.cistern.reserve) then
      landDraw q k badBeats corr granules s
    else s
  | [] => s

/-- DRAW_PAGE_ARRIVED. -/
def execDrawPageArrived (q : Fin 32768) (badBeats : List Nat) (corr : Nat) (granules : List Nat) (s : State) : Out :=
  viaCore s (drawArrivedEff q (badBeats.filter fun b => decide (b < 512)) corr granules)

/-! ### Halts and recovery (08 R473-R476) -/

/-- A page part-way through its spill is not spilled: its bytes stay, and its page is free again (08 R453, R473). -/
def cancelWriting (ch : Nat) (s : State) : State :=
  let c := chan s ch
  match c.writing with
  | some w =>
    let x := queue s w.q
    setChan (setQueue s w.q { x with writing := false, cut := if x.pages.isEmpty then (0, 0) else x.cut })
      ch { c with writing := none, free := c.free + 1 }
  | none => s

/-- Channel `ch` halts (08 R475); a draw of a page on it breaks its queue (08 R476). -/
def haltChan (ch cause : Nat) (s : State) : State :=
  let s1 := fault (wr s (R.BUFFER_RES_CH_CFG ch) (setBit (rd s (R.BUFFER_RES_CH_CFG ch)) 28 true)) .buffer 5 ch (BitVec.ofNat 64 (cause + 1))
  (s.queues.filter fun e => e.2.drawing && (e.2.pages.head?.map keyChan) == some ch).foldl
    (fun s e => breakQueue e.1 (e.2.pages.headD 0) s) (cancelWriting ch s1)

/-- RES_HALT: cause 0 a write CRC alert, 1 a parity alert, 2 a read timeout. -/
def execResHalt (ch : Fin 8) (cause : Fin 3) (s : State) : Out :=
  viaCore s fun s => if chanEnabled s ch && !chanHalted s ch then haltChan ch cause s else s

/-- The reservoir segment of a broken queue is discarded (08 R473, R474). -/
def recoverQueue (q : Nat) (s : State) : State :=
  let x := queue s q
  let lost := (x.frames.filter fun f => !(f.parts.all Chunk.inCistern)).map fun f => f.tok.uid
  let s1 := (List.range 8).foldl (fun s ch => if ((chan s ch).writing.map (·.q)) == some q then cancelWriting ch s else s) s
  let s2 := bumpBy (lost.foldl (discardFrame q) s1) R.BUFFER_CNT_RECOVER_DROP lost.length
  let s3 := { s2 with res := { s2.res with
    pages := x.pages.foldl (fun m k => put {} m k {}) s2.res.pages, lost := x.pages.foldl (fun l k => setIns k l) s2.res.lost } }
  let s4 := wr s3 R.BUFFER_RES_PAGES_LOST (BitVec.ofNat 32 ((rfld s R.BUFFER_RES_PAGES_LOST 0 26 + x.pages.length) % 2 ^ 26))
  evalPressure (setQueue s4 q { queue s4 q with pages := [], broken := false, drawing := false, header := 0, cut := (0, 0) }) q

/-- BUFFER_Q_RECOVER takes `v` (08 R473). -/
def qRecoverEff (v : Word) (s : State) : State :=
  let q := fld v 0 15
  if bit v 31 && (queue s q).broken then recoverQueue q s else s

/-- BUFFER_Q_RECOVER. -/
def execBufferQRecover (v : Word) (s : State) : Out := viaBar s (qRecoverEff v)

/-- BUFFER_Q_RES: the queue that BUFFER_Q_SEL names. -/
def qResView (s : State) : Word :=
  let x := queue s (rfld s R.BUFFER_Q_SEL 0 15)
  pack [(31, b2n x.broken), (0, x.pages.length)]

/-- The rates of the millisecond that ends (08 BUFFER_RES_RATE). -/
def resRateTick (s : State) : State :=
  if s.now % 312500 = 0 then
    { wr s R.BUFFER_RES_RATE (pack [(16, Nat.min 65535 (s.res.spilled / 100000)), (0, Nat.min 65535 (s.res.drawn / 100000))])
      with res := { s.res with spilled := 0, drawn := 0 } }
  else s

end Sys2Proof.Machine
end

