-- ==== Sys2Proof/Machine/Classify.lean ====
section
/-!
DEFINITION. The parser and the classifier (chapter 07): the walk, keys and lookups, version slots and the rule store, staged changes
and commits, privileged ports. Rows PUT, REMOVE, PUT_DEFAULT, DISCARD, BAD_OP, CLASS_COMMIT, APPLYING, ENTRIES_RETURNED, CLASS_PRIV.
-/
namespace Sys2Proof.Machine

/-! ### The walk (07 R389-R398) -/

/-- Parse flag DONE (07 R396). -/
abbrev pfDone : Nat := 1
/-- PARSE_DEPTH. -/
abbrev pfDepth : Nat := 2
/-- LENGTH_CONFLICT. -/
abbrev pfConflict : Nat := 4
/-- SHORT. -/
abbrev pfShort : Nat := 8
/-- UNKNOWN. -/
abbrev pfUnknown : Nat := 16

/-- The bytes of a parser node. -/
def parserNode (s : State) (n : Nat) : Bytes := look [] s.parser.nodes n

/-- A field of a node from its first byte, most significant byte first. -/
def nodeAt (n : Bytes) (i : Nat) : Nat := (n.getD i 0).toNat

/-- The value of a field word after its shift and mask. -/
def maskWord (w shift mask : Nat) : Nat := (w >>> shift) &&& mask

/-- The offsets of the field words that a node reads (07 R394). -/
def nodeWords (n : Bytes) : List Nat :=
  (if nodeAt n 2 = 1 then [nodeAt n 4] else []) ++ (if beAt n 11 2 = 0 then [] else [nodeAt n 9])
    ++ (if nodeAt n 52 = 1 then [nodeAt n 53] else [])

/-- The header length at offset `off` (07 R390). -/
def headerLen (n head : Bytes) (off : Nat) : Nat :=
  nodeAt n 3 + (if nodeAt n 2 = 1 then maskWord (beAt head (off + nodeAt n 4) 2) (nodeAt n 5) (beAt n 6 2) * nodeAt n 8 else 0)

/-- The length that a BOUND check finds (07 R393). -/
def boundLen (n head : Bytes) (off : Nat) : Nat :=
  maskWord (beAt head (off + nodeAt n 53) 2) (nodeAt n 58) (beAt n 56 2) * nodeAt n 54 + nodeAt n 55

/-- The next node reference (07 R391). -/
def nextNode (n head : Bytes) (off : Nat) : Nat :=
  let mask := beAt n 11 2
  let v := maskWord (beAt head (off + nodeAt n 9) 2) (nodeAt n 10) mask
  let hit := (List.range 8).find? fun i => nodeAt n (18 + 3 * i) != 0xFF && beAt n (16 + 3 * i) 2 == v
  if mask = 0 then nodeAt n 13 else match hit with | some i => nodeAt n (18 + 3 * i) | none => nodeAt n 13

/-- One extraction (07 R392). -/
def extractInto (n head : Bytes) (off : Nat) (key : Bytes) (i : Nat) : Bytes :=
  let src := off + nodeAt n (40 + 3 * i)
  let dst := nodeAt n (42 + 3 * i)
  (patch key dst (slice head src (nodeAt n (41 + 3 * i)))).take 64

/-- The walk so far: offset, node, bound if known, and what it leaves. -/
structure Walking where
  off   : Nat
  node  : Nat
  count : Nat := 0
  bound : Option Nat
  out   : Walk := { key := List.replicate 64 0 }
  deriving DecidableEq, Repr

/-- A stopped walk: its result with HDR_COUNT and the stop flag, and the node whose error stopped it. -/
def stopWalk (x : Walking) (flag : Nat) (bad : Option Nat := none) : Walk × Option Nat :=
  ({ x.out with flags := x.count * 4096 + flag }, bad)

/-- The walk of R394 over the head bytes; `known` says that L is known, `bad` which nodes the replica cannot correct. -/
def walkFrom (s : State) (head : Bytes) (known : Bool) (bad : Nat → Bool) : Nat → Walking → Walk × Option Nat
  | 0, x => stopWalk x pfDepth
  | fuel + 1, x =>
    let ovr := if known then pfShort else pfDepth
    if x.node = 0x40 then stopWalk x pfDone
    else if 0x40 < x.node then stopWalk x pfUnknown
    else if x.count = 12 then stopWalk x pfDepth
    else if bad x.node then stopWalk x pfUnknown (some x.node)
    else
      let n := parserNode s x.node
      if (nodeWords n).any fun o => decide (head.length ≤ x.off + o + 1) then stopWalk x ovr
      else
        let h := headerLen n head x.off
        if h = 0 then stopWalk x pfUnknown
        else if head.length < x.off + h then stopWalk x ovr
        else if x.bound.any fun b => decide (b < x.off + h) then stopWalk x pfConflict
        else
          let chk := nodeAt n 52 = 1
          let v := boundLen n head x.off
          if chk ∧ (v < h ∨ (x.bound.any fun b => decide (b < x.off + v))) then stopWalk x pfConflict
          else
            let end_ := x.off + v
            let pcp := if x.out.pcp.isNone && nodeAt n 1 % 2 == 1 then some (nodeAt head x.off / 32) else x.out.pcp
            let used := (List.range 4).filter fun i => nodeAt n (41 + 3 * i) != 0
            walkFrom s head known bad fuel
              { off := x.off + h, node := nextNode n head x.off, count := x.count + 1
                bound := if chk then some end_ else x.bound
                out := { x.out with
                  key := used.foldl (extractInto n head x.off) x.out.key, pcp := pcp, kind := nodeAt n 0
                  pending := if chk ∧ !known then Nat.max x.out.pending end_ else x.out.pending } }

/-- One pass of the parser from a node and an offset (07 R394). -/
def parsePass (s : State) (t : Nat) (head : Bytes) (len node off : Nat) : Walk × Option Nat :=
  let known := decide (len ≤ 256)
  walkFrom s head known (fun n => s.cls.badNodes.contains (t * 16384 + n)) 14
    { off := off, node := node, bound := if known then some len else none }

/-! ### Keys and lookups (07 R400-R402) -/

/-- The 72-byte key of a pass (07 R400). -/
def keyOf (w : Walk) (port pass : Nat) : Bytes :=
  w.key ++ [BitVec.ofNat 8 port] ++ beBytes 2 (w.flags + (pass - 1) * 64)
    ++ [BitVec.ofNat 8 (match w.pcp with | some p => 8 + p | none => 0), BitVec.ofNat 8 w.kind, 0, 0, 0]

/-- A rule matches a key (07 R401). -/
def Rule.hits (r : Rule) (key : Bytes) : Bool :=
  (List.range 72).all fun i => (key.getD i 0 &&& r.mask.getD i 0) == (r.value.getD i 0 &&& r.mask.getD i 0)

/-- A version slot. -/
def ruleSlot (s : State) (k : Nat) : RuleSlot := look {} s.cls.slots k

/-- A version slot set. -/
def setSlot (s : State) (k : Nat) (x : RuleSlot) : State := { s with cls := { s.cls with slots := put {} s.cls.slots k x } }

/-- What a lookup finds: a rule's action, nothing, or an uncorrectable entry. -/
inductive Found where
  | hit (act : DWord)
  | miss
  | bad (entry : Nat)
  deriving DecidableEq, Repr

/-- A lookup over positions in order in the replica of tract `t` (07 R402, R438). -/
def lookup (s : State) (t : Nat) (key : Bytes) : Sparse Nat → Found
  | [] => .miss
  | (_, e) :: l =>
    if s.cls.badRules.contains (t * 16384 + e) then .bad e
    else
      let r := look {} s.cls.store e
      if r.hits key then .hit r.act else lookup s t key l

/-- KIND of an action word (07 R403). -/
def actKind (a : DWord) : Nat := fld a 60 4
/-- PARTIAL_OK. -/
def actPartial (a : DWord) : Bool := bit a 59
/-- CNT. -/
def actCnt (a : DWord) : Nat := fld a 48 10
/-- START_NODE. -/
def actNode (a : DWord) : Nat := fld a 40 6
/-- OFFSET. -/
def actOff (a : DWord) : Nat := fld a 32 8
/-- The queue of a QUEUE action for a packet with this PCP (07 R403). -/
def actQueue (a : DWord) (pcp : Option Nat) : Nat := (fld a 0 15 + (if bit a 58 then pcp.getD 0 else 0)) % 32768

/-- The fate that an action other than RECIRC and DEFAULT gives (07 R404). -/
def actFate (a : DWord) (pcp : Option Nat) : Fate :=
  match actKind a with
  | 1 => .queue (actQueue a pcp)
  | 2 => .port (fld a 0 4)
  | 3 => .ring (fld a 0 8)
  | _ => .drop

/-- The default action of a class port in a slot. -/
def defaultAct (s : State) (slot port : Nat) : DWord := look 0 (ruleSlot s slot).defs port

/-- An action is applied: its counter counts (07 R405). -/
def actCount (s : State) (k : Nat) : State := if k = 0 then s else bump s (R.CLASS_ACT_CNT k)

/-! ### Privileged ports (07 R427-R430) -/

/-- The entry that makes class port `p` privileged. -/
def privEntry (s : State) (p : Nat) : Option Nat :=
  (List.range 4).find? fun n => rbit s (R.CLASS_PRIV n) 31 && rfld s (R.CLASS_PRIV n) 16 5 == p

/-- One token in the units of `Bucket.level`. -/
abbrev tokenUnit : Nat := 3125000

/-- The depth of entry `n`'s bucket, in units. -/
def bucketCap (s : State) (n : Nat) : Nat := clampNat 1 4096 (rfld s (R.CLASS_PRIV_RATE n) 16 16) * tokenUnit

/-- The level of entry `n`'s bucket now: RATE x 100 tokens a second, 312,500,000 ticks a second (07 R430). -/
def bucketLevel (s : State) (n : Nat) : Nat :=
  let b := look {} s.cls.buckets n
  Nat.min (bucketCap s n) (b.level + clampNat 1 20000 (rfld s (R.CLASS_PRIV_RATE n) 0 16) * (s.now - b.since))

/-- Entry `n`'s bucket set to a level now. -/
def setBucket (s : State) (n level : Nat) : State :=
  { s with cls := { s.cls with buckets := put {} s.cls.buckets n ⟨level, s.now⟩ } }

/-- A write of CLASS_PRIV_n: discarded whole when it would name port 16, 18-31 or a port named already; else the entry takes it and
its bucket is full (07 R429, R430). -/
def classPrivEff (n : Nat) (rate : Bool) (v : Word) (s : State) : State :=
  if rate then
    let s1 := wr s (R.CLASS_PRIV_RATE n) v
    setBucket s1 n (bucketCap s1 n)
  else
    let p := fld v 16 5
    let taken := (List.range 4).any fun m => m != n && rbit s (R.CLASS_PRIV m) 31 && rfld s (R.CLASS_PRIV m) 16 5 == p
    if bit v 31 && (p == 16 || decide (17 < p) || taken) then fault s .cls 3 n (v.setWidth 64)
    else
      let s1 := wrField s (R.CLASS_PRIV n) v 0x801F00FF 0
      setBucket s1 n (bucketCap s1 n)

/-- CLASS_PRIV. -/
def execClassPriv (n : Fin 4) (rate : Bool) (v : Word) (s : State) : Out := viaBar s (classPrivEff n rate v)

/-! ### Slots and the store (07 R406-R413) -/

/-- CLASS_STORE_FREE: free physical entries, and 0 as after reset while no slot is live (07 R407). -/
def storeFree (s : State) : Nat := if s.cls.slots.all fun e => e.2.st == .free then 0 else 16384 - s.cls.store.length

/-- Physical entries that slots other than `k` use: live ones, and the one a commit writes. -/
def entriesElse (s : State) (k : Nat) : List Nat :=
  (s.cls.slots.filter fun e => e.1 != k).flatMap fun e => e.2.pos.map (·.2)

/-- A slot retires: it is FREE, and the entries no other slot uses are owed to the store (07 R413). -/
def retireSlot (k : Nat) (s : State) : State :=
  let mine := (ruleSlot s k).pos.map (·.2)
  let other := entriesElse s k
  let s1 := setSlot s k {}
  event { s1 with cls := { s1.cls with owed := (mine.filter fun e => !other.contains e).foldl (fun l e => setIns e l) s1.cls.owed } }
    R.CLASS_EVENT 1

/-- A packet takes the CURRENT slot as its entry version (07 R410). -/
def takeVersion (s : State) : State :=
  let k := s.cls.current
  setSlot s k { ruleSlot s k with ref := (ruleSlot s k).ref + 1 }

/-- A packet releases its entry version (07 R412, R413). -/
def releaseVersion (k : Nat) (s : State) : State :=
  let x := ruleSlot s k
  let s1 := setSlot s k { x with ref := x.ref - 1 }
  if x.st = .draining ∧ x.ref ≤ 1 then retireSlot k s1 else s1

/-- ENTRIES_RETURNED: the entries of retired slots return to the store (07 R413). -/
def entriesReturnedEff (s : State) : State :=
  { s with cls := { s.cls with store := s.cls.store.filter fun e => !s.cls.owed.contains e.1, owed := [] } }

/-- ENTRIES_RETURNED. -/
def execEntriesReturned (s : State) : Out := viaCore s entriesReturnedEff

/-- CLASS_SLOT_s. -/
def slotView (s : State) (k : Nat) : Word :=
  let x := ruleSlot s k
  pack [(30, match x.st with | .free => 0 | .current => 1 | .draining => 2), (0, x.ref % 2 ^ 24)]

/-! ### Staging (07 R414-R417) -/

/-- An action that a PUT or a PUT_DEFAULT may hold (07 R416). -/
def actionOk (s : State) (isDefault : Bool) (a : DWord) : Bool :=
  let k := actKind a
  let d := fld a 0 15
  decide (k ≤ 5) && (a &&& 0x0000C000FFFF8000 == 0)
    && !(k == 1 && !(decide (d + (if bit a 58 then 7 else 0) ≤ 32767) && hasTract s (d / 4096)
        && hasTract s ((d + (if bit a 58 then 7 else 0)) / 4096)))
    && !(isDefault && (k == 4 || k == 5))

/-- The action in the ACT registers. -/
def stagedAct (s : State) : DWord := rd64 s R.CLASS_STAGE_ACT

/-- Eighteen registers from `a` as 72 bytes. -/
def seventyTwo (s : State) (a : Nat) : Bytes := (List.range 18).flatMap fun k => beBytes 4 (rd s (a + 4 * k)).toNat

/-- ERR of a staging command (07 R416): 0 when it is taken. -/
def stageErr (s : State) (op idx : Nat) : Nat :=
  let key := if op = 3 then 8192 + idx else idx
  if s.cls.commit ≠ .idle then 4
  else if op = 0 ∨ 4 < op then 5
  else if op = 3 ∧ 17 < idx then 2
  else if (op = 1 ∨ op = 3) ∧ !actionOk s (op == 3) (stagedAct s) then 1
  else if op ≠ 4 ∧ 1024 ≤ s.cls.staged.length ∧ !(s.cls.staged.any fun e => e.1 == key) then 3
  else 0

/-- The staged list after a command that is taken (07 R415, R417). -/
def stagedAfter (s : State) (op idx : Nat) : Sparse Change :=
  match op with
  | 1 => ins idx (.put ⟨seventyTwo s (R.CLASS_STAGE_KEY 0), seventyTwo s (R.CLASS_STAGE_MASK 0), stagedAct s⟩) s.cls.staged
  | 2 => ins idx .remove s.cls.staged
  | 3 => ins (8192 + idx) (.default (stagedAct s)) s.cls.staged
  | _ => []

/-- A staging command: OP and INDEX of CLASS_STAGE_CMD. -/
def stageEff (op idx : Nat) (s : State) : State :=
  let e := stageErr s op idx
  let s1 := wr s R.CLASS_STAGE_STATUS (BitVec.ofNat 32 e)
  if e = 0 then { s1 with cls := { s1.cls with staged := stagedAfter s op idx } } else s1

/-- PUT. -/
def execPut (i : BitVec 13) (s : State) : Out := viaBar s (stageEff 1 i.toNat)
/-- REMOVE. -/
def execRemove (i : BitVec 13) (s : State) : Out := viaBar s (stageEff 2 i.toNat)
/-- PUT_DEFAULT. -/
def execPutDefault (i : BitVec 13) (s : State) : Out := viaBar s (stageEff 3 i.toNat)
/-- DISCARD. -/
def execDiscard (s : State) : Out := viaBar s (stageEff 4 0)
/-- A write of CLASS_STAGE_CMD. -/
def stageCmdEff (v : Word) (s : State) : State := stageEff (fld v 28 4) (fld v 0 13) s
/-- BAD_OP: CLASS_STAGE_CMD written with an OP of 0 or 5-15. -/
def execBadOp (v : Word) (s : State) : Out := viaBar s (stageCmdEff v)

/-! ### Commits (07 R418-R424) -/

/-- The change is a PUT. -/
def isPut : Change → Bool
  | .put _ => true
  | _ => false

/-- The staged PUTs of the commit: those of the list, or the rules of an image (07 R420, R424). -/
def putCount (s : State) : Nat :=
  match s.cls.image with
  | some r => r.rules.length
  | none => (s.cls.staged.filter fun e => isPut e.2).length

/-- A slot is FREE for a commit. -/
def freeSlot (s : State) : Option Nat := (List.range 4).find? fun k => (ruleSlot s k).st == .free

/-- The commit can leave WAITING (07 R420). -/
def canApply (s : State) : Bool := (freeSlot s).isSome && decide (putCount s ≤ storeFree s)

/-- STATE becomes WAITING; the event sets where a condition is not met (07 R419, R437). -/
def startWaiting (s : State) : State :=
  let s1 := { s with cls := { s.cls with commit := .waiting } }
  if canApply s1 then s1 else event s1 R.CLASS_EVENT 2

/-- CLASS_COMMIT_CTL.GO (07 R419). -/
def classGoEff (s : State) : State := if s.cls.commit = .idle ∧ s.cls.staged ≠ [] then startWaiting s else s

/-- CLASS_COMMIT. -/
def execClassCommit (s : State) : Out := viaBar s classGoEff

/-- A rule written into a free physical entry. -/
def storeRule (r : Rule) (c : Classifier) : Nat × Classifier :=
  let e := ((List.range 16384).find? fun i => !(c.store.any fun x => x.1 == i)).getD 0
  (e, { c with store := ins e r c.store
               badRules := c.badRules.filter fun b => b % 16384 != e })

/-- One staged change in the new version. -/
def applyChange (x : RuleSlot × Classifier) (e : Nat × Change) : RuleSlot × Classifier :=
  match e.2 with
  | .put r =>
    let (i, c) := storeRule r x.2
    ({ x.1 with pos := ins e.1 i x.1.pos }, c)
  | .remove => ({ x.1 with pos := del e.1 x.1.pos }, x.2)
  | .default a => ({ x.1 with defs := put 0 x.1.defs (e.1 - 8192) a }, x.2)

/-- A rule of an image in the new version. -/
def applyRule (x : RuleSlot × Classifier) (e : Nat × Rule) : RuleSlot × Classifier := applyChange x (e.1, .put e.2)

/-- The content of the version being committed (07 R415, R424). -/
def newVersion (s : State) : RuleSlot × Classifier :=
  let cur := ruleSlot s s.cls.current
  match s.cls.image with
  | some r => r.rules.foldl applyRule ({ defs := r.defs }, s.cls)
  | none => s.cls.staged.foldl applyChange ({ pos := cur.pos, defs := cur.defs }, s.cls)

/-- A commit leaves WAITING and the new version is written into the free slot (07 R420, R422). -/
def applyingEff (s : State) : State :=
  match freeSlot s with
  | some k =>
    if s.cls.commit = .waiting ∧ canApply s then
      let (x, c) := newVersion s
      let s1 := { s with cls := { c with commit := .applying k } }
      setSlot s1 k { x with ver := (ruleSlot s s.cls.current).ver + 1 }
    else s
  | none => s

/-- APPLYING. -/
def execApplying (s : State) : Out := viaCore s applyingEff

/-- The commit instant (07 R423): the new slot is CURRENT and the former one, if an image has been loaded, drains or retires. -/
def commitInstantEff (k : Nat) (s : State) : State :=
  let old := s.cls.current
  let s1 := setSlot s k { ruleSlot s k with st := .current }
  let s2 := { s1 with cls := { s1.cls with current := k, staged := [], commit := .idle } }
  let s3 := if (ruleSlot s old).st ≠ .current then s2
            else if (ruleSlot s old).ref = 0 then retireSlot old s2
            else setSlot s2 old { ruleSlot s2 old with st := .draining }
  event (bump s3 (R.CLASS_CNT 10)) R.CLASS_EVENT 0

/-- The slot that a withdrawn commit was writing is empty again, its entries owed to the store. -/
def withdraw (s : State) : State :=
  let s1 : State := match s.cls.commit with
    | .applying k =>
      let mine := (ruleSlot s k).pos.map (·.2)
      let other := entriesElse s k
      let s0 := setSlot s k {}
      { s0 with cls := { s0.cls with store := s0.cls.store.filter fun (e : Nat × Rule) => !(mine.contains e.1 && !other.contains e.1) } }
    | _ => s
  { s1 with cls := { s1.cls with commit := .idle, image := none } }

/-- CLASS_COMMIT_STATUS (07 R418, R420). -/
def commitStatus (s : State) : Word :=
  let waiting := s.cls.commit == .waiting
  let noSlot := waiting && (freeSlot s).isNone
  let noStore := waiting && decide (storeFree s < putCount s)
  pack [(30, match s.cls.commit with | .idle => 0 | .waiting => 1 | .applying _ => 2), (29, b2n (noSlot || noStore)),
    (28, b2n noSlot), (27, b2n noStore), (24, s.cls.current), (0, s.cls.staged.length)]

/-! ### Readback (07 R425) -/

/-- The rule that CLASS_RULE_SEL names, in a live slot. -/
def selRule (s : State) : Option Rule :=
  let x := ruleSlot s (rfld s R.CLASS_RULE_SEL 24 2)
  if x.st = .free then none
  else ((x.pos.find? fun e => e.1 == rfld s R.CLASS_RULE_SEL 0 13).map fun e => look {} s.cls.store e.2)

/-- CLASS_RULE_SEL. -/
def ruleSelView (s : State) : Word := setBit (rd s R.CLASS_RULE_SEL) 31 (selRule s).isSome

/-- Word `k` of bytes of the selected rule. -/
def ruleWord (s : State) (f : Rule → Bytes) (k : Nat) : Word :=
  match selRule s with
  | some r => BitVec.ofNat 32 (beAt (f r) (4 * k) 4)
  | none => 0

/-- The CLASS_RULE_ACT pair. -/
def ruleAct (s : State) : DWord := ((selRule s).map Rule.act).getD 0

end Sys2Proof.Machine
end

