-- ==== Sys2Proof/Machine/Fronts.lean ====
section
/-!
DEFINITION. Ingress fronts (01 R52-R63, R911, 09 R502 R503, 07 R410): the flow hash, checksum results, tags and entry versions, routes;
and what a ring frame's timestamp request comes to (10 R587).
-/
namespace Sys2Proof.Machine

/-! ### Rings (10 R587) -/

/-- The outcome of a timestamp request is known: 1 QUEUED, 2 NO_STAMP, 3 NOT_TAKEN (10 R587, R589). -/
def tsOutcome (tok : Token) (ts : Nat) (s : State) : State :=
  match tok.tsReq, tok.src with
  | some _, .ring r =>
    let x := ring s false r
    setRing s false r { x with done := x.done.map fun d =>
      (if d.wait == some tok.key then { d with wait := none, w7 := d.w7 ||| BitVec.ofNat 32 (ts <<< 25) } else d) }
  | _, _ => s

/-! ### IP recognition (01 R911, 09 R503) -/

/-- An IP header directly after the Ethernet header and at most two VLAN tags: where it starts, its version, its length, its protocol,
where its addresses lie and their length, whether the packet is a fragment, and where its payload ends by its own length. -/
structure IpAt where
  at_   : Nat
  v6    : Bool
  hlen  : Nat
  proto : Nat
  src   : Nat
  alen  : Nat
  frag  : Bool
  total : Nat
  deriving DecidableEq, Repr

/-- The IP header of a frame, read from `b`; it is usable when its fixed part lies within the first `n` bytes (01 R911). -/
def ipHeader (b : Bytes) (n : Nat) : Option IpAt :=
  let e := etherTypeAt b
  let ip := e + 2
  if beAt b e 2 = 0x0800 ∧ beAt b ip 1 / 16 = 4 ∧ ip + 20 ≤ n then
    some ⟨ip, false, 4 * (beAt b ip 1 % 16), beAt b (ip + 9) 1, ip + 12, 4, beAt b (ip + 6) 2 % 0x4000 != 0, beAt b (ip + 2) 2⟩
  else if beAt b e 2 = 0x86DD ∧ beAt b ip 1 / 16 = 6 ∧ ip + 40 ≤ n then
    some ⟨ip, true, 40, beAt b (ip + 6) 1, ip + 8, 16, false, beAt b (ip + 4) 2 + 40⟩
  else none

/-! ### The flow hash (01 R60, R911) -/

/-- The outer VLAN ID, 0 if untagged. -/
def outerVlan (b : Bytes) : Nat := if beAt b 12 2 = 0x8100 ∨ beAt b 12 2 = 0x88A8 then beAt b 14 2 % 4096 else 0

/-- The hash key of a client port or the host front from the outer VLAN ID on; a byte that the frame has not is 0 (01 R60; log 121, DESIGN
CHOICE). -/
def flowFields (b : Bytes) : Bytes :=
  beBytes 2 (outerVlan b) ++
    match ipHeader b b.length with
    | some ip =>
      if !ip.v6 ∧ ip.hlen < 20 then slice b 0 12
      else
        let l4 := ip.at_ + ip.hlen
        let ports := if (ip.proto = 6 ∨ ip.proto = 17) ∧ !ip.frag ∧ l4 + 4 ≤ b.length then slice b l4 4 else [0, 0, 0, 0]
        slice b ip.src (2 * ip.alen) ++ [BitVec.ofNat 8 ip.proto] ++ ports
    | none => slice b 0 12

/-- Hash bits 10 to 0 of a key (01 R60). -/
def flowHash (key : Bytes) : Nat := (crc32c key).toNat % 2048

/-! ### Checksum results (09 R502, R503) -/

/-- The sum of the pseudo-header of a packet whose transport part is `n` bytes. -/
def pseudoSum (b : Bytes) (ip : IpAt) (n : Nat) : Nat := sum16 (slice b ip.src (2 * ip.alen)) + ip.proto + n

/-- The transport part that R503 verifies: where it lies and how long it is. -/
def l4Part (b : Bytes) (ip : IpAt) : Option (Nat × Nat) :=
  if (ip.proto = 6 ∨ ip.proto = 17) ∧ !ip.frag ∧ ip.hlen ≤ ip.total ∧ ip.at_ + ip.total ≤ b.length then
    some (ip.at_ + ip.hlen, ip.total - ip.hlen)
  else none

/-- The L4 result: 0 not verified, 1 correct, 2 wrong. -/
def l4Result (b : Bytes) (ip : IpAt) : Nat :=
  match l4Part b ip with
  | some (i, n) =>
    if ip.proto = 17 ∧ beAt b (i + 6) 2 = 0 then (if ip.v6 then 2 else 0)
    else if fold16 (pseudoSum b ip n + sum16 (slice b i n)) = 0xFFFF then 1 else 2
  | none => 0

/-- The 4-bit checksum results of a frame (09 R502). -/
def csumResults (b : Bytes) : Nat :=
  match ipHeader b b.length with
  | some ip =>
    if b.length < ip.at_ + ip.hlen then 0
    else if ip.v6 then l4Result b ip
    else if ip.hlen < 20 then 0
    else (if fold16 (sum16 (slice b ip.at_ ip.hlen)) = 0xFFFF then 4 else 8) + l4Result b ip
  | none => 0

/-! ### Fronts (01 R52, 02 R127, 07 R410) -/

/-- A frame that has been stamped starts at its front: it is tagged with the next number (log 153, DESIGN CHOICE), and its head token
waits to be sent. -/
def enterFront (x : FrontStamp) (tok : Token) (data : Bytes) (err runt : Bool) (pool : Nat) (s : State) : State :=
  let t := { tok with slot := x.slot, ver := x.ver, stamp := x.stamp, steps := x.steps, key := s.serial }
  let f : Flight := { tag := s.serial, tok := t, head := data.take 256, data := data, err := err, runt := runt, pool := pool }
  { s with flights := s.flights ++ [f], serial := s.serial + 1 }

/-- A frame starts at its front, stamped with its entry version, its timestamp and count of output steps being those of `tok`. -/
def startFlight (tok : Token) (data : Bytes) (err runt : Bool) (pool : Nat) (s : State) : State :=
  let k := s.cls.current
  enterFront ⟨k, (ruleSlot s k).ver, tok.stamp, tok.steps⟩ tok data err runt pool (takeVersion s)

/-- The stamp of a frame whose first byte reaches its front now. -/
def stampNow (s : State) : FrontStamp := ⟨s.cls.current, (ruleSlot s s.cls.current).ver, outNow s, s.time.steps⟩

/-- The front feeds downstream cells: it is the reassembler's (07 R387). -/
def isLine (tok : Token) : Bool := tok.port == 17

/-- The tract and logical role of a frame (01 R61, R62, R74). -/
def routeOf (s : State) (tok : Token) : Nat × Nat :=
  let base := if isLine tok then 8 else 0
  if s.mode.mode = .fallow then (0, base)
  else
    let e := tok.hash % 256
    let reg := if isLine tok then R.GLOBAL_SPREAD_DN (e / 8) else R.GLOBAL_SPREAD_UP (e / 8)
    (rfld s reg (4 * (e % 8)) 4 % 8, base + tok.hash / 256 % 8)

/-- The physical cell of a role of tract `t` (01 R65). -/
def cellOf (s : State) (t role : Nat) : Nat := rfld s (R.TRACT_CELL_MAP t (role / 4)) (8 * (role % 4)) 5

/-- The flight of a tag. -/
def flight (s : State) (tag : Nat) : Option Flight := s.flights.find? fun f => f.tag == tag

/-- A flight changed. -/
def setFlight (s : State) (f : Flight) : State := { s with flights := s.flights.map fun g => if g.tag = f.tag then f else g }

/-- A flight ends and releases its entry version (07 R412). -/
def endFlight (f : Flight) (s : State) : State :=
  releaseVersion f.tok.slot { s with flights := s.flights.filter fun g => g.tag != f.tag }

/-- The entry version of a frame that its front has stamped and does not send is released (07 R412). -/
def releaseStamp (x : Option FrontStamp) (s : State) : State :=
  match x with
  | some x => releaseVersion x.slot s
  | none => s

/-- What a flight draws from the cistern returns: its credit, its granules, or the granules it took from the pool; at its front a reassembled
frame's granules are the pool's still. -/
def returnSpace (f : Flight) (s : State) : State :=
  let s1 := returnCredit f.credit s
  if f.full then freeChunks s1 f.parts
  else if f.loc = .front then s1
  else toAreas f.pool s1

/-- What a flight released by tag draws from the cistern returns, a reassembled frame's granules to the pool (02 R127, 07 R386). -/
def releaseSpace (f : Flight) (s : State) : State :=
  if isLine f.tok && f.loc != .front then
    (if f.full then (f.parts.flatMap Chunk.granules).foldl letGoPool s else toPools f.pool s)
  else returnSpace f s

/-- A flight is discarded: nothing of it stays. -/
def dropFlight (f : Flight) (s : State) : State := endFlight f (tsOutcome f.tok 3 (returnSpace f s))

/-- A flight is released by tag: nothing of it stays. -/
def releaseFlight (f : Flight) (s : State) : State := endFlight f (tsOutcome f.tok 3 (releaseSpace f s))

end Sys2Proof.Machine
end

