-- ==== Sys2Proof/Machine/Cells.lean ====
section
/-!
DEFINITION. Cells (01 R53-R75, 02 R122-R131, 07 R394-R435, 08 R446-R448, 09 R498-R501): admit, parse, classify, dispatch, stalls, the cell
map, the fence and cell reset. Rows HEAD_TOKEN, PAYLOAD_COMPLETE, DISPATCH_STAGE, CELL_STALL, TRACT_CELL_MAP, TRACT_CELL_RESET,
CELL_RESET_DONE, FRONT_ROUTING_DRAIN_END, ENQUEUE.
-/
namespace Sys2Proof.Machine

/-! ### Admit (08 R446, R447, 09 R498-R501) -/

/-- Granules of a number of bytes. -/
def granulesOf (n : Nat) : Nat := (n + 255) / 256

/-- The credit that a frame needs (08 R446). -/
def creditOf (f : Flight) : Nat := if isLine f.tok then f.pool else 63

/-- A runt refused at admit: counted, and captured in SERVICE and FALLOW (09 R499-R501). Its length includes the FCS. -/
def runtEff (p len : Nat) (stamp : DWord) (s : State) : State :=
  if s.mode.mode = .service ∨ s.mode.mode = .fallow then
    let s1 := portStat s p 7 1
    let s2 := if rbit s (R.CLIENT_RX_CTL p) 29 then event s1 (R.CLIENT_EVENT p) 0 else s1
    if rbit s (R.CLIENT_RUNT_CAP p) 31 then s2
    else wr64 (wr s2 (R.CLIENT_RUNT_CAP p) (pack [(31, 1), (16, len), (0, p)])) (R.CLIENT_RUNT_TIME p) stamp
  else portStat s p 8 1

/-- Admit refuses a frame for want of granules (08 R447). -/
def noBuf (p : Nat) (s : State) : State := event (bump s (R.BUFFER_CNT_NOBUF p)) R.BUFFER_EVENT 0

/-- The pool draws from the general area what a reassembled frame takes out of it (07 R385). -/
def refillPool (n : Nat) (s : State) : State :=
  let k := Nat.min n (cisFree s)
  let c := s.cistern
  { s with cistern := { c with gen := c.gen - k, pool := c.pool - n + k, short := c.short + (n - k) } }

/-- The frame's credit is granted. -/
def grant (f : Flight) (s : State) : Flight × State :=
  if isLine f.tok then (f, refillPool f.pool s)
  else ({ f with credit := 63 }, { s with cistern := { s.cistern with credits := s.cistern.credits + 63 } })

/-! ### Decisions (07 R404, R426-R433) -/

/-- A class counter counts one more. -/
def classCount (k : Nat) (s : State) : State := bump s (R.CLASS_CNT k)

/-- A pass ends with fate `x`, parse flags `flags` and the action counter that its application counts. -/
def settleFate (f : Flight) (x : Fate) (flags count : Nat) : Flight :=
  { f with fate := some x, count := count, tok := { f.tok with flags := flags } }

/-- An exception: the exception path of a privileged port, else the port's default action (07 R427, R430). -/
def exception (f : Flight) (w : Walk) (flags k : Nat) (s : State) : Flight × State :=
  let s1 := cellEvent (classCount k s) f.tract f.cell .exc 1
  match privEntry s f.tok.port with
  | some n =>
    let l := bucketLevel s n
    if tokenUnit ≤ l then
      (settleFate f (.ring (rfld s (R.CLASS_PRIV n) 0 8)) (flags + 0x100) 0, classCount 6 (setBucket s1 n (l - tokenUnit)))
    else (settleFate f .lost flags 0, event (classCount 7 s1) R.CLASS_EVENT 3)
  | none =>
    let a := defaultAct s f.tok.slot f.tok.port
    (settleFate f (actFate a w.pcp) (flags + 0x200) (actCnt a), classCount 5 s1)

/-- A RECIRC action: the head token returns to its role, or the frame is dropped on pass 4 (07 R431, R433). -/
def recirculate (f : Flight) (a : DWord) (flags : Nat) (s : State) : Flight × State :=
  if 4 ≤ f.pass then (settleFate f .lost flags 0, classCount 9 s)
  else
    ({ f with loc := .recirc, pass := f.pass + 1, node := actNode a, off := actOff a, walk := none
              tok := { f.tok with flags := flags } },
      cellEvent (classCount 8 (actCount s (actCnt a))) f.tract f.cell .recirc 1)

/-- A matching rule's action. -/
def followAction (f : Flight) (w : Walk) (a : DWord) (flags : Nat) (s : State) : Flight × State :=
  if actKind a = 5 then exception f w (flags + 0x20) 3 s
  else if w.flags % 4 / 2 = 1 ∧ !actPartial a then exception f w flags 4 s
  else if actKind a = 4 then recirculate f a flags s
  else (settleFate f (actFate a w.pcp) flags (actCnt a), s)

/-- A pass whose walk is complete is judged (07 R426). -/
def judge (f : Flight) (w : Walk) (s : State) : Flight × State :=
  let flags := w.flags + (f.pass - 1) * 64
  if w.flags % 32 / 8 ≠ 0 then exception f w flags 0 s
  else if w.flags % 8 / 4 = 1 then exception { f with tok := { f.tok with csum := 0 } } w flags 1 s
  else
    match lookup s f.tract (keyOf w f.tok.port f.pass) (ruleSlot s f.tok.slot).pos with
    | .bad e => exception f w (flags + 0x400) 2 (fault s .cls 1 f.tract (BitVec.ofNat 64 e))
    | .miss => exception f w (flags + 0x20) 3 s
    | .hit a => followAction f w a flags s

/-- The bounds still pending are compared with L (07 R397), and the pass is judged; a conflict found here joins DONE or PARSE_DEPTH only
(07 R396). -/
def concludePass (f : Flight) (w : Walk) (s : State) : Flight × State :=
  judge f (if f.tok.len < w.pending ∧ w.flags % 32 / 4 = 0 then { w with flags := w.flags + pfConflict } else w) s

/-- A pass begins: the walk, and the judgement unless it waits for L (07 R394, R397). -/
def beginPass (f : Flight) (s : State) : State :=
  let s1 := cellEvent s f.tract f.cell .pass 1
  let (w, bad) := parsePass s f.tract f.head f.tok.len f.node f.off
  let s2 := cellEvent s1 f.tract f.cell .headers (w.flags / 4096)
  let s3 := match bad with
    | some n => fault s2 .cls 2 f.tract (BitVec.ofNat 64 n)
    | none => s2
  let g := { f with walk := some w, loc := .cell, since := s.now }
  if w.pending = 0 ∨ f.full then
    let (h, s4) := concludePass g w s3
    setFlight s4 h
  else setFlight s3 g

/-! ### HEAD_TOKEN -/

/-- A tract replica's entries become uncorrectable, and reads are corrected (07 R438). -/
def replicaUpset (t c : Nat) (u : ReplicaUpset) (s : State) : State :=
  cellEvent { s with cls := { s.cls with
    badNodes := u.nodes.foldl (fun l n => setIns (t * 16384 + n % 64) l) s.cls.badNodes
    badRules := u.rules.foldl (fun l n => setIns (t * 16384 + n % 16384) l) s.cls.badRules } } t c .eccCorr u.corr

/-- A head token enters a role: it counts toward the governor's demand (16 R851, 07 R431). -/
def roleToken (t role : Nat) (s : State) : State :=
  let p := pace s t
  setPace s t { p with tokens := put 0 p.tokens role (look 0 p.tokens role + 1) }

/-- A front's head token asks for its role: the front is not draining, no earlier token of the front is held before the same tract, and no
recirculated token waits for the role (01 R70, R75, 07 R434). -/
def asksRole (s : State) (f : Flight) : Bool :=
  let r := routeOf s f.tok
  let before := s.flights.takeWhile fun g => g.tag != f.tag
  !s.mode.drain.contains f.tok.port
    && !(before.any fun g => g.loc == .front && g.tok.port == f.tok.port && (routeOf s g.tok).1 == r.1)
    && !(s.flights.any fun g => g.loc == .recirc && (g.tract, g.role) == r)

/-- Front `p` asks for role `role` of tract `t`. -/
def frontAsks (s : State) (t role p : Nat) : Bool :=
  s.flights.any fun g => g.loc == .front && g.tok.port == p && routeOf s g.tok == (t, role) && asksRole s g

/-- A front's head token is granted its role: no front that lost to this one still waits for it (01 R39, R40). -/
def canSend (s : State) (f : Flight) : Bool :=
  let r := routeOf s f.tok
  asksRole s f && !barred s (.role r.1 r.2) f.tok.port (frontAsks s r.1 r.2)

/-- The head token of `f` has won its role. -/
def grantRole (f : Flight) (s : State) : State :=
  let r := routeOf s f.tok
  granted (.role r.1 r.2) f.tok.port ((List.range 18).filter (frontAsks s r.1 r.2)) s

/-- A refused head token: its bytes are discarded at the front (01 R55). -/
def refuseHead (f : Flight) (t c : Nat) (s : State) : State := cellEvent (dropFlight f s) t c .refuse 1

/-- A front's head token reaches its cell (01 R53). -/
def admitHead (f : Flight) (u : ReplicaUpset) (s : State) : State :=
  let (t, role) := routeOf s f.tok
  let c := cellOf s t role
  let s1 := replicaUpset t c u (roleToken t role s)
  if f.runt then
    refuseHead f t c (runtEff f.tok.port f.tok.len f.tok.stamp s1)
  else if cisFree s1 < creditOf f then refuseHead f t c (noBuf f.tok.port s1)
  else
    let g := { f with tract := t, role := role, cell := c, loc := .cell, node := s.parser.starts.getD f.tok.port 0 }
    let (h, s2) := grant g s1
    beginPass h (cellEvent (setFlight s2 h) t c .admitted 1)

/-- A cell takes the head token of a tag: one from a front, or one that recirculates (01 R59, 07 R431). -/
def headTokenEff (tag : Nat) (u : ReplicaUpset) (s : State) : State :=
  match flight s tag with
  | some f =>
    match f.loc with
    | .front => if canSend s f then admitHead f u (grantRole f s) else s
    | .recirc =>
      let c := cellOf s f.tract f.role
      beginPass { f with cell := c } (replicaUpset f.tract c u (roleToken f.tract f.role s))
    | .cell => s
  | none => s

/-- HEAD_TOKEN. -/
def execHeadToken (tag : Nat) (u : ReplicaUpset) (s : State) : Out := viaCore s (headTokenEff tag u)

/-! ### PAYLOAD_COMPLETE (01 R56, 07 R397, 08 R448) -/

/-- The traffic class of a frame at its front (14 R751): a downstream frame's PCP; an upstream frame's priority, known where its queue is. -/
def frontClass (s : State) (f : Flight) : Option Nat :=
  if isLine f.tok then f.walk.bind fun w => w.pcp
  else match f.fate with
  | some (.queue q) => some (qPrio s q)
  | _ => none

/-- The accesses of a front (14 R751): client-port fronts count as their port. -/
def frontAccess (s : State) (f : Flight) : Access :=
  { addr := 0, bytes := 0, master := match f.tok.src with | .client _ => 4 | _ => 5
    id := match f.tok.src with | .client p => p | _ => 0
    cls := frontClass s f, priv := privPort s f.tok.port }

/-- The payload lies in its granules; the credit that is not used returns. -/
def landPayload (f : Flight) (gs : List Nat) (s : State) : Flight × State :=
  let n := gs.length
  let c := s.cistern
  let s1 := if isLine f.tok then s
    else returnCredit (f.credit - n) { s with cistern := { c with gen := c.gen - n, credits := c.credits - n } }
  ({ f with full := true, credit := 0, pool := 0, data := [], parts := [.cis gs 0 f.tok.len] }, holdAll s1 gs)

/-- The front has written the payload `data` of `f` into its granules. -/
def writePayload (f : Flight) (gs : List Nat) (data : Bytes) (s : State) : State :=
  writeRuns (frontAccess s f) s (runs gs 0 data.length) data

/-- The front of tag `tag` reports the end of its frame, whose payload it has written into `granules`. -/
def payloadCompleteEff (tag : Nat) (granules : List Nat) (s : State) : State :=
  match flight s tag with
  | some f =>
    if f.loc = .front ∨ f.full ∨ !canGive s granules ∨ granules.length ≠ granulesOf f.tok.len then s
    else
      let (g, s1) := landPayload f granules s
      match g.walk, g.fate with
      | some w, none =>
        let (h, s2) := concludePass g w s1
        setFlight (writePayload h granules f.data s2) h
      | _, _ => setFlight (writePayload g granules f.data s1) g
  | none => s

/-- PAYLOAD_COMPLETE. -/
def execPayloadComplete (tag : Nat) (granules : List Nat) (s : State) : Out := viaCore s (payloadCompleteEff tag granules)

/-! ### DISPATCH_STAGE (01 R57, R58, 02 R124-R127, 07 R404, R412, R435) -/

/-- Cistern bytes of frames accepted for receive rings whose granules have not returned (10 R596). -/
def backlogUsed (s : State) : Nat :=
  let size (i : RxItem) : Nat := match i with | .frame f => 256 * (f.parts.flatMap Chunk.granules).length | .hem _ _ _ _ => 0
  s.rings.foldl (fun n e => n + (e.2.inbox.foldl (fun n i => n + size i) 0) + (match e.2.cur with | some c => size c.item | none => 0)) 0

/-- The receive ring takes frames and messages (10 R543, R597, 15 R787). -/
def ringOpen (s : State) (r : Nat) : Bool :=
  (ring s true r).st == .running && !s.host.d3 && !s.host.perst && s.mode.mode != .loading

/-- The egress switch accepts a frame for receive ring `r`, or it is dropped (10 R587, R596, R597). -/
def acceptRing (r : Nat) (f : QFrame) (s : State) : State :=
  let n := 256 * (f.parts.flatMap Chunk.granules).length
  let lim := zeroAsOne (rfld s R.RING_RX_BACKLOG 0 16) * 65536
  let s1 := tsOutcome f.tok 3 s
  if !ringOpen s r || decide (lim < backlogUsed s + n) then bump (freeChunks s1 f.parts) (R.RING_CNT_OFF 1 r)
  else setRing s1 true r { ring s1 true r with inbox := (ring s1 true r).inbox ++ [.frame f] }

/-- The descriptor token of a flight. -/
def descriptorOf (f : Flight) : QFrame :=
  { tok := { f.tok with pcp := if isLine f.tok then f.walk.bind fun w => w.pcp else none }, carried := 0, stop := f.tok.len, parts := f.parts }

/-- The frame's fate is carried out; its action counts (07 R404, R405). -/
def sendFate (f : Flight) (x : Fate) (s : State) : State :=
  let s1 := endFlight f (actCount s f.count)
  match x with
  | .drop => cellEvent (tsOutcome f.tok 3 (freeChunks s1 f.parts)) f.tract f.cell .discard 1
  | .lost => tsOutcome f.tok 3 (freeChunks s1 f.parts)
  | .queue q => cellEvent { s1 with toQueue := s1.toQueue ++ [(q, descriptorOf f)] } f.tract f.cell .toQueue 1
  | .port p => cellEvent { s1 with toPort := s1.toPort ++ [(p, descriptorOf f)] } f.tract f.cell .toEgress 1
  | .ring r => cellEvent (acceptRing r (descriptorOf f) s1) f.tract f.cell .toEgress 1

/-- An earlier frame of the same front and role has not been dispatched (07 R435). -/
def mustWait (s : State) (f : Flight) : Bool :=
  (s.flights.takeWhile fun g => g.tag != f.tag).any fun g =>
    g.loc != .front && g.tok.port == f.tok.port && g.tract == f.tract && g.role == f.role

/-- The arbiter that a fate's descriptor token passes (01 R58, R77, R78). -/
def fateArbiter : Fate → Option Arbiter
  | .queue q => some (.queueIn (qTract q))
  | .port p => some (.portIn p)
  | .ring r => some (.ringIn r)
  | _ => none

/-- A cell by its number among those of all tracts. -/
def cellNumber (f : Flight) : Nat := f.tract * 18 + f.cell

/-- The frame's descriptor token is ready to leave its cell for a switch. -/
def tokenReady (s : State) (f : Flight) : Bool := f.loc == .cell && f.full && !f.err && !mustWait s f

/-- Cell number `c` asks for arbiter `a`. -/
def cellAsks (s : State) (a : Arbiter) (c : Nat) : Bool :=
  s.flights.any fun g => cellNumber g == c && (g.fate.bind fateArbiter) == some a && tokenReady s g

/-- The token of `f` is granted its way: no cell that lost to this one still waits for the same end of the switch (01 R39, R40). -/
def wayFree (s : State) (f : Flight) (x : Fate) : Bool :=
  match fateArbiter x with
  | some a => !barred s a (cellNumber f) (cellAsks s a)
  | none => true

/-- The token of `f` has won its way. -/
def grantWay (f : Flight) (x : Fate) (s : State) : State :=
  match fateArbiter x with
  | some a => granted a (cellNumber f) ((List.range 144).filter (cellAsks s a)) s
  | none => s

/-- A token whose check fails at the crossbar is discarded, and its frame released by tag; its cell has not left the map, so that
TRACT_FENCE_ABANDON does not count it (02 R124, R127; log 147, DEDUCED). -/
def failCheck (f : Flight) (s : State) : State := releaseFlight f (fault s (.tract f.tract) 3 f.cell (BitVec.ofNat 64 f.tag))

/-- A cell emits the token of a frame whose payload is complete; `checkFails` says that its check fails at the crossbar, as that of a head token
that has left for its role again may (02 R124, R126). -/
def dispatchFlight (f : Flight) (checkFails : Bool) (s : State) : State :=
  match f.fate with
  | some x =>
    if f.loc ≠ .cell ∨ !f.full ∨ mustWait s f then s
    else if checkFails then failCheck f s
    else if f.err then cellEvent (dropFlight f s) f.tract f.cell .discard 1
    else if wayFree s f x then sendFate f x (grantWay f x s) else s
  | none => if f.loc = .recirc ∧ checkFails then failCheck f s else s

/-- The token of tag `tag` leaves its cell, or stops at the fence (02 R126), where it is recorded as FENCE_DROP alone whether its check would
fail or not (R124; log 126, DESIGN CHOICE). -/
def dispatchEff (tag : Nat) (checkFails : Bool) (s : State) : State :=
  match flight s tag with
  | some f => dispatchFlight f checkFails s
  | none =>
    match s.ghosts.find? fun g => g.tag == tag with
    | some g =>
      fault (bump { s with ghosts := s.ghosts.filter fun h => h.tag != tag } (R.TRACT_FENCE_DROP g.tract))
        (.tract g.tract) 4 g.cell (BitVec.ofNat 64 tag) |> fun s => tractEvent s g.tract .fenceDrop 1
    | none => s

/-- DISPATCH_STAGE. -/
def execDispatchStage (tag : Nat) (checkFails : Bool) (s : State) : Out := viaCore s (dispatchEff tag checkFails)

/-! ### ENQUEUE (05 R278) -/

/-- The queue manager of tract `t` handles the oldest descriptor token that reaches it; a timestamp request ends NOT_TAKEN (10 R587). -/
def enqueueEff (t : Nat) (s : State) : State :=
  match s.toQueue.find? fun e => qTract e.1 == t with
  | some e => enqueueFrame e.1 e.2 (tsOutcome e.2.tok 3 { s with toQueue := s.toQueue.erase e })
  | none => s

/-- ENQUEUE. -/
def execEnqueue (t : Fin 8) (s : State) : Out := viaCore s (enqueueEff t)

/-! ### Cell health (02 R122-R131) -/

/-- Cell `c` of tract `t` is named in a role. -/
def inMap (s : State) (t c : Nat) : Bool := (List.range 16).any fun r => cellOf s t r == c

/-- The role that cell `c` holds. -/
def roleOf (s : State) (t c : Nat) : Nat := ((List.range 16).find? fun r => cellOf s t r == c).getD 0

/-- A head token admitted to the cell has been held past the watch limit (02 R123). -/
def stalled (s : State) (t c : Nat) : Bool :=
  let lim := rfld s (R.TRACT_CELL_WATCH t) 0 16
  lim != 0 && inMap s t c
    && s.flights.any fun f => f.loc == .cell && f.tract == t && f.cell == c && decide (625 * lim < 2 * (s.now - f.since))

/-- A stalled cell's health bit sets and the stall is recorded once for each time it sets. -/
def cellStallEff (t c : Nat) (s : State) : State :=
  if stalled s t c && !rbit s (R.TRACT_CELL_HEALTH t) c then
    fault (event s (R.TRACT_CELL_HEALTH t) c) (.tract t) 2 c (BitVec.ofNat 64 (roleOf s t c))
  else s

/-- CELL_STALL. -/
def execCellStall (t : Fin 8) (c : Fin 18) (s : State) : Out := viaCore s (cellStallEff t c)

/-- A tract records MAP_CONFLICT. -/
def mapConflict (t : Nat) (ident : DWord) (s : State) : State := fault s (.tract t) 1 wholeBlock ident

/-- The tokens of a fenced cell are released by tag, and the cell holds them as tokens the fence will stop (02 R126, R127). -/
def fenceCell (t : Nat) (s : State) (c : Nat) : State :=
  let held := s.flights.filter fun f => f.loc == .cell && f.tract == t && f.cell == c
  let s1 := event s (R.TRACT_CELL_FENCE t) c
  held.foldl (fun s f =>
    let s2 := bump (releaseFlight f s) (R.TRACT_FENCE_ABANDON t)
    { s2 with ghosts := s2.ghosts ++ [⟨f.tag, t, c⟩] }) s1

/-- Register `n` of the cell map with value `v`: discarded whole, or applied with the fence of the cells it removes (01 R68, R69, 02 R125,
R129). -/
def setCellMap (t n : Nat) (v : Word) (s : State) : State :=
  let new := wr s (R.TRACT_CELL_MAP t n) (v &&& 0x1F1F1F1F)
  let cells := (List.range 16).map (cellOf new t)
  if cells.any (fun c => decide (17 < c) || rbit s (R.TRACT_CELL_FENCE t) c) || !decide cells.Nodup then
    mapConflict t (BitVec.ofNat 64 (n * 2 ^ 32 + v.toNat)) s
  else ((List.range 18).filter fun c => inMap s t c && !inMap new t c).foldl (fenceCell t) new

/-- A tract is under a structural reload (06 R375, 15 R799). -/
def reloading (s : State) (t : Nat) : Bool := (drover s t).st == .reloading || (drover s t).reload

/-- TRACT_CELL_MAP_n takes `v`; a write to a tract under reload is refused (15 R799). -/
def cellMapEff (t n : Nat) (v : Word) (s : State) : State :=
  if !hasTract s t then s
  else if (List.range 8).any (reloading s) then mapConflict t (BitVec.ofNat 64 (n * 2 ^ 32 + v.toNat)) s
  else setCellMap t n v s

/-- TRACT_CELL_MAP. -/
def execTractCellMap (t : Fin 8) (n : Fin 4) (v : Word) (s : State) : Out := viaBar s (cellMapEff t n v)

/-- TRACT_CELL_RESET takes `v`: each cell in no role starts its reset, one in a role is a conflict, recorded with register number 0 (02 R121
R130, R131; log 124, DESIGN CHOICE). -/
def cellResetEff (t : Nat) (v : Word) (s : State) : State :=
  if hasTract s t then
    ((List.range 18).filter (bit v)).foldl (fun s c =>
      if inMap s t c then mapConflict t (v.setWidth 64) s else event s (R.TRACT_CELL_RESET t) c) s
  else s

/-- TRACT_CELL_RESET. -/
def execTractCellReset (t : Fin 8) (v : Word) (s : State) : Out := viaBar s (cellResetEff t v)

/-- The cell's event counters and their overflow bits clear (14 R724). -/
def clearCell (t c : Nat) (s : State) : State :=
  wr ((List.range 16).foldl (fun s k => wr64 s (R.TRACT_CELL_CNT t c k) 0) s) (R.TRACT_CELL_CNT_OVF t c) 0

/-- The reset of cell `c` completes: counters, health, fence and the reset bit clear (02 R130), also where a map write has named the cell since
(log 125, DESIGN CHOICE). A token that the cell still holds is gone, uncounted (log 152, DESIGN CHOICE). -/
def cellResetDoneEff (t c : Nat) (s : State) : State :=
  if rbit s (R.TRACT_CELL_RESET t) c then
    let off (s : State) (a : Nat) : State := wr s a (setBit (rd s a) c false)
    let s1 := off (off (off (clearCell t c s) (R.TRACT_CELL_HEALTH t)) (R.TRACT_CELL_FENCE t)) (R.TRACT_CELL_RESET t)
    { s1 with ghosts := s1.ghosts.filter fun g => !(g.tract == t && g.cell == c) }
  else s

/-- CELL_RESET_DONE. -/
def execCellResetDone (t : Fin 8) (c : Fin 18) (s : State) : Out := viaCore s (cellResetDoneEff t c)

/-- A front has no head token of the former routing left in a cell or on the recirculation path, and sends again (01 R75). -/
def drainEndEff (front : Nat) (s : State) : State :=
  if s.flights.any fun f => f.loc != .front && f.tok.port == front then s
  else { s with mode := { s.mode with drain := setDel front s.mode.drain } }

/-- FRONT_ROUTING_DRAIN_END. -/
def execFrontRoutingDrainEnd (front : Fin 18) (s : State) : Out := viaCore s (drainEndEff front)

end Sys2Proof.Machine
end

