-- ==== Sys2Proof/Machine/Client.lean ====
section
/-!
DEFINITION. Client ports (chapter 09): reception and its fates, the address filter, PAUSE and PFC, wake patterns, link and speed
detection, the transmit queue and transmission. Rows RECEIVED_FRAME, PAUSE_TIMER_END, LINK_DOWN, LINK_UP, SPEED_TRY, DETECTING,
TRANSMIT_QUEUE, TRANSMIT_FRAME, PFC_GENERATION, PAUSE_GENERATION, REFRESH, CLIENT_FC_CTL, CLIENT_STAT_PRESET, LOCAL_OR_REMOTE_FAULT.
-/
namespace Sys2Proof.Machine

/-! ### Ports -/

/-- Client port `p`. -/
def port (s : State) (p : Nat) : Port := look {} s.ports p

/-- Client port `p` set. -/
def setPort (s : State) (p : Nat) (x : Port) : State := { s with ports := put {} s.ports p x }

/-- Port `p` is enabled by the image (09 R485). -/
def portOn (s : State) (p : Nat) : Bool := rbit s (R.CLIENT_PORT_CFG p) 31

/-- Port 0 detects its speed (09 R488). -/
def autoPort (s : State) : Bool := portOn s 0 && rfld s (R.CLIENT_PORT_CFG 0) 0 3 == 4

/-- The time that one byte takes at a speed, in ps (09 R481). -/
def bytePs (speed : Nat) : Nat := 80 / 2 ^ speed

/-- The present instant in ps (log 3, DESIGN CHOICE). -/
def psNow (s : State) : Nat := s.now * 3200

/-- CLIENT_PORT_STATUS. -/
def portStatus (s : State) (p : Nat) : Word :=
  let x := port s p
  pack [(31, b2n x.link), (30, b2n x.lf), (29, b2n x.rf), (28, b2n x.detecting), (0, x.speed)]

/-- CLIENT_FC_STATE: the received timers that run (09 R513). -/
def fcState (s : State) (p : Nat) : Word :=
  let run (t : Option (Nat × Nat)) : Bool := match t with | some (_, e) => decide (psNow s < e) | none => false
  pack [(8, b2n (run (port s p).pause))] ||| bitsOf 8 fun k => run (look none (port s p).pfc k)

/-! ### PAUSE and PFC received (09 R514-R516) -/

/-- A received timer set to `q` quanta from now; a frame that the timer it replaces still holds is not let go (09 R515-R517). -/
def rxTimer (s : State) (p : Nat) (old : Option (Nat × Nat)) (q : Nat) : Option (Nat × Nat) :=
  let now := psNow s
  let grace := match old with
    | some (g, e) => if now < e then g else now + 60000
    | none => now + 60000
  if q = 0 then none else some (grace, now + q * 64 * bytePs (port s p).speed)

/-- A MAC control frame is consumed (09 R514-R516). -/
def macControl (p : Nat) (b : Bytes) (s : State) : State :=
  let op := beAt b 14 2
  let x := port s p
  if op = 1 then
    let s1 := portStat s p 12 1
    if rbit s (R.CLIENT_FC_CTL p) 31 then setPort s1 p { x with pause := rxTimer s p x.pause (beAt b 16 2) } else s1
  else if op = 0x0101 then
    let s1 := portStat s p 13 1
    let en := beAt b 16 2
    let ks := (List.range 8).filter en.testBit
    if rbit s (R.CLIENT_FC_CTL p) 30 then
      setPort s1 p { x with pfc := ks.foldl (fun m k => put none m k (rxTimer s p (look none m k) (beAt b (18 + 2 * k) 2))) x.pfc }
    else s1
  else portStat s p 14 1

/-! ### The address filter (09 R494, R495) -/

/-- Address `a` is the ADDR of a valid entry, as the entries stood at instant `x` (09 R496). -/
def ownAddr (s : State) (x p a : Nat) : Bool :=
  (List.range 16).any fun n =>
    let e := rdAt s x (R.CLIENT_MAC_ADDR p n + 4) ++ rdAt s x (R.CLIENT_MAC_ADDR p n)
    bit e 63 && fld e 0 48 == a

/-- The group bit of a destination. -/
def isGroup (b : Bytes) : Bool := bit (b.getD 0 0) 0

/-- The broadcast address. -/
abbrev broadcast : Nat := 0xFFFFFFFFFFFF

/-- Instants in units of 2^-16/5 ns, of which a tick has 2^20. -/
def instantNow (s : State) : Nat := 2 ^ 20 * s.now

/-- When the start-of-frame delimiter of an arrival was detected (11 R630). -/
def beganAt (s : State) (f : Arrival) : Nat := instantNow s - 5 * f.age

/-- When the destination address of an arrival on port `p` had come in, six bytes after its delimiter (09 R496). -/
def addressedAt (s : State) (p : Nat) (f : Arrival) : Nat := beganAt s f + 6 * bytePs (port s p).speed * 327680 / 1000

/-- The filter accepts a destination. -/
def daAccepted (s : State) (p : Nat) (f : Arrival) : Bool :=
  let x := addressedAt s p f
  let b := f.bytes
  let a := beAt b 0 6
  let ctl := rdAt s x (R.CLIENT_RX_CTL p)
  (!isGroup b && ownAddr s x p a) || (a == broadcast && bit ctl 30) || (isGroup b && a != broadcast) || bit ctl 31

/-- Row 7 of R490 applies: a MAC control frame for this MAC. -/
def isMacControl (s : State) (p : Nat) (f : Arrival) : Bool :=
  let b := f.bytes
  beAt b 12 2 == 0x8808 && (beAt b 0 6 == 0x0180C2000001 || (!isGroup b && ownAddr s (addressedAt s p f) p (beAt b 0 6)))

/-! ### Wake patterns (09 R525-R528) -/

/-- Byte `i` of a frame agrees with pattern `n` as it stood at instant `x`. -/
def patternByte (s : State) (x n : Nat) (b : Bytes) (i : Nat) : Bool :=
  !bit (rdAt s x (R.CLIENT_WAKE_MASK n (i / 32))) (31 - i % 32)
    || fld (rdAt s x (R.CLIENT_WAKE_DATA n (i / 4))) (24 - 8 * (i % 4)) 8 == beAt b i 1

/-- A frame of port `p` that began at instant `x`, without its FCS, matches pattern `n` (09 R526, R528). -/
def wakeMatch (s : State) (x p : Nat) (b : Bytes) (n : Nat) : Bool :=
  let c := rdAt s x (R.CLIENT_WAKE_CTL n)
  let len := Nat.min 128 (fld c 0 8)
  decide (p < 4) && bit c 31 && bit c (16 + p) && len != 0 && decide (len ≤ b.length) && (List.range len).all (patternByte s x n b)

/-- The patterns of a carried frame that began at instant `x` are compared in FALLOW. -/
def wakePatterns (x p : Nat) (b : Bytes) (s : State) : State :=
  let hits := (List.range 32).filter (wakeMatch s x p b)
  match hits with
  | n :: _ =>
    if s.mode.mode ≠ .fallow then s
    else
      let s1 := hits.foldl (fun s k => event s R.CLIENT_WAKE_HIT k) s
      let s2 := if rbit s R.CLIENT_WAKE_FIRST 31 then s1 else wr s1 R.CLIENT_WAKE_FIRST (pack [(31, 1), (8, p), (0, n)])
      wakeCondition s2
  | [] => s

/-! ### RECEIVED_FRAME (09 R490-R503, 11 R630) -/

/-- The corrected timestamp of an arrival. -/
def rxStamp (s : State) (p : Nat) (f : Arrival) : DWord :=
  ofClock (outAgo s f.age) - psUnits (rdAt s (beganAt s f) (R.TIME_CORR_RX p (port s p).speed))

/-- MAX_LEN in force when an arrival began (09 R497). -/
def maxLen (s : State) (p : Nat) (f : Arrival) : Nat :=
  clampNat 64 16004 (fld (rdAt s (beganAt s f) (R.CLIENT_RX_CTL p)) 0 15)

/-- The bytes of the receive FIFO of a client port: 256 entries of 128 (01 R42). -/
abbrev rxFifoSize : Nat := 32768

/-- What a frame of port `p` between MAC and cistern still holds of the receive FIFO, in whole entries (01 R42; log 129, DESIGN CHOICE). -/
def fifoHeld (p : Nat) (f : Flight) : Nat := if f.tok.src = .client p then roundUp f.data.length 128 else 0

/-- The bytes of room in the receive FIFO of port `p`. -/
def fifoRoom (s : State) (p : Nat) : Nat := rxFifoSize - (s.flights.map (fifoHeld p)).sum

/-- The bytes of an arrival that the MAC puts into the FIFO: none past MAX_LEN, and none after one has met the FIFO full (09 R490, R492). -/
def storedLen (s : State) (p : Nat) (f : Arrival) : Nat := Nat.min (fifoRoom s p) (Nat.min f.bytes.length (maxLen s p f))

/-- A byte of an arrival meets the receive FIFO full (01 R45). -/
def overruns (s : State) (p : Nat) (f : Arrival) : Bool := decide (fifoRoom s p < Nat.min f.bytes.length (maxLen s p f))

/-- The frame of an arrival reaches its front; one longer than MAX_LEN has MAX_LEN bytes in its head token and as its length, also where
MAX_LEN is below 256 (01 R52; log 120, DESIGN CHOICE). -/
def toFront (p : Nat) (f : Arrival) (err runt : Bool) (s : State) : State :=
  let b := (f.bytes.take (storedLen s p f)).take (f.bytes.length - 4)
  startFlight { len := if runt then f.bytes.length else b.length, src := .client p, port := p, csum := csumResults b
                stamp := rxStamp s p f, steps := stepsAgo s f.age, hash := flowHash (BitVec.ofNat 8 p :: flowFields (b.take 256)) } b err runt 0 s

/-- A frame in error has sent its head token: it is longer than one, the bytes of one were stored, or all up to MAX_LEN, and rows 7 and 8 would
not stop it (01 R52, 09 R491, R492). -/
def headSent (s : State) (p : Nat) (f : Arrival) : Bool :=
  decide (260 < f.bytes.length) && decide (Nat.min 256 (maxLen s p f) ≤ storedLen s p f) && !isMacControl s p f && daAccepted s p f

/-- A frame in error is counted; one that has sent its head token ends in a payload-complete token that reports the error. -/
def rxError (p k : Nat) (f : Arrival) (s : State) : State :=
  let s1 := portStat s p k 1
  if headSent s p f then toFront p f true false s1 else s1

/-- A frame is carried to the front (row 9). -/
def rxCarried (p : Nat) (f : Arrival) (s : State) : State :=
  let n := f.bytes.length
  let b := f.bytes.take (n - 4)
  let s1 := portStat (portStat s p 0 1) p 1 n
  let s2 := if beAt b 0 6 = broadcast then portStat s1 p 2 1 else if isGroup b then portStat s1 p 3 1 else s1
  toFront p f false false (wakePatterns (beganAt s f) p b (winCount (some p) (rxStamp s p f) n s2))

/-- The FCS of a frame is right. -/
def fcsGood (b : Bytes) : Bool := slice b (b.length - 4) 4 == leBytes 4 (crc32 (b.take (b.length - 4))).toNat

/-- A received frame meets the first row of R490 that applies. -/
def rxFrame (p : Nat) (f : Arrival) (s : State) : State :=
  let n := f.bytes.length
  if overruns s p f then rxError p 9 f s
  else if s.mode.mode = .loading then portStat s p (if n < 64 then 8 else 11) 1
  else if n < 64 then toFront p f false true s
  else if f.codeErr then rxError p 5 f s
  else if maxLen s p f < n then rxError p 6 f s
  else if !fcsGood f.bytes then rxError p 4 f s
  else if isMacControl s p f then macControl p f.bytes s
  else if !daAccepted s p f then portStat s p 10 1
  else rxCarried p f s

/-- Port `p` has received a frame. -/
def receivedEff (p : Nat) (f : Arrival) (s : State) : State :=
  if !portOn s p then s
  else
    let s1 := portStat (portStat s p 23 f.fecOk) p 24 f.fecBad
    if !(port s p).link || f.bytes.isEmpty then s1 else rxFrame p f s1

/-- RECEIVED_FRAME. -/
def execReceivedFrame (p : Fin 16) (f : Arrival) (s : State) : Out := viaCore s (receivedEff p f)

/-! ### PAUSE_TIMER_END -/

/-- A timer that has run out, or none. -/
def expire (s : State) (t : Option (Nat × Nat)) : Option (Nat × Nat) :=
  match t with
  | some (_, e) => if e ≤ psNow s then none else t
  | none => none

/-- The pause timer, or the timer of priority `k`, has run out (09 R515, R516, R519). -/
def timerEndEff (p : Nat) (k : Option Nat) (s : State) : State :=
  let x := port s p
  match k with
  | none => setPort s p { x with pause := expire s x.pause }
  | some k => setPort s p { x with pfc := put none x.pfc k (expire s (look none x.pfc k)) }

/-- PAUSE_TIMER_END. -/
def execPauseTimerEnd (p : Fin 16) (k : Option (Fin 8)) (s : State) : Out := viaCore s (timerEndEff p (k.map (·.val)))

/-! ### Link (09 R486-R489, R507, R534, R536) -/

/-- The fault bits of a port change; a rise sets its event. -/
def portFaults (p : Nat) (lf rf : Bool) (s : State) : State :=
  let x := port s p
  let s1 := setPort s p { x with lf := lf, rf := rf }
  if (lf && !x.lf) || (rf && !x.rf) then event s1 (R.CLIENT_EVENT p) 2 else s1

/-- A frame of port `p` is dropped under counter `k` before its delimiter. -/
def txDrop (p k : Nat) (s : State) (f : QFrame) : State := portStat (tsOutcome f.tok 3 (freeChunks s f.parts)) p k 1

/-- How many bytes of a frame in transmission have left, eight bytes after its preamble began (09 R509). -/
def bytesSent (s : State) (p : Nat) (c : TxCur) : Nat :=
  let one := bytePs (port s p).speed
  (psNow s + (8 + c.bytes.length) * one - c.ends) / one - 8

/-- The frame in transmission is cut off (09 R507). -/
def cutOff (p : Nat) (s : State) : State :=
  let x := port s p
  match x.cur with
  | some c =>
    portStat (freeChunks (emit (setPort s p { x with cur := none, idleAt := psNow s })
      (.frame p (c.bytes.take (bytesSent s p c)) true)) c.parts) p 20 1
  | none => s

/-- What port `p` sends between frames: nothing with ENABLE 0, remote fault while it sees a local fault outside its own tries and LOADING, and
idle otherwise (09 R484, R487, R488, R493). -/
def signalOf (s : State) (p : Nat) : Signal :=
  let x := port s p
  if !portOn s p then .off
  else if x.lf && !x.link && !x.detecting && s.mode.mode != .loading then .remoteFault x.speed
  else .idle x.speed

/-- What port `p` sends changes where it has to. -/
def showSignal (s : State) (p : Nat) : State :=
  if (port s p).sends = signalOf s p then s
  else emit (setPort s p { port s p with sends := signalOf s p }) (.signal p (signalOf s p))

/-- What every port sends changes where it has to. -/
def showSignals (s : State) : State := (List.range 16).foldl showSignal s

/-- LINK of port `p` falls. -/
def linkDownEff (p : Nat) (lf rf : Bool) (s : State) : State :=
  let x := port s p
  if portOn s p && x.link then
    let s1 := portFaults p lf rf s
    let s2 := if lf then fault s1 (.client p) 2 p 0 else s1
    let s3 := event (setPort s2 p { port s2 p with link := false, txq := [], downAt := s.now }) (R.CLIENT_EVENT p) 1
    cutOff p (x.txq.foldl (txDrop p 20) s3)
  else s

/-- LINK_DOWN. -/
def execLinkDown (p : Fin 16) (lf rf : Bool) (s : State) : Out := viaCore s fun s => showSignal (linkDownEff p lf rf s) p

/-- LINK of port `p` rises: the faults are gone and the advertised set empties (09 R486, R922). -/
def linkUpEff (p : Nat) (s : State) : State :=
  let x := port s p
  if portOn s p && !x.link then
    event (setPort s p { x with link := true, lf := false, rf := false, told := 0, upAt := s.now }) (R.CLIENT_EVENT p) 1
  else s

/-- LINK_UP. -/
def execLinkUp (p : Fin 16) (s : State) : Out := viaCore s fun s => showSignal (linkUpEff p s) p

/-- The faults of a port change while LINK stays 0. -/
def faultChangeEff (p : Nat) (lf rf : Bool) (s : State) : State :=
  if portOn s p && !(port s p).link then portFaults p lf rf s else s

/-- LOCAL_OR_REMOTE_FAULT. -/
def execLocalOrRemoteFault (p : Fin 16) (lf rf : Bool) (s : State) : Out :=
  viaCore s fun s => showSignal (faultChangeEff p lf rf s) p

/-- CP0's try holds, or ends for the next speed (09 R488). -/
def speedTryEff (s : State) : State :=
  let x := port s 0
  if !(autoPort s && x.detecting) then s
  else if x.link then (if x.upAt + 3125000 ≤ s.now then setPort s 0 { x with detecting := false } else s)
  else if x.tryAt + 31250000 ≤ s.now then setPort s 0 { x with speed := if x.speed = 2 then 0 else 2, tryAt := s.now }
  else s

/-- SPEED_TRY. -/
def execSpeedTry (s : State) : Out := viaCore s fun s => showSignal (speedTryEff s) 0

/-- LINK of an AUTO CP0 has stayed 0 for 500 ms (09 R489). -/
def detectingEff (s : State) : State :=
  let x := port s 0
  if autoPort s && !x.detecting && !x.link && decide (x.downAt + 156250000 ≤ s.now) then
    setPort s 0 { x with detecting := true, tryAt := s.now }
  else s

/-- DETECTING. -/
def execDetecting (s : State) : Out := viaCore s fun s => showSignal (detectingEff s) 0

/-! ### The transmit queue (09 R504-R511, R921) -/

/-- The token of a frame joins the transmit queue of port `p`, or the frame is dropped. -/
def joinTx (p : Nat) (f : QFrame) (s : State) : State :=
  let x := port s p
  if beAt (partsBytes s f.parts) 12 2 = 0x8808 then txDrop p 22 s f
  else if !x.link || !portOn s p then txDrop p 20 s f
  else if zeroAsOne (rfld s (R.CLIENT_TX_CTL p) 0 16) * 65536 < frameBytes x.txq + f.remain then txDrop p 19 s f
  else setPort s p { x with txq := x.txq ++ [f] }

/-- The oldest token that the egress switch has accepted for port `p` arrives. -/
def transmitQueueEff (p : Nat) (s : State) : State :=
  match s.toPort.find? fun e => e.1 == p with
  | some e => joinTx p e.2 { s with toPort := s.toPort.erase e }
  | none => s

/-- TRANSMIT_QUEUE. -/
def execTransmitQueue (p : Fin 16) (s : State) : Out := viaCore s (transmitQueueEff p)

/-! ### Generated frames (09 R520-R524, R922) -/

/-- QUANTA in force. -/
def quantaOf (s : State) (p : Nat) : Nat := Nat.max 2 (rfld s (R.CLIENT_FC_CTL p) 0 16)

/-- TX_MODE. -/
def txMode (s : State) (p : Nat) : Nat := rfld s (R.CLIENT_FC_CTL p) 28 2

/-- Port `p` can begin a frame now: not while it tries a speed (09 R487, R488, R493). -/
def canBegin (s : State) (p : Nat) : Bool :=
  let x := port s p
  portOn s p && x.link && !x.detecting && s.mode.mode != .loading && x.cur.isNone && decide (x.idleAt ≤ psNow s)

/-- The pressured set calls for a PFC frame (09 R520). -/
def pfcWanted (s : State) (p : Nat) : Bool := txMode s p == 2 && pressured s p != (port s p).told

/-- The pressured set calls for a PAUSE (09 R521). -/
def pauseWanted (s : State) (p : Nat) : Bool := txMode s p == 1 && (pressured s p == 0) != ((port s p).told == 0)

/-- A further generated frame is due (09 R522). -/
def refreshDue (s : State) (p : Nat) : Bool :=
  (txMode s p == 1 || txMode s p == 2) && pressured s p != 0 && (port s p).told != 0
    && match (port s p).genAt with
       | some t => decide (t + quantaOf s p * 32 * bytePs (port s p).speed ≤ psNow s)
       | none => false

/-- A frame begins: it leaves the port and occupies the line (09 R509). -/
def beginTx (p : Nat) (b : Bytes) (parts : List Chunk) (bad : Bool) (gen : Option Nat) (s : State) : State :=
  let x := port s p
  let body := padTo b 60
  let all := body ++ leBytes 4 (crc32 body).toNat
  let ends := psNow s + (8 + all.length) * bytePs x.speed
  setPort s p { x with cur := some { ends := ends, bytes := all, parts := parts, bad := bad, gen := gen }
                       idleAt := ends + 12 * bytePs x.speed }

/-- A MAC control frame of port `p` (09 R523). -/
def controlFrame (s : State) (p op : Nat) (body : Bytes) : Bytes :=
  beBytes 6 0x0180C2000001 ++ beBytes 6 (fld (rd64 s (R.CLIENT_MAC_ADDR p 0)) 0 48) ++ beBytes 2 0x8808 ++ beBytes 2 op ++ body

/-- A generated frame begins; the advertised set becomes `told`. -/
def sendControl (p k told : Nat) (b : Bytes) (s : State) : State :=
  let s1 := beginTx p b [] false (some k) s
  setPort s1 p { port s1 p with told := told, genAt := some (psNow s) }

/-- A PFC frame begins: the pressured priorities with QUANTA, those no longer pressured with 0 (09 R520). -/
def sendPfc (p : Nat) (s : State) : State :=
  let now := pressured s p
  let times := (List.range 8).flatMap fun k => beBytes 2 (if now.testBit k then quantaOf s p else 0)
  sendControl p 18 now (controlFrame s p 0x0101 (beBytes 2 (now ||| (port s p).told) ++ times)) s

/-- A PAUSE begins (09 R521). -/
def sendPause (p : Nat) (s : State) : State :=
  let on := pressured s p != 0
  sendControl p 17 (if on then 0xFF else 0) (controlFrame s p 1 (beBytes 2 (if on then quantaOf s p else 0))) s

/-- PFC_GENERATION. -/
def execPfcGeneration (p : Fin 16) (s : State) : Out :=
  viaCore s fun s => if canBegin s p && pfcWanted s p then sendPfc p s else s

/-- PAUSE_GENERATION. -/
def execPauseGeneration (p : Fin 16) (s : State) : Out :=
  viaCore s fun s => if canBegin s p && pauseWanted s p then sendPause p s else s

/-- REFRESH. -/
def execRefresh (p : Fin 16) (s : State) : Out :=
  viaCore s fun s =>
    if canBegin s p && refreshDue s p then (if txMode s p = 2 then sendPfc p s else sendPause p s) else s

/-- The flow control register of port `p` takes `v`; the advertised set empties (09 R512, R524). -/
def fcCtlEff (p : Nat) (v : Word) (s : State) : State :=
  let s1 := wrField s (R.CLIENT_FC_CTL p) v 0xF000FFFF 0
  setPort s1 p { port s1 p with told := 0 }

/-- CLIENT_FC_CTL. -/
def execClientFcCtl (p : Fin 16) (v : Word) (s : State) : Out := viaBar s (fcCtlEff p v)

/-! ### Transmission (09 R505-R510, R517-R519, 11 R630 R635 R639-R645) -/

/-- The priority of a transmitted frame (09 R506). -/
def txPriority (s : State) (p : Nat) (b : Bytes) : Nat :=
  if beAt b 12 2 = 0x8100 ∨ beAt b 12 2 = 0x88A8 then beAt b 14 1 / 32 else rfld s (R.CLIENT_TX_CTL p) 16 3

/-- A received timer holds a frame that would begin now (09 R517, R519). -/
def holds (s : State) (t : Option (Nat × Nat)) : Bool :=
  match t with
  | some (grace, e) => decide (psNow s < e) && decide (grace < psNow s)
  | none => false

/-- The corrected transmit timestamp of a frame that begins now: its delimiter follows eight bytes later (11 R630). -/
def txStamp (s : State) (p : Nat) : DWord :=
  let sp := (port s p).speed
  outNow s + BitVec.ofNat 64 (8 * bytePs sp * 65536 / 1000) + psUnits (rd s (R.TIME_CORR_TX p sp))

/-- The frame is corrected at a client port: it came from the line, EN_DN and PORTS select it (11 R639). -/
def tcDownstream (s : State) (p : Nat) (f : QFrame) : Bool :=
  isLine f.tok && rbit s R.TIME_TC_CTL 30 && rbit s R.TIME_TC_CTL p

/-- The transparent clock corrects a frame that begins now, and counts it (11 R641, R644, R645). -/
def tcPort (p : Nat) (f : QFrame) (s : State) : State :=
  if tcDownstream s p f then
    match tcWrite s 0 f (txStamp s p) (rd s (R.TIME_TC_ADD 1)) with
    | (some x, s1) =>
      if x.step then event (bump s1 R.TIME_TC_CNT_STEP) R.TIME_EVENT 13
      else if x.sat then bump (bump s1 R.TIME_TC_CNT) R.TIME_TC_CNT_SAT
      else bump s1 R.TIME_TC_CNT
    | (none, s1) => s1
  else s

/-- A frame with a timestamp request reaches its delimiter (11 R635). -/
def stampTx (p : Nat) (f : QFrame) (s : State) : State :=
  match f.tok.tsReq, f.tok.src with
  | some seq, .ring r =>
    let (ok, s1) := stampQueue { port := p, ring := r, seq := seq, stamp := txStamp s p, slew := s.time.remain != 0, sel := s.time.sel } s
    tsOutcome f.tok (if ok then 1 else 2) s1
  | _, _ => s

/-- The transmit reads of port `p` (14 R751). -/
def txAccess (s : State) (p : Nat) (f : QFrame) : Access :=
  { addr := 0, bytes := 0, master := 4, id := p, cls := f.tok.pcp, priv := privPort s f.tok.port }

/-- The frame at the head of the transmit queue begins. -/
def sendFrame (p : Nat) (f : QFrame) (rest : List QFrame) (u : Upset) (s : State) : State :=
  let s1 := tcPort p f (upset (setPort s p { port s p with txq := rest }) u)
  let b := partsBytes s1 f.parts
  let (s2, bad) := readRuns (txAccess s1 p f) s1 (chunkRuns f.parts)
  let s3 := stampTx p f (beginTx p b f.parts bad.isSome none s2)
  match bad with
  | some g => fault s3 (.client p) 1 p (BitVec.ofNat 64 g)
  | none => s3

/-- The MAC of port `p` begins the next frame of its transmit queue, unless a timer or a generated frame goes first. -/
def transmitEff (p : Nat) (u : Upset) (s : State) : State :=
  let x := port s p
  match x.txq with
  | f :: rest =>
    let k := txPriority s p (partsBytes s f.parts)
    if !canBegin s p || pfcWanted s p || pauseWanted s p || refreshDue s p || holds s x.pause || holds s (look none x.pfc k) then s
    else sendFrame p f rest u s
  | [] => s

/-- TRANSMIT_FRAME. -/
def execTransmitFrame (p : Fin 16) (u : Upset) (s : State) : Out := viaCore s (transmitEff p u)

/-- The last FCS byte of a frame has left: it counts (09 R530). -/
def txDone (p : Nat) (c : TxCur) (s : State) : State :=
  let s1 := freeChunks (emit (setPort s p { port s p with cur := none }) (.frame p c.bytes c.bad)) c.parts
  match c.gen with
  | some k => portStat s1 p k 1
  | none => if c.bad then portStat s1 p 21 1 else portStat (portStat s1 p 15 1) p 16 c.bytes.length

/-- Transmissions that have ended by now. -/
def txTick (s : State) : State :=
  (List.range 16).foldl (fun s p =>
    match (port s p).cur with
    | some c => if c.ends ≤ psNow s then txDone p c s else s
    | none => s) s

/-! ### CLIENT_STAT_PRESET (09 R532, R533) -/

/-- The preset register of port `p` takes `v`; GO commits the preset. -/
def statPresetEff (p : Nat) (v : Word) (s : State) : State :=
  let s1 := wrField s (R.CLIENT_STAT_PRESET p) v 0x1F 0
  if bit v 31 && decide (fld v 0 5 ≤ 24) then wr64 s1 (R.CP_STAT p (fld v 0 5)) (rd64 s (R.CLIENT_STAT_PRESET_V p)) else s1

/-- CLIENT_STAT_PRESET. -/
def execClientStatPreset (p : Fin 16) (v : Word) (s : State) : Out := viaBar s (statPresetEff p v)

end Sys2Proof.Machine
end

