-- ==== Sys2Proof/Machine/Rings.lean ====
section
/-!
DEFINITION. Descriptor rings (10 R545, R546, R561-R602): enabling, doorbells, the walk, transmit frames and terminal messages, receive
frames and head-end messages, write-back. Rows RING_ENABLE, RING_DISABLE, RING_STOPPED, RING_DB_TAIL, DESCRIPTOR_FETCH,
TRANSMIT_RING_FRAME, RING_RECEIVE_FRAME, WRITE_BACK.
-/
namespace Sys2Proof.Machine

/-! ### Views and counts -/

/-- The state's code (10 R561). -/
def RingState.code : RingState → Nat
  | .disabled => 0
  | .running => 1
  | .halted => 2
  | .stopping => 3

/-- STATUS. -/
def ringStatus (s : State) (rx : Bool) (r : Nat) : Word :=
  let x := ring s rx r
  pack [(30, x.st.code), (29, b2n x.atBuf), (24, x.reason)]

/-- RING_HALTED_n. -/
def ringHalted (s : State) (n : Nat) : Word :=
  bitsOf 32 fun k => (ring s (decide (8 ≤ n)) (32 * (n % 8) + k)).st == .halted

/-- RING_RX_BACKLOG. -/
def backlogView (s : State) : Word :=
  pack [(16, (backlogUsed s + 65535) / 65536 % 65536), (0, rfld s R.RING_RX_BACKLOG 0 16)]

/-! ### Releasing (10 R567, R580) -/

/-- A head-end message is not delivered: it counts unless the device consumed it (03 R167). -/
def hemDrop (copied : Bool) (s : State) : State := if copied then s else bump s R.LINE_CNT_HEM_DROP

/-- What waits for a receive ring that is not running is dropped (10 R597, 03 R167). -/
def dropOff (r : Nat) (s : State) (i : RxItem) : State :=
  match i with
  | .frame f => bump (freeChunks s f.parts) (R.RING_CNT_OFF 1 r)
  | .hem _ _ _ copied => hemDrop copied (bump s (R.RING_CNT_OFF 1 r))

/-- The granules of an item return. -/
def freeItem (s : State) (i : RxItem) : State :=
  match i with
  | .frame f => freeChunks s f.parts
  | .hem _ _ _ _ => s

/-- An item is not delivered as a whole: its granules return, and a message of the headend counts (03 R167). -/
def dropItem (s : State) (i : RxItem) : State :=
  match i with
  | .frame _ => freeItem s i
  | .hem _ _ _ copied => hemDrop copied s

/-- The ring releases every operation that no write-back is owed for. -/
def releaseRing (rx : Bool) (r : Nat) (s : State) : State :=
  let x := ring s rx r
  let s1 := x.inbox.foldl (dropOff r) s
  let s2 := match x.cur with | some c => dropItem s1 c.item | none => s1
  setRing (releaseStamp x.front s2) rx r { x with
    descs := [], taken := [], part := [], got := 0, front := none, inbox := [], cur := none, hungFetch := false, hungRead := false }

/-- A halt abandons a frame: the one in progress, or one whose descriptors have only been read up to the halt; whole frames fetched ahead have
not begun (10 R580, R602). -/
def Ring.unfinished (x : Ring) (rx : Bool) : Bool :=
  if rx then x.cur.isSome else x.begun || (!x.descs.isEmpty && !x.descs.any (·.eop))

/-- A ring halts; at a buffer, the frame of that read is the one abandoned (10 R580, R602, R605). -/
def haltRing (rx : Bool) (r reason : Nat) (atBuf : Bool) (addr : DWord) (s : State) : State :=
  let n := b2n (atBuf || (ring s rx r).unfinished rx)
  let s1 := releaseRing rx r s
  let s2 := setRing s1 rx r { ring s1 rx r with st := .halted, reason := reason, atBuf := atBuf }
  let s3 := event (wr64 s2 (R.RING_HALT_ADDR (b2n rx) r) addr) (R.RING_EVENT (b2n rx) r) 1
  fault (bumpBy s3 (R.RING_CNT_ABANDON (b2n rx) r) n) .ring reason (ringNo rx r) addr

/-! ### RING_ENABLE, RING_DISABLE, RING_STOPPED (10 R564-R567) -/

/-- A ring is enabled. -/
def startRing (rx : Bool) (r : Nat) (s : State) : State :=
  let c := rd s (R.RING_CTL (b2n rx) r)
  let base := rd64 s (R.RING_BASE (b2n rx) r)
  setRing s rx r { st := .running, base := base, size := fld c 0 16, chained := bit c 30, fetch := base }

/-- A ring enters DISABLED and releases what it held. -/
def closeRing (rx : Bool) (r : Nat) (s : State) : State :=
  let s1 := releaseRing rx r s
  setRing s1 rx r { ring s1 rx r with st := .disabled, done := [] }

/-- A write of `v` to CTL. -/
def ringCtlEff (rx : Bool) (r : Nat) (v : Word) (s : State) : State :=
  let was := rbit s (R.RING_CTL (b2n rx) r) 31
  let s1 := wrField s (R.RING_CTL (b2n rx) r) v 0xE000FFFF 0
  match bit v 31, was, (ring s rx r).st with
  | true, false, .disabled => startRing rx r s1
  | false, true, .running => setRing s1 rx r { ring s1 rx r with st := .stopping }
  | false, true, .halted => closeRing rx r s1
  | _, _, _ => s1

/-- RING_ENABLE. -/
def execRingEnable (rx : Bool) (r : Fin 256) (v : Word) (s : State) : Out := viaBar s (ringCtlEff rx r (v ||| 0x80000000))

/-- RING_DISABLE. -/
def execRingDisable (rx : Bool) (r : Fin 256) (v : Word) (s : State) : Out := viaBar s (ringCtlEff rx r (v &&& 0x7FFFFFFF))

/-- A STOPPING ring has finished its frame and its write-backs. -/
def ringStoppedEff (rx : Bool) (r : Nat) (s : State) : State :=
  let x := ring s rx r
  if x.st == .stopping && !x.begun && x.cur.isNone && x.done.isEmpty then closeRing rx r s else s

/-- RING_STOPPED. -/
def execRingStopped (rx : Bool) (r : Fin 256) (s : State) : Out := viaCore s (ringStoppedEff rx r)

/-! ### RING_DB_TAIL (10 R572-R574) -/

/-- A doorbell posts descriptors up to a count, or is discarded. -/
def dbTailEff (rx : Bool) (r : Nat) (v : Word) (s : State) : State :=
  let x := ring s rx r
  let t := fld v 0 16
  let cap := if x.chained then 65535 else Nat.min x.slots 65535
  if cap < sub16 t x.head then fault s .ring 7 (ringNo rx r) (BitVec.ofNat 64 (x.head * 65536 + t))
  else setRing s rx r { x with tail := t }

/-- RING_DB_TAIL. -/
def execRingDbTail (rx : Bool) (r : Fin 256) (v : Word) (s : State) : Out := viaBar s (dbTailEff rx r v)

/-! ### DESCRIPTOR_FETCH (10 R568-R579, R601) -/

/-- Why a read that failed halts a ring (10 R601). -/
def failReason : Reply → Nat
  | .timedOut => 4
  | .failed => 5
  | .poisoned _ => 6
  | _ => 0

/-- A buffer descriptor breaks R570 (R571). -/
def badBuffer (rx : Bool) (d2 d3 : Word) : Bool :=
  fld d2 14 18 != 0 || (d3 &&& if rx then 0x0FFFFEFF else 0x0FFFFEF0) != 0 || (rx && decide (fld d2 0 14 < 64))

/-- A link descriptor breaks R569, or stands in a contiguous ring. -/
def badLink (x : Ring) (addr : DWord) (d2 d3 : Word) : Bool :=
  !x.chained || fld addr 0 5 != 0 || d2 != 0 || fld d3 0 28 != 0

/-- A buffer descriptor joins those fetched. -/
def addDesc (rx : Bool) (r : Nat) (d : Desc) (s : State) : State :=
  let x := ring s rx r
  let last := !x.chained && decide (x.slots ≤ x.idx + 1)
  noteInflight (setRing s rx r { x with
    descs := x.descs ++ [{ d with nth := x.reads + 1 }]
    reads := x.reads + 1
    mark := if !rx && d.eop then x.reads + 1 else x.mark
    fetched := (x.fetched + 1) % 65536
    idx := if last then 0 else x.idx + 1
    fetch := if last then x.base else x.fetch + 32 })

/-- A descriptor's bytes come back. -/
def takeDesc (rx : Bool) (r : Nat) (b : Bytes) (s : State) : State :=
  let x := ring s rx r
  let addr : DWord := BitVec.ofNat 64 (leAt b 0 8)
  let d2 : Word := BitVec.ofNat 32 (leAt b 8 4)
  let d3 : Word := BitVec.ofNat 32 (leAt b 12 4)
  let kind := fld d3 28 4
  if kind = 1 then
    if badLink x addr d2 d3 then haltRing rx r 3 false x.fetch s
    else setRing s rx r { x with reads := x.reads + 1, fetch := addr }
  else if kind ≠ 0 then haltRing rx r 3 false x.fetch s
  else
    let bad := badBuffer rx d2 d3
    let own := decide (128 ≤ leAt b 31 1)
    if bad && !own then haltRing rx r (if Config.pick s.free then 3 else 2) false x.fetch (draw1 s)
    else if bad then haltRing rx r 3 false x.fetch s
    else if !own then haltRing rx r 2 false x.fetch s
    else addDesc rx r { addr := x.fetch, buf := addr, len := fld d2 0 14, int_ := bit d3 8, eop := bit d3 0, l4 := bit d3 3, ip4 := bit d3 2
                        ts := bit d3 1 } s

/-- The walk has read as many descriptors as RING_WALK_LIMIT allows (10 R579). -/
def walkSpent (s : State) (rx : Bool) (r : Nat) : Bool :=
  decide (Nat.max 4 (rfld s R.RING_WALK_LIMIT 0 16) ≤ (ring s rx r).reads - (ring s rx r).mark)

/-- The read of the next descriptor has been answered. -/
def fetchEff (rx : Bool) (r : Nat) (reply : Reply) (s : State) : State :=
  match reply with
  | .ok b => takeDesc rx r b s
  | f => haltRing rx r (failReason f) false (ring s rx r).fetch s

/-! ### The host unit's link (01 R39 R40, 10 R556, R604) -/

/-- Transmit ring `r` can read a buffer. -/
def txReady (s : State) (r : Nat) : Bool :=
  let x := ring s false r
  hostUp s && !x.hungRead && (x.st == .running || (x.st == .stopping && x.begun)) && !x.descs.isEmpty && !(isTmRing s r && tmWaits s)

/-- The ring whose frame the front is taking. -/
def frontHeld (s : State) : Option Nat := (s.rings.find? fun e => e.2.front.isSome).map (·.1)

/-- It is transmit ring `r`'s turn at the host transmit front, which takes whole frames from the rings in round-robin order; terminal messages
do not pass it (10 R583, R590; log 134, DEDUCED). -/
def frontTurn (s : State) (r : Nat) : Bool :=
  isTmRing s r ||
    match frontHeld s with
    | some k => k == r
    | none => nextAfter s.host.ringTurn 256 (fun k => txReady s k && !isTmRing s k) == some r

/-- Receive ring `r` has data to write. -/
def rxReady (s : State) (r : Nat) : Bool :=
  let x := ring s true r
  hostUp s && match x.cur with
    | some _ => !x.descs.isEmpty || x.unread == 0
    | none => !x.inbox.isEmpty && !x.descs.isEmpty

/-- A frame done waits for its write-back. -/
def backReady (s : State) (rx : Bool) (r : Nat) : Bool :=
  hostUp s && match (ring s rx r).done with
    | f :: _ => f.wait.isNone
    | [] => false

/-- Channel `c` can move a beat, and it is not another's turn at a bank of the cistern. -/
def dmaFree (s : State) (c : Nat) : Bool := dmaReady s c && !barredAt s (8 + c) (dmaBanks s c)

/-- Engine `e` can read the host (10 R540, R543). -/
def scanReady (s : State) (e : Nat) : Bool := hostUp s && (scan s e).busy && !(scan s e).hung && checkSpace s e == 0

/-- An input of the host unit's link waits: block DMA (0), the frame path (1), or scan engine `i - 2` (10 R604, 13 R717). -/
def linkWaits (s : State) (i : Nat) : Bool :=
  if i = 0 then s.dmas.any fun e => dmaFree s e.1
  else if i = 1 then
    (List.range 256).any fun r =>
      canFetch s false r || canFetch s true r || (txReady s r && frontTurn s r) || rxReady s r || backReady s false r || backReady s true r
  else scanReady s (i - 2)

/-- Input `i` uses the link for `f`, unless another one, having lost to it, still waits. -/
def onLink (i : Nat) (f : State → State) (s : State) : State :=
  if barred s .link i (linkWaits s) then s else f (granted .link i ((List.range 6).filter (linkWaits s)) s)

/-- A descriptor read hangs: its operation is held (10 R540). -/
def fetchHangs (rx : Bool) (r : Nat) (s : State) : State :=
  noteInflight (setRing s rx r { ring s rx r with hungFetch := true })

/-- The next descriptor of a ring is read, and the read answered (10 R539, R540, R605), unless the walk would pass its limit. -/
def fetchReply (rx : Bool) (r : Nat) (reply : Reply) (s : State) : State :=
  if !canFetch s rx r then s
  else if walkSpent s rx r then haltRing rx r 1 false (ring s rx r).fetch s
  else
    onLink 1 (fun s =>
      answered reply (fun s => hostRd s (ring s rx r).fetch 32) (fetchEff rx r reply) (fetchHangs rx r) (opsTake (ringNo rx r) s)) s

/-- DESCRIPTOR_FETCH. -/
def execDescriptorFetch (rx : Bool) (r : Fin 256) (reply : Reply) (s : State) : Out :=
  viaCore s (onReply reply (fetchReply rx r reply))

/-! ### TRANSMIT_RING_FRAME (10 R583-R593, R602) -/

/-- Checksum insertion: the frame, and whether a requested insertion was skipped (10 R585). -/
def insertSums (b : Bytes) (ip4 l4 : Bool) : Bytes × Bool :=
  match ipHeader b b.length with
  | none => (b, ip4 || l4)
  | some ip =>
    let inside := decide (ip.at_ + ip.hlen ≤ b.length) && (ip.v6 || decide (20 ≤ ip.hlen))
    let okIp := inside && !ip.v6
    let b1 :=
      if ip4 && okIp then
        let z := patch b (ip.at_ + 10) [0, 0]
        patch z (ip.at_ + 10) (beBytes 2 (checksum16 (slice z ip.at_ ip.hlen)))
      else b
    let part := if inside && l4Result b1 ip != 0 then l4Part b1 ip else none
    match part with
    | some (i, n) =>
      let k := if ip.proto = 17 then 6 else 16
      if l4 && decide (k + 2 ≤ n) then
        let z := patch b1 (i + k) [0, 0]
        let c := 0xFFFF - fold16 (pseudoSum z ip n + sum16 (slice z i n))
        (patch b1 (i + k) (beBytes 2 (if ip.proto = 17 ∧ c = 0 then 0xFFFF else c)), ip4 && !okIp)
      else (b1, l4 || (ip4 && !okIp))
    | none => (b1, l4 || (ip4 && !okIp))

/-- The frame's descriptors are done. -/
def finishTx (r : Nat) (d : DoneFrame) (s : State) : State :=
  let x := ring s false r
  setRing s false r { x with taken := [], part := [], front := none, done := x.done ++ [d] }

/-- The first byte of a frame of ring `r` reaches the front, which stamps it (07 R410). -/
def stampRing (r : Nat) (s : State) : State :=
  let s1 := setRing (takeVersion s) false r { ring s false r with front := some (stampNow s) }
  { s1 with host := { s1.host with ringTurn := r } }

/-- The sequence number of a frame with TS_REQ, and the ring after it (10 R586). -/
def takeSeq (r : Nat) (ts : Bool) (s : State) : Nat × State :=
  let x := ring s false r
  if ts then (x.seq, setRing s false r { x with seq := (x.seq + 1) % 65536 }) else (0, s)

/-- Dword 7 of a status, timestamp outcome and CSUM_SKIP (10 R589). -/
def txWord (status ts : Nat) (skip : Bool) : Word := pack [(27, status), (25, ts), (24, b2n skip)]

/-- A terminal message is well formed (10 R590). -/
def tmGood (b : Bytes) : Bool :=
  let n := b.length
  decide (8 ≤ n) && decide (n ≤ 252) && decide (64 ≤ beAt b 2 1) && decide (beAt b 2 1 ≤ 127) && beAt b 3 1 == n - 8 && n % 4 == 0

/-- An accepted message as it goes into the pool (10 R591). -/
def tmBytes (tid : Nat) (b : Bytes) : Bytes :=
  let h := beBytes 2 (tid * 16) ++ slice b 2 4
  h ++ beBytes 2 (crc16 (h ++ b.drop 8)).toNat ++ b.drop 8

/-- A frame of the terminal-message ring is complete (10 R590-R592). -/
def sendTm (r : Nat) (descs : List Desc) (ts : Bool) (b : Bytes) (s : State) : State :=
  let (seq, s1) := takeSeq r ts (releaseStamp (ring s false r).front s)
  let t := if ts then 3 else 0
  if tmGood b then
    finishTx r { descs := descs, w4 := BitVec.ofNat 32 seq, w7 := txWord 0 t false } (queueMsg (tmBytes ((ownId s).getD 0) b) true s1)
  else finishTx r { descs := descs, w4 := BitVec.ofNat 32 seq, w7 := txWord 2 t false } s1

/-- A frame of a ring is complete: it is refused for its length, or padded and sent (10 R583, R585, R588). -/
def sendRingFrame (r : Nat) (descs : List Desc) (d : Desc) (b : Bytes) (s : State) : State :=
  let (seq, s1) := takeSeq r d.ts s
  let w4 : Word := BitVec.ofNat 32 seq
  let x := (ring s false r).front
  if b.length < 14 ∨ 16000 < b.length then
    releaseStamp x (finishTx r { descs := descs, w4 := w4, w7 := txWord 1 (if d.ts then 3 else 0) false } s1)
  else
    let (f, skip) := insertSums (padTo b 60) d.ip4 d.l4
    let s2 := finishTx r { descs := descs, w4 := w4, w7 := txWord 0 0 skip, wait := if d.ts then some s1.serial else none } s1
    let s3 := if x.isNone then takeVersion s2 else s2
    enterFront (x.getD (stampNow s))
      { len := f.length, src := .ring r, port := 16, csum := csumResults f, hash := flowHash (beBytes 2 r ++ flowFields (f.take 256))
        tsReq := if d.ts then some seq else none } f false false 0 s3

/-- The buffer in progress is read to its end: the next follows, or the frame is complete. -/
def endBuffer (r : Nat) (d : Desc) (rest : List Desc) (b : Bytes) (s : State) : State :=
  let x := ring s false r
  let descs := x.taken ++ [d]
  let s1 := setRing s false r { x with descs := rest, taken := descs, part := b, got := 0 }
  if !d.eop then s1
  else if isTmRing s r then sendTm r descs (descs.headD d).ts b s1
  else sendRingFrame r descs (descs.headD d) b s1

/-- The head token of a frame in progress has been sent. -/
def Ring.headSent (x : Ring) : Bool := decide (256 < x.part.length) && x.front.isSome

/-- A failed buffer read halts the ring; a head token already sent ends in a payload-complete token that reports the error (10 R602). -/
def failRead (r reason : Nat) (d : Desc) (s : State) : State :=
  let x := ring s false r
  let b := x.part.take 16000
  let s1 :=
    if x.headSent then
      enterFront (x.front.getD (stampNow s))
        { len := b.length, src := .ring r, port := 16, hash := flowHash (beBytes 2 r ++ flowFields (b.take 256)) } b true false 0
        (setRing s false r { x with front := none })
    else s
  haltRing false r reason true (d.buf + BitVec.ofNat 64 x.got) s1

/-- One read of a transmit buffer has come back. -/
def ringReadEff (r : Nat) (d : Desc) (rest : List Desc) (reply : Reply) (s : State) : State :=
  let x := ring s false r
  match reply with
  | .ok b =>
    if x.got + b.length = d.len then endBuffer r d rest (x.part ++ b) s
    else setRing s false r { x with part := x.part ++ b, got := x.got + b.length }
  | f => failRead r (failReason f) d s

/-- What the answer of a buffer read must be: no more than the buffer has left, and something of it. -/
def readFits (x : Ring) (d : Desc) (reply : Reply) : Bool :=
  match reply with
  | .ok b => decide (x.got + b.length ≤ d.len) && (!b.isEmpty || d.len == 0)
  | _ => true

/-- A buffer read hangs: it holds its frame and its operations (10 R540). -/
def readHangs (r : Nat) (s : State) : State := setRing s false r { ring s false r with hungRead := true }

/-- The next read of a transmit buffer is issued and answered; the front stamps a frame with its first read (07 R410, 10 R583). -/
def ringReadReply (r : Nat) (reply : Reply) (s : State) : State :=
  let x := ring s false r
  match x.descs with
  | d :: rest =>
    if txReady s r && frontTurn s r && readFits x d reply then
      let n := match reply with | .ok b => b.length | _ => d.len - x.got
      onLink 1 (answered reply (fun s => hostRd s (d.buf + BitVec.ofNat 64 x.got) n)
        (fun s => ringReadEff r d rest reply (if x.begun || isTmRing s r then s else stampRing r s)) (readHangs r)) s
    else s
  | [] => s

/-- TRANSMIT_RING_FRAME. -/
def execTransmitRingFrame (r : Fin 256) (reply : Reply) (s : State) : Out := viaCore s (onReply reply (ringReadReply r reply))

/-! ### RING_RECEIVE_FRAME (10 R594-R600) -/

/-- Bytes are laid into descriptors: those used, with what each holds, those left, and the bytes that found none (10 R594). -/
def fillDescs : List Desc → Bytes → List Desc × List Desc × Bytes
  | [], b => ([], [], b)
  | d :: l, b =>
    if b.isEmpty then ([], d :: l, [])
    else
      let r := fillDescs l (b.drop d.len)
      ({ d with used := Nat.min d.len b.length } :: r.1, r.2.1, r.2.2)

/-- The data writes of descriptors (10 R581 step 1). -/
def writeData : List Desc → Bytes → State → State
  | [], _, s => s
  | d :: l, b, s => writeData l (b.drop d.used) (hostWr s d.buf (b.take d.used))

/-- The frame done that a receive item leaves, with its status (10 R595). -/
def rxDone (c : RxCur) (descs : List Desc) (status : Nat) : DoneFrame :=
  match c.item with
  | .frame f =>
    { descs := descs, w4 := BitVec.ofNat 32 (f.tok.stamp.toNat / 65536), rx := true, w6 := f.tok.ver
      w5 := pack [(16, f.tok.stamp.toNat % 65536), (0, f.tok.flags % 65536)]
      w7 := pack [(27, status), (20, f.tok.csum), (15, f.tok.port)] }
  | .hem _ t n _ =>
    { descs := descs, w4 := BitVec.ofNat 32 (t.toNat / 65536), w5 := pack [(16, t.toNat % 65536)], w6 := n, rx := true
      w7 := pack [(27, status), (26, 1), (15, 17)] }

/-- A receive item ends: its granules return and its descriptors are done; a message cut off for want of descriptors has not been delivered
(10 R600, 03 R167). -/
def endRx (r : Nat) (c : RxCur) (descs left : List Desc) (status : Nat) (s : State) : State :=
  let s1 := if status = 1 then dropItem s c.item else freeItem s c.item
  let x := ring s1 true r
  setRing s1 true r { x with cur := none, descs := left, done := x.done ++ [rxDone c descs status]
                             mark := match descs.getLast? with | some d => d.nth | none => x.mark }

/-- A receive item goes into the descriptors fetched; it ends, is abandoned when none is posted, or waits for the next fetch. -/
def fillRx (r : Nat) (c : RxCur) (s : State) : State :=
  let x := ring s true r
  let b := c.bytes.drop c.off
  let (used, left, rest) := fillDescs x.descs b
  let s1 := writeData used b s
  let descs := c.descs ++ used
  if rest.isEmpty then endRx r c descs left (if c.good then 0 else 2) s1
  else if x.unread = 0 then endRx r c descs left 1 s1
  else setRing s1 true r { ring s1 true r with descs := left, cur := some { c with off := c.off + (b.length - rest.length), descs := descs } }

/-- An item begins: a frame's bytes are read from the cistern (10 R598, 14 R751). -/
def beginRx (i : RxItem) (u : Upset) (s : State) : RxCur × State :=
  match i with
  | .frame f =>
    let s1 := upset s u
    let (s2, bad) := readRuns { addr := 0, bytes := 0, master := 3, cls := f.tok.pcp, priv := privPort s f.tok.port } s1 (chunkRuns f.parts)
    ({ item := i, bytes := partsBytes s1 f.parts, good := bad.isNone }, s2)
  | .hem b _ _ _ => ({ item := i, bytes := b, good := true }, s)

/-- A frame or message finds no posted descriptor (10 R599, 03 R167). -/
def dropFull (r : Nat) (i : RxItem) (s : State) : State :=
  match i with
  | .frame f => bump (freeChunks s f.parts) (R.RING_CNT_BAD 1 r)
  | .hem _ _ _ copied => hemDrop copied s

/-- The item in progress goes on, or the next one begins. -/
def ringRxEff (r : Nat) (u : Upset) (s : State) : State :=
  let x := ring s true r
  match x.cur, x.inbox with
  | some c, _ => if hostUp s then fillRx r c s else s
  | none, i :: rest =>
    let s1 := setRing s true r { x with inbox := rest }
    if !ringOpen s r then dropOff r s1 i
    else if x.descs.isEmpty && x.unread == 0 then dropFull r i s1
    else
      let (c, s2) := beginRx i u s1
      fillRx r c s2
  | none, [] => s

/-- RING_RECEIVE_FRAME. -/
def execRingReceiveFrame (r : Fin 256) (u : Upset) (s : State) : Out :=
  viaCore s fun s => if rxReady s r then onLink 1 (ringRxEff r u) s else ringRxEff r u s

/-! ### WRITE_BACK (10 R581, R582, R589, R595) -/

/-- Dword 7 of descriptor `d` of a frame; `last` says that it is the last. -/
def wordSeven (f : DoneFrame) (d : Desc) (last : Bool) : Word := f.w7 ||| pack [(30, b2n last), (0, if f.rx then d.used else 0)]

/-- A memory write of dwords `i` on. -/
def writeDwords (d : Desc) (i : Nat) (ws : List Word) (s : State) : State :=
  hostWr s (d.addr + BitVec.ofNat 64 (4 * i)) (ws.flatMap fun w => leBytes 4 w.toNat)

/-- Dword 7 of the descriptors of a frame after the first. -/
def writeSevens (f : DoneFrame) : List Desc → State → State
  | [], s => s
  | d :: l, s => writeSevens f l (writeDwords d 7 [wordSeven f d l.isEmpty] s)

/-- The descriptors of a frame are written back in the order of R581. -/
def writeFrame (f : DoneFrame) (s : State) : State :=
  let s1 := f.descs.foldl (fun s d => writeDwords d 4 [f.w4, f.w5, f.w6] s) s
  match f.descs with
  | d :: l => writeDwords d 7 [wordSeven f d l.isEmpty] (writeSevens f l s1)
  | [] => s1

/-- What a frame written back counts as (10 R561). -/
def countDone (rx : Bool) (r : Nat) (f : DoneFrame) (s : State) : State :=
  let d := b2n rx
  let status := fld f.w7 27 3
  if status = 0 then bump s (R.RING_CNT_FRAMES d r)
  else if !rx then bump s (R.RING_CNT_BAD d r)
  else if status = 1 then bump s (R.RING_CNT_ABANDON d r)
  else s

/-- The oldest frame done is written back. -/
def writeBack1 (rx : Bool) (r : Nat) (s : State) : State :=
  let x := ring s rx r
  match x.done with
  | f :: rest =>
    let s1 := countDone rx r f (writeFrame f s)
    let s2 := setRing s1 rx r { x with done := rest, head := (x.head + f.descs.length) % 65536 }
    if rbit s (R.RING_CTL (b2n rx) r) 29 || f.descs.any (·.int_) then event s2 (R.RING_EVENT (b2n rx) r) 0 else s2
  | [] => s

/-- The oldest frame done of a ring is written back when its timestamp outcome is known, over the link that the frame path shares (10 R581,
R604). -/
def writeBackEff (rx : Bool) (r : Nat) (s : State) : State := if backReady s rx r then onLink 1 (writeBack1 rx r) s else s

/-- WRITE_BACK. -/
def execWriteBack (rx : Bool) (r : Fin 256) (s : State) : Out := viaCore s (writeBackEff rx r)

end Sys2Proof.Machine
end

