-- ==== Sys2Proof/Machine/Dma.lean ====
section
/-!
DEFINITION. Block DMA (10 R547-R560): the checks of START, beats, swapping, completion and its record. Rows DMA_START, DMA_BEAT.
-/
namespace Sys2Proof.Machine

/-- DMA_STATE_c (10 R547). -/
def dmaState (s : State) (c : Nat) : Word := setBit (rd s (R.DMA_STATE c)) 31 (dma s c).busy

/-- Half `h` of DMA_DONE_SUM (10 R548). -/
def dmaDoneSum (s : State) (h : Nat) : Word := bitsOf 32 fun k => rbit s (R.DMA_STATE (32 * h + k)) 30

/-- SWAP. -/
def dmaSwap (s : State) (c : Nat) : Nat := rfld s (R.DMA_CTL c) 24 2

/-- A range passes the end of its space (10 R550). -/
def pastEnd (cis : Bool) (addr : DWord) (n : Nat) : Bool :=
  n != 0 && decide ((if cis then cisternSize else 2 ^ 64) < addr.toNat + n)

/-! ### Completion (10 R557, R558) -/

/-- The completion record is written: twelve bytes, then dword 3. -/
def dmaRecord (c : Nat) (code : Option Nat) (s : State) : State :=
  if rbit s (R.DMA_CTL c) 30 && hostUp s then
    let a := rd64 s (R.DMA_REC c)
    let off := if code.isSome then rd s (R.DMA_ERR_OFFSET c) else 0
    let d3 := pack [(30, 1), (29, b2n code.isSome), (24, code.getD 0)]
    hostWr (hostWr s a (leBytes 4 off.toNat ++ leBytes 4 (rd s (R.DMA_COUNT c)).toNat ++ leBytes 4 c)) (a + 12) (leBytes 4 d3.toNat)
  else s

/-- A transfer ends: DONE sets, and ERR and CODE when it failed (10 R557, R560). -/
def dmaEnd (c : Nat) (code : Option Nat) (s : State) : State :=
  let st := rd s (R.DMA_STATE c)
  let new := match code with
    | some k => (st &&& 0x40000000) ||| pack [(30, 1), (29, 1), (0, k)]
    | none => st ||| 0x40000000
  dmaRecord c code (wr (setDma s c {}) (R.DMA_STATE c) new)

/-! ### DMA_START (10 R550, R551) -/

/-- The parameters of a transfer are refused (10 R550 row 2). -/
def dmaBadParam (s : State) (c : Nat) : Bool :=
  let n := (rd s (R.DMA_COUNT c)).toNat
  pastEnd (dmaSrcCis s c) (rd64 s (R.DMA_SRC c)) n || pastEnd (dmaDstCis s c) (rd64 s (R.DMA_DST c)) n
    || (dmaSwap s c == 1 && n % 2 != 0) || (decide (2 ≤ dmaSwap s c) && n % 4 != 0)

/-- A started transfer that has not begun takes an operation, unless 65,536 are in flight (10 R545, R546). -/
def dmaBegin (c : Nat) (s : State) : State :=
  if !(dma s c).begun && opsOpen s (512 + c) then noteInflight (setDma (opsTake (512 + c) s) c { dma s c with begun := true }) else s

/-- START on an idle channel. -/
def dmaGo (c : Nat) (s : State) : State :=
  let n := (rd s (R.DMA_COUNT c)).toNat
  if dmaBadParam s c then dmaEnd c (some 5) (fault s .dma 5 c (BitVec.ofNat 64 n))
  else if n = 0 then dmaEnd c none s
  else dmaBegin c (setDma (wr s (R.DMA_STATE c) 0) c { busy := true, total := n })

/-- DMA_CTL_c takes `v`, with START if bit 31 is 1. -/
def dmaCtlEff (c : Nat) (v : Word) (s : State) : State :=
  if (dma s c).busy then (if bit v 31 then fault s .dma 6 c 0 else s)
  else
    let s1 := wrField s (R.DMA_CTL c) v 0x63110000 0
    if bit v 31 then dmaGo c s1 else s1

/-- DMA_START. -/
def execDmaStart (c : Fin 64) (v : Word) (s : State) : Out := viaBar s (dmaCtlEff c (v ||| 0x80000000))

/-! ### DMA_BEAT (10 R552-R556, R560) -/

/-- One word under SWAP (10 R555). -/
def swapWord (k : Nat) : Bytes → Bytes
  | [a, b, c, d] => if k = 1 then [b, a, d, c] else if k = 2 then [c, d, a, b] else if k = 3 then [d, c, b, a] else [a, b, c, d]
  | [a, b] => if k = 1 then [b, a] else [a, b]
  | l => l

/-- `n` words of four bytes under SWAP. -/
def swapWords (k : Nat) : Nat → Bytes → Bytes
  | 0, _ => []
  | n + 1, b => swapWord k (b.take 4) ++ swapWords k n (b.drop 4)

/-- Bytes read that can be written, after SWAP, and those that wait for the rest of their word. -/
def swapped (k : Nat) (last : Bool) (b : Bytes) : Bytes × Bytes :=
  let n := if k = 0 then b.length else if last then b.length else b.length / 4 * 4
  (if k = 0 then b else swapWords k ((n + 3) / 4) (b.take n), b.drop n)

/-- The source and destination ranges overlap in one space. -/
def dmaOverlap (s : State) (c : Nat) : Bool :=
  let a := (rd64 s (R.DMA_SRC c)).toNat
  let b := (rd64 s (R.DMA_DST c)).toNat
  let n := (dma s c).total
  dmaSrcCis s c == dmaDstCis s c && decide (a < b + n) && decide (b < a + n)

/-- Bytes go to the destination from its offset `off` on; where the ranges overlap they are open (log 23, DEDUCED). -/
def dmaWrite (c off : Nat) (b : Bytes) (s : State) : State :=
  if b.isEmpty then s
  else
    let (x, s1) := if dmaOverlap s c then ((List.range b.length).map (Config.freeByte s.free), draw1 s) else (b, s)
    let a := rd64 s (R.DMA_DST c) + BitVec.ofNat 64 off
    if dmaDstCis s c then
      cisWrite (access s1 { addr := a.toNat, bytes := b.length, write := true, master := 2, id := c, priv := true }) a.toNat x
    else hostWr s1 a x

/-- The read of a beat of `n` bytes at `a`: its bytes, or the code of its failure; none where the reply does not fit the beat. -/
def dmaRead (c a n : Nat) (r : Reply) (corr : Nat) (s : State) : Option (Except Nat Bytes × State) :=
  if dmaSrcCis s c then
    let bad := match r with | .poisoned _ => [a / 8] | _ => []
    let (s1, ok) := cisRead (upset s { bad := bad, corr := corr }) { addr := 0, bytes := 0, master := 2, id := c, priv := true } a n
    some (if ok then .ok (cisBytes s1 a n) else .error 4, s1)
  else
    match r with
    | .ok b => if b.length = n then some (.ok b, s) else none
    | .timedOut => some (.error 1, s)
    | .failed => some (.error 2, s)
    | .poisoned _ => some (.error 3, s)
    | .stray _ => none

/-- A beat has come back. -/
def dmaLand (c n : Nat) (b : Bytes) (s : State) : State :=
  let x := dma s c
  let off := x.off + n
  let last := off == x.total
  let (now, later) := swapped (dmaSwap s c) last (x.held ++ b)
  let s1 := dmaWrite c (x.off - x.held.length) now s
  if last then dmaEnd c none s1 else setDma s1 c { x with off := off, held := later }

/-- The destination bytes before a failing beat that wait for the rest of their word are written; one that takes its byte from the failing beat is
open (10 R555, R560; log 133, DESIGN CHOICE). -/
def dmaFlush (c : Nat) (s : State) : State :=
  let x := dma s c
  if x.held.isEmpty then s
  else
    let b := x.held ++ (List.range (4 - x.held.length)).map (Config.freeByte s.free)
    dmaWrite c (x.off - x.held.length) ((swapWord (dmaSwap s c) b).take x.held.length) (draw1 s)

/-- The next beat of channel `c` has been answered. -/
def dmaBeat1 (c : Nat) (r : Reply) (corr : Nat) (s : State) : State :=
  let x := dma s c
  let a := beatAt s c
  let n := beatLen s c
  match dmaRead c a n r corr s with
  | none => s
  | some (res, s1) =>
    let s2 := wr s1 (R.DMA_COUNT c) (BitVec.ofNat 32 (x.total - x.off - n))
    match res with
    | .ok b => dmaLand c n b s2
    | .error code =>
      dmaEnd c (some code) (fault (wr (dmaFlush c s2) (R.DMA_ERR_OFFSET c) (BitVec.ofNat 32 x.off)) .dma code c (BitVec.ofNat 64 a))

/-- Channel `c` has had its turn. -/
def passTurn (c : Nat) (s : State) : State := { s with host := { s.host with dmaTurn := c } }

/-- The read of a beat hangs: the bytes have been requested, and the transfer holds its operation; it holds no other channel (10 R540). -/
def dmaHangs (c : Nat) (s : State) : State :=
  let x := dma s c
  setDma (wr s (R.DMA_COUNT c) (BitVec.ofNat 32 (x.total - x.off - beatLen s c))) c { x with hung := true }

/-- The next beat of channel `c` is issued, to the host or to the cistern, and answered. -/
def dmaIssue (c : Nat) (r : Reply) (corr : Nat) (s : State) : State :=
  let s1 := dmaBegin c (passTurn c (takeBanks (bankWaits s) (8 + c) (dmaBanks s c) s))
  if dmaSrcCis s c then dmaBeat1 c r corr s1
  else answered r (fun s => hostRd s (BitVec.ofNat 64 (beatAt s c)) (beatLen s c)) (dmaBeat1 c r corr) (dmaHangs c) s1

/-- The answer is one that the beat can have. -/
def beatFits (s : State) (c : Nat) (r : Reply) : Bool :=
  match r with
  | .ok b => dmaSrcCis s c || b.length == beatLen s c
  | _ => true

/-- The channels are served beat by beat in round-robin order, and share the host unit with the rings (10 R556; log 132, DEDUCED), and the
banks of the cistern with the drovers (01 R39). -/
def dmaBeatEff (c : Nat) (r : Reply) (corr : Nat) (s : State) : State :=
  if nextAfter s.host.dmaTurn 64 (dmaFree s) = some c ∧ beatFits s c r then onLink 0 (dmaIssue c r corr) s else s

/-- DMA_BEAT. -/
def execDmaBeat (c : Fin 64) (r : Reply) (corr : Nat) (s : State) : Out := viaCore s (onReply r (dmaBeatEff c r corr))

end Sys2Proof.Machine
end

