-- ==== Sys2Proof/Machine/Check.lean ====
section
/-!
DEFINITION. Scan engines (chapter 13): starting, reading by beats, comparing, ending early. Rows CHECK_START, CHECK_ABORT, CHECK_BEAT.
-/
namespace Sys2Proof.Machine

/-- CHECK_STATE_e: CODE reads 0 when ERR is 0 (13 R700). -/
def checkState (s : State) (e : Nat) : Word :=
  let v := setBit (rd s (R.CHECK_STATE e)) 31 (scan s e).busy
  if bit v 29 then v else v &&& 0xFFFFFFE0

/-- CHECK_DONE_SUM (13 R701). -/
def checkDoneSum (s : State) : Word := bitsOf 4 fun e => rbit s (R.CHECK_STATE e) 30

/-! ### Polynomials (13 R703) -/

/-- The initial value of a function. -/
def polyInit (p : Nat) : DWord := if p = 2 then 0 else if p = 3 then 0xFFFF else 0xFFFFFFFF

/-- The running value after octets. -/
def polyRun (p : Nat) (c : DWord) (b : Bytes) : DWord :=
  if p = 0 then (crcLsb 0xEDB88320#32 (c.setWidth 32) b).setWidth 64
  else if p = 1 then (crcLsb 0x82F63B78#32 (c.setWidth 32) b).setWidth 64
  else if p = 2 then crcMsb 0x42F0E1EBA9EA3693#64 c b
  else (crcMsb 0x1021#16 (c.setWidth 16) b).setWidth 64

/-- The computed value. -/
def polyOut (p : Nat) (c : DWord) : DWord := if p < 2 then c ^^^ 0xFFFFFFFF else c

/-! ### Settings -/

/-- A range of `n` bytes passes the limit of its space (13 R705). -/
def pastLimit (s : State) (e : Nat) (a : DWord) (n : Nat) : Bool :=
  let lim := match checkSpace s e with
    | 0 => 2 ^ 64
    | 1 => cisternSize
    | _ => rfld s (R.BUFFER_RES_CH_CFG (checkChan s e)) 0 6 * 2 ^ 30
  n != 0 && decide (lim < a.toNat + n)

/-- The start is refused (13 R707 row 2). -/
def checkBadParam (s : State) (e : Nat) : Bool :=
  let ch := checkChan s e
  checkSpace s e == 3 || checkCmp s e == 3 || pastLimit s e (rd64 s (R.CHECK_SRC e)) (checkLen s e)
    || (checkCmp s e == 2 && pastLimit s e (rd64 s (R.CHECK_STORE_ADDR e)) (polyWidth (checkPoly s e) / 8))
    || (checkSpace s e == 2 && (!hasChannel s ch || !chanEnabled s ch || chanHalted s ch))

/-! ### Ends (13 R709-R713) -/

/-- A scan ends with an end code: RESULT NONE, no value. -/
def checkFail (e code : Nat) (s : State) : State :=
  let st := (rd s (R.CHECK_STATE e) &&& 0x40000000) ||| pack [(30, 1), (29, 1), (0, code)]
  wr (setScan s e {}) (R.CHECK_STATE e) st

/-- A scan completes with the stored value compared. -/
def checkDone (e : Nat) (stored : DWord) (s : State) : State :=
  let got := polyOut (checkPoly s e) (scan s e).crc
  let result := if checkCmp s e = 0 then 0 else if stored = got then 1 else 2
  wr (setScan (wr64 (wr64 s (R.CHECK_COMPUTED e) got) (R.CHECK_STORED e) stored) e {}) (R.CHECK_STATE e) (pack [(30, 1), (26, result)])

/-- The range has been processed: the scan completes, unless a stored value is still to be read (13 R706). -/
def checkRangeEnd (e : Nat) (s : State) : State :=
  match checkCmp s e with
  | 0 => checkDone e 0 s
  | 1 => checkDone e (rd64 s (R.CHECK_EXPECT e) &&& BitVec.ofNat 64 (2 ^ polyWidth (checkPoly s e) - 1)) s
  | _ => s

/-! ### CHECK_START, CHECK_ABORT (13 R707, R708, R713) -/

/-- The scan starts, over the fold tag first (13 R704). -/
def checkGo (e : Nat) (s : State) : State :=
  let p := checkPoly s e
  let tag := if rbit s (R.CHECK_CTL e) 12 then beBytes 8 (rd64 s (R.CHECK_FOLD e)).toNat else []
  let s1 := wr64 (wr64 (wr64 (wr s (R.CHECK_STATE e) 0) (R.CHECK_COMPUTED e) 0) (R.CHECK_STORED e) 0) (R.CHECK_ERR_OFFSET e) 0
  let s2 := setScan s1 e { busy := true, crc := polyRun p (polyInit p) tag }
  if checkLen s e = 0 then checkRangeEnd e s2 else s2

/-- CHECK_CTL_e takes `v`; an ABORT of an engine that is not busy has no effect (13 R713), and one
waits for a read that hangs for ever (10 R540). -/
def checkCtlEff (e : Nat) (v : Word) (s : State) : State :=
  if (scan s e).busy then
    if bit v 31 then fault s .check 7 e (v.setWidth 64)
    else if bit v 30 && !(scan s e).hung then checkFail e 8 s
    else s
  else if bit v 30 && !bit v 31 then s
  else
    let s1 := wrField s (R.CHECK_CTL e) v 0x23371310 0
    if !bit v 31 then s1
    else if checkBadParam s1 e then checkFail e 6 (fault s1 .check 6 e (v.setWidth 64))
    else checkGo e s1

/-- CHECK_START. -/
def execCheckStart (e : Fin 4) (v : Word) (s : State) : Out := viaBar s (checkCtlEff e (v ||| 0x80000000))

/-- CHECK_ABORT. -/
def execCheckAbort (e : Fin 4) (v : Word) (s : State) : Out := viaBar s (checkCtlEff e ((v ||| 0x40000000) &&& 0x7FFFFFFF))

/-! ### CHECK_BEAT (13 R706, R711, R712, R715) -/

/-- Bytes of a channel: those of the pages that the model holds, and the reply's elsewhere. -/
def resBytes (s : State) (ch a : Nat) (b : Bytes) : Bytes :=
  b.zipIdx.map fun x =>
    let i := a + x.2
    match s.res.pages.find? fun e => e.1 == pageKey ch (i / pageSize) with
    | some e => e.2.data.getD (i % pageSize) 0
    | none => x.1

/-- The `n` bytes at `a` of a channel carry poison. -/
def resPoison (s : State) (ch a n : Nat) : Bool :=
  (wordsOf a n).any fun w => (look {} s.res.pages (pageKey ch (w * 8 / pageSize))).poison.contains (w % 512)

/-- A read of a scan: its bytes, or the end code and identification of its failure; none where the reply does not fit. -/
def checkRead (e a n : Nat) (r : Reply) (corr : Nat) (s : State) : Option (Except (Nat × Nat) Bytes × State) :=
  match checkSpace s e with
  | 0 =>
    match r with
    | .ok b => if b.length = n then some (.ok b, s) else none
    | .timedOut => some (.error (1, a), s)
    | .failed => some (.error (2, a), s)
    | .poisoned _ => some (.error (3, a), s)
    | .stray _ => none
  | 1 =>
    let bad := match r with | .poisoned _ => [a / 8] | _ => []
    let (s1, ok) := cisRead (upset s { bad := bad, corr := corr }) { addr := 0, bytes := 0 } a n
    let w := ((wordsOf a n).find? s1.cistern.poison.contains).getD (a / 8)
    some (if ok then .ok (cisBytes s1 a n) else .error (4, 8 * w), s1)
  | _ =>
    let ch := checkChan s e
    let s1 := bumpBy (access s { res := true, addr := ch * 2 ^ 35 + a, bytes := n }) (R.BUFFER_RES_CH_CORR ch) corr
    let good := match r with | .ok _ => !resPoison s ch a n | _ => false
    if !good then some (.error (5, ch * 2 ^ 56 + a), bump s1 (R.BUFFER_RES_CH_UNCORR ch))
    else
      match r with
      | .ok b => if b.length = n then some (.ok (resBytes s ch a b), s1) else none
      | _ => none

/-- The failure of a read ends the scan (13 R711). -/
def checkReadFail (e off : Nat) (x : Nat × Nat) (s : State) : State :=
  checkFail e x.1 (fault (wr64 s (R.CHECK_ERR_OFFSET e) (BitVec.ofNat 64 off)) .check x.1 e (BitVec.ofNat 64 x.2))

/-- A beat of the range is folded in. -/
def checkFold (e : Nat) (b : Bytes) (s : State) : State :=
  let x := scan s e
  let s1 := setScan s e { x with crc := polyRun (checkPoly s e) x.crc b, off := x.off + b.length }
  if x.off + b.length = checkLen s e then checkRangeEnd e s1 else s1

/-- The next beat of the range, or the stored value after the range, has been read. -/
def checkBeat1 (e : Nat) (r : Reply) (corr : Nat) (s : State) : State :=
  let x := scan s e
  let len := checkLen s e
  let stored := decide (len ≤ x.off)
  match checkRead e (scanAt s e) (scanLen s e) r corr s with
  | none => s
  | some (.error f, s1) => checkReadFail e (if stored then len else x.off) f s1
  | some (.ok b, s1) =>
    if stored then checkDone e (BitVec.ofNat 64 (if rbit s (R.CHECK_CTL e) 4 then leNat b else beNat b)) s1
    else checkFold e b s1

/-- The answer is one that a scan's host read can have. -/
def scanFits (s : State) (e : Nat) (r : Reply) : Bool :=
  match r with
  | .ok b => b.length == scanLen s e
  | _ => true

/-- A host read of a scan hangs. -/
def scanHangs (e : Nat) (s : State) : State := setScan s e { scan s e with hung := true }

/-- The next read of a scan is issued, and answered: of the host over the link (13 R717), of the cistern when no bank of it is another's turn
(01 R39). -/
def checkIssue (e : Nat) (r : Reply) (corr : Nat) (s : State) : State :=
  match checkSpace s e with
  | 0 =>
    if scanReady s e && scanFits s e r then
      onLink (2 + e) (answered r (fun s => hostRd s (BitVec.ofNat 64 (scanAt s e)) (scanLen s e)) (checkBeat1 e r corr) (scanHangs e)) s
    else s
  | 1 =>
    if barredAt s (72 + e) (scanBanks s e) then s
    else checkBeat1 e r corr (takeBanks (bankWaits s) (72 + e) (scanBanks s e) s)
  | _ => checkBeat1 e r corr s

/-- A reservoir channel serves no scan: it is halted (08 R475), or spill and draw come first (13 R718). -/
def chanShut (s : State) (ch : Nat) : Bool := chanHalted s ch || chanBusy s ch

/-- A busy engine's next read comes back; host reads need the host unit (10 R543). -/
def checkBeatEff (e : Nat) (r : Reply) (corr : Nat) (s : State) : State :=
  if !(scan s e).busy || (decide (2 ≤ checkSpace s e) && chanShut s (checkChan s e)) then s
  else checkIssue e r corr s

/-- CHECK_BEAT. -/
def execCheckBeat (e : Fin 4) (r : Reply) (corr : Nat) (s : State) : Out := viaCore s (onReply r (checkBeatEff e r corr))

/-- Engines whose scans read space `sp` end with a code, which codes 1 to 7 record (13 R714). -/
def endScans (sp code : Nat) (s : State) : State :=
  (List.range 4).foldl (fun s e =>
    if (scan s e).busy && checkSpace s e == sp then
      if code = 8 then checkFail e code s else checkReadFail e (scan s e).off (code, scanAt s e) s
    else s) s

end Sys2Proof.Machine
end

