-- ==== Sys2Proof/Machine/Perf.lean ====
section
/-!
DEFINITION. Performance counters and sampling (chapter 14): tally dumps, presets, the ledger's snap, and the sample FIFO. Rows
TALLY_ENABLE, TALLY_DISABLE, TALLY_DUMP, TRACT_CELL_PRESET, TRACT_PERF_PRESET, PERF_ACC_PRESET, SNAP, PERF_SAMPLE_W0.
-/
namespace Sys2Proof.Machine

/-! ### Tally dumps (14 R726-R732) -/

/-- DEPTH of a control word. -/
def tallyDepth (v : Word) : Nat := Nat.min 8 (fld v 8 4)

/-- The area of a tally runs past its space (14 R727). -/
def tallyBad (s : State) (v : Word) : Bool :=
  pastEnd (bit v 29) (rd64 s R.PERF_TALLY_BASE) (144 * 2 ^ tallyDepth v * 256)

/-- The settings that an enable takes. -/
def tallyOf (s : State) (v : Word) : Tally :=
  { clear := bit v 30, space := bit v 29, depth := tallyDepth v
    interval := clampNat 1 1000000 (rfld s R.PERF_TALLY_INTERVAL 0 20), base := rd64 s R.PERF_TALLY_BASE, since := s.now }

/-- PERF_TALLY_CTL takes `v`: EN sets, or is refused; EN is to clear at the next dump instant (14 R732); or the fields change while EN is 0. -/
def tallyCtlEff (v : Word) (s : State) : State :=
  let old := rd s R.PERF_TALLY_CTL
  let new := v &&& 0xE0000F00
  if bit old 31 then
    if bit v 31 then s else { s with perf := { s.perf with tally := s.perf.tally.map fun t => { t with stop := true } } }
  else if !bit v 31 then wr s R.PERF_TALLY_CTL new
  else if tallyBad s v then
    fault (wr s R.PERF_TALLY_CTL (setBit new 31 false)) .perf 1 wholeBlock (rd64 s R.PERF_TALLY_BASE)
  else
    let s1 := wr (wr s R.PERF_TALLY_CTL new) R.PERF_TALLY_SEQ 0
    { s1 with perf := { s1.perf with tally := some (tallyOf s1 v) } }

/-- TALLY_ENABLE. -/
def execTallyEnable (v : Word) (s : State) : Out := viaBar s (tallyCtlEff (v ||| 0x80000000))

/-- TALLY_DISABLE. -/
def execTallyDisable (v : Word) (s : State) : Out := viaBar s (tallyCtlEff (v &&& 0x7FFFFFFF))

/-- The dwords of a cell's record from byte 8 on (14 R730). -/
def tallyBody (s : State) (t c : Nat) : Bytes :=
  leBytes 8 (outNow s).toNat ++ leBytes 2 (look 0 s.perf.fresh (18 * t + c)) ++ List.replicate 14 0
    ++ ((List.range 16).map fun k => (rd s (R.TRACT_CELL_EVSEL t c k)).setWidth 8)
    ++ ((List.range 16).flatMap fun k => leBytes 8 (rd64 s (R.TRACT_CELL_CNT t c k)).toNat) ++ List.replicate 80 0

/-- SEQ and ID of a cell's record. -/
def tallyHead (s : State) (t c k : Nat) : Bytes :=
  let role := if inMap s t c then roleOf s t c else 0x1F
  leBytes 4 k ++ leBytes 4 (pack [(31, 1), (30, b2n (rbit s (R.TRACT_CELL_FENCE t) c)), (29, b2n (inMap s t c)), (16, role), (8, c), (0, t)]).toNat

/-- The snapshot of a cell is taken. -/
def tallySnap (x : Tally) (t c : Nat) (s : State) : State :=
  let s1 := { s with perf := { s.perf with fresh := put 0 s.perf.fresh (18 * t + c) 0 } }
  if x.clear then (List.range 16).foldl (fun s k => wr64 s (R.TRACT_CELL_CNT t c k) 0) s1 else s1

/-- Bytes of a record go to the area. -/
def tallyPut (x : Tally) (a : DWord) (b : Bytes) (s : State) : State :=
  if x.space then cisWrite (access s { addr := a.toNat, bytes := b.length, write := true }) a.toNat b
  else hostWr s a b

/-- A cell takes its snapshot and writes its record of dump `k`, or skips (14 R730, R731). -/
def tallyCell (x : Tally) (k : Nat) (skips : List Nat) (s : State) (t c : Nat) : State :=
  if skips.contains (18 * t + c) || (!x.space && !hostUp s) then event (bump s R.PERF_TALLY_SKIP) R.PERF_EVENT 0
  else
    let a := x.base + BitVec.ofNat 64 (256 * ((18 * t + c) * 2 ^ x.depth + k % 2 ^ x.depth))
    let body := tallyBody s t c
    let head := tallyHead s t c k
    tallyPut x a head (tallyPut x (a + 8) body (tallySnap x t c s))

/-- A dump instant (14 R728, R732): `skips` lists the cells whose last record has not been issued. -/
def tallyDumpEff (skips : List Nat) (s : State) : State :=
  match s.perf.tally with
  | some x =>
    let k := x.k + 1
    if 2 * (s.now - x.since) < 625 * x.interval * k then s
    else if x.stop then
      wr { s with perf := { s.perf with tally := none } } R.PERF_TALLY_CTL (setBit (rd s R.PERF_TALLY_CTL) 31 false)
    else
      let s1 := wr { s with perf := { s.perf with tally := some { x with k := k } } } R.PERF_TALLY_SEQ (BitVec.ofNat 32 k)
      (tracts s).foldl (fun s t => (List.range 18).foldl (fun s c => tallyCell x k skips s t c) s) s1
  | none => s

/-- TALLY_DUMP. -/
def execTallyDump (skips : List Nat) (s : State) : Out := viaCore s (tallyDumpEff skips)

/-! ### Presets (14 R721, R724, R733, R750) -/

/-- TRACT_CELL_PRESET takes `v`; GO commits the preset, both halves as they stand (00 R34; log 161, DESIGN CHOICE). -/
def cellPresetEff (t c : Nat) (v : Word) (s : State) : State :=
  if hasTract s t then
    let s1 := wrField s (R.TRACT_CELL_PRESET t c) v 0xF 0
    if bit v 31 then wr64 s1 (R.TRACT_CELL_CNT t c (fld v 0 4)) (rd64 s (R.TRACT_CELL_PRESET_LO t c) &&& 0xFFFFFFFFFFFF) else s1
  else s

/-- TRACT_CELL_PRESET. -/
def execTractCellPreset (t : Fin 8) (c : Fin 18) (v : Word) (s : State) : Out := viaBar s (cellPresetEff t c v)

/-- TRACT_PERF_PRESET takes `v`; GO commits the preset, and what the counter held is kept for an increment of the same instant (14 R736). -/
def tractPresetEff (t : Nat) (v : Word) (s : State) : State :=
  if hasTract s t then
    let s1 := wrField s (R.TRACT_PERF_PRESET t) v 0x1F 0
    if bit v 31 then
      let s2 := wr s1 (R.TRACT_PERF_CNT t (fld v 0 5)) (rd s (R.TRACT_PERF_PRESET_VAL t))
      { s2 with perf := { s2.perf with
          presets := put none s2.perf.presets (32 * t + fld v 0 5) (some (s.now, rd s (R.TRACT_PERF_CNT t (fld v 0 5)))) } }
    else s1
  else s

/-- TRACT_PERF_PRESET. -/
def execTractPerfPreset (t : Fin 8) (v : Word) (s : State) : Out := viaBar s (tractPresetEff t v)

/-- PERF_ACC_PRESET takes `v`; GO commits the preset, both halves as they stand (00 R34; log 161, DESIGN CHOICE). -/
def accPresetEff (v : Word) (s : State) : State :=
  let s1 := wrField s R.PERF_ACC_PRESET v 0x7 0
  if bit v 31 then wr64 s1 (R.PERF_ACC_CNT (fld v 0 3)) (rd64 s R.PERF_ACC_PRESET_LO &&& 0xFFFFFFFFFFFF) else s1

/-- PERF_ACC_PRESET. -/
def execPerfAccPreset (v : Word) (s : State) : Out := viaBar s (accPresetEff v)

/-! ### The ledger (14 R742, R743) -/

/-- The ledger of a drover is latched into its registers. -/
def ledgerLatch (t : Nat) (s : State) : State :=
  let d := drover s t
  let s1 := (List.range 8).foldl (fun s k => wr64 s (R.TRACT_LEDGER_CLASS t k) (BitVec.ofNat 64 (look 0 d.ledger.cls k))) s
  let s2 := (List.range 8).foldl (fun s k => wr s (R.TRACT_LEDGER_SLACK t k) (BitVec.ofNat 32 (look 0 d.ledger.hist k))) s1
  wr (wr s2 (R.TRACT_LEDGER_OPEN t) (sat32 d.live)) (R.TRACT_LEDGER_SLACK_MIN t) (BitVec.ofNat 32 d.ledger.least)

/-- TRACT_LEDGER_CTL takes `v`: SNAP latches and clears the ledger. -/
def snapEff (t : Nat) (v : Word) (s : State) : State :=
  if hasTract s t && bit v 31 then setDrover (ledgerLatch t s) t { drover s t with ledger := {} } else s

/-- SNAP. -/
def execSnap (t : Fin 8) (v : Word) (s : State) : Out := viaBar s (snapEff t v)

/-! ### The sample FIFO (14 R749) -/

/-- The words W1 to W3 of a sample, or zeros. -/
def sampleWords (s : State) (x : Option Sample) : State :=
  let (a, b) := match x with
    | some x => (x.w1, x.time)
    | none => (0, 0)
  wr (wr (wr s (R.PERF_SAMPLE_W 0) a) (R.PERF_SAMPLE_W 1) (b.extractLsb' 0 32)) (R.PERF_SAMPLE_W 2) (b.extractLsb' 32 32)

/-- A read of PERF_SAMPLE_W0 removes the head sample and latches its other words. -/
def sampleRead (s : State) : Word × State :=
  match s.perf.samples with
  | [] => (0, sampleWords s none)
  | x :: l => (x.w0, sampleWords { s with perf := { s.perf with samples := l } } (some x))

/-- PERF_SAMPLE_W0. -/
def execPerfSampleW0 (s : State) : Out := viaBar s fun s => answer (sampleRead s).2 (sampleRead s).1

end Sys2Proof.Machine
end

