-- ==== Sys2Proof/Machine/Modes.lean ====
section
/-!
DEFINITION. Mode control (02 R83-R100, 04 R244-R257): requests, commits and their effects on bursts, assemblies, allotments, keys and
rails, and what a reset of the core leaves (02 R101). Rows MODE_REQUEST, MODE_COMMIT.
-/
namespace Sys2Proof.Machine

/-! ### What a reset of the core leaves (02 R101, 16 R812) -/

/-- The register lies in the Keeper block, its fault record included. -/
def inKeeper (a : Nat) : Bool := decide (0x10000 ≤ a) && decide (a < 0x20000)

/-- At a reset the client ports that send fall silent (09 R484), and BURST_EN falls if it is high (17 R889). -/
def signalsEnd (s : State) : List Output :=
  (s.ports.filterMap fun e => if e.2.sends = .off then none else some (.signal e.1 .off))
    ++ (if s.gate.high then [.burstEn false (reachNow s)] else [])

/-- Everything outside the Keeper is at its reset state; the core is in reset, and `cause` is the reset cause to be shown (02 R101, R104). -/
def coreReset (cause : Nat) (s : State) : State :=
  { pending := s.pending, wire := s.wire ++ signalsEnd s, free := s.free, now := s.now, fuses := s.fuses, keeper := s.keeper, flash := s.flash
    regs := s.regs.filter fun e => inKeeper e.1
    host := { perst := s.host.perst, stage := s.host.stage.filter fun e => inKeeper e.1 }
    line := { seed := reachNow s }
    power := { s.power with coreUp := false, strapped := false, barOpen := false, thermAlert := false, nextCause := cause } }

/-- The Keeper drives CORE_EN (17 R873); the time since its last change starts again. -/
def driveCoreEn (high : Bool) (s : State) : State :=
  emit { s with power := { s.power with
    coreEn := high, enTicks := 0, pgWait := high, pgFrom := if high then some s.now else s.power.pgFrom } } (.coreEn high)

/-! ### Requests (02 R85-R93) -/

/-- The mode that TARGET names; none for 6 and 7. -/
def targetMode : Nat → Option Mode
  | 0 => some .dormant
  | 1 => some .fallow
  | 2 => some .provision
  | 3 => some .service
  | 4 => some .hold
  | 5 => some .test
  | _ => none

/-- MODE of GLOBAL_MODE_STATUS. -/
def Mode.code : Mode → Nat
  | .dormant => 0
  | .fallow => 1
  | .provision => 2
  | .service => 3
  | .hold => 4
  | .test => 5
  | .loading => 6
  | .resetting => 7

/-- SUBSTATE of GLOBAL_MODE_STATUS. -/
def Sub.code : Sub → Nat
  | .listen => 0
  | .registered => 1
  | .ranging => 2
  | .silent => 3

/-- GLOBAL_MODE_STATUS (02 R84). -/
def modeStatus (s : State) : Word :=
  pack [(16, s.mode.refuse), (8, b2n s.mode.request.isSome), (4, if s.mode.mode = .provision then s.mode.sub.code else 0),
    (0, s.mode.mode.code)]

/-- Why the transition table refuses `m` from the present mode: 0 when it does not (02 R90-R93). -/
def refusal (s : State) (m : Mode) : Nat :=
  let x := s.mode
  match x.mode, m with
  | _, .dormant => 0
  | .provision, .service =>
    if x.sub = .silent then 4 else if (x.sub = .registered ∨ x.sub = .ranging) ∧ ranged s then 0 else 3
  | .provision, .hold => if x.sub = .silent then 4 else 1
  | .provision, .test => 0
  | .test, .provision => 0
  | .service, .hold => 0
  | .service, .fallow => 0
  | .service, .provision => 0
  | .hold, .service => if ranged s then 0 else 3
  | .hold, .provision => 0
  | .fallow, .service => 0
  | _, _ => 1

/-- The result of a request with GO = 1 (02 R85-R93). BUSY is given before BAD_TARGET where both apply (R87, R88; log 122, DESIGN CHOICE). -/
def requestEff (target : Nat) (s : State) : State :=
  if s.mode.request.isSome ∨ s.mode.mode = .loading ∨ s.mode.mode = .resetting then
    { s with mode := { s.mode with refuse := 2 } }
  else
    match targetMode target with
    | none => { s with mode := { s.mode with refuse := 5 } }
    | some m =>
      if m = s.mode.mode then { s with mode := { s.mode with refuse := 0 } }
      else
        let r := refusal s m
        if r = 0 then { s with mode := { s.mode with refuse := 0, request := some m, auto := false, met := false, since := s.now } }
        else { s with mode := { s.mode with refuse := r } }

/-- A write to GLOBAL_MODE_CTL (02 R83). -/
def modeCtlEff (v : Word) (s : State) : State :=
  let s1 := wrField s R.GLOBAL_MODE_CTL v 0x20007 0
  if bit v 16 then requestEff (fld v 0 3) s1 else s1

/-- MODE_REQUEST: GLOBAL_MODE_CTL written with GO = 1. -/
def execModeRequest (v : Word) (s : State) : Out := viaBar s (modeCtlEff (v ||| 0x10000))

/-! ### What a change of mode or substate does to bursts and allotments -/

/-- Kinds that the new mode no longer launches: bursts that wait are withdrawn, and entries taken as due wait for their removal at their
launch instants (04 R225, 05 R312, 06 R368). -/
def stopKinds (s : State) : State :=
  let s1 := withdrawBursts (fun b => !launches s b.kind.entryKind) s
  { s1 with table := s1.table.map fun e =>
      if (e.stage = .handed ∨ e.stage = .unranged) ∧ !launches s e.kind then { e with stage := .held } else e }

/-- RANGE and DATA entries leave at entry to LISTEN or SILENT (05 R295). -/
def purgeOwn (s : State) : State := purge s (fun e => e.kind != .register) R.LINE_CNT_ALLOT_HELD

/-- DATA entries leave at entry to SILENT (04 R253). -/
def purgeData (s : State) : State := purge s (fun e => e.kind == .data) R.LINE_CNT_ALLOT_UNRANGED

/-! ### Entering LISTEN, SILENT and TEST -/

/-- The own ID and the EQD are discarded, with those that wait to take effect (02 R90, 04 R244). -/
def discardIdentity (s : State) : State :=
  let s1 := wr (wr s R.LINE_TID 0) R.LINE_EQD 0
  { s1 with line := { s1.line with ident := none, eqd := none } }

/-- Key slots empty at the start of the next convoy (04 R257). -/
def emptyNext (s : State) : State := { s with keys := { s.keys with emptyAt := some s.line.convoys } }

/-- The terminal is in LISTEN: no ID, no EQD, perfect-match entry 0 not valid (03 R170, 04 R244, R257). -/
def enterListen (s : State) : State :=
  let s1 := discardIdentity s
  emptyNext (setPm0 s1 (setBit (rd s1 (R.LINE_PM 0)) 31 false))

/-- The fronts with a head token sent under the routing that ends (01 R75). -/
def frontsOut (s : State) : List Nat :=
  (s.flights.filter fun f => f.loc != .front).foldl (fun l f => setIns f.tok.port l) []

/-- PROVISION (SILENT) is the mode. -/
def toSilent (s : State) : State :=
  { s with mode := { s.mode with mode := .provision, sub := .silent, wake := false } }

/-- FALLOW ends, or the entry to it is given up: the fronts drain where FALLOW was the mode, and each governor runs as EN selects (01 R75, 16
R856, R858). -/
def leaveFallow (s : State) : State :=
  let s1 := if s.mode.mode = .fallow then { s with mode := { s.mode with drain := frontsOut s, wake := false } } else s
  if s.mode.mode = .fallow ∨ s.mode.rails then railsFree { s1 with mode := { s1.mode with rails := false } } else s

/-- Entry to SILENT (04 R252-R257): the EQD and one that waits are gone, assemblies are given up, entries leave, and a committed burst of one is
cancelled at its launch commit; a request that is pending will be refused (02 R98). -/
def enterSilent (s : State) : State :=
  let s1 := purgeOwn (purgeData (abortDrovers .silent (leaveFallow s)))
  let s2 := toSilent { s1 with mode := { s1.mode with met := s1.mode.request.isSome } }
  let s3 := clearEqd s2
  emptyNext (event { s3 with line := { s3.line with eqd := none } } R.LINE_RANGE_EVENT 3)

/-! ### Queues flushed (02 R90) -/

/-- Queue `q` is empty: its granules and pages are free. -/
def emptyQueue (q : Nat) (s : State) : State :=
  let x := queue s q
  let s1 := (List.range 8).foldl (fun s ch => if ((chan s ch).writing.map (·.q)) == some q then cancelWriting ch s else s) s
  let s2 := x.pages.foldl (fun s k => freePage k s) (freeChunks s1 (x.frames.flatMap fun f => f.parts))
  evalPressure (setQueue s2 q { press := x.press }) q

/-- Every queue is emptied. -/
def flushQueues (s : State) : State := s.queues.foldl (fun s e => emptyQueue e.1 s) s

/-! ### The commit (02 R94-R100) -/

/-- The mode set, with LISTEN where it is PROVISION. -/
def setMode (m : Mode) (s : State) : State := { s with mode := { s.mode with mode := m, sub := .listen } }

/-- Entry to and return from FALLOW: the fronts drain, and on the return the governors go on (01 R75, 16 R857, R858). -/
def fallowChange (m : Mode) (s : State) : State :=
  if m = .fallow then { s with mode := { s.mode with drain := frontsOut s } } else leaveFallow s

/-- What the new mode does on entry, with `old` the state before. -/
def modeEffects (old : State) (m : Mode) (s : State) : State :=
  match m with
  | .hold => stopKinds (abortDrovers .hold s)
  | .service => retakeHeld old s
  | .fallow => keeperWakeCheck (retakeHeld old s)
  | .test => emptySlots (discardIdentity (stopKinds (abortDrovers .hold (purgeRegister s))))
  | .provision =>
    let s1 := purgeOwn (abortDrovers .silent s)
    enterListen (if old.mode.mode = .test then flushQueues s1 else s1)
  | _ => s

/-- DORMANT has committed, and everything outside the Keeper is not lost yet. -/
def falling (s : State) : Bool := s.power.coreUp && s.mode.mode == .dormant

/-- DORMANT: everything outside the Keeper is lost, and CORE_EN goes low (02 R90, 16 R844); this follows the commit by a tick, so that a
deregistration of the same instant still meets the terminal (R98; log 118, DEDUCED). -/
def enterDormant (s : State) : State :=
  let s1 := coreReset 8 s
  driveCoreEn false { s1 with mode := { mode := .dormant } }

/-- A commit that takes a registered terminal out of its mode is remembered for the instant (02 R98). -/
def noteLeft (s : State) : State :=
  { s with mode := { s.mode with left := if registered s then some (s.now, rd s R.LINE_TID, s.mode.mode) else none } }

/-- The request for `m` commits. -/
def commitMode (m : Mode) (s : State) : State :=
  let s1 := noteLeft s
  if m = .dormant then setMode m s1 else modeEffects s m (setMode m (fallowChange m s1))

/-- The request that is pending ends. -/
def endRequest (s : State) : State := { s with mode := { s.mode with request := none, auto := false, met := false, rails := false } }

/-- The pending request is refused after all (02 R92, R98); only a request of software's shows its reason (02 R86). Governors that an entry to
FALLOW held go on (16 R856). -/
def refuseRequest (r : Nat) (s : State) : State :=
  let s1 := if s.mode.rails ∧ s.mode.mode ≠ .fallow then leaveFallow s else s
  endRequest { s1 with mode := { s1.mode with refuse := if s.mode.auto then s.mode.refuse else r } }

/-- An accepted request commits, or is refused where a deregistration or an EQD load has come first (02 R94, R98, 04 HOLD and EQD). A change that
moves the rails writes them first and commits when they have settled (16 R857, R858). -/
def modeCommitEff (avs : List (Nat × Ack)) (s : State) : State :=
  match s.mode.request with
  | none => s
  | some m =>
    if s.mode.met then refuseRequest 4 s
    else if refusal s m ≠ 0 then refuseRequest (refusal s m) s
    else if movesRails s m then
      let s1 := if s.mode.rails then s else railsMove m avs s
      if railsReady s1 then commitMode m (endRequest s1) else s1
    else commitMode m (endRequest s)

/-- MODE_COMMIT. -/
def execModeCommit (avs : List (Nat × Ack)) (s : State) : Out := viaCore s (modeCommitEff avs)

end Sys2Proof.Machine
end

