-- ==== Sys2Proof/Machine/LineMsgs.lean ====
section
/-!
DEFINITION. Head-end messages (03 R160-R167): their check, delivery to a ring, and what the consumed types do (04 R221-R268,
02 R100, 11 R621). Rows HEM, ASSIGN_ID, ASSIGN_EQD, ROUTE_PARAMS, DEREGISTER, WAKE, TIME_EPOCH, OFFER, ACTIVATE, GROUP, RETIRE,
KEY_MSG: each takes the next message of the convoy in progress when that is of its kind, HEM those that no other row takes (log 2, DEDUCED).
-/
namespace Sys2Proof.Machine

/-! ### A message (03 R160-R163) -/

/-- A head-end message: its fields, its body, and its octets. -/
structure Hem where
  tid  : Nat
  type : Nat
  seq  : Nat
  body : Bytes
  raw  : Bytes
  deriving DecidableEq, Repr

/-- The body lengths of a consumed type; none for a type that is not consumed (03 R163). -/
def hemLengths : Nat → Option (Nat × Nat)
  | 0x01 => some (12, 12)
  | 0x02 => some (8, 8)
  | 0x03 => some (8, 8)
  | 0x04 => some (8, 8)
  | 0x10 => some (4, 244)
  | 0x20 => some (0, 0)
  | 0x21 => some (20, 20)
  | _ => none

/-- The type is consumed. -/
def hemConsumed (ty : Nat) : Bool := (hemLengths ty).isSome

/-- The length suits the type. -/
def hemFits (ty n : Nat) : Bool :=
  match hemLengths ty with
  | some (lo, hi) => decide (lo ≤ n) && decide (n ≤ hi)
  | none => true

/-- What a message's octets come to: accepted, discarded with a trusted BODY_LEN, or discarded with an untrusted one. -/
inductive HemCheck where
  | good (h : Hem)
  | trusted
  | untrusted
  deriving DecidableEq, Repr

/-- The message's octets are judged (03 R162, R163). -/
def checkHem (o : Octets) : HemCheck :=
  match whole (o.take 8) with
  | none => .untrusted
  | some h =>
    let n := beAt h 3 1
    if h.length < 8 ∨ 244 < n ∨ n % 4 ≠ 0 then .untrusted
    else
      match whole ((o.drop 8).take n) with
      | none => if hemFits (beAt h 2 1) n then .trusted else .untrusted
      | some body =>
        if body.length = n ∧ beAt h 6 2 = (crc16 (slice h 0 6 ++ body)).toNat ∧ hemFits (beAt h 2 1) n then
          .good ⟨beAt h 0 2 / 16, beAt h 2 1, beAt h 4 2, body, h ++ body⟩
        else .untrusted

/-- The message is addressed to this terminal (03 R161). -/
def hemAddressed (s : State) (tid : Nat) : Bool :=
  tid == 0 || ownId s == some tid || (tid == 0xFFF && unregistered s)
    || (tid != 0xFFF && (pmIndex s tid).any fun i => i != 0)

/-- The message names its type's addressee (03 R163). -/
def hemMine (s : State) (h : Hem) : Bool :=
  if h.type = 0x01 then h.tid == 0xFFF else if h.type = 0x03 ∨ h.type = 0x21 then h.tid == 0 else ownId s == some h.tid

/-- Delivery (03 R167, 10 R595). -/
def hemDeliver (h : Hem) (s : State) : State :=
  let used := hemConsumed h.type
  let r := rfld s R.LINE_HEM_CTL 0 8
  if rbit s R.LINE_HEM_CTL 31 && (!used || rbit s R.LINE_HEM_CTL 30) then
    if ringOpen s r then
      setRing s true r { ring s true r with inbox := (ring s true r).inbox ++ [.hem h.raw s.line.reach s.line.number used] }
    else hemDrop used (bump s (R.RING_CNT_OFF 1 r))
  else hemDrop used s

/-! ### Registration and ranging messages (04 R221-R252) -/

/-- The SERIAL in body bytes 0 to 7 is the fused one (03 R165). -/
def serialMatches (s : State) (b : Bytes) : Bool := beAt b 0 8 == s.fuses.serial.toNat

/-- ASSIGN_ID: the ID waits for the next convoy start (04 R232). -/
def assignIdMsg (b : Bytes) (s : State) : State :=
  let tid := beAt b 8 2 % 4096
  if serialMatches s b && tid != 0 && tid != 0xFFF && unregistered s then
    { s with line := { s.line with ident := some ⟨BitVec.ofNat 12 tid, s.line.convoys⟩ } }
  else s

/-- ASSIGN_EQD: the EQD waits for the next convoy start (04 R222, R223). -/
def assignEqdMsg (b : Bytes) (s : State) : State :=
  if registered s then
    { s with line := { s.line with eqd := some ⟨(BitVec.ofNat 30 (beAt b 0 4), (b.getD 4 0).getLsbD 0), s.line.convoys⟩ } }
  else s

/-- ROUTE_PARAMS: L and P wait for the next convoy start, or are discarded (04 R221). -/
def routeParamsMsg (b : Bytes) (s : State) : State :=
  let l := beAt b 0 4 % 2 ^ 30
  let p := beAt b 4 2
  if 838400000 < l ∨ p = 0 then fault s .line 12 wholeBlock (BitVec.ofNat 64 (l * 2 ^ 32 + p))
  else { s with line := { s.line with route := some ⟨(BitVec.ofNat 30 l, BitVec.ofNat 32 p), s.line.convoys⟩ } }

/-- DEREGISTER: entry to SILENT at once, or at the end of a load (04 R252, 15 R787). -/
def deregisterMsg (b : Bytes) (s : State) : State :=
  if registered s && serialMatches s b then
    if s.mode.mode = .loading then { s with mode := { s.mode with dereg := true } } else enterSilent s
  else s

/-! ### TIME_EPOCH (11 R621) -/

/-- TIME_EPOCH: an epoch that refers to the convoy that carries it is held. -/
def timeEpochMsg (b : Bytes) (s : State) : State :=
  let d := beAt b 0 1
  let ref := beAt b 4 4
  if 2 ≤ d then fault s .time 4 d (BitVec.ofNat 64 (ref * 2 ^ 32) + s.line.number.setWidth 64)
  else if d = 1 ∧ !hasB s then s
  else if ref ≠ s.line.number.toNat then fault s .time 2 d (BitVec.ofNat 64 (ref * 2 ^ 32) + s.line.number.setWidth 64)
  else
    let s1 := wr64 s (R.TIME_EPOCH_SEC d) (BitVec.ofNat 64 (beAt b 8 6))
    let s2 := wr s1 (R.TIME_EPOCH_NS d) (BitVec.ofNat 32 (beAt b 16 4))
    let s3 := wr s2 (R.TIME_EPOCH_UTC d) (BitVec.ofNat 32 (2 ^ 31 + beAt b 2 2))
    event (wr64 s3 (R.TIME_EPOCH_REF d) (if d = 1 then s.line.domB else s.line.domA)) R.TIME_EVENT 14

/-! ### KEY_MSG (04 R258-R268, R915) -/

/-- A KEY_MSG reply joins the pool: the message's HEM_SEQ in its header, and its body bytes 1 to 3 (04 R915). -/
def keyReply (op : Nat) (h : Hem) (rest : Bytes) (s : State) : State :=
  let body := BitVec.ofNat 8 op :: slice h.body 1 3 ++ rest
  let head := beBytes 2 (h.tid * 16) ++ [0x10#8, BitVec.ofNat 8 body.length] ++ beBytes 2 h.seq
  queueMsg (head ++ beBytes 2 (crc16 (head ++ body)).toNat ++ body) false s

/-- KEY_MSG OP and length, index and slot are in form (04 R265). -/
def keyForm (s : State) (b : Bytes) : Bool :=
  let op := beAt b 0 1
  let idx := beAt b 1 1 / 16
  let slot := beAt b 1 1 % 4
  (slot == 1 || slot == 2)
    && ((op == 1 && b.length == 200 && idx == 0)
      || (op == 3 && b.length == 4 && (look none s.keys.up slot).isSome && (look none s.keys.down (4 * idx + slot)).isSome)
      || (op == 4 && b.length == 52) || (op == 5 && b.length == 4))

/-- The head-end key hash (04 R268). -/
def heHash (s : State) : Bytes := (List.range 12).flatMap fun i => beBytes 4 (rd s (R.CIPHER_HE_KEYHASH i)).toNat

/-- The identity public key, X then Y (04 R268). -/
def idPub (s : State) : Bytes := publicXY s.fuses.idKey

/-- The OFFER's signature is good under a key whose SHA-384 hash is the head-end key hash, or is not checked (04 R260). The OFFER carries no
key: those under which its signature verifies are found from the signature; the 96 octets X and Y are what is hashed (15 R778; log 20). -/
def offerGood (s : State) (b : Bytes) : Bool :=
  (heHash s).all (· == 0) || (ecdsaKeys (slice b 0 101) (slice b 101 96)).any fun k => sha384 k == heHash s

/-- The shared octets of the terminal's ephemeral scalar and an OFFER's public key; where that is no point of the curve, free ones (04 R259). -/
def sharedOctets (n : Nat) (b : Bytes) : Bytes :=
  match ecdh (scalarOf (Config.ephemeral n)) (slice b 4 97) with
  | some x => x
  | none => (List.range 48).map (Config.freeByte n)

/-- A key of draw `n` for an OFFER: `len` octets under an info string (04 R259). -/
def sessionOctets (s : State) (n : Nat) (b info : Bytes) (len : Nat) : Bytes :=
  hkdf384 (beBytes 8 s.fuses.serial.toNat ++ slice b 2 2) (sharedOctets n b) info len

/-- A key change waits for the next convoy start (04 R261, R264). -/
def keyStage (w : KeyWait) (s : State) : State := { s with keys := { s.keys with waiting := s.keys.waiting ++ [w] } }

/-- An OFFER is answered and its keys wait (04 R261). -/
def offerTake (h : Hem) (s : State) : State :=
  let n := s.free
  let slot := beAt h.body 1 1 % 4
  let dn := sessionOctets s n h.body [0x44#8, 0x52#8, 0x50#8, 0x2D#8, 0x44#8] 36
  let up := sessionOctets s n h.body [0x44#8, 0x52#8, 0x50#8, 0x2D#8, 0x55#8] 36
  let kek := sessionOctets s n h.body [0x44#8, 0x52#8, 0x50#8, 0x2D#8, 0x4B#8] 32
  let pub := 0x04#8 :: publicXY (scalarOf (Config.ephemeral n))
  let signed := slice h.body 0 101 ++ (0x02#8 :: slice h.body 1 3 ++ pub) ++ beBytes 8 s.fuses.serial.toNat
  let sig := ecdsaSign s.fuses.idKey (scalarOf (Config.nonce n)) signed
  let s1 := keyReply 0x02 h (pub ++ sig ++ [0, 0, 0]) (draw1 s)
  keyStage ⟨slot, some ⟨dn.take 32, dn.drop 32, 0⟩, some (some ⟨up.take 32, up.drop 32, 1⟩), s.line.convoys⟩
    { s1 with keys := { s1.keys with kek := some kek } }

/-- EPOCH of a KEY_MSG, as an IDENT. -/
def keyEpoch (b : Bytes) : DWord := BitVec.ofNat 64 (beAt b 2 2)

/-- An OFFER (04 R260-R262); where it names the active slot and its signature fails, either is recorded (log 37, DEDUCED). -/
def offerMsg (h : Hem) (s : State) : State :=
  let slot := beAt h.body 1 1 % 4
  let active := s.keys.upSlot == slot
  if active && (offerGood s h.body || Config.pick s.free) then fault (draw1 s) .cipher 4 slot (keyEpoch h.body)
  else if !offerGood s h.body then fault (draw1 s) .cipher 3 0 (keyEpoch h.body)
  else offerTake h s

/-- ACTIVATE: later assemblies use the slot, from PN 1 (04 R263), also where slot and key were active (03 R178; log 156, DESIGN CHOICE). -/
def activateMsg (h : Hem) (s : State) : State :=
  let slot := beAt h.body 1 1 % 4
  let up := (look none s.keys.up slot).map fun k => { k with pn := 1 }
  keyReply 0x07 h [] (event { s with keys := { s.keys with upSlot := slot, up := put none s.keys.up slot up } } R.LINE_RANGE_EVENT 5)

/-- GROUP: the unwrapped key waits for the next convoy start (04 R264). -/
def groupMsg (h : Hem) (s : State) : State :=
  let idx := beAt h.body 1 1 / 16
  let n := 4 * idx + beAt h.body 1 1 % 4
  match s.keys.kek.bind fun k => keyUnwrap k (slice h.body 4 48) with
  | some k =>
    let w : KeyWait := ⟨n, some ⟨slice k 0 32, slice k 32 4, 0⟩, none, s.line.convoys⟩
    keyReply 0x07 h [] (keyStage w s)
  | none => fault s .cipher 5 idx (keyEpoch h.body)

/-- RETIRE: the slot empties at the next convoy start (04 R264). -/
def retireMsg (h : Hem) (s : State) : State :=
  keyReply 0x07 h [] (keyStage ⟨4 * (beAt h.body 1 1 / 16) + beAt h.body 1 1 % 4, none, some none, s.line.convoys⟩ s)

/-- A KEY_MSG addressed to the terminal (04 R258-R267). -/
def keyMessage (h : Hem) (s : State) : State :=
  if !hasCipher s then keyReply 0x06 h [] s
  else if !keyForm s h.body then fault s .cipher 6 wholeBlock (BitVec.ofNat 64 (beAt h.body 0 4))
  else
    match beAt h.body 0 1 with
    | 1 => offerMsg h s
    | 3 => activateMsg h s
    | 4 => groupMsg h s
    | _ => retireMsg h s

/-! ### Acting on a message -/

/-- The device acts on a consumed type that is addressed to it (03 R163). -/
def hemAct (h : Hem) (s : State) : State :=
  if !hemMine s h then s
  else
    match h.type with
    | 0x01 => assignIdMsg h.body s
    | 0x02 => assignEqdMsg h.body s
    | 0x03 => routeParamsMsg h.body s
    | 0x04 => deregisterMsg h.body s
    | 0x10 => keyMessage h s
    | 0x20 => wakeCondition s
    | 0x21 => timeEpochMsg h.body s
    | _ => s

/-- A DEREGISTER that meets, at the same instant, a commit which has taken the terminal out of its mode (02 R98). -/
def meetsLeft (s : State) (h : Hem) : Bool :=
  s.mode.left.any fun x => x.1 == s.now && bit x.2.1 31 && fld x.2.1 0 12 == h.tid && h.type == 0x04 && serialMatches s h.body

/-- The terminal ends in PROVISION (SILENT) with the ID it had: a DEREGISTER of the instant of a commit (02 R98). -/
def deregisterLate (s : State) : State :=
  match s.mode.left with
  | some (_, tid, m) =>
    enterSilent (setPm0 (wr { s with mode := { s.mode with mode := if s.mode.mode = .dormant then m else s.mode.mode, left := none } }
      R.LINE_TID tid) tid)
  | none => s

/-- A discarded message counts and is recorded (03 R162). -/
def hemBad (idx : Nat) (o : Octets) (s : State) : State :=
  fault (bump s R.LINE_CNT_HEM_BAD) .line 8 idx (BitVec.ofNat 64 (beAt (blanked o) 0 8))

/-- The rest of the convoy's messages and its segments are discarded, with what has been reassembled (03 R162, R153). -/
def cutConvoy (s : State) : State := abandonAll (endConvoy s)

/-- The octets of the message at byte `off` of the body: its header, and as many body bytes as a BODY_LEN in range says (03 R160, R162). -/
def hemOctets (s : State) (off : Nat) : Got :=
  match bodyOctets s s.line.start off 8 with
  | .octets h =>
    match whole h with
    | some b =>
      let n := beAt b 3 1
      if 244 < n ∨ n % 4 ≠ 0 then .octets h else (Got.octets h).append (bodyOctets s s.line.start (off + 8) n)
    | none => .octets h
  | g => g

/-- The next message of the convoy in progress: its turn is after the map (03 R151), and HEM_COUNT says how many there are (03 R149). -/
def hemTurn (s : State) : Bool :=
  s.line.live && !s.line.ended && decide (s.line.maps ≤ s.line.mapsDone) && decide (s.line.hemsDone < s.line.hems)

/-- The message of `n` octets has been taken: the next one begins directly after it (03 R148). -/
def hemNext (n : Nat) (s : State) : State :=
  { s with line := { s.line with hemsDone := s.line.hemsDone + 1, cursor := s.line.cursor + n } }

/-- Message `idx` of the convoy, with its octets. A good one for another terminal is not accepted (03 R167; log 154, DESIGN CHOICE). -/
def takeHem (idx : Nat) (o : Octets) (s : State) : State :=
  match checkHem o with
  | .good h =>
    if meetsLeft s h then deregisterLate (hemDeliver h s) else if hemAddressed s h.tid then hemAct h (hemDeliver h s) else s
  | .trusted => hemBad idx o s
  | .untrusted => cutConvoy (hemBad idx o s)

/-- The next message is taken by a row whose kind it is; it waits while it has not been received, and is lost where it is cut off (03 R154). -/
def messageEff (mine : HemCheck → Bool) (s : State) : State :=
  if !hemTurn s then s
  else
    match hemOctets s s.line.cursor with
    | .wait => s
    | .cut => endConvoy s
    | .octets o => if mine (checkHem o) then takeHem s.line.hemsDone o (hemNext o.length s) else s

/-- A message that is discarded, or of a type that is not consumed (03 R162, R163). -/
def isSite : HemCheck → Bool
  | .good h => !hemConsumed h.type
  | _ => true

/-- An accepted message of type `ty`. -/
def isType (ty : Nat) : HemCheck → Bool
  | .good h => h.type == ty
  | _ => false

/-- An accepted KEY_MSG with the OP `op` (04 R258). -/
def isKeyOp (op : Nat) : HemCheck → Bool
  | .good h => h.type == 0x10 && beAt h.body 0 1 == op
  | _ => false

/-- An accepted KEY_MSG with an OP that no other row names (04 R265). -/
def isKeyOther : HemCheck → Bool
  | .good h => h.type == 0x10 && !([1, 3, 4, 5].contains (beAt h.body 0 1))
  | _ => false

/-- HEM. -/
def execHem (s : State) : Out := viaCore s (messageEff isSite)

/-- ASSIGN_ID. -/
def execAssignId (s : State) : Out := viaCore s (messageEff (isType 0x01))

/-- ASSIGN_EQD. -/
def execAssignEqd (s : State) : Out := viaCore s (messageEff (isType 0x02))

/-- ROUTE_PARAMS. -/
def execRouteParams (s : State) : Out := viaCore s (messageEff (isType 0x03))

/-- DEREGISTER, also in the instant in which DORMANT commits (02 R98). -/
def execDeregister (s : State) : Out := if running s || falling s then done (messageEff (isType 0x04) s) else done s

/-- WAKE. -/
def execWake (s : State) : Out := viaCore s (messageEff (isType 0x20))

/-- TIME_EPOCH. -/
def execTimeEpoch (s : State) : Out := viaCore s (messageEff (isType 0x21))

/-- OFFER. -/
def execOffer (s : State) : Out := viaCore s (messageEff (isKeyOp 1))

/-- ACTIVATE. -/
def execActivate (s : State) : Out := viaCore s (messageEff (isKeyOp 3))

/-- GROUP. -/
def execGroup (s : State) : Out := viaCore s (messageEff (isKeyOp 4))

/-- RETIRE. -/
def execRetire (s : State) : Out := viaCore s (messageEff (isKeyOp 5))

/-- KEY_MSG. -/
def execKeyMsg (s : State) : Out := viaCore s (messageEff isKeyOther)

end Sys2Proof.Machine
end

