-- ==== Sys2Proof/Machine/Segments.lean ====
section
/-!
DEFINITION. Downstream segments (03 R173-R184, R914, 07 R382-R386): check, match, decryption and reassembly. Row SEGMENT.
-/
namespace Sys2Proof.Machine

/-! ### The reassembly pool (07 R383-R386) -/

/-- Pool granules now free: those that neither an open context nor a completed frame at its front holds. -/
def poolFree (s : State) : Nat :=
  s.cistern.pool - s.reasm.ctxs.foldl (fun n c => n + granulesOf c.bytes.length) 0
    - s.flights.foldl (fun n f => if f.loc = .front then n + f.pool else n) 0

/-- LINE_REASM_POOL: SIZE as held, FREE as it stands (07 R383). -/
def reasmPoolView (s : State) : Word := (rd s R.LINE_REASM_POOL &&& 0xFFFF0000) ||| BitVec.ofNat 32 (poolFree s / 256 % 65536)

/-- MAX_LEN (03 R182); below 60 it is taken as written (log 157, DESIGN CHOICE). -/
def reasmMax (s : State) : Nat := Nat.min 16000 (rfld s R.LINE_REASM_CTL 0 14)

/-! ### A segment's header (03 R173) -/

/-- The fields of a segment header. -/
structure SegHeader where
  tid  : Nat
  flow : Nat
  len  : Nat
  frag : Nat
  key  : Nat
  raw  : Bytes
  deriving DecidableEq, Repr

/-- The fields of eight header octets whose SEG_CHECK matches. -/
def segFields (h : Bytes) : Option SegHeader :=
  let w := beAt h 0 8
  if h.length = 8 ∧ w % 65536 = (crc16 (slice h 0 6)).toNat then
    some ⟨w / 2 ^ 52, w / 2 ^ 36 % 65536, w / 2 ^ 22 % 16384, w / 2 ^ 20 % 4, w / 2 ^ 16 % 16, h⟩
  else none

/-- FIRST or WHOLE. -/
def SegHeader.starts (h : SegHeader) : Bool := decide (2 ≤ h.frag)

/-! ### Keys whose segments are passed over (03 R183) -/

/-- Segments of the key are passed over no longer. -/
def unskip (h : SegHeader) (s : State) : State :=
  { s with reasm := { s.reasm with skips := s.reasm.skips.filter fun x => !(x.1 == h.tid && x.2.1 == h.flow) } }

/-- Segments of the key are discarded up to the next FIRST or WHOLE, or with `last` no further than the LAST of the frame (03 R183). -/
def skipKey (h : SegHeader) (last : Bool) (s : State) : State :=
  let s1 := unskip h s
  { s1 with reasm := { s1.reasm with skips := (h.tid, h.flow, last) :: s1.reasm.skips } }

/-- Segments of the key are passed over; whether they are only up to a LAST. -/
def skipping (s : State) (h : SegHeader) : Option Bool :=
  (s.reasm.skips.find? fun x => x.1 == h.tid && x.2.1 == h.flow).map (·.2.2)

/-- The open frame of the key is abandoned with RESTART where a FIRST or WHOLE arrives (03 R914). -/
def segRestart (h : SegHeader) (s : State) : State :=
  if h.starts && (findCtx s h.tid h.flow).isSome then reasmDrop (closeCtx s h.tid h.flow) h.tid h.flow 7 else s

/-- The segment's frame is abandoned and counted, and its later segments are passed over: up to its LAST under ORPHAN and NO_CONTEXT, up to
the next FIRST or WHOLE of the key under the other reasons (03 R183). -/
def segDrop (h : SegHeader) (reason : Nat) (s : State) : State :=
  let s1 := reasmDrop (closeCtx s h.tid h.flow) h.tid h.flow reason
  if reason = 1 ∨ reason = 3 then (if h.frag = 1 then unskip h s1 else skipKey h true s1) else skipKey h false s1

/-- A segment of a frame that is abandoned already is discarded; with its LAST that frame is over. -/
def segPass (h : SegHeader) (last : Bool) (s : State) : State := if last && h.frag = 1 then unskip h s else s

/-- The segment's frame is abandoned, if it has not been (03 R183). -/
def segAbandon (h : SegHeader) (reason : Nat) (s : State) : State :=
  match h.starts, skipping s h with
  | false, some last => segPass h last s
  | _, _ => segDrop h reason s

/-! ### Decryption (03 R177-R179) -/

/-- The slot that a segment's KEY_INDEX names, if it holds a key. -/
def segKey (s : State) (h : SegHeader) : Option (Nat × DownKey) :=
  if (h.key = 1 ∨ h.key = 2) ∧ hasCipher s then
    (pmIndex s h.tid).bind fun i => (look none s.keys.down (4 * i + h.key)).map fun k => (4 * i + h.key, k)
  else none

/-- The tag of an encrypted payload verifies. -/
def segTagOk (k : DownKey) (h : SegHeader) (p : Bytes) : Bool :=
  decide (24 ≤ p.length)
    && gcmTagOf k.key (k.salt ++ p.take 8) h.raw ((p.drop 8).take (p.length - 24)) == p.drop (p.length - 16)

/-- A payload in the clear: as received, or decrypted; none where the replay or the tag check fails, which is recorded (03 R179); where
both fail, either is recorded (log 37, DEDUCED). One below 24 bytes has no tag and fails (03 R177; log 155, DESIGN CHOICE). -/
def segClear (h : SegHeader) (p : Bytes) (s : State) : Option Bytes × State :=
  match segKey s h with
  | none => (some p, s)
  | some (n, k) =>
    let pn := beAt p 0 8
    let old := decide (pn ≤ k.high)
    if old && (segTagOk k h p || Config.pick s.free) then (none, fault (draw1 s) .cipher 2 h.key (BitVec.ofNat 64 pn))
    else if !segTagOk k h p then (none, fault (draw1 s) .cipher 1 h.key (BitVec.ofNat 64 pn))
    else
      (some (gcmApply k.key (k.salt ++ p.take 8) ((p.drop 8).take (p.length - 24))),
       { s with keys := { s.keys with down := put none s.keys.down n (some { k with high := pn }) } })

/-! ### Reassembly (03 R181-R184, 07 R382-R385) -/

/-- A completed frame goes to the reassembler's front (03 R184, 01 R60), and the time windows on the line count it (11 R647). -/
def reasmDeliver (tid flow : Nat) (b : Bytes) (stamp : DWord) (steps : Nat) (s : State) : State :=
  startFlight { len := b.length, src := .line, port := 17, csum := csumResults b, stamp := stamp, steps := steps
                hash := flowHash (beBytes 2 tid ++ beBytes 2 flow) } b false false (granulesOf b.length)
    (winCount none stamp b.length (bump s R.LINE_CNT_REASM_OK))

/-- A WHOLE segment. -/
def segWhole (h : SegHeader) (b : Bytes) (at_ : DWord × Nat) (s : State) : State :=
  if reasmMax s < b.length then segAbandon h 2 s
  else if poolFree s < granulesOf b.length then segAbandon h 11 s
  else if b.length < 60 then reasmDrop s h.tid h.flow 6
  else reasmDeliver h.tid h.flow b at_.1 at_.2 s

/-- A FIRST segment. -/
def segFirst (h : SegHeader) (b : Bytes) (at_ : DWord × Nat) (s : State) : State :=
  if 4096 ≤ s.reasm.ctxs.length then segAbandon h 3 s
  else if reasmMax s < b.length then segAbandon h 2 s
  else if poolFree s < granulesOf b.length then segAbandon h 11 s
  else { s with reasm := { s.reasm with ctxs := s.reasm.ctxs ++ [⟨h.tid, h.flow, h.key, b, s.line.convoys, at_.1, at_.2⟩] } }

/-- A LAST segment has completed the frame of a context. -/
def segLast (c : Context) (b : Bytes) (s : State) : State :=
  let s1 := closeCtx s c.tid c.flow
  if b.length < 60 then reasmDrop s1 c.tid c.flow 6 else reasmDeliver c.tid c.flow b c.stamp c.steps s1

/-- A MIDDLE or LAST segment of an open context. -/
def segMore (h : SegHeader) (c : Context) (p : Bytes) (s : State) : State :=
  let b := c.bytes ++ p
  if h.key ≠ c.key then segAbandon h 8 s
  else if reasmMax s < b.length then segAbandon h 2 s
  else if poolFree s + granulesOf c.bytes.length < granulesOf b.length then segAbandon h 11 s
  else if h.frag = 1 then segLast c b s
  else { s with reasm := { s.reasm with ctxs := s.reasm.ctxs.map fun x =>
      if x.tid = c.tid ∧ x.flow = c.flow then { x with bytes := b, seen := s.line.convoys } else x } }

/-- A segment in the clear, whose header is at byte `off` of the body, is reassembled. -/
def segReassemble (h : SegHeader) (b : Bytes) (off : Nat) (s : State) : State :=
  if h.starts then
    let s1 := unskip h s
    if h.frag = 3 then segWhole h b (rowInstant s off) s1 else segFirst h b (rowInstant s off) s1
  else
    match findCtx s h.tid h.flow with
    | some c => segMore h c b s
    | none => segAbandon h 1 s

/-! ### The steps of R176 -/

/-- Step 1 of R176, with the header at byte `off`: the rest of the segment area is discarded. -/
def segBad (off : Nat) (s : State) : State :=
  fault (bump (cutConvoy s) R.LINE_CNT_SEG_BAD) .line 9 wholeBlock (BitVec.ofNat 64 off)

/-- Step 3 of R176 applies. -/
def segNoKey (s : State) (h : SegHeader) : Bool := h.key != 0 && (segKey s h).isNone

/-- Steps 2 to 5 of R176, with the payload unless it is erased or cut off; before them a FIRST or WHOLE ends the open frame of its key
(03 R914). -/
def segSteps (h : SegHeader) (payload : Option Bytes) (off : Nat) (s : State) : State :=
  let s0 := segRestart h s
  if !pmMatches s0 h.tid then s0
  else if segNoKey s0 h then
    segAbandon h 8 (fault (bump s0 R.LINE_CNT_SEG_KEY) .line 11 (pmInstance s0 h.tid) (BitVec.ofNat 64 (beNat h.raw)))
  else
    match payload with
    | none => segAbandon h 10 s0
    | some p =>
      match segClear h p s0 with
      | (some b, s1) => segReassemble h b off s1
      | (none, s1) => segAbandon h 9 s1

/-- The next segment of the convoy in progress: its turn is after the map and the messages (03 R151). -/
def segTurn (s : State) : Bool :=
  s.line.live && !s.line.ended && decide (s.line.maps ≤ s.line.mapsDone) && decide (s.line.hems ≤ s.line.hemsDone)

/-- The segment at byte `off` has been taken: the next one begins directly after its padding (03 R174). -/
def segNext (off len : Nat) (s : State) : State := { s with line := { s.line with cursor := off + roundUp (8 + len) 8 } }

/-- A segment with a header in form at byte `off`: it waits while its payload has not been received; a payload that is cut off abandons its
frame and ends the convoy (03 R154). -/
def segTake (h : SegHeader) (off : Nat) (s : State) : State :=
  match bodyOctets s s.line.start (off + 8) h.len with
  | .wait => s
  | .cut => segSteps h none off (endConvoy s)
  | .octets p => segSteps h (whole p) off (segNext off h.len s)

/-- The next segment, on the next 8-byte boundary of the body (03 R148), is taken: the end marker ends the segment area (03 R175). -/
def segmentEff (s : State) : State :=
  if !segTurn s then s
  else
    let off := roundUp s.line.cursor 8
    match bodyOctets s s.line.start off 8 with
    | .wait => s
    | .cut => endConvoy s
    | .octets o =>
      match (whole o).bind segFields with
      | none => segBad off s
      | some h => if h.len = 0 then (if h.tid = 0xFFF then endConvoy s else segBad off s) else segTake h off s

/-- SEGMENT. -/
def execSegment (s : State) : Out := viaCore s segmentEff

end Sys2Proof.Machine
end

