-- ==== Sys2Proof/Machine/Power.lean ====
section
/-!
DEFINITION. Supplies, resets and the PCI Express function's own resets (02 R101-R108, 16 R844-R846, 17 R873-R893, 10 R542 R543).
Rows VKEEP_POWER_UP, VKEEP_LOW, CORE_PG_LOW, CORE_LEAVES_RESET, RESET_N, GLOBAL_SOFT_RESET, PERST_N, FUNCTION_LEVEL_RESET,
D3HOT_ENTRY, D3HOT_TO_D0, KEEPER_WAKE, PG_TIMEOUT, PERST_N_RELEASE.
-/
namespace Sys2Proof.Machine

/-! ### The Keeper's supply -/

/-- The Keeper and everything else at reset: its registers with the halves written of them, its log and its time keeping; the crystal has still to
start (16 R813, 17 R878, R887). -/
def keeperReset (s : State) : State :=
  let s1 := coreReset 1 s
  { s1 with regs := [], keeper := {}, host := { s1.host with stage := [] } }

/-- VKEEP_POWER_UP: CORE_EN is held low, then driven high (16 R813, 17 R873). -/
def execVkeepPowerUp (s : State) : Out :=
  let s1 := keeperReset s
  done (driveCoreEn true (driveCoreEn false { s1 with power := { s1.power with vkeep := true } }))

/-- VKEEP_LOW: the Keeper resets and CORE_EN goes low (17 R878). -/
def execVkeepLow (s : State) : Out :=
  let s1 := keeperReset s
  done (driveCoreEn false { s1 with power := { s1.power with vkeep := false } })

/-! ### The core's resets (02 R101, 17 R876 R877 R893) -/

/-- The core is powered: CORE_EN is high, and CORE_PG has been high once since it rose (17 R877; log 142, DEDUCED). -/
def powered (s : State) : Bool := s.power.coreUp || (s.power.vkeep && s.power.coreEn && !s.power.pgWait)

/-- CORE_PG_LOW while the core is powered: it is held in reset, with CORE_EN as it is (17 R877). -/
def execCorePgLow (s : State) : Out :=
  let s1 := if powered s then coreReset 2 s else s
  done (if s.power.coreEn then { s1 with power := { s1.power with pgFrom := some s.now } } else s1)

/-- A flash that the loader accepts: identified, described and of at least 16 MiB (15 R762). -/
def flashGood (f : FlashId) : Bool := f.jedec && f.sfdp && decide (16 * 2 ^ 20 ≤ f.bytes)

/-- The core leaves reset: it shows its reset cause, samples the straps and reads the flash's identification (02 R104, R105 step 1, R108, 15
R762, 17 R892). -/
def leaveReset (bootSel : BitVec 2) (addrSel : Bool) (flash : FlashId) (s : State) : State :=
  let s1 := { s with
    mode := {}
    flash := { s.flash with ok := flashGood flash }
    power := { s.power with
      coreUp := true, cause := s.power.nextCause, straps := bootSel.toNat + 4 * b2n addrSel, strapped := true, pgWait := false, pgFrom := none } }
  if bootSel = 3 then fault s1 .global 1 wholeBlock 0 else s1

/-- CORE_PG can have been high for 2 ms (17 R876, R877). -/
def pgReady (s : State) : Bool := s.power.pgFrom.all fun n => decide (n + 625000 ≤ s.now)

/-- CORE_LEAVES_RESET, where the core is in reset with its supply enabled and good for 2 ms, or has just left it. -/
def execCoreLeavesReset (bootSel : BitVec 2) (addrSel : Bool) (flash : FlashId) (s : State) : Out :=
  done (if s.power.vkeep && s.power.coreEn && pgReady s && !(s.power.coreUp && s.power.strapped) then leaveReset bootSel addrSel flash s else s)

/-- RESET_N low for `ns`: below 1 µs never, from 10 µs always, between them as the device takes it (17 R893). -/
def execResetN (ns : Nat) (acts : Bool) (s : State) : Out :=
  done (if powered s && (decide (10000 ≤ ns) || (decide (1000 ≤ ns) && acts)) then coreReset 2 s else s)

/-- A write to GLOBAL_SOFT_RESET (02 R103). -/
def softResetEff (v : Word) (s : State) : State :=
  if v = 0xA5A5 then coreReset 4 s else fault s .global 2 wholeBlock (v.setWidth 64)

/-- GLOBAL_SOFT_RESET. -/
def execGlobalSoftReset (v : Word) (s : State) : Out := viaBar s (softResetEff v)

/-! ### DORMANT and back (16 R844-R846) -/

/-- Keeper ticks in 10 ms, the last one begun included (16 R814, R845). -/
abbrev tenMs : Nat := 328

/-- In DORMANT, with CORE_EN low for 10 ms, a wake condition raises it (16 R845). -/
def keeperWakeEff (s : State) : State :=
  if s.power.vkeep && s.mode.mode == .dormant && !s.power.coreEn && keeperWakeHolds s && decide (tenMs ≤ s.power.enTicks)
  then driveCoreEn true { s with power := { s.power with nextCause := 8 } } else s

/-- KEEPER_WAKE. -/
def execKeeperWake (s : State) : Out := done (keeperWakeEff s)

/-- CORE_PG has not come within PG_WAIT (16 R846). -/
def pgTimeoutEff (s : State) : State :=
  let s1 := { driveCoreEn false s with mode := { mode := .dormant } }
  fault (wr s1 R.KEEPER_WAKE_CAUSE 0) .keeper 1 wholeBlock (BitVec.ofNat 64 s.keeper.rtcSec)

/-- PG_TIMEOUT. -/
def execPgTimeout (s : State) : Out :=
  done (if s.power.vkeep && s.power.coreEn && s.power.pgWait && !s.power.coreUp
      && decide (32768 * zeroAsOne (rfld s R.KEEPER_PWR_CTL 0 16) < 1000 * s.power.enTicks)
    then pgTimeoutEff s else s)

/-! ### The host unit's resets (02 R101 R102, 10 R542 R543) -/

/-- The register belongs to the host unit: its fault record, block DMA, the rings and their doorbells. -/
def inHostUnit (a : Nat) : Bool :=
  (decide (0x30F00 ≤ a) && decide (a < 0x30F20)) || (decide (0x200000 ≤ a) && decide (a < 0x400000))
    || (decide (0x3000000 ≤ a) && decide (a < 0x3200000))

/-- What a ring holds is lost: its granules return, and the entry version of a frame in progress is released (02 R102, 07 R412). -/
def ringLost (s : State) (x : Ring) : State :=
  let s1 := releaseStamp x.front (x.inbox.foldl freeItem s)
  match x.cur with
  | some c => freeItem s1 c.item
  | none => s1

/-- The PCI Express core and the host unit are reset; the management target's state is not theirs (02 R101, R102). The HI latches of the host
path go with them whatever block they are of (00 R33; log 119, DESIGN CHOICE), the user windows' among them. -/
def hostReset (s : State) : State :=
  let s1 := endScans 0 2 (s.rings.foldl (fun s e => ringLost s e.2) s)
  { s1 with
    rings := [], dmas := [], regs := s1.regs.filter fun e => !inHostUnit e.1
    host := { perst := s1.host.perst, mgt := s1.host.mgt, latch := s1.host.latch.filter fun e => decide (0x4000000 ≤ e.1)
              stage := s1.host.stage.filter fun e => !inHostUnit e.1 } }

/-- PERST_N asserted. -/
def execPerstN (s : State) : Out :=
  let s1 := hostReset s
  done { s1 with host := { s1.host with perst := true } }

/-- PERST_N_RELEASE (02 R101). -/
def execPerstNRelease (s : State) : Out := done { s with host := { s.host with perst := false } }

/-- FUNCTION_LEVEL_RESET, in D0 and D3hot alike (10 R542). -/
def execFunctionLevelReset (s : State) : Out := done (if running s && !s.host.perst then hostReset s else s)

/-- D3HOT_ENTRY (10 R543). -/
def execD3hotEntry (s : State) : Out := done (if hostUp s then { s with host := { s.host with d3 := true } } else s)

/-- D3HOT_TO_D0 (10 R542). -/
def execD3hotToD0 (s : State) : Out := done (if running s && !s.host.perst && s.host.d3 then hostReset s else s)

end Sys2Proof.Machine
end

