-- ==== Sys2Proof/Machine/ImageForm.lean ====
section
/-!
DEFINITION. The content of a configuration image (15 R763-R778): its sections as data, how they are read from the image's bytes, the form
that each must have, and the FACTORY image (02 R109, 05 R277, 08 R479, 11 R631, 16 R839).
-/
namespace Sys2Proof.Machine

/-- What an image holds: the bytes of STRUCTURE, and the other sections as the state holds them; a queue record is its first three words,
and a microword stands at tract * 4096 + address. -/
structure ImageData where
  version : Word
  hash    : List Word
  str     : Bytes
  parser  : Parser
  rules   : RuleSet
  spillWm : Word
  drawWm  : Word
  frag    : List Word
  aids    : List Word
  queues  : Sparse (List Word)
  mask    : Nat
  micro   : Sparse (BitVec 192)
  ddr     : Bytes
  corr    : List Word
  heHash  : List Word
  presets : List (Nat × Word)
  keeper  : List (Nat × Word)
  deriving DecidableEq, Repr

/-! ### Reading bytes -/

/-- `k` pieces of `n` octets each. -/
def chunks (n : Nat) : Nat → Bytes → List Bytes
  | 0, _ => []
  | k + 1, b => slice b 0 n :: chunks n k (b.drop n)

/-- `k` words, each most significant octet first. -/
def wordsBe (k : Nat) (b : Bytes) : List Word := (chunks 4 k b).map fun c => BitVec.ofNat 32 (beNat c)

/-- Sparse data from the values of numbers 0, 1, ... -/
def sparseOf {α : Type} [DecidableEq α] (d : α) (l : List α) : Sparse α :=
  (l.zipIdx.filter fun x => x.1 ≠ d).map fun x => (x.2, x.1)

/-- All octets are 0. -/
def allZero (b : Bytes) : Bool := b.all (· == 0)

/-- OFFSET of the section of TYPE `k` + 1 (15 R764). -/
def sectOff (b : Bytes) (k : Nat) : Nat := beAt b (68 + 16 * k) 4

/-- LENGTH of the section of TYPE `k` + 1. -/
def sectLen (b : Bytes) (k : Nat) : Nat := beAt b (72 + 16 * k) 4

/-- The bytes of the section of TYPE `k` + 1. -/
def sect (b : Bytes) (k : Nat) : Bytes := slice b (sectOff b k) (sectLen b k)

/-- TOTAL_LEN. -/
def totalLen (b : Bytes) : Nat := beAt b 12 4

/-- IMAGE_VERSION. -/
def imageVersion (b : Bytes) : Word := BitVec.ofNat 32 (beAt b 8 4)

/-! ### The sections read -/

/-- The PARSER section (15 R767). -/
def parserOf (x : Bytes) : Parser :=
  { nodes := sparseOf [] (chunks 64 (beAt x 0 4) (x.drop 64)), starts := (slice x 4 18).map (·.toNat) }

/-- A rule record (15 R768). -/
def ruleOf (r : Bytes) : Nat × Rule := (beAt r 0 2, ⟨slice r 8 72, slice r 80 72, BitVec.ofNat 64 (beAt r 152 8)⟩)

/-- The RULES section (15 R768). -/
def rulesOf (x : Bytes) : RuleSet :=
  { rules := (chunks 160 (beAt x 0 4) (x.drop 192)).map ruleOf
    defs := sparseOf 0 ((chunks 8 18 (x.drop 8)).map fun c => BitVec.ofNat 64 (beNat c))
    privs := (chunks 8 4 (x.drop 152)).map fun c => (BitVec.ofNat 32 (beAt c 0 4), BitVec.ofNat 32 (beAt c 4 4)) }

/-- The tracts that a mask names, in increasing order. -/
def maskTracts (m : Nat) : List Nat := (List.range 8).filter m.testBit

/-- The control stores of a MICROCODE section (15 R772). -/
def microOf : List Nat → Bytes → Sparse (BitVec 192)
  | [], _ => []
  | t :: ts, x =>
    (sparseOf 0 ((chunks 24 4096 x).map fun c => BitVec.ofNat 192 (beNat c))).map (fun e => (t * 4096 + e.1, e.2))
      ++ microOf ts (x.drop 98304)

/-- Pairs of an offset and a value (15 R773, R776). -/
def pairsOf (k : Nat) (x : Bytes) : List (Nat × Word) := (chunks 8 k x).map fun c => (beAt c 0 4, BitVec.ofNat 32 (beAt c 4 4))

/-- The image that the bytes spell. -/
def imageOf (b : Bytes) : ImageData :=
  let q := sect b 3
  let m := sect b 4
  let t := sect b 5
  let k := sect b 6
  { version := imageVersion b
    hash := wordsBe 4 (b.drop 16)
    str := sect b 0
    parser := parserOf (sect b 1)
    rules := rulesOf (sect b 2)
    spillWm := BitVec.ofNat 32 (beAt q 0 4)
    drawWm := BitVec.ofNat 32 (beAt q 4 4)
    frag := wordsBe 8 (q.drop 8)
    aids := wordsBe 1024 (q.drop 64)
    queues := sparseOf [0, 0, 0] ((chunks 16 32768 (q.drop 4160)).map (wordsBe 3))
    mask := beAt m 0 4
    micro := microOf (maskTracts (beAt m 0 4)) (m.drop 64)
    ddr := slice t 0 64
    corr := wordsBe 128 (t.drop 64)
    heHash := wordsBe 12 (t.drop 576)
    presets := pairsOf (beAt t 624 4) (t.drop 640)
    keeper := pairsOf (beAt k 0 4) (k.drop 8) }

/-! ### STRUCTURE (15 R766) -/

/-- TRACT_EN. -/
def strTracts (x : Bytes) : Nat := beAt x 0 4
/-- REASM_POOL, in 64 KiB units. -/
def strPool (x : Bytes) : Nat := beAt x 4 4
/-- CIS_RESERVE, in granules. -/
def strReserve (x : Bytes) : Nat := beAt x 8 4
/-- The record of client port `p`. -/
def strPort (x : Bytes) (p : Nat) : Word := BitVec.ofNat 32 (beAt x (16 + 4 * p) 4)
/-- Byte `i` of the record of channel `ch`. -/
def strChan (x : Bytes) (ch i : Nat) : Nat := beAt x (80 + 8 * ch + i) 1
/-- The record of channel `ch` has ENABLE. -/
def chanWanted (x : Bytes) (ch : Nat) : Bool := (strChan x ch 0).testBit 7
/-- Entry `e` of SPREAD_UP, or of SPREAD_DN. -/
def strSpread (x : Bytes) (dn : Bool) (e : Nat) : Nat := beAt x ((if dn then 432 else 176) + e) 1
/-- The physical cell of role `r` of tract `t`. -/
def strCell (x : Bytes) (t r : Nat) : Nat := beAt x (688 + 16 * t + r) 1

/-- Lanes of a client port at a speed; AUTO holds four (09 R481, R488). -/
def lanesOf (speed : Nat) : Nat := if speed = 4 then 4 else 2 ^ speed

/-- A port record is well formed: zero when disabled; a speed the port can run at (09 R481, R485). -/
def portRecordOk (p : Nat) (w : Word) : Bool :=
  if bit w 31 then
    let sp := fld w 0 3
    (w &&& 0x7FFFFFF8 == 0) && (decide (sp ≤ 3) || (sp == 4 && p == 0)) && p % lanesOf sp == 0
  else w == 0

/-- The lanes that the enabled ports claim (09 R482). -/
def claimedLanes (x : Bytes) : List Nat :=
  ((List.range 16).filter fun p => bit (strPort x p) 31).flatMap fun p => (List.range (lanesOf (fld (strPort x p) 0 3))).map (p + ·)

/-- A channel record is well formed (15 R766). -/
def chanRecordOk (x : Bytes) (ch : Nat) : Bool :=
  let r := slice x (80 + 8 * ch) 8
  let g := (beAt r 1 1, beAt r 2 1, beAt r 3 1)
  if (beAt r 0 1).testBit 7 then
    beAt r 0 1 % 64 == 0 && decide (beAt r 4 1 ≤ 4) && allZero (slice r 5 3)
      && (g == (0, 0, 0) || ([8, 16, 32].contains g.1 && [1, 2].contains g.2.1 && [8, 16].contains g.2.2))
  else allZero r

/-- The STRUCTURE section is well formed (15 R766). -/
def structureOk (x : Bytes) : Bool :=
  x.length == 816 && decide (strTracts x ≤ 0xFF) && decide (1 ≤ strPool x) && decide (strPool x ≤ 1024) && decide (strReserve x ≤ 65536)
    && allZero (slice x 12 4)
    && ((List.range 16).all fun p => portRecordOk p (strPort x p)) && decide (claimedLanes x).Nodup
    && (List.range 8).all (chanRecordOk x)
    && ((List.range 16).all fun n => beAt x (144 + n) 1 / 16 % 4 == 0)
    && decide ((List.range 16).map fun n => beAt x (144 + n) 1 % 16).Nodup
    && ((List.range 16).all fun n => beAt x (160 + n) 1 % 64 == 0)
    && ((List.range 256).all fun e => decide (strSpread x false e ≤ 7) && decide (strSpread x true e ≤ 7))
    && ((List.range 8).all fun t =>
      if (strTracts x).testBit t then
        ((List.range 16).all fun r => decide (strCell x t r ≤ 17)) && decide ((List.range 16).map (strCell x t)).Nodup
      else allZero (slice x (688 + 16 * t) 16))

/-! ### PARSER (07 R389, 15 R767) -/

/-- A node reference of a graph of `count` nodes. -/
def refOk (count n : Nat) : Bool := decide (n < count) || n == 0x40 || n == 0x41

/-- A scale factor. -/
def scaleOk (n : Nat) : Bool := n == 1 || n == 2 || n == 4 || n == 8

/-- A node is well formed (07 R389). -/
def nodeOk (count : Nat) (n : Bytes) : Bool :=
  decide (nodeAt n 1 ≤ 1) && decide (nodeAt n 2 ≤ 1) && (nodeAt n 2 == 0 || (decide (nodeAt n 5 ≤ 15) && scaleOk (nodeAt n 8)))
    && decide (nodeAt n 10 ≤ 15) && refOk count (nodeAt n 13) && allZero (slice n 14 2)
    && ((List.range 8).all fun i => nodeAt n (18 + 3 * i) == 0xFF || refOk count (nodeAt n (18 + 3 * i)))
    && ((List.range 4).all fun i => decide (nodeAt n (41 + 3 * i) ≤ 16) && decide (nodeAt n (42 + 3 * i) ≤ 63))
    && decide (nodeAt n 52 ≤ 1) && (nodeAt n 52 == 0 || (scaleOk (nodeAt n 54) && decide (nodeAt n 58 ≤ 15))) && allZero (slice n 59 5)

/-- The PARSER section is well formed; a start node may be any node reference that names a node (15 R767). -/
def parserOk (x : Bytes) : Bool :=
  let c := beAt x 0 4
  decide (1 ≤ c) && decide (c ≤ 64) && x.length == 64 + 64 * c && ((slice x 4 18).all fun n => decide (n.toNat < c))
    && allZero (slice x 22 42) && (chunks 64 c (x.drop 64)).all (nodeOk c)

/-! ### RULES (15 R768, R769) -/

/-- The rule records lie in strictly increasing POSITION, from `lo` on, each well formed. -/
def ruleRecordsOk (s : State) : Nat → List Bytes → Bool
  | _, [] => true
  | lo, r :: rs =>
    decide (lo ≤ beAt r 0 2) && decide (beAt r 0 2 < 8192) && allZero (slice r 2 6)
      && actionOk s false (ruleOf r).2.act && ruleRecordsOk s (beAt r 0 2 + 1) rs

/-- The ports that the valid PRIV entries name. -/
def privPorts (l : List (Word × Word)) : List Nat := (l.filter fun e => bit e.1 31).map fun e => fld e.1 16 5

/-- The PRIV entries meet R429. -/
def privsOk (l : List (Word × Word)) : Bool :=
  (l.all fun e => e.1 &&& 0x7FE0FF00 == 0) && ((privPorts l).all fun p => decide (p < 16) || p == 17) && decide (privPorts l).Nodup

/-- The RULES section is well formed. -/
def rulesOk (s : State) (x : Bytes) : Bool :=
  let c := beAt x 0 4
  decide (c ≤ 8192) && x.length == 192 + 160 * c && allZero (slice x 4 4) && allZero (slice x 184 8)
    && ((chunks 8 18 (x.drop 8)).all fun a => actionOk s true (BitVec.ofNat 64 (beNat a)))
    && privsOk (rulesOf x).privs && ruleRecordsOk s 0 (chunks 160 c (x.drop 192))

/-! ### QUEUES (15 R770, R771) -/

/-- A queue record: number and map word. -/
def validQueues (x : Bytes) : List (Nat × Word) :=
  (((chunks 16 32768 (x.drop 4160)).map fun r => BitVec.ofNat 32 (beAt r 0 4)).zipIdx.filter fun e => bit e.1 31).map fun e => (e.2, e.1)

/-- The word of an AID. -/
def aidWord (x : Bytes) (aid : Nat) : Word := BitVec.ofNat 32 (beAt x (64 + 4 * aid) 4)

/-- The QUEUES section is well formed in an image that enables `tractEn`. -/
def queuesOk (tractEn : Nat) (x : Bytes) : Bool :=
  let aids := wordsBe 1024 (x.drop 64)
  let qs := validQueues x
  x.length == 528448 && allZero (slice x 40 24)
    && ((chunks 16 32768 (x.drop 4160)).all fun r => (BitVec.ofNat 32 (beAt r 0 4) &&& 0x007F0000#32) == 0 && allZero (slice r 12 4))
    && (aids.all fun w => (w &&& 0x78FFFFFF == 0) && (!bit w 31 || tractEn.testBit (fld w 24 3)))
    && (qs.all fun e => tractEn.testBit (e.1 / 4096) && bit (aidWord x (fld e.2 0 10)) 31 && fld (aidWord x (fld e.2 0 10)) 24 3 == e.1 / 4096)
    && decide (qs.map fun e => fld e.2 0 16).Nodup

/-! ### MICROCODE, TIMING, KEEPER and SIGNATURE (15 R772-R777) -/

/-- The MICROCODE section is well formed in an image that enables `tractEn`. -/
def microcodeOk (tractEn : Nat) (x : Bytes) : Bool :=
  let m := beAt x 0 4
  decide (m ≤ 0xFF) && x.length == 64 + 98304 * (maskTracts m).length && allZero (slice x 4 60)
    && ((maskTracts tractEn).all m.testBit)
    && ((chunks 24 (4096 * (maskTracts m).length) (x.drop 64)).all fun w => !illegalWord (BitVec.ofNat 192 (beNat w)))

/-- The offset lies where no preset may write (15 R775). -/
def presetForbidden (a : Nat) : Bool :=
  (decide (0x10000 ≤ a) && decide (a < 0x40000)) || a == R.GLOBAL_SOFT_RESET || (decide (0x3000000 ≤ a) && decide (a < 0x3200000))
    || (decide (0x400A00 ≤ a) && decide (a < 0x400C00))

/-- The SC and WO bits of the register at `a`. -/
def actBits (a : Nat) : Word :=
  match decodeReg a with
  | some h => if h.hi then 0 else BitVec.ofNat 32 h.row.act
  | none => 0

/-- A preset is well formed. -/
def presetOk (e : Nat × Word) : Bool :=
  e.1 % 4 == 0 && decide (e.1 < 0x4000000) && !presetForbidden e.1 && (e.2 &&& actBits e.1) == 0

/-- The TIMING section is well formed. -/
def timingOk (x : Bytes) : Bool :=
  let c := beAt x 624 4
  decide (c ≤ 1024) && x.length == 640 + 8 * c && allZero (slice x 52 12) && allZero (slice x 628 12) && (pairsOf c (x.drop 640)).all presetOk

/-- The KEEPER section is well formed. -/
def keeperOk (x : Bytes) : Bool :=
  let c := beAt x 0 4
  decide (c ≤ 256) && x.length == 8 + 8 * c && allZero (slice x 4 4)
    && (pairsOf c (x.drop 8)).all fun e => e.1 % 4 == 0 && decide (e.1 < 0x10000)

/-- The SIGNATURE section is well formed. -/
def signatureOk (x : Bytes) : Bool := x.length == 256 && beAt x 0 1 == 4 && allZero (slice x 97 3) && allZero (slice x 196 60)

/-! ### The FACTORY image (02 R109, log 14, DESIGN CHOICE) -/

/-- The tracts fitted, as TRACT_EN. -/
def tractBits (s : State) : Nat := fld (unitPresent s) 0 8

/-- The tract of spread entry `e`: e mod T (01 R64). -/
def factorySpread (s : State) (e : Nat) : Byte := BitVec.ofNat 8 (e % Nat.max 1 (tractCount s))

/-- STRUCTURE of the FACTORY image. -/
def factoryStr (s : State) : Bytes :=
  beBytes 4 (tractBits s) ++ beBytes 4 256 ++ beBytes 4 16384 ++ beBytes 4 0
    ++ beBytes 4 0x80000004 ++ List.replicate 60 0
    ++ ((List.range 8).flatMap fun ch => if hasChannel s ch then [0xC0#8, 0, 0, 0, 2, 0, 0, 0] else List.replicate 8 0)
    ++ (List.range 16).map (BitVec.ofNat 8) ++ List.replicate 16 0
    ++ (List.range 256).map (factorySpread s) ++ (List.range 256).map (factorySpread s)
    ++ (List.range 8).flatMap fun t => if hasTract s t then (List.range 16).map (BitVec.ofNat 8) else List.replicate 16 0

/-- A FACTORY parser node that reads a tag type at `off` after a header of `len` bytes and goes to node 1 on a VLAN tag. -/
def factoryNode (kind flags len off : Byte) : Bytes :=
  [kind, flags, 0, len, 0, 0, 0, 0, 1, off, 0, 0xFF, 0xFF, 0x40, 0, 0, 0x81, 0x00, 1, 0x88, 0xA8, 1]
    ++ (List.replicate 6 [0#8, 0#8, 0xFF#8]).flatten ++ List.replicate 24 0

/-- The parser graph of the FACTORY image: Ethernet and VLAN tags, the first of which gives the PCP (00 R17). -/
def factoryParser : Parser := { nodes := [(0, factoryNode 1 0 14 12), (1, factoryNode 2 1 4 2)], starts := List.replicate 18 0 }

/-- A rule that matches class port `p`. -/
def portRule (p : Nat) (act : DWord) : Rule :=
  { value := List.replicate 64 0 ++ [BitVec.ofNat 8 p] ++ List.replicate 7 0
    mask := List.replicate 64 0 ++ [0x1F#8] ++ List.replicate 7 0, act := act }

/-- QUEUE 0 by PCP, PARTIAL_OK. -/
abbrev factoryUp : DWord := 0x1C00000000000000
/-- PORT CP0, PARTIAL_OK. -/
abbrev factoryDn : DWord := 0x2800000000000000

/-- The rules of the FACTORY image: CP0 goes to AID 0 by PCP and the line to CP0 (00 R17, R19). -/
def factoryRules : RuleSet :=
  { rules := [(0, portRule 0 factoryUp), (1, portRule 17 factoryDn)], defs := [(0, factoryUp), (17, factoryDn)]
    privs := List.replicate 4 (0, 0x00400064) }

/-- A microword from its fields: SEQ, COND, COND_INV, TARGET, ALU_OP, ALU_DST, ALU_A, B_IMM, IO_OP, IO_SRC, IO_DST, IO_ARG and IMM. -/
def microWord (seq cond inv target alu dst a bImm io src ioDst arg imm : Nat) : BitVec 192 :=
  BitVec.ofNat 192 (seq * 2 ^ 188 + cond * 2 ^ 183 + inv * 2 ^ 182 + target * 2 ^ 170 + alu * 2 ^ 164 + dst * 2 ^ 160 + a * 2 ^ 156
    + bImm * 2 ^ 151 + io * 2 ^ 144 + src * 2 ^ 140 + ioDst * 2 ^ 136 + arg * 2 ^ 128
    + imm * 2 ^ 64)

/-- The FACTORY burst routine: messages, then whole frames in priority order while the window has room, then a part of the next. -/
def factoryRoutine : List (BitVec 192) :=
  [microWord 0 0 0 0 3 12 1 1 0 0 0 0 72, microWord 0 0 0 0 0 0 0 0 4 12 12 0 0, microWord 1 6 1 0x012 0 0 0 0 2 12 12 8 0,
   microWord 1 4 1 0x015 0 0 0 0 0 0 0 0 0, microWord 0 0 0 0 0 0 0 0 3 12 12 0 0, microWord 5 0 0 0 0 0 0 0 5 0 0 0 0]

/-- The control stores of the FACTORY image: the routine from the entry vector on in every tract. -/
def factoryMicro (s : State) : Sparse (BitVec 192) :=
  (tracts s).flatMap fun t => factoryRoutine.zipIdx.map fun w => (t * 4096 + 0x010 + w.2, w.1)

/-- The receive and the transmit correction of a port at each of the four speeds, in ps (11 R631). -/
def factoryCorr : List Word := [142600, 38400, 96300, 27150, 71800, 21600, 58250, 18900]

/-- The registers that the FACTORY image presets (02 R109, 00 R11-R23); TRACT_PACE_CTL.EN is none of them (16 R864; log 14). -/
def factoryPresets : List (Nat × Word) :=
  [(R.GLOBAL_MODE_CTL, 0x00020000), (R.LINE_GASP_CTL, 0x80000000), (R.CLIENT_RX_CTL 0, 0xC0002400),
   (R.CLIENT_FC_CTL 0, 0xC000FFFF),
   (R.TIME_SERVO_CTL 0, 0x80000C09), (R.TIME_PPS_CTL, 0xC0000064),
   (R.TIME_TOD_CTL, 0x80000000), (R.TIME_TC_CTL, 0xC0000001)]

/-- The Keeper entries of the FACTORY image: SC0 with its dying gasp (16 R839). -/
def factoryKeeper : List (Nat × Word) := [(0x100, 0xA2DCB496), (0x104, 1)]

/-- The FACTORY image of this part (log 14, DESIGN CHOICE); its version and its hash are free (log 15, DESIGN CHOICE). -/
def factoryImage (s : State) : ImageData :=
  { version := BitVec.ofNat 32 (leNat ((List.range 4).map (Config.freeByte s.free)))
    hash := (List.range 4).map fun k => BitVec.ofNat 32 (leNat ((List.range 4).map fun i => Config.freeByte s.free (4 + 4 * k + i)))
    str := factoryStr s
    parser := factoryParser
    rules := factoryRules
    spillWm := 2560
    drawWm := 16
    frag := List.replicate 8 0x004000FF
    aids := 0x80000000 :: List.replicate 1023 0
    queues := (List.range 8).map fun p => (p, [BitVec.ofNat 32 (2 ^ 31 + p * 1024), 0, 0x00800000])
    mask := tractBits s
    micro := factoryMicro s
    ddr := (List.range 64).map fun i => Config.freeByte s.free (20 + i)
    corr := (List.replicate 16 factoryCorr).flatten
    heHash := List.replicate 12 0
    presets := factoryPresets
    keeper := factoryKeeper }

end Sys2Proof.Machine
end

