-- ==== Sys2Proof/Machine/Image.lean ====
section
/-!
DEFINITION. The image loader (15 R758-R811): commands and refusals, the flash directory, staging, the checks, the start of each scope,
training, the reload commit, rule commits with and without an image, storing, rollback and the floor. Rows VERIFY, COMMIT_DEVICE,
COMMIT_TRACT, COMMIT_RULES, ROLLBACK, FLOOR, BAD_CMD, IMAGE_STAGED, IMAGE_CHECKED, CHANNEL_TRAINING, RELOAD_COMMIT, FLASH_DONE,
FLOOR_DONE, CANCEL, COMMIT_INSTANT.
-/
namespace Sys2Proof.Machine

/-! ### Refusals and ends (15 R780) -/

/-- The loader's state set. -/
def setLoader (st : LoaderState) (s : State) : State := { s with loader := { s.loader with st := st } }

/-- A command is refused for reason `r` with DETAIL `d`, at byte `at_` of the image; what the loader is doing goes on. -/
def imageRefuse (r d at_ : Nat) (s : State) : State :=
  fault (event { s with loader := { s.loader with reason := r, detail := d } } R.IMAGE_EVENT 1) .image r d (BitVec.ofNat 64 at_)

/-- The command in hand is refused; a boot load records its reason, and MODE stays LOADING (15 R804). -/
def commandFails (r d at_ : Nat) (s : State) : State :=
  let s1 := setLoader .idle s
  if s.loader.boot then fault { s1 with loader := { s1.loader with boot := false, stuck := true } } .image r d (BitVec.ofNat 64 at_)
  else imageRefuse r d at_ s1

/-- The command in hand is done. -/
def commandDone (st : LoaderState) (s : State) : State := event (setLoader st s) R.IMAGE_EVENT 0

/-! ### The command in hand (15 R779, R809) -/

/-- OP. -/
def imageOp (s : State) : Nat := rfld s R.IMAGE_CMD 24 4
/-- SCOPE; a boot load is at device scope. -/
def imageScope (s : State) : Nat := if s.loader.boot then 0 else rfld s R.IMAGE_CMD 20 2
/-- TRACT. -/
def imageTract (s : State) : Nat := rfld s R.IMAGE_CMD 16 3

/-- The loader is in state `st` with a COMMIT, a ROLLBACK or a boot load of scope `scope`. -/
def loaderAt (s : State) (st : LoaderState) (scope : Nat) : Bool :=
  s.loader.st == st && imageScope s == scope && (s.loader.boot || imageOp s == 2 || imageOp s == 3)

/-! ### The flash directory (15 R760-R762) -/

/-- The octets of a directory record. -/
def dirBytes (seq area prevValid cur prev : Nat) : Bytes :=
  let b := beBytes 4 0x444C4244 ++ beBytes 4 seq ++ [BitVec.ofNat 8 area, BitVec.ofNat 8 prevValid, 0, 0] ++ beBytes 4 cur ++ beBytes 4 prev
    ++ List.replicate 8 0
  b ++ beBytes 4 (crc32c b).toNat

/-- The record of directory copy `k`, if its MAGIC and DIR_CHECK are valid. -/
def dirCopy (s : State) (k : Nat) : Option Bytes :=
  let b := look [] s.flash.dirs k
  if beAt b 0 4 = 0x444C4244 ∧ beAt b 28 4 = (crc32c (slice b 0 28)).toNat then some b else none

/-- SEQ `a` is the greater (11 R608). -/
def seqNewer (a b : Nat) : Bool := decide ((a + 2 ^ 32 - b) % 2 ^ 32 < 2 ^ 31)

/-- The directory in force: its copy and its record. -/
def directory (s : State) : Option (Nat × Bytes) :=
  if !s.flash.ok then none
  else
    match dirCopy s 0, dirCopy s 1 with
    | some a, some b => if seqNewer (beAt a 4 4) (beAt b 4 4) then some (0, a) else some (1, b)
    | some a, none => some (0, a)
    | none, some b => some (1, b)
    | none, none => none

/-- CUR_VERSION. -/
def dirCur (s : State) : Nat := ((directory s).map fun d => beAt d.2 12 4).getD 0
/-- PREV_VALID. -/
def dirPrevValid (s : State) : Bool := ((directory s).map fun d => beAt d.2 9 1 == 1).getD false
/-- PREV_VERSION. -/
def dirPrev (s : State) : Nat := ((directory s).map fun d => beAt d.2 16 4).getD 0
/-- CUR_AREA. -/
def dirArea (s : State) : Nat := ((directory s).map fun d => beAt d.2 8 1 % 2).getD 1

/-- Directory copy `k` written: its record, and 0xFF to the end of its sector (15 R760). -/
def putDir (k : Nat) (b : Bytes) (f : Flash) : Flash := { f with dirs := put [] f.dirs k (b ++ List.replicate (4096 - b.length) 0xFF) }

/-- Area `k` written. -/
def putArea (k : Nat) (b : Bytes) (f : Flash) : Flash := { f with areas := put [] f.areas k b }

/-- IMAGE_SLOT_VALID. -/
def slotValid (s : State) : Word := pack [(0, b2n (directory s).isSome), (1, b2n (dirPrevValid s))]

/-- The code of STATE (15 R809, R794). -/
def loaderCode (s : State) : Nat :=
  match s.loader.st with
  | .idle => 0
  | .reading => 1
  | .checking => 2
  | .waiting => if s.cls.commit = .waiting then 3 else 4
  | .applying => 4
  | .writing => 5

/-- IMAGE_STATUS. -/
def imageStatus (s : State) : Word :=
  pack [(29, loaderCode s), (28, b2n s.flash.ok), (26, s.loader.source), (25, b2n s.loader.partial_), (24, b2n s.loader.stale),
    (16, s.loader.reason), (0, s.loader.detail)]

/-! ### Commands (15 R779, R806, R807) -/

/-- ROLLBACK is possible (15 R806). -/
def canRollback (s : State) : Bool := s.flash.ok && dirPrevValid s && s.loader.source == 1

/-- FLOOR is refused (15 R807). -/
def floorBad (s : State) : Bool :=
  let v := rd s R.IMAGE_FLOOR_SET
  decide (v ≤ s.fuses.floor) || decide (s.loader.version < v) || s.fuses.floorLeft == 0

/-- A write of IMAGE_CMD with GO while the loader is IDLE. -/
def imageGo (s : State) : State :=
  let op := imageOp s
  if op = 0 ∨ 4 < op ∨ rfld s R.IMAGE_CMD 20 2 = 3 then imageRefuse 1 0 0 s
  else if op = 3 ∧ !canRollback s then imageRefuse 18 0 0 s
  else if op = 4 then (if floorBad s then imageRefuse 19 0 0 s else setLoader .applying s)
  else setLoader .reading s

/-- A write of `v` to IMAGE_CMD. -/
def imageCmdEff (v : Word) (s : State) : State :=
  if s.loader.st = .idle then
    let s1 := wrField s R.IMAGE_CMD v 0x0F370000 0
    if bit v 31 then imageGo s1 else s1
  else if bit v 31 then imageRefuse 2 0 0 s else s

/-- IMAGE_CMD with GO. -/
def imageWord (op scope tract : Nat) : Word := pack [(31, 1), (24, op), (20, scope), (16, tract)]

/-- VERIFY. -/
def execVerify (scope : BitVec 2) (tract : BitVec 3) (s : State) : Out := viaBar s (imageCmdEff (imageWord 1 scope.toNat tract.toNat))
/-- COMMIT_DEVICE. -/
def execCommitDevice (s : State) : Out := viaBar s (imageCmdEff (imageWord 2 0 0))
/-- COMMIT_TRACT. -/
def execCommitTract (tract : BitVec 3) (s : State) : Out := viaBar s (imageCmdEff (imageWord 2 1 tract.toNat))
/-- COMMIT_RULES. -/
def execCommitRules (s : State) : Out := viaBar s (imageCmdEff (imageWord 2 2 0))
/-- ROLLBACK. -/
def execRollback (scope : BitVec 2) (tract : BitVec 3) (s : State) : Out := viaBar s (imageCmdEff (imageWord 3 scope.toNat tract.toNat))
/-- FLOOR. -/
def execFloor (s : State) : Out := viaBar s (imageCmdEff (imageWord 4 0 0))
/-- BAD_CMD. -/
def execBadCmd (v : Word) (s : State) : Out := viaBar s (imageCmdEff (v ||| 0x80000000))

/-! ### IMAGE_STAGED (15 R781 row 1, R804, R806) -/

/-- The image in hand comes from flash: a boot load, or a ROLLBACK. -/
def fromFlash (s : State) : Bool := s.loader.boot || imageOp s == 3

/-- The area that the image in hand is read from: CURRENT at boot, else PREVIOUS. -/
def sourceArea (s : State) : Nat := if s.loader.boot then dirArea s else 1 - dirArea s

/-- TOTAL_LEN is one that an image can have. -/
def totalLenOk (b : Bytes) : Bool := totalLen b % 64 == 0 && decide (1024 ≤ totalLen b) && decide (totalLen b ≤ 4194304)

/-- The octets cover the image that their header announces. -/
def longEnough (b : Bytes) : Bool := decide (192 ≤ b.length) && (!totalLenOk b || decide (totalLen b ≤ b.length))

/-- Reading is complete: the octets are in the staging store, or a read has failed. -/
def stagedEff (r : Reply) (s : State) : State :=
  if s.loader.st ≠ .reading then s
  else
    match r with
    | .ok b =>
      let img := if fromFlash s then look [] s.flash.areas (sourceArea s) else b
      if !fromFlash s && !hostUp s then commandFails 4 0 0 s
      else if !fromFlash s && !longEnough img then commandFails 4 0 img.length s
      else setLoader .checking { s with loader := { s.loader with staged := img } }
    | _ => commandFails 4 0 0 s

/-- A read of the image hangs: the loader reads for ever (10 R540). -/
def readingHangs (s : State) : State := { s with loader := { s.loader with hung := true } }

/-- The reads of an image from host memory are issued and answered. -/
def stagedReply (r : Reply) (s : State) : State :=
  if s.loader.st = .reading ∧ !fromFlash s ∧ hostUp s then
    if s.loader.hung then s
    else answered r (fun s => hostRd s (rd64 s R.IMAGE_SRC) (match r with | .ok b => b.length | _ => 192)) (stagedEff r) readingHangs s
  else stagedEff r { s with loader := { s.loader with hung := false } }

/-- IMAGE_STAGED. -/
def execImageStaged (r : Reply) (s : State) : Out := viaCore s (onReply r (stagedReply r))

/-! ### The checks (15 R781 rows 2-9) -/

/-- Row 2: the fields of the header, each with the byte at which it stands, and whether it is as it must be. -/
def headerFields (b : Bytes) : List (Nat × Bool) :=
  [ (0, beAt b 0 4 == 0x444C4249), (4, beAt b 4 2 == 1), (6, allZero (slice b 6 2)), (12, totalLenOk b), (36, allZero (slice b 36 24)),
    (60, beAt b 60 4 == (crc32c ([0x49#8, 0x48#8, 0, 0] ++ slice b 8 4 ++ slice b 0 60 ++ slice b 64 128)).toNat) ]

/-- The byte of the first header field that is bad. -/
def headerBad (b : Bytes) : Option Nat := ((headerFields b).find? fun f => !f.2).map (·.1)

/-- Where the section of TYPE `k` + 1 must begin (15 R765). -/
def sectStart (b : Bytes) : Nat → Nat
  | 0 => 192
  | k + 1 => roundUp (sectOff b k + sectLen b k) 64

/-- The end of the bytes before the section of TYPE `k` + 1. -/
def sectBefore (b : Bytes) : Nat → Nat
  | 0 => 192
  | k + 1 => sectOff b k + sectLen b k

/-- The section of TYPE `k` + 1 stands where R765 puts it, and the bytes before it are 0. -/
def sectPlaced (b : Bytes) (k : Nat) : Bool :=
  beAt b (64 + 16 * k) 2 == k + 1 && allZero (slice b (66 + 16 * k) 2) && sectOff b k == sectStart b k
    && (if k = 7 then sectOff b k + sectLen b k == totalLen b else decide (sectOff b k + sectLen b k ≤ totalLen b))
    && allZero (slice b (sectBefore b k) (sectOff b k - sectBefore b k))

/-- The CHECK of the section of TYPE `k` + 1 (15 R764). -/
def sectChecked (b : Bytes) (k : Nat) : Bool :=
  beAt b (76 + 16 * k) 4 == (crc32c ([0x49#8, 0x53#8] ++ beBytes 2 (k + 1) ++ beBytes 4 (sectOff b k) ++ sect b k)).toNat

/-- The first TYPE that fails a test of `k` = TYPE - 1. -/
def firstType (p : Nat → Bool) : Option Nat := ((List.range 8).find? fun k => !p k).map (· + 1)

/-- Row 4: the section of TYPE `k` + 1 is well formed. -/
def sectFormed (s : State) (b : Bytes) (k : Nat) : Bool :=
  let x := sect b k
  let en := strTracts (sect b 0)
  match k with
  | 0 => structureOk x
  | 1 => parserOk x
  | 2 => rulesOk s x
  | 3 => queuesOk en x
  | 4 => microcodeOk en x
  | 5 => timingOk x
  | 6 => keeperOk x
  | _ => signatureOk x

/-- What the structure hash covers (15 R774). -/
def hashInput (b : Bytes) : Bytes :=
  slice (sect b 0) 0 688 ++ slice (sect b 3) 0 8 ++ slice (sect b 3) 64 4096 ++ sect b 1 ++ sect b 5 ++ sect b 6

/-- Row 5. -/
def hashOk (b : Bytes) : Bool := slice b 16 16 == (sha384 (hashInput b)).take 16

/-- The fused key hash as octets (15 R778). -/
def keyHashBytes (s : State) : Bytes := (List.range 12).flatMap fun i => beBytes 4 (s.fuses.keyHash.getD i 0).toNat

/-- X and Y of the public key of the image (15 R777). -/
def imageKey (b : Bytes) : Bytes := slice (sect b 7) 1 96

/-- Row 6. -/
def keyOk (s : State) (b : Bytes) : Bool := keyHashBytes s == sha384 (imageKey b)

/-- Row 7. -/
def imageSigned (b : Bytes) : Bool := ecdsaOk (slice (sect b 7) 0 97) (b.take (sectOff b 7)) (slice (sect b 7) 100 96)

/-- The unit that a register belongs to, as its bit of GLOBAL_UNIT_PRESENT (00 R4-R7). -/
def unitOf (a : Nat) : Option Nat :=
  if 0x2000000 ≤ a ∧ a < 0x3000000 then some ((a - 0x2000000) / 0x200000)
  else if 0x1100000 ≤ a ∧ a < 0x1180000 then some ((a - 0x1100000) / 0x10000)
  else if 0x1200000 ≤ a ∧ a < 0x1220000 then some ((a - 0x1200000) / 0x4000)
  else if 0x400200 ≤ a ∧ a < 0x400300 then some 16
  else if 0x580000 ≤ a ∧ a < 0x590000 then some 17
  else if 0xA00100 ≤ a ∧ a < 0xA00200 then some (8 + (a - 0xA00100) / 0x20)
  else if 0xC10000 ≤ a ∧ a < 0xC18000 then some ((a - 0xC10000) / 0x1000)
  else none

/-- The units that an image enables, maps, configures or presets, and those that UNITS names (15 R781 row 9). -/
def unitsNamed (b : Bytes) (d : ImageData) : List Nat :=
  (List.range 32).filter (beAt b 32 4).testBit
    ++ maskTracts (strTracts d.str)
    ++ (List.range 256).flatMap (fun e => [strSpread d.str false e, strSpread d.str true e])
    ++ d.aids.map (fun w => fld w 24 3)
    ++ (d.queues.filter fun e => bit (e.2.getD 0 0) 31).map (fun e => e.1 / 4096)
    ++ maskTracts d.mask
    ++ ((List.range 8).filter (chanWanted d.str)).map (8 + ·)
    ++ (if d.heHash.any (· != 0) then [17] else [])
    ++ d.presets.filterMap fun e => unitOf e.1

/-- Row 9: the lowest absent unit that the image names. -/
def absentUnit (s : State) (b : Bytes) : Option Nat :=
  let l := unitsNamed b (imageOf b)
  (List.range 32).find? fun n => l.contains n && !bit (unitPresent s) n

/-- Rows 2 to 9 on the staged copy: the first that fails, as reason, DETAIL and the byte of the image at which it fails, 0 where it is no one
place of it (15 R780; log 97, DESIGN CHOICE). -/
def imageRows (s : State) (b : Bytes) : Option (Nat × Nat × Nat) :=
  match headerBad b with
  | some i => some (5, 0, i)
  | none =>
    match firstType (sectPlaced b), firstType (sectChecked b), firstType (sectFormed s b) with
    | some k, _, _ => some (6, k, 48 + 16 * k)
    | none, some k, _ => some (6, k, sectOff b (k - 1))
    | none, none, some k => some (7, k, sectOff b (k - 1))
    | none, none, none =>
      if !hashOk b then some (8, 0, 16)
      else if !keyOk s b then some (9, 0, sectOff b 7)
      else if !imageSigned b then some (10, 0, sectOff b 7 + 100)
      else if imageVersion b < s.fuses.floor then some (11, 0, 8)
      else (absentUnit s b).map fun n => (12, n, 0)

/-! ### The checks of the scope (15 R781 row 10) -/

/-- The image's structure hash equals the one in force. -/
def sameHash (s : State) (d : ImageData) : Bool := d.hash == (List.range 4).map fun k => rd s (R.IMAGE_HASH k)

/-- The first fenced cell that the map of the tracts `ts` names, as 32 * tract + cell (15 R801). -/
def fencedCell (s : State) (d : ImageData) (ts : List Nat) : Option Nat :=
  (ts.flatMap fun t => (List.range 16).map fun r => (t, strCell d.str t r)).findSome? fun e =>
    if rbit s (R.TRACT_CELL_FENCE e.1) e.2 then some (32 * e.1 + e.2) else none

/-- The AIDs that name tract `t`, in an image or in force, with their DEFINED bits. -/
def tractAids (aid : Nat → Word) (t : Nat) : List (Nat × Bool) :=
  ((List.range 1024).filter fun n => fld (aid n) 24 3 == t).map fun n => (n, bit (aid n) 31)

/-- The tract's topology does not change between the image and what is in force (15 R791). -/
def scopeAgrees (s : State) (d : ImageData) (t : Nat) : Bool :=
  (strTracts d.str).testBit t && s.loader.tractEn.testBit t && d.mask.testBit t
    && tractAids (fun n => d.aids.getD n 0) t == tractAids (fun n => rd s (R.QUEUE_AID n)) t

/-- An action names a queue (15 R791). -/
def namesQueue (a : DWord) (q : Nat) : Bool :=
  actKind a == 1 && decide (fld a 0 15 ≤ q) && decide (q ≤ fld a 0 15 + (if bit a 58 then 7 else 0))

/-- The actions of the CURRENT slot and of the staged PUTs. -/
def liveActions (s : State) : List DWord :=
  let x := ruleSlot s s.cls.current
  (x.pos.map fun e => (look {} s.cls.store e.2).act) ++ x.defs.map (·.2)
    ++ s.cls.staged.filterMap fun e => match e.2 with | .put r => some r.act | _ => none

/-- The map word of queue `q` in the image. -/
def imageMap (d : ImageData) (q : Nat) : Word := (look [0, 0, 0] d.queues q).getD 0 0

/-- A queue of tract `t` that becomes invalid is named by an action. -/
def queueNamed (s : State) (d : ImageData) (t : Nat) : Bool :=
  let gone := (mappedQueues s).filter fun q => qTract q == t && qValid s q && !bit (imageMap d q) 31
  (liveActions s).any fun a => gone.any (namesQueue a)

/-- MODE allows no tract-scope or rules-only commit: it stays LOADING, or RESETTING. -/
def noMode (s : State) : Bool := s.mode.mode == .loading || s.mode.mode == .resetting

/-- Row 10 for the command in hand: the first check that fails, as reason and DETAIL. -/
def scopeRow (s : State) (d : ImageData) : Option (Nat × Nat) :=
  let t := imageTract s
  match imageScope s with
  | 0 =>
    if s.mode.mode = .fallow ∨ s.mode.mode = .test ∨ s.mode.mode = .resetting then some (3, 0)
    else if s.mode.request.isSome then some (2, 0)
    else (fencedCell s d (maskTracts (strTracts d.str))).map fun n => (23, n)
  | 1 =>
    if noMode s || (t == 0 && s.mode.mode == .fallow) then some (3, 0)
    else if !sameHash s d then some (13, 0)
    else if !scopeAgrees s d t then some (14, 0)
    else if queueNamed s d t then some (15, 0)
    else (fencedCell s d [t]).map fun n => (23, n)
  | _ =>
    if noMode s then some (3, 0)
    else if !sameHash s d then some (13, 0)
    else if s.cls.staged ≠ [] then some (16, 0)
    else none

/-! ### Device scope begins (15 R786-R788) -/

/-- The image being applied: the FACTORY image, or the staged one. -/
def imageInHand (s : State) : ImageData :=
  if s.loader.boot && s.power.straps % 4 == 0 then factoryImage s else imageOf s.loader.staged

/-- A frame with a token is discarded and counted. -/
def flushTok (s : State) (f : QFrame) : State := flushFrame f (tsOutcome f.tok 3 s)

/-- Every frame at a front, in a cell or on its way to a queue or a port is discarded and counted (15 R786). -/
def flushFlights (s : State) : State :=
  let s1 := s.flights.foldl (fun s f => bump (dropFlight f s) R.IMAGE_CNT_FLUSH) s
  let s2 := s1.toQueue.foldl (fun s e => flushTok s e.2) { s1 with toQueue := [] }
  s2.toPort.foldl (fun s e => flushTok s e.2) { s2 with toPort := [] }

/-- Every queued frame is discarded and counted, and every page is free of it. -/
def flushAllQueues (s : State) : State :=
  let s1 := s.queues.foldl (fun s e => e.2.frames.foldl (fun s f => flushFrame f s) s) s
  { s1 with queues := [], res := { s1.res with pages := [], lost := [] } }

/-- Every frame of a transmit queue is discarded and counted. -/
def flushTx (s : State) (p : Nat) : State :=
  let x := port s p
  x.txq.foldl flushTok (setPort s p { x with txq := [] })

/-- Every reassembly context is discarded and counted. -/
def flushContexts (s : State) : State :=
  bumpBy { s with reasm := { s.reasm with ctxs := [] } } R.IMAGE_CNT_FLUSH s.reasm.ctxs.length

/-- A drover takes an abort; the entries it holds leave with the allotment table. -/
def abortNow (s : State) (t : Nat) : State :=
  let d := drover s t
  let s1 := setDrover s t { d with waiting := [], faulted := [], reload := false, abort := some .hold }
  if d.st = .running then takeAbort t s1 else setDrover s1 t { drover s1 t with abort := none }

/-- The discards of R786, and of R918 for the rules. -/
def stopTraffic (s : State) : State :=
  let s1 := withdrawBursts (fun _ => true) ((tracts s).foldl abortNow s)
  let s2 := purge s1 (fun _ => true) R.LINE_CNT_ALLOT_HELD
  let s3 := flushContexts ((List.range 16).foldl flushTx (flushAllQueues (flushFlights s2)))
  let s4 : State := { s3 with msgs := [] }
  let some_ := s4.cls.staged ≠ [] ∨ s4.cls.commit ≠ .idle
  let s5 := withdraw s4
  let s6 : State := { s5 with cls := { s5.cls with staged := [] } }
  if some_ then event s6 R.CLASS_EVENT 4 else s6

/-- Port `p` takes its record: a change of the record takes the link down and starts the port anew (09 R482, R488). -/
def loadPort (x : Bytes) (s : State) (p : Nat) : State :=
  let v := strPort x p &&& 0x80000007
  if rd s (R.CLIENT_PORT_CFG p) = v then s
  else
    let s1 := if (port s p).link then event (cutOff p s) (R.CLIENT_EVENT p) 1 else s
    let auto := bit v 31 && fld v 0 3 == 4
    setPort (wr s1 (R.CLIENT_PORT_CFG p) v) p
      { idleAt := (port s1 p).idleAt, detecting := auto, speed := if auto then 2 else fld v 0 3, tryAt := s.now, downAt := s.now
        sends := (port s1 p).sends }

/-- The client lanes of a port: an AUTO CP0 has four (09 R481, R488). -/
def laneCount (s : State) (p : Nat) : Nat := if p = 0 ∧ autoPort s then 4 else 2 ^ rfld s (R.CLIENT_PORT_CFG p) 0 3

/-- What the client lanes belong to is shown (09 R484). -/
def showLanes (s : State) : State :=
  emit s (.clientLanes ((List.range 16).map fun l =>
    ((List.range 16).find? fun p => portOn s p && decide (p ≤ l) && decide (l < p + laneCount s p)).map fun p =>
      (p, (s.loader.clientLanes.getD l 0).getLsbD 6)))

/-- One register of a spread table. -/
def spreadWord (x : Bytes) (dn : Bool) (k : Nat) : Word := pack ((List.range 8).map fun i => (4 * i, strSpread x dn (8 * k + i)))

/-- Both spread tables (01 R63). -/
def loadSpread (x : Bytes) (s : State) : State :=
  (List.range 32).foldl (fun s k => wr (wr s (R.GLOBAL_SPREAD_UP k) (spreadWord x false k)) (R.GLOBAL_SPREAD_DN k) (spreadWord x true k)) s

/-- The cell map of tract `t` is written as a whole; cells that leave it are fenced (01 R66, 02 R125). -/
def loadCellMap (x : Bytes) (s : State) (t : Nat) : State :=
  let new := (List.range 4).foldl (fun s n => wr s (R.TRACT_CELL_MAP t n) (pack ((List.range 4).map fun i => (8 * i, strCell x t (4 * n + i))))) s
  ((List.range 18).filter fun c => inMap s t c && !inMap new t c).foldl (fenceCell t) new

/-- Channel `ch` takes its record and awaits training (08 R460, R919). -/
def loadChannel (x : Bytes) (s : State) (ch : Nat) : State :=
  let on := chanWanted x ch
  let v := if on then pack [(31, 1), (30, b2n ((strChan x ch 0).testBit 6)), (16, strChan x ch 4)] else 0
  setChan (wr s (R.BUFFER_RES_CH_CFG ch) v) ch
    { want := if on && strChan x ch 1 != 0 then some ⟨strChan x ch 1, strChan x ch 2, strChan x ch 3⟩ else none }

/-- The cistern is divided into its areas (08 R441): what frames for rings still hold is the general area's. -/
def divideCistern (pool reserve : Nat) (s : State) : State :=
  let room := granules - s.cistern.refs.length
  let r := Nat.min reserve room
  let k := Nat.min (256 * pool) (room - r)
  { wr (wr s R.LINE_REASM_POOL (BitVec.ofNat 32 (pool * 65536))) R.BUFFER_CIS_RESERVE (BitVec.ofNat 32 reserve) with
    cistern := { s.cistern with reserve := r, pool := k, short := 256 * pool - k, gen := room - r - k, credits := 0 } }

/-- STRUCTURE is applied (15 R766, log 26, DEDUCED). -/
def loadStructure (x : Bytes) (s : State) : State :=
  let s1 := loadSpread x ((List.range 16).foldl (loadPort x) s)
  let s2 := divideCistern (strPool x) (strReserve x) ((maskTracts (strTracts x)).foldl (loadCellMap x) s1)
  let s3 := wr ((List.range 8).foldl (loadChannel x) s2) R.BUFFER_RES_PAGES_LOST 0
  showSignals (showLanes (sendIdle { s3 with
    mode := { s3.mode with lineOn := true }
    loader := { s3.loader with tractEn := strTracts x, lineLanes := slice x 144 16, clientLanes := slice x 160 16 } }))

/-! ### The sections after STRUCTURE (15 R767-R773, R788) -/

/-- The RW and topology fields of a queue's map word. -/
def mapMask : Word := 0xFF80FFFF

/-- The priorities of an AID with a valid queue. -/
def prioMask (s : State) (aid : Nat) : Nat :=
  let ps := (aidQueues s aid).map (qPrio s)
  ((List.range 8).filter ps.contains).foldl (fun n p => n + 2 ^ p) 0

/-- PRIO_MASK of an AID is derived from the queues (05 R273). -/
def derivePrio (s : State) (aid : Nat) : State :=
  let w := rd s (R.QUEUE_AID aid)
  wr s (R.QUEUE_AID aid) ((w &&& 0x87000000) ||| (if bit w 31 then pack [(16, prioMask s aid)] else 0))

/-- The PRIV entries of a RULES section take effect, and their buckets are full (15 R796). -/
def loadPriv (r : RuleSet) (s : State) : State :=
  (r.privs.zipIdx).foldl (fun s e =>
    let s1 := wr (wr s (R.CLASS_PRIV e.2) (e.1.1 &&& 0x801F00FF)) (R.CLASS_PRIV_RATE e.2) e.1.2
    setBucket s1 e.2 (bucketCap s1 e.2)) s

/-- The image's rules are in slot 0 as version 1 and CURRENT; every other slot is FREE (07 R408). -/
def loadRules (r : RuleSet) (s : State) : State :=
  let x := r.rules.foldl applyRule (({ st := .current, ver := 1, defs := r.defs } : RuleSlot), ({} : Classifier))
  loadPriv r { s with cls := { x.2 with slots := [(0, x.1)] } }

/-- The PARSER section takes effect. -/
def loadParser (p : Parser) (s : State) : State := { s with parser := p }

/-- The register lies among QUEUE_Q_MAP, QUEUE_Q_WM and QUEUE_Q_LIMIT, or is a QUEUE_AID. -/
def inTopology (a : Nat) : Bool := (decide (0x1100000 ≤ a) && decide (a < 0x1180000)) || (decide (0x1001000 ≤ a) && decide (a < 0x1002000))

/-- Queue `e.1` takes its record. -/
def loadQueue (s : State) (e : Nat × List Word) : State :=
  wr (wr (wr s (R.QUEUE_Q_MAP e.1) (e.2.getD 0 0 &&& mapMask)) (R.QUEUE_Q_WM e.1) (e.2.getD 1 0)) (R.QUEUE_Q_LIMIT e.1) (e.2.getD 2 0)

/-- An AID takes its word; one that is defined shows the priorities of its queues. -/
def loadAid (s : State) (e : Word × Nat) : State :=
  if e.1 &&& 0x87000000 = 0 then s else derivePrio (wr s (R.QUEUE_AID e.2) (e.1 &&& 0x87000000)) e.2

/-- The QUEUES section takes effect (15 R770). -/
def loadQueues (d : ImageData) (s : State) : State :=
  let s1 := { s with regs := s.regs.filter fun e => !inTopology e.1 }
  let s2 := d.aids.zipIdx.foldl loadAid (d.queues.foldl loadQueue s1)
  let s3 := wr (wr s2 R.BUFFER_CIS_SPILL_WM (d.spillWm &&& 0xFFF)) R.BUFFER_CIS_DRAW_WM (d.drawWm &&& 0xFFFF)
  (tracts s).foldl (fun s t => wr s (R.TRACT_DROVER_FRAG t) (d.frag.getD t 0 &&& 0x3FFF00FF)) s3

/-- The MICROCODE section takes effect, and every drover is IDLE (06 R321, R347). -/
def loadMicro (d : ImageData) (s : State) : State :=
  (tracts s).foldl (fun s t => setDrover s t { drover s t with st := .idle, fault := 0, stack := [], reload := false, entry := none, faulted := [] })
    { s with store := d.micro }

/-- The corrections of port `p`. -/
def loadCorr (d : ImageData) (s : State) (p : Nat) : State :=
  (List.range 4).foldl (fun s k =>
    keepPast s (R.TIME_CORR_RX p k)
      (wr (wr s (R.TIME_CORR_RX p k) (d.corr.getD (8 * p + 2 * k) 0)) (R.TIME_CORR_TX p k) (d.corr.getD (8 * p + 2 * k + 1) 0))) s

/-- The TIMING section takes effect, presets apart (15 R773). -/
def loadTiming (d : ImageData) (s : State) : State :=
  let s1 := (List.range 16).foldl (loadCorr d) s
  let s2 := if hasCipher s then (List.range 12).foldl (fun s k => wr s (R.CIPHER_HE_KEYHASH k) (d.heHash.getD k 0)) s1 else s1
  { s2 with loader := { s2.loader with ddr := d.ddr } }

/-- PARSER, RULES, QUEUES, MICROCODE and TIMING are applied, in that order (15 R788). -/
def loadSections (d : ImageData) (s : State) : State :=
  loadTiming d (loadMicro d (loadQueues d (loadRules d.rules (loadParser d.parser s))))

/-- MODE becomes LOADING, and keeps the mode to return to (15 R786, R788). -/
def enterLoading (s : State) : State :=
  if s.mode.mode = .loading then s
  else { s with mode := { s.mode with mode := .loading, back := s.mode.mode, backSub := s.mode.sub, boot := false, dereg := false, wake := false } }

/-- Device-scope APPLYING begins: every section but the presets and KEEPER is applied (15 R788). -/
def deviceStart (s : State) : State :=
  let d := imageInHand s
  setLoader .applying (loadSections d (loadStructure d.str (enterLoading (stopTraffic (endScans 2 8 s)))))

/-! ### Tract scope and rules-only scope begin (15 R792, R794) -/

/-- The reload of tract `t` begins (06 R375). -/
def beginReload (t : Nat) (s : State) : State :=
  if (drover s t).st = .running then sendAbort .reload t (setDrover s t { drover s t with reload := true })
  else enterReloading t s

/-- The rules of the image wait to be committed (07 R424). -/
def beginRules (d : ImageData) (s : State) : State :=
  startWaiting { s with cls := { s.cls with image := some d.rules } }

/-- The checks have passed: what the command in hand applies begins. -/
def beginScope (d : ImageData) (s : State) : State :=
  match imageScope s with
  | 0 => deviceStart s
  | 1 => setLoader .applying (loadCellMap d.str (beginReload (imageTract s) s) (imageTract s))
  | _ => setLoader .waiting (beginRules d s)

/-- The checks end (15 R781, R782). -/
def checkedEff (s : State) : State :=
  if s.loader.st ≠ .checking then s
  else
    let b := s.loader.staged
    match imageRows s b with
    | some (r, d, i) => commandFails r d i s
    | none =>
      if s.loader.boot then deviceStart s
      else if imageOp s = 1 then commandDone .idle s
      else
        match scopeRow s (imageOf b) with
        | some (r, d) => commandFails r d 0 s
        | none => beginScope (imageOf b) s

/-- IMAGE_CHECKED. -/
def execImageChecked (s : State) : Out := viaCore s checkedEff

/-! ### CHANNEL_TRAINING (02 R106, R107, 08 R461, R919) -/

/-- The twelve geometries in the order in which detection tries them (08 R461). -/
def geometries : List Geometry :=
  [32, 16, 8].flatMap fun g => [2, 1].flatMap fun r => [16, 8].map fun w => ⟨g, r, w⟩

/-- Geometry `g` passes training and its address walk on devices of `fitted` GiB that train at the geometries numbered in `trains`: in the walk a
smaller capacity shows up as an aliased pattern (08 R461, R919; log 105, DEDUCED). -/
def geometryPasses (fitted : Nat) (trains : List Nat) (g : Geometry) : Bool :=
  decide (g.gib ≤ fitted) && trains.contains (geometries.idxOf g)

/-- The geometry with which channel `ch` trains: the one stated if it passes, or in detection the first that passes. -/
def trainedAs (s : State) (ch fitted : Nat) (trains : List Nat) : Option Geometry :=
  match (chan s ch).want with
  | some g => if geometryPasses fitted trains g then some g else none
  | none => geometries.find? (geometryPasses fitted trains)

/-- Training of channel `ch` ends; a failure is recorded as TRAIN_FAIL, and stops the load unless the channel is OPTIONAL (02 R106, R107, 08
R919). -/
def trainingEff (ch fitted : Nat) (trains : List Nat) (s : State) : State :=
  let cfg := rd s (R.BUFFER_RES_CH_CFG ch)
  if !loaderAt s .applying 0 || !bit cfg 31 || (chan s ch).result.isSome then s
  else
    match trainedAs s ch fitted trains with
    | some g =>
      setChan (wr s (R.BUFFER_RES_CH_CFG ch) (cfg ||| pack [(29, 1), (0, g.gib)])) ch { chan s ch with result := some g.gib, geom := some g }
    | none =>
      let s1 := fault s .buffer 6 ch 0
      if bit cfg 30 then setChan (wr s1 (R.BUFFER_RES_CH_CFG ch) (setBit cfg 31 false)) ch { chan s ch with result := some 0 }
      else commandFails 20 ch 0 { s1 with loader := { s1.loader with stuck := true } }

/-- CHANNEL_TRAINING: the capacity in GiB of the devices fitted, and the geometries, by their place in the order of R461, at which they
train. -/
def execChannelTraining (ch : Fin 8) (fitted : Nat) (trains : List Nat) (s : State) : Out :=
  viaCore s (trainingEff ch fitted trains)

/-! ### Storing (15 R802, R803, R806) -/

/-- A commit has applied its image: the command is done and, with a flash, is stored or the directory is swapped. -/
def appliedEff (version : Word) (part_ : Bool) (s : State) : State :=
  commandDone (if s.flash.ok then .writing else .idle)
    { s with loader := { s.loader with version := version, partial_ := part_, source := 2, wrote := 0 } }

/-- The directory with no PREVIOUS that R802 step 1 writes, if one is in force. -/
def stepOne (s : State) (f : Flash) : Flash :=
  match directory s with
  | some (k, d) => putDir (1 - k) (dirBytes ((beAt d 4 4 + 1) % 2 ^ 32) (beAt d 8 1) 0 (beAt d 12 4) 0) f
  | none => f

/-- The directory that R802 step 3 writes: the other area is CURRENT, and the former CURRENT is PREVIOUS. -/
def stepThree (s : State) (f : Flash) : Flash :=
  match directory s with
  | some (k, d) => putDir (1 - k) (dirBytes ((beAt d 4 4 + 1) % 2 ^ 32) (1 - dirArea s) 1 s.loader.version.toNat (beAt d 12 4)) f
  | none => putDir 0 (dirBytes 0 (1 - dirArea s) 0 s.loader.version.toNat 0) f

/-- The next step of R802 is done. -/
def storeStep (s : State) : State :=
  let f := match s.loader.wrote with
    | 0 => stepOne s s.flash
    | 1 => putArea (1 - dirArea s) s.loader.staged s.flash
    | _ => stepThree s s.flash
  { s with flash := f, loader := { s.loader with wrote := s.loader.wrote + 1 } }

/-- The steps of R802 up to step `n` are done. -/
def storeSteps (n : Nat) (s : State) : State := (List.range (n - s.loader.wrote)).foldl (fun s _ => storeStep s) s

/-- The directory with the roles of the areas swapped. -/
def swapDir (s : State) (f : Flash) : Flash :=
  match directory s with
  | some (k, d) => putDir (1 - k) (dirBytes ((beAt d 4 4 + 1) % 2 ^ 32) (1 - dirArea s) 1 (beAt d 16 4) (beAt d 12 4)) f
  | none => f

/-- Writing the flash has failed (15 R803). -/
def flashFails (f : Flash) (s : State) : State :=
  fault { setLoader .idle s with flash := f, loader := { (setLoader .idle s).loader with stale := true, source := 2 } } .image 21 0 0

/-- Writing the flash has succeeded. -/
def flashStored (f : Flash) (s : State) : State :=
  { setLoader .idle s with flash := f, loader := { (setLoader .idle s).loader with stale := false, source := 1 } }

/-- A step of R802 has failed: an area that is erased or programmed in part holds no image (15 R803). -/
def storeFails (s : State) : State :=
  flashFails (if s.loader.wrote = 1 then putArea (1 - dirArea s) [] s.flash else s.flash) s

/-- Storing a committed image has come to the end of step `step`, or swapping the directory has ended, well or not (15 R802, R803, R806). -/
def flashDoneEff (ok : Bool) (step : Nat) (s : State) : State :=
  if s.loader.st ≠ .writing then s
  else if imageOp s = 3 then (if ok then flashStored (swapDir s s.flash) s else flashFails s.flash s)
  else if !ok then storeFails (storeSteps (step - 1) s)
  else
    let s1 := storeSteps step s
    if s1.loader.wrote < 3 then s1 else event (flashStored s1.flash s1) R.IMAGE_EVENT 2

/-- FLASH_DONE. -/
def execFlashDone (ok : Bool) (step : Nat) (s : State) : Out := viaCore s (flashDoneEff ok step)

/-- The fuses of a FLOOR operation are programmed (15 R807). -/
def floorDoneEff (s : State) : State :=
  if s.loader.st = .applying ∧ !s.loader.boot ∧ imageOp s = 4 then
    commandDone .idle { s with fuses := { s.fuses with floor := rd s R.IMAGE_FLOOR_SET, floorLeft := s.fuses.floorLeft - 1 } }
  else s

/-- FLOOR_DONE. -/
def execFloorDone (s : State) : Out := viaCore s floorDoneEff

/-! ### RELOAD_COMMIT (15 R792, R793, 06 R378) -/

/-- Queue `q` takes its record; what its change leaves no place for is discarded and counted (15 R793). -/
def reloadQueue (d : ImageData) (s : State) (q : Nat) : State :=
  let rec_ := look [0, 0, 0] d.queues q
  let old := rd s (R.QUEUE_Q_MAP q)
  let new := rec_.getD 0 0 &&& mapMask
  let frames := (queue s q).frames
  let s1 :=
    if bit old 31 && !bit new 31 then bumpBy (emptyQueue q s) R.IMAGE_CNT_FLUSH frames.length
    else if bit old 31 && fld old 0 13 != fld new 0 13 then
      match frames with
      | f :: _ => if f.carried = 0 then s else bump (discardFrame q s f.tok.uid) R.IMAGE_CNT_FLUSH
      | [] => s
    else s
  evalPressure (wr (wr (wr s1 (R.QUEUE_Q_MAP q) new) (R.QUEUE_Q_WM q) (rec_.getD 1 0)) (R.QUEUE_Q_LIMIT q) (rec_.getD 2 0)) q

/-- The control store and TRACT_DROVER_FRAG of tract `t` are loaded, and its drover enters IDLE (06 R378). -/
def loadStore (d : ImageData) (t : Nat) (s : State) : State :=
  let mine (e : Nat × BitVec 192) : Bool := e.1 / 4096 == t
  let below (e : Nat × BitVec 192) : Bool := decide (e.1 / 4096 < t)
  let s1 := wr s (R.TRACT_DROVER_FRAG t) (d.frag.getD t 0 &&& 0x3FFF00FF)
  let s2 : State := { s1 with store := s.store.filter below ++ d.micro.filter mine ++ s.store.filter fun e => !below e && !mine e }
  setDrover s2 t { drover s2 t with st := .idle, fault := 0, stack := [], reload := false, entry := none, faulted := [] }

/-- The queues with a map word, a watermark or a limit that is not at its reset value. -/
def regQueues (s : State) : List Nat :=
  (s.regs.filter fun e => decide (0x1100000 ≤ e.1) && decide (e.1 < 0x1180000)).map fun e => (e.1 - 0x1100000) / 0x10

/-- The queues of tract `t` that the image or the registers name. -/
def tractQueues (d : ImageData) (s : State) (t : Nat) : List Nat :=
  ((regQueues s ++ (d.queues.map (·.1)) ++ s.queues.map (·.1)).filter fun q => qTract q == t).foldl (fun l q => setIns q l) []

/-- The reload commit of the tract in hand. -/
def reloadCommitEff (s : State) : State :=
  let t := imageTract s
  if loaderAt s .applying 1 && (drover s t).st == .reloading then
    let d := imageOf s.loader.staged
    let s1 := (tractQueues d s t).foldl (reloadQueue d) s
    let s2 := ((tractAids (fun n => rd s (R.QUEUE_AID n)) t).map (·.1)).foldl derivePrio s1
    appliedEff d.version true (loadStore d t s2)
  else s

/-- RELOAD_COMMIT. -/
def execReloadCommit (s : State) : Out := viaCore s reloadCommitEff

/-! ### Rule commits (07 R421, R423, 15 R794-R796) -/

/-- The commit instant of the commit under way; that of an image ends its command. -/
def instantEff (s : State) : State :=
  match s.cls.commit with
  | .applying k =>
    match s.cls.image with
    | some r =>
      let s1 := loadPriv r (commitInstantEff k s)
      appliedEff (imageVersion s.loader.staged) true { s1 with cls := { s1.cls with image := none } }
    | none => commitInstantEff k s
  | _ => s

/-- COMMIT_INSTANT. -/
def execCommitInstant (s : State) : Out := viaCore s instantEff

/-- CLASS_COMMIT_CTL.CANCEL (07 R421, 15 R795). -/
def classCancelEff (s : State) : State :=
  if s.cls.commit = .waiting then
    if s.cls.image.isSome then commandFails 17 0 0 (withdraw s) else { s with cls := { s.cls with commit := .idle } }
  else s

/-- CANCEL. -/
def execCancel (s : State) : Out := viaBar s classCancelEff

end Sys2Proof.Machine
end

