-- ==== Sys2Proof/Machine/RegAccess.lean ====
section
/-!
DEFINITION. Register accesses (00 R24-R34 R910, 01 R46-R51, 10 R544, 17 R901-R904): what each register reads as and what a write to it
does, the host path, the management path, the user windows of the counters (14 R752-R754), and BAR2 (08 R444). Rows REGISTER_WRITE,
RC_READ, LO_READ, MGT_WRITE, MGT_SET_OFFSET, MGT_READ, BAR2_ACCESS.
-/
namespace Sys2Proof.Machine

/-! ### Address decode -/

/-- First index of a register array. -/
def RegHit.i (h : RegHit) : Nat := h.ix.getD 0 0

/-- Second index of a register array. -/
def RegHit.j (h : RegHit) : Nat := h.ix.getD 1 0

/-- Offsets of a doorbell page (10 R572) or a target page (12 R670): those without a register read 0 and discard writes. -/
def inPage (a : Nat) : Bool :=
  (decide (0x3000000 ≤ a) && decide (a < 0x3200000)) || (decide (0x110000 ≤ a) && decide (a < 0x130000))

/-- The register at `a` belongs to a unit that is not fitted: it reads 0 and discards writes (00 R4, R5). -/
def absentAt (s : State) (a : Nat) : Bool :=
  match unitOf a with
  | some n => !bit (unitPresent s) n
  | none => false

/-- An access to an address that no block decodes (10 R544). -/
def unmapped (a : Nat) (write : Bool) (s : State) : State :=
  if inPage a then s else fault s .host 2 wholeBlock (BitVec.ofNat 64 (a % 2 ^ 26 + (if write then 2 ^ 32 else 0)))

/-! ### Views -/

/-- FAULT_SUMMARY (02 R118). -/
def faultSummary (s : State) : Word :=
  let c (b : Block) := anyCode (rd s b.base)
  let one := [Block.global, .keeper, .image, .host, .intc, .check, .dma, .ring, .time, .line, .cipher].map c
  let cl := (List.range 16).any fun p => c (.client p)
  let two := [Block.cls, .buffer, .perf, .queue].map c
  let l := one ++ [cl] ++ two ++ (List.range 8).map fun t => c (.tract t)
  bitsOf 24 fun i => l.getD i false

/-- FAULT_CLIENT_SUMMARY (02 R119). -/
def clientSummary (s : State) : Word := bitsOf 16 fun p => anyCode (rd s (Block.client p).base)

/-- KEEPER_TOD_STATE (16 R824). -/
def todState (path : Nat) (s : State) : Word :=
  pack [(31, b2n s.keeper.todValid), (30, b2n s.keeper.todHold), (29, b2n s.keeper.trimValid), (0, look 0 s.keeper.todLatch path)]

/-- KEEPER_SC_STATE_n (16 R825). -/
def scState (s : State) (n : Nat) : Word := pack [(2, b2n (inTrip s n)), (0, (comparator s n).st.code)]

/-- INTC_GROUP_g: RUNNING and HOLDOFF (12 R680). -/
def groupView (s : State) (g : Nat) : Word := setBit (rd s (R.INTC_GROUP g)) 31 (look none s.intc.timers g).isSome

/-- TIME_SERVO_STATUS (11 R614). -/
def servoStatus (s : State) (d : Bool) : Word :=
  let x := dom s d
  pack [(30, x.st.code), (29, b2n x.ever), (24, x.cause), (0, Nat.min 0xFFFF x.meas)]

/-- TIME_OUT_STATUS (11 R625). -/
def outStatus (s : State) : Word :=
  pack [(31, b2n (s.time.remain != 0)), (30, b2n s.time.refused), (24, b2n s.time.sel), (0, s.time.steps % 16)]

/-- The code of a scheduled action's state (11 R650). -/
def SchedState.code : SchedState → Nat
  | .idle => 0
  | .armed => 1
  | .done => 2
  | .late => 3

/-- TIME_SCHED_CTL_n with STATE. -/
def schedView (s : State) (n : Nat) : Word := rd s (R.TIME_SCHED_CTL n) ||| pack [(28, (schedState s n).code)]

/-- CIPHER_KEY_STATUS (04 R268). -/
def keyStatus (s : State) : Word := bitsOf 32 fun b => (look none s.keys.down (4 * (b / 2) + b % 2 + 1)).isSome

/-- The code of a drover's state (06 R324). -/
def DroverState.code : DroverState → Nat
  | .idle => 0
  | .running => 1
  | .stopped => 2
  | .reloading => 3

/-- TRACT_DROVER_STATUS (06 R348). -/
def droverStatus (s : State) (t : Nat) : Word :=
  let d := drover s t
  pack [(30, d.st.code), (24, if d.st = .stopped then d.fault else 0), (16, d.stack.length), (0, d.pc)]

/-- TRACT_DROVER_ENTRY. -/
def droverEntry (s : State) (t : Nat) : Word :=
  match (drover s t).entry with
  | some e => pack [(31, 1), (0, e.aid)]
  | none => 0

/-- TRACT_DROVER_STACK_k: 0 unless the drover is STOPPED. -/
def droverStack (s : State) (t k : Nat) : Word :=
  if (drover s t).st = .stopped then BitVec.ofNat 32 ((drover s t).stack.getD k 0) else 0

/-- TRACT_DROVER_W_n: 0 unless the drover is STOPPED. -/
def droverW (s : State) (t n : Nat) : DWord := if (drover s t).st = .stopped then wReg (drover s t) n else 0

/-- TRACT_DROVER_CS_DATA_k. -/
def csData (s : State) (t k : Nat) : Word := (storeWord s t (rfld s (R.TRACT_DROVER_CS_ADDR t) 0 12)).extractLsb' (32 * k) 32

/-- A peak as read: never below what it is the peak of now. -/
def peakView (stored : Word) (cur : Nat) : Word := if stored.toNat < cur then BitVec.ofNat 32 cur else stored

/-- What a register that keeps a peak is the peak of, as it stands now. -/
def peakNow (s : State) (a : Nat) : Option Nat :=
  if a = R.RING_INFLIGHT_PEAK then some (inflight s)
  else if a = R.BUFFER_RES_USED_PEAK then some (pagesUsed s)
  else if a = R.QUEUE_ALLOT_PEAK then some s.table.length
  else none

/-- A read of a register that clears on it: a peak starts again from what stands now. -/
def clearRead (a rc : Nat) (s : State) : State :=
  let s1 := if rc = 0 then s else wr s a (rd s a &&& ~~~(BitVec.ofNat 32 rc))
  match peakNow s a with
  | some n => wr s1 a (BitVec.ofNat 32 n)
  | none => s1

/-- The registers of 32 bits whose value is computed, by the offset of the first of their array. -/
def wordViews : List (Nat × (State → Nat → Nat → Word)) :=
  [ (R.GLOBAL_UNIT_PRESENT, fun s _ _ => unitPresent s),
    (R.GLOBAL_MODE_STATUS, fun s _ _ => modeStatus s),
    (R.GLOBAL_RESET_CAUSE, fun s _ _ => BitVec.ofNat 32 s.power.cause),
    (R.GLOBAL_STRAPS, fun s _ _ => BitVec.ofNat 32 s.power.straps),
    (R.KEEPER_SC_STATE 0, fun s n _ => scState s n),
    (R.KEEPER_LOG_NEXT, fun s _ _ => pack [(16, s.keeper.logCount % 65536), (0, s.keeper.logCount % 64)]),
    (R.IMAGE_STATUS, fun s _ _ => imageStatus s),
    (R.IMAGE_FLOOR, fun s _ _ => s.fuses.floor),
    (R.IMAGE_FLOOR_LEFT, fun s _ _ => BitVec.ofNat 32 s.fuses.floorLeft),
    (R.IMAGE_VER_FORCE, fun s _ _ => s.loader.version),
    (R.IMAGE_VER_CURRENT, fun s _ _ => BitVec.ofNat 32 (dirCur s)),
    (R.IMAGE_VER_PREVIOUS, fun s _ _ => BitVec.ofNat 32 (dirPrev s)),
    (R.IMAGE_SLOT_VALID, fun s _ _ => slotValid s),
    (R.IMAGE_KEYHASH 0, fun s k _ => s.fuses.keyHash.getD k 0),
    (R.FAULT_SUMMARY, fun s _ _ => faultSummary s),
    (R.FAULT_CLIENT_SUMMARY, fun s _ _ => clientSummary s),
    (R.INTC_GROUP 0, fun s g _ => groupView s g),
    (R.INTC_PEND 0, fun s k _ => bitsOf 32 fun b => s.intc.pend.contains (32 * k + b)),
    (R.INTC_LINE 0, fun s k _ => bitsOf 32 fun b => s.intc.last.contains (32 * k + b)),
    (R.INTC_SRC_CFG 0, fun s n _ => srcCfgView s n),
    (R.INTC_HT_PRIV 0, fun s n _ => privView s n),
    (R.INTC_HT_BANK 0 0, fun s n k => bankView s n k) ]

/-- The same, of the host unit's blocks, the check units and the time unit. -/
def wordViews2 : List (Nat × (State → Nat → Nat → Word)) :=
  [ (R.CHECK_STATE 0, fun s e _ => checkState s e),
    (R.CHECK_DONE_SUM, fun s _ _ => checkDoneSum s),
    (R.DMA_STATE 0, fun s c _ => dmaState s c),
    (R.RING_INFLIGHT, fun s _ _ => BitVec.ofNat 32 (inflight s)),
    (R.RING_INFLIGHT_PEAK, fun s _ _ => peakView (rd s R.RING_INFLIGHT_PEAK) (inflight s)),
    (R.RING_RX_BACKLOG, fun s _ _ => backlogView s),
    (R.RING_HALTED 0, fun s n _ => ringHalted s n),
    (R.RING_STATUS 0 0, fun s x r => ringStatus s (x == 1) r),
    (R.RING_HEAD 0 0, fun s x r => BitVec.ofNat 32 (ring s (x == 1) r).head),
    (R.RING_TAIL 0 0, fun s x r => BitVec.ofNat 32 (ring s (x == 1) r).tail),
    (R.RING_DB_TAIL 0 0, fun s x r => BitVec.ofNat 32 (ring s (x == 1) r).tail),
    (R.RING_DB_HEAD 0 0, fun s x r => BitVec.ofNat 32 (ring s (x == 1) r).head),
    (R.RING_DB_EVENT 0 0, fun s x r => rd s (R.RING_EVENT x r)),
    (R.TIME_REACH_STATUS, fun s _ _ => pack [(31, b2n s.time.reachSet), (30, b2n (decide (64 ≤ s.time.flock)))]),
    (R.TIME_SERVO_STATUS 0, fun s d _ => servoStatus s (d == 1)),
    (R.TIME_OUT_STATUS, fun s _ _ => outStatus s),
    (R.TIME_OUT_REMAIN, fun s _ _ => sixteenths s.time.remain),
    (R.TIME_TXQ_STATUS, fun s _ _ => BitVec.ofNat 32 s.time.txq.length),
    (R.TIME_SCHED_CTL 0, fun s n _ => schedView s n) ]

/-- The same, from LINE on. -/
def wordViews3 : List (Nat × (State → Nat → Nat → Word)) :=
  [ (R.LINE_RLF_STATUS, fun s _ _ => rlfStatus s),
    (R.LINE_REASM_POOL, fun s _ _ => reasmPoolView s),
    (R.LINE_RTT, fun s _ _ => BitVec.ofNat 32 (lineRtt s)),
    (R.LINE_HG_STATUS, fun s _ _ => hgStatus s),
    (R.CIPHER_KEY_STATUS, fun s _ _ => keyStatus s),
    (R.CIPHER_UP_SLOT, fun s _ _ => BitVec.ofNat 32 s.keys.upSlot),
    (R.CIPHER_ID_PUB 0, fun s n _ => BitVec.ofNat 32 (beAt (publicXY s.fuses.idKey) (4 * n) 4)),
    (R.CLIENT_PORT_STATUS 0, fun s p _ => portStatus s p),
    (R.CLIENT_FC_STATE 0, fun s p _ => fcState s p),
    (R.CLASS_COMMIT_STATUS, fun s _ _ => commitStatus s),
    (R.CLASS_SLOT 0, fun s k _ => slotView s k),
    (R.CLASS_SLOT_VER 0, fun s k _ => (ruleSlot s k).ver),
    (R.CLASS_STORE_FREE, fun s _ _ => BitVec.ofNat 32 (storeFree s)),
    (R.CLASS_RULE_SEL, fun s _ _ => ruleSelView s),
    (R.CLASS_RULE_KEY 0, fun s k _ => ruleWord s Rule.value k),
    (R.CLASS_RULE_MASK 0, fun s k _ => ruleWord s Rule.mask k),
    (R.BUFFER_CIS_FREE, fun s _ _ => BitVec.ofNat 32 (cisFree s)),
    (R.BUFFER_CIS_QUEUED, fun s _ _ => BitVec.ofNat 32 (queuedGranules s).length),
    (R.BUFFER_RES_CH_FREE 0, fun s ch _ => BitVec.ofNat 32 (chan s ch).free),
    (R.BUFFER_RES_PAGES_FREE, fun s _ _ => BitVec.ofNat 32 (pagesFree s)),
    (R.BUFFER_RES_USED_PEAK, fun s _ _ => peakView (rd s R.BUFFER_RES_USED_PEAK) (pagesUsed s)),
    (R.BUFFER_Q_RES, fun s _ _ => qResView s),
    (R.PERF_EVENT, fun s _ _ => setBit (rd s R.PERF_EVENT) 3 (sampleReady s)),
    (R.PERF_SAMPLE_STATUS, fun s _ _ => BitVec.ofNat 32 s.perf.samples.length) ]

/-- The same, from QUEUE on. -/
def wordViews4 : List (Nat × (State → Nat → Nat → Word)) :=
  [ (R.QUEUE_ALLOT_COUNT, fun s _ _ => BitVec.ofNat 32 s.table.length),
    (R.QUEUE_ALLOT_PEAK, fun s _ _ => peakView (rd s R.QUEUE_ALLOT_PEAK) s.table.length),
    (R.QUEUE_FC_STATE 0, fun s p _ => BitVec.ofNat 32 (pressured s p)),
    (R.QUEUE_Q_OCC 0, fun s q _ => occView s q),
    (R.TRACT_PACE_STATUS 0, fun s t _ => paceStatus s t),
    (R.TRACT_DROVER_STATUS 0, fun s t _ => droverStatus s t),
    (R.TRACT_DROVER_ENTRY 0, fun s t _ => droverEntry s t),
    (R.TRACT_DROVER_STACK 0 0, fun s t k => droverStack s t k),
    (R.TRACT_DROVER_CS_DATA 0 0, fun s t k => csData s t k) ]

/-- The pairs whose value is computed. -/
def pairViews : List (Nat × (State → Nat → Nat → DWord)) :=
  [ (R.KEEPER_RTC_SEC, fun s _ _ => BitVec.ofNat 64 s.keeper.rtcSec),
    (R.KEEPER_TOD_SEC, fun s _ _ => BitVec.ofNat 64 s.keeper.todSec),
    (R.DMA_DONE_SUM, fun s _ _ => dmaDoneSum s 1 ++ dmaDoneSum s 0),
    (R.TIME_REACH, fun s _ _ => reachNow s),
    (R.TIME_CNT 0, fun s d _ => ofClock (dom s (d == 1)).cnt),
    (R.TIME_OUT, fun s _ _ => outNow s),
    (R.LINE_SERIAL, fun s _ _ => s.fuses.serial),
    (R.CLASS_RULE_ACT, fun s _ _ => ruleAct s),
    (R.QUEUE_ALLOT_NEXT, fun s _ _ => nextLaunch s),
    (R.TRACT_DROVER_W 0 0, fun s t n => droverW s t n) ]

/-- The entry of a table under a register's offset. -/
def entryAt {α : Type} (l : List (Nat × α)) (b : Nat) : Option α := (l.find? fun e => e.1 == b).map (·.2)

/-- What a register of 32 bits reads as, before the read has any effect. -/
def wordValue (s : State) (h : RegHit) (a : Nat) : Word :=
  match entryAt (wordViews ++ wordViews2 ++ wordViews3 ++ wordViews4) h.row.base with
  | some f => f s h.i h.j
  | none => if h.row.kind = .view then 0 else rd s a

/-- What a pair holds, its LO register being at `a`. -/
def pairValue (s : State) (h : RegHit) (a : Nat) : DWord :=
  match entryAt pairViews h.row.base with
  | some f => f s h.i h.j
  | none => if h.row.kind = .pairView then 0 else rd64 s a

/-! ### Reads (00 R25, R31-R33, R910) -/

/-- A read of KEEPER_RTC_SEC_LO or KEEPER_TOD_SEC_LO latches the ticks of the same instant for its path (16 R817, R824, 17 R904). -/
def keeperLatch (path b : Nat) (s : State) : State :=
  if b = R.KEEPER_RTC_SEC then { s with keeper := { s.keeper with rtcLatch := put 0 s.keeper.rtcLatch path s.keeper.rtcSub } }
  else if b = R.KEEPER_TOD_SEC then { s with keeper := { s.keeper with todLatch := put 0 s.keeper.todLatch path s.keeper.todSub } }
  else s

/-- The registers of 32 bits that show what a LO read of the same path has latched (11 R623, 16 R817, R824, 17 R904). -/
def latchView (path : Nat) (h : RegHit) (s : State) : Option Word :=
  if h.row.base = R.KEEPER_RTC_SUB then some (BitVec.ofNat 32 (look 0 s.keeper.rtcLatch path))
  else if h.row.base = R.KEEPER_TOD_STATE then some (todState path s)
  else if h.row.base = R.TIME_TOD_NS 0 then some (look 0 s.time.todNs (2 * path + h.i))
  else none

/-- A read of a LO register: it latches the HI half, and a counter clears (00 R31, R32). -/
def readLo (path : Nat) (h : RegHit) (a : Nat) (s : State) : Word × State :=
  if h.row.base = R.TIME_TOD 0 then todRead path (h.i == 1) s
  else
    let v := pairValue s h a
    let s1 := keeperLatch path h.row.base (setLatch s path (a + 4) (v.extractLsb' 32 32))
    (v.extractLsb' 0 32, if h.row.kind = .pairCnt then wr64 s1 a 0 else s1)

/-- A read of a register of 32 bits: RC bits clear (00 R25). -/
def readWord (path : Nat) (h : RegHit) (a : Nat) (s : State) : Word × State :=
  if h.row.base = R.TIME_TXQ_W0 then txqRead s
  else if h.row.base = R.PERF_SAMPLE_W0 then sampleRead s
  else if h.row.base = R.INTC_HT_SUMMARY 0 then (summaryView s h.i, summaryRead h.i s)
  else ((latchView path h s).getD (wordValue s h a), clearRead a h.row.rc s)

/-- The register that offset `o` of user window `u` mirrors (14 R752). -/
def windowReg (u o : Nat) : Option Nat :=
  if u < 8 then (if o < 0x400 then some (0x2010000 + u * 0x200000 + o) else none)
  else if 0x100 ≤ o ∧ o < 0x200 then some (0xC00000 + o)
  else none

/-- The user window of an offset. -/
def winUser (a : Nat) : Nat := a / 0x1000 % 16

/-- A read of offset `a` of a window that mirrors offset `b`: it clears nothing and has latches of its own (14 R753). -/
def readMirror (path a b : Nat) (s : State) : Word × State :=
  match decodeReg b with
  | some h =>
    if h.hi then (getLatch s path a, s)
    else if h.row.kind = .word then (rd s b, s)
    else (rd s b, setLatch s path (a + 4) (rd s (b + 4)))
  | none => (0, s)

/-- A read through a user window (14 R752-R754). -/
def readWindow (path a : Nat) (s : State) : Word × State :=
  match windowReg (winUser a) (a % 0x1000) with
  | some b => if !rbit s R.PERF_USER_EN (winUser a) then (0, s) else readMirror path a b s
  | none => (0, s)

/-- A read of the aligned offset `a` on a path. -/
def readReg (path a : Nat) (s : State) : Word × State :=
  match decodeReg a with
  | none => (0, unmapped a false s)
  | some h =>
    if absentAt s a then (0, s)
    else if h.row.base = R.PERF_USER_WIN 0 0 then readWindow path a s
    else if h.hi then (getLatch s path a, s)
    else if h.row.kind = .word ∨ h.row.kind = .view then readWord path h a s
    else readLo path h a s

/-! ### Writes (00 R25, R34) -/

/-- A write of 1 to FIRST_VALID of the fault record at `a` is taken as before the faults of the same instant (02 R117). -/
def faultsAfter (a : Nat) (v : Word) (s : State) : State :=
  if bit v 31 && (errSource a).isSome then ((faultsNow s).filter fun x => x.base == a).foldl capture s else s

/-- A write that has no effect but on the bits of the register itself. -/
def plainWrite (h : RegHit) (a : Nat) (v : Word) (s : State) : State :=
  match h.row.kind with
  | .word => faultsAfter a v (wrField s a v (BitVec.ofNat 32 h.row.rw) (BitVec.ofNat 32 h.row.w1c))
  | .pairRW => if h.hi then takeHi s (a - 4) v (BitVec.ofNat 64 h.row.rw) else stageLo s a v
  | _ => s

/-- A plain write to a setting of client reception, which frames that have begun do not see (09 R496, R497, R528, 11 R632). -/
def datedWrite (h : RegHit) (a : Nat) (v : Word) (s : State) : State :=
  let s1 := plainWrite h a v s
  if h.hi then keepPast s (a - 4) (keepPast s a s1) else keepPast s a s1

/-- A write to a state register of a DMA channel or a scan engine: with ERR, CODE clears (10 R547, 13 R700). -/
def stateWrite (a : Nat) (v : Word) (s : State) : State :=
  let s1 := wrField s a v 0 0x60000000
  if bit v 29 then wr s1 a (rd s1 a &&& 0xFFFFFFE0) else s1

/-- A write to a transmit equalisation register (17 R883). -/
def txeqWrite (a : Nat) (v : Word) (s : State) : State :=
  if 63 < fld v 24 4 + fld v 16 6 + fld v 8 6 + fld v 0 6 ∨ 7 < fld v 24 4 then s else wrField s a v 0x0F3F3F3F 0

/-- A write to CLASS_COMMIT_CTL: GO, then CANCEL (07 R418). -/
def commitCtlEff (v : Word) (s : State) : State :=
  let s1 := if bit v 0 then classGoEff s else s
  if bit v 1 then classCancelEff s1 else s1

/-- A write to TRACT_PERF_SEL_k: CHAIN only for even k (14 R733). -/
def perfSelEff (h : RegHit) (a : Nat) (v : Word) (s : State) : State :=
  wrField s a v (if h.j % 2 = 0 then 0x800000FF else 0xFF) 0

/-- The plain write, unless the channel, the engine or the loader holds the register. -/
def plainUnless (p : Bool) (h : RegHit) (a : Nat) (v : Word) (s : State) : State := if p then s else plainWrite h a v s

/-- What a write does to the registers of GLOBAL, KEEPER, IMAGE and INTC that act. -/
def writeTable : List (Nat × (RegHit → Nat → Word → State → State)) :=
  [ (R.GLOBAL_MODE_CTL, fun _ _ v => modeCtlEff v),
    (R.GLOBAL_SOFT_RESET, fun _ _ v => softResetEff v),
    (R.KEEPER_RTC_CTL, fun _ _ v => rtcCtlEff v),
    (R.KEEPER_ALARM_CTL, fun _ _ v => keeperAlarmCtlEff v),
    (R.KEEPER_SC_CTL 0, fun h _ v => keeperScCtlEff h.i false v),
    (R.KEEPER_SC_FILT 0, fun h _ v => keeperScCtlEff h.i true v),
    (R.KEEPER_LOG_SEL, fun _ _ v => keeperLogSelEff v),
    (R.IMAGE_CMD, fun _ _ v => imageCmdEff v),
    (R.IMAGE_SRC, fun h a v s => plainUnless (s.loader.st != .idle) h a v s),
    (R.IMAGE_FLOOR_SET, fun h a v s => plainUnless (s.loader.st != .idle) h a v s),
    (R.INTC_HT_STATE, fun _ _ v => intcHtStateEff v),
    (R.INTC_HT_IDLE, fun _ _ v => intcHtIdleEff v),
    (R.INTC_WATCHER, fun _ _ v => intcWatcherEff v),
    (R.INTC_RETARGET, fun _ _ v => intcRetargetEff v),
    (R.INTC_SWI, fun _ _ v => intcSwiEff v),
    (R.INTC_SRC_CFG 0, fun h _ v => intcSrcCfgEff h.i v),
    (R.INTC_HT_PRIV 0, fun h _ v => intcCompletionEff h.i none v),
    (R.INTC_HT_BANK 0 0, fun h _ v => intcCompletionEff h.i (some h.j) v) ]

/-- The same, of CHECK, DMA, RING and TIME. -/
def writeTable2 : List (Nat × (RegHit → Nat → Word → State → State)) :=
  [ (R.CHECK_SRC 0, fun h a v s => plainUnless (scan s h.i).busy h a v s),
    (R.CHECK_LEN 0, fun h a v s => plainUnless (scan s h.i).busy h a v s),
    (R.CHECK_FOLD 0, fun h a v s => plainUnless (scan s h.i).busy h a v s),
    (R.CHECK_EXPECT 0, fun h a v s => plainUnless (scan s h.i).busy h a v s),
    (R.CHECK_STORE_ADDR 0, fun h a v s => plainUnless (scan s h.i).busy h a v s),
    (R.CHECK_CTL 0, fun h _ v => checkCtlEff h.i v),
    (R.CHECK_STATE 0, fun h a v s => if (scan s h.i).busy then s else stateWrite a v s),
    (R.DMA_SRC 0, fun h a v s => plainUnless (dma s h.i).busy h a v s),
    (R.DMA_DST 0, fun h a v s => plainUnless (dma s h.i).busy h a v s),
    (R.DMA_COUNT 0, fun h a v s => plainUnless (dma s h.i).busy h a v s),
    (R.DMA_REC 0, fun h a v s => plainUnless (dma s h.i).busy h a v s),
    (R.DMA_CTL 0, fun h _ v => dmaCtlEff h.i v),
    (R.DMA_STATE 0, fun _ a v => stateWrite a v),
    (R.RING_CTL 0 0, fun h _ v => ringCtlEff (h.i == 1) h.j v),
    (R.RING_DB_TAIL 0 0, fun h _ v => dbTailEff (h.i == 1) h.j v),
    (R.RING_DB_EVENT 0 0, fun h _ v s => wrField s (R.RING_EVENT h.i h.j) v 0 3),
    (R.TIME_SERVO_CTL 0, fun h _ v => servoCtlEff (h.i == 1) v),
    (R.TIME_INCR 0, fun h _ v => incrEff (h.i == 1) h.hi v),
    (R.TIME_OUT_CTL, fun _ _ v => switchEff v),
    (R.TIME_SCHED_CTL 0, fun h _ v => schedArmEff h.i v) ]

/-- The same, from LINE on. -/
def writeTable3 : List (Nat × (RegHit → Nat → Word → State → State)) :=
  [ (R.LINE_PM 0, fun h _ v => linePmEff h.i v),
    (R.LINE_HG_LEAD, fun _ _ v => lineHgLeadEff v),
    (R.LINE_GASP_CTL, fun _ _ v => gaspCtlEff v),
    (R.LINE_HG_PREAMBLE 0, fun h _ v => preambleEff h.i v),
    (R.LINE_SB_CMD, fun _ _ v => sbCmdEff v),
    (R.LINE_LANE_TXEQ 0, fun _ a v => txeqWrite a v),
    (R.TIME_CORR_RX 0 0, datedWrite),
    (R.CLIENT_RX_CTL 0, datedWrite),
    (R.CLIENT_MAC_ADDR 0 0, datedWrite),
    (R.CLIENT_WAKE_CTL 0, datedWrite),
    (R.CLIENT_WAKE_MASK 0 0, datedWrite),
    (R.CLIENT_WAKE_DATA 0 0, datedWrite),
    (R.CLIENT_FC_CTL 0, fun h _ v => fcCtlEff h.i v),
    (R.CLIENT_STAT_PRESET 0, fun h _ v => statPresetEff h.i v),
    (R.CLIENT_LANE_TXEQ 0, fun _ a v => txeqWrite a v),
    (R.CLASS_COMMIT_CTL, fun _ _ v => commitCtlEff v),
    (R.CLASS_STAGE_CMD, fun _ _ v => stageCmdEff v),
    (R.CLASS_PRIV 0, fun h _ v => classPrivEff h.i false v),
    (R.CLASS_PRIV_RATE 0, fun h _ v => classPrivEff h.i true v),
    (R.BUFFER_Q_RECOVER, fun _ _ v => qRecoverEff v),
    (R.PERF_TALLY_CTL, fun _ _ v => tallyCtlEff v),
    (R.PERF_TALLY_INTERVAL, fun h a v s => plainUnless (rbit s R.PERF_TALLY_CTL 31) h a v s),
    (R.PERF_TALLY_BASE, fun h a v s => plainUnless (rbit s R.PERF_TALLY_CTL 31) h a v s),
    (R.PERF_ACC_PRESET, fun _ _ v => accPresetEff v),
    (R.QUEUE_Q_WM 0, fun h _ v => queueWmEff h.i v) ]

/-- The same, of the tracts. -/
def writeTable4 : List (Nat × (RegHit → Nat → Word → State → State)) :=
  [ (R.TRACT_CELL_MAP 0 0, fun h _ v => cellMapEff h.i h.j v),
    (R.TRACT_CELL_RESET 0, fun h _ v => cellResetEff h.i v),
    (R.TRACT_PACE_CTL 0, fun h _ v s => paceCtlEff h.i v (freeAck s) (draw1 s)),
    (R.TRACT_PACE_FIXED 0, fun h _ v s => paceFixedEff h.i v (freeAck s) (draw1 s)),
    (R.TRACT_DROVER_CTL 0, fun h _ v => droverRestartEff h.i v),
    (R.TRACT_PERF_SEL 0 0, perfSelEff),
    (R.TRACT_PERF_PRESET 0, fun h _ v => tractPresetEff h.i v),
    (R.TRACT_LEDGER_CTL 0, fun h _ v => snapEff h.i v),
    (R.TRACT_CELL_PRESET 0 0, fun h _ v => cellPresetEff h.i h.j v) ]

/-- A write of `v` to the aligned offset `a`. -/
def writeReg (a : Nat) (v : Word) (s : State) : State :=
  match decodeReg a with
  | none => unmapped a true s
  | some h =>
    if absentAt s a then s
    else
      match entryAt (writeTable ++ writeTable2 ++ writeTable3 ++ writeTable4) h.row.base with
      | some f => f h a v s
      | none => plainWrite h a v (if inKeeper a then keeperDue s else s)

/-! ### The host path (00 R28, R29, R910) -/

/-- BAR0 ends here. -/
abbrev bar0End : Nat := 0x4000000

/-- A BAR0 write, with byte enables `be`: one that does not cover a whole aligned dword is recorded and has no effect (00 R29). -/
def hostWriteEff (off : Nat) (be : BitVec 4) (v : Word) (s : State) : State :=
  if be ≠ 0xF ∨ off % 4 ≠ 0 then fault s .host 1 wholeBlock (BitVec.ofNat 64 off) else writeReg off v s

/-- REGISTER_WRITE. -/
def execRegisterWrite (off : Nat) (be : BitVec 4) (v : Word) (s : State) : Out :=
  if bar0End ≤ off then .fault .outsideBar0 else viaBar s (hostWriteEff off be v)

/-- `n` dwords are read from `a` on, lower address first: their bytes, and the state. -/
def readDwords (path : Nat) : Nat → Nat → State → Bytes × State
  | 0, _, s => ([], s)
  | n + 1, a, s =>
    let r := readReg path a s
    let q := readDwords path n (a + 4) r.2
    (leBytes 4 r.1.toNat ++ q.1, q.2)

/-- A BAR0 read of `len` bytes from `off`: each dword that it touches is read whole, and the bytes requested return (00 R910). -/
def hostReadEff (off len : Nat) (s : State) : State :=
  let n := if len = 0 then 0 else (off + len + 3) / 4 - off / 4
  let r := readDwords hostPath n (off / 4 * 4) s
  emit r.2 (.readData ((r.1.drop (off % 4)).take len) false)

/-- A BAR0 read, within BAR0. -/
def hostRead (off len : Nat) (s : State) : Out :=
  if bar0End < off + len then .fault .outsideBar0 else viaBar s (hostReadEff off len)

/-- RC_READ. -/
def execRcRead (off len : Nat) (s : State) : Out := hostRead off len s

/-- LO_READ. -/
def execLoRead (off len : Nat) (s : State) : Out := hostRead off len s

/-! ### The management path (17 R901-R904) -/

/-- The target acknowledges the fourth offset byte (17 R903). -/
def mgtOffsetOk (off : BitVec 32) : Bool := off.toNat % 4 == 0 && decide (off.toNat < bar0End)

/-- The address at which the target answers (17 R901). -/
def mgtAddress (s : State) : Nat := 0x58 + s.power.straps / 4

/-- A transaction to `addr`: the target answers once BAR0 is accessible; at other times, and at another address, it does not acknowledge
(17 R901). -/
def viaMgt (addr : BitVec 7) (s : State) (f : State → State) : Out :=
  if barOpen s && addr.toNat == mgtAddress s then viaBar s f else done (emit s (.mgtNack 0))

/-- A write transaction with the offset `off`; a bad offset is not acknowledged at its fourth byte, and has no effect (17 R903). -/
def mgtOffset (off : BitVec 32) (f : State → State) (s : State) : State := if mgtOffsetOk off then f s else emit s (.mgtNack 4)

/-- MGT_WRITE: four data bytes make a BAR0 write of the dword. -/
def execMgtWrite (addr : BitVec 7) (off : BitVec 32) (data : Word) (s : State) : Out :=
  viaMgt addr s (mgtOffset off (writeReg off.toNat data))

/-- MGT_SET_OFFSET: no data bytes set the offset for the next read. -/
def execMgtSetOffset (addr : BitVec 7) (off : BitVec 32) (s : State) : Out :=
  viaMgt addr s (mgtOffset off fun s => { s with host := { s.host with mgt := off } })

/-- A management read: the dword at the offset, which then advances by 4. -/
def mgtReadEff (s : State) : State :=
  let r := readReg mgtPath s.host.mgt.toNat s
  emit { r.2 with host := { r.2.host with mgt := s.host.mgt + 4 } } (.mgtData r.1)

/-- MGT_READ. -/
def execMgtRead (addr : BitVec 7) (s : State) : Out := viaMgt addr s mgtReadEff

/-! ### BAR2 (00 R24, 08 R444) -/

/-- BAR2 ends here. -/
abbrev bar2End : Nat := 0x10000000

/-- The pieces of `n` bytes from `a`, one for each granule that they touch. -/
def spanRuns (a n : Nat) : List (Nat × Nat) :=
  if n = 0 then []
  else (List.range ((a + n - 1) / granuleSize + 1 - a / granuleSize)).map fun i =>
    let g := a / granuleSize + i
    let lo := Nat.max a (g * granuleSize)
    (lo, Nat.min (a + n) ((g + 1) * granuleSize) - lo)

/-- How a BAR2 access shows in the access counters (14 R751). -/
def bar2Access : Access := { addr := 0, bytes := 0, master := 3, priv := true }

/-- How many of `n` bytes from `off` lie in the cistern. -/
def bar2Len (off n : Nat) : Nat := Nat.min n (cisternSize - off)

/-- A BAR2 write: what lies at or above 192 MiB is discarded. -/
def bar2Write (off : Nat) (b : Bytes) (s : State) : State :=
  let n := bar2Len off b.length
  writeRuns bar2Access s (spanRuns off n) (b.take n)

/-- A BAR2 read: what lies at or above 192 MiB reads 0, and a poisoned word sets EP. -/
def bar2Read (off len : Nat) (u : Upset) (s : State) : State :=
  let n := bar2Len off len
  let r := readRuns bar2Access (upset s u) (spanRuns off n)
  emit r.1 (.readData (padTo (cisBytes r.1 off n) len) r.2.isSome)

/-- BAR2_ACCESS. -/
def execBar2Access (off : Nat) (write : Option Bytes) (len : Nat) (u : Upset) (s : State) : Out :=
  if bar2End < off + (match write with | some b => b.length | none => len) then .fault .outsideBar2
  else
    viaBar s fun s =>
      match write with
      | some b => bar2Write off b s
      | none => bar2Read off len u s

end Sys2Proof.Machine
end

