-- ==== Sys2Proof/Machine/Boot.lean ====
section
/-!
DEFINITION. What writes registers on the device's own account: the end of device-scope APPLYING and of the boot load (15 R788, R804, R805,
02 R105, 07 R408), the start of the boot load, and scheduled writes (11 R652). Rows RESET_SEQUENCE_COMPLETE, BOOT_IMAGE_LOADED,
DEVICE_APPLYING_END, SCHED.
-/
namespace Sys2Proof.Machine

/-! ### Presets and the end of a load (15 R775, R776, R788) -/

/-- The pages of channel `ch` are free once it has been trained (08 R474). -/
def openChannel (s : State) (ch : Nat) : State :=
  setChan s ch { chan s ch with free := chanPages ((chan s ch).result.getD 0), result := none, want := none }

/-- Presets, each as a BAR0 write, and then the KEEPER entries (15 R775, R776). -/
def loadPresets (d : ImageData) (s : State) : State :=
  d.keeper.foldl (fun s e => writeReg (0x10000 + e.1) e.2 s) (d.presets.foldl (fun s e => writeReg e.1 e.2 s) s)

/-- The structure hash in force. -/
def loadHash (d : ImageData) (s : State) : State := (List.range 4).foldl (fun s k => wr s (R.IMAGE_HASH k) (d.hash.getD k 0)) s

/-- What follows the training of the channels: they are opened, and the presets and KEEPER entries written (15 R788). -/
def loadEnd (d : ImageData) (s : State) : State := loadHash d (loadPresets d ((List.range 8).foldl openChannel s))

/-- Every channel that the image enables has been trained, or is left disabled. -/
def allTrained (s : State) : Bool :=
  (List.range 8).all fun ch => !rbit s (R.BUFFER_RES_CH_CFG ch) 31 || (chan s ch).result.isSome

/-- MODE returns to the mode held before LOADING, or becomes PROVISION (SILENT) after a DEREGISTER (15 R788). After a boot load it becomes
PROVISION, with the substate REGISTERED where an ASSIGN_ID has taken effect during the load (02 R90, 04 R232; log 78, DEDUCED). The pace governors go on (16 R856). -/
def leaveLoading (s : State) : State :=
  let s1 := paceResume { s with mode := { s.mode with mode := s.mode.back, sub := s.mode.backSub, dereg := false, boot := false } }
  if s.mode.dereg then enterSilent s1 else s1

/-- What is in force after a boot load: FACTORY or CURRENT. -/
def bootForce (d : ImageData) (s : State) : State :=
  let factory := s.power.straps % 4 == 0
  let s1 := setLoader .idle { s with loader := { s.loader with
    boot := false, version := d.version, partial_ := false, source := if factory then 0 else 1 } }
  if factory then draw1 s1 else s1

/-- Device-scope APPLYING ends. -/
def deviceEnd (s : State) : State :=
  let d := imageInHand s
  let s1 := loadEnd d s
  let s2 := if s.loader.boot then bootForce d s1 else appliedEff d.version false s1
  showSignals (leaveLoading { s2 with loader := { s2.loader with stuck := false } })

/-- Device-scope APPLYING can end. -/
def deviceReady (s : State) : Bool := loaderAt s .applying 0 && allTrained s

/-- DEVICE_APPLYING_END: that of a COMMIT or a ROLLBACK. -/
def execDeviceApplyingEnd (s : State) : Out := viaCore s fun s => if deviceReady s && !s.loader.boot then deviceEnd s else s

/-- BOOT_IMAGE_LOADED: that of the image that the straps select, one that the host supplies included (02 R90, 15 R805). -/
def execBootImageLoaded (s : State) : Out :=
  viaCore s fun s => if deviceReady s && (s.loader.boot || s.loader.stuck) then deviceEnd s else s

/-! ### RESET_SEQUENCE_COMPLETE (02 R105 step 4, R108, 15 R804, R805) -/

/-- The FACTORY image in ROM is checked, by its header and section checks only, and applied (15 R778, 02 R105 step 5); where it fails
is a free value, since no rule gives its bytes (log 97, DESIGN CHOICE). -/
def factoryBoot (rom : RomCheck) (s : State) : State :=
  match rom with
  | .good => deviceStart s
  | .header => commandFails 5 0 (freeWord s 0).toNat (draw1 s)
  | .section_ k => commandFails 6 k (freeWord s 0).toNat (draw1 s)

/-- The boot image load starts, as the straps select it. -/
def startBoot (rom : RomCheck) (s : State) : State :=
  let src := s.power.straps % 4
  if src = 0 then factoryBoot rom { s with loader := { s.loader with boot := true } }
  else if src = 1 then
    let s1 := { s with loader := { s.loader with boot := true } }
    if (directory s).isSome then setLoader .reading s1 else commandFails 22 0 0 s1
  else { s with loader := { s.loader with stuck := true } }

/-- BAR0 and the management target are accessible, and the load starts unless the straps select no image. -/
def sequenceEff (rom : RomCheck) (s : State) : State :=
  if s.mode.mode = .resetting ∧ !s.power.barOpen ∧ s.power.strapped then
    let s1 := { s with power := { s.power with barOpen := true } }
    if s.power.straps % 4 = 3 then s1
    else startBoot rom { s1 with mode := { s1.mode with mode := .loading, back := .provision, backSub := .listen, boot := true } }
  else s

/-- RESET_SEQUENCE_COMPLETE. -/
def execResetSequenceComplete (rom : RomCheck) (s : State) : Out := viaCore s (sequenceEff rom)

/-! ### SCHED (11 R652) -/

/-- Action `n` is done at clock value `c`: ARM clears. -/
def schedDone (n : Nat) (c : DWord) (s : State) : State :=
  let a := R.TIME_SCHED_CTL n
  wr64 (wr (setSched s n .done) a (setBit (rd s a) 31 false)) (R.TIME_SCHED_DONE n) c

/-- An armed action whose clock has reached AT executes. -/
def schedEff (n : Nat) (s : State) : State :=
  if schedState s n = .armed ∧ schedPast s n then
    let s1 := schedDone n (schedClock s n) s
    if rbit s (R.TIME_SCHED_CTL n) 16 then event s1 R.TIME_EVENT 10
    else writeReg (rfld s (R.TIME_SCHED_ADDR n) 2 24 * 4) (rd s (R.TIME_SCHED_DATA n)) s1
  else s

/-- SCHED. -/
def execSched (n : Fin 16) (s : State) : Out := viaCore s (schedEff n)

end Sys2Proof.Machine
end

