-- ==== Sys2Proof/Machine/Dispatch.lean ====
section
/-!
DEFINITION. The meaning of each command: one arm per row of the command table.
-/
namespace Sys2Proof.Machine

def exec (i : Instr) (s : State) : Host.Outcome State Fault Refusal :=
  match i with
  | .vkeepPowerUp => Sys2Proof.Machine.execVkeepPowerUp s
  | .vkeepLow => Sys2Proof.Machine.execVkeepLow s
  | .corePgLow => Sys2Proof.Machine.execCorePgLow s
  | .coreLeavesReset bootSel addrSel flash => Sys2Proof.Machine.execCoreLeavesReset bootSel addrSel flash s
  | .resetN ns acts => Sys2Proof.Machine.execResetN ns acts s
  | .globalSoftReset v => Sys2Proof.Machine.execGlobalSoftReset v s
  | .perstN => Sys2Proof.Machine.execPerstN s
  | .functionLevelReset => Sys2Proof.Machine.execFunctionLevelReset s
  | .d3hotEntry => Sys2Proof.Machine.execD3hotEntry s
  | .d3hotToD0 => Sys2Proof.Machine.execD3hotToD0 s
  | .resetSequenceComplete rom => Sys2Proof.Machine.execResetSequenceComplete rom s
  | .channelTraining ch fitted trains => Sys2Proof.Machine.execChannelTraining ch fitted trains s
  | .bootImageLoaded => Sys2Proof.Machine.execBootImageLoaded s
  | .modeRequest v => Sys2Proof.Machine.execModeRequest v s
  | .modeCommit avs => Sys2Proof.Machine.execModeCommit avs s
  | .frontRoutingDrainEnd front => Sys2Proof.Machine.execFrontRoutingDrainEnd front s
  | .keeperWake => Sys2Proof.Machine.execKeeperWake s
  | .pgTimeout => Sys2Proof.Machine.execPgTimeout s
  | .codeword lane bits pos age => Sys2Proof.Machine.execCodeword lane bits pos age s
  | .convoyHeader => Sys2Proof.Machine.execConvoyHeader s
  | .routeParamsTakeEffect => Sys2Proof.Machine.execRouteParamsTakeEffect s
  | .eqdLoad => Sys2Proof.Machine.execEqdLoad s
  | .assignIdTakesEffect => Sys2Proof.Machine.execAssignIdTakesEffect s
  | .keyInstall => Sys2Proof.Machine.execKeyInstall s
  | .keySlotsEmptied => Sys2Proof.Machine.execKeySlotsEmptied s
  | .reassemblyTimeout tid flow => Sys2Proof.Machine.execReassemblyTimeout tid flow s
  | .servoNoInput d => Sys2Proof.Machine.execServoNoInput d s
  | .mapEntry ecc => Sys2Proof.Machine.execMapEntry ecc s
  | .hem => Sys2Proof.Machine.execHem s
  | .assignId => Sys2Proof.Machine.execAssignId s
  | .assignEqd => Sys2Proof.Machine.execAssignEqd s
  | .routeParams => Sys2Proof.Machine.execRouteParams s
  | .deregister => Sys2Proof.Machine.execDeregister s
  | .wake => Sys2Proof.Machine.execWake s
  | .timeEpoch => Sys2Proof.Machine.execTimeEpoch s
  | .offer => Sys2Proof.Machine.execOffer s
  | .activate => Sys2Proof.Machine.execActivate s
  | .group => Sys2Proof.Machine.execGroup s
  | .retire => Sys2Proof.Machine.execRetire s
  | .segment => Sys2Proof.Machine.execSegment s
  | .allotmentDue ecc => Sys2Proof.Machine.execAllotmentDue ecc s
  | .launchInstantRemoval => Sys2Proof.Machine.execLaunchInstantRemoval s
  | .launchCommit dry u => Sys2Proof.Machine.execLaunchCommit dry u s
  | .windowEnd => Sys2Proof.Machine.execWindowEnd s
  | .registerWaitEnd => Sys2Proof.Machine.execRegisterWaitEnd s
  | .handoffDeadline t => Sys2Proof.Machine.execHandoffDeadline t s
  | .entryVector t ecc => Sys2Proof.Machine.execEntryVector t ecc s
  | .next t ecc => Sys2Proof.Machine.execNext t ecc s
  | .branch t ecc => Sys2Proof.Machine.execBranch t ecc s
  | .call t ecc => Sys2Proof.Machine.execCall t ecc s
  | .ret t ecc => Sys2Proof.Machine.execRet t ecc s
  | .dispatch t ecc => Sys2Proof.Machine.execDispatch t ecc s
  | .idle t => Sys2Proof.Machine.execIdle t s
  | .aluNop t => Sys2Proof.Machine.execAluNop t s
  | .mov t => Sys2Proof.Machine.execMov t s
  | .add t => Sys2Proof.Machine.execAdd t s
  | .sub t => Sys2Proof.Machine.execSub t s
  | .and t => Sys2Proof.Machine.execAnd t s
  | .or t => Sys2Proof.Machine.execOr t s
  | .xor t => Sys2Proof.Machine.execXor t s
  | .shl t => Sys2Proof.Machine.execShl t s
  | .shr t => Sys2Proof.Machine.execShr t s
  | .min t => Sys2Proof.Machine.execMin t s
  | .max t => Sys2Proof.Machine.execMax t s
  | .cmp t => Sys2Proof.Machine.execCmp t s
  | .test t => Sys2Proof.Machine.execTest t s
  | .ioNop t => Sys2Proof.Machine.execIoNop t s
  | .head t => Sys2Proof.Machine.execHead t s
  | .takeRun t => Sys2Proof.Machine.execTakeRun t s
  | .takePart t => Sys2Proof.Machine.execTakePart t s
  | .msg t => Sys2Proof.Machine.execMsg t s
  | .commit t u => Sys2Proof.Machine.execCommit t u s
  | .abandon t => Sys2Proof.Machine.execAbandon t s
  | .droverRestart t v => Sys2Proof.Machine.execDroverRestart t v s
  | .lineHgPreamble n v => Sys2Proof.Machine.execLineHgPreamble n v s
  | .preambleTransfer => Sys2Proof.Machine.execPreambleTransfer s
  | .lineGaspCtl v => Sys2Proof.Machine.execLineGaspCtl v s
  | .lineHgLead v => Sys2Proof.Machine.execLineHgLead v s
  | .linePm n v => Sys2Proof.Machine.execLinePm n v s
  | .receivedFrame p f => Sys2Proof.Machine.execReceivedFrame p f s
  | .pauseTimerEnd p k => Sys2Proof.Machine.execPauseTimerEnd p k s
  | .linkDown p lf rf => Sys2Proof.Machine.execLinkDown p lf rf s
  | .linkUp p => Sys2Proof.Machine.execLinkUp p s
  | .speedTry => Sys2Proof.Machine.execSpeedTry s
  | .detecting => Sys2Proof.Machine.execDetecting s
  | .transmitQueue p => Sys2Proof.Machine.execTransmitQueue p s
  | .transmitFrame p u => Sys2Proof.Machine.execTransmitFrame p u s
  | .pfcGeneration p => Sys2Proof.Machine.execPfcGeneration p s
  | .pauseGeneration p => Sys2Proof.Machine.execPauseGeneration p s
  | .refresh p => Sys2Proof.Machine.execRefresh p s
  | .clientFcCtl p v => Sys2Proof.Machine.execClientFcCtl p v s
  | .clientStatPreset p v => Sys2Proof.Machine.execClientStatPreset p v s
  | .headToken tag u => Sys2Proof.Machine.execHeadToken tag u s
  | .payloadComplete tag granules => Sys2Proof.Machine.execPayloadComplete tag granules s
  | .dispatchStage tag checkFails => Sys2Proof.Machine.execDispatchStage tag checkFails s
  | .cellStall t c => Sys2Proof.Machine.execCellStall t c s
  | .tractCellMap t n v => Sys2Proof.Machine.execTractCellMap t n v s
  | .tractCellReset t v => Sys2Proof.Machine.execTractCellReset t v s
  | .cellResetDone t c => Sys2Proof.Machine.execCellResetDone t c s
  | .enqueue t => Sys2Proof.Machine.execEnqueue t s
  | .queueQWm q v => Sys2Proof.Machine.execQueueQWm q v s
  | .spill q room page u => Sys2Proof.Machine.execSpill q room page u s
  | .spillPageAccepted ch => Sys2Proof.Machine.execSpillPageAccepted ch s
  | .draw q badPrimary badMirror => Sys2Proof.Machine.execDraw q badPrimary badMirror s
  | .drawPageArrived q badBeats corr granules => Sys2Proof.Machine.execDrawPageArrived q badBeats corr granules s
  | .resHalt ch cause => Sys2Proof.Machine.execResHalt ch cause s
  | .bufferQRecover v => Sys2Proof.Machine.execBufferQRecover v s
  | .dmaStart c v => Sys2Proof.Machine.execDmaStart c v s
  | .dmaBeat c r corr => Sys2Proof.Machine.execDmaBeat c r corr s
  | .ringEnable rx r v => Sys2Proof.Machine.execRingEnable rx r v s
  | .ringDisable rx r v => Sys2Proof.Machine.execRingDisable rx r v s
  | .ringStopped rx r => Sys2Proof.Machine.execRingStopped rx r s
  | .ringDbTail rx r v => Sys2Proof.Machine.execRingDbTail rx r v s
  | .descriptorFetch rx r reply => Sys2Proof.Machine.execDescriptorFetch rx r reply s
  | .transmitRingFrame r reply => Sys2Proof.Machine.execTransmitRingFrame r reply s
  | .ringReceiveFrame r u => Sys2Proof.Machine.execRingReceiveFrame r u s
  | .writeBack rx r => Sys2Proof.Machine.execWriteBack rx r s
  | .registerWrite off be v => Sys2Proof.Machine.execRegisterWrite off be v s
  | .rcRead off len => Sys2Proof.Machine.execRcRead off len s
  | .loRead off len => Sys2Proof.Machine.execLoRead off len s
  | .mgtWrite addr off data => Sys2Proof.Machine.execMgtWrite addr off data s
  | .mgtSetOffset addr off => Sys2Proof.Machine.execMgtSetOffset addr off s
  | .mgtRead addr => Sys2Proof.Machine.execMgtRead addr s
  | .deliveryCommit n => Sys2Proof.Machine.execDeliveryCommit n s
  | .intcCompletion n k v => Sys2Proof.Machine.execIntcCompletion n k v s
  | .intcRetarget v => Sys2Proof.Machine.execIntcRetarget v s
  | .intcSrcCfg src v => Sys2Proof.Machine.execIntcSrcCfg src v s
  | .intcSwi v => Sys2Proof.Machine.execIntcSwi v s
  | .intcHtIdle v => Sys2Proof.Machine.execIntcHtIdle v s
  | .intcHtSummary n => Sys2Proof.Machine.execIntcHtSummary n s
  | .intcHtState v => Sys2Proof.Machine.execIntcHtState v s
  | .intcWatcher v => Sys2Proof.Machine.execIntcWatcher v s
  | .holdOffTimerEnd g => Sys2Proof.Machine.execHoldOffTimerEnd g s
  | .stranded n => Sys2Proof.Machine.execStranded n s
  | .checkStart e v => Sys2Proof.Machine.execCheckStart e v s
  | .checkAbort e v => Sys2Proof.Machine.execCheckAbort e v s
  | .checkBeat e r corr => Sys2Proof.Machine.execCheckBeat e r corr s
  | .tallyEnable v => Sys2Proof.Machine.execTallyEnable v s
  | .tallyDisable v => Sys2Proof.Machine.execTallyDisable v s
  | .tallyDump skips => Sys2Proof.Machine.execTallyDump skips s
  | .tractCellPreset t c v => Sys2Proof.Machine.execTractCellPreset t c v s
  | .tractPerfPreset t v => Sys2Proof.Machine.execTractPerfPreset t v s
  | .perfAccPreset v => Sys2Proof.Machine.execPerfAccPreset v s
  | .snap t v => Sys2Proof.Machine.execSnap t v s
  | .perfSampleW0 => Sys2Proof.Machine.execPerfSampleW0 s
  | .timeServoEnable d v => Sys2Proof.Machine.execTimeServoEnable d v s
  | .resume d v => Sys2Proof.Machine.execResume d v s
  | .incrWrite d hi v => Sys2Proof.Machine.execIncrWrite d hi v s
  | .switch v => Sys2Proof.Machine.execSwitch v s
  | .switchDone => Sys2Proof.Machine.execSwitchDone s
  | .timeTxqW0 => Sys2Proof.Machine.execTimeTxqW0 s
  | .timeTodRead d => Sys2Proof.Machine.execTimeTodRead d s
  | .winDone n => Sys2Proof.Machine.execWinDone n s
  | .schedArm n v => Sys2Proof.Machine.execSchedArm n v s
  | .sched n => Sys2Proof.Machine.execSched n s
  | .pps => Sys2Proof.Machine.execPps s
  | .todMessage => Sys2Proof.Machine.execTodMessage s
  | .scStateChange codes => Sys2Proof.Machine.execScStateChange codes s
  | .keeperScCtl n filt v => Sys2Proof.Machine.execKeeperScCtl n filt v s
  | .alarm => Sys2Proof.Machine.execAlarm s
  | .keeperAlarmCtl v => Sys2Proof.Machine.execKeeperAlarmCtl v s
  | .rtcSet => Sys2Proof.Machine.execRtcSet s
  | .todHoldover => Sys2Proof.Machine.execTodHoldover s
  | .keeperLogSel v => Sys2Proof.Machine.execKeeperLogSel v s
  | .xtalStop back => Sys2Proof.Machine.execXtalStop back s
  | .paceWindowEnd t measured read write => Sys2Proof.Machine.execPaceWindowEnd t measured read write s
  | .raiseCredited t => Sys2Proof.Machine.execRaiseCredited t s
  | .paceRestart t v write => Sys2Proof.Machine.execPaceRestart t v write s
  | .tempUpdate readings => Sys2Proof.Machine.execTempUpdate readings s
  | .mdioAddress port devad data => Sys2Proof.Machine.execMdioAddress port devad data s
  | .mdioWrite port devad data => Sys2Proof.Machine.execMdioWrite port devad data s
  | .mdioReadInc port devad data => Sys2Proof.Machine.execMdioReadInc port devad data s
  | .mdioRead port devad data => Sys2Proof.Machine.execMdioRead port devad data s
  | .i2cWrite port devad data => Sys2Proof.Machine.execI2cWrite port devad data s
  | .i2cRead port devad data => Sys2Proof.Machine.execI2cRead port devad data s
  | .sidebandDone rdata => Sys2Proof.Machine.execSidebandDone rdata s
  | .put index => Sys2Proof.Machine.execPut index s
  | .remove index => Sys2Proof.Machine.execRemove index s
  | .putDefault index => Sys2Proof.Machine.execPutDefault index s
  | .discard => Sys2Proof.Machine.execDiscard s
  | .classCommit => Sys2Proof.Machine.execClassCommit s
  | .cancel => Sys2Proof.Machine.execCancel s
  | .applying => Sys2Proof.Machine.execApplying s
  | .commitInstant => Sys2Proof.Machine.execCommitInstant s
  | .entriesReturned => Sys2Proof.Machine.execEntriesReturned s
  | .classPriv n rate v => Sys2Proof.Machine.execClassPriv n rate v s
  | .verify scope tract => Sys2Proof.Machine.execVerify scope tract s
  | .commitDevice => Sys2Proof.Machine.execCommitDevice s
  | .commitTract tract => Sys2Proof.Machine.execCommitTract tract s
  | .commitRules => Sys2Proof.Machine.execCommitRules s
  | .rollback scope tract => Sys2Proof.Machine.execRollback scope tract s
  | .floor => Sys2Proof.Machine.execFloor s
  | .imageStaged r => Sys2Proof.Machine.execImageStaged r s
  | .imageChecked => Sys2Proof.Machine.execImageChecked s
  | .deviceApplyingEnd => Sys2Proof.Machine.execDeviceApplyingEnd s
  | .reloadCommit => Sys2Proof.Machine.execReloadCommit s
  | .flashDone ok step => Sys2Proof.Machine.execFlashDone ok step s
  | .perstNRelease => Sys2Proof.Machine.execPerstNRelease s
  | .bar2Access off write len u => Sys2Proof.Machine.execBar2Access off write len u s
  | .msiXMask w => Sys2Proof.Machine.execMsiXMask w s
  | .floorDone => Sys2Proof.Machine.execFloorDone s
  | .localOrRemoteFault p lf rf => Sys2Proof.Machine.execLocalOrRemoteFault p lf rf s
  | .keyMsg => Sys2Proof.Machine.execKeyMsg s
  | .badCmd v => Sys2Proof.Machine.execBadCmd v s
  | .badOp v => Sys2Proof.Machine.execBadOp v s

end Sys2Proof.Machine
end

