-- ==== Sys2Proof/Machine/Tick.lean ====
section
/-!
DEFINITION. One 3.2 ns tick of the time unit, which is what a step on an empty queue does (log 3, DESIGN CHOICE): clocks, the Keeper, what ticks charge to
the drover ledgers (14 R739, R740), the tick events of cells and tracts (14 R725, R734), transmissions that end, and the reservoir rates.
-/
namespace Sys2Proof.Machine

/-! ### Drover ledgers -/

/-- The class that a tick of drover `t` is charged to; none for an open tick (14 R739). -/
def tickClass (s : State) (t : Nat) : Option Nat :=
  let d := drover s t
  match d.st with
  | .stopped => some 0
  | .reloading => some 1
  | .idle => some (if d.waiting.isEmpty then 3 else 2)
  | .running => if waitsQueue s t then some 4 else if waitsGate s t then some 5 else none

/-- The last of the tags, the one of the word in progress, waits one tick more. -/
def tagWaits : List Tag → List Tag
  | [] => []
  | [g] => [{ g with wait := g.wait + 1 }]
  | g :: l => g :: tagWaits l

/-- A tick of drover `t`. -/
def tickDrover (s : State) (t : Nat) : State :=
  let d := drover s t
  match tickClass s t with
  | none => setDrover s t { d with live := d.live + 1 }
  | some k =>
    let s1 := if decide (4 ≤ k) && d.tagNow then setDrover s t { d with tags := tagWaits d.tags } else s
    ledgerAdd s1 t k 1

/-! ### Cells and tracts -/

/-- The cell holds an admitted head token. -/
def cellBusy (s : State) (t c : Nat) : Bool :=
  (s.flights.any fun f => f.loc == .cell && f.tract == t && f.cell == c) || s.ghosts.any fun g => g.tract == t && g.cell == c

/-- Dispatch of the cell waits for its switch to accept (log 36, DEDUCED). -/
def cellWaits (s : State) (t c : Nat) : Bool :=
  s.flights.any fun f => f.loc == .cell && f.tract == t && f.cell == c && f.full && f.fate.isSome && !mustWait s f

/-- A tick of cell `c` of tract `t`. -/
def tickCell (t : Nat) (s : State) (c : Nat) : State :=
  if cellBusy s t c then
    let s1 := cellEvent s t c .busy 1
    if cellWaits s t c then cellEvent s1 t c .outWait 1 else s1
  else cellEvent s t c .empty 1

/-- The crossbar of tract `t` holds a head token that its cell has not accepted (01 R70, log 36, DEDUCED). -/
def xbarHolds (s : State) (t : Nat) : Bool :=
  s.flights.any fun f => f.loc == .front && !s.mode.drain.contains f.tok.port && (routeOf s f.tok).1 == t

/-- A queue of tract `t` is under pressure. -/
def tractPressed (s : State) (t : Nat) : Bool := s.queues.any fun e => qTract e.1 == t && e.2.press

/-- The crossbar of tract `t` held a token at this tick: the governor's window counts it (16 R852). -/
def holdNoted (s : State) (t : Nat) : State := setPace s t { pace s t with held := (pace s t).held + 1 }

/-- A tick of tract `t`. -/
def tickTract (s : State) (t : Nat) : State :=
  let s1 := (List.range 18).foldl (tickCell t) s
  let s2 := if xbarHolds s1 t then holdNoted (tractEvent s1 t .xbarHold 1) t else s1
  let s3 := if tractPressed s2 t then tractEvent s2 t .pressure 1 else s2
  let s4 := if (pace s3 t).setpoint < 720 then tractEvent s3 t .railLow 1 else s3
  tickDrover s4 t

/-! ### The tick -/

/-- BURST_EN rises as the first of its edges is reached, and falls as its second is, unless a burst about to be launched joins on (06 R357, R358,
R363); the bursts whose rise has come are counted (05 R313). -/
def tickEdges (s : State) : State :=
  let s := countRises s
  match s.gate.edges with
  | [] => s
  | e :: l =>
    let now := reachNow s
    let s1 := if !s.gate.high && decide (0 ≤ lead now e.1) then
        emit { s with gate := { s.gate with high := true } } (.burstEn true e.1)
      else s
    if 0 ≤ lead now e.2 ∧ !joins s e.2 then emit { s1 with gate := { s1.gate with high := false, edges := l } } (.burstEn false e.2) else s1

/-- A tick of the core. -/
def tickCore (s : State) : State := resRateTick (txTick (todDeadline (ppsObserve (ppsTick (tickEdges (clocksTick ((tracts s).foldl tickTract s)))))))

/-- What the Keeper tick that has begun still owes, and the record of a crystal that has stopped, come about before time goes on
(16 R818-R846, R866). -/
def tickDue (s : State) : State := keeperWakeEff (quietDue (keeperDue s))

/-- One tick of the time unit. -/
def tick (s : State) : State :=
  let s1 := keeperRun { tickDue s with now := s.now + 1 }
  settle (if running s1 then tickCore s1 else if falling s1 then enterDormant s1 else s1)

end Sys2Proof.Machine
end

