-- ==== Sys2Proof/WellFormed.lean ====
section
/-!
DEFINITION. The commands that a sender can send: each operand lies where the spec puts it. `exec` is total on every command; what a sender
keeps to is stated here and nowhere assumed.
-/
namespace Sys2Proof

/-- Granules that a command takes are distinct granules of the cistern (08 R440). -/
def granulesWf (g : List Nat) : Bool := decide g.Nodup && g.all fun n => decide (n < 786432)

/-- The 64-bit words that an upset names are numbers of words of the 192 MiB of the cistern (08 R440, R442). -/
def Upset.wf (u : Upset) : Bool := u.bad.all fun w => decide (w < 25165824)

/-- The nodes and entries that a replica upset names exist (07 R389, R406). -/
def ReplicaUpset.wf (u : ReplicaUpset) : Bool := (u.nodes.all fun n => decide (n < 64)) && u.rules.all fun n => decide (n < 16384)

/-- The command is one that a sender can send. -/
def Instr.wf : Instr → Bool
  -- a pulse under 1 us never resets, one of 10 us or more always does (17 R893)
  | .resetN ns acts => if ns < 1000 then !acts else if 10000 ≤ ns then acts else true
  -- a channel has no memory or one of the capacities of 08 R459, and there are twelve geometries (08 R461)
  | .channelTraining _ fitted trains => (fitted == 0 || fitted == 8 || fitted == 16 || fitted == 32) && trains.all fun i => decide (i < 12)
  | .modeCommit avs => avs.all fun a => decide (a.1 < 8)
  -- a codeword boundary is a bit of the 5600 (03 R134)
  | .codeword _ _ pos _ => decide (pos < 5600)
  -- the table holds up to 65,536 entries (05 R303)
  | .mapEntry ecc => ecc.all fun i => decide (i < 65536)
  | .allotmentDue ecc => ecc.all fun i => decide (i < 65536)
  | .launchCommit _ u => u.wf
  | .commit _ u => u.wf
  | .transmitFrame _ u => u.wf
  | .ringReceiveFrame _ u => u.wf
  -- the pages of the largest channel (08 R462)
  | .spill _ _ page u => decide (page < 7864320) && u.wf
  -- a frame has at least one octet (09 R490)
  | .receivedFrame _ f => !f.bytes.isEmpty
  | .headToken _ u => u.wf
  | .payloadComplete _ g => granulesWf g
  -- a page of 4,096 bytes is 512 beats of 64 data bits (08 R451, R459)
  | .drawPageArrived _ bad _ g => (bad.all fun b => decide (b < 512)) && granulesWf g
  -- BAR0 is 64 MiB, BAR2 256 MiB (00 R24)
  | .registerWrite off _ _ => decide (off < 67108864)
  | .rcRead off len => decide (0 < len) && decide (off + len ≤ 67108864)
  | .loRead off len => decide (0 < len) && decide (off + len ≤ 67108864)
  | .bar2Access off w len u =>
      (match w with | some b => b.length == len | none => true) && decide (0 < len) && decide (off + len ≤ 268435456) && u.wf
  | .scStateChange codes => codes.length == 8
  | .tempUpdate r => r.length == 16
  -- storing an image takes three steps that can fail (15 R802, R803)
  | .flashDone _ step => decide (1 ≤ step) && decide (step ≤ 3)
  | _ => true

end Sys2Proof
end

