-- ==== Sys2Proof/Safety.lean ====
section
/-!
DEFINITION. What the statements say of a state and of a run: well-formed queues, the canonical form of the device's memory and registers, the
exact frame of a step, and runs that no command stops.
-/
namespace Sys2Proof.Machine

/-- Every waiting command is one that a sender can send. -/
def State.queueWf (s : State) : Bool := s.pending.all Instr.wf

/-- The command lies inside the BARs of the function, which is all that keeps it from a fault. -/
def inBars : Instr → Bool
  | .registerWrite off _ _ => decide (off < bar0End)
  | .rcRead off len => decide (off + len ≤ bar0End)
  | .loRead off len => decide (off + len ≤ bar0End)
  | .bar2Access off w len _ => decide (off + (match w with | some b => b.length | none => len) ≤ bar2End)
  | _ => true

/-- Nothing but what the interrupt controller samples differs. -/
def intcOnly (s t : State) : Prop := t = { s with intc := t.intc }

/-- Nothing differs but registers of the list and what the interrupt controller samples: every other register, and every other piece of
state, is as it was. -/
def regsOnly (s t : State) (l : List Nat) : Prop :=
  t = { s with regs := t.regs, intc := t.intc } ∧ ∀ a, a ∉ l → rd t a = rd s a

/-- As `regsOnly`, with outputs added to the wire. -/
def answersOnly (s t : State) (l : List Nat) (out : List Output) : Prop :=
  t = { s with regs := t.regs, intc := t.intc, wire := s.wire ++ out } ∧ ∀ a, a ∉ l → rd t a = rd s a

/-- The registers of a block's fault record (02 R112). -/
def recordOf (b : Block) : List Nat :=
  [b.base, b.base + 4, b.base + 8, b.base + 0x10, b.base + 0x14, b.base + 0x18, b.base + 0x1C]

/-- From `s` to `t` the block has recorded one fault with code `code`: its CODE bit and FIRST_VALID are set, and it has counted (02 R113,
R114). -/
def recorded (s t : State) (b : Block) (code : Nat) : Prop :=
  rbit t b.base code = true ∧ rbit t b.base 31 = true ∧ rd t (b.base + 4) = sat32 ((rd s (b.base + 4)).toNat + 1)

/-- The interrupt controller has sampled the state as it stands: its last sample is the lines asserted, the STRANDED line included (12 R660,
R665), the strand time of a target runs exactly while its message is wanted and deferred and the time has not stopped at its limit, and it has
stopped only for a target whose STRANDED bit is 1 (12 R693, R695). -/
def State.sampled (s : State) : Prop :=
  s.intc.last = lines s ∧ s.intc.strandLine = (rd s R.INTC_STRANDED != 0) ∧
    (∀ n, n < 32 → (look none s.intc.strand n).isSome = strandRuns s n) ∧
    ∀ n, s.intc.strandOff.contains n = true → rbit s R.INTC_STRANDED n = true

/-- A run of `k` steps that no command stops. -/
def safeRun : Nat → State → Prop
  | 0, _ => True
  | k + 1, s => ∃ t, step s = .next t ∧ safeRun k t

end Sys2Proof.Machine
end

