-- ==== Sys2Proof/Certificates/Slice0/Obligations.lean ====
section
/-!
DEFINITION. The statements about the device, one for each family of commands and each kind of state, and what every step keeps.
-/
open Sys2Proof Sys2Proof.Machine

/-! ### The queue of commands and the tick -/

/-- For every command and state, a step on the state with the command at the front of its queue is the command's meaning on the state with
the queue's rest. The queue is the model's (log 5). -/
def Obligations.StepRunsFront : Prop :=
  ∀ (s : State) (c : Instr) (rest : List Instr), step { s with pending := c :: rest } = exec c { s with pending := rest }

/-- On an empty queue a step is one 3.2 ns tick of the time unit (the model's choice, log 3): what the Keeper's last tick owes comes about
first (the model's order, logs 66 and 69), time advances by one tick, and the queue and the fuses stay. The Keeper counts a tick whenever
32,768 Hz has one, while its supply and its crystal run. With the core off no register outside the Keeper changes. With the core running,
the reach counter and the domains advance by their increments once the tracts have ticked; each fitted tract's drover charges the tick to
its class, or keeps it open while the word in progress runs; and BURST_EN rises as the rise of the first pair of edges is reached and
falls as its fall is, unless a burst about to be launched joins on. The tick after a commit of DORMANT loses everything outside the Keeper
and drives CORE_EN low (the model's choice of the instant, log 118). -/
def Obligations.IdleStepTicks : Prop :=
  ∀ s : State, s.pending = [] →
    let k := tickDue s
    let u := keeperRun { k with now := s.now + 1 }
    let v := (tracts u).foldl tickTract u
    let x := countRises (clocksTick v)
    ∃ t, step s = .next t ∧ t.now = s.now + 1 ∧ t.pending = [] ∧ t.fuses = s.fuses ∧
      t.keeper = u.keeper ∧ t.keeper.ticks = k.keeper.ticks + b2n (k.keeper.xtal && k.power.vkeep && decide (312500000 ≤ k.keeper.frac + 32768)) ∧
      (running u = false → falling u = false → t.regs = u.regs ∧ t.time = s.time ∧ t.wire = k.wire ∧
        ∀ a, inKeeper a = false → rd t a = rd s a) ∧
      (running u = true →
        t.time.reach = (if s.time.reachSet = true then s.time.reach + ((rd64 v R.TIME_REACH_INCR).setWidth 48).setWidth 88 else s.time.reach) ∧
        (∀ d : Bool, (d = true → hasB s = true) →
          (dom t d).cnt = (dom s d).cnt + (domIncr v d).setWidth 88 ∧ (dom t d).idle = (dom s d).idle + 1) ∧
        (∀ n ∈ tracts u, ∃ w, w = { u with regs := w.regs, perf := w.perf, paces := w.paces, drovers := w.drovers } ∧ drover w n = drover u n ∧
          match tickClass w n with
          | none => drover t n = { drover u n with live := (drover u n).live + 1 } ∧ (drover u n).st = .running
          | some c => look 0 (drover t n).ledger.cls c = (look 0 (drover u n).ledger.cls c + 1) % 2 ^ 48 ∧
              (∀ j, j ≠ c → look 0 (drover t n).ledger.cls j = look 0 (drover u n).ledger.cls j) ∧ (drover t n).live = (drover u n).live) ∧
        (s.gate.edges = [] → t.gate.edges = [] ∧ t.gate.high = s.gate.high) ∧
        (∀ e l, s.gate.edges = e :: l →
          (0 ≤ lead (reachNow x) e.1 → s.gate.high = false → Output.burstEn true e.1 ∈ t.wire) ∧
          (0 ≤ lead (reachNow x) e.2 → joins x e.2 = false →
            Output.burstEn false e.2 ∈ t.wire ∧ t.gate.high = false ∧ t.gate.edges = l) ∧
          (lead (reachNow x) e.2 < 0 ∨ joins x e.2 = true →
            t.gate.high = (s.gate.high || decide (0 ≤ lead (reachNow x) e.1)) ∧ t.gate.edges = s.gate.edges)) ∧
        t.gate.rises = s.gate.rises.filter fun r => decide (lead (reachNow x) r < 0)) ∧
      (falling u = true → t.power.coreUp = false ∧ t.power.coreEn = false ∧ t.power.nextCause = 8 ∧ t.mode = { mode := .dormant } ∧
        t.wire = u.wire ++ signalsEnd u ++ [.coreEn false] ∧ t.queues = [] ∧ t.table = [] ∧ t.flights = [] ∧ t.rings = [] ∧
        (∀ a, inKeeper a = true → rd t a = rd u a) ∧ ∀ a, inKeeper a = false → rd t a = regReset a)

/-- Every command completes in every state, unless it is an access to an address outside BAR0 or BAR2, which faults by name; none is
refused. That a command whose conditions do not hold leaves the state as it is, and completes, is the model's choice (logs 2 and 10). -/
def Obligations.OnlyBarRangesStop : Prop :=
  ∀ (c : Instr) (s : State),
    (inBars c = true → ∃ t, exec c s = .next t) ∧
    (inBars c = false → exec c s = .fault .outsideBar0 ∨ exec c s = .fault .outsideBar2)

/-! ### Fault records (02 R112-R117) -/

/-- A fault of any block sets its CODE bit and FIRST_VALID and counts; while FIRST_VALID was 0 the tag, the identification and the reach
time are captured, while it was 1 they stay. Of two faults of a block at one instant, both set their CODE bits and count, and one of them
is captured. A write of 1 to FIRST_VALID at the instant of a fault leaves FIRST_VALID 1, the CODE bit set, and a fault of that instant
captured. Nothing outside the block's record changes, but what the controller keeps of the instant's faults. -/
def Obligations.FaultRecordCaptures : Prop :=
  let shows (t : State) (b : Block) (tag : Word) (ident time : DWord) : Prop :=
    rd t (b.base + 8) = tag ∧ rd64 t (b.base + 0x10) = ident ∧ rd64 t (b.base + 0x18) = time
  (∀ (s : State) (b : Block) (code inst : Nat) (ident : DWord), 1 ≤ code → code ≤ 30 →
    (∀ p, b = .client p → p < 16) → (∀ t, b = .tract t → t < 8) →
    let u := fault s b code inst ident
    let tag (code inst : Nat) : Word := pack [(24, b.id), (16, code), (0, inst)]
    recorded s u b code ∧
    (rbit s b.base 31 = false → shows u b (tag code inst) ident (reachNow s)) ∧
    (rbit s b.base 31 = true → shows u b (rd s (b.base + 8)) (rd64 s (b.base + 0x10)) (rd64 s (b.base + 0x18))) ∧
    (∀ a, a ∉ recordOf b → rd u a = rd s a) ∧
    u = { s with regs := u.regs, intc := u.intc } ∧ u.intc = { s.intc with faults := u.intc.faults } ∧
    (∀ (code2 inst2 : Nat) (ident2 : DWord), 1 ≤ code2 → code2 ≤ 30 →
      let v := fault u b code2 inst2 ident2
      rbit v b.base code = true ∧ rbit v b.base code2 = true ∧ rbit v b.base 31 = true ∧
      rd v (b.base + 4) = sat32 ((rd s (b.base + 4)).toNat + 2) ∧
      (rbit s b.base 31 = false → shows v b (tag code inst) ident (reachNow s) ∨ shows v b (tag code2 inst2) ident2 (reachNow s))) ∧
    (∀ v : Word, bit v 31 = true → barOpen u = true → absentAt u b.base = false →
      let k := if inKeeper b.base then keeperDue u else u
      ∃ t, exec (.registerWrite b.base 0xF v) u = .next t ∧ rbit t b.base code = true ∧ rbit t b.base 31 = true ∧
        rd t (b.base + 4) = rd k (b.base + 4) ∧ ∃ x ∈ faultsNow k, x.base = b.base ∧ shows t b x.tag x.ident x.time))

/-! ### Interrupts (chapter 12) -/

/-- INTC_SRC_CFG_s and INTC_RETARGET move a source that exists, and with MASK or REDELIVER set clear its ANNOUNCED; for a source that does
not exist nothing changes. INTC_HT_IDLE sets bits, INTC_HT_STATE takes the value, INTC_SWI sets software private bits, and INTC_WATCHER
moves the watcher and clears the old watcher's STRANDED source. A read of INTC_HT_SUMMARY_n answers the summary, clears the target's IDLE
bit, and counts in INTC_HT_CNT_EMPTY_n exactly when neither the summary nor the unmasked private sources show anything. -/
def Obligations.InterruptTargetRegisters : Prop :=
  (
    ∀ (s : State) (v : Word), barOpen s = true →
      (∀ src : Fin 1024, ∃ t, exec (.intcSrcCfg src v) s = .next t ∧ regsOnly s t [R.INTC_SRC_CFG src] ∧
        (sourceExists s src = true → rd t (R.INTC_SRC_CFG src) &&& 0x807F001F = v &&& 0x807F001F ∧
          (bit v 31 = true → src.val ∉ t.intc.ann)) ∧
        (sourceExists s src = false → rd t (R.INTC_SRC_CFG src) = rd s (R.INTC_SRC_CFG src))) ∧
      (∃ t, exec (.intcRetarget v) s = .next t ∧ regsOnly s t [R.INTC_SRC_CFG (fld v 0 10)] ∧
        (sourceExists s (fld v 0 10) = true → srcTarget t (fld v 0 10) = fld v 16 5 ∧ (bit v 31 = true → fld v 0 10 ∉ t.intc.ann)) ∧
        (sourceExists s (fld v 0 10) = false → rd t (R.INTC_SRC_CFG (fld v 0 10)) = rd s (R.INTC_SRC_CFG (fld v 0 10)))) ∧
      (∃ t, exec (.intcSwi v) s = .next t ∧ intcOnly s t ∧
        ∀ i, i < 16 → bit v i = true → (look 0 t.intc.priv (fld v 16 5)).testBit i = true) ∧
      (∃ t, exec (.intcHtIdle v) s = .next t ∧ regsOnly s t [R.INTC_HT_IDLE] ∧ rd t R.INTC_HT_IDLE = rd s R.INTC_HT_IDLE ||| v) ∧
      (∃ t, exec (.intcHtState v) s = .next t ∧ regsOnly s t [R.INTC_HT_STATE] ∧ rd t R.INTC_HT_STATE = v) ∧
      (∃ t, exec (.intcWatcher v) s = .next t ∧ regsOnly s t [R.INTC_WATCHER] ∧
        (rfld s R.INTC_WATCHER 0 5 ≠ fld v 0 5 → rd t R.INTC_WATCHER = BitVec.ofNat 32 (fld v 0 5) ∧
          (look 0 t.intc.priv (rfld s R.INTC_WATCHER 0 5)).testBit 16 = false))) ∧
  (
    ∀ (s : State) (n : Fin 32), barOpen s = true →
      ∃ t, exec (.intcHtSummary n) s = .next t ∧
        answersOnly s t [R.INTC_HT_IDLE, R.INTC_HT_CNT_EMPTY n] [.readData (leBytes 4 (summaryView s n).toNat) false] ∧
        rbit t R.INTC_HT_IDLE n = false ∧
        rd t (R.INTC_HT_CNT_EMPTY n) =
          if summaryView s n = 0 ∧ privShown s n = 0 then sat32 ((rd s (R.INTC_HT_CNT_EMPTY n)).toNat + 1) else rd s (R.INTC_HT_CNT_EMPTY n))

/-- A write of 1 to a bank of target n completes each source that is targeted at n: ANNOUNCED clears, and pending clears unless the line
is still asserted. Sources targeted elsewhere, or written 0, keep both. A write of 1 to a private bit completes it in the same way. -/
def Obligations.CompletionClearsSources : Prop :=
  ∀ (s : State) (n : Fin 32) (v : Word), barOpen s = true →
    (∀ k : Fin 32, ∃ t, exec (.intcCompletion n (some k) v) s = .next t ∧ intcOnly s t ∧
      (∀ b, b < 32 → bit v b = true → srcTarget s (32 * k + b) = n →
        (32 * k.val + b) ∉ t.intc.ann ∧ ((32 * k.val + b) ∈ t.intc.pend ↔ (32 * k.val + b) ∈ lines s)) ∧
      (∀ src, ¬(src / 32 = k.val ∧ bit v (src % 32) = true ∧ srcTarget s src = n) →
        (src ∈ t.intc.ann ↔ src ∈ s.intc.ann) ∧ (src ∈ s.intc.pend → src ∈ t.intc.pend))) ∧
    (∃ t, exec (.intcCompletion n none v) s = .next t ∧ intcOnly s t ∧
      (∀ i, i ≠ 16 → (look 0 t.intc.priv n).testBit i = ((look 0 s.intc.priv n).testBit i && !(decide (i < 32) && bit v i))) ∧
      (rd s R.INTC_STRANDED = 0 → bit v 16 = true → (look 0 t.intc.priv n).testBit 16 = false))

/-- When a message for target n is wanted and not deferred, and no target that has lost to n still waits, its delivery puts the vector's
address and data on the bus, counts it, and announces every source shown in the target's bank, held off or not, and every unmasked private
source pending (that a held-off source is announced too is the model's reading, log 77). It takes the state as it was before the register
accesses of its instant, and one of those that has cleared a source's ANNOUNCED leaves it clear (the model's reading of R686, log 140). A
target that has lost to n and still waits goes first: then n's delivery does nothing (the model's arbiters, log 1). -/
def Obligations.DeliveryAnnounces : Prop :=
  ∀ (s : State) (n : Fin 32), running s = true →
    let v := beforeWrites s
    let off := (accessesOf s).cleared
    wanted v n = true → deferred v n = false →
    ((∀ b, s.intc.before = some b → b.at_ ≠ s.now) → v = s ∧ off = []) ∧
    ((∃ x ∈ s.turns, x.at_ = .message ∧ x.winner = n.val ∧ wanted v x.loser = true ∧ deferred v x.loser = false) →
      ∃ t, exec (.deliveryCommit n) s = .next t ∧ intcOnly s t) ∧
    ((∀ x ∈ s.turns, x.at_ = .message → x.winner = n.val → wanted v x.loser = true → deferred v x.loser = true) →
    ∃ t, exec (.deliveryCommit n) s = .next t ∧
      answersOnly { s with turns := t.turns } t [R.INTC_HT_CNT_MSG n]
        [.msix 0 n (look {} s.host.vectors n).addr (look {} s.host.vectors n).data] ∧
      (∀ m, m < 32 → m ≠ n.val → wanted v m = true → deferred v m = false → (⟨.message, n, m⟩ : Turn) ∈ t.turns) ∧
      rd t (R.INTC_HT_CNT_MSG n) = sat32 ((rd s (R.INTC_HT_CNT_MSG n)).toNat + 1) ∧
      (∀ src, src ∈ shown v n → src ∉ off → src ∈ t.intc.ann) ∧ (∀ src, src ∈ t.intc.ann → src ∈ s.intc.ann ∨ src ∈ shown v n ∧ src ∉ off) ∧
      ∀ i, i < 17 → (privShown v n).getLsbD i = true → 1024 + 32 * n.val + i ∉ off → (look 0 t.intc.privAnn n).testBit i = true)

/-- HOLD_OFF_TIMER_END at or after the timer's end stops it, and a source of the group that is shown and not announced is wanted then.
STRANDED at LIMIT sets the target's bit, stops its strand time and records STRANDED in INTC. A write to the MSI-X table outside D3hot, and
to its control, takes effect, and an entry reads as written; a read of the pending-bit array shows the targets whose message is wanted and
held by vector n's mask or the function mask alone (the model's reading, log 135), and a configuration register reads and takes what its
layout allows (the model's layout of the registers, log 131). -/
def Obligations.InterruptTimersEnd : Prop :=
  (∀ (s : State) (g : Fin 128) (e : Nat), running s = true → look none s.intc.timers g = some e → e ≤ 2 * s.now →
    ∃ t, exec (.holdOffTimerEnd g) s = .next t ∧ intcOnly s t ∧ look none t.intc.timers g = none ∧
      ∀ n src, src ∈ shown s n → srcGroup s src = g → src ∉ s.intc.ann → wanted t n = true) ∧
  (∀ (s : State) (n : Fin 32), running s = true → strandDue s n = true →
    ∃ t, exec (.stranded n) s = .next t ∧ regsOnly s t (R.INTC_STRANDED :: recordOf .intc) ∧
      rd t R.INTC_STRANDED = rd s R.INTC_STRANDED ||| oneHot n ∧ recorded s t .intc 1 ∧ look none t.intc.strand n = none) ∧
  (∀ (s : State) (w : FunctionAccess), running s = true → s.host.perst = false → (toBar4 w = true → s.host.d3 = false) →
    ∃ t, exec (.msiXMask w) s = .next t ∧ t = { s with host := t.host, wire := t.wire, intc := t.intc } ∧
      match w with
      | .entry n a d m => look {} t.host.vectors n = ⟨a, d, m⟩ ∧ t.host = { s.host with vectors := t.host.vectors } ∧ t.wire = s.wire ∧
          ∀ k, k ≠ n.val → look {} t.host.vectors k = look {} s.host.vectors k
      | .functionMask on => t.host = { s.host with fmask := on } ∧ t.wire = s.wire
      | .enable on => t.host = { s.host with msixOn := on } ∧ t.wire = s.wire
      | .readEntry n => t.host = s.host ∧ t.wire = s.wire ++ [.readData (leBytes 8 (look {} s.host.vectors n).addr.toNat ++
          leBytes 4 (look {} s.host.vectors n).data.toNat ++ leBytes 4 (b2n (look {} s.host.vectors n).masked)) false]
      | .readPending => t.host = s.host ∧ t.wire = s.wire ++ [.readData (leBytes 4 (pendingBits s).toNat) false] ∧
          ∀ n, n < 32 → (bit (pendingBits s) n = true ↔ wanted s n = true ∧ rbit s R.INTC_HT_STATE n = false ∧ s.host.msixOn = true ∧
            ((look {} s.host.vectors n).masked = true ∨ s.host.fmask = true))
      | .config r none => t.host = s.host ∧ t.wire = s.wire ++ [.configData (configRead s r)]
      | .config r (some v) => t.wire = s.wire ∧
          t.host = if r = .msixCtl then { s.host with msixOn := bit v 31, fmask := bit v 30 }
            else { s.host with cfg := configWrite v s.host.cfg r })

/-! ### Resets, supplies and modes (chapters 02, 10, 16, 17) -/

/-- RESET_N held low for 10 us, a CORE_PG drop and GLOBAL_SOFT_RESET with its key put the core in reset: the Keeper, the fuses, the flash
and the queue stay, every register outside the Keeper is at its reset value, and the datapath is empty. A pulse shorter than 1 us changes
nothing, one between the two either acts or not as the device takes it, and none acts on a core that is not powered; one on a powered core
that is still in reset acts as well, and its cause is the one shown (what powered means is the model's reading, log 142). Another value
written to GLOBAL_SOFT_RESET is recorded with it. -/
def Obligations.CoreResetKeepsKeeper : Prop :=
  let cleared (s t : State) (cause : Nat) : Prop :=
    t.power.coreUp = false ∧ t.power.nextCause = cause ∧ t.mode = {} ∧ t.keeper = s.keeper ∧ t.fuses = s.fuses ∧ t.flash = s.flash ∧
    t.pending = s.pending ∧ t.cistern = {} ∧ t.queues = [] ∧ t.rings = [] ∧ t.table = [] ∧ t.flights = [] ∧
    (∀ a, inKeeper a = true → rd t a = rd s a) ∧ (∀ a, inKeeper a = false → rd t a = regReset a)
  ∀ s : State,
    (∀ ns acts, powered s = true → 10000 ≤ ns → ∃ t, exec (.resetN ns acts) s = .next t ∧ cleared s t 2) ∧
    (∀ ns, powered s = true → 1000 ≤ ns → ∃ t, exec (.resetN ns true) s = .next t ∧ cleared s t 2) ∧
    (∀ ns acts, ns < 1000 ∨ (ns < 10000 ∧ acts = false) ∨ powered s = false → ∃ t, exec (.resetN ns acts) s = .next t ∧ intcOnly s t) ∧
    (powered s = true → ∃ t, exec .corePgLow s = .next t ∧ cleared s t 2) ∧
    (barOpen s = true → ∃ t, exec (.globalSoftReset 0xA5A5) s = .next t ∧ cleared s t 4) ∧
    (∀ v : Word, v ≠ 0xA5A5 → barOpen s = true → ∃ t, exec (.globalSoftReset v) s = .next t ∧
      regsOnly s t (recordOf .global) ∧ recorded s t .global 2 ∧
      (rbit s Block.global.base 31 = false → rd64 t (Block.global.base + 0x10) = v.setWidth 64))

/-- VKEEP_POWER_UP leaves every register, the Keeper's too, at its reset value with no half of a pair written, and drives CORE_EN low and
then high; the crystal has still to start. VKEEP_LOW resets them as well and drives CORE_EN low. Both act in every state (the model's
choice, log 103). -/
def Obligations.VkeepResetsKeeper : Prop :=
  ∀ s : State,
    (∃ t, exec .vkeepPowerUp s = .next t ∧ t.keeper = {} ∧ t.power.vkeep = true ∧ t.power.coreEn = true ∧ t.power.nextCause = 1 ∧ t.keeper.xtal = false ∧ t.host.stage = [] ∧
      t.wire = s.wire ++ signalsEnd s ++ [.coreEn false, .coreEn true] ∧ ∀ a, rd t a = regReset a) ∧
    (∃ t, exec .vkeepLow s = .next t ∧ t.keeper = {} ∧ t.host.stage = [] ∧ t.power.vkeep = false ∧ t.power.coreEn = false ∧ t.power.coreUp = false ∧
      t.wire = s.wire ++ signalsEnd s ++ [.coreEn false] ∧ ∀ a, rd t a = regReset a)

/-- A core in reset with its supply enabled, and good for 2 ms, leaves reset with the cause recorded and the straps sampled; the flash is
taken where it is identified, described and large enough; BOOT_SEL 0b11 records BOOT_SEL_INVALID. The end of the sequence opens BAR0; with
BOOT_SEL 0b11 nothing else happens, with 0b10 MODE becomes LOADING and waits for the host, with 0b01 it reads the flash's image where
there is one and else records NO_CURRENT, and with 0b00 a FACTORY image that fails its checks is recorded (what the checks find is an
operand, log 137; so is what the flash answers, log 98). In DORMANT with CORE_EN low for 10 ms, in Keeper ticks, a wake condition (at a
first power-up the model's DORMANT, log 101) drives CORE_EN high and makes the next reset cause a Keeper wake. When CORE_PG has not come
within PG_WAIT, CORE_EN goes low, the wake causes clear and PG_TIMEOUT is recorded in KEEPER. -/
def Obligations.CorePowersUpAndLeavesReset : Prop :=
  (
    (∀ (s : State) (b : BitVec 2) (a : Bool) (x : FlashId), s.power.vkeep = true → s.power.coreEn = true → s.power.coreUp = false →
      (∀ n, s.power.pgFrom = some n → n + 625000 ≤ s.now) →
      ∃ t, exec (.coreLeavesReset b a x) s = .next t ∧ t.power.coreUp = true ∧ t.power.cause = s.power.nextCause ∧
        t.power.straps = b.toNat + 4 * b2n a ∧ t.power.strapped = true ∧ t.mode = {} ∧ t.keeper = s.keeper ∧
        (t.flash.ok = true ↔ x.jedec = true ∧ x.sfdp = true ∧ 16 * 2 ^ 20 ≤ x.bytes) ∧ t.flash = { s.flash with ok := t.flash.ok } ∧
        (b = 3 → recorded s t .global 1) ∧ (b ≠ 3 → t.regs = s.regs)) ∧
    (∀ (s : State) (b : BitVec 2) (a : Bool) (x : FlashId) (n : Nat), s.power.pgFrom = some n → s.now < n + 625000 →
      ∃ t, exec (.coreLeavesReset b a x) s = .next t ∧ intcOnly s t) ∧
    (∀ (s : State) (rom : RomCheck), running s = true → s.mode.mode = .resetting → s.power.barOpen = false → s.power.strapped = true →
      ∃ t, exec (.resetSequenceComplete rom) s = .next t ∧ barOpen t = true ∧
        (s.power.straps % 4 = 3 → t = { s with power := { s.power with barOpen := true }, intc := t.intc }) ∧
        (s.power.straps % 4 = 2 → t.mode.mode = .loading ∧ t.regs = s.regs ∧ t.loader.stuck = true ∧ t.queues = s.queues) ∧
        (s.power.straps % 4 = 1 → t.mode.mode = .loading ∧
          ((directory s).isSome = true → t.loader.st = .reading ∧ t.loader.boot = true ∧ t.regs = s.regs) ∧
          ((directory s).isSome = false → recorded s t .image 22 ∧ t.queues = s.queues)) ∧
        (s.power.straps % 4 = 0 → t.mode.mode = .loading ∧ (rom = .header → recorded s t .image 5) ∧
          (∀ k, rom = .section_ k → recorded s t .image 6)))) ∧
  (
    (∀ s : State, s.power.vkeep = true → s.mode.mode = .dormant → s.power.coreEn = false → keeperWakeHolds s = true → tenMs ≤ s.power.enTicks →
      ∃ t, exec .keeperWake s = .next t ∧ t.power.coreEn = true ∧ t.power.nextCause = 8 ∧ t.wire = s.wire ++ [.coreEn true] ∧
        t = { s with power := t.power, wire := t.wire, intc := t.intc }) ∧
    (∀ s : State, s.power.vkeep = true → s.power.coreEn = true → s.power.pgWait = true → s.power.coreUp = false →
      32768 * zeroAsOne (rfld s R.KEEPER_PWR_CTL 0 16) < 1000 * s.power.enTicks →
      ∃ t, exec .pgTimeout s = .next t ∧ t.power.coreEn = false ∧ t.wire = s.wire ++ [.coreEn false] ∧ t.mode.mode = .dormant ∧
        rd t R.KEEPER_WAKE_CAUSE = 0 ∧ recorded s t .keeper 1 ∧
        ∀ a, a ∉ R.KEEPER_WAKE_CAUSE :: recordOf .keeper → rd t a = rd s a))

/-- PERST_N, a Function Level Reset and a return from D3hot empty the rings, the DMA channels and the host unit's registers; modes,
queues, client ports, the line, the keys, the allotment table, the gate and the Keeper stay. The function's configuration registers return
to their defaults (the model's layout, log 131), and the HI latches of the host path clear (log 119). D3HOT_ENTRY and the release of
PERST_N set one bit each. -/
def Obligations.HostResetScope : Prop :=
  let scope (s t : State) : Prop :=
    t.rings = [] ∧ t.dmas = [] ∧ t.host.cfg = {} ∧ t.host.d3 = false ∧ t.host.msixOn = false ∧ t.host.fmask = false ∧ t.host.vectors = [] ∧
    t.mode = s.mode ∧ t.queues = s.queues ∧ t.ports = s.ports ∧ t.line = s.line ∧ t.keys = s.keys ∧ t.table = s.table ∧ t.gate = s.gate ∧
    t.keeper = s.keeper ∧ t.time = s.time ∧ t.power = s.power ∧ t.wire = s.wire ∧
    (∀ a, inHostUnit a = true → rd t a = regReset a) ∧ ∀ a, a < 0x4000000 → getLatch t hostPath a = 0
  (∀ s : State, ∃ t, exec .perstN s = .next t ∧ scope s t ∧ t.host.perst = true) ∧
  (∀ s : State, running s = true → s.host.perst = false → ∃ t, exec .functionLevelReset s = .next t ∧ scope s t ∧ t.host.perst = false) ∧
  (∀ s : State, running s = true → s.host.perst = false → s.host.d3 = true →
    ∃ t, exec .d3hotToD0 s = .next t ∧ scope s t ∧ t.host.perst = false) ∧
  (∀ s : State, hostUp s = true →
    ∃ t, exec .d3hotEntry s = .next t ∧ t = { s with host := { s.host with d3 := true }, intc := t.intc }) ∧
  (∀ s : State, ∃ t, exec .perstNRelease s = .next t ∧ t = { s with host := { s.host with perst := false }, intc := t.intc })

/-- A write of GLOBAL_MODE_CTL with GO = 1 shows AUTO_SERVICE and TARGET as written. A TARGET of 0 to 5 is refused with BUSY while a
request is pending or MODE reads LOADING or RESETTING (which of BUSY and BAD_TARGET comes first is not stated, log 122). With none pending
in another mode: BAD_TARGET for 6 and 7; accepted without effect for the mode held; SILENT for SERVICE or HOLD in SILENT; NOT_RANGED for
SERVICE from PROVISION or HOLD before ranging; accepted, setting PENDING and clearing REFUSE, for DORMANT and for every transition that
the table lists; NOT_ALLOWED for every other. Only GLOBAL_MODE_CTL and the mode control change. -/
def Obligations.ModeRequestRules : Prop :=
  ∀ (s : State) (v : Word), barOpen s = true →
    ∃ t, exec (.modeRequest v) s = .next t ∧
      t = { s with regs := t.regs, mode := t.mode, intc := t.intc } ∧ (∀ a, a ≠ R.GLOBAL_MODE_CTL → rd t a = rd s a) ∧
      rd t R.GLOBAL_MODE_CTL &&& 0x20007 = v &&& 0x20007 ∧ t.mode.mode = s.mode.mode ∧ t.mode.sub = s.mode.sub ∧
      let x := s.mode
      let busy := (x.request.isSome = true ∧ x.auto = false) ∨ x.mode = .loading ∨ x.mode = .resetting
      let free := x.request = none ∧ x.mode ≠ .loading ∧ x.mode ≠ .resetting
      let refused (r : Nat) : Prop := t.mode = { x with refuse := r }
      let accepted (m : Mode) : Prop := t.mode = { x with refuse := 0, request := some m, auto := false, met := false, since := s.now }
      (busy → fld v 0 3 < 6 → refused 2) ∧
      (free → 6 ≤ fld v 0 3 → refused 5) ∧
      (free → x.mode.code = fld v 0 3 → refused 0) ∧
      (free → x.mode ≠ .dormant → fld v 0 3 = 0 → accepted .dormant) ∧
      (free → x.mode = .provision → x.sub = .silent → fld v 0 3 = 3 ∨ fld v 0 3 = 4 → refused 4) ∧
      (free → x.mode = .provision → x.sub ≠ .silent → ranged s = false → fld v 0 3 = 3 → refused 3) ∧
      (free → x.mode = .provision → x.sub = .registered ∨ x.sub = .ranging → ranged s = true → fld v 0 3 = 3 → accepted .service) ∧
      (free → x.mode = .hold → ranged s = false → fld v 0 3 = 3 → refused 3) ∧
      (free → x.mode = .hold → ranged s = true → fld v 0 3 = 3 → accepted .service) ∧
      (∀ e ∈ [(Mode.provision, 5, Mode.test), (.test, 2, .provision), (.service, 4, .hold), (.service, 1, .fallow), (.fallow, 3, .service),
          (.service, 2, .provision), (.hold, 2, .provision)], free → x.mode = e.1 → fld v 0 3 = e.2.1 → accepted e.2.2) ∧
      (free → x.mode = .provision → x.sub ≠ .silent → fld v 0 3 = 4 → refused 1) ∧
      (∀ e ∈ [(Mode.provision, 1), (.service, 5), (.hold, 1), (.hold, 5), (.fallow, 2), (.fallow, 4), (.fallow, 5), (.test, 1), (.test, 3), (.test, 4)],
        free → x.mode = e.1 → fld v 0 3 = e.2 → refused 1)

/-- An accepted request ends at its commit; one for FALLOW, or for the return from it, first writes every running governor's rail and
waits until the rails have settled. One met by a deregistration is refused with SILENT, whatever it is for, and the mode stays (the
model's reading, log 91); one that the table no longer allows, looked at again when it commits, is refused with its reason (log 90).
Otherwise MODE is the mode requested; what a mode's entry keeps of the queues, the Keeper and the fuses is as it was. A commit of DORMANT
stops the core and leaves the registers and the wire to the next tick (log 118). With none pending nothing changes. -/
def Obligations.ModeCommits : Prop :=
  ∀ (s : State) (avs : List (Nat × Ack)), running s = true →
    let moved (m : Mode) : State := if s.mode.rails = true then s else railsMove m avs s
    ∃ t, exec (.modeCommit avs) s = .next t ∧
      (s.mode.request = none → intcOnly s t) ∧
      (∀ m, s.mode.request = some m → s.mode.met = true →
        (s.mode.rails = false → t = { s with mode := t.mode, intc := t.intc }) ∧ t.mode.mode = s.mode.mode ∧ t.mode.request = none ∧
          t.mode.rails = false ∧ (s.mode.auto = false → t.mode.refuse = 4)) ∧
      (∀ m, s.mode.request = some m → s.mode.met = false → refusal s m ≠ 0 →
        (s.mode.rails = false → t = { s with mode := t.mode, intc := t.intc }) ∧ t.mode.mode = s.mode.mode ∧ t.mode.request = none ∧
          t.mode.rails = false ∧ (s.mode.auto = false → t.mode.refuse = refusal s m)) ∧
      (∀ m, s.mode.request = some m → s.mode.met = false → refusal s m = 0 → movesRails s m = true → railsReady (moved m) = false →
        t = { moved m with intc := t.intc } ∧ t.mode = { s.mode with rails := true } ∧
        (s.mode.rails = false → ∀ n ∈ tracts s, (pace s n).st ≠ .stopped →
          Output.avs n (avsFrame n (some (railTarget s m n))) ∈ t.wire ∧
          (ackTaken (ackOf avs n) = true → (pace t n).st = .fallow ∧ (pace t n).setpoint = railTarget s m n) ∧
          (ackTaken (ackOf avs n) = false → (pace t n).st = .stopped))) ∧
      (∀ m, s.mode.request = some m → s.mode.met = false → refusal s m = 0 → (movesRails s m = true → railsReady (moved m) = true) →
        t.mode.mode = m ∧ t.keeper = s.keeper ∧ t.fuses = s.fuses ∧ t.flash = s.flash ∧
        (m ≠ .fallow → t.mode.request = none) ∧ (m ≠ .test → m ≠ .provision → t.keys = s.keys) ∧
        (m = .hold → t.table.map (·.id) = s.table.map (·.id))) ∧
      (s.mode.request = some .dormant → s.mode.met = false → running t = false ∧ falling t = true ∧ t.regs = s.regs ∧ t.wire = s.wire)

/-! ### The Keeper (chapter 16) -/

/-- When the RTC seconds become equal to ALARM with EN set, ALARM is due; it clears EN and sets the event and the wake cause (log 70: the
command is that event). A write of SET keeps the seconds of the SET pair; RTC_SET, at the first tick after it, loads them with tick 0; an
armed alarm that it passes is late and does not fire. TOD_HOLDOVER after 49,152 ticks without an edge enters HOLDOVER. XTAL_STOP records a
millisecond without ticks, once for each stop (logs 109 and 141), and stops or starts the crystal. Nothing else of the Keeper changes. -/
def Obligations.KeeperClockCommands : Prop :=
  (∀ (k : Keeper) (s : State), rbit s R.KEEPER_ALARM_CTL 31 = true →
    ((alarmFalls k.rtcSec { s with keeper := k }).keeper = k) ∧
    (∀ old, old ≠ k.rtcSec → k.rtcSec = alarmSec s → (alarmFalls old { s with keeper := k }).keeper.alarmDue = true)) ∧
  (∀ s : State, s.power.vkeep = true → s.keeper.alarmDue = true →
    ∃ t, exec .alarm s = .next t ∧ t = { s with regs := t.regs, mode := t.mode, keeper := { s.keeper with alarmDue := false }, intc := t.intc } ∧
      rbit t R.KEEPER_ALARM_CTL 31 = false ∧ rbit t R.KEEPER_EVENT 1 = true ∧ rbit t R.KEEPER_WAKE_CAUSE 16 = true ∧
      t.mode.mode = s.mode.mode ∧ (s.mode.mode ≠ .fallow → t.mode = s.mode) ∧
      ∀ a, a ∉ [R.KEEPER_ALARM_CTL, R.KEEPER_EVENT, R.KEEPER_WAKE_CAUSE] → rd t a = rd s a) ∧
  (∀ (s : State) (v : Word), bit v 31 = true → (rtcCtlEff v s).keeper.rtcSet =
    some ((keeperDue s).keeper.ticks, (rd64 (keeperDue s) R.KEEPER_RTC_SET).toNat % 2 ^ 48)) ∧
  (∀ s : State, s.power.vkeep = true → ∀ n sec, s.keeper.rtcSet = some (n, sec) → n < s.keeper.ticks →
    let passes := rbit s R.KEEPER_ALARM_CTL 31 = true ∧ atOrPast48 s.keeper.rtcSec (alarmSec s) = false ∧ atOrPast48 sec (alarmSec s) = true
    ∃ t, exec .rtcSet s = .next t ∧ regsOnly { s with keeper := t.keeper } t [R.KEEPER_ALARM_CTL] ∧
      t.keeper = { s.keeper with rtcSec := sec, rtcSub := 0, rtcSet := none, alarmDue := t.keeper.alarmDue } ∧
      (passes → rd t R.KEEPER_ALARM_CTL = oneHot 30 ∧ t.keeper.alarmDue = s.keeper.alarmDue) ∧
      (¬passes → t.regs = s.regs ∧ (t.keeper.alarmDue = true ↔
        s.keeper.alarmDue = true ∨ (rbit s R.KEEPER_ALARM_CTL 31 = true ∧ sec ≠ s.keeper.rtcSec ∧ sec = alarmSec s)))) ∧
  (∀ s : State, s.power.vkeep = true → 49152 ≤ s.keeper.edgeTicks → s.keeper.todHold = false →
    ∃ t, exec .todHoldover s = .next t ∧ t = { s with keeper := t.keeper, intc := t.intc } ∧ t.keeper.todHold = true ∧
      t.keeper.trimAcc = 0 ∧ t.keeper.todSec = s.keeper.todSec ∧ t.keeper.todSub = s.keeper.todSub ∧ t.keeper.rtcSec = s.keeper.rtcSec) ∧
  (∀ (s : State) (back : Bool), s.power.vkeep = true →
    (s.keeper.quiet = 312500 → ∃ t, exec (.xtalStop back) s = .next t ∧ regsOnly { s with keeper := t.keeper } t (recordOf .keeper) ∧
      t.keeper = { s.keeper with xtal := back, quiet := 312501 } ∧ recorded s t .keeper 2) ∧
    (s.keeper.quiet ≠ 312500 → ∃ t, exec (.xtalStop back) s = .next t ∧ t = { s with keeper := { s.keeper with xtal := back }, intc := t.intc }))

/-- What the Keeper tick that has begun still owes comes before the write, so that the write applies from the next tick on (R815; the
model's order, log 66): an alarm that was due has fired then (log 70). A write of EN arms the alarm, or sets LATE where the time has
passed; EN = 0 disarms. A write of KEEPER_LOG_SEL latches the six words of the entry selected, of one written at the same tick those it
replaced. A comparator write with EN = 0 makes it NORMAL with no log entry; one that changes a threshold, HYST or FILTER restarts its
counts and keeps its state. -/
def Obligations.KeeperRegisterWrites : Prop :=
  ∀ (s : State) (v : Word), barOpen s = true →
    let k := keeperDue s
    (s.power.vkeep = true → s.keeper.alarmDue = true → rtcSetDue s.keeper = false →
      k.keeper.alarmDue = false ∧ rbit k R.KEEPER_EVENT 1 = true ∧ rbit k R.KEEPER_WAKE_CAUSE 16 = true ∧ rbit k R.KEEPER_ALARM_CTL 31 = false) ∧
    (∃ t, exec (.keeperAlarmCtl v) s = .next t ∧ regsOnly k t [R.KEEPER_ALARM_CTL] ∧
      (bit v 31 = true → rd t R.KEEPER_ALARM_CTL = if atOrPast48 k.keeper.rtcSec (alarmSec k) then oneHot 30 else oneHot 31) ∧
      (bit v 31 = false → rbit t R.KEEPER_ALARM_CTL 31 = false)) ∧
    (∃ t, exec (.keeperLogSel v) s = .next t ∧ regsOnly k t (R.KEEPER_LOG_SEL :: (List.range 6).map R.KEEPER_LOG_E) ∧
      (∀ j, j < 6 → (∀ e ∈ k.keeper.logOld, e.1 = fld v 0 6 → e.2.1 ≠ k.keeper.ticks) →
        rd t (R.KEEPER_LOG_E j) = (look [] k.keeper.log (fld v 0 6)).getD j 0) ∧
      (∀ j old, j < 6 → k.keeper.logOld.find? (fun e => e.1 == fld v 0 6 && e.2.1 == k.keeper.ticks) = some (fld v 0 6, k.keeper.ticks, old) →
        rd t (R.KEEPER_LOG_E j) = old.getD j 0)) ∧
    (∀ n : Fin 8, ∃ t, exec (.keeperScCtl n false v) s = .next t ∧
      regsOnly { k with keeper := t.keeper } t [R.KEEPER_SC_CTL n] ∧
      t.keeper.log = k.keeper.log ∧ t.keeper.logCount = k.keeper.logCount ∧ rd t (R.KEEPER_SC_CTL n) &&& 0xBFFFFFFF = v &&& 0xBFFFFFFF ∧
      (bit v 31 = false → comparator t n = {}) ∧
      (bit v 31 = true → (v ^^^ rd k (R.KEEPER_SC_CTL n)) &&& 0x0FFFFFFF ≠ 0 →
        comparator t n = { comparator k n with qDrop := 0, qSwell := 0, qSag := 0, qNormal := 0 })) ∧
    (∀ n : Fin 8, ∃ t, exec (.keeperScCtl n true v) s = .next t ∧
      regsOnly { k with keeper := t.keeper } t [R.KEEPER_SC_FILT n] ∧ t.keeper.log = k.keeper.log ∧
      rfld t (R.KEEPER_SC_FILT n) 0 8 = fld v 0 8 ∧ (comparator t n).st = (comparator k n).st)

/-- The samples of one Keeper tick, of every comparator whose input is given, lower number first; a second set at the same tick only
stands for the next (the model's choice, log 69). An enabled comparator takes the first of DROPOUT, SWELL, SAG and NORMAL that is not its
present state and has qualified on FILTER + 1 samples in a row, this one included, and from DROPOUT only NORMAL. Each change writes one
log entry, in the order of the comparators, with the next sequence number and index, the kind, and at a recovery the worst state and the
ticks since NORMAL was left. Leaving NORMAL and returning to it set their wake causes. A comparator newly in trip, with the core running,
shows those in trip in LINE_GASP_CTL, and sets PENDING where ARM is 1. Otherwise, and where it is disabled, neither a comparator's state
nor the log changes. -/
def Obligations.SupplySampleRules : Prop :=
  ∀ (s : State) (codes : List Byte), s.power.vkeep = true →
    let q : Nat → Comparator := fun n => qualify (comparator s n) (rd s (R.KEEPER_SC_CTL n)) (codes.getD n 0).toNat
    let run : Nat → Supply → Nat := fun n x => match x with
      | .dropout => (q n).qDrop | .swell => (q n).qSwell | .sag => (q n).qSag | .normal => (q n).qNormal
    let live : Nat → Prop := fun n => n < 8 ∧ n < codes.length ∧ rbit s (R.KEEPER_SC_CTL n) 31 = true
    let next : Nat → Option Supply := fun n => [Supply.dropout, .swell, .sag, .normal].find? fun x =>
      decide (live n ∧ rfld s (R.KEEPER_SC_FILT n) 0 8 + 1 ≤ run n x) && x != (comparator s n).st && ((comparator s n).st != .dropout || x == .normal)
    let changed := (List.range 8).filter fun n => (next n).isSome
    (s.keeper.sampled = true → ∃ t, exec (.scStateChange codes) s = .next t ∧
      t = { s with keeper := { s.keeper with inputs := codes }, intc := t.intc }) ∧
    (s.keeper.sampled = false → ∃ t, exec (.scStateChange codes) s = .next t ∧
      t = { s with regs := t.regs, mode := t.mode, keeper := t.keeper, intc := t.intc } ∧
      t.keeper.rtcSec = s.keeper.rtcSec ∧ t.keeper.inputs = codes ∧ t.keeper.sampled = true ∧
      (∀ a, a ∉ [R.KEEPER_EVENT, R.KEEPER_LOG_OVER, R.KEEPER_WAKE_CAUSE, R.LINE_GASP_CTL] → rd t a = rd s a) ∧
      (∀ n, live n → (comparator t n).st = (next n).getD (comparator s n).st ∧ (comparator t n).qDrop = (q n).qDrop ∧
        (comparator t n).qSwell = (q n).qSwell ∧ (comparator t n).qSag = (q n).qSag ∧ (comparator t n).qNormal = (q n).qNormal) ∧
      (∀ n, ¬live n → comparator t n = comparator s n) ∧
      t.keeper.logCount = s.keeper.logCount + changed.length ∧
      (∀ (j n : Nat) (x : Supply), changed[j]? = some n → next n = some x →
        let c := comparator s n
        look [] t.keeper.log ((s.keeper.logCount + j) % 64) =
          [ pack [(16, (s.keeper.logCount + j) % 65536), (15, 1), (12, n), (10, x.kind), (8, if x = .normal then c.worst.kind else 0),
              (7, b2n s.keeper.todHold)],
            sat32 (if x = .normal then s.keeper.ticks - c.start else 0), BitVec.ofNat 32 s.keeper.rtcSec,
            pack [(16, s.keeper.rtcSec / 2 ^ 32), (0, s.keeper.rtcSub)], BitVec.ofNat 32 s.keeper.todSec,
            pack [(16, s.keeper.todSec / 2 ^ 32), (15, b2n s.keeper.todValid), (0, s.keeper.todSub)] ] ∧
        rbit t R.KEEPER_EVENT 0 = true ∧
        (c.st = .normal → rbit t R.KEEPER_WAKE_CAUSE n = true ∧ (comparator t n).start = s.keeper.ticks ∧ (comparator t n).worst = x) ∧
        (x = .normal → rbit t R.KEEPER_WAKE_CAUSE (8 + n) = true) ∧
        (c.st ≠ .normal → x ≠ .normal → (comparator t n).start = c.start ∧ (comparator t n).worst = c.worst.worse x)) ∧
      t.keeper.trip = tripMask t ∧
      ((running s = true ∧ ∃ n, n < 8 ∧ inTrip t n = true ∧ s.keeper.trip.testBit n = false) →
        rfld t R.LINE_GASP_CTL 0 8 = tripMask t ∧ (rbit s R.LINE_GASP_CTL 31 = true → rbit t R.LINE_GASP_CTL 30 = true)) ∧
      (¬(running s = true ∧ ∃ n, n < 8 ∧ inTrip t n = true ∧ s.keeper.trip.testBit n = false) → rd t R.LINE_GASP_CTL = rd s R.LINE_GASP_CTL))

/-! ### Time (chapter 11) -/

/-- ENABLE 0 turns a servo OFF, ENABLE 1 in OFF and RESUME in HOLDOVER start it acquiring with no measurements; otherwise its state stays.
One convoy period more than HOLD_AFTER since the last measurement takes it to HOLDOVER with cause NO_INPUT (log 114). The increment takes
a HI write with the LO half last written while OFF; in any other state the write is recorded as INCR_WRITE and the increment stays. Of an
absent domain nothing changes. A measurement with residual e writes RESID and counts, and it steps the count only in ACQUIRE and beyond
STEP; a smaller one there, or in LOCK up to RESID, tunes frequency and increment; LOCK follows LOCK_COUNT measurements in a row within
LOCK_NS, or from NO_INPUT one within RESID, tuned from the increment held; beyond RESID in LOCK it is HOLDOVER with the mean increment. An
RTT step takes either to HOLDOVER. The other domain is left alone. -/
def Obligations.ServoControl : Prop :=
  (∀ (s : State) (d : Bool) (v : Word), barOpen s = true → hasDomain s d = true →
    (∃ t, exec (.timeServoEnable d v) s = .next t ∧ regsOnly { s with time := t.time } t [R.TIME_SERVO_CTL (b2n d)] ∧
      dom t (!d) = dom s (!d) ∧ (dom t d).cnt = (dom s d).cnt ∧
      (bit v 31 = false → (dom t d).st = .off) ∧
      (bit v 31 = true → (dom s d).st = .off → (dom t d).st = .acquire ∧ (dom t d).meas = 0) ∧
      (bit v 31 = true → bit v 30 = false → (dom s d).st ≠ .off → dom t d = dom s d)) ∧
    (∃ t, exec (.resume d v) s = .next t ∧ regsOnly { s with time := t.time } t [R.TIME_SERVO_CTL (b2n d)] ∧
      dom t (!d) = dom s (!d) ∧
      (bit v 31 = true → (dom s d).st = .holdover → (dom t d).st = .acquire ∧ (dom t d).meas = 0) ∧
      (bit v 31 = true → ((dom s d).st = .acquire ∨ (dom s d).st = .lock) → dom t d = dom s d)) ∧
    (∀ hi, (dom s d).st ≠ .off → ∃ t, exec (.incrWrite d hi v) s = .next t ∧ regsOnly s t (recordOf .time) ∧ recorded s t .time 1 ∧
      domIncr t d = domIncr s d) ∧
    ((dom s d).st = .off → ∃ t, exec (.incrWrite d false v) s = .next t ∧ t = { s with host := t.host, intc := t.intc } ∧
      look (regReset (R.TIME_INCR (b2n d))) t.host.stage (R.TIME_INCR (b2n d)) = v) ∧
    ((dom s d).st = .off → ∃ t, exec (.incrWrite d true v) s = .next t ∧ regsOnly s t [R.TIME_INCR (b2n d), R.TIME_INCR (b2n d) + 4] ∧
      rd64 t (R.TIME_INCR (b2n d)) =
        (v ++ look (regReset (R.TIME_INCR (b2n d))) s.host.stage (R.TIME_INCR (b2n d))) &&& 0xFFFFFFFFFFFF)) ∧
  (∀ (s : State) (d hi : Bool) (v : Word), barOpen s = true → hasDomain s d = false →
    (∃ t, exec (.timeServoEnable d v) s = .next t ∧ intcOnly s t) ∧ (∃ t, exec (.resume d v) s = .next t ∧ intcOnly s t) ∧
    (∃ t, exec (.incrWrite d hi v) s = .next t ∧ intcOnly s t)) ∧
  (∀ (s : State) (d : Bool), running s = true → hasDomain s d = true → ((dom s d).st = .acquire ∨ (dom s d).st = .lock) →
    78125 * silentPeriods s d ≤ 2 * (dom s d).idle →
    ∃ t, exec (.servoNoInput d) s = .next t ∧ (dom t d).st = .holdover ∧ (dom t d).cause = 1 ∧ (dom t d).cnt = (dom s d).cnt ∧
      rbit t R.TIME_EVENT (3 + b2n d) = true ∧ dom t (!d) = dom s (!d)) ∧
  (∀ (s : State) (d : Bool) (e : Int),
    let x := dom s d
    let u := measure s d e
    let y := dom u d
    let kp := clampNat 8 15 (rfld s (R.TIME_SERVO_CTL (b2n d)) 8 4)
    let ki := clampNat 4 15 (rfld s (R.TIME_SERVO_CTL (b2n d)) 0 4)
    let resid := nsUnits (rfld s (R.TIME_THRESH (b2n d)) 0 16)
    let tuned : Int → Prop := fun freq => y.freq = freq + (e >>> ki) ∧ domIncr u d = BitVec.ofInt 48 (0x033333333333 + y.freq + (e >>> kp))
    let held : Prop := y.freq = x.freq ∧ domIncr u d = domIncr s d
    dom u (!d) = dom s (!d) ∧ domIncr u (!d) = domIncr s (!d) ∧
    (x.st = .off → u = s) ∧
    (x.st ≠ .off → rd u (R.TIME_RESID (b2n d)) = sixteenths e ∧ y.meas = Nat.min (x.meas + 1) 65535 ∧ y.idle = 0) ∧
    (¬(x.st = .acquire ∧ nsUnits (rfld s (R.TIME_THRESH (b2n d)) 16 16) < mag e) → y.cnt = x.cnt) ∧
    (x.st = .acquire → nsUnits (rfld s (R.TIME_THRESH (b2n d)) 16 16) < mag e →
      y.cnt = clockAdd x.cnt e ∧ y.st = .acquire ∧ y.lockRun = 0 ∧ held ∧ rbit u R.TIME_EVENT (1 + b2n d) = true) ∧
    (x.st = .acquire → mag e ≤ nsUnits (rfld s (R.TIME_THRESH (b2n d)) 16 16) →
      tuned x.freq ∧ y.lockRun = (if mag e ≤ nsUnits (rfld s (R.TIME_LOCK (b2n d)) 16 16) then x.lockRun + 1 else 0) ∧
      (zeroAsOne (rfld s (R.TIME_LOCK (b2n d)) 8 8) ≤ y.lockRun → y.st = .lock ∧ y.ever = true ∧ rbit u R.TIME_EVENT (5 + b2n d) = true) ∧
      (y.lockRun < zeroAsOne (rfld s (R.TIME_LOCK (b2n d)) 8 8) → y.st = .acquire)) ∧
    (x.st = .lock → mag e ≤ resid → tuned x.freq ∧ y.st = .lock) ∧
    (x.st = .lock → resid < mag e →
      y.st = .holdover ∧ y.cause = 2 ∧ domIncr u d = heldIncr s d ∧ y.freq = x.freq ∧ rbit u R.TIME_EVENT (3 + b2n d) = true) ∧
    (x.st = .holdover → x.cause = 1 → mag e ≤ resid →
      tuned (((domIncr s d).toNat : Int) - 0x033333333333) ∧ y.st = .lock ∧ y.ever = true ∧ rbit u R.TIME_EVENT (5 + b2n d) = true) ∧
    (x.st = .holdover → x.cause = 1 → resid < mag e → held ∧ y.st = .holdover ∧ y.cause = 2) ∧
    (x.st = .holdover → x.cause ≠ 1 → held ∧ y.st = .holdover ∧ y.cause = x.cause)) ∧
  (∀ (s : State) (d : Bool), hasDomain s d = true →
    let x := dom s d
    let y := dom (rttStepServos s) d
    y.cnt = x.cnt ∧ (x.st = .off → y = x) ∧ (x.st ≠ .off → y.st = .holdover ∧ y.cause = 3) ∧
    (x.st = .acquire ∨ x.st = .lock → domIncr (rttStepServos s) d = heldIncr s d ∧ rbit (rttStepServos s) R.TIME_EVENT (3 + b2n d) = true))

/-- GO naming an absent domain sets REFUSED and changes nothing else. Where the difference is beyond THRESH, output time becomes the new
domain's count, the remainder is 0 and OUT_STEP sets; otherwise the difference becomes the remainder, so that output time does not move at
the switch. Naming the domain already selected with no remainder changes nothing. When the remainder has reached 0, SWITCH_DONE sets. A
read of TIME_TXQ_W0 removes the head entry, answers its word and leaves its time and flags in W1 to W3; of an empty queue it answers 0 and
leaves zeros. A read of TIME_TOD_x_LO answers the low seconds of the time of day and latches its high seconds and ns from the same
instant. -/
def Obligations.OutputTimeAndReads : Prop :=
  (
    (∀ (s : State) (v : Word), barOpen s = true → bit v 31 = true →
      let d := bit v 24
      let delta := clockDiff (dom s d).cnt (outClock s)
      ∃ t, exec (.switch v) s = .next t ∧ (∀ x, dom t x = dom s x) ∧ t.time.reach = s.time.reach ∧
        (hasDomain s d = false → t = { s with time := { s.time with refused := true }, intc := t.intc }) ∧
        (hasDomain s d = true → s.time.sel = d → s.time.remain = 0 → t.time.remain = 0 ∧ t.time.sel = d ∧ t.time.steps = s.time.steps) ∧
        (hasDomain s d = true → ¬(s.time.sel = d ∧ s.time.remain = 0) → nsUnits (fld v 0 16) < mag delta →
          t.time.sel = d ∧ t.time.remain = 0 ∧ outClock t = (dom s d).cnt ∧ t.time.steps = s.time.steps + 1 ∧
            rbit t R.TIME_EVENT 7 = true) ∧
        (hasDomain s d = true → ¬(s.time.sel = d ∧ s.time.remain = 0) → mag delta ≤ nsUnits (fld v 0 16) →
          t.time.sel = d ∧ t.time.remain = delta ∧ outClock t = outClock s ∧ t.time.steps = s.time.steps)) ∧
    (∀ s : State, running s = true → s.time.slewDone = true →
      ∃ t, exec .switchDone s = .next t ∧ regsOnly { s with time := { s.time with slewDone := false } } t [R.TIME_EVENT] ∧
        rbit t R.TIME_EVENT 8 = true)) ∧
  (
    (∀ s : State, barOpen s = true →
      (s.time.txq = [] → ∃ t, exec .timeTxqW0 s = .next t ∧
        answersOnly s t [R.TIME_TXQ_W 0, R.TIME_TXQ_W 1, R.TIME_TXQ_W 2] [.readData (leBytes 4 0) false] ∧
        rd t (R.TIME_TXQ_W 0) = 0 ∧ rd t (R.TIME_TXQ_W 1) = 0 ∧ rd t (R.TIME_TXQ_W 2) = 0) ∧
      (∀ e q, s.time.txq = e :: q → ∃ t, exec .timeTxqW0 s = .next t ∧
        answersOnly { s with time := { s.time with txq := q } } t [R.TIME_TXQ_W 0, R.TIME_TXQ_W 1, R.TIME_TXQ_W 2]
          [.readData (leBytes 4 (pack [(31, 1), (24, e.port), (16, e.ring), (0, e.seq)]).toNat) false] ∧
        rd t (R.TIME_TXQ_W 1) ++ rd t (R.TIME_TXQ_W 0) = e.stamp ∧
        rd t (R.TIME_TXQ_W 2) = pack [(1, b2n e.slew), (0, b2n e.sel)])) ∧
    (∀ (s : State) (d : Bool), barOpen s = true → hasDomain s d = true → epochHeld s d = true →
      ∃ t, exec (.timeTodRead d) s = .next t ∧ t.regs = s.regs ∧
        t.wire = s.wire ++ [.readData (leBytes 4 (BitVec.ofNat 32 (todOf s d (ofClock (dom s d).cnt)).1).toNat) false] ∧
        getLatch t hostPath (R.TIME_TOD (b2n d) + 4) = BitVec.ofNat 32 ((todOf s d (ofClock (dom s d).cnt)).1 / 2 ^ 32) ∧
        look 0 t.time.todNs (b2n d) = BitVec.ofNat 32 (todOf s d (ofClock (dom s d).cnt)).2))

/-- A write of ARM = 1 is refused for a forbidden target or an absent domain, and recorded; otherwise the action is ARMED, or LATE with
ARM clear where its clock is at or past AT. ARM = 0 returns an armed action to IDLE. An armed action whose clock has reached AT becomes
DONE with its clock, and a MARK sets TIME_EVENT.SCHED while a WRITE writes its register after that (the model's order, log 107). A step of
its clock that passes AT makes an armed action LATE, and leaves it armed where AT is still ahead. A window whose END + 10 us output time
has reached sets DONE and clears ARM. -/
def Obligations.ScheduledActions : Prop :=
  (∀ (s : State) (n : Fin 16) (v : Word), barOpen s = true →
    let bad := (bit v 16 = false ∧ schedForbidden (rd s (R.TIME_SCHED_ADDR n)).toNat = true) ∨ (fld v 24 2 = 1 ∧ hasB s = false)
    let s1 := wrField s (R.TIME_SCHED_CTL n) v 0x83010000 0
    ∃ t, exec (.schedArm n v) s = .next t ∧
      (bit v 31 = true → bad → regsOnly s t (recordOf .time) ∧ recorded s t .time 3) ∧
      (bit v 31 = true → ¬bad → schedPast s1 n = false → schedState t n = .armed ∧
        regsOnly { s with time := t.time } t [R.TIME_SCHED_CTL n] ∧ rbit t (R.TIME_SCHED_CTL n) 31 = true) ∧
      (bit v 31 = true → ¬bad → schedPast s1 n = true → schedState t n = .late ∧ rbit t (R.TIME_SCHED_CTL n) 31 = false ∧
        rbit t R.TIME_EVENT 9 = true) ∧
      (bit v 31 = false → schedState s n = .armed → schedState t n = .idle)) ∧
  (∀ (s : State) (n : Fin 16), running s = true → schedState s n = .armed → schedPast s n = true → rbit s (R.TIME_SCHED_CTL n) 16 = true →
    ∃ t, exec (.sched n) s = .next t ∧ schedState t n = .done ∧ rbit t (R.TIME_SCHED_CTL n) 31 = false ∧
      rd64 t (R.TIME_SCHED_DONE n) = schedClock s n ∧ rbit t R.TIME_EVENT 10 = true ∧
      ∀ a, a ∉ [R.TIME_SCHED_CTL n, R.TIME_SCHED_DONE n, R.TIME_SCHED_DONE n + 4, R.TIME_EVENT] → rd t a = rd s a) ∧
  (∀ (s : State) (n : Fin 16), running s = true → schedState s n = .armed → schedPast s n = true → rbit s (R.TIME_SCHED_CTL n) 16 = false →
    exec (.sched n) s = .next (settle (writeReg (rfld s (R.TIME_SCHED_ADDR n) 2 24 * 4) (rd s (R.TIME_SCHED_DATA n))
      (schedDone n (schedClock s n) s)))) ∧
  (∀ (old s : State) (n : Fin 16), schedState s n = .armed →
    (schedPast old n = false → schedPast s n = true → schedState (lateCheck old s) n = .late ∧ rbit (lateCheck old s) (R.TIME_SCHED_CTL n) 31 = false ∧
      rbit (lateCheck old s) R.TIME_EVENT 9 = true) ∧
    (schedPast s n = false → schedState (lateCheck old s) n = .armed)) ∧
  (∀ (s : State) (n : Fin 8), running s = true → rbit s (R.TIME_WIN_CTL n) 31 = true →
    atOrPast (outNow s) (rd64 s (R.TIME_WIN_END n) + 0x27100000) = true →
    ∃ t, exec (.winDone n) s = .next t ∧ regsOnly s t [R.TIME_WIN_CTL n, R.TIME_EVENT] ∧ rbit t (R.TIME_WIN_CTL n) 31 = false ∧
      rbit t (R.TIME_WIN_CTL n) 30 = true ∧ rbit t R.TIME_EVENT 11 = true)

/-- Where PPS_OUT is allowed and output time has crossed upwards into a later second (of the time less the offset; the model's reading,
logs 112 and 136), the pin rises once for it, the Keeper's time of day takes the second of the edge with tick 0, and a ToD message joins
those owed. 1 ms or more after its edge the oldest message owed leaves, or is given up where EN is 0; 2 ms after it it has left (log 144).
Where nothing has been crossed, or the pin is not allowed, it does not rise. -/
def Obligations.PpsAndTod : Prop :=
  (∀ s : State, running s = true → s.power.vkeep = true →
    let sec := (ppsSecond s).1
    let off := rd s R.TIME_PPS_OFFSET
    let crossed := s.time.ppsOwed = true ∨ ∃ k, k < sec ∧ s.time.ppsAt = some (off, k)
    ∃ t, exec .pps s = .next t ∧ (∀ a, a ≠ R.KEEPER_TOD_TRIM → rd t a = rd s a) ∧ t.keeper.rtcSec = s.keeper.rtcSec ∧
      (ppsAllowed s = true → crossed → t.wire = s.wire ++ [.pps] ∧ t.time.ppsHigh = true ∧ t.time.ppsAt = some (off, sec) ∧ t.time.ppsOwed = false ∧
        t.time.ppsFall = 2 * s.now + 625 * zeroAsOne (rfld s R.TIME_PPS_CTL 0 16) ∧
        t.keeper.todSec = (todOf s s.time.sel (outNow s)).1 % 2 ^ 48 ∧ t.keeper.todSub = 0 ∧ t.keeper.todValid = true ∧
        t.time.todMsg = s.time.todMsg ++ [⟨(todOf s s.time.sel (outNow s)).1, s.now⟩]) ∧
      (ppsAllowed s = true → ¬crossed → t = { s with time := { s.time with ppsAt := some (off, sec) }, intc := t.intc }) ∧
      (ppsAllowed s = false → t = { s with time := { s.time with ppsAt := none, ppsOwed := false }, intc := t.intc })) ∧
  (∀ (s : State) (o : TodOwed) (l : List TodOwed), s.time.todMsg = o :: l →
    let sent : List Output := if rbit s R.TIME_TOD_CTL 31 then [.tod (todBytes s o.sec)] else []
    (running s = true → o.at_ + 312500 ≤ s.now → ∃ t, exec .todMessage s = .next t ∧
      t = { s with time := { s.time with todMsg := l }, wire := s.wire ++ sent, intc := t.intc }) ∧
    (running s = true → s.now < o.at_ + 312500 → ∃ t, exec .todMessage s = .next t ∧ intcOnly s t) ∧
    (o.at_ + 625000 ≤ s.now → todDeadline s = { s with time := { s.time with todMsg := l }, wire := s.wire ++ sent }))

/-! ### Pace, temperature, sideband (chapters 16 and 17) -/

/-- At a window end MEASURED and MARGIN are shown in every state, against the rail last read, and a rate below the guaranteed one is
recorded. Unless stopped the governor sends the frame that reads its rail; one that the response does not acknowledge by its CRC and
status (frames after PMBus 1.3.1 Part III, log 143) stops it and is recorded. With an acknowledged read the rail is shown, and a governor
not in GOVERNING leaves the setpoint as it is. One in GOVERNING chooses the lowest candidate that meets the window's demand, or CEILING
where none does or the window was saturated; it goes up to its choice at once, and down by one candidate after DOWN_HOLD windows with a
lower choice and no raise in progress, and sends the frame that writes it. In every case a new window begins. RESTART moves a stopped
governor to the state EN selects, with the rail at FIXED where EN is 0; a write that is not acknowledged leaves it stopped. A raise that
has settled is credited. GLOBAL_TEMP shows the hottest of the sensors of present tracts and of the core, with its number. THERM_ALERT_N is
released while the alert is disabled, driven at or above the threshold, released 20 units or more below it, and held between them. -/
def Obligations.PaceAndTemperature : Prop :=
  (
    (∀ (s : State) (t : Fin 8) (measured : Nat) (r w : Ack), running s = true → hasTract s t = true → s.mode.mode ≠ .loading →
      625 * paceWindow s t ≤ 2 * (s.now - (pace s t).since) →
      ∃ u, exec (.paceWindowEnd t measured r w) s = .next u ∧ (pace u t).since = s.now ∧ (pace u t).tokens = [] ∧
        (pace u t).words = 0 ∧ (pace u t).late = false ∧ (∀ x, x ≠ t.val → pace u x = pace s x) ∧
        u = { s with regs := u.regs, paces := u.paces, wire := u.wire, intc := u.intc } ∧
        (∀ a, a ∉ [R.TRACT_PACE_RAIL t, R.TRACT_PACE_DEMAND t, R.TRACT_PACE_MARGIN t, R.TRACT_PACE_CNT_SHORT t, R.TRACT_PACE_CNT_SAT t] ++
          recordOf (.tract t) → rd u a = rd s a) ∧
        (let cap := (paceRow (rfld u (R.TRACT_PACE_RAIL t) 0 16)).cell
         rd u (R.TRACT_PACE_MARGIN t) = BitVec.ofNat 16 measured ++ BitVec.ofInt 16 ((measured * 1000 : Nat) / (cap : Int) - 1000) ∧
         (measured < cap → rbit u (Block.tract t).base 15 = true) ∧
         ((pace s t).st ≠ .stopped → ackTaken r = false → (pace u t).st = .stopped ∧ rbit u (Block.tract t).base 14 = true ∧
           (cap ≤ measured → recorded s u (.tract t) 14) ∧
           (pace u t).setpoint = (pace s t).setpoint ∧ u.wire = s.wire ++ [.avs t (avsFrame t none)])) ∧
        ((pace s t).st ≠ .stopped → (pace s t).st ≠ .governing → ackTaken r = true → (pace u t).setpoint = (pace s t).setpoint ∧
          (pace u t).st = (pace s t).st ∧ rd u (R.TRACT_PACE_RAIL t) = BitVec.ofNat 32 (ackRail r) ∧ u.wire = s.wire ++ [.avs t (avsFrame t none)]) ∧
        ((pace s t).st = .governing → ackTaken r = true → ackTaken w = true →
          let sat := 625 * paceWindow s t < 200 * (pace s t).held ∨ (pace s t).late = true
          let fit := (candidates s t).find? (paceMeets s t (pace s t))
          let v := (pace s t).setpoint
          rd u (R.TRACT_PACE_RAIL t) = BitVec.ofNat 32 (ackRail r) ∧
          u.wire = s.wire ++ [.avs t (avsFrame t none)] ++ (if (pace u t).setpoint = v then [] else [.avs t (avsFrame t (some (pace u t).setpoint))]) ∧
          (∀ c, (sat ∧ c = paceCeiling s t) ∨ (¬sat ∧ c = fit.getD (paceCeiling s t)) →
            (v < c → (pace u t).setpoint = c ∧ (pace u t).raising.isSome = true ∧ (pace u t).settles = 2 * s.now + paceSettle s t (c - v)) ∧
            (c = v → (pace u t).setpoint = v) ∧
            (c < v → (pace s t).raising.isSome = true ∨ (pace s t).low + 1 < zeroAsOne (rfld s (R.TRACT_PACE_TIMING t) 24 8) →
              (pace u t).setpoint = v) ∧
            (c < v → (pace s t).raising = none → zeroAsOne (rfld s (R.TRACT_PACE_TIMING t) 24 8) ≤ (pace s t).low + 1 →
              (pace u t).setpoint = ((candidates s t).filter (· < v)).getLastD v ∧ (pace u t).low = 0)) ∧
          ((pace u t).sat = true ↔ sat) ∧ ((pace u t).short = true ↔ fit = none)) ∧
        ((pace s t).st = .stopped → (pace u t).st = .stopped ∧ (pace u t).setpoint = (pace s t).setpoint ∧ u.wire = s.wire ∧
          rd u (R.TRACT_PACE_RAIL t) = rd s (R.TRACT_PACE_RAIL t))) ∧
    (∀ (s : State) (t : Fin 8) (v : Word) (w : Ack), barOpen s = true → hasTract s t = true → (pace s t).st = .stopped →
      ∃ u, exec (.paceRestart t v w) s = .next u ∧
        (bit v 31 = true → (pace u t).st = .governing ∧ (pace u t).setpoint = (pace s t).setpoint) ∧
        (bit v 31 = false → s.mode.mode = .loading → (pace u t).st = .fixed ∧ (pace u t).setpoint = (pace s t).setpoint) ∧
        (bit v 31 = false → s.mode.mode ≠ .loading → ackTaken w = true → (pace u t).st = .fixed ∧ (pace u t).setpoint = paceFixed s t) ∧
        (bit v 31 = false → s.mode.mode ≠ .loading → ackTaken w = false → paceFixed s t ≠ (pace s t).setpoint →
          (pace u t).st = .stopped ∧ (pace u t).setpoint = (pace s t).setpoint ∧ recorded s u (.tract t) 14)) ∧
    (∀ (s : State) (t : Fin 8) (p e : Nat), running s = true → (pace s t).raising = some (p, e) → e ≤ 2 * s.now →
      ∃ u, exec (.raiseCredited t) s = .next u ∧ u = { s with paces := u.paces, intc := u.intc } ∧
        pace u t = { pace s t with raising := none } ∧ ∀ x, x ≠ t.val → pace u x = pace s x)) ∧
  (
    ∀ (s : State) (r : List (BitVec 16)) (i : Nat) (x : BitVec 16), running s = true → hottest s 0 r none = some (i, x) →
      ∃ t, exec (.tempUpdate r) s = .next t ∧ regsOnly { s with power := t.power } t [R.GLOBAL_TEMP] ∧
        rd t R.GLOBAL_TEMP = pack [(16, i), (0, x.toNat)] ∧ t.power = { s.power with thermAlert := t.power.thermAlert } ∧
        (∀ (j : Nat) (y : BitVec 16), r[j]? = some y → sensorPresent s j = true → y.toInt ≤ x.toInt) ∧
        (rbit s R.GLOBAL_TEMP_ALERT 31 = false → t.power.thermAlert = false) ∧
        (rbit s R.GLOBAL_TEMP_ALERT 31 = true → ((rd s R.GLOBAL_TEMP_ALERT).extractLsb' 0 16).toInt ≤ x.toInt → t.power.thermAlert = true) ∧
        (rbit s R.GLOBAL_TEMP_ALERT 31 = true → x.toInt ≤ ((rd s R.GLOBAL_TEMP_ALERT).extractLsb' 0 16).toInt - 20 →
          t.power.thermAlert = false) ∧
        (rbit s R.GLOBAL_TEMP_ALERT 31 = true → ((rd s R.GLOBAL_TEMP_ALERT).extractLsb' 0 16).toInt - 20 < x.toInt →
          x.toInt < ((rd s R.GLOBAL_TEMP_ALERT).extractLsb' 0 16).toInt → t.power.thermAlert = s.power.thermAlert))

/-- Each of the four MDIO frames and the two I2C transactions, while BUSY is 0, sets BUSY and leaves on the bus with its operands; while
BUSY is 1 the write has no effect, and a write without GO does not change the transaction under way. When it ends BUSY clears: an MDIO
read shows the word that was read, or 0xFFFF where nothing responded; an I2C read that was answered shows its byte in RDATA bits 7 to 0; a
write that was answered leaves RDATA as it was; an unanswered I2C transaction sets ERR and leaves RDATA. -/
def Obligations.SidebandTransactions : Prop :=
  (∀ (s : State) (port : BitVec 7) (devad : BitVec 5) (data : BitVec 16), barOpen s = true →
    ∀ c ∈ [(Instr.mdioAddress port devad data, sbWord false 0 port devad data), (.mdioWrite port devad data, sbWord false 1 port devad data),
        (.mdioReadInc port devad data, sbWord false 2 port devad data), (.mdioRead port devad data, sbWord false 3 port devad data),
        (.i2cWrite port devad data, sbWord true 1 port devad data), (.i2cRead port devad data, sbWord true 3 port devad data)],
      (rbit s R.LINE_SB_STATUS 31 = false → ∃ t, exec c.1 s = .next t ∧
        answersOnly { s with line := { s.line with sb := c.2 &&& 0x7FFFFFFF } } t [R.LINE_SB_CMD, R.LINE_SB_STATUS] [.sideband (c.2 &&& 0x7FFFFFFF)] ∧
        rbit t R.LINE_SB_STATUS 31 = true ∧ rd t R.LINE_SB_STATUS &&& 0xFFFF = rd s R.LINE_SB_STATUS &&& 0xFFFF ∧
        rd t R.LINE_SB_CMD &&& 0x7FFFFFFF = c.2 &&& 0x7FFFFFFF) ∧
      (rbit s R.LINE_SB_STATUS 31 = true → ∃ t, exec c.1 s = .next t ∧ intcOnly s t)) ∧
  (∀ (s : State) (v : Word), bit v 31 = false → (sbCmdEff v s).line = s.line ∧ (sbCmdEff v s).wire = s.wire ∧
    rd (sbCmdEff v s) R.LINE_SB_STATUS = rd s R.LINE_SB_STATUS) ∧
  (∀ (s : State) (r : Option (BitVec 16)), running s = true → rbit s R.LINE_SB_STATUS 31 = true →
    let i2c := bit s.line.sb 30
    let reads := bit s.line.sb 29
    ∃ t, exec (.sidebandDone r) s = .next t ∧ regsOnly s t [R.LINE_SB_STATUS] ∧ rbit t R.LINE_SB_STATUS 31 = false ∧
      (i2c = false → reads = true → rd t R.LINE_SB_STATUS = BitVec.ofNat 32 (r.getD 0xFFFF).toNat) ∧
      (i2c = false → reads = false → rd t R.LINE_SB_STATUS = rd s R.LINE_SB_STATUS &&& 0xFFFF) ∧
      (∀ d, i2c = true → r = some d → reads = true → rd t R.LINE_SB_STATUS = BitVec.ofNat 32 (d.toNat % 256)) ∧
      (∀ d, i2c = true → r = some d → reads = false → rd t R.LINE_SB_STATUS = rd s R.LINE_SB_STATUS &&& 0xFFFF) ∧
      (i2c = true → r = none → rbit t R.LINE_SB_STATUS 30 = true ∧ rd t R.LINE_SB_STATUS &&& 0xFFFF = rd s R.LINE_SB_STATUS &&& 0xFFFF))

/-! ### The line: codewords, convoys, ranging (chapters 03 and 04) -/

/-- A codeword while reception is on: the lane's run of good codewords at one position grows or restarts, lock is gained at 4 and lost at
8 bad ones in a row, an uncorrectable codeword counts, a corrected one counts, and no other lane changes. The 20 blocks of a lane whose
place is known are held at that place, unless data is being discarded: all erased when the codeword could not be corrected or the lanes
are skewed. A codeword that finds the receive FIFO full is recorded as an overrun, and each lane's data is discarded up to its next convoy
start (the model's reading of the FIFO, log 116). -/
def Obligations.CodewordLaneRules : Prop :=
  ∀ (s : State) (l : Fin 16) (bits : BitVec 5600) (pos age : Nat), running s = true → s.mode.lineOn = true →
    let b := rxBits s l bits
    let x := lane s l
    let good := match decodeCodeword b with | some d => d.sync | none => false
    ∃ t, exec (.codeword l bits pos age) s = .next t ∧
      t = { s with regs := t.regs, line := t.line, intc := t.intc } ∧
      (∀ k, k ≠ l.val → lane t k = lane s k) ∧ (lane t l).pos = pos ∧
      (x.locked = false → ((lane t l).locked = true ↔ good = true ∧ pos = x.pos ∧ 3 ≤ x.good)) ∧
      (x.locked = true → ((lane t l).locked = false ↔ good = false ∧ 7 ≤ x.bad)) ∧
      (x.locked = true → (lane t l).locked = false → rbit t Block.line.base 2 = true) ∧
      (decodeCodeword b = none → rd t R.LINE_CNT_FEC_UNCORR = sat32 ((rd s R.LINE_CNT_FEC_UNCORR).toNat + 1) ∧
        rd t R.LINE_CNT_FEC_CORR = rd s R.LINE_CNT_FEC_CORR) ∧
      (∀ d, decodeCodeword b = some d → rd t R.LINE_CNT_FEC_UNCORR = rd s R.LINE_CNT_FEC_UNCORR ∧
        rd t R.LINE_CNT_FEC_CORR = (if d.fixed = 0 then rd s R.LINE_CNT_FEC_CORR else sat32 ((rd s R.LINE_CNT_FEC_CORR).toNat + 1))) ∧
      (∀ p a, (lane t l).last = some (p, a) → t.line.drops = none → t.line.trunc = false →
        ∃ h, (p, h) ∈ (lane t l).held ∧ (decodeCodeword b = none ∨ t.line.skewed = true → h.blocks.all (· == none) = true) ∧
          (∀ d, decodeCodeword b = some d → t.line.skewed = false → h.blocks = (laneBlocks 20 d.body x.descr).1)) ∧
      (∀ p a, (lane t l).last = some (p, a) → lineHeld s = true → s.line.drops = none → s.line.live = false →
        32768 < s.line.fill + 640 → t.line.drops = some (p / 2500 * 2500, pins) ∧ rbit t Block.line.base 1 = true) ∧
      (∀ p a q ls, (lane t l).last = some (p, a) → lineHeld s = false → s.line.drops = some (q, ls) → l.val ∈ ls →
        (p % 2500 = 0 ∧ p ≠ q → t.line.drops = some (q, ls.filter (· != l.val))) ∧
        (¬(p % 2500 = 0 ∧ p ≠ q) → t.line.drops = some (q, ls) ∧ (lane t l).held = x.held))

/-- With no convoy found, nothing happens. The header of a found convoy is the first 36 octets of its body. An accepted one makes the
convoy the one in progress with the counts that it states, counts it, keeps its number and moves the reach counter by the difference
between REACH_TIME and its count at the sampling instant; one that is not accepted is counted and recorded, abandons every frame under
reassembly, ends lock, and no map entry, message or segment of the convoy does anything after it. Of an accepted one a domain that is
present, valid and not OFF takes a measurement, with LINE_RTT in force at this start not zero; another does not change. -/
def Obligations.ConvoyHeaderJudged : Prop :=
  (∀ s : State, running s = true → s.line.found = none → ∃ t, exec .convoyHeader s = .next t ∧ intcOnly s t) ∧
  (∀ (s : State) (p : Nat) (o : Octets) (b : Bytes), running s = true → s.line.found = some p →
    bodyOctets (convoyStart p s) p 0 36 = .octets o → headerAccepted o = some b →
    ∃ t, exec .convoyHeader s = .next t ∧
      t.line.convoys = s.line.convoys + 1 ∧ t.line.found = none ∧ t.line.live = true ∧ t.line.lock = true ∧ t.line.start = p ∧
      t.line.number = BitVec.ofNat 32 (beAt b 0 4) ∧ t.line.maps = beAt b 28 2 ∧ t.line.mapsDone = 0 ∧ t.line.hems = beAt b 30 1 ∧
      t.line.hemsDone = 0 ∧ t.line.cursor = 48 + 16 * beAt b 28 2 ∧ t.line.ended = false ∧
      rd t R.LINE_CONVOY_LAST = BitVec.ofNat 32 (beAt b 0 4) ∧ rd t R.LINE_CNT_CONVOY = sat32 ((rd s R.LINE_CNT_CONVOY).toNat + 1) ∧
      t.time.reachSet = true ∧
      (s.time.reachSet = true → t.time.reach = s.time.reach + (toClock (BitVec.ofNat 64 (beAt b 4 8)) - s.line.tcReach)) ∧
      (∀ d : Bool,
        let rtt := lineRtt (rangeEffects (convoyStart p s))
        let valid := (b.getD 31 0).getLsbD (if d then 6 else 7)
        let at_ := BitVec.ofNat 64 (beAt b (if d then 20 else 12) 8)
        let e := clockDiff (clockAdd (toClock at_) (((rtt : Int) + (rd s (R.TIME_ASYM (b2n d))).toInt) * 2 ^ 35)) (if d then s.line.tcB else s.line.tcA)
        (hasDomain s d = true → valid = true → (dom s d).st ≠ .off → rtt ≠ 0 →
          dom t d = dom (measure s d e) d ∧ domIncr t d = domIncr (measure s d e) d ∧ rd t (R.TIME_RESID (b2n d)) = sixteenths e) ∧
        (¬(hasDomain s d = true ∧ valid = true ∧ (dom s d).st ≠ .off ∧ rtt ≠ 0) → dom t d = dom s d ∧ domIncr t d = domIncr s d)) ∧
      t.mode = s.mode ∧ t.table = s.table ∧ t.queues = s.queues) ∧
  (∀ (s : State) (p : Nat), running s = true → s.line.found = some p →
    (∀ o, bodyOctets (convoyStart p s) p 0 36 = .octets o → headerAccepted o = none) →
    ∃ t, exec .convoyHeader s = .next t ∧
      t.line.convoys = s.line.convoys + 1 ∧ t.line.found = none ∧ t.line.live = false ∧ t.line.lock = false ∧ t.reasm.ctxs = [] ∧
      t.time = s.time ∧ rd t R.LINE_CNT_CONVOY_BAD = sat32 ((rd s R.LINE_CNT_CONVOY_BAD).toNat + 1) ∧ rbit t Block.line.base 4 = true ∧
      t.table = s.table ∧ t.queues = s.queues ∧
      ∀ ecc, exec (.mapEntry ecc) t = .next (settle t) ∧ exec .hem t = .next (settle t) ∧ exec .segment t = .next (settle t))

/-- Once a convoy has started, ROUTE_PARAMS sets L as valid and P, and an ASSIGN_EQD that does not exceed the L then in force sets EQD,
LOADED and VALID; one that exceeds it is discarded and recorded as EQD_BAD, with the EQD kept where no new L came with it. What waited is
gone. That each takes effect by a command once the convoy count has passed the one at which it was staged is the model's reading (log 19).
-/
def Obligations.RouteAndEqdTakeEffect : Prop :=
  (∀ (s : State) (l : BitVec 30) (p : Word), running s = true → isDue s s.line.route = some (l, p) →
    ∃ t, exec .routeParamsTakeEffect s = .next t ∧ rd t R.LINE_LOGICAL_REACH = setBit (l.setWidth 32) 31 true ∧ rd t R.LINE_BURST_P = p ∧
      t.line.route = none ∧ t.table = s.table ∧ t.queues = s.queues) ∧
  (∀ (s : State) (e : BitVec 30) (r : Bool), running s = true → isDue s s.line.eqd = some (e, r) →
    let l := match isDue s s.line.route with | some (l, _) => l.toNat | none => logicalReach s
    ∃ t, exec .eqdLoad s = .next t ∧ t.line.eqd = none ∧ t.table = s.table ∧ t.queues = s.queues ∧
      (e.toNat ≤ l → eqdNow t = e.toNat ∧ ranged t = r ∧ rbit t R.LINE_EQD 30 = true ∧ (r = true → rbit t R.LINE_RANGE_EVENT 1 = true)) ∧
      (l < e.toNat → rbit t Block.line.base 13 = true ∧ (isDue s s.line.route = none → rd t R.LINE_EQD = rd s R.LINE_EQD)))

/-- Once a convoy has started, a waiting ID becomes the own ID and perfect-match entry 0, BURST_SEQ restarts, VALID and LOADED clear, the
key slots are empty, the substate is REGISTERED and the event sets, also within a boot load, which then ends in it (log 78). Where the
terminal has left LISTEN and SILENT the assignment is only forgotten. A good KEY_MSG for the own ID that is next in the convoy in
progress: without a cipher it is answered with NO_CIPHER; out of form it is recorded as KEY_FORMAT. An OFFER for a slot that is not active
and whose signature is good stages the slot's keys, keeps a KEK and is answered with an ANSWER; one whose signature fails is recorded as
OFFER_SIG, a good one for the active slot as its own fault. ACTIVATE makes its slot the upstream slot from PN 1; GROUP stages the
unwrapped key, or is recorded as UNWRAP; RETIRE stages the emptying of its slot; each is answered with an ACK. Every reply carries the
message's HEM_SEQ and repeats bytes 1 to 3 of its body. The ephemeral scalar is free (log 20); the order of the checks is the model's
reading (log 100). -/
def Obligations.IdentityAndKeys : Prop :=
  (
    ∀ (s : State) (tid : BitVec 12), running s = true → isDue s s.line.ident = some tid →
      ∃ t, exec .assignIdTakesEffect s = .next t ∧ t.line.ident = none ∧
        (unregistered s = false → t = { s with line := { s.line with ident := none }, intc := t.intc }) ∧
        (unregistered s = true → ownId t = some tid.toNat ∧ rd t (R.LINE_PM 0) = rd t R.LINE_TID ∧ pmEntry t 0 = rd t R.LINE_TID ∧
          t.line.seq = some 0 ∧ rbit t R.LINE_EQD 31 = false ∧ rbit t R.LINE_EQD 30 = false ∧
          (∀ k, look none t.keys.down k = none ∧ look none t.keys.up k = none) ∧ t.keys.upSlot = 0 ∧ t.mode.mode = s.mode.mode ∧
          (s.mode.mode ≠ .loading → t.mode.sub = .registered) ∧ (s.mode.mode = .loading → t.mode.backSub = .registered) ∧
          rbit t R.LINE_RANGE_EVENT 0 = true)) ∧
  (
    ∀ (s : State) (o : Octets) (h : Hem), running s = true → hemTurn s = true → hemOctets s s.line.cursor = .octets o → checkHem o = .good h →
      hemAddressed s h.tid = true → hemMine s h = true → h.type = 0x10 →
      let slot := beAt h.body 1 1 % 4
      let op := beAt h.body 0 1
      let row : Instr := match op with | 1 => .offer | 3 => .activate | 4 => .group | 5 => .retire | _ => .keyMsg
      let key (info : Bytes) (n : Nat) : Bytes := hkdf384 (beBytes 8 s.fuses.serial.toNat ++ slice h.body 2 2) (sharedOctets s.free h.body) info n
      let reply (t : State) (op : Byte) : Prop := ∃ m, t.msgs = s.msgs ++ [m] ∧ m.ring = false ∧ slice m.bytes 4 2 = beBytes 2 h.seq ∧
        slice m.bytes 8 4 = op :: slice h.body 1 3
      (hasCipher s = false → ∃ t, exec row s = .next t ∧ t.keys = s.keys ∧ reply t 0x06) ∧
      (hasCipher s = true → keyForm s h.body = false →
        ∃ t, exec row s = .next t ∧ t.keys = s.keys ∧ t.msgs = s.msgs ∧ recorded s t .cipher 6) ∧
      (hasCipher s = true → keyForm s h.body = true → op = 1 → s.keys.upSlot ≠ slot → offerGood s h.body = true →
        ∃ t, exec .offer s = .next t ∧ reply t 0x02 ∧ t.keys.down = s.keys.down ∧ t.keys.up = s.keys.up ∧
          let dn := key [0x44#8, 0x52#8, 0x50#8, 0x2D#8, 0x44#8] 36
          let up := key [0x44#8, 0x52#8, 0x50#8, 0x2D#8, 0x55#8] 36
          t.keys.kek = some (key [0x44#8, 0x52#8, 0x50#8, 0x2D#8, 0x4B#8] 32) ∧
          t.keys.waiting = s.keys.waiting ++ [⟨slot, some ⟨dn.take 32, dn.drop 32, 0⟩, some (some ⟨up.take 32, up.drop 32, 1⟩), s.line.convoys⟩]) ∧
      (hasCipher s = true → keyForm s h.body = true → op = 1 → s.keys.upSlot ≠ slot → offerGood s h.body = false →
        ∃ t, exec .offer s = .next t ∧ t.keys = s.keys ∧ t.msgs = s.msgs ∧ recorded s t .cipher 3) ∧
      (hasCipher s = true → keyForm s h.body = true → op = 1 → s.keys.upSlot = slot → offerGood s h.body = true →
        ∃ t, exec .offer s = .next t ∧ t.keys = s.keys ∧ t.msgs = s.msgs ∧ recorded s t .cipher 4) ∧
      (hasCipher s = true → keyForm s h.body = true → op = 3 →
        ∃ t k, exec .activate s = .next t ∧ reply t 0x07 ∧ t.keys.upSlot = slot ∧ look none s.keys.up slot = some k ∧
          look none t.keys.up slot = some { k with pn := 1 } ∧ t.keys.down = s.keys.down ∧ rbit t R.LINE_RANGE_EVENT 5 = true) ∧
      (hasCipher s = true → keyForm s h.body = true → op = 4 →
        ∃ t, exec .group s = .next t ∧ t.keys.down = s.keys.down ∧ t.keys.up = s.keys.up ∧
          match s.keys.kek.bind fun k => keyUnwrap k (slice h.body 4 48) with
          | some k => reply t 0x07 ∧
              t.keys.waiting = s.keys.waiting ++ [⟨4 * (beAt h.body 1 1 / 16) + slot, some ⟨slice k 0 32, slice k 32 4, 0⟩, none, s.line.convoys⟩]
          | none => t.keys = s.keys ∧ t.msgs = s.msgs ∧ recorded s t .cipher 5) ∧
      (hasCipher s = true → keyForm s h.body = true → op = 5 →
        ∃ t, exec .retire s = .next t ∧ reply t 0x07 ∧
          t.keys.waiting = s.keys.waiting ++ [⟨4 * (beAt h.body 1 1 / 16) + slot, none, some none, s.line.convoys⟩] ∧
          t.keys.down = s.keys.down))

/-- Key changes that have waited for a convoy start take effect in the order staged, the last of a slot deciding it, and no other slot
changes; the active upstream slot stays unless it is emptied, and is then 0 (the model's reading, log 71). The slots that are to be
emptied at a convoy start are emptied once one has started. A context without a segment for TIMEOUT convoys is abandoned and counted.
After WAIT convoys without an answer the number of windows to let pass is the next draw of the source that the last reset has seeded from
the serial number and the reach counter (a value that nothing constrains, log 21). -/
def Obligations.ConvoyTimersRun : Prop :=
  (∀ s : State, running s = true →
    let due := s.keys.waiting.filter fun w => decide (w.since < s.line.convoys)
    ∃ t, exec .keyInstall s = .next t ∧ t = { s with keys := t.keys, intc := t.intc } ∧
      t.keys.waiting = s.keys.waiting.filter (fun w => !decide (w.since < s.line.convoys)) ∧
      (∀ n w, (due.filter fun w => w.slot == n).getLast? = some w → look none t.keys.down n = w.key) ∧
      (∀ n, (∀ w ∈ due, w.slot ≠ n) → look none t.keys.down n = look none s.keys.down n) ∧
      (∀ n w, n < 4 → (due.filter fun w => w.slot == n && w.up.isSome).getLast? = some w → some (look none t.keys.up n) = w.up) ∧
      (∀ n, (∀ w ∈ due, w.slot = n → n < 4 → w.up = none) → look none t.keys.up n = look none s.keys.up n) ∧
      ((∀ w ∈ due, w.key = none → w.slot ≠ s.keys.upSlot) → t.keys.upSlot = s.keys.upSlot) ∧
      (s.keys.upSlot < 4 → (∃ w ∈ due, w.key = none ∧ w.slot = s.keys.upSlot) → t.keys.upSlot = 0)) ∧
  (∀ (s : State) (n : Nat), running s = true → s.keys.emptyAt = some n → n < s.line.convoys →
    ∃ t, exec .keySlotsEmptied s = .next t ∧ t = { s with keys := t.keys, intc := t.intc } ∧
      (∀ k, look none t.keys.down k = none ∧ look none t.keys.up k = none) ∧ t.keys.upSlot = 0 ∧ t.keys.waiting = []) ∧
  (∀ (s : State) (tid : BitVec 12) (flow : BitVec 16) (c : Context), running s = true → findCtx s tid.toNat flow.toNat = some c →
    c.seen + zeroAsOne (rfld s R.LINE_REASM_CTL 16 8) < s.line.convoys →
    ∃ t, exec (.reassemblyTimeout tid flow) s = .next t ∧ findCtx t tid.toNat flow.toNat = none ∧
      rd t R.LINE_CNT_REASM_DROP = sat32 ((rd s R.LINE_CNT_REASM_DROP).toNat + 1) ∧ recorded s t .line 10 ∧
      (∀ x ∈ s.reasm.ctxs, ¬(x.tid = tid.toNat ∧ x.flow = flow.toNat) → x ∈ t.reasm.ctxs)) ∧
  (∀ (s : State) (n : Nat), running s = true → s.line.wait = some n → n ≤ s.line.convoys →
    ∃ t, exec .registerWaitEnd s = .next t ∧ t = { s with line := t.line, intc := t.intc } ∧
      t.line = { s.line with wait := none, draws := s.line.draws + 1, skip := t.line.skip } ∧
      t.line.skip = Config.backoff s.fuses.serial s.line.seed s.line.draws % 2 ^ Nat.min (rfld s R.LINE_REG_CTL 26 4) 10)

/-! ### Head-end messages (03 R160-R167, 04) -/

/-- Every judgement of a message belongs to exactly one of the twelve message rows (the model's division of the rows, log 2). In the
messages' turn, the next message waits while it has not been received and is lost with the rest of the convoy where it is cut off; a row
does nothing with a message of another row, and with its own moves on to the octet after it. A message that is not addressed to the
terminal has no other effect. HEM counts and records a discarded message, and one with an untrusted BODY_LEN ends the convoy and abandons
every frame under reassembly; a site-defined message joins its ring, or is counted as dropped. The next message of the convoy in progress
is good, addressed to the terminal and names its type's addressee: ASSIGN_ID for the serial number in LISTEN or SILENT, ASSIGN_EQD and a
ROUTE_PARAMS in range wait for the next convoy start; a ROUTE_PARAMS out of range is recorded; DEREGISTER enters SILENT at once, or at the
end of a load, or after the commit of its own instant that has taken the terminal out of its mode, with the ID it had, also while the core
is about to lose its power (the model's order of that instant, log 118); WAKE in FALLOW raises the wake source with a request for SERVICE
(that PENDING then reads 1 is the model's choice, log 123); TIME_EPOCH for the convoy that carries it is held. -/
def Obligations.HeadEndMessages : Prop :=
  (
    let rows : List (Instr × (HemCheck → Bool)) := [(.hem, isSite), (.assignId, isType 1), (.assignEqd, isType 2), (.routeParams, isType 3),
      (.deregister, isType 4), (.wake, isType 0x20), (.timeEpoch, isType 0x21), (.offer, isKeyOp 1), (.activate, isKeyOp 3), (.group, isKeyOp 4),
      (.retire, isKeyOp 5), (.keyMsg, isKeyOther)]
    (∀ c : HemCheck, (rows.filter fun r => r.2 c).length = 1) ∧
    (∀ (s : State) (r : Instr × (HemCheck → Bool)), r ∈ rows → running s = true →
      ∃ t, exec r.1 s = .next t ∧
        (hemTurn s = false → intcOnly s t) ∧
        (hemTurn s = true → hemOctets s s.line.cursor = .wait → intcOnly s t) ∧
        (hemTurn s = true → hemOctets s s.line.cursor = .cut → t = { s with line := { s.line with ended := true }, intc := t.intc }) ∧
        (∀ o, hemTurn s = true → hemOctets s s.line.cursor = .octets o →
          (r.2 (checkHem o) = false → intcOnly s t) ∧
          (r.2 (checkHem o) = true → t.line.hemsDone = s.line.hemsDone + 1 ∧ t.line.cursor = s.line.cursor + o.length ∧
            ∀ h, checkHem o = .good h → hemAddressed s h.tid = false → meetsLeft s h = false →
              t = { s with line := { s.line with hemsDone := s.line.hemsDone + 1, cursor := s.line.cursor + o.length }, intc := t.intc }))) ∧
    (∀ (s : State) (o : Octets), running s = true → hemTurn s = true → hemOctets s s.line.cursor = .octets o →
      let s1 := hemNext o.length s
      let ring_ := rfld s R.LINE_HEM_CTL 0 8
      ∃ t, exec .hem s = .next t ∧
        (checkHem o = .trusted → regsOnly s1 t (R.LINE_CNT_HEM_BAD :: recordOf .line) ∧
          rd t R.LINE_CNT_HEM_BAD = sat32 ((rd s R.LINE_CNT_HEM_BAD).toNat + 1) ∧ recorded s t .line 8) ∧
        (checkHem o = .untrusted → t.line.ended = true ∧ t.reasm.ctxs = [] ∧
          rd t R.LINE_CNT_HEM_BAD = sat32 ((rd s R.LINE_CNT_HEM_BAD).toNat + 1) ∧ rbit t Block.line.base 8 = true) ∧
        ∀ h, checkHem o = .good h → hemAddressed s h.tid = true → hemConsumed h.type = false →
          (rbit s R.LINE_HEM_CTL 31 = true → ringOpen s ring_ = true →
            t = { s1 with rings := t.rings, intc := t.intc } ∧
            (ring t true ring_).inbox = (ring s true ring_).inbox ++ [.hem h.raw s.line.reach s.line.number false]) ∧
          (rbit s R.LINE_HEM_CTL 31 = true → ringOpen s ring_ = false →
            regsOnly s1 t [R.LINE_CNT_HEM_DROP, R.RING_CNT_OFF 1 ring_] ∧
            rd t R.LINE_CNT_HEM_DROP = sat32 ((rd s R.LINE_CNT_HEM_DROP).toNat + 1)) ∧
          (rbit s R.LINE_HEM_CTL 31 = false →
            regsOnly s1 t [R.LINE_CNT_HEM_DROP] ∧ rd t R.LINE_CNT_HEM_DROP = sat32 ((rd s R.LINE_CNT_HEM_DROP).toNat + 1)))) ∧
  (
    (∀ (s : State) (o : Octets) (h : Hem), running s = true → hemTurn s = true → hemOctets s s.line.cursor = .octets o → checkHem o = .good h →
      hemAddressed s h.tid = true → hemMine s h = true → meetsLeft s h = false →
      (h.type = 0x01 → serialMatches s h.body = true → unregistered s = true → beAt h.body 8 2 % 4096 ≠ 0 → beAt h.body 8 2 % 4096 ≠ 0xFFF →
        ∃ t, exec .assignId s = .next t ∧ t.line.ident = some ⟨BitVec.ofNat 12 (beAt h.body 8 2 % 4096), s.line.convoys⟩ ∧ t.mode = s.mode) ∧
      (h.type = 0x02 → registered s = true →
        ∃ t, exec .assignEqd s = .next t ∧
          t.line.eqd = some ⟨(BitVec.ofNat 30 (beAt h.body 0 4), (h.body.getD 4 0).getLsbD 0), s.line.convoys⟩ ∧ t.mode = s.mode) ∧
      (h.type = 0x03 → beAt h.body 0 4 % 2 ^ 30 ≤ 838400000 → beAt h.body 4 2 ≠ 0 →
        ∃ t, exec .routeParams s = .next t ∧
          t.line.route = some ⟨(BitVec.ofNat 30 (beAt h.body 0 4 % 2 ^ 30), BitVec.ofNat 32 (beAt h.body 4 2)), s.line.convoys⟩) ∧
      (h.type = 0x03 → (838400000 < beAt h.body 0 4 % 2 ^ 30 ∨ beAt h.body 4 2 = 0) →
        ∃ t, exec .routeParams s = .next t ∧ t.line.route = s.line.route ∧ rbit t Block.line.base 12 = true) ∧
      (h.type = 0x04 → registered s = true → serialMatches s h.body = true → s.mode.mode ≠ .loading →
        ∃ t, exec .deregister s = .next t ∧ t.mode.mode = .provision ∧ t.mode.sub = .silent ∧ ranged t = false ∧
          rbit t R.LINE_EQD 30 = false ∧ t.line.eqd = none ∧ rbit t R.LINE_RANGE_EVENT 3 = true ∧ (∀ e ∈ t.table, e.kind = .register) ∧
          t.mode.request = s.mode.request ∧ t.mode.met = s.mode.request.isSome ∧ t.keys.emptyAt = some s.line.convoys ∧ ownId t = ownId s) ∧
      (h.type = 0x04 → registered s = true → serialMatches s h.body = true → s.mode.mode = .loading →
        ∃ t, exec .deregister s = .next t ∧ t.mode = { s.mode with dereg := true }) ∧
      (h.type = 0x20 → s.mode.mode = .fallow →
        ∃ t, exec .wake s = .next t ∧ t.mode.wake = true ∧ t.mode.mode = .fallow ∧ t.mode.request = some (s.mode.request.getD .service)) ∧
      (h.type = 0x21 → beAt h.body 0 1 = 0 → beAt h.body 4 4 = s.line.number.toNat →
        ∃ t, exec .timeEpoch s = .next t ∧ epochHeld t false = true ∧ rd64 t (R.TIME_EPOCH_SEC 0) = BitVec.ofNat 64 (beAt h.body 8 6) ∧
          rd t (R.TIME_EPOCH_NS 0) = BitVec.ofNat 32 (beAt h.body 16 4) ∧ rd64 t (R.TIME_EPOCH_REF 0) = s.line.domA ∧
          rbit t R.TIME_EVENT 14 = true)) ∧
    (∀ (s : State) (o : Octets) (h : Hem) (n : Nat) (tid : Word) (m : Mode), running s = true ∨ falling s = true → hemTurn s = true →
      hemOctets s s.line.cursor = .octets o → checkHem o = .good h → meetsLeft s h = true → s.mode.left = some (n, tid, m) →
      ∃ t, exec .deregister s = .next t ∧ t.mode.mode = .provision ∧ t.mode.sub = .silent ∧ t.mode.left = none ∧ running t = true ∧
        rd t R.LINE_TID = tid ∧ pmEntry t 0 = tid ∧ rbit t R.LINE_RANGE_EVENT 3 = true))

/-! ### Segments (03 R173-R184) -/

/-- The next segment of the convoy in progress, in the segments' turn: its header is on the next 8-byte boundary. It waits while it has
not been received, and is lost with the rest of the convoy where it is cut off. A bad header ends the convoy, abandons every open context,
counts and is recorded; the end marker ends the convoy; a FIRST or WHOLE abandons the open frame of its key; an ID that is not matched is
passed over; a KEY_INDEX without a key counts in LINE_CNT_SEG_KEY and is recorded; an erased payload abandons its frame. A payload in the
clear, or one whose PN is above the highest before and whose tag verifies, decrypted, is reassembled: within MAX_LEN and the pool a whole
frame starts at the reassembler's front with the row instant of its header as its stamp (R633), and counts; a FIRST opens a context, which
a MIDDLE extends and a LAST completes with the stamp of its first. That a part is taken once all its octets are there is the model's
division (log 18). -/
def Obligations.SegmentSteps : Prop :=
  ∀ s : State, running s = true →
    let off := roundUp s.line.cursor 8
    ∃ t, exec .segment s = .next t ∧
      (segTurn s = false → intcOnly s t) ∧
      (segTurn s = true → bodyOctets s s.line.start off 8 = .wait → intcOnly s t) ∧
      (segTurn s = true → bodyOctets s s.line.start off 8 = .cut → t = { s with line := { s.line with ended := true }, intc := t.intc }) ∧
      ∀ o, segTurn s = true → bodyOctets s s.line.start off 8 = .octets o →
        ((whole o).bind segFields = none → t.line.ended = true ∧ t.reasm.ctxs = [] ∧ rbit t Block.line.base 9 = true ∧
          rd t R.LINE_CNT_SEG_BAD = sat32 ((rd s R.LINE_CNT_SEG_BAD).toNat + 1)) ∧
        ∀ h, (whole o).bind segFields = some h →
          (h.len = 0 → h.tid = 0xFFF → t = { s with line := { s.line with ended := true }, intc := t.intc }) ∧
          (h.len = 0 → h.tid ≠ 0xFFF → t.line.ended = true ∧ t.reasm.ctxs = [] ∧ rbit t Block.line.base 9 = true) ∧
          (h.len ≠ 0 → bodyOctets s s.line.start (off + 8) h.len = .wait → intcOnly s t) ∧
          (h.len ≠ 0 → bodyOctets s s.line.start (off + 8) h.len = .cut → t.line.ended = true) ∧
          ∀ p, h.len ≠ 0 → bodyOctets s s.line.start (off + 8) h.len = .octets p →
            t.line.cursor = off + roundUp (8 + h.len) 8 ∧
            (pmMatches s h.tid = false → h.starts = false ∨ findCtx s h.tid h.flow = none →
              t = { s with line := { s.line with cursor := off + roundUp (8 + h.len) 8 }, intc := t.intc }) ∧
            (h.starts = true → findCtx s h.tid h.flow ≠ none → rbit t Block.line.base 10 = true ∧
              (pmMatches s h.tid = false → findCtx t h.tid h.flow = none ∧
                rd t R.LINE_CNT_REASM_DROP = sat32 ((rd s R.LINE_CNT_REASM_DROP).toNat + 1))) ∧
            (pmMatches s h.tid = true → segNoKey s h = true →
              rd t R.LINE_CNT_SEG_KEY = sat32 ((rd s R.LINE_CNT_SEG_KEY).toNat + 1) ∧ rbit t Block.line.base 11 = true ∧
              (skipping s h = none → findCtx t h.tid h.flow = none)) ∧
            (pmMatches s h.tid = true → segNoKey s h = false → whole p = none → skipping s h = none → findCtx t h.tid h.flow = none) ∧
            (∀ (b : Bytes) (keys : Keys), pmMatches s h.tid = true →
              ((h.key = 0 ∧ whole p = some b ∧ keys = s.keys) ∨ (∃ n k q, h.key ≠ 0 ∧ segKey s h = some (n, k) ∧ whole p = some q ∧
                k.high < beAt q 0 8 ∧ segTagOk k h q = true ∧ b = gcmApply k.key (k.salt ++ q.take 8) ((q.drop 8).take (q.length - 24)) ∧
                keys = { s.keys with down := put none s.keys.down n (some { k with high := beAt q 0 8 }) })) →
              t.keys = keys ∧
              (h.frag = 3 → findCtx s h.tid h.flow = none → 60 ≤ b.length → b.length ≤ reasmMax s → granulesOf b.length ≤ poolFree s →
                rd t R.LINE_CNT_REASM_OK = sat32 ((rd s R.LINE_CNT_REASM_OK).toNat + 1) ∧
                ∃ f, t.flights = s.flights ++ [f] ∧ f.data = b ∧ f.tok.port = 17 ∧ f.tok.len = b.length ∧ f.tok.stamp = (rowInstant s off).1) ∧
              (h.frag = 2 → findCtx s h.tid h.flow = none → s.reasm.ctxs.length < 4096 → b.length ≤ reasmMax s → granulesOf b.length ≤ poolFree s →
                t.reasm.ctxs = s.reasm.ctxs ++ [⟨h.tid, h.flow, h.key, b, s.line.convoys, (rowInstant s off).1, (rowInstant s off).2⟩]) ∧
              ∀ c, h.frag < 2 → findCtx s h.tid h.flow = some c → h.key = c.key → (c.bytes ++ b).length ≤ reasmMax s →
                granulesOf (c.bytes ++ b).length ≤ poolFree s + granulesOf c.bytes.length →
                (h.frag = 0 → findCtx t h.tid h.flow = some { c with bytes := c.bytes ++ b, seen := s.line.convoys }) ∧
                (h.frag = 1 → findCtx t h.tid h.flow = none ∧ (60 ≤ (c.bytes ++ b).length →
                  rd t R.LINE_CNT_REASM_OK = sat32 ((rd s R.LINE_CNT_REASM_OK).toNat + 1) ∧
                  ∃ f, t.flights = s.flights ++ [f] ∧ f.data = c.bytes ++ b ∧ f.tok.port = 17 ∧ f.tok.stamp = c.stamp)))

/-! ### Allotments and the headgate (chapters 05 and 06) -/

/-- The next map entry of the convoy in progress, in the map's turn and outside a load: one that is erased or whose check fails is counted
and recorded; one that the substate does not take is ignored. Admission refuses an entry too short, for an undefined AID, too late or too
far, overlapping, or beyond the table, each with its counter and its record; otherwise the entry joins the table as waiting and is
counted. Entries that the overlap check finds uncorrectable leave the table first. That an entry waits for its octets (log 18) and that
admission goes by the launch instant under the L and EQD of the moment (log 60) are the model's reading. -/
def Obligations.MapEntryAdmission : Prop :=
  ∀ (s : State) (ecc : List Nat), running s = true →
    ∃ t, exec (.mapEntry ecc) s = .next t ∧
      (mapTurn s = false → intcOnly s t) ∧
      let got := bodyOctets s s.line.start (48 + 16 * s.line.mapsDone) 16
      let s1 := { s with line := { s.line with mapsDone := s.line.mapsDone + 1 } }
      (mapTurn s = true → got = .wait → intcOnly s t) ∧
      (mapTurn s = true → got = .cut → t = { s with line := { s.line with ended := true }, intc := t.intc }) ∧
      ∀ o, mapTurn s = true → got = .octets o →
        t = { s1 with regs := t.regs, table := t.table, serial := t.serial, intc := t.intc } ∧
        (s.mode.mode = .loading → intcOnly s1 t) ∧
        (s.mode.mode ≠ .loading → whole o = none → regsOnly s1 t (R.LINE_CNT_MAP_BAD :: recordOf .line) ∧ recorded s t .line 7 ∧
          rd t R.LINE_CNT_MAP_BAD = sat32 ((rd s R.LINE_CNT_MAP_BAD).toNat + 1)) ∧
        (∀ b, s.mode.mode ≠ .loading → whole o = some b → beAt b 12 2 ≠ (crc16 (slice b 0 12)).toNat →
          regsOnly s1 t (R.LINE_CNT_MAP_BAD :: recordOf .line) ∧ recorded s t .line 7) ∧
        (∀ b, s.mode.mode ≠ .loading → whole o = some b → beAt b 12 2 = (crc16 (slice b 0 12)).toNat →
          let tid := (mapFields b).1
          let e := (mapFields b).2
          let lost (f : Entry) : Bool := s.table.any fun g => g.id == f.id && ecc.contains (tableIndex s g)
          let kept := s.table.filter fun f => !lost f
          let refused (a code : Nat) : Prop := regsOnly s1 t (a :: recordOf .line) ∧ recorded s t .line code ∧ rd t a = sat32 ((rd s a).toNat + 1)
          let barred (a code : Nat) : Prop := regsOnly { s1 with table := kept } t (a :: recordOf .line ++ recordOf .queue) ∧
            recorded s t .line code ∧ rd t a = sat32 ((rd s a).toNat + 1)
          let long := rfld s R.LINE_BURST_P 0 16 + 160 ≤ e.len
          let known := e.kind ≠ .data ∨ aidDefined s e.aid = true
          let soon := (hgLead s : Int) ≤ lead (launchAt s e) (reachNow s)
          let near := rfld s R.LINE_ADMIT_HORIZON 0 16 = 0 ∨
            lead (launchAt s e) (reachNow s) ≤ (rfld s R.LINE_ADMIT_HORIZON 0 16 * (100000 * 65536) : Int)
          let alone := ∀ f ∈ kept, overlaps (launchAt s e) e.len (launchAt s f) f.len = false
          (mapWanted s tid e = false → intcOnly s1 t) ∧
          (mapWanted s tid e = true → ¬long → refused R.LINE_CNT_ALLOT_SHORT 18) ∧
          (mapWanted s tid e = true → long → ¬known → refused R.LINE_CNT_ALLOT_UNDEF 17) ∧
          (mapWanted s tid e = true → long → known → ¬soon → refused R.LINE_ALLOT_EXPIRED 14) ∧
          (mapWanted s tid e = true → long → known → soon → ¬near → refused R.LINE_CNT_ALLOT_FAR 19) ∧
          (mapWanted s tid e = true → long → known → soon → near → (∃ f ∈ s.table, lost f = true) → rbit t Block.queue.base 1 = true) ∧
          (mapWanted s tid e = true → long → known → soon → near → ¬alone → barred R.LINE_CNT_ALLOT_OVERLAP 16) ∧
          (mapWanted s tid e = true → long → known → soon → near → alone → 65536 ≤ kept.length → barred R.LINE_CNT_ALLOT_FULL 20) ∧
          (mapWanted s tid e = true → long → known → soon → near → alone → kept.length < 65536 →
            t.table = kept ++ [{ e with id := s.serial }] ∧ t.serial = s.serial + 1 ∧
            rd t R.LINE_CNT_ALLOT_ADMITTED = sat32 ((rd s R.LINE_CNT_ALLOT_ADMITTED).toNat + 1)))

/-- The earliest entry that is due: it is removed and recorded in QUEUE where the table's read finds it uncorrectable; a registration
window that is let pass and one that the mode does not launch are kept as held, their launch instant fixed; a DATA entry before ranging is
kept as not ranged; one with too little time left is expired, one whose window overlaps that of one already due is removed, each with its
counter and its record; a DATA entry that wants no report and would carry nothing is removed as empty (steps 3 to 5 of R310; what "taken
as due" means is log 36). Otherwise a REGISTER or RANGE entry goes to the headgate as a burst, and a DATA entry joins those that wait for
its drover, or goes to a HELD burst while that reloads, or to a fallback burst while it is stopped. A kept entry leaves at its launch
instant with its count; an entry whose window ends leaves, counted held unless it was launched. LINE_HG_LEAD takes its field. -/
def Obligations.AllotmentTableRules : Prop :=
  (∀ (s : State) (ecc : List Nat) (e : Entry), running s = true → earliest s (s.table.filter (entryDue s)) = some e →
    let fixed (g : Stage) : List Entry := s.table.map fun f => if f.id = e.id then { e with launch := some (launchAt s e), stage := g } else f
    let sound := ∀ f ∈ s.table, ecc.contains (tableIndex s f) = false
    (ecc.contains (tableIndex s e) = true →
      ∃ t, exec (.allotmentDue ecc) s = .next t ∧ rbit t Block.queue.base 1 = true ∧ (∀ f ∈ t.table, f ∈ s.table ∧ f.id ≠ e.id) ∧
        regsOnly { s with table := t.table } t (recordOf .queue)) ∧
    (sound → skipsWindow s e = true →
      ∃ t, exec (.allotmentDue ecc) s = .next t ∧
        t = { s with table := fixed .held, line := { s.line with skip := s.line.skip - 1 }, intc := t.intc }) ∧
    (sound → skipsWindow s e = false → notLaunched s e = true →
      ∃ t, exec (.allotmentDue ecc) s = .next t ∧ t = { s with table := fixed .held, intc := t.intc }) ∧
    (sound → notLaunched s e = false → e.kind = .data → ranged s = false →
      ∃ t, exec (.allotmentDue ecc) s = .next t ∧ t = { s with table := fixed .unranged, intc := t.intc }) ∧
    (sound → skipsWindow s e = false → notLaunched s e = false → (e.kind = .data → ranged s = true) →
      let timely := 1900 * 65536 ≤ lead (launchAt s e) (reachNow s)
      let empty := e.kind = .data ∧ e.report = false ∧ (drover s (aidTract s e.aid)).st ≠ .reloading ∧ burstEmpty s e = true
      let gone := { s with table := s.table.filter fun f => f.id != e.id }
      let given := { s with table := fixed .handed }
      let f := { e with launch := some (launchAt s e), stage := .handed }
      let d := drover s (aidTract s e.aid)
      ∃ t, exec (.allotmentDue ecc) s = .next t ∧
        (¬timely → regsOnly gone t (R.LINE_ALLOT_EXPIRED :: recordOf .line) ∧ recorded s t .line 15 ∧
          rd t R.LINE_ALLOT_EXPIRED = sat32 ((rd s R.LINE_ALLOT_EXPIRED).toNat + 1)) ∧
        (timely → overlapsDue s e = true → regsOnly gone t (R.LINE_CNT_ALLOT_OVERLAP :: recordOf .line) ∧ recorded s t .line 16 ∧
          rd t R.LINE_CNT_ALLOT_OVERLAP = sat32 ((rd s R.LINE_CNT_ALLOT_OVERLAP).toNat + 1)) ∧
        (timely → overlapsDue s e = false → empty → regsOnly gone t [R.LINE_CNT_ALLOT_EMPTY] ∧
          rd t R.LINE_CNT_ALLOT_EMPTY = sat32 ((rd s R.LINE_CNT_ALLOT_EMPTY).toNat + 1)) ∧
        (timely → overlapsDue s e = false → ¬empty → e.kind = .data → d.st ≠ .reloading → d.reload = false → d.st ≠ .stopped →
          t = { given with drovers := t.drovers, intc := t.intc } ∧ drover t (aidTract s e.aid) = { d with waiting := d.waiting ++ [f] } ∧
          ∀ n, n ≠ aidTract s e.aid → drover t n = drover s n) ∧
        (timely → overlapsDue s e = false → ¬empty → e.kind ≠ .data ∨ d.st = .reloading ∨ d.reload = true ∨ d.st = .stopped →
          ∃ b, t = { given with gate := { s.gate with bursts := s.gate.bursts ++ [b] }, intc := t.intc } ∧ b.entry = f ∧ b.launch = launchAt s e ∧
            b.segs = [] ∧ b.kind.entryKind = e.kind ∧
            (e.kind = .data → b.reports = reportsOf s e.aid ∧ (b.kind = .held ↔ d.st = .reloading ∨ d.reload = true))))) ∧
  (∀ (s : State) (e : Entry), running s = true →
    earliest s (s.table.filter fun e =>
      (e.stage == .held || e.stage == .unranged) && decide (lead (launchAt s e) (reachNow s) ≤ 0)) = some e →
    ∃ t, exec .launchInstantRemoval s = .next t ∧
      let a := if e.stage = .unranged then R.LINE_CNT_ALLOT_UNRANGED else R.LINE_CNT_ALLOT_HELD
      regsOnly { s with table := s.table.filter fun f => f.id != e.id } t [a] ∧ rd t a = sat32 ((rd s a).toNat + 1)) ∧
  (∀ (s : State) (e : Entry), running s = true → earliest s (s.table.filter (windowOver s)) = some e →
    ∃ t, exec .windowEnd s = .next t ∧ regsOnly { s with table := s.table.filter fun f => f.id != e.id } t [R.LINE_CNT_ALLOT_HELD] ∧
      rd t R.LINE_CNT_ALLOT_HELD =
        if e.stage = .launched then rd s R.LINE_CNT_ALLOT_HELD else sat32 ((rd s R.LINE_CNT_ALLOT_HELD).toNat + 1)) ∧
  (∀ (s : State) (v : Word), barOpen s = true →
    ∃ t, exec (.lineHgLead v) s = .next t ∧ regsOnly s t [R.LINE_HG_LEAD] ∧ rfld t R.LINE_HG_LEAD 0 16 = fld v 0 16)

/-- When the earliest burst's launch instant has come it leaves the gate (the return of a cancelled one is log 92). Cancelled, it sends
nothing and its entry leaves the table. Launched, the frame bytes not yet staged are gathered from the cistern, and one burst leaves on
the line, whose content is its manifest, its message area, the segments over the bytes gathered, and the trailer, unless a DATA burst's
gather fails or the FIFO runs dry: then it is cut short, counted and recorded. BURST_EN is to be high from its rise to its fall, joined to
the interval before where they meet, LINE_CNT_ALLOT_LAUNCHED counts at the rise, the lanes carry the codeword of IDLE blocks after it (log
128), its entry is past its launch commit and BURST_SEQ has moved on. A frame's transparent-clock correction counts at its launch, and is
taken back where its residence spans an output step (steps after the launch cannot change bytes that have been read, log 146). -/
def Obligations.LaunchCommitRules : Prop :=
  (∀ (s : State) (dry : Option Nat) (u : Upset) (b : Burst), running s = true → firstBurst s.gate.bursts = some b →
    (lead (reachNow s) b.launch < 0 → ∃ t, exec (.launchCommit dry u) s = .next t ∧ intcOnly s t) ∧
    (0 ≤ lead (reachNow s) b.launch →
    let m := manifestOf s b
    let s1 := b.tc.foldl tcLaunch (upset (if gasps s b = true then gaspSent b.launch s else s) u)
    let c := heldBurst s1 b
    let reads := lastReads s1 c dry
    let g := gatherInto reads (reads.foldl (fun n r => n + entryBytes r.2.2) 0) c s1
    let content := (contentOf m g.2.1 dry g.1).2
    let top := manifestBytes s m ++ messageArea c.msgs
    let area := (sendSegs m.tid c.entry.aid c.ovr c.slot c.segs g.2.1.got (match dry with | some n => Nat.max 64 n - top.length | none => m.segs) g.1).2
    let rises := s.gate.rises ++ [riseAt s b]
    ∃ t, exec (.launchCommit dry u) s = .next t ∧
      t.gate.bursts.map (fun c => (c.entry.id, c.asm)) =
        (s.gate.bursts.filter fun c => c.entry.id != b.entry.id || c.asm != b.asm).map (fun c => (c.entry.id, c.asm)) ∧
      (cancels s b = true → t.wire = s.wire ∧ t.gate.edges = s.gate.edges ∧ inTable t b.entry.id = false) ∧
      (cancels s b = false →
        t.gate.edges = addEdges (riseAt s b) (fallAt s b) s.gate.edges ∧
        (∀ e ∈ t.table, e.id = b.entry.id → e.stage = .launched) ∧
        t.line.seq = (if b.kind = .register then s.line.seq else some (nextSeq s + 1)) ∧
        rd t R.LINE_CNT_ALLOT_LAUNCHED = sat32 ((rd s R.LINE_CNT_ALLOT_LAUNCHED).toNat + (rises.filter fun r => decide (0 ≤ lead (reachNow s) r)).length) ∧
        t.gate.rises = rises.filter (fun r => decide (lead (reachNow s) r < 0)) ∧
        t.wire = s.wire ++ [.burst (b.launch + BitVec.ofNat 64 (burstP s)) content (onPins s (burstLanes content (setsOf s b))),
          .lineIdle ((onPins s (burstLanes [] 1)).map fun l => l.headD 0)] ∧
        content.take 64 = manifestBytes s m ∧
        (c.kind ≠ .data ∨ (dry = none ∧ area.2 = false) → content = top ++ area.1 ++
          beBytes 4 (crc32c (foldTag 0x54#8 m.tid m.seq ++ (top ++ area.1))).toNat ++ List.replicate 4 0#8) ∧
        (∀ n reason, c.kind = .data → cutShort dry (top.length + m.segs + 8) (top ++ area.1).length area.2 = some (n, reason) →
          content = (top ++ area.1).take n ∧ rd t R.LINE_CNT_HG_GATHER = sat32 ((rd s R.LINE_CNT_HG_GATHER).toNat + 1) ∧
          rbit t Block.line.base 21 = true)))) ∧
  (∀ (s : State) (x : TcSave),
    let stale := x.step = true ∨ x.steps ≠ s.time.steps
    (¬stale → regsOnly s (tcLaunch s x) [R.TIME_TC_CNT, R.TIME_TC_CNT_SAT] ∧
      rd (tcLaunch s x) R.TIME_TC_CNT = sat32 ((rd s R.TIME_TC_CNT).toNat + 1) ∧
      (x.sat = true → rd (tcLaunch s x) R.TIME_TC_CNT_SAT = sat32 ((rd s R.TIME_TC_CNT_SAT).toNat + 1))) ∧
    (stale → rd (tcLaunch s x) R.TIME_TC_CNT_STEP = sat32 ((rd s R.TIME_TC_CNT_STEP).toNat + 1) ∧ rd (tcLaunch s x) R.TIME_TC_CNT = rd s R.TIME_TC_CNT ∧
      rbit (tcLaunch s x) R.TIME_EVENT 13 = true ∧
      (tcLaunch s x).cistern = (tcRestore s x).cistern ∧ (tcLaunch s x).gate = (tcRestore s x).gate))

/-- LINE_HG_PREAMBLE_n takes its word, and word 15 asks for the transfer, which runs while BURST_EN is low and no launch instant, of a
burst or of an entry in the table, falls within 2 us, and puts out bits 2k and 2k + 1 of the pattern on PRE_D1 and PRE_D0 at edge k, the
pattern beginning with bit 31 of word 0. LINE_GASP_CTL with ARM 0 clears PENDING. A perfect-match entry 1 to 15 reads as written while
matching stays as it was; entry 0 is read-only. At a hand-off deadline the entry in assembly, also one that a reload is about to abort, or
an entry that waits goes to a fallback burst and DROVER_LATE is recorded; one whose assembly faulted goes to a fallback burst, with
reports as they stand then (the model's reading, log 63). -/
def Obligations.HeadgateRegisters : Prop :=
  (∀ (s : State) (n : Fin 16) (v : Word), barOpen s = true →
    (∃ t, exec (.lineHgPreamble n v) s = .next t ∧ rd t (R.LINE_HG_PREAMBLE n) = v ∧
      regsOnly { s with gate := { s.gate with pre := s.gate.pre || decide (n.val = 15) } } t [R.LINE_HG_PREAMBLE n]) ∧
    (∃ t, exec (.linePm n v) s = .next t ∧ regsOnly s t [R.LINE_PM n] ∧ (∀ tid, pmIndex t tid = pmIndex s tid) ∧
      (n.val = 0 → rd t (R.LINE_PM n) = rd s (R.LINE_PM n)) ∧
      (n.val ≠ 0 → rd t (R.LINE_PM n) &&& 0x80000FFF = v &&& 0x80000FFF)) ∧
    (∃ t, exec (.lineGaspCtl v) s = .next t ∧ regsOnly s t [R.LINE_GASP_CTL] ∧ rbit t R.LINE_GASP_CTL 31 = bit v 31 ∧
      (bit v 31 = false → gaspPending t = false) ∧ (bit v 31 = true → gaspPending t = gaspPending s))) ∧
  (∀ s : State, running s = true → s.gate.pre = true → burstHigh s = false →
    (∀ b ∈ s.gate.bursts, 2000 * 65536 < lead b.launch (reachNow s)) →
    (∀ e ∈ s.table, e.stage = .launched ∨ lead (launchAt s e) (reachNow s) < 0 ∨ 2000 * 65536 < lead (launchAt s e) (reachNow s)) →
    ∃ t, exec .preambleTransfer s = .next t ∧
      t = { s with gate := { s.gate with pre := false }, wire := t.wire, intc := t.intc } ∧
      ∃ edges, t.wire = s.wire ++ [.preamble edges] ∧ edges.length = 256 ∧
        ∀ k, k < 256 → edges[k]? = some (rbit s (R.LINE_HG_PREAMBLE (2 * k / 32)) (31 - 2 * k % 32),
          rbit s (R.LINE_HG_PREAMBLE ((2 * k + 1) / 32)) (31 - (2 * k + 1) % 32))) ∧
  (∀ (s : State) (t : Fin 8) (e : Entry), running s = true → (drover s t).entry = some e → (drover s t).st = .running →
    (drover s t).abort = none ∨ (drover s t).abort = some .reload → (drover s t).settled = none → pastHandoff s e = true →
    ∃ u b, exec (.handoffDeadline t) s = .next u ∧ b ∈ u.gate.bursts ∧ b.kind = .fallback ∧ b.entry = e ∧ b.launch = launchAt s e ∧
      rbit u (Block.tract t).base 13 = true ∧ u.queues = s.queues ∧ u.table = s.table) ∧
  (∀ (s : State) (t : Fin 8) (e : Entry), running s = true → (drover s t).entry = none → (drover s t).faulted.find? (pastHandoff s) = some e →
    ∃ u b, exec (.handoffDeadline t) s = .next u ∧ u.gate.bursts = s.gate.bursts ++ [b] ∧ b.entry = e ∧ b.kind = .fallback ∧
      (drover u t).faulted = (drover s t).faulted.filter (fun x => x.id != e.id) ∧ u.regs = s.regs) ∧
  (∀ (s : State) (t : Fin 8) (e : Entry), running s = true → (drover s t).entry = none → (drover s t).faulted = [] →
    earliest s ((drover s t).waiting.filter (pastHandoff s)) = some e →
    ∃ u b, exec (.handoffDeadline t) s = .next u ∧ u.gate.bursts = s.gate.bursts ++ [b] ∧ b.entry = e ∧ b.kind = .fallback ∧
      recorded s u (.tract t) 13 ∧ (drover u t).waiting = (drover s t).waiting.filter (fun x => x.id != e.id))

/-! ### The drover (chapter 06) -/

/-- The ALU slot of a word in progress whose ALU_OP is the row's: on operands A and B (register or immediate) it leaves the operation's
value, writes ALU_DST except for NOP, CMP and TEST, and sets Z, N and C when SET_FLAGS says so, for CMP and TEST always and for NOP never.
The registers themselves do not change until the word ends (R329), and no other drover changes; when a NEXT ends the word (R332), ALU_DST
reads the result where it is written, every other register reads as before, and the flags are those set, C being the carry or the borrow
(R334). -/
def Obligations.DroverAluSlot : Prop :=
  ∀ (s : State) (t : Fin 8), running s = true → (drover s t).st = .running → (drover s t).alu = none →
    let w := curWord s t
    let a := wReg (drover s t) (wA w)
    let b := if wBImm w then wImm w else wReg (drover s t) (wB w)
    let leaves (c : Instr) (v : DWord) (write : Bool) (flags : Option Bool) : Prop :=
      ∃ u, exec c s = .next u ∧ (drover u t).alu = some ⟨v, write, flags.map fun c => (v == 0, v.msb, c)⟩ ∧
        (drover u t).w = (drover s t).w ∧ (drover u t).pc = (drover s t).pc ∧ (drover u t).io = (drover s t).io ∧
        (∀ x, x ≠ t.val → drover u x = drover s x) ∧
        u = { s with drovers := u.drovers, paces := u.paces, intc := u.intc } ∧
        ((drover s t).io = some {} → (drover s t).abort = none → wSeq w = 0 → illegalWord (storeWord s t (((drover s t).pc + 1) % 4096)) = false →
          ∃ x, exec (.next t false) u = .next x ∧ (drover x t).pc = ((drover s t).pc + 1) % 4096 ∧ (drover x t).st = .running ∧
            (∀ k, wReg (drover x t) k = if write = true ∧ k = wAluDst w then v else wReg (drover s t) k) ∧
            ((drover x t).z, (drover x t).n, (drover x t).c) =
              match flags with
              | some c => (v == 0, v.msb, c)
              | none => ((drover s t).z, (drover s t).n, (drover s t).c))
    let opt (c : Bool) : Option Bool := if wSet w then some c else none
    (wAlu w = 0 → leaves (.aluNop t) 0 false none) ∧
    (wAlu w = 1 → leaves (.mov t) b true (opt false)) ∧
    (wAlu w = 2 → leaves (.add t) (a + b) true (opt (decide (2 ^ 64 ≤ a.toNat + b.toNat)))) ∧
    (wAlu w = 3 → leaves (.sub t) (a - b) true (opt (decide (a.toNat < b.toNat)))) ∧
    (wAlu w = 4 → leaves (.and t) (a &&& b) true (opt false)) ∧
    (wAlu w = 5 → leaves (.or t) (a ||| b) true (opt false)) ∧
    (wAlu w = 6 → leaves (.xor t) (a ^^^ b) true (opt false)) ∧
    (wAlu w = 7 → leaves (.shl t) (a <<< (b.toNat % 64)) true (opt false)) ∧
    (wAlu w = 8 → leaves (.shr t) (a >>> (b.toNat % 64)) true (opt false)) ∧
    (wAlu w = 9 → leaves (.min t) (BitVec.ofNat 64 (Nat.min a.toNat b.toNat)) true (opt false)) ∧
    (wAlu w = 10 → leaves (.max t) (BitVec.ofNat 64 (Nat.max a.toNat b.toNat)) true (opt false)) ∧
    (wAlu w = 11 → leaves (.cmp t) (a - b) false (some (decide (a.toNat < b.toNat)))) ∧
    (wAlu w = 12 → leaves (.test t) (a &&& b) false (some false))

/-- The IO slot of a word in progress whose IO_OP is the row's: NOP leaves nothing; HEAD puts the next frame on offer with its offer word
(0 where nothing is on offer, log 64), and both it and TAKE_RUN wait while the next frame's bytes are not in the cistern (of TAKE_RUN the
model's reading, log 65). TAKE_RUN reserves the frames on offer one after another, each whole and moving the round robin on, up to IO_ARG
of them, and stops before the limit only where nothing is on offer or the next does not fit the room; IO_DST takes the room left and W15
the new offer. TAKE_PART is refused without a frame on offer, with FRAG_EN 0, after another, or below MIN_FRAG, and otherwise reserves the
first bytes. MSG reserves the messages in order for as long as the next fits the room and the assembly's 2,048 bytes. ABANDON cancels
every reservation. The queues, the cistern and the headgate do not change. -/
def Obligations.DroverIoSlot : Prop :=
  ∀ (s : State) (t : Fin 8), running s = true → (drover s t).st = .running → (drover s t).io = none →
    let d := drover s t
    let w := curWord s t
    let room := ioRoom s t
    let done_ (c : Instr) (P : State → Drover → IoOut → Prop) : Prop :=
      ∃ u o, exec c s = .next u ∧ (drover u t).io = some o ∧ u.queues = s.queues ∧ u.cistern = s.cistern ∧ u.gate = s.gate ∧
        (drover u t).w = d.w ∧ (∀ x, x ≠ t.val → drover u x = drover s x) ∧ P u (drover u t) o
    let waits (c : Instr) : Prop := ∃ u, exec c s = .next u ∧ (drover u t).io = none ∧ (drover u t).segs = d.segs ∧ u.queues = s.queues ∧
      u.msgs = s.msgs ∧ u.robins = s.robins
    (wIo w = 0 → done_ (.ioNop t) fun u e o => o = {} ∧ e.segs = d.segs ∧ e.msgs = d.msgs ∧ u.msgs = s.msgs ∧ u.robins = s.robins) ∧
    (wIo w = 1 → waitFrame s t = none → done_ (.head t) fun u e o =>
      let f := droverOffer s d d.segs
      o.w15 = some (offerWord s d f) ∧ o.dst = some (BitVec.ofNat 64 ((offerWord s d f).toNat % 65536)) ∧ o.offer = some (offerFlags f) ∧
      e.segs = d.segs ∧ e.offer = f.map (fun x => (x.1, x.2.tok.uid)) ∧ u.msgs = s.msgs ∧ u.robins = s.robins) ∧
    (wIo w = 1 → waitFrame s t ≠ none → waits (.head t)) ∧
    (wIo w = 2 → waitFrame s t ≠ none → waits (.takeRun t)) ∧
    (wIo w = 2 → waitFrame s t = none → done_ (.takeRun t) fun u e o =>
      let aid := (d.entry.map (·.aid)).getD 0
      let after (l : List Taken) : State := l.foldl (fun x k => if k.from_ = 0 then setRobin x aid (qPrio x k.q) (qMember x k.q) else x) s
      let left (l : List Taken) : Nat := l.foldl (fun n k => n - segBytes d.ovr (k.upto - k.from_)) room
      ∃ more, e.segs = d.segs ++ more ∧ more.length ≤ runLimit w ∧
        (∀ i k, more[i]? = some k → ∃ q f, droverOffer (after (more.take i)) d (d.segs ++ more.take i) = some (q, f) ∧ frameReady s q f = true ∧
          k = ⟨q, f.tok.uid, f.carried, f.stop, true⟩ ∧ segBytes d.ovr f.remain ≤ left (more.take i)) ∧
        (let offer := droverOffer (after more) d (d.segs ++ more)
         (more.length < runLimit w → ∀ q f, offer = some (q, f) → left more < segBytes d.ovr f.remain) ∧
         o.dst = some (BitVec.ofNat 64 (left more)) ∧ o.w15 = some (offerWord s d offer) ∧ o.offer = some (offerFlags offer) ∧
         o.fail = some (decide (more.length < runLimit w)) ∧ e.offer = offer.map fun x => (x.1, x.2.tok.uid)) ∧
        u.robins = (after more).robins ∧ u.msgs = s.msgs) ∧
    (wIo w = 3 → onOffer s d = none → done_ (.takePart t) fun u e o => o = { fail := some true } ∧ e.segs = d.segs ∧ u.msgs = s.msgs) ∧
    (wIo w = 3 → ∀ q f, onOffer s d = some (q, f) →
      let n := Nat.min (room - 8 - d.ovr) (f.remain - minFrag d)
      let taken := bit d.frag (qPrio s q) = true ∧ d.part = false ∧ minFrag d ≤ n
      (¬taken → done_ (.takePart t) fun u e o => o = { fail := some true } ∧ e.segs = d.segs ∧ u.msgs = s.msgs) ∧
      (taken → done_ (.takePart t) fun u e o =>
        o = { dst := some (BitVec.ofNat 64 room - BitVec.ofNat 64 (segBytes d.ovr n)), fail := some false } ∧
        e.segs = d.segs ++ [⟨q, f.tok.uid, f.carried, f.carried + n, false⟩] ∧ e.part = true ∧ (∀ x segs, droverOffer x e segs = none) ∧
        u.msgs = s.msgs)) ∧
    (wIo w = 4 → done_ (.msg t) fun u e o =>
      ∃ taken, e.msgs = d.msgs ++ taken ∧ s.msgs = taken ++ u.msgs ∧ msgBytes taken ≤ room ∧ e.segs = d.segs ∧
        (taken ≠ [] → msgBytes d.msgs + msgBytes taken ≤ 2048) ∧
        (∀ m l, u.msgs = m :: l → room < msgBytes (taken ++ [m]) ∨ 2048 < msgBytes d.msgs + msgBytes (taken ++ [m])) ∧
        o = { dst := some (BitVec.ofNat 64 (room - msgBytes taken)), fail := some (decide (u.msgs ≠ [])) }) ∧
    (wIo w = 6 → done_ (.abandon t) fun u e o => o = {} ∧ e.segs = [] ∧ e.msgs = [] ∧ e.part = false ∧ e.robins = [] ∧
      u.msgs = (returnMsgs s d.msgs).msgs ∧ u.robins = (restoreRobins d.asm d.robins s).robins)

/-- A COMMIT in progress for entry e: at or after the hand-off deadline it is refused, its reservations are cancelled and, unless HOLD,
SILENT or the deadline itself has already answered it, a fallback burst joins the gate; before it, with 64 bursts committed, or while a
bank that its frames begin in is another's turn (the model's banks, logs 1 and 145), the word waits; otherwise one DATA burst for the
entry joins the gate with the assembly's messages, its reports of this instant, and the reserved segments in their order; what they carry
leaves the queues, every other frame stays, and the drover holds no reservation. -/
def Obligations.DroverCommitRules : Prop :=
  ∀ (s : State) (t : Fin 8) (e : Entry) (x : Upset), running s = true → (drover s t).st = .running → (drover s t).io = none →
    wIo (curWord s t) = 5 → (drover s t).entry = some e → (∀ b ∈ s.gate.bursts, b.asm ≠ (drover s t).asm) →
    let d := drover s t
    let barredNow := barredAt (beginWord s t) t (commitBanks s t) = true
    ∃ u, exec (.commit t x) s = .next u ∧ u.table = s.table ∧
      (pastHandoff s e = true → (drover u t).io = some {} ∧ (drover u t).segs = [] ∧ (drover u t).msgs = [] ∧ (drover u t).settled = some false ∧
        u.queues = s.queues ∧
        (d.abort = none ∨ d.abort = some .reload →
          ∃ b, u.gate.bursts = s.gate.bursts ++ [b] ∧ b.kind = .fallback ∧ b.entry = e) ∧
        (d.abort ≠ none → d.abort ≠ some .reload → u.gate.bursts = s.gate.bursts)) ∧
      (pastHandoff s e = false → 64 ≤ waitingBursts s ∨ barredNow → (drover u t).io = none ∧ u.gate = s.gate ∧ u.queues = s.queues) ∧
      (pastHandoff s e = false → waitingBursts s < 64 → ¬barredNow → (drover u t).io = some {} ∧ (drover u t).segs = [] ∧ (drover u t).msgs = [] ∧
        (drover u t).settled = some true ∧ u.gate.bursts.length = s.gate.bursts.length + 1 ∧
        (∀ q f, f ∈ (queue s q).frames → (∀ k ∈ d.segs, ¬(k.q = q ∧ k.uid = f.tok.uid)) → f ∈ (queue u q).frames) ∧
        ∃ b ∈ u.gate.bursts, b.kind = .data ∧ b.entry = e ∧ b.launch = launchAt s e ∧ b.asm = d.asm ∧
          b.msgs = d.msgs ∧ b.slot = d.slot ∧ b.ovr = d.ovr ∧ b.reports = reportsOf u e.aid ∧
          ((d.segs.map fun k => (k.q, k.uid)).Nodup →
            (∀ k ∈ d.segs, ∃ f, (queue s k.q).frames.find? (fun f => f.tok.uid == k.uid) = some f ∧ f.carried = k.from_ ∧ k.upto ≤ f.stop) →
            b.segs.map (fun g => (g.q, g.frame.tok.uid, g.frame.carried, g.frame.stop, g.last)) = d.segs.map (fun k => (k.q, k.uid, k.from_, k.upto, k.last)) ∧
            (∀ k ∈ d.segs, ∀ f ∈ (queue u k.q).frames, f.tok.uid = k.uid → f.carried = k.upto ∧ k.upto < f.stop)))

/-- A word whose two slots are done, with no abort pending, writes its results: the offer word and IO_DST, and ALU_DST where neither names
it; the flags are those that its slots set. On these flags the condition is judged. NEXT goes on, BRANCH goes to TARGET when the condition
holds, CALL pushes the next address and goes to TARGET, RETURN goes to the popped address, DISPATCH goes to TARGET plus the low bits of
the ALU result; a legal and good word at the new address runs on, an illegal or an uncorrectable one stops the drover and is recorded. A
CALL on a full stack and a RETURN on an empty one stop the drover and are recorded. IDLE returns the drover to IDLE with an empty stack.
Where IO_DST is W15 and the offer word is written too, W15 holds one of the two (log 37). -/
def Obligations.DroverSequencing : Prop :=
  ∀ (s : State) (t : Fin 8) (a : AluOut) (o : IoOut), running s = true → (drover s t).st = .running → (drover s t).abort = none →
    (drover s t).alu = some a → (drover s t).io = some o → wCond (curWord s t) < 12 →
    let d := drover s t
    let w := curWord s t
    let fl := a.flags.getD (d.z, d.n, d.c)
    let offer := o.offer.getD (d.qData, d.rem)
    let fail := o.fail.getD d.ioFail
    let e := d.entry.getD {}
    let cond : Bool := [true, fl.1, fl.2.1, fl.2.2, offer.1, offer.2, fail, e.gaspOk, e.report, d.keyed, !s.msgs.isEmpty,
      d.stack.isEmpty].getD (wCond w) false != wInv w
    let up := (d.pc + 1) % 4096
    let writes (x : Drover) : Prop :=
      (∀ v, o.w15 = some v → o.dst = none ∨ wIoDst w ≠ 15 → wReg x 15 = v) ∧
      (∀ v, o.dst = some v → o.w15 = none ∨ wIoDst w ≠ 15 → wReg x (wIoDst w) = v) ∧
      (∀ v y, o.w15 = some v → o.dst = some y → wIoDst w = 15 → wReg x 15 = v ∨ wReg x 15 = y) ∧
      (∀ k, ¬(o.w15 ≠ none ∧ k = 15) → ¬(o.dst ≠ none ∧ k = wIoDst w) →
        wReg x k = if a.write = true ∧ k = wAluDst w then a.val else wReg d k) ∧
      (x.z, x.n, x.c) = fl ∧ (x.qData, x.rem) = offer ∧ x.ioFail = fail
    let stops (c : Instr) (code : Nat) : Prop :=
      ∃ u, exec c s = .next u ∧ ((drover u t).st = .stopped ∨ (drover u t).st = .reloading) ∧ rbit u (Block.tract t).base code = true
    let goes (c : Bool → Instr) (pc : Nat) (stack : List Nat) : Prop :=
      (illegalWord (storeWord s t pc) = false → ∃ u, exec (c false) s = .next u ∧ (drover u t).st = .running ∧ (drover u t).pc = pc ∧
        (drover u t).stack = stack ∧ (drover u t).alu = none ∧ (drover u t).io = none ∧ writes (drover u t) ∧
        (drover u t).entry = d.entry ∧ (drover u t).segs = d.segs ∧ (drover u t).msgs = d.msgs ∧
        (∀ n, n ≠ t.val → drover u n = drover s n) ∧ u = { s with drovers := u.drovers, free := u.free, intc := u.intc }) ∧
      (illegalWord (storeWord s t pc) = true → stops (c false) 11) ∧ stops (c true) 12
    (wSeq w = 0 → goes (.next t) up d.stack) ∧
    (wSeq w = 1 → goes (.branch t) (if cond then wTarget w else up) d.stack) ∧
    (wSeq w = 2 → cond = true → d.stack.length < 8 → goes (.call t) (wTarget w) (d.stack ++ [up])) ∧
    (wSeq w = 2 → cond = true → 8 ≤ d.stack.length → stops (.call t false) 9) ∧
    (wSeq w = 2 → cond = false → goes (.call t) up d.stack) ∧
    (∀ r st, wSeq w = 3 → cond = true → d.stack = st ++ [r] → goes (.ret t) r st) ∧
    (wSeq w = 3 → cond = true → d.stack = [] → stops (.ret t false) 10) ∧
    (wSeq w = 3 → cond = false → goes (.ret t) up d.stack) ∧
    (wSeq w = 4 → goes (.dispatch t) ((wTarget w + a.val.toNat % 16) % 4096) d.stack) ∧
    (wSeq w = 5 → d.reload = false → ∃ u, exec (.idle t) s = .next u ∧ (drover u t).st = .idle ∧ (drover u t).stack = [] ∧
      (drover u t).entry = none ∧ u.queues = s.queues)

/-- An IDLE drover begins at 0x010 for its earliest entry with its flags and stack clear, its reservations empty and the registers of
R327: AID, capacity, LENGTH, START, the two entry flags, n, the launch instant, TRACT_DROVER_FRAG and the overhead K in W0 to W8, 0 in the
others; slot and K are kept. IDLE ends the assembly; an entry that was not settled goes to a fallback burst. RESTART takes a stopped
drover to IDLE and changes nothing else. -/
def Obligations.DroverStartsAndEnds : Prop :=
  (∀ (s : State) (t : Fin 8) (e : Entry), running s = true → (drover s t).st = .idle → earliest s (drover s t).waiting = some e →
    illegalWord (storeWord s t 0x010) = false →
    ∃ u, exec (.entryVector t false) s = .next u ∧ u = { s with drovers := u.drovers, serial := s.serial + 1, intc := u.intc } ∧
      (drover u t).st = .running ∧ (drover u t).asm = s.serial ∧
      (drover u t).pc = 0x010 ∧ (drover u t).stack = [] ∧ (drover u t).entry = some e ∧ (drover u t).segs = [] ∧ (drover u t).msgs = [] ∧
      (let n := codewordSets s e
       let k := if s.keys.upSlot = 0 then 0 else 24
       (List.range 9).map (wReg (drover u t)) = [BitVec.ofNat 64 e.aid, BitVec.ofNat 64 (10240 * n), BitVec.ofNat 64 e.len, BitVec.ofNat 64 e.start,
         BitVec.ofNat 64 (b2n e.gaspOk + 2 * b2n e.report), BitVec.ofNat 64 n, launchAt s e, (rd s (R.TRACT_DROVER_FRAG t)).setWidth 64, BitVec.ofNat 64 k] ∧
       (drover u t).ovr = k ∧ (drover u t).slot = s.keys.upSlot ∧ (drover u t).frag = rd s (R.TRACT_DROVER_FRAG t)) ∧
      (∀ r, 9 ≤ r → wReg (drover u t) r = 0) ∧
      (drover u t).qData = false ∧ (drover u t).rem = false ∧ (drover u t).ioFail = false ∧
      (drover u t).z = false ∧ (drover u t).n = false ∧ (drover u t).c = false ∧
      (drover u t).waiting = (drover s t).waiting.filter (fun x => x.id != e.id) ∧ ∀ x, x ≠ t.val → drover u x = drover s x) ∧
  (∀ (s : State) (t : Fin 8) (a : AluOut) (o : IoOut) (e : Entry), running s = true → (drover s t).st = .running →
    (drover s t).abort = none → (drover s t).reload = false → (drover s t).alu = some a → (drover s t).io = some o →
    wSeq (curWord s t) = 5 → (drover s t).entry = some e →
    ∃ u, exec (.idle t) s = .next u ∧ (drover u t).st = .idle ∧ (drover u t).entry = none ∧ u.queues = s.queues ∧
      ((drover s t).settled ≠ none → u.gate = s.gate) ∧
      ((drover s t).settled = none → (drover u t).segs = [] ∧ (drover u t).msgs = [] ∧
        ∃ b, u.gate.bursts = s.gate.bursts ++ [b] ∧ b.kind = .fallback ∧ b.entry = e)) ∧
  (∀ (s : State) (t : Fin 8) (v : Word), barOpen s = true → bit v 0 = true →
    ∃ u, exec (.droverRestart t v) s = .next u ∧ u = { s with drovers := u.drovers, intc := u.intc } ∧
      ((drover s t).st = .stopped → (drover u t).st = .idle ∧ (drover u t).fault = 0 ∧ (drover u t).waiting = (drover s t).waiting) ∧
      ((drover s t).st ≠ .stopped → u.drovers = s.drovers))

/-! ### Client ports (chapter 09) -/

/-- On an enabled port with LINK 1: a frame that meets the receive FIFO full counts CP_RX_OVERFLOW and, where its head token has gone,
ends in error. Of the others, in LOADING each only counts; one shorter than 64 bytes reaches its front as a runt; one with a code error,
one longer than MAX_LEN and one with a wrong FCS counts in the counter of the first that applies, and ends in error at its front where its
head token has gone, which takes more than 260 bytes and an accepted address; a PAUSE and a PFC frame count and, where they are enabled,
set their timers; a frame whose address is refused counts; every other frame counts and reaches its front with its bytes without the FCS.
On a port with LINK 0 only the FEC counts move. In FALLOW a carried frame sets the HIT bit of every wake pattern that it matches, as the
patterns stood when it began, captures the first where none is captured, and raises the wake condition; in another mode it compares
nothing. Which registers apply to a frame goes by when it began and when its address came in, and what the FIFO holds of it is the model's
reading (logs 129 and 130), as are the 260 bytes of a head token that has gone (log 80) and the length of an oversize frame with MAX_LEN
below 256 (log 120); that PENDING reads 1 after a wake is log 123. -/
def Obligations.ReceivedFrameFates : Prop :=
  ∀ (s : State) (p : Fin 16) (f : Arrival), running s = true → portOn s p = true →
    let n := f.bytes.length
    let stat (t : State) (k : Nat) : Nat := (rd64 t (R.CP_STAT p k)).toNat
    let adds (t : State) (k by_ : Nat) : Prop := stat t k = Nat.min (stat s k + by_) (2 ^ 64 - 1)
    let faulty : Nat := if f.codeErr then 5 else if maxLen s p f < n then 6 else if !fcsGood f.bytes then 4 else 0
    let none_ (t : State) : Prop := t.flights = s.flights ∧ t.ports = s.ports
    let enters (t : State) (runt err : Bool) : Prop :=
      t.ports = s.ports ∧ ∃ g, t.flights = s.flights ++ [g] ∧ g.tag = s.serial ∧ g.runt = runt ∧ g.err = err ∧ g.tok.port = p.val ∧
        g.tok.src = .client p ∧ g.loc = .front ∧ (runt = true → g.tok.len = n) ∧
        (err = false → runt = false → g.tok.len = n - 4 ∧ g.data = f.bytes.take (n - 4))
    let good := overruns s p f = false ∧ s.mode.mode ≠ .loading ∧ 64 ≤ n ∧ faulty = 0
    ∃ t, exec (.receivedFrame p f) s = .next t ∧ t.wire = s.wire ∧ t.queues = s.queues ∧ t.cistern = s.cistern ∧
      adds t 23 f.fecOk ∧ adds t 24 f.fecBad ∧
      ((port s p).link = false → none_ t) ∧
      ((port s p).link = true → f.bytes ≠ [] →
        (overruns s p f = true → adds t 9 1 ∧ (headSent s p f = false → none_ t) ∧ (headSent s p f = true → enters t false true)) ∧
        (overruns s p f = false → s.mode.mode = .loading → adds t (if n < 64 then 8 else 11) 1 ∧ none_ t) ∧
        (overruns s p f = false → s.mode.mode ≠ .loading → n < 64 → enters t true false) ∧
        (overruns s p f = false → s.mode.mode ≠ .loading → 64 ≤ n → faulty ≠ 0 → adds t faulty 1 ∧
          (n ≤ 260 ∨ isMacControl s p f = true ∨ daAccepted s p f = false → none_ t) ∧
          (260 < n → isMacControl s p f = false → daAccepted s p f = true → enters t false true)) ∧
        (good → isMacControl s p f = true → t.flights = s.flights ∧ (∀ q, q ≠ p.val → port t q = port s q) ∧
          (beAt f.bytes 14 2 = 1 → adds t 12 1 ∧
            port t p = { port s p with pause :=
              (if rbit s (R.CLIENT_FC_CTL p) 31 then rxTimer s p (port s p).pause (beAt f.bytes 16 2) else (port s p).pause) }) ∧
          (beAt f.bytes 14 2 = 0x0101 → adds t 13 1 ∧ port t p = { port s p with pfc := (port t p).pfc } ∧
            ∀ k, k < 8 → look none (port t p).pfc k =
              if rbit s (R.CLIENT_FC_CTL p) 30 = true ∧ (beAt f.bytes 16 2).testBit k = true
              then rxTimer s p (look none (port s p).pfc k) (beAt f.bytes (18 + 2 * k) 2) else look none (port s p).pfc k) ∧
          (beAt f.bytes 14 2 ≠ 1 → beAt f.bytes 14 2 ≠ 0x0101 → adds t 14 1 ∧ t.ports = s.ports)) ∧
        (good → isMacControl s p f = false → daAccepted s p f = false → adds t 10 1 ∧ none_ t) ∧
        (good → isMacControl s p f = false → daAccepted s p f = true → enters t false false ∧ adds t 0 1 ∧ adds t 1 n ∧
          let at_ (a : Nat) : Word := rdAt s (beganAt s f) a
          let len (k : Nat) : Nat := Nat.min 128 (fld (at_ (R.CLIENT_WAKE_CTL k)) 0 8)
          let hit (k : Nat) : Prop := p.val < 4 ∧ bit (at_ (R.CLIENT_WAKE_CTL k)) 31 = true ∧ bit (at_ (R.CLIENT_WAKE_CTL k)) (16 + p) = true ∧
            0 < len k ∧ len k ≤ n - 4 ∧ ∀ i, i < len k → bit (at_ (R.CLIENT_WAKE_MASK k (i / 32))) (31 - i % 32) = true →
              fld (at_ (R.CLIENT_WAKE_DATA k (i / 4))) (24 - 8 * (i % 4)) 8 = beAt f.bytes i 1
          (s.mode.mode = .fallow → ∀ k, k < 32 →
            (rbit t R.CLIENT_WAKE_HIT k = true ↔ rbit s R.CLIENT_WAKE_HIT k = true ∨ hit k) ∧
            (hit k → t.mode.wake = true ∧ t.mode.request = some (s.mode.request.getD .service)) ∧
            (hit k → (∀ j, j < k → ¬hit j) → rd t R.CLIENT_WAKE_FIRST =
              if rbit s R.CLIENT_WAKE_FIRST 31 then rd s R.CLIENT_WAKE_FIRST else pack [(31, 1), (8, p), (0, k)])) ∧
          (s.mode.mode ≠ .fallow ∨ (∀ k, k < 32 → ¬hit k) →
            t.mode = s.mode ∧ rd t R.CLIENT_WAKE_HIT = rd s R.CLIENT_WAKE_HIT ∧ rd t R.CLIENT_WAKE_FIRST = rd s R.CLIENT_WAKE_FIRST)))

/-- A fall of LINK sets its event, records a local fault, empties the transmit queue, cuts the frame in transmission off where it stands
and counts every frame lost in CP_TX_DOWN. A rise clears the faults and the advertised set. A change of the faults sets its event when one
rises. A try of an AUTO port 0 holds after 10 ms of LINK, or passes to the other speed after 100 ms without; 500 ms without LINK start the
detection, in the speed last found. With each the port begins to send what the new state calls for: remote fault while it sees a local
fault, tries no speed and MODE is not LOADING (R493), idle otherwise. A received timer that has run out is cleared. That the frame cut off
is put out in error as far as it went, at the fall, is the model's form (log 82). -/
def Obligations.ClientLinkChanges : Prop :=
  let others (s t : State) (p : Nat) : Prop := ∀ q, q ≠ p → port t q = port s q
  let calls (s : State) (x : Port) : Signal :=
    if x.lf = true ∧ x.link = false ∧ x.detecting = false ∧ s.mode.mode ≠ .loading then .remoteFault x.speed else .idle x.speed
  let becomes (s t : State) (p : Nat) (x : Port) (out : List Output) : Prop :=
    others s t p ∧ port t p = { x with sends := calls s x } ∧
    t.wire = s.wire ++ out ++ if x.sends = calls s x then [] else [.signal p (calls s x)]
  (∀ (s : State) (p : Fin 16) (lf rf : Bool), running s = true → portOn s p = true → (port s p).link = true →
    ∃ t, exec (.linkDown p lf rf) s = .next t ∧ rbit t (R.CLIENT_EVENT p) 1 = true ∧ (lf = true → recorded s t (.client p) 2) ∧
      ((lf = true ∧ (port s p).lf = false) ∨ (rf = true ∧ (port s p).rf = false) → rbit t (R.CLIENT_EVENT p) 2 = true) ∧
      becomes s t p { port s p with link := false, lf := lf, rf := rf, txq := [], cur := none, downAt := s.now,
                                    idleAt := if (port s p).cur.isSome then psNow s else (port s p).idleAt }
        (match (port s p).cur with
          | some c => [.frame p (c.bytes.take (bytesSent s p c)) true]
          | none => []) ∧
      (rd64 t (R.CP_STAT p 20)).toNat =
        Nat.min ((rd64 s (R.CP_STAT p 20)).toNat + (port s p).txq.length + b2n (port s p).cur.isSome) (2 ^ 64 - 1)) ∧
  (∀ (s : State) (p : Fin 16), running s = true → portOn s p = true → (port s p).link = false →
    ∃ t, exec (.linkUp p) s = .next t ∧ regsOnly { s with ports := t.ports, wire := t.wire } t [R.CLIENT_EVENT p] ∧
      rd t (R.CLIENT_EVENT p) = rd s (R.CLIENT_EVENT p) ||| oneHot 1 ∧
      becomes s t p { port s p with link := true, lf := false, rf := false, told := 0, upAt := s.now } []) ∧
  (∀ (s : State) (p : Fin 16) (lf rf : Bool), running s = true → portOn s p = true → (port s p).link = false →
    ∃ t, exec (.localOrRemoteFault p lf rf) s = .next t ∧ regsOnly { s with ports := t.ports, wire := t.wire } t [R.CLIENT_EVENT p] ∧
      becomes s t p { port s p with lf := lf, rf := rf } [] ∧
      rd t (R.CLIENT_EVENT p) = rd s (R.CLIENT_EVENT p) |||
        (if (lf && !(port s p).lf) || (rf && !(port s p).rf) then oneHot 2 else 0)) ∧
  (∀ s : State, running s = true → autoPort s = true → (port s 0).detecting = true →
    ∃ t, exec .speedTry s = .next t ∧ t = { s with ports := t.ports, wire := t.wire, intc := t.intc } ∧
      ((port s 0).link = true → (port s 0).upAt + 3125000 ≤ s.now → becomes s t 0 { port s 0 with detecting := false } []) ∧
      ((port s 0).link = false → (port s 0).tryAt + 31250000 ≤ s.now →
        becomes s t 0 { port s 0 with speed := if (port s 0).speed = 2 then 0 else 2, tryAt := s.now } [])) ∧
  (∀ s : State, running s = true → autoPort s = true → (port s 0).detecting = false → (port s 0).link = false →
    (port s 0).downAt + 156250000 ≤ s.now →
    ∃ t, exec .detecting s = .next t ∧ t = { s with ports := t.ports, wire := t.wire, intc := t.intc } ∧
      becomes s t 0 { port s 0 with detecting := true, tryAt := s.now } []) ∧
  (∀ (s : State) (p : Fin 16), running s = true →
    (∀ g e, (port s p).pause = some (g, e) → e ≤ psNow s →
      ∃ t, exec (.pauseTimerEnd p none) s = .next t ∧ t = { s with ports := t.ports, intc := t.intc } ∧ others s t p ∧
        port t p = { port s p with pause := none }) ∧
    (∀ (k : Fin 8) (g e : Nat), look none (port s p).pfc k = some (g, e) → e ≤ psNow s →
      ∃ t, exec (.pauseTimerEnd p (some k)) s = .next t ∧ t = { s with ports := t.ports, intc := t.intc } ∧ others s t p ∧
        port t p = { port s p with pfc := (port t p).pfc } ∧ look none (port t p).pfc k = none ∧
        ∀ j, j ≠ k.val → look none (port t p).pfc j = look none (port s p).pfc j))

/-- The oldest token accepted for a port joins the end of its transmit queue. A MAC control frame, a frame of a port whose LINK is 0, and
one that would pass the queue's limit are dropped and counted. A frame begins when the port is free and nothing goes first: it leaves the
queue and is the frame in transmission, its bytes padded to 60 and followed by the FCS, until the instant at which its last byte has left;
an uncorrectable granule makes it end in error and is recorded. The frame is put out at its end (log 82). A PTP event frame from the line
for a port that R639 selects has the residence and the addend put into its correctionField, saturating, and its UDP checksum brought after
it, before its bytes are read; one whose residence spans an output step is sent as it came; each counts. Nothing else of the frame
changes. When a PFC or a PAUSE frame is wanted, or a further one is due, and the port is free, it begins: its addresses, type and
operation are those of the rule, and the advertised set becomes the pressured set (all priorities for a PAUSE). A write of CLIENT_FC_CTL
empties the advertised set; GO of CLIENT_STAT_PRESET sets the counter it names. -/
def Obligations.ClientTransmission : Prop :=
  (
    (∀ (s : State) (p : Fin 16) (e : Nat × QFrame), running s = true → s.toPort.find? (fun e => e.1 == p.val) = some e →
      let x := port s p
      let drop : Nat :=
        if beAt (partsBytes s e.2.parts) 12 2 = 0x8808 then 22
        else if !x.link || !portOn s p then 20
        else if zeroAsOne (rfld s (R.CLIENT_TX_CTL p) 0 16) * 65536 < frameBytes x.txq + e.2.remain then 19 else 0
      ∃ t, exec (.transmitQueue p) s = .next t ∧ t.toPort = s.toPort.erase e ∧ t.wire = s.wire ∧ t.queues = s.queues ∧
        (∀ q, q ≠ p.val → port t q = port s q) ∧
        (drop = 0 → port t p = { x with txq := x.txq ++ [e.2] } ∧ t.regs = s.regs ∧ t.cistern = s.cistern) ∧
        (drop ≠ 0 → port t p = x ∧ (rd64 t (R.CP_STAT p drop)).toNat = Nat.min ((rd64 s (R.CP_STAT p drop)).toNat + 1) (2 ^ 64 - 1) ∧
          ∀ a, a ≠ R.CP_STAT p drop → a ≠ R.CP_STAT p drop + 4 → rd t a = rd s a)) ∧
    (∀ (s : State) (p : Fin 16) (u : Upset) (f : QFrame) (rest : List QFrame), running s = true → (port s p).txq = f :: rest → canBegin s p = true →
      pfcWanted s p = false → pauseWanted s p = false → refreshDue s p = false → holds s (port s p).pause = false →
      holds s (look none (port s p).pfc (txPriority s p (partsBytes s f.parts))) = false →
      ∃ t c, exec (.transmitFrame p u) s = .next t ∧ t.wire = s.wire ∧ t.queues = s.queues ∧ t.flights = s.flights ∧
        port t p = { port s p with txq := rest, cur := some c, idleAt := c.ends + 12 * bytePs (port s p).speed } ∧
        c.parts = f.parts ∧ c.gen = none ∧ c.ends = psNow s + (8 + c.bytes.length) * bytePs (port s p).speed ∧
        (let b := padTo (partsBytes (tcPort p f s) f.parts) 60
         c.bytes = b ++ leBytes 4 (crc32 b).toNat) ∧
        (∀ q, q ≠ p.val → port t q = port s q) ∧ (c.bad = true → recorded s t (.client p) 1)) ∧
    (∀ (s : State) (p : Nat) (f : QFrame),
      let u := tcPort p f s
      (tcDownstream s p f = false ∨ ptpEvent (partsBytes s f.parts) = none → u = s) ∧
      (∀ k, tcDownstream s p f = true → ptpEvent (partsBytes s f.parts) = some k →
        (f.tok.steps ≠ s.time.steps → regsOnly s u [R.TIME_TC_CNT_STEP, R.TIME_EVENT] ∧ rbit u R.TIME_EVENT 13 = true ∧
          rd u R.TIME_TC_CNT_STEP = sat32 ((rd s R.TIME_TC_CNT_STEP).toNat + 1)) ∧
        (f.tok.steps = s.time.steps →
          let r := tcApply (partsBytes s f.parts) k (txStamp s p - f.tok.stamp) (rd s (R.TIME_TC_ADD 1))
          let field := patchParts s f.parts (k.ptp + 8) (slice r.1 (k.ptp + 8) 8)
          let whole_ := match k.udp with | some (i, _) => patchParts field f.parts i (slice r.1 i 2) | none => field
          u.cistern = whole_.cistern ∧ u.res = whole_.res ∧ rd u R.TIME_TC_CNT = sat32 ((rd s R.TIME_TC_CNT).toNat + 1) ∧
          (r.2 = true → rd u R.TIME_TC_CNT_SAT = sat32 ((rd s R.TIME_TC_CNT_SAT).toNat + 1)) ∧
          ∀ a, a ∉ [R.TIME_TC_CNT, R.TIME_TC_CNT_SAT] → rd u a = rd s a))) ∧
    (∀ (b : Bytes) (k : PtpAt) (residence : DWord) (add : Word), ptpEvent b = some k →
      let old : DWord := BitVec.ofNat 64 (beAt b (k.ptp + 8) 8)
      let sum : Int := old.toInt + residence.toInt + add.toInt * 4096
      let r := tcApply b k residence add
      (r.2 = true ↔ old = 0x7FFFFFFFFFFFFFFF ∨ sum < -(2 ^ 63) ∨ 2 ^ 63 ≤ sum) ∧ r.1.length = b.length ∧
      beAt r.1 (k.ptp + 8) 8 = (if r.2 = true then 0x7FFFFFFFFFFFFFFF else (BitVec.ofInt 64 sum).toNat) ∧
      ∀ i, ¬(k.ptp + 8 ≤ i ∧ i < k.ptp + 16) → (∀ j z, k.udp = some (j, z) → ¬(j ≤ i ∧ i < j + 2) ∨ (z = true ∧ beAt b j 2 = 0)) →
        r.1[i]? = b[i]?)) ∧
  (
    let begins (s t : State) (p : Fin 16) (k told : Nat) (c : TxCur) : Prop :=
      t = { s with ports := t.ports, intc := t.intc } ∧ (∀ q, q ≠ p.val → port t q = port s q) ∧
      port t p = { port s p with cur := some c, told := told, genAt := some (psNow s), idleAt := c.ends + 12 * bytePs (port s p).speed } ∧
      c.ends = psNow s + 72 * bytePs (port s p).speed ∧ c.gen = some k ∧ c.bad = false ∧ c.parts = [] ∧ c.bytes.length = 64 ∧
      beAt c.bytes 0 6 = 0x0180C2000001 ∧ beAt c.bytes 6 6 = fld (rd64 s (R.CLIENT_MAC_ADDR p 0)) 0 48 ∧ beAt c.bytes 12 2 = 0x8808
    let pfc (s : State) (p : Fin 16) (b : Bytes) : Prop :=
      beAt b 14 2 = 0x0101 ∧ beAt b 16 2 = (pressured s p ||| (port s p).told) % 65536 ∧
      ∀ k, k < 8 → beAt b (18 + 2 * k) 2 = if (pressured s p).testBit k then quantaOf s p else 0
    let pause (s : State) (p : Fin 16) (b : Bytes) : Prop := beAt b 14 2 = 1 ∧ beAt b 16 2 = if pressured s p = 0 then 0 else quantaOf s p
    (∀ (s : State) (p : Fin 16), running s = true → canBegin s p = true → pfcWanted s p = true →
      ∃ t c, exec (.pfcGeneration p) s = .next t ∧ begins s t p 18 (pressured s p) c ∧ pfc s p c.bytes) ∧
    (∀ (s : State) (p : Fin 16), running s = true → canBegin s p = true → pauseWanted s p = true →
      ∃ t c, exec (.pauseGeneration p) s = .next t ∧ begins s t p 17 (if pressured s p = 0 then 0 else 0xFF) c ∧ pause s p c.bytes) ∧
    (∀ (s : State) (p : Fin 16), running s = true → canBegin s p = true → refreshDue s p = true →
      ∃ t c, exec (.refresh p) s = .next t ∧
        (txMode s p = 2 → begins s t p 18 (pressured s p) c ∧ pfc s p c.bytes) ∧
        (txMode s p = 1 → begins s t p 17 0xFF c ∧ pause s p c.bytes)) ∧
    (∀ (s : State) (p : Fin 16) (v : Word), barOpen s = true →
      (∃ t, exec (.clientFcCtl p v) s = .next t ∧ regsOnly { s with ports := t.ports } t [R.CLIENT_FC_CTL p] ∧
        rd t (R.CLIENT_FC_CTL p) &&& 0xF000FFFF = v &&& 0xF000FFFF ∧ port t p = { port s p with told := 0 } ∧
        ∀ q, q ≠ p.val → port t q = port s q) ∧
      (∃ t, exec (.clientStatPreset p v) s = .next t ∧
        regsOnly s t (R.CLIENT_STAT_PRESET p :: if bit v 31 && decide (fld v 0 5 ≤ 24) then [R.CP_STAT p (fld v 0 5), R.CP_STAT p (fld v 0 5) + 4] else []) ∧
        rd t (R.CLIENT_STAT_PRESET p) &&& 0x1F = v &&& 0x1F ∧
        (bit v 31 = true → fld v 0 5 ≤ 24 → rd64 t (R.CP_STAT p (fld v 0 5)) = rd64 s (R.CLIENT_STAT_PRESET_V p)))))

/-! ### Cells, queues and the reservoir (chapters 01, 02, 05, 07, 08) -/

/-- A head token that its front can send, and that wins its role, goes to the cell of its tract and role, and each front that waited for
the same role has lost to this one. A runt, and a frame for which fewer granules are free than its credit needs, is refused and its bytes
are discarded; the first counts, and the latter counts and sets NOBUF. An admitted frame of a client port or the host takes a credit of 63
granules, and a reassembled one's granules leave the pool, which draws as many as the general area has free. A recirculated token goes to
the cell that its role has now. A token that its front cannot send, or that loses its turn (log 1), changes nothing; which granules a
frame needs is log 46. The cell walks the headers of the head bytes: the walk stops with exactly one of its five flags after at most 12
headers, and builds a key. A walk whose bounds are not all known waits for the length; another is judged at once. The judgement takes the
first condition of R426 that applies: SHORT or UNKNOWN, a length conflict, a bad rule entry, no rule or DEFAULT, or a depth that the rule
does not allow; each counts, and the frame of a privileged port goes to its ring or is lost for want of a token, another takes the default
action. Otherwise the matching rule's action gives the fate, and RECIRC sends the head token round again with the next pass, or is the end
on pass 4. The end of a frame writes its bytes into its granules, in order, and leaves every other byte of the cistern as it was; what of
the credit was not used returns to the draw reserve while it is short, then to the reassembly pool while it is short, and then to the
general area (R920). The granules are given by the sender (log 17). Where the length that the payload brings is less than a bound still
pending, the pass ends with LENGTH_CONFLICT. -/
def Obligations.CellAdmission : Prop :=
  (
    (∀ (s : State) (tag : Nat) (u : ReplicaUpset) (f : Flight), running s = true → flight s tag = some f → f.tok.port < 18 →
       let r := routeOf s f.tok
       let k := Nat.min f.pool (cisFree s)
       let runts := if s.mode.mode = .service ∨ s.mode.mode = .fallow then 7 else 8
       ∃ t, exec (.headToken tag u) s = .next t ∧ t.queues = s.queues ∧ t.wire = s.wire ∧
         (f.loc = .cell ∨ (f.loc = .front ∧ canSend s f = false) → intcOnly s t) ∧
         (f.loc = .front → canSend s f = true → ∀ p, p < 18 → p ≠ f.tok.port → frontAsks s r.1 r.2 p = true →
           (⟨.role r.1 r.2, f.tok.port, p⟩ : Turn) ∈ t.turns) ∧
         (f.loc = .front → canSend s f = true → f.runt = true → flight t tag = none ∧
           (f.tok.port < 16 → (rd64 t (R.CP_STAT f.tok.port runts)).toNat =
             Nat.min ((rd64 s (R.CP_STAT f.tok.port runts)).toNat + 1) (2 ^ 64 - 1))) ∧
         (f.loc = .front → canSend s f = true → f.runt = false → cisFree s < creditOf f →
           flight t tag = none ∧ rd t (R.BUFFER_CNT_NOBUF f.tok.port) = sat32 ((rd s (R.BUFFER_CNT_NOBUF f.tok.port)).toNat + 1) ∧
           rbit t R.BUFFER_EVENT 0 = true) ∧
         (f.loc = .front → canSend s f = true → f.runt = false → creditOf f ≤ cisFree s →
           let s1 := replicaUpset r.1 (cellOf s r.1 r.2) u s
           let w := (parsePass s1 r.1 f.head f.tok.len (s.parser.starts.getD f.tok.port 0) f.off).1
           ∃ g, flight t tag = some g ∧ g.loc ≠ .front ∧ (g.tract, g.role) = r ∧ g.cell = cellOf s r.1 r.2 ∧ g.data = f.data ∧
             (w.pending ≠ 0 → f.full = false → g.walk = some w ∧ g.loc = .cell ∧ g.fate = f.fate) ∧
             (w.pending = 0 ∨ f.full = true → ∃ g0 sx, g = (concludePass g0 w sx).1 ∧ g0.tok = f.tok ∧ g0.pass = f.pass ∧ g0.fate = f.fate ∧
               (g0.tract, g0.role) = r ∧ g0.loc = .cell ∧ sx.cls = s1.cls ∧ sx.now = s.now ∧ ∀ n, n < 4 → rd sx (R.CLASS_PRIV n) = rd s (R.CLASS_PRIV n)) ∧
             (isLine f.tok = false → g.credit = 63 ∧ t.cistern = { s.cistern with credits := s.cistern.credits + 63 }) ∧
             (isLine f.tok = true → t.cistern = { s.cistern with
               gen := s.cistern.gen - k, pool := s.cistern.pool - f.pool + k, short := s.cistern.short + (f.pool - k) })) ∧
         (f.loc = .recirc → ∃ g, flight t tag = some g ∧ g.cell = cellOf s f.tract f.role ∧ g.credit = f.credit ∧ t.cistern = s.cistern ∧
           ∀ w, w = (parsePass (replicaUpset f.tract g.cell u s) f.tract f.head f.tok.len f.node f.off).1 → w.pending ≠ 0 → f.full = false →
             g.walk = some w ∧ g.loc = .cell ∧ g.fate = f.fate)) ∧
    (∀ (s : State) (n : Nat) (head : Bytes) (len node off : Nat),
      let w := (parsePass s n head len node off).1
      w.flags / 4096 ≤ 12 ∧ w.flags % 4096 ∈ [1, 2, 4, 8, 16] ∧ w.key.length = 64 ∧ (256 < len → w.flags % 4096 ≠ 8) ∧
      (node = 0x40 → w.flags = 1) ∧ (0x40 < node → w.flags = 16) ∧
      (node < 0x40 → s.cls.badNodes.contains (n * 16384 + node) = true → parsePass s n head len node off = (w, some node) ∧ w.flags = 16)) ∧
    (∀ (g : Flight) (w : Walk) (x : State),
      (w.pending ≤ g.tok.len ∨ w.flags % 32 / 4 ≠ 0 → concludePass g w x = judge g w x) ∧
      (g.tok.len < w.pending → w.flags % 32 / 4 = 0 → concludePass g w x = judge g { w with flags := w.flags + 4 } x)) ∧
    (∀ (g : Flight) (w : Walk) (x : State), g.tract < 8 →
      let h := (judge g w x).1
      let y := (judge g w x).2
      let counts (k : Nat) : Prop := rd y (R.CLASS_CNT k) = sat32 ((rd x (R.CLASS_CNT k)).toNat + 1)
      let flags := w.flags + (g.pass - 1) * 64
      let stuck := w.flags.testBit 3 || w.flags.testBit 4
      let conflict := w.flags.testBit 2
      let found := lookup x g.tract (keyOf w g.tok.port g.pass) (ruleSlot x g.tok.slot).pos
      let cond : Option Nat := if stuck then some 0 else if conflict then some 1 else
        match found with
        | .bad _ => some 2
        | .miss => some 3
        | .hit a => if actKind a = 5 then some 3 else if w.flags.testBit 1 && !actPartial a then some 4 else none
      let marks := flags + (match cond with | some 2 => 0x400 | some 3 => 0x20 | _ => 0)
      (∀ k, cond = some k → counts k ∧ (k = 1 → h.tok.csum = 0) ∧ (k ≠ 1 → h.tok.csum = g.tok.csum) ∧
        (privEntry x g.tok.port = none → h.fate = some (actFate (defaultAct x g.tok.slot g.tok.port) w.pcp) ∧
          h.count = actCnt (defaultAct x g.tok.slot g.tok.port) ∧ h.tok.flags = marks + 0x200 ∧ counts 5) ∧
        (∀ n, privEntry x g.tok.port = some n → tokenUnit ≤ bucketLevel x n → h.fate = some (.ring (rfld x (R.CLASS_PRIV n) 0 8)) ∧
          h.tok.flags = marks + 0x100 ∧ h.count = 0 ∧ counts 6 ∧ look {} y.cls.buckets n = ⟨bucketLevel x n - tokenUnit, x.now⟩) ∧
        (∀ n, privEntry x g.tok.port = some n → bucketLevel x n < tokenUnit → h.fate = some .lost ∧ h.tok.flags = marks ∧ h.count = 0 ∧ counts 7 ∧
          rbit y R.CLASS_EVENT 3 = true)) ∧
      (∀ a, cond = none → found = .hit a → actKind a ≠ 4 → y = x ∧ h.fate = some (actFate a w.pcp) ∧ h.count = actCnt a ∧ h.tok.flags = flags) ∧
      (∀ a, cond = none → found = .hit a → actKind a = 4 → 4 ≤ g.pass → h.fate = some .lost ∧ h.count = 0 ∧ counts 9) ∧
      (∀ a, cond = none → found = .hit a → actKind a = 4 → g.pass < 4 → h.loc = .recirc ∧ h.pass = g.pass + 1 ∧ h.node = actNode a ∧
        h.off = actOff a ∧ h.walk = none ∧ h.fate = g.fate ∧ counts 8 ∧
        (actCnt a ≠ 0 → rd y (R.CLASS_ACT_CNT (actCnt a)) = sat32 ((rd x (R.CLASS_ACT_CNT (actCnt a))).toNat + 1))))) ∧
  (
    ∀ (s : State) (tag : Nat) (gs : List Nat) (f : Flight), running s = true → flight s tag = some f → f.loc ≠ .front → f.full = false →
      canGive s gs = true → gs.length = granulesOf f.tok.len → f.data.length = f.tok.len →
      let n := gs.length
      let unused := f.credit - n
      let k1 := Nat.min unused (rfld s R.BUFFER_CIS_RESERVE 0 20 - s.cistern.reserve)
      let k2 := Nat.min (unused - k1) s.cistern.short
      ∃ t g, exec (.payloadComplete tag gs) s = .next t ∧ flight t tag = some g ∧ g.full = true ∧ g.credit = 0 ∧ g.parts = [.cis gs 0 f.tok.len] ∧
        partsBytes t g.parts = f.data ∧ (∀ a, a / 256 ∉ gs → cisByte t a = cisByte s a) ∧
        (isLine f.tok = false → t.cistern.credits = s.cistern.credits - n - unused ∧ t.cistern.reserve = s.cistern.reserve + k1 ∧
          t.cistern.pool = s.cistern.pool + k2 ∧ t.cistern.short = s.cistern.short - k2 ∧
          t.cistern.gen = s.cistern.gen - n - unused + (unused - k1 - k2)) ∧
        (isLine f.tok = true → t.cistern.credits = s.cistern.credits ∧ t.cistern.gen = s.cistern.gen ∧ t.cistern.pool = s.cistern.pool) ∧
        (∀ w, f.walk = some w → f.fate = none → f.tok.len < w.pending → w.flags % 32 / 4 = 0 → g.fate.isSome = true ∧ g.tok.flags.testBit 2 = true) ∧
        t.queues = s.queues ∧ t.wire = s.wire)

/-- A complete and judged frame that need not wait leaves its cell: its descriptor token, where it wins its way, goes to its queue, its
port or its receive ring, or the frame is discarded; one whose check fails is discarded and recorded, a recirculated one too. A token that
a fenced cell still holds stops at the fence and is recorded, whether its check would fail or not (the model's choice, log 126). A token
that loses its turn (log 1) changes nothing; the release of the entry version is log 43, that of a failed frame logs 44 and 147, and the
measure of a ring's backlog log 111. The queue manager drops a frame for an invalid queue or one over its limit, and links every other at
the tail. -/
def Obligations.DispatchAndEnqueue : Prop :=
  (∀ (s : State) (tag : Nat) (bad : Bool) (f : Flight) (x : Fate), running s = true → flight s tag = some f → f.fate = some x → f.loc = .cell →
    f.full = true → mustWait s f = false → f.tract < 8 →
    let stay (t : State) : Prop := t.toQueue = s.toQueue ∧ t.toPort = s.toPort
    ∃ t, exec (.dispatchStage tag bad) s = .next t ∧ t.queues = s.queues ∧ t.wire = s.wire ∧
      (bad = true → flight t tag = none ∧ recorded s t (.tract f.tract) 3 ∧ stay t ∧ t.turns = s.turns) ∧
      (bad = false → f.err = true → flight t tag = none ∧ stay t ∧ t.turns = s.turns) ∧
      (bad = false → f.err = false → wayFree s f x = false → intcOnly s t) ∧
      (bad = false → f.err = false → wayFree s f x = true → flight t tag = none ∧
        (∀ a c, fateArbiter x = some a → c < 144 → c ≠ cellNumber f → cellAsks s a c = true → (⟨a, cellNumber f, c⟩ : Turn) ∈ t.turns) ∧
        (x = .drop ∨ x = .lost → stay t) ∧
        (∀ q, x = .queue q → t.toQueue = s.toQueue ++ [(q, descriptorOf f)] ∧ t.toPort = s.toPort) ∧
        (∀ p, x = .port p → t.toPort = s.toPort ++ [(p, descriptorOf f)] ∧ t.toQueue = s.toQueue) ∧
        (∀ r, x = .ring r → stay t ∧ (f.tok.tsReq = none →
          if ringOpen s r = true ∧
              backlogUsed s + 256 * (f.parts.flatMap Chunk.granules).length ≤ zeroAsOne (rfld s R.RING_RX_BACKLOG 0 16) * 65536
          then (ring t true r).inbox = (ring s true r).inbox ++ [.frame (descriptorOf f)]
          else (ring t true r).inbox = (ring s true r).inbox)))) ∧
  (∀ (s : State) (tag : Nat) (f : Flight), running s = true → flight s tag = some f → f.fate = none → f.loc = .recirc → f.tract < 8 →
    ∃ t, exec (.dispatchStage tag true) s = .next t ∧ flight t tag = none ∧ recorded s t (.tract f.tract) 3 ∧ t.toQueue = s.toQueue ∧
      t.toPort = s.toPort ∧ t.queues = s.queues) ∧
  (∀ (s : State) (tag : Nat) (bad : Bool) (g : Ghost), running s = true → flight s tag = none → s.ghosts.find? (fun h => h.tag == tag) = some g →
    g.tract < 8 →
    ∃ t, exec (.dispatchStage tag bad) s = .next t ∧ t.flights = s.flights ∧ (∀ h ∈ t.ghosts, h.tag ≠ tag) ∧ recorded s t (.tract g.tract) 4 ∧
      rd t (R.TRACT_FENCE_DROP g.tract) = sat32 ((rd s (R.TRACT_FENCE_DROP g.tract)).toNat + 1)) ∧
  (∀ (s : State) (n : Fin 8) (e : Nat × QFrame), running s = true → s.toQueue.find? (fun e => qTract e.1 == n.val) = some e → e.1 < 32768 →
    ∃ t, exec (.enqueue n) s = .next t ∧ t.toQueue = s.toQueue.erase e ∧ (∀ q, q ≠ e.1 → queue t q = queue s q) ∧
      (qValid s e.1 = false → queue t e.1 = queue s e.1 ∧ recorded s t (.tract n) 8 ∧
        rd t R.QUEUE_CNT_INVALID = sat32 ((rd s R.QUEUE_CNT_INVALID).toNat + 1)) ∧
      (qValid s e.1 = true → overLimit s e.1 e.2.remain = true →
        queue t e.1 = queue s e.1 ∧ rd t (R.QUEUE_Q_DROP e.1) = sat32 ((rd s (R.QUEUE_Q_DROP e.1)).toNat + 1)) ∧
      (qValid s e.1 = true → overLimit s e.1 e.2.remain = false →
        (queue t e.1).frames = (queue s e.1).frames ++ [{ e.2 with tok := { e.2.tok with uid := s.serial } }] ∧ t.cistern = s.cistern ∧
        (queue t e.1).pages = (queue s e.1).pages ∧
        (queue t e.1).press = pressureNow (rd s (R.QUEUE_Q_WM e.1)) (frameBytes (queue t e.1).frames) (queue s e.1).press))

/-- A stall sets the health bit and is recorded, once for each time the bit sets. A map word that names a cell above 17, a fenced cell or
a cell twice, and one any while a tract is under reload (R799), is discarded and recorded; any other is taken, and each cell that leaves
the map is fenced. A reset of a cell in a role is a conflict; of another it sets its bit, and its end clears the cell's bits and counters,
also of a cell mapped meanwhile (the model's choice, log 125). A front drains once no token of the former routing is left. -/
def Obligations.CellHealthRules : Prop :=
  (∀ (s : State) (n : Fin 8) (c : Fin 18), running s = true → stalled s n c = true →
    ∃ t, exec (.cellStall n c) s = .next t ∧
      (rbit s (R.TRACT_CELL_HEALTH n) c = false →
        regsOnly s t (R.TRACT_CELL_HEALTH n :: recordOf (.tract n)) ∧ recorded s t (.tract n) 2 ∧
        rd t (R.TRACT_CELL_HEALTH n) = rd s (R.TRACT_CELL_HEALTH n) ||| oneHot c) ∧
      (rbit s (R.TRACT_CELL_HEALTH n) c = true → intcOnly s t)) ∧
  (∀ (s : State) (n : Fin 8) (k : Fin 4) (v : Word), barOpen s = true → hasTract s n = true →
    let new := wr s (R.TRACT_CELL_MAP n k) (v &&& 0x1F1F1F1F)
    let cells := (List.range 16).map (cellOf new n)
    let refused := (cells.any fun c => decide (17 < c) || rbit s (R.TRACT_CELL_FENCE n) c) = true ∨ ¬cells.Nodup ∨ ∃ m, m < 8 ∧ reloading s m = true
    ∃ t, exec (.tractCellMap n k v) s = .next t ∧
      (refused → regsOnly s t (recordOf (.tract n)) ∧ recorded s t (.tract n) 1) ∧
      (¬refused → rd t (R.TRACT_CELL_MAP n k) = v &&& 0x1F1F1F1F ∧ t.queues = s.queues ∧
        ∀ c, c < 18 → inMap s n c = true → inMap t n c = false →
          rbit t (R.TRACT_CELL_FENCE n) c = true ∧ ∀ f ∈ t.flights, ¬(f.loc = .cell ∧ f.tract = n.val ∧ f.cell = c))) ∧
  (∀ (s : State) (n : Fin 8) (v : Word), barOpen s = true → hasTract s n = true →
    ∃ t, exec (.tractCellReset n v) s = .next t ∧ regsOnly s t (R.TRACT_CELL_RESET n :: recordOf (.tract n)) ∧
      (∀ c, c < 18 → rbit t (R.TRACT_CELL_RESET n) c = (rbit s (R.TRACT_CELL_RESET n) c || (bit v c && !inMap s n c))) ∧
      ((∃ c, c < 18 ∧ bit v c = true ∧ inMap s n c = true) → rbit t (Block.tract n).base 1 = true)) ∧
  (∀ (s : State) (n : Fin 8) (c : Fin 18), running s = true → rbit s (R.TRACT_CELL_RESET n) c = true →
    ∃ t, exec (.cellResetDone n c) s = .next t ∧ t = { s with regs := t.regs, ghosts := t.ghosts, intc := t.intc } ∧
      rbit t (R.TRACT_CELL_RESET n) c = false ∧ rbit t (R.TRACT_CELL_HEALTH n) c = false ∧ rbit t (R.TRACT_CELL_FENCE n) c = false ∧
      (∀ k, k < 16 → rd64 t (R.TRACT_CELL_CNT n c k) = 0) ∧ ∀ g ∈ t.ghosts, ¬(g.tract = n.val ∧ g.cell = c.val)) ∧
  (∀ (s : State) (p : Fin 18), running s = true → (s.flights.any fun f => f.loc != .front && f.tok.port == p.val) = false →
    ∃ t, exec (.frontRoutingDrainEnd p) s = .next t ∧ t = { s with mode := { s.mode with drain := t.mode.drain }, intc := t.intc } ∧
      ∀ n, n ∈ t.mode.drain ↔ n ∈ s.mode.drain ∧ n ≠ p.val)

/-- A spill of the queue whose turn it is takes a free page of the channel whose turn it is; the queue's frames stay. A page that the
channel accepts joins the end of the queue's reservoir segment, and the metadata of the page before names it. A draw of the first page
begins, with a fault recorded where the first copy of the metadata fails and its mirror is good; a halted channel, or no good copy on a
channel that runs, breaks the queue. A page that arrives leaves the segment and returns to its channel, its bytes lie in the cistern, and
the frames its failing beats take are gone. What happens to the bytes of a page cut short, and to a queue that a draw meets a halted
channel with, is the model's reading (log 57). A write of QUEUE_Q_WM evaluates the queue's pressure. A halt of an enabled channel sets its
bit, is recorded, withdraws the page being written, and breaks each queue that a page of it is being drawn for. A recovery of a broken
queue empties its reservoir segment, counts its pages as lost and gives them to no queue again; of a queue that is not broken, or without
GO, nothing changes. -/
def Obligations.ReservoirMoves : Prop :=
  (
    (∀ (s : State) (q : Fin 32768) (page ch : Nat) (u : Upset), running s = true → nextSpill s = some q.val → nextChan s = some ch →
      (chan s ch).writing = none → pageFree s ch page = true →
      ∃ t w, exec (.spill q true page u) s = .next t ∧ (chan t ch).writing = some w ∧ w.q = q.val ∧ w.page = page ∧
        w.body.info.q = q.val ∧ w.body.info.mirror = mirrorChan s ch ∧ w.body.info.count = w.body.data.length ∧
        w.body.info.first = (w.body.recs.drop (b2n (headerOwed s q))).head?.map (·.1) ∧ w.stop = tailAfter s q (fillPage (spillInput s q) 0).1 ∧
        (chan t ch).free = (chan s ch).free - 1 ∧ queue t q = { queue s q with writing := true } ∧ t.res.turn = ch ∧ t.res.qturn = q.val ∧
        t.cistern.mem = s.cistern.mem ∧ t.wire = s.wire ∧ ∀ k, k ≠ q.val → queue t k = queue s k) ∧
    (∀ (s : State) (ch : Fin 8) (w : Writing), running s = true → (chan s ch).writing = some w → chanHalted s ch = false →
      ∃ t, exec (.spillPageAccepted ch) s = .next t ∧ (chan t ch).writing = none ∧ (queue t w.q).pages = (queue s w.q).pages ++ [pageKey ch w.page] ∧
        (queue t w.q).writing = false ∧ (queue t w.q).header = w.left ∧ (queue t w.q).cut = w.stop ∧
        look {} t.res.pages (pageKey ch w.page) = w.body ∧
        (∀ l, (queue s w.q).pages.getLast? = some l → l ≠ pageKey ch w.page →
          (look {} t.res.pages l).info.next = some (pageKey ch w.page) ∧ (look {} t.res.pages l).data = (look {} s.res.pages l).data) ∧
        (queue t w.q).frames.map (·.tok.uid) = (queue s w.q).frames.map (·.tok.uid) ∧ ∀ k, k ≠ w.q → queue t k = queue s k) ∧
    (∀ (s : State) (q : Fin 32768) (ch m : Fin 8) (page : Fin 8388608) (rest : List Nat) (a b : Bool), running s = true → nextDraw s = some q.val →
      (queue s q).pages = pageKey ch page :: rest → (look {} s.res.pages (pageKey ch page)).info.mirror = m.val →
      let breaks := chanHalted s ch = true ∨ (a = true ∧ (b = true ∨ chanHalted s m = true))
      ∃ t, exec (.draw q a b) s = .next t ∧ t.res.dturn = q.val ∧ (∀ n, n ≠ q.val → queue t n = queue s n) ∧
        (¬breaks → queue t q = { queue s q with drawing := true } ∧ (a = false → ∀ r ∈ R.BUFFER_EVENT :: recordOf .buffer, rd t r = rd s r) ∧ (a = true → recorded s t .buffer 3)) ∧
        (breaks → queue t q = { queue s q with broken := true, drawing := false } ∧ recorded s t .buffer 4 ∧ rbit t R.BUFFER_EVENT 2 = true)) ∧
    (∀ (s : State) (q : Fin 32768) (ch : Fin 8) (page : Fin 8388608) (rest : List Nat) (bad : List Nat) (corr : Nat) (gs : List Nat), running s = true →
      let k := pageKey ch page
      (queue s q).pages = k :: rest → (queue s q).drawing = true → canGive s gs = true → gs.length = 16 → 16 ≤ cisFree s + s.cistern.reserve →
      ∃ t, exec (.drawPageArrived q bad corr gs) s = .next t ∧ (queue t q).pages = rest ∧ (queue t q).drawing = false ∧
        (rest = [] → (queue t q).header = 0 ∧ ((queue s q).writing = false → (queue t q).cut = (0, 0))) ∧
        (rest ≠ [] ∨ (queue s q).writing = true → (queue t q).cut = (queue s q).cut) ∧
        look {} t.res.pages k = {} ∧ (chan t ch).free = (chan s ch).free + 1 ∧ (queue t q).frames.flatMap (chunksIn k) = [] ∧
        (∀ n, n ≠ q.val → queue t n = queue s n) ∧
        (∀ b ∈ bad, b < 512 → rbit t Block.buffer.base 2 = true ∧
          ∀ uid ∈ lostIn (queue s q).frames k (look {} s.res.pages k).recs b, ∀ f ∈ (queue t q).frames, f.tok.uid ≠ uid) ∧
        ((look {} s.res.pages k).poison = [] → (∀ b ∈ bad, 512 ≤ b) →
          (queue t q).frames.map (fun f => (f.tok, f.carried, f.stop)) = (queue s q).frames.map (fun f => (f.tok, f.carried, f.stop)))) ∧
    (∀ (s : State) (q : Fin 32768) (v : Word), barOpen s = true → hasTract s (qTract q) = true →
      ∃ t, exec (.queueQWm q v) s = .next t ∧ regsOnly { s with queues := t.queues } t [R.QUEUE_Q_WM q] ∧ rd t (R.QUEUE_Q_WM q) = v ∧
        queue t q = { queue s q with press := pressureNow v (occupancy s q) (queue s q).press } ∧ ∀ n, n ≠ q.val → queue t n = queue s n)) ∧
  (
    (∀ (s : State) (ch : Fin 8) (cause : Fin 3), running s = true → chanEnabled s ch = true → chanHalted s ch = false →
      ∃ t, exec (.resHalt ch cause) s = .next t ∧ chanHalted t ch = true ∧ rbit t Block.buffer.base 5 = true ∧ rbit t Block.buffer.base 31 = true ∧
        (chan t ch).writing = none ∧ t.cistern = s.cistern ∧ t.wire = s.wire ∧ (∀ k, k ≠ ch.val → chan t k = chan s k) ∧
        (chan t ch).free = (chan s ch).free + b2n (chan s ch).writing.isSome ∧
        (∀ q, (queue t q).frames = (queue s q).frames ∧ (queue t q).pages = (queue s q).pages) ∧
        (∀ q k l, (queue s q).drawing = true → (queue s q).pages = k :: l → keyChan k = ch.val →
          (queue t q).broken = true ∧ (queue t q).drawing = false ∧ rbit t R.BUFFER_EVENT 2 = true ∧ rbit t Block.buffer.base 4 = true) ∧
        (∀ q, (∀ e ∈ s.queues, e.1 = q → ¬(e.2.drawing = true ∧ e.2.pages.head?.map keyChan = some ch.val)) →
          (queue t q).broken = (queue s q).broken ∧ (queue t q).drawing = (queue s q).drawing)) ∧
    (∀ (s : State) (v : Word), barOpen s = true →
      ∃ t, exec (.bufferQRecover v) s = .next t ∧
        (bit v 31 = true → (queue s (fld v 0 15)).broken = true →
          (queue t (fld v 0 15)).pages = [] ∧ (queue t (fld v 0 15)).broken = false ∧ (queue t (fld v 0 15)).drawing = false ∧
          (queue t (fld v 0 15)).header = 0 ∧ (queue t (fld v 0 15)).cut = (0, 0) ∧ (∀ k ∈ (queue s (fld v 0 15)).pages, k ∈ t.res.lost) ∧
          rfld t R.BUFFER_RES_PAGES_LOST 0 26 = (rfld s R.BUFFER_RES_PAGES_LOST 0 26 + (queue s (fld v 0 15)).pages.length) % 2 ^ 26 ∧
          ∀ f ∈ (queue t (fld v 0 15)).frames, f.parts.all Chunk.inCistern = true) ∧
        (¬(bit v 31 = true ∧ (queue s (fld v 0 15)).broken = true) → intcOnly s t)))

/-! ### Rings, DMA and scans (chapters 10, 13) -/

/-- Enabling a DISABLED ring starts it at its base with empty counts. Disabling a RUNNING ring makes it STOPPING. Disabling a HALTED ring
makes it DISABLED, which releases all that it held and keeps HEAD; frames finished before the halt and not yet written back are dropped
with it (the model's reading of R567 beside R580, log 85). A STOPPING ring with no frame begun and no write-back owed becomes DISABLED. A
doorbell posts up to the ring's size; one past it is recorded and changes nothing of the ring. In every other state the writes only change
CTL. No other ring changes. -/
def Obligations.RingControl : Prop :=
  ∀ (s : State) (rx : Bool) (r : Fin 256) (v : Word),
    let a := R.RING_CTL (b2n rx) r
    let x := ring s rx r
    let others (t : State) : Prop := ∀ n, n ≠ b2n rx * 256 + r.val → look {} t.rings n = look {} s.rings n
    let closed (t : State) : Prop :=
      ring t rx r = { x with st := .disabled, done := [], descs := [], taken := [], part := [], got := 0, front := none, inbox := [], cur := none,
                             hungFetch := false, hungRead := false }
    (barOpen s = true →
      (∃ t, exec (.ringEnable rx r v) s = .next t ∧ others t ∧ regsOnly { s with rings := t.rings } t [a] ∧
        rd t a &&& 0xE000FFFF = (v ||| 0x80000000) &&& 0xE000FFFF ∧
        (rbit s a 31 = false → x.st = .disabled →
          ring t rx r = { st := .running, base := rd64 s (R.RING_BASE (b2n rx) r), size := fld v 0 16, chained := bit v 30,
                          fetch := rd64 s (R.RING_BASE (b2n rx) r) }) ∧
        (rbit s a 31 = true ∨ x.st ≠ .disabled → ring t rx r = x)) ∧
      (∃ t, exec (.ringDisable rx r v) s = .next t ∧ others t ∧ rd t a &&& 0xE000FFFF = v &&& 0x6000FFFF ∧ t.wire = s.wire ∧
        (rbit s a 31 = true → x.st = .running → ring t rx r = { x with st := .stopping } ∧ t.cistern = s.cistern) ∧
        (rbit s a 31 = true → x.st = .halted → closed t) ∧
        (rbit s a 31 = false ∨ x.st = .disabled ∨ x.st = .stopping →
          ring t rx r = x ∧ t = { s with regs := t.regs, intc := t.intc })) ∧
      (∃ t, exec (.ringDbTail rx r v) s = .next t ∧ others t ∧ regsOnly { s with rings := t.rings } t (recordOf .ring) ∧
        let cap := if x.chained then 65535 else Nat.min x.slots 65535
        (sub16 (fld v 0 16) x.head ≤ cap → ring t rx r = { x with tail := fld v 0 16 } ∧ t.regs = s.regs) ∧
        (cap < sub16 (fld v 0 16) x.head → ring t rx r = x ∧ recorded s t .ring 7))) ∧
    (running s = true →
      (x.st = .stopping → x.begun = false → x.cur = none → x.done = [] →
        ∃ t, exec (.ringStopped rx r) s = .next t ∧ others t ∧ closed t ∧ t.wire = s.wire) ∧
      (x.st ≠ .stopping ∨ x.begun = true ∨ x.cur ≠ none ∨ x.done ≠ [] → ∃ t, exec (.ringStopped rx r) s = .next t ∧ intcOnly s t))

/-- A ring that may fetch and has reached its walk limit halts, and reads nothing. Otherwise, unless one that lost to it waits for the
link, it reads 32 bytes at its fetch address, and whoever waits for the link has lost to it: a good buffer descriptor that the device owns
joins those fetched; a good link in a chained ring moves the fetch address; any other halts the ring with BAD_DESC or NOT_OWNED, and a
read that fails with its own reason. Which of the two reasons a descriptor shows that is bad and not owned is not stated: the claim holds
for both (log 37). A halt sets the event, the address and the record, and counts the frame it abandons (log 85). A read whose timeout the
host has disabled is never answered and is held for ever, and a completion that answers no read is only recorded. A ring that may not
fetch changes nothing. -/
def Obligations.DescriptorFetchRules : Prop :=
  ∀ (s : State) (rx : Bool) (r : Fin 256) (reply : Reply), running s = true →
    (∀ tag, reply = .stray tag → hostUp s = true → ∃ t, exec (.descriptorFetch rx r reply) s = .next t ∧ t.rings = s.rings ∧ t.wire = s.wire ∧
      recorded s t .host 3 ∧ t.host.cfg.aer = s.host.cfg.aer ||| oneHot 16) ∧
    ((∀ tag, reply ≠ .stray tag) → canFetch s rx r = false → ∃ t, exec (.descriptorFetch rx r reply) s = .next t ∧ intcOnly s t) ∧
    ((∀ tag, reply ≠ .stray tag) → canFetch s rx r = true →
      let x := ring s rx r
      let limit := Nat.max 4 (rfld s R.RING_WALK_LIMIT 0 16)
      let issued (t : State) : Prop :=
        t.wire = (hostRd s x.fetch 32).wire ∧ (x.fetch.toNat % 32 = 0 → t.wire = s.wire ++ [.hostRead 0 x.fetch 32]) ∧
        ∀ j, j < 6 → j ≠ 1 → linkWaits s j = true → (⟨.link, 1, j⟩ : Turn) ∈ t.turns
      let halts (t : State) (reason : Nat) : Prop :=
        (ring t rx r).st = .halted ∧ (ring t rx r).reason = reason ∧ (ring t rx r).atBuf = false ∧ (ring t rx r).descs = [] ∧
        (ring t rx r).done = x.done ∧ rd64 t (R.RING_HALT_ADDR (b2n rx) r) = x.fetch ∧ rbit t (R.RING_EVENT (b2n rx) r) 1 = true ∧
        rd t (R.RING_CNT_ABANDON (b2n rx) r) = sat32 ((rd s (R.RING_CNT_ABANDON (b2n rx) r)).toNat + b2n (x.unfinished rx)) ∧
        recorded s t .ring reason
      ∃ t, exec (.descriptorFetch rx r reply) s = .next t ∧ (∀ n, n ≠ b2n rx * 256 + r.val → look {} t.rings n = look {} s.rings n) ∧
        (limit ≤ x.reads - x.mark → halts t 1 ∧ t.wire = s.wire ∧ t.host = s.host) ∧
        (x.reads - x.mark < limit → barred s .link 1 (linkWaits s) = true → intcOnly s t) ∧
        (x.reads - x.mark < limit → barred s .link 1 (linkWaits s) = false →
          (reply = .timedOut → bit s.host.cfg.ctl2 4 = true → issued t ∧ ring t rx r = { x with hungFetch := true } ∧ t.host = s.host) ∧
          (reply = .timedOut → bit s.host.cfg.ctl2 4 = false → halts t 4 ∧ issued t ∧ t.host.cfg.aer = s.host.cfg.aer ||| oneHot 14) ∧
          (reply = .failed → halts t 5 ∧ issued t ∧ t.host = s.host) ∧
          (∀ b, reply = .poisoned b → halts t 6 ∧ issued t ∧ t.host.cfg.aer = s.host.cfg.aer ||| oneHot 12) ∧
          ∀ b, reply = .ok b →
            let addr : DWord := BitVec.ofNat 64 (leAt b 0 8)
            let d2 : Word := BitVec.ofNat 32 (leAt b 8 4)
            let d3 : Word := BitVec.ofNat 32 (leAt b 12 4)
            let own := decide (128 ≤ leAt b 31 1)
            let last := !x.chained && decide (x.slots ≤ x.idx + 1)
            issued t ∧ t.host = s.host ∧
            (fld d3 28 4 = 1 → badLink x addr d2 d3 = false →
              ring t rx r = { x with reads := x.reads + 1, fetch := addr } ∧ t.regs = s.regs) ∧
            (fld d3 28 4 = 1 → badLink x addr d2 d3 = true → halts t 3) ∧
            (1 < fld d3 28 4 → halts t 3) ∧
            (fld d3 28 4 = 0 → badBuffer rx d2 d3 = true → own = true → halts t 3) ∧
            (fld d3 28 4 = 0 → badBuffer rx d2 d3 = false → own = false → halts t 2) ∧
            (fld d3 28 4 = 0 → badBuffer rx d2 d3 = true → own = false → halts t (if Config.pick s.free then 3 else 2)) ∧
            (fld d3 28 4 = 0 → badBuffer rx d2 d3 = false → own = true →
              (ring t rx r).descs = x.descs ++ [{ addr := x.fetch, buf := addr, len := fld d2 0 14, int_ := bit d3 8, eop := bit d3 0, l4 := bit d3 3,
                                                  ip4 := bit d3 2, ts := bit d3 1, nth := x.reads + 1 }] ∧
              (ring t rx r).fetched = (x.fetched + 1) % 65536 ∧ (ring t rx r).st = x.st ∧
              (ring t rx r).fetch = (if last then x.base else x.fetch + 32) ∧ (ring t rx r).idx = (if last then 0 else x.idx + 1) ∧
              ∀ a, a ≠ R.RING_INFLIGHT_PEAK → rd t a = rd s a)))

/-- A ring that can read a buffer, whose turn it is at the front (log 134) and which is not barred from the link: its next read is put
out, in requests of at most the size the host programmed, and where it is the first of a frame the front stamps the frame. A reply that
ends neither its buffer nor the frame only adds bytes. The end of a frame's last buffer sends it to the host front with its stamp, padded
to 60 bytes; a frame under 14 or over 16,000 bytes is refused with LEN_ERR. A frame of the terminal-message ring joins the message pool if
it is well formed, and else is refused. A read that fails halts the ring at its buffer, and a head token already sent ends in error; one
that is never answered holds the ring. Terminal messages pass the front by (log 134). -/
def Obligations.TransmitRingRules : Prop :=
  (∀ (s : State) (r : Fin 256) (d : Desc) (rest : List Desc), running s = true → txReady s r = true → frontTurn s r = true →
    barred s .link 1 (linkWaits s) = false → (ring s false r).descs = d :: rest →
    let x := ring s false r
    let starts := x.begun = false ∧ isTmRing s r = false
    let front : Option FrontStamp := if x.begun || isTmRing s r then x.front else some (stampNow s)
    let descs := x.taken ++ [d]
    let first := descs.headD d
    let reads (t : State) (n : Nat) : Prop :=
      t.wire = (hostRd s (d.buf + BitVec.ofNat 64 x.got) n).wire ∧
      (∀ j, j < 6 → j ≠ 1 → linkWaits s j = true → (⟨.link, 1, j⟩ : Turn) ∈ t.turns)
    let issued (t : State) (n : Nat) : Prop :=
      reads t n ∧ (starts → t.host.ringTurn = r) ∧ (¬starts → t.host.ringTurn = s.host.ringTurn)
    (∀ b, b ≠ [] → x.got + b.length < d.len → ∃ t, exec (.transmitRingFrame r (.ok b)) s = .next t ∧ issued t b.length ∧
      t = { s with rings := t.rings, host := t.host, cls := t.cls, turns := t.turns, wire := t.wire, intc := t.intc } ∧
      ring t false r = { x with part := x.part ++ b, got := x.got + b.length, front := front }) ∧
    (∀ b, b ≠ [] ∨ d.len = 0 → x.got + b.length = d.len → d.eop = false → ∃ t, exec (.transmitRingFrame r (.ok b)) s = .next t ∧ issued t b.length ∧
      t = { s with rings := t.rings, host := t.host, cls := t.cls, turns := t.turns, wire := t.wire, intc := t.intc } ∧
      ring t false r = { x with descs := rest, taken := descs, part := x.part ++ b, got := 0, front := front }) ∧
    (∀ b, b ≠ [] ∨ d.len = 0 → x.got + b.length = d.len → d.eop = true → isTmRing s r = false →
      let n := (x.part ++ b).length
      ∃ t done, exec (.transmitRingFrame r (.ok b)) s = .next t ∧ issued t b.length ∧ (ring t false r).done = x.done ++ [done] ∧ done.descs = descs ∧
        (ring t false r).taken = [] ∧ (ring t false r).part = [] ∧ (ring t false r).descs = rest ∧ (ring t false r).front = none ∧
        (ring t false r).seq = (if first.ts then (x.seq + 1) % 65536 else x.seq) ∧
        (n < 14 ∨ 16000 < n → t.flights = s.flights ∧ fld done.w7 27 3 = 1 ∧ done.wait = none) ∧
        (14 ≤ n → n ≤ 16000 → fld done.w7 27 3 = 0 ∧ done.wait = (if first.ts then some s.serial else none) ∧
          ∃ g, t.flights = s.flights ++ [g] ∧ g.tag = s.serial ∧ g.tok.port = 16 ∧ g.err = false ∧
            g.tok.len = Nat.max 60 n ∧ g.data = (insertSums (padTo (x.part ++ b) 60) first.ip4 first.l4).1 ∧ g.data.length = Nat.max 60 n ∧
            g.tok.tsReq = (if first.ts then some x.seq else none) ∧
            ∀ y, front = some y → g.tok.stamp = y.stamp ∧ g.tok.ver = y.ver ∧ g.tok.slot = y.slot)) ∧
    (∀ b, b ≠ [] ∨ d.len = 0 → x.got + b.length = d.len → d.eop = true → isTmRing s r = true →
      ∃ t done, exec (.transmitRingFrame r (.ok b)) s = .next t ∧ issued t b.length ∧ (ring t false r).done = x.done ++ [done] ∧
        t.flights = s.flights ∧ done.descs = descs ∧
        (tmGood (x.part ++ b) = true → fld done.w7 27 3 = 0 ∧
          t.msgs = s.msgs ++ [⟨s.serial, tmBytes ((ownId s).getD 0) (x.part ++ b), true⟩]) ∧
        (tmGood (x.part ++ b) = false → fld done.w7 27 3 = 2 ∧ t.msgs = s.msgs)) ∧
    (∀ reply, failReason reply ≠ 0 → ¬(reply = .timedOut ∧ bit s.host.cfg.ctl2 4 = true) →
      ∃ t, exec (.transmitRingFrame r reply) s = .next t ∧ issued t (d.len - x.got) ∧ (ring t false r).st = .halted ∧
        (ring t false r).reason = failReason reply ∧ (ring t false r).atBuf = true ∧ (ring t false r).done = x.done ∧
        rd64 t (R.RING_HALT_ADDR 0 r) = d.buf + BitVec.ofNat 64 x.got ∧ recorded s t .ring (failReason reply) ∧
        rd t (R.RING_CNT_ABANDON 0 r) = sat32 ((rd s (R.RING_CNT_ABANDON 0 r)).toNat + 1) ∧
        (x.part.length ≤ 256 ∨ front = none → t.flights = s.flights) ∧
        (256 < x.part.length → front ≠ none → ∃ g, t.flights = s.flights ++ [g] ∧ g.err = true ∧ g.tok.port = 16)) ∧
    (bit s.host.cfg.ctl2 4 = true → ∃ t, exec (.transmitRingFrame r .timedOut) s = .next t ∧ reads t (d.len - x.got) ∧
      t = { s with rings := t.rings, turns := t.turns, wire := t.wire, intc := t.intc } ∧ ring t false r = { x with hungRead := true })) ∧
  (∀ (s : State) (r : Fin 256) (reply : Reply), running s = true → (∀ tag, reply ≠ .stray tag) →
    txReady s r = false ∨ frontTurn s r = false ∨ barred s .link 1 (linkWaits s) = true →
    ∃ t, exec (.transmitRingFrame r reply) s = .next t ∧ intcOnly s t) ∧
  (∀ (s : State) (a : DWord) (n : Nat), let top := Nat.min 4096 (128 * 2 ^ fld s.host.cfg.ctl 12 3)
    ∃ l : List (Nat × Nat), (hostRd s a n).wire = s.wire ++ l.map (fun p => Output.hostRead 0 (BitVec.ofNat 64 p.1) p.2) ∧
      (l.flatMap fun p => (List.range p.2).map fun i => p.1 + i) = (List.range n).map (fun i => a.toNat + i) ∧
      ∀ p ∈ l, 1 ≤ p.2 ∧ p.2 ≤ top ∧ (l.head? ≠ some p → p.1 % top = 0))

/-- A frame or head-end message that waits for a running ring with a buffer, or one in progress, is written into the buffers that the ring
has fetched, each filled before the next. When all of it is there its descriptors are done with their BYTES, and with DATA_ERR where the
frame was read back uncorrectable. When more is needed it waits for the next descriptor, or is ABANDONED where none is posted. Where the
ring is not running or has no descriptor a frame is dropped and counted, and so is a message, which also counts as a message dropped
unless the device has consumed it; so does one that is abandoned (log 85). Writing back a frame writes dwords 4 to 6 of each descriptor
and then dword 7, that of the first last, moves the head, counts the frame by its status, and sets the event where CTL or a descriptor
asks for it; a frame whose timestamp outcome is unknown waits. -/
def Obligations.ReceiveRingAndWriteBack : Prop :=
  let more (s t : State) (a n : Nat) : Prop := rd t a = sat32 ((rd s a).toNat + n)
  let outcome (s t : State) (r : Fin 256) (c : RxCur) : Prop :=
    let x := ring s true r
    let p := fillDescs x.descs (c.bytes.drop c.off)
    t.wire = (writeData p.1 (c.bytes.drop c.off) s).wire ∧ (ring t true r).descs = p.2.1 ∧ t.cistern.mem = s.cistern.mem ∧
    (p.2.2 = [] → (ring t true r).cur = none ∧ (ring t true r).done = x.done ++ [rxDone c (c.descs ++ p.1) (if c.good then 0 else 2)]) ∧
    (p.2.2 ≠ [] → x.unread = 0 → (ring t true r).cur = none ∧ (ring t true r).done = x.done ++ [rxDone c (c.descs ++ p.1) 1] ∧
      ∀ b at_ n copied, c.item = .hem b at_ n copied → more s t R.LINE_CNT_HEM_DROP (b2n (!copied))) ∧
    (p.2.2 ≠ [] → x.unread ≠ 0 → (ring t true r).done = x.done ∧
      (ring t true r).cur = some { c with off := c.off + ((c.bytes.drop c.off).length - p.2.2.length), descs := c.descs ++ p.1 })
  (∀ (l : List Desc) (b : Bytes),
    let p := fillDescs l b
    let bare (d : Desc) : Desc := { d with used := 0 }
    (p.1 ++ p.2.1).map bare = l.map bare ∧ p.1.foldl (fun n d => n + d.used) 0 + p.2.2.length = b.length ∧ p.2.2 = b.drop (b.length - p.2.2.length) ∧
    (∀ d ∈ p.1, d.used ≤ d.len) ∧ (∀ d ∈ p.1.dropLast, d.used = d.len) ∧ (p.2.2 ≠ [] → p.2.1 = [] ∧ ∀ d ∈ p.1, d.used = d.len)) ∧
  (∀ (s : State) (r : Fin 256) (u : Upset) (f : QFrame) (rest : List RxItem), running s = true → (ring s true r).cur = none →
    (ring s true r).inbox = .frame f :: rest → barred s .link 1 (linkWaits s) = false →
    let x := ring s true r
    let bad := ∃ c ∈ chunkRuns f.parts, ∃ w ∈ wordsOf c.1 c.2, w ∈ (upset s u).cistern.poison
    ∃ t, exec (.ringReceiveFrame r u) s = .next t ∧ (ring t true r).inbox = rest ∧ t.queues = s.queues ∧ t.cistern.mem = s.cistern.mem ∧
      (ringOpen s r = false → t.wire = s.wire ∧ more s t (R.RING_CNT_OFF 1 r) 1) ∧
      (ringOpen s r = true → x.descs = [] → x.unread = 0 → t.wire = s.wire ∧ more s t (R.RING_CNT_BAD 1 r) 1) ∧
      (ringOpen s r = true → x.descs ≠ [] ∨ x.unread ≠ 0 →
        ∃ good, (good = true ↔ ¬bad) ∧ outcome s t r { item := .frame f, bytes := partsBytes s f.parts, good := good })) ∧
  (∀ (s : State) (r : Fin 256) (u : Upset) (b : Bytes) (at_ : DWord) (n : Word) (copied : Bool) (rest : List RxItem), running s = true →
    (ring s true r).cur = none → (ring s true r).inbox = .hem b at_ n copied :: rest → barred s .link 1 (linkWaits s) = false →
    let x := ring s true r
    ∃ t, exec (.ringReceiveFrame r u) s = .next t ∧ (ring t true r).inbox = rest ∧ t.queues = s.queues ∧ t.cistern = s.cistern ∧
      (ringOpen s r = false → t.wire = s.wire ∧ more s t (R.RING_CNT_OFF 1 r) 1 ∧ more s t R.LINE_CNT_HEM_DROP (b2n (!copied))) ∧
      (ringOpen s r = true → x.descs = [] → x.unread = 0 → t.wire = s.wire ∧ more s t R.LINE_CNT_HEM_DROP (b2n (!copied))) ∧
      (ringOpen s r = true → x.descs ≠ [] ∨ x.unread ≠ 0 → outcome s t r { item := .hem b at_ n copied, bytes := b, good := true })) ∧
  (∀ (s : State) (r : Fin 256) (u : Upset) (c : RxCur), running s = true → hostUp s = true → (ring s true r).cur = some c →
    barred s .link 1 (linkWaits s) = false →
    ∃ t, exec (.ringReceiveFrame r u) s = .next t ∧ (ring t true r).inbox = (ring s true r).inbox ∧ t.queues = s.queues ∧ outcome s t r c) ∧
  (∀ (s : State) (rx : Bool) (r : Fin 256) (f : DoneFrame) (rest : List DoneFrame), running s = true → hostUp s = true →
    (ring s rx r).done = f :: rest →
    ∃ t, exec (.writeBack rx r) s = .next t ∧
      (f.wait.isSome = true ∨ barred s .link 1 (linkWaits s) = true → intcOnly s t) ∧
      (f.wait = none → barred s .link 1 (linkWaits s) = false →
        ring t rx r = { ring s rx r with done := rest, head := ((ring s rx r).head + f.descs.length) % 65536 } ∧
        t = { s with rings := t.rings, regs := t.regs, wire := t.wire, intc := t.intc, turns := t.turns } ∧ t.wire = (writeFrame f s).wire ∧
        (∀ d ds, f.descs = d :: ds → (∀ e ∈ f.descs, e.addr.toNat % 32 = 0) →
          ∃ l : List Output, l.length = ds.length ∧
            (∀ i (h : i < ds.length), l[i]? = some (.hostWrite 0 ((ds[i]'h).addr + 28)
              (leBytes 4 (wordSeven f (ds[i]'h) (decide (i + 1 = ds.length))).toNat))) ∧
            t.wire = s.wire ++ f.descs.map (fun e => .hostWrite 0 (e.addr + 16) (leBytes 4 f.w4.toNat ++ leBytes 4 f.w5.toNat ++ leBytes 4 f.w6.toNat))
              ++ l ++ [.hostWrite 0 (d.addr + 28) (leBytes 4 (wordSeven f d ds.isEmpty).toNat)]) ∧
        (rbit s (R.RING_CTL (b2n rx) r) 29 = true ∨ (∃ d ∈ f.descs, d.int_ = true) → rbit t (R.RING_EVENT (b2n rx) r) 0 = true) ∧
        (fld f.w7 27 3 = 0 → more s t (R.RING_CNT_FRAMES (b2n rx) r) 1) ∧
        (rx = true → fld f.w7 27 3 = 1 → more s t (R.RING_CNT_ABANDON 1 r) 1) ∧
        (rx = false → fld f.w7 27 3 ≠ 0 → more s t (R.RING_CNT_BAD 0 r) 1)))

/-- START on an idle channel with good parameters and a count begins the transfer, which takes an operation while fewer than 65,536 are in
flight and none that lost to it waits for one, and clears the state; with bad parameters it ends with code 5 and is recorded; on a busy
channel it is recorded as 6 and the transfer stays. The channel whose turn it is (channels that cannot move are passed over: log 132), and
which is not barred from the link, reads its next beat, from the host or the cistern: what SWAP can place of it goes to its place at the
destination, the rest of a word waits, and no other byte of the cistern changes; a read that fails ends the transfer with its code and the
offset of the beat, and one that is never answered holds it. What a word cut by the failing beat leaves is log 133. Where the ranges
overlap the bytes are open (log 23). -/
def Obligations.DmaTransfers : Prop :=
  (∀ (s : State) (c : Fin 64) (v : Word), barOpen s = true →
    let s1 := wrField s (R.DMA_CTL c) (v ||| 0x80000000) 0x63110000 0
    let fresh : Dma := { busy := true, total := (rd s (R.DMA_COUNT c)).toNat }
    ∃ t, exec (.dmaStart c v) s = .next t ∧ t.cistern = s.cistern ∧ (∀ n, n ≠ c.val → dma t n = dma s n) ∧
      ((dma s c).busy = true → dma t c = dma s c ∧ recorded s t .dma 6 ∧ regsOnly s t (recordOf .dma)) ∧
      ((dma s c).busy = false → dmaBadParam s1 c = false → rd s (R.DMA_COUNT c) ≠ 0 →
        dma t c = { fresh with begun := opsOpen { s with dmas := put {} s.dmas c fresh } (512 + c) } ∧
        rd t (R.DMA_STATE c) = 0 ∧ t.wire = s.wire) ∧
      ((dma s c).busy = false → dmaBadParam s1 c = false → rd s (R.DMA_COUNT c) = 0 → dma t c = {} ∧ rbit t (R.DMA_STATE c) 30 = true) ∧
      ((dma s c).busy = false → dmaBadParam s1 c = true →
        dma t c = {} ∧ rd t (R.DMA_STATE c) = (rd s (R.DMA_STATE c) &&& 0x40000000) ||| 0x60000005 ∧ recorded s t .dma 5)) ∧
  (∀ a b c d : Byte, swapWord 0 [a, b, c, d] = [a, b, c, d] ∧ swapWord 1 [a, b, c, d] = [b, a, d, c] ∧ swapWord 2 [a, b, c, d] = [c, d, a, b] ∧
    swapWord 3 [a, b, c, d] = [d, c, b, a]) ∧
  (∀ (s : State) (c : Fin 64) (reply : Reply) (corr : Nat), running s = true → (∀ tag, reply ≠ .stray tag) →
    (nextAfter s.host.dmaTurn 64 (dmaFree s) ≠ some c.val ∨ barred s .link 0 (linkWaits s) = true →
      ∃ t, exec (.dmaBeat c reply corr) s = .next t ∧ intcOnly s t) ∧
    (nextAfter s.host.dmaTurn 64 (dmaFree s) = some c.val → barred s .link 0 (linkWaits s) = false → (dma s c).off < (dma s c).total →
      let x := dma s c
      let host := dmaSrcCis s c = false
      let src := (rd64 s (R.DMA_SRC c)).toNat + x.off
      let n := Nat.min (64 - src % 64) (x.total - x.off)
      let dst := rd64 s (R.DMA_DST c) + BitVec.ofNat 64 (x.off - x.held.length)
      let read : List Output := if dmaSrcCis s c then [] else [.hostRead 0 (BitVec.ofNat 64 src) n]
      let poisoned := (∃ b, reply = .poisoned b) ∨ ∃ w ∈ wordsOf src n, w ∈ s.cistern.poison
      let passes (t : State) : Prop := t.host.dmaTurn = c ∧ ∀ j, j < 6 → j ≠ 0 → linkWaits s j = true → (⟨.link, 0, j⟩ : Turn) ∈ t.turns
      (∀ b, (host → reply = .ok b ∧ b.length = n) → (dmaSrcCis s c = true → ¬poisoned ∧ b = cisBytes s src n) →
        let now := (swapped (dmaSwap s c) (x.off + n == x.total) (x.held ++ b)).1
        let later := (swapped (dmaSwap s c) (x.off + n == x.total) (x.held ++ b)).2
        ∃ t, exec (.dmaBeat c reply corr) s = .next t ∧ passes t ∧
          rd t (R.DMA_COUNT c) = BitVec.ofNat 32 (x.total - x.off - n) ∧
          (x.off + n < x.total → dma t c = { x with off := x.off + n, held := later, begun := true }) ∧
          (x.off + n = x.total → dma t c = {} ∧ rbit t (R.DMA_STATE c) 30 = true) ∧
          (dmaDstCis s c = true → dmaOverlap s c = false → cisBytes t dst.toNat now.length = now) ∧
          (dmaDstCis s c = true → ∀ a, a < dst.toNat ∨ dst.toNat + now.length ≤ a → cisByte t a = cisByte s a) ∧
          (dmaDstCis s c = false → t.cistern.mem = s.cistern.mem ∧ (dmaOverlap s c = false → ∃ l,
            t.wire = (hostWr { s with wire := s.wire ++ read } dst now).wire ++ l ∧ (x.off + n < x.total → l = [])))) ∧
      (∀ code, (host ∧ reply = .timedOut ∧ bit s.host.cfg.ctl2 4 = false ∧ code = 1) ∨ (host ∧ reply = .failed ∧ code = 2) ∨
          (host ∧ (∃ b, reply = .poisoned b) ∧ code = 3) ∨ (dmaSrcCis s c = true ∧ poisoned ∧ code = 4) →
        ∃ t, exec (.dmaBeat c reply corr) s = .next t ∧ dma t c = {} ∧ rbit t (R.DMA_STATE c) 30 = true ∧ rbit t (R.DMA_STATE c) 29 = true ∧
          fld (rd t (R.DMA_STATE c)) 0 5 = code ∧ rd t (R.DMA_ERR_OFFSET c) = BitVec.ofNat 32 x.off ∧ recorded s t .dma code ∧
          (x.held = [] → t.cistern.mem = s.cistern.mem)) ∧
      (host → reply = .timedOut → bit s.host.cfg.ctl2 4 = true → ∃ t, exec (.dmaBeat c reply corr) s = .next t ∧ passes t ∧
        t.cistern = s.cistern ∧ t.wire = s.wire ++ read ∧ dma t c = { x with hung := true, begun := true } ∧
        rd t (R.DMA_COUNT c) = BitVec.ofNat 32 (x.total - x.off - n)))) ∧
  (∀ (s : State) (a : DWord) (b : Bytes), let top := Nat.min 512 (128 * 2 ^ fld s.host.cfg.ctl 5 3)
    ∃ l : List (Nat × Bytes), (hostWr s a b).wire = s.wire ++ l.map (fun p => Output.hostWrite 0 (BitVec.ofNat 64 p.1) p.2) ∧
      (l.flatMap fun p => p.2) = b ∧
      ∀ p ∈ l, p.2 ≠ [] ∧ p.2.length ≤ top ∧ (l.head? ≠ some p → p.1 % top = 0))

/-- A start with good settings clears the results and begins with the initial value and the fold tag, and is complete at once over an
empty range; one with bad settings ends with code 6; one on a busy engine is recorded as 7. An abort ends a busy scan with code 8, has no
effect on an idle engine (R713), and waits with a read that is never answered (the model's reading of R540 beside R713, log 151). A beat
of the host's memory over the link, of the cistern or of a channel that nothing else wants is folded in; the last one ends a scan without
a stored value with the computed value, and a stored value is read after it, in the order of octets that CTL names, and compared (R710); a
read that fails ends the scan with its code and offset. -/
def Obligations.ScanRules : Prop :=
  (∀ (s : State) (e : Fin 4) (v : Word), barOpen s = true →
    let w := v ||| 0x80000000
    let s1 := wrField s (R.CHECK_CTL e) w 0x23371310 0
    let p := fld v 24 2
    let begin_ := if bit v 12 then polyRun p (polyInit p) (beBytes 8 (rd64 s (R.CHECK_FOLD e)).toNat) else polyInit p
    (∃ t, exec (.checkStart e v) s = .next t ∧ t = { s with regs := t.regs, scans := t.scans, intc := t.intc } ∧
      (∀ n, n ≠ e.val → scan t n = scan s n) ∧
      ((scan s e).busy = true → scan t e = scan s e ∧ recorded s t .check 7 ∧ regsOnly s t (recordOf .check)) ∧
      ((scan s e).busy = false → checkBadParam s1 e = true → scan t e = {} ∧ fld (rd t (R.CHECK_STATE e)) 0 5 = 6 ∧ recorded s t .check 6) ∧
      ((scan s e).busy = false → checkBadParam s1 e = false → checkLen s e ≠ 0 →
        rd t (R.CHECK_STATE e) = 0 ∧ rd64 t (R.CHECK_COMPUTED e) = 0 ∧ rd64 t (R.CHECK_STORED e) = 0 ∧ rd64 t (R.CHECK_ERR_OFFSET e) = 0 ∧
        scan t e = { busy := true, crc := begin_ }) ∧
      ((scan s e).busy = false → checkBadParam s1 e = false → checkLen s e = 0 → fld v 8 2 = 0 →
        scan t e = {} ∧ rd t (R.CHECK_STATE e) = 0x40000000 ∧ rd64 t (R.CHECK_COMPUTED e) = polyOut p begin_)) ∧
    (∃ t, exec (.checkAbort e v) s = .next t ∧ t = { s with regs := t.regs, scans := t.scans, intc := t.intc } ∧
      (∀ n, n ≠ e.val → scan t n = scan s n) ∧
      ((scan s e).busy = true → (scan s e).hung = false →
        scan t e = {} ∧ rd t (R.CHECK_STATE e) = (rd s (R.CHECK_STATE e) &&& 0x40000000) ||| 0x60000008 ∧
        ∀ a, a ≠ R.CHECK_STATE e → rd t a = rd s a) ∧
      ((scan s e).busy = false ∨ (scan s e).hung = true → intcOnly s t))) ∧
  (∀ (s : State) (e : Fin 4) (reply : Reply) (corr : Nat), running s = true → (scan s e).busy = true → (∀ tag, reply ≠ .stray tag) →
    let shut := (checkSpace s e = 0 ∧ (scanReady s e = false ∨ barred s .link (2 + e) (linkWaits s) = true)) ∨
      (checkSpace s e = 1 ∧ barredAt s (72 + e) (scanBanks s e) = true) ∨ (2 ≤ checkSpace s e ∧ chanShut s (checkChan s e) = true)
    let x := scan s e
    let p := checkPoly s e
    let len := checkLen s e
    let stored := len ≤ x.off
    let src := if len ≤ x.off then (rd64 s (R.CHECK_STORE_ADDR e)).toNat else (rd64 s (R.CHECK_SRC e)).toNat + x.off
    let n := if len ≤ x.off then polyWidth p / 8 else Nat.min (64 - src % 64) (len - x.off)
    let poisoned := (∃ b, reply = .poisoned b) ∨ ∃ w ∈ wordsOf src n, w ∈ s.cistern.poison
    let reads (b : Bytes) : Prop :=
      (checkSpace s e = 0 ∧ reply = .ok b ∧ b.length = n) ∨ (checkSpace s e = 1 ∧ ¬poisoned ∧ b = cisBytes s src n) ∨
      (2 ≤ checkSpace s e ∧ resPoison s (checkChan s e) src n = false ∧ ∃ c, reply = .ok c ∧ c.length = n ∧ b = resBytes s (checkChan s e) src c)
    let issued (t : State) : Prop :=
      (checkSpace s e = 0 → t.wire = (hostRd s (BitVec.ofNat 64 src) n).wire ∧
        ∀ j, j < 6 → j ≠ 2 + e.val → linkWaits s j = true → (⟨.link, 2 + e, j⟩ : Turn) ∈ t.turns) ∧
      (checkSpace s e ≠ 0 → t.wire = s.wire)
    (shut → ∃ t, exec (.checkBeat e reply corr) s = .next t ∧ intcOnly s t) ∧
    (¬shut →
      (∀ b, reads b → ∃ t, exec (.checkBeat e reply corr) s = .next t ∧ t.cistern = s.cistern ∧ issued t ∧
        (¬stored → x.off + b.length < len → scan t e = { x with crc := polyRun p x.crc b, off := x.off + b.length }) ∧
        (¬stored → x.off + b.length = len → checkCmp s e = 0 → scan t e = {} ∧ rd t (R.CHECK_STATE e) = 0x40000000 ∧
          rd64 t (R.CHECK_COMPUTED e) = polyOut p (polyRun p x.crc b)) ∧
        (¬stored → x.off + b.length = len → checkCmp s e = 1 → scan t e = {} ∧
          rd64 t (R.CHECK_COMPUTED e) = polyOut p (polyRun p x.crc b) ∧
          rfld t (R.CHECK_STATE e) 26 2 = if rd64 t (R.CHECK_STORED e) = rd64 t (R.CHECK_COMPUTED e) then 1 else 2) ∧
        (¬stored → x.off + b.length = len → 2 ≤ checkCmp s e → scan t e = { x with crc := polyRun p x.crc b, off := len }) ∧
        (stored → checkCmp s e = 2 → scan t e = {} ∧ rd64 t (R.CHECK_COMPUTED e) = polyOut p x.crc ∧
          rd64 t (R.CHECK_STORED e) = BitVec.ofNat 64 (if rbit s (R.CHECK_CTL e) 4 then leNat b else beNat b) ∧
          rfld t (R.CHECK_STATE e) 26 2 = if rd64 t (R.CHECK_STORED e) = rd64 t (R.CHECK_COMPUTED e) then 1 else 2)) ∧
      (∀ code, (checkSpace s e = 0 ∧ ((reply = .timedOut ∧ bit s.host.cfg.ctl2 4 = false ∧ code = 1) ∨ (reply = .failed ∧ code = 2) ∨
          ((∃ b, reply = .poisoned b) ∧ code = 3))) ∨ (checkSpace s e = 1 ∧ poisoned ∧ n ≠ 0 ∧ code = 4) ∨
          (2 ≤ checkSpace s e ∧ (resPoison s (checkChan s e) src n = true ∨ ∀ b, reply ≠ .ok b) ∧ code = 5) →
        ∃ t, exec (.checkBeat e reply corr) s = .next t ∧ scan t e = {} ∧ fld (rd t (R.CHECK_STATE e)) 0 5 = code ∧
          rbit t (R.CHECK_STATE e) 29 = true ∧ rd64 t (R.CHECK_ERR_OFFSET e) = BitVec.ofNat 64 (if len ≤ x.off then len else x.off) ∧
          recorded s t .check code) ∧
      (checkSpace s e = 0 → reply = .timedOut → bit s.host.cfg.ctl2 4 = true →
        ∃ t, exec (.checkBeat e reply corr) s = .next t ∧ issued t ∧ scan t e = { x with hung := true } ∧
          t = { s with scans := t.scans, turns := t.turns, wire := t.wire, intc := t.intc })))

/-! ### Register access, counters, rules and images (chapters 00, 07, 08, 14, 15, 17) -/

/-- A whole-dword BAR0 write of a plain register changes the bits that can be written; a partial or misaligned one is recorded and changes
nothing else; one to an offset that no block decodes is recorded (log 10). A write of 1 to FIRST_VALID of a fault record is taken before
the faults of the same instant. A write to a setting of client reception also keeps what it held, for frames that have begun (the model's
way, log 130). What the Keeper's tick still owes comes before a write to the Keeper (the model's order, log 66). A write of a LO half
waits for its HI half, whose write takes both. A read of a plain register answers its value and clears its RC bits, a peak starting again
from what stands; a LO read latches the HI half, which the HI read of the same path answers, and a read of the management path leaves the
host's latches alone. A management write to the target's address is the same register write, and a management read answers and advances
its offset; another address, and a bad offset, are not acknowledged. BAR2 reads and writes the cistern, and above 192 MiB reads 0 and
discards. An address outside a BAR faults (log 10). -/
def Obligations.RegisterPaths : Prop :=
  let peaks (s : State) : List (Nat × Nat) :=
    [(R.RING_INFLIGHT_PEAK, inflight s), (R.BUFFER_RES_USED_PEAK, pagesUsed s), (R.QUEUE_ALLOT_PEAK, s.table.length)]
  let owed (s : State) (off : Nat) : State := if inKeeper off then keeperDue s else s
  (∀ (s : State) (off : Nat) (be : BitVec 4) (v : Word),
    (bar0End ≤ off → exec (.registerWrite off be v) s = .fault .outsideBar0) ∧
    (off < bar0End → barOpen s = true →
      (be ≠ 0xF ∨ off % 4 ≠ 0 → ∃ t, exec (.registerWrite off be v) s = .next t ∧ regsOnly s t (recordOf .host) ∧ recorded s t .host 1) ∧
      (be = 0xF → off % 4 = 0 → decodeReg off = none → inPage off = false →
        ∃ t, exec (.registerWrite off be v) s = .next t ∧ regsOnly s t (recordOf .host) ∧ recorded s t .host 2) ∧
      (be = 0xF → off % 4 = 0 → ∀ h, decodeReg off = some h → absentAt s off = true →
        ∃ t, exec (.registerWrite off be v) s = .next t ∧ intcOnly s t) ∧
      (be = 0xF → off % 4 = 0 → ∀ h, decodeReg off = some h → absentAt s off = false → h.row.kind = .word →
        entryAt (writeTable ++ writeTable2 ++ writeTable3 ++ writeTable4) h.row.base = none →
        ((errSource off).isSome = false ∨ bit v 31 = false ∨ (∀ x ∈ faultsNow (owed s off), x.base ≠ off) →
          ∃ t, exec (.registerWrite off be v) s = .next t ∧ regsOnly (owed s off) t [off] ∧
            rd t off = merge (rd (owed s off) off) v (BitVec.ofNat 32 h.row.rw) (BitVec.ofNat 32 h.row.w1c)) ∧
        ((errSource off).isSome = true → bit v 31 = true → (∃ x ∈ faultsNow (owed s off), x.base = off) →
          ∃ t, exec (.registerWrite off be v) s = .next t ∧
            regsOnly (owed s off) t [off, off + 8, off + 12, off + 0x10, off + 0x14, off + 0x18, off + 0x1C] ∧
            rbit t off 31 = true ∧ ∀ x ∈ faultsNow (owed s off), x.base = off → x.code < 31 → rbit t off x.code = true)) ∧
      (be = 0xF → off % 4 = 0 → ∀ h, decodeReg off = some h → absentAt s off = false → h.row.kind = .word →
        h.row.base ∈ [R.CLIENT_RX_CTL 0, R.CLIENT_WAKE_CTL 0, R.CLIENT_WAKE_MASK 0 0, R.CLIENT_WAKE_DATA 0 0] →
        ∃ t, exec (.registerWrite off be v) s = .next t ∧ regsOnly { s with past := t.past } t [off] ∧
          rd t off = merge (rd s off) v (BitVec.ofNat 32 h.row.rw) (BitVec.ofNat 32 h.row.w1c) ∧
          t.past = if rd t off = rd s off then s.past else (s.now, off, rd s off) :: s.past) ∧
      (be = 0xF → off % 4 = 0 → ∀ h, decodeReg off = some h → absentAt s off = false → h.row.kind = .pairRW →
        entryAt (writeTable ++ writeTable2 ++ writeTable3 ++ writeTable4) h.row.base = none →
        (h.hi = false → ∃ t, exec (.registerWrite off be v) s = .next t ∧ t = { owed s off with host := t.host, intc := t.intc } ∧
          t.host = { s.host with stage := t.host.stage } ∧ look (regReset off) t.host.stage off = v) ∧
        (h.hi = true → 4 ≤ off → ∃ t, exec (.registerWrite off be v) s = .next t ∧ regsOnly (owed s off) t [off - 4, off] ∧
          rd64 t (off - 4) = (v ++ look (regReset (off - 4)) s.host.stage (off - 4)) &&& BitVec.ofNat 64 h.row.rw)))) ∧
  (∀ (s : State) (off len : Nat),
    exec (.rcRead off len) s = exec (.loRead off len) s ∧ (bar0End < off + len → exec (.rcRead off len) s = .fault .outsideBar0) ∧
    (off + 4 ≤ bar0End → off % 4 = 0 → barOpen s = true → ∀ h, decodeReg off = some h → absentAt s off = false →
      h.row.base ≠ R.PERF_USER_WIN 0 0 →
      (h.hi = false → h.row.kind = .word ∨ h.row.kind = .view → h.row.base ∉ [R.TIME_TXQ_W0, R.PERF_SAMPLE_W0, R.INTC_HT_SUMMARY 0] →
        ∃ t, exec (.rcRead off 4) s = .next t ∧ answersOnly s t [off] [.readData (leBytes 4 ((latchView hostPath h s).getD (wordValue s h off)).toNat) false] ∧
          (∀ e ∈ peaks s, off = e.1 → rd t off = BitVec.ofNat 32 e.2) ∧
          ((∀ e ∈ peaks s, off ≠ e.1) → rd t off = rd s off &&& ~~~(BitVec.ofNat 32 h.row.rc) ∧ (h.row.rc = 0 → t.regs = s.regs))) ∧
      (h.hi = false → h.row.kind = .pairRW ∨ h.row.kind = .pairRO →
        entryAt pairViews h.row.base = none → h.row.base ≠ R.TIME_TOD 0 →
        ∃ t, exec (.loRead off 4) s = .next t ∧ t.regs = s.regs ∧ t.wire = s.wire ++ [.readData (leBytes 4 (rd s off).toNat) false] ∧
          getLatch t hostPath (off + 4) = rd s (off + 4) ∧ t.host.stage = s.host.stage) ∧
      (h.hi = true → ∃ t, exec (.loRead off 4) s = .next t ∧ answersOnly s t [] [.readData (leBytes 4 (getLatch s hostPath off).toNat) false]))) ∧
  (∀ (s : State) (addr : BitVec 7) (off : BitVec 32) (v : Word),
    (barOpen s = true → addr.toNat = 0x58 + s.power.straps / 4 →
      (off.toNat % 4 = 0 → off.toNat < 0x4000000 →
        (∃ t, exec (.mgtWrite addr off v) s = .next t ∧ exec (.registerWrite off.toNat 0xF v) s = .next t) ∧
        (∃ t, exec (.mgtSetOffset addr off) s = .next t ∧ t = { s with host := { s.host with mgt := off }, intc := t.intc })) ∧
      (off.toNat % 4 ≠ 0 ∨ 0x4000000 ≤ off.toNat →
        (∃ t, exec (.mgtWrite addr off v) s = .next t ∧ answersOnly s t [] [.mgtNack 4]) ∧
        (∃ t, exec (.mgtSetOffset addr off) s = .next t ∧ answersOnly s t [] [.mgtNack 4])) ∧
      (∃ t, exec (.mgtRead addr) s = .next t ∧ t.host.mgt = s.host.mgt + 4 ∧
        t.wire = s.wire ++ [.mgtData (readReg mgtPath s.host.mgt.toNat s).1] ∧
        (∀ a, a < 0x4000000 → getLatch t hostPath a = getLatch s hostPath a) ∧
        look 0 t.keeper.rtcLatch hostPath = look 0 s.keeper.rtcLatch hostPath ∧ look 0 t.keeper.todLatch hostPath = look 0 s.keeper.todLatch hostPath ∧
        ∀ d : Bool, look 0 t.time.todNs (b2n d) = look 0 s.time.todNs (b2n d))) ∧
    (barOpen s = false ∨ addr.toNat ≠ 0x58 + s.power.straps / 4 →
      ∀ c ∈ [Instr.mgtWrite addr off v, .mgtSetOffset addr off, .mgtRead addr], ∃ t, exec c s = .next t ∧ answersOnly s t [] [.mgtNack 0])) ∧
  (∀ (s : State) (off len : Nat) (b : Bytes) (u : Upset), b.length = len →
    (bar2End < off + len → exec (.bar2Access off (some b) len u) s = .fault .outsideBar2 ∧ exec (.bar2Access off none len u) s = .fault .outsideBar2) ∧
    (off + len ≤ bar2End → barOpen s = true →
      (∃ t, exec (.bar2Access off (some b) len u) s = .next t ∧ t.wire = s.wire ∧ t.queues = s.queues ∧
        ∀ a, cisByte t a = if off ≤ a ∧ a < off + len ∧ a < cisternSize then b.getD (a - off) 0 else cisByte s a) ∧
      (∃ t bad, exec (.bar2Access off none len u) s = .next t ∧ t.cistern.mem = s.cistern.mem ∧
        t.wire = s.wire ++ [.readData ((List.range len).map fun i => if off + i < cisternSize then cisByte s (off + i) else 0) bad])))

/-- A tally enable with an area inside its space latches its settings and starts the count at 0; another is recorded and leaves EN 0; a
disable takes effect at the next dump instant, which clears EN. Every other dump that is due counts: each cell of a fitted tract whose
last record has been issued writes its record, bytes 8 on first, with its counters, and with CLEAR they restart at 0; each other cell
takes no snapshot and counts as skipped, and so does every cell of a host tally while the function is not in D0. GO of a preset sets the
counter it names to the preset value. A snap latches and clears a ledger. A read of PERF_SAMPLE_W0 answers the head sample, removes it and
latches its other words. -/
def Obligations.CounterCommands : Prop :=
  (∀ (s : State) (v : Word), barOpen s = true →
    (∃ t, exec (.tallyEnable v) s = .next t ∧ t = { s with regs := t.regs, perf := t.perf, intc := t.intc } ∧
      (rbit s R.PERF_TALLY_CTL 31 = true → intcOnly s t) ∧
      (rbit s R.PERF_TALLY_CTL 31 = false → tallyBad s (v ||| 0x80000000) = false →
        t.perf.tally = some (tallyOf s (v ||| 0x80000000)) ∧ rd t R.PERF_TALLY_SEQ = 0 ∧ rd t R.PERF_TALLY_CTL = (v ||| 0x80000000) &&& 0xE0000F00) ∧
      (rbit s R.PERF_TALLY_CTL 31 = false → tallyBad s (v ||| 0x80000000) = true →
        t.perf = s.perf ∧ rbit t R.PERF_TALLY_CTL 31 = false ∧ recorded s t .perf 1)) ∧
    (∃ t, exec (.tallyDisable v) s = .next t ∧
      (rbit s R.PERF_TALLY_CTL 31 = true →
        t = { s with perf := { s.perf with tally := s.perf.tally.map fun x => { x with stop := true } }, intc := t.intc }) ∧
      (rbit s R.PERF_TALLY_CTL 31 = false → regsOnly s t [R.PERF_TALLY_CTL] ∧ rd t R.PERF_TALLY_CTL = v &&& 0x60000F00))) ∧
  (∀ (s : State) (skips : List Nat) (x : Tally), running s = true → s.perf.tally = some x → 625 * x.interval * (x.k + 1) ≤ 2 * (s.now - x.since) →
    ∃ t, exec (.tallyDump skips) s = .next t ∧ t.queues = s.queues ∧
      (x.stop = true → regsOnly { s with perf := { s.perf with tally := none } } t [R.PERF_TALLY_CTL] ∧
        rd t R.PERF_TALLY_CTL = setBit (rd s R.PERF_TALLY_CTL) 31 false) ∧
      (x.stop = false → t.perf.tally = some { x with k := x.k + 1 } ∧ rd t R.PERF_TALLY_SEQ = BitVec.ofNat 32 (x.k + 1) ∧
        let cells := ((tracts s).flatMap fun n => (List.range 18).map fun c => (n, c))
        let takes (e : Nat × Nat) : Bool := !skips.contains (18 * e.1 + e.2) && (x.space || hostUp s)
        let at_ (e : Nat × Nat) : DWord := x.base + BitVec.ofNat 64 (256 * ((18 * e.1 + e.2) * 2 ^ x.depth + (x.k + 1) % 2 ^ x.depth))
        let role (e : Nat × Nat) := if inMap s e.1 e.2 then roleOf s e.1 e.2 else 0x1F
        let head (e : Nat × Nat) : Bytes := leBytes 4 (x.k + 1) ++ leBytes 4 (pack [(31, 1), (30, b2n (rbit s (R.TRACT_CELL_FENCE e.1) e.2)),
          (29, b2n (inMap s e.1 e.2)), (16, role e), (8, e.2), (0, e.1)]).toNat
        let body (e : Nat × Nat) : Bytes := leBytes 8 (outNow s).toNat ++ leBytes 2 (look 0 s.perf.fresh (18 * e.1 + e.2)) ++ List.replicate 14 0 ++
          ((List.range 16).map fun k => (rd s (R.TRACT_CELL_EVSEL e.1 e.2 k)).setWidth 8) ++
          ((List.range 16).flatMap fun k => leBytes 8 (rd64 s (R.TRACT_CELL_CNT e.1 e.2 k)).toNat) ++ List.replicate 80 0
        let done := cells.filter takes
        (∀ e ∈ cells, ∀ k, k < 16 → rd64 t (R.TRACT_CELL_CNT e.1 e.2 k) = if takes e && x.clear then 0 else rd64 s (R.TRACT_CELL_CNT e.1 e.2 k)) ∧
        (∀ e ∈ cells, look 0 t.perf.fresh (18 * e.1 + e.2) = if takes e then 0 else look 0 s.perf.fresh (18 * e.1 + e.2)) ∧
        rd t R.PERF_TALLY_SKIP = sat32 ((rd s R.PERF_TALLY_SKIP).toNat + (cells.length - done.length)) ∧
        (done.length < cells.length → rbit t R.PERF_EVENT 0 = true) ∧
        (x.space = false → t.cistern = s.cistern ∧
          t.wire = (done.foldl (fun u e => hostWr (hostWr u (at_ e + 8) (body e)) (at_ e) (head e)) s).wire) ∧
        (x.space = true → t.wire = s.wire ∧
          (x.depth ≤ 8 → x.base.toNat + 144 * 2 ^ x.depth * 256 ≤ 2 ^ 64 →
            (∀ e ∈ done, cisBytes t (at_ e).toNat 256 = head e ++ body e) ∧
            ∀ a, (∀ e ∈ done, a < (at_ e).toNat ∨ (at_ e).toNat + 256 ≤ a) → cisByte t a = cisByte s a)))) ∧
  (∀ (s : State) (n : Fin 8) (c : Fin 18) (v : Word), barOpen s = true →
    (hasTract s n = true →
      (∃ t, exec (.tractCellPreset n c v) s = .next t ∧
        regsOnly s t [R.TRACT_CELL_PRESET n c, R.TRACT_CELL_CNT n c (fld v 0 4), R.TRACT_CELL_CNT n c (fld v 0 4) + 4] ∧
        (bit v 31 = true → rd64 t (R.TRACT_CELL_CNT n c (fld v 0 4)) = rd64 s (R.TRACT_CELL_PRESET_LO n c) &&& 0xFFFFFFFFFFFF) ∧
        (bit v 31 = false → rd64 t (R.TRACT_CELL_CNT n c (fld v 0 4)) = rd64 s (R.TRACT_CELL_CNT n c (fld v 0 4)))) ∧
      (∃ t, exec (.tractPerfPreset n v) s = .next t ∧
        regsOnly { s with perf := { s.perf with presets := t.perf.presets } } t [R.TRACT_PERF_PRESET n, R.TRACT_PERF_CNT n (fld v 0 5)] ∧
        rd t (R.TRACT_PERF_CNT n (fld v 0 5)) = if bit v 31 then rd s (R.TRACT_PERF_PRESET_VAL n) else rd s (R.TRACT_PERF_CNT n (fld v 0 5))) ∧
      (∃ t, exec (.snap n v) s = .next t ∧ (bit v 31 = false → intcOnly s t) ∧
        (bit v 31 = true → t = { s with regs := t.regs, drovers := t.drovers, intc := t.intc } ∧
          drover t n = { drover s n with ledger := {} } ∧ (∀ m, m ≠ n.val → drover t m = drover s m) ∧
          (∀ k, k < 8 → rd64 t (R.TRACT_LEDGER_CLASS n k) = BitVec.ofNat 64 (look 0 (drover s n).ledger.cls k) ∧
            rd t (R.TRACT_LEDGER_SLACK n k) = BitVec.ofNat 32 (look 0 (drover s n).ledger.hist k)) ∧
          rd t (R.TRACT_LEDGER_OPEN n) = sat32 (drover s n).live ∧
          rd t (R.TRACT_LEDGER_SLACK_MIN n) = BitVec.ofNat 32 (drover s n).ledger.least))) ∧
    (∃ t, exec (.perfAccPreset v) s = .next t ∧ regsOnly s t [R.PERF_ACC_PRESET, R.PERF_ACC_CNT (fld v 0 3), R.PERF_ACC_CNT (fld v 0 3) + 4] ∧
      rd64 t (R.PERF_ACC_CNT (fld v 0 3)) =
        if bit v 31 then rd64 s R.PERF_ACC_PRESET_LO &&& 0xFFFFFFFFFFFF else rd64 s (R.PERF_ACC_CNT (fld v 0 3)))) ∧
  (∀ s : State, barOpen s = true →
    let ws := [R.PERF_SAMPLE_W 0, R.PERF_SAMPLE_W 1, R.PERF_SAMPLE_W 2]
    ∃ t, exec .perfSampleW0 s = .next t ∧
      (s.perf.samples = [] → answersOnly s t ws [.readData [0, 0, 0, 0] false] ∧ ∀ a ∈ ws, rd t a = 0) ∧
      (∀ x l, s.perf.samples = x :: l →
        answersOnly { s with perf := { s.perf with samples := l } } t ws [.readData (leBytes 4 x.w0.toNat) false] ∧
        rd t (R.PERF_SAMPLE_W 0) = x.w1 ∧ rd64 t (R.PERF_SAMPLE_W 1) = x.time))

/-- While no commit is under way, a PUT, a REMOVE or a PUT_DEFAULT that breaks no rule stages its change and answers 0, DISCARD empties
the list, and others answer their error and stage nothing; during a commit every one answers 4. A commit waits for a free slot and room,
writes its version as one more than the current one in the free slot that the model takes (the lowest, log 49), and at its instant is
CURRENT while the former version drains or is free (R422). One made for an image ends the loader's command (log 53), and CANCEL of it
refuses that command with reason 17. The entries of a version that is gone return all at once (log 52). A privileged port is taken with a
full bucket (R430), or refused and recorded. -/
def Obligations.RuleStagingAndCommits : Prop :=
  (∀ (s : State) (i : BitVec 13) (v : Word), barOpen s = true →
    let a := R.CLASS_STAGE_STATUS
    let only (t : State) (e : Word) : Prop := regsOnly { s with cls := { s.cls with staged := t.cls.staged } } t [a] ∧ rd t a = e
    let keeps (t : State) (k : Nat) : Prop := ∀ x ∈ s.cls.staged, x.1 ≠ k → x ∈ t.cls.staged
    (s.cls.commit ≠ .idle → ∀ c ∈ [Instr.put i, .remove i, .putDefault i, .discard, .badOp v],
      ∃ t, exec c s = .next t ∧ only t 4 ∧ t.cls = s.cls) ∧
    (s.cls.commit = .idle → s.cls.staged.length < 1024 →
      (∃ t, exec (.put i) s = .next t ∧ keeps t i.toNat ∧
        (actionOk s false (rd64 s R.CLASS_STAGE_ACT) = false → only t 1 ∧ t.cls = s.cls) ∧
        (actionOk s false (rd64 s R.CLASS_STAGE_ACT) = true → only t 0 ∧
          (i.toNat, .put ⟨seventyTwo s (R.CLASS_STAGE_KEY 0), seventyTwo s (R.CLASS_STAGE_MASK 0), rd64 s R.CLASS_STAGE_ACT⟩) ∈ t.cls.staged)) ∧
      (∃ t, exec (.remove i) s = .next t ∧ keeps t i.toNat ∧ only t 0 ∧ (i.toNat, .remove) ∈ t.cls.staged) ∧
      (∃ t, exec (.putDefault i) s = .next t ∧ keeps t (8192 + i.toNat) ∧
        (17 < i.toNat → only t 2 ∧ t.cls = s.cls) ∧
        (i.toNat ≤ 17 → actionOk s true (rd64 s R.CLASS_STAGE_ACT) = false → only t 1 ∧ t.cls = s.cls) ∧
        (i.toNat ≤ 17 → actionOk s true (rd64 s R.CLASS_STAGE_ACT) = true → only t 0 ∧
          (8192 + i.toNat, .default (rd64 s R.CLASS_STAGE_ACT)) ∈ t.cls.staged))) ∧
    (s.cls.commit = .idle → 1024 ≤ s.cls.staged.length → (∀ x ∈ s.cls.staged, x.1 ≠ i.toNat ∧ x.1 ≠ 8192 + i.toNat) →
      (∃ t, exec (.remove i) s = .next t ∧ only t 3 ∧ t.cls = s.cls) ∧
      (actionOk s false (rd64 s R.CLASS_STAGE_ACT) = true → ∃ t, exec (.put i) s = .next t ∧ only t 3 ∧ t.cls = s.cls) ∧
      (i.toNat ≤ 17 → actionOk s true (rd64 s R.CLASS_STAGE_ACT) = true → ∃ t, exec (.putDefault i) s = .next t ∧ only t 3 ∧ t.cls = s.cls)) ∧
    (s.cls.commit = .idle →
      (∃ t, exec .discard s = .next t ∧ only t 0 ∧ t.cls.staged = []) ∧
      (fld v 28 4 = 0 ∨ 4 < fld v 28 4 → ∃ t, exec (.badOp v) s = .next t ∧ only t 5 ∧ t.cls = s.cls))) ∧
  (∀ s : State, barOpen s = true →
    (∃ t, exec .classCommit s = .next t ∧
      (s.cls.commit = .idle → s.cls.staged ≠ [] →
        regsOnly { s with cls := { s.cls with commit := .waiting } } t [R.CLASS_EVENT] ∧
        (canApply s = true → t.regs = s.regs) ∧ (canApply s = false → rbit t R.CLASS_EVENT 2 = true)) ∧
      (¬(s.cls.commit = .idle ∧ s.cls.staged ≠ []) → intcOnly s t)) ∧
    (s.cls.commit = .waiting → s.cls.image = none →
      ∃ t, exec .cancel s = .next t ∧ t = { s with cls := { s.cls with commit := .idle }, intc := t.intc }) ∧
    (s.cls.commit = .waiting → ∀ r, s.cls.image = some r → s.loader.boot = false →
      ∃ t, exec .cancel s = .next t ∧ t.cls = { s.cls with commit := .idle, image := none } ∧
        t.loader = { s.loader with st := .idle, reason := 17, detail := 0 } ∧ recorded s t .image 17) ∧
    (s.cls.commit ≠ .waiting → ∃ t, exec .cancel s = .next t ∧ intcOnly s t)) ∧
  (∀ (s : State) (k : Nat), running s = true → s.cls.commit = .waiting → canApply s = true → freeSlot s = some k →
    ∃ t, exec .applying s = .next t ∧ t = { s with cls := t.cls, intc := t.intc } ∧ t.cls.commit = .applying k ∧ t.cls.current = s.cls.current ∧
      (ruleSlot t k).ver = (ruleSlot s s.cls.current).ver + 1 ∧ t.cls.staged = s.cls.staged ∧ ∀ n, n ≠ k → ruleSlot t n = ruleSlot s n) ∧
  (∀ (s : State) (k : Nat), running s = true → s.cls.commit = .applying k → k ≠ s.cls.current ∨ (ruleSlot s k).st ≠ .current →
    let old := s.cls.current
    ∃ t, exec .commitInstant s = .next t ∧ t.cls.current = k ∧ t.cls.staged = [] ∧ t.cls.commit = .idle ∧ t.cls.image = none ∧
      ruleSlot t k = { ruleSlot s k with st := .current } ∧
      (k ≠ old → (ruleSlot s old).st = .current → (ruleSlot t old).st = if (ruleSlot s old).ref = 0 then .free else .draining) ∧
      (k ≠ old → (ruleSlot s old).st ≠ .current → ruleSlot t old = ruleSlot s old) ∧
      rbit t R.CLASS_EVENT 0 = true ∧ rd t (R.CLASS_CNT 10) = sat32 ((rd s (R.CLASS_CNT 10)).toNat + 1) ∧
      (s.cls.image = none → t.loader = s.loader) ∧
      (∀ r, s.cls.image = some r → t.loader = { s.loader with
        st := if s.flash.ok then .writing else .idle, version := imageVersion s.loader.staged, partial_ := true, source := 2 })) ∧
  (∀ s : State, running s = true → ∃ t, exec .entriesReturned s = .next t ∧ t = { s with cls := t.cls, intc := t.intc } ∧ t.cls.owed = [] ∧
    t.cls.slots = s.cls.slots ∧ ∀ e, e ∈ t.cls.store ↔ e ∈ s.cls.store ∧ e.1 ∉ s.cls.owed) ∧
  (∀ (s : State) (n : Fin 4) (v : Word), barOpen s = true →
    let p := fld v 16 5
    let refused := bit v 31 = true ∧ (p = 16 ∨ 17 < p ∨ ∃ m, m < 4 ∧ m ≠ n.val ∧ rbit s (R.CLASS_PRIV m) 31 = true ∧ rfld s (R.CLASS_PRIV m) 16 5 = p)
    (∃ t, exec (.classPriv n true v) s = .next t ∧ regsOnly { s with cls := { s.cls with buckets := t.cls.buckets } } t [R.CLASS_PRIV_RATE n] ∧
      rd t (R.CLASS_PRIV_RATE n) = v ∧ look {} t.cls.buckets n = ⟨clampNat 1 4096 (fld v 16 16) * tokenUnit, s.now⟩) ∧
    (∃ t, exec (.classPriv n false v) s = .next t ∧
      (refused → regsOnly s t (recordOf .cls) ∧ recorded s t .cls 3) ∧
      (¬refused → regsOnly { s with cls := { s.cls with buckets := t.cls.buckets } } t [R.CLASS_PRIV n] ∧
        rd t (R.CLASS_PRIV n) &&& 0x801F00FF = v &&& 0x801F00FF ∧ look {} t.cls.buckets n = ⟨bucketCap s n, s.now⟩)))

/-- An idle loader starts reading for a VERIFY, a COMMIT or a possible ROLLBACK, starts a possible FLOOR, and refuses any other command; a
busy one refuses every command, and goes on with its own. FLOOR shows APPLYING while it runs (the model's reading, log 95). Octets of the
host that cover an image are staged and checked, and so is the area of the flash that a ROLLBACK or the boot load reads; octets that do
not, and a failed read, are refused, and a read that is never answered holds the loader. The answers are the command's operand (log 98).
Checks that fail refuse the command with their reason and the byte at which they fail (where the spec does not name that byte, log 97),
and leave a boot load in LOADING; a VERIFY that passes is done; a commit or a boot load that passes begins at its scope, device scope with
every section but the presets and KEEPER applied (logs 26 and 104). -/
def Obligations.ImageCommands : Prop :=
  let refused (s t : State) (r : Nat) : Prop :=
    t.loader = { s.loader with reason := r, detail := 0 } ∧ recorded s t .image r ∧ rbit t R.IMAGE_EVENT 1 = true ∧ t.mode = s.mode
  let reads (s t : State) (op scope tract : Nat) : Prop :=
    t = { s with regs := t.regs, loader := { s.loader with st := .reading }, intc := t.intc } ∧ imageOp t = op ∧ rfld t R.IMAGE_CMD 20 2 = scope ∧
    imageTract t = tract ∧ ∀ a, a ≠ R.IMAGE_CMD → rd t a = rd s a
  let told (s t : State) (i : Nat) : Prop := rbit s Block.image.base 31 = false → rd64 t (Block.image.base + 0x10) = BitVec.ofNat 64 i
  let applied (s t : State) : Prop :=
    let d := imageInHand s
    t.parser = d.parser ∧ t.store = d.micro ∧ t.loader.tractEn = strTracts d.str ∧ t.loader.ddr = d.ddr ∧ t.mode.lineOn = true ∧
      (ruleSlot t 0).st = .current ∧ (ruleSlot t 0).ver = 1 ∧ (ruleSlot t 0).defs = d.rules.defs ∧ t.cls.staged = []
  (∀ (s : State) (v : Word) (sc : BitVec 2) (tr : BitVec 3), barOpen s = true →
    (s.loader.st ≠ .idle → ∀ c ∈ [Instr.verify sc tr, .commitDevice, .commitTract tr, .commitRules, .rollback sc tr, .floor, .badCmd v],
      ∃ t, exec c s = .next t ∧ refused s t 2) ∧
    (s.loader.st = .idle →
      (sc ≠ 3 → ∃ t, exec (.verify sc tr) s = .next t ∧ reads s t 1 sc.toNat tr.toNat) ∧
      (sc = 3 → ∃ t, exec (.verify sc tr) s = .next t ∧ refused s t 1) ∧
      (∃ t, exec .commitDevice s = .next t ∧ reads s t 2 0 0) ∧ (∃ t, exec (.commitTract tr) s = .next t ∧ reads s t 2 1 tr.toNat) ∧
      (∃ t, exec .commitRules s = .next t ∧ reads s t 2 2 0) ∧
      (sc ≠ 3 → canRollback s = true → ∃ t, exec (.rollback sc tr) s = .next t ∧ reads s t 3 sc.toNat tr.toNat) ∧
      (sc ≠ 3 → canRollback s = false → ∃ t, exec (.rollback sc tr) s = .next t ∧ refused s t 18) ∧
      (floorBad s = false → ∃ t, exec .floor s = .next t ∧ t.loader = { s.loader with st := .applying } ∧ t.fuses = s.fuses) ∧
      (floorBad s = true → ∃ t, exec .floor s = .next t ∧ refused s t 19) ∧
      (fld v 24 4 = 0 ∨ 4 < fld v 24 4 → ∃ t, exec (.badCmd v) s = .next t ∧ refused s t 1))) ∧
  (∀ (s : State) (b : Bytes), running s = true → s.loader.st = .reading → s.loader.boot = false → imageOp s ≠ 3 → hostUp s = true →
    s.loader.hung = false →
    let issued (t : State) (n : Nat) : Prop := t.wire = (hostRd s (rd64 s R.IMAGE_SRC) n).wire
    let fails (t : State) : Prop := t.loader = { s.loader with st := .idle, reason := 4, detail := 0 } ∧ recorded s t .image 4 ∧ t.mode = s.mode
    (longEnough b = true → ∃ t, exec (.imageStaged (.ok b)) s = .next t ∧
      t = { s with loader := { s.loader with st := .checking, staged := b }, wire := t.wire, intc := t.intc } ∧ issued t b.length) ∧
    (longEnough b = false → ∃ t, exec (.imageStaged (.ok b)) s = .next t ∧ fails t ∧ issued t b.length) ∧
    (∀ r ∈ [Reply.failed, .poisoned b], ∃ t, exec (.imageStaged r) s = .next t ∧ fails t ∧ issued t 192) ∧
    (bit s.host.cfg.ctl2 4 = false → ∃ t, exec (.imageStaged .timedOut) s = .next t ∧ fails t ∧ issued t 192) ∧
    (bit s.host.cfg.ctl2 4 = true → ∃ t, exec (.imageStaged .timedOut) s = .next t ∧ issued t 192 ∧
      t = { s with loader := { s.loader with hung := true }, wire := t.wire, intc := t.intc })) ∧
  (∀ (s : State) (r : Reply), running s = true → s.loader.st = .reading → s.loader.boot = false → imageOp s ≠ 3 → hostUp s = true →
    s.loader.hung = true → (∀ tag, r ≠ .stray tag) → ∃ t, exec (.imageStaged r) s = .next t ∧ intcOnly s t) ∧
  (∀ (s : State) (b : Bytes), running s = true → s.loader.st = .reading → s.loader.boot = true ∨ imageOp s = 3 →
    (∃ t, exec (.imageStaged (.ok b)) s = .next t ∧
      t = { s with loader := { s.loader with st := .checking, hung := false,
                                             staged := look [] s.flash.areas (if s.loader.boot then dirArea s else 1 - dirArea s) },
                   intc := t.intc }) ∧
    (∀ r ∈ [Reply.failed, .poisoned b, .timedOut], ∃ t, exec (.imageStaged r) s = .next t ∧ t.loader.st = .idle ∧ recorded s t .image 4 ∧
      t.mode = s.mode ∧ t.wire = s.wire)) ∧
  (∀ s : State, running s = true → s.loader.st = .checking → s.loader.boot = true →
    (∀ r d i, imageRows s s.loader.staged = some (r, d, i) → ∃ t, exec .imageChecked s = .next t ∧ t.mode = s.mode ∧ t.queues = s.queues ∧
      t.loader = { s.loader with st := .idle, boot := false, stuck := true } ∧ recorded s t .image r ∧ told s t i) ∧
    (imageRows s s.loader.staged = none → ∃ t, exec .imageChecked s = .next t ∧ t.loader.st = .applying ∧ t.mode.mode = .loading ∧ t.queues = [] ∧
      applied s t)) ∧
  (∀ s : State, running s = true → s.loader.st = .checking → s.loader.boot = false →
    (∀ r d i, imageRows s s.loader.staged = some (r, d, i) → ∃ t, exec .imageChecked s = .next t ∧ t.loader.st = .idle ∧ t.loader.reason = r ∧
      t.loader.detail = d ∧ t.mode = s.mode ∧ t.queues = s.queues ∧ t.cls = s.cls ∧ recorded s t .image r ∧ told s t i) ∧
    (imageRows s s.loader.staged = none → imageOp s = 1 → ∃ t, exec .imageChecked s = .next t ∧ rbit t R.IMAGE_EVENT 0 = true ∧
      t.loader = { s.loader with st := .idle } ∧ t.queues = s.queues ∧ t.cls = s.cls) ∧
    (imageRows s s.loader.staged = none → imageOp s ≠ 1 →
      (∀ r d, scopeRow s (imageOf s.loader.staged) = some (r, d) → ∃ t, exec .imageChecked s = .next t ∧ t.loader.st = .idle ∧ t.loader.reason = r ∧
        t.loader.detail = d ∧ t.queues = s.queues ∧ told s t 0) ∧
      (scopeRow s (imageOf s.loader.staged) = none →
        (rfld s R.IMAGE_CMD 20 2 = 0 → ∃ t, exec .imageChecked s = .next t ∧ t.loader.st = .applying ∧ t.mode.mode = .loading ∧ t.queues = [] ∧
          t.msgs = [] ∧ applied s t) ∧
        (rfld s R.IMAGE_CMD 20 2 = 1 → ∃ t, exec .imageChecked s = .next t ∧ t.loader.st = .applying) ∧
        (rfld s R.IMAGE_CMD 20 2 = 2 → ∃ t, exec .imageChecked s = .next t ∧ t.loader.st = .waiting ∧ t.cls.commit = .waiting ∧
          t.cls.image = some (imageOf s.loader.staged).rules))))

/-- Training sets TRAINED and the capacity of the geometry stated, or of the first that passes; a failure is recorded, leaves an optional
channel disabled, and ends the load for one that is not optional (which geometries pass on the devices fitted is read from the walk: log
105). The end of device scope, of the boot load (BOOT_SEL 2 as well: log 108) and of a reload put the image in force, and MODE returns.
Storing goes step by step: a directory with no PREVIOUS, the image in the other area, a directory that makes it CURRENT and the former one
PREVIOUS (with no valid directory, as log 96 says); a failure leaves STALE and is recorded; a ROLLBACK swaps the areas. FLOOR_DONE
programs the floor. -/
def Obligations.ImageLoadsComplete : Prop :=
  (∀ (s : State) (ch : Fin 8) (fitted : Nat) (trains : List Nat), running s = true → loaderAt s .applying 0 = true →
    rbit s (R.BUFFER_RES_CH_CFG ch) 31 = true → (chan s ch).result = none →
    let passes (g : Geometry) : Prop := g.gib ≤ fitted ∧ geometries.idxOf g ∈ trains
    ∃ t, exec (.channelTraining ch fitted trains) s = .next t ∧
      (∀ g, trainedAs s ch fitted trains = some g → regsOnly { s with res := t.res } t [R.BUFFER_RES_CH_CFG ch] ∧
        chan t ch = { chan s ch with result := some g.gib, geom := some g } ∧ passes g ∧ (∀ w, (chan s ch).want = some w → g = w) ∧
        rd t (R.BUFFER_RES_CH_CFG ch) = rd s (R.BUFFER_RES_CH_CFG ch) ||| pack [(29, 1), (0, g.gib)]) ∧
      (trainedAs s ch fitted trains = none → recorded s t .buffer 6 ∧ (∀ w, (chan s ch).want = some w → ¬passes w) ∧
        ((chan s ch).want = none → ∀ w ∈ geometries, ¬passes w) ∧
        (rbit s (R.BUFFER_RES_CH_CFG ch) 30 = true → rbit t (R.BUFFER_RES_CH_CFG ch) 31 = false ∧ t.loader = s.loader) ∧
        (rbit s (R.BUFFER_RES_CH_CFG ch) 30 = false → t.loader.st = .idle ∧ t.loader.stuck = true ∧ t.mode = s.mode ∧ recorded s t .image 20))) ∧
  (∀ s : State, running s = true → deviceReady s = true → s.loader.boot = false →
    ∃ t, exec .deviceApplyingEnd s = .next t ∧ t.loader.st = (if t.flash.ok then .writing else .idle) ∧ t.loader.stuck = false ∧
      t.loader.version = (imageOf s.loader.staged).version ∧ t.loader.source = 2 ∧
      ((imageInHand s).presets = [] → (imageInHand s).keeper = [] → t.mode.mode = if s.mode.dereg then .provision else s.mode.back)) ∧
  (∀ s : State, running s = true → deviceReady s = true →
    (s.loader.boot = true → ∃ t, exec .bootImageLoaded s = .next t ∧ t.loader.st = .idle ∧ t.loader.boot = false ∧ t.loader.stuck = false ∧
      t.loader.version = (imageInHand s).version ∧ t.loader.source = (if s.power.straps % 4 = 0 then 0 else 1) ∧
      ((imageInHand s).presets = [] → (imageInHand s).keeper = [] → t.mode.mode = if s.mode.dereg then .provision else s.mode.back)) ∧
    (s.loader.boot = false → s.loader.stuck = true → ∃ t, exec .bootImageLoaded s = .next t ∧
      t.loader.st = (if t.flash.ok then .writing else .idle) ∧ t.loader.stuck = false ∧
      t.loader.version = (imageOf s.loader.staged).version ∧ t.loader.source = 2)) ∧
  (∀ s : State, running s = true → loaderAt s .applying 1 = true → s.loader.boot = false → (drover s (imageTract s)).st = .reloading →
    ∃ t, exec .reloadCommit s = .next t ∧ (drover t (imageTract s)).st = .idle ∧ (drover t (imageTract s)).stack = [] ∧
      t.loader.st = (if s.flash.ok then .writing else .idle) ∧ t.loader.version = (imageOf s.loader.staged).version ∧ t.loader.partial_ = true ∧
      rbit t R.IMAGE_EVENT 0 = true) ∧
  (∀ (s : State) (step : Nat), running s = true → s.loader.st = .writing →
    let n := Nat.max s.loader.wrote step
    (imageOp s ≠ 3 → n < 3 → ∃ t, exec (.flashDone true step) s = .next t ∧ t = { s with flash := t.flash, loader := { s.loader with wrote := n }, intc := t.intc }) ∧
    (imageOp s ≠ 3 → 3 ≤ n → ∃ t, exec (.flashDone true step) s = .next t ∧
      t.loader = { s.loader with st := .idle, stale := false, source := 1, wrote := n } ∧ rbit t R.IMAGE_EVENT 2 = true) ∧
    (imageOp s ≠ 3 → ∃ t, exec (.flashDone false step) s = .next t ∧ recorded s t .image 21 ∧
      t.loader = { s.loader with st := .idle, stale := true, source := 2, wrote := Nat.max s.loader.wrote (step - 1) }) ∧
    (imageOp s = 3 →
      (∃ t, exec (.flashDone true step) s = .next t ∧ t.loader = { s.loader with st := .idle, stale := false, source := 1 } ∧
        t.flash.areas = s.flash.areas ∧ t.regs = s.regs ∧
        ((directory s).isSome = true → dirArea t = 1 - dirArea s ∧ dirCur t = dirPrev s ∧ dirPrev t = dirCur s ∧ dirPrevValid t = true)) ∧
      (∃ t, exec (.flashDone false step) s = .next t ∧ t.flash = s.flash ∧ recorded s t .image 21 ∧
        t.loader = { s.loader with st := .idle, stale := true, source := 2 }))) ∧
  (∀ s : State, running s = true → s.loader.st = .writing → imageOp s ≠ 3 → s.flash.ok = true →
    (s.loader.wrote = 0 → ∃ t, exec (.flashDone true 1) s = .next t ∧ t.flash.areas = s.flash.areas ∧ dirArea t = dirArea s ∧ dirCur t = dirCur s ∧
      dirPrevValid t = false) ∧
    (s.loader.wrote = 1 → ∃ t, exec (.flashDone true 2) s = .next t ∧ t.flash.dirs = s.flash.dirs ∧
      look [] t.flash.areas (1 - dirArea s) = s.loader.staged ∧ look [] t.flash.areas (dirArea s) = look [] s.flash.areas (dirArea s)) ∧
    (s.loader.wrote = 1 → ∃ t, exec (.flashDone false 2) s = .next t ∧ look [] t.flash.areas (1 - dirArea s) = []) ∧
    (s.loader.wrote = 2 → ∃ t, exec (.flashDone true 3) s = .next t ∧ t.flash.areas = s.flash.areas ∧ dirArea t = 1 - dirArea s ∧
      dirCur t = s.loader.version.toNat ∧ dirPrevValid t = (directory s).isSome ∧ ((directory s).isSome = true → dirPrev t = dirCur s))) ∧
  (∀ s : State, running s = true → s.loader.st = .applying → s.loader.boot = false → imageOp s = 4 →
    ∃ t, exec .floorDone s = .next t ∧ t.fuses = { s.fuses with floor := rd s R.IMAGE_FLOOR_SET, floorLeft := s.fuses.floorLeft - 1 } ∧
      t.loader = { s.loader with st := .idle } ∧ rbit t R.IMAGE_EVENT 0 = true)

/-! ### Reset and what every step keeps -/

/-- The state after reset: MODE reads RESETTING, BAR0 is not accessible, every register holds its reset value, the queue is empty, the
cistern's memory is in canonical form, and the interrupt controller has sampled the lines as they are. Values the spec does not give are
the model's (log 9). -/
def Obligations.ResetMeetsInvariants : Prop :=
  State.reset.mode.mode = .resetting ∧ barOpen State.reset = false ∧ (∀ a, rd State.reset a = regReset a) ∧ State.reset.pending = [] ∧
  Memory.wf State.reset.cistern.mem = true ∧ State.reset.sampled

/-- In every state after a step, whatever the command, the interrupt controller's last sample is the lines as the state asserts them, the
STRANDED line included, the strand time of a target runs exactly while its message is wanted and deferred and it has not stopped at its
limit, and it has stopped only for a target whose STRANDED bit is 1. -/
def Obligations.StepKeepsLinesSampled : Prop :=
  ∀ s t : State, s.sampled → step s = .next t → t.sampled

/-- Every command and every tick keeps the cistern's memory in canonical form: addresses rise strictly, and no entry is listed that an
unlisted byte already reads as (the model's choice of what that is: log 8). -/
def Obligations.StepKeepsMemoryCanonical : Prop :=
  ∀ s t : State, Memory.wf s.cistern.mem = true → step s = .next t → Memory.wf t.cistern.mem = true
end

