-- ==== Sys2Proof/Laws/Sparse.lean ====
section
/-!
SUPPORT. Sparse data: what an entry reads as after a change, and the canonical form that every change of the cistern's memory keeps.
-/
namespace Sys2Proof.Machine

theorem look_del_same {α : Type} (d : α) (m : Sparse α) (n : Nat) : look d (del n m) n = d := by
  induction m with
  | nil => rfl
  | cons e m ih =>
    simp only [del]
    split
    · exact ih
    · rename_i h
      simp only [look]
      rw [if_neg h]; exact ih

theorem look_del_ne {α : Type} (d : α) (m : Sparse α) {n k : Nat} (h : k ≠ n) : look d (del n m) k = look d m k := by
  induction m with
  | nil => rfl
  | cons e m ih =>
    simp only [del]
    split
    · rename_i he
      subst he
      simp only [look]
      rw [if_neg h]; exact ih
    · simp only [look]
      split
      · rfl
      · exact ih

theorem look_ins_same {α : Type} (d : α) (m : Sparse α) (n : Nat) (v : α) : look d (ins n v m) n = v := by
  induction m with
  | nil => simp [ins, look]
  | cons e m ih =>
    simp only [ins]
    split
    · simp [look]
    · split
      · simp [look]
      · rename_i h
        simp only [look]
        rw [if_neg h]; exact ih

theorem look_ins_ne {α : Type} (d : α) (m : Sparse α) {n k : Nat} (v : α) (h : k ≠ n) : look d (ins n v m) k = look d m k := by
  induction m with
  | nil => simp [ins, look, h]
  | cons e m ih =>
    simp only [ins]
    split
    · simp [look, h]
    · split
      · rename_i he
        subst he
        simp [look, h]
      · simp only [look]
        split
        · rfl
        · exact ih

/-- A number set reads as set. -/
@[simp] theorem look_put_same {α : Type} [DecidableEq α] (d : α) (m : Sparse α) (n : Nat) (v : α) : look d (put d m n v) n = v := by
  unfold put
  split
  · rename_i h; rw [look_del_same, h]
  · exact look_ins_same d m n v

/-- Every other number reads as before. -/
theorem look_put_ne {α : Type} [DecidableEq α] (d : α) (m : Sparse α) {n k : Nat} (v : α) (h : k ≠ n) : look d (put d m n v) k = look d m k := by
  unfold put
  split
  · exact look_del_ne d m h
  · exact look_ins_ne d m v h

theorem look_put {α : Type} [DecidableEq α] (d : α) (m : Sparse α) (n k : Nat) (v : α) : look d (put d m n v) k = if k = n then v else look d m k := by
  split
  · rename_i h; subst h; exact look_put_same d m k v
  · rename_i h; exact look_put_ne d m v h

theorem wfFrom_weaken {α : Type} [DecidableEq α] {d : Nat → α} {m : Sparse α} {lo lo' : Nat} (hl : lo' ≤ lo) (h : Sparse.wfFrom d lo m = true) :
    Sparse.wfFrom d lo' m = true := by
  cases m with
  | nil => rfl
  | cons e m =>
    simp only [Sparse.wfFrom, Bool.and_eq_true, decide_eq_true_eq] at h ⊢
    exact ⟨⟨Nat.le_trans hl h.1.1, h.1.2⟩, h.2⟩

theorem del_wfFrom {α : Type} [DecidableEq α] {d : Nat → α} (n : Nat) {m : Sparse α} {lo : Nat} (h : Sparse.wfFrom d lo m = true) :
    Sparse.wfFrom d lo (del n m) = true := by
  induction m generalizing lo with
  | nil => rfl
  | cons e m ih =>
    simp only [Sparse.wfFrom, Bool.and_eq_true, decide_eq_true_eq] at h
    simp only [del]
    split
    · exact wfFrom_weaken (Nat.le_trans h.1.1 (Nat.le_succ _)) (ih h.2)
    · simp only [Sparse.wfFrom, Bool.and_eq_true, decide_eq_true_eq]
      exact ⟨h.1, ih h.2⟩

theorem ins_wfFrom {α : Type} [DecidableEq α] {d : Nat → α} {n : Nat} {v : α} {m : Sparse α} {lo : Nat} (hn : lo ≤ n) (hv : v ≠ d n)
    (h : Sparse.wfFrom d lo m = true) : Sparse.wfFrom d lo (ins n v m) = true := by
  induction m generalizing lo with
  | nil => simp [ins, Sparse.wfFrom, hn, hv]
  | cons e m ih =>
    simp only [Sparse.wfFrom, Bool.and_eq_true, decide_eq_true_eq] at h
    simp only [ins]
    split
    · simp only [Sparse.wfFrom, Bool.and_eq_true, decide_eq_true_eq]
      exact ⟨⟨hn, hv⟩, ⟨by omega, h.1.2⟩, h.2⟩
    · split
      · rename_i h1 h2
        simp only [Sparse.wfFrom, Bool.and_eq_true, decide_eq_true_eq]
        exact ⟨⟨hn, hv⟩, h2 ▸ h.2⟩
      · rename_i h1 h2
        simp only [Sparse.wfFrom, Bool.and_eq_true, decide_eq_true_eq]
        exact ⟨h.1, ih (by omega) h.2⟩

theorem memWrite_wf {m : List Host.Cell} (a : Nat) (v : Byte) (h : Memory.wf m = true) : Memory.wf (memWrite m a v) = true := by
  unfold memWrite put
  split
  · exact del_wfFrom a h
  · rename_i hv
    exact ins_wfFrom (d := fun _ => memDefault) (Nat.zero_le a) hv h

theorem memWriteAll_wf (b : Bytes) {m : List Host.Cell} (a : Nat) (h : Memory.wf m = true) : Memory.wf (memWriteAll m a b) = true := by
  induction b generalizing m a with
  | nil => exact h
  | cons v b ih => exact ih (a + 1) (memWrite_wf a v h)

/-- A byte written reads as written. -/
theorem memRead_memWrite_same (m : List Host.Cell) (a : Nat) (v : Byte) : memRead (memWrite m a v) a = v := look_put_same memDefault m a v

/-- Every other byte reads as before. -/
theorem memRead_memWrite_ne (m : List Host.Cell) {a k : Nat} (v : Byte) (h : k ≠ a) : memRead (memWrite m a v) k = memRead m k :=
  look_put_ne memDefault m v h

/-- Bytes outside those written read as before. -/
theorem memRead_memWriteAll_out (b : Bytes) (m : List Host.Cell) {a k : Nat} (h : k < a ∨ a + b.length ≤ k) :
    memRead (memWriteAll m a b) k = memRead m k := by
  induction b generalizing m a with
  | nil => rfl
  | cons v b ih =>
    simp only [List.length_cons] at h
    exact (ih (memWrite m a v) (a := a + 1) (by omega)).trans (memRead_memWrite_ne m v (by omega))

end Sys2Proof.Machine
end

