-- ==== Sys2Proof/Laws/State.lean ====
section
/-!
SUPPORT. What each named update of the state leaves as it was, field by field, and what the updated entry reads as.
-/
namespace Sys2Proof.Machine

/-! ### wr -/

@[simp] theorem wr_pending (s : State) (a : Nat) (v : Word) : (wr s a v).pending = s.pending := rfl
@[simp] theorem wr_wire (s : State) (a : Nat) (v : Word) : (wr s a v).wire = s.wire := rfl
@[simp] theorem wr_free (s : State) (a : Nat) (v : Word) : (wr s a v).free = s.free := rfl
@[simp] theorem wr_now (s : State) (a : Nat) (v : Word) : (wr s a v).now = s.now := rfl
@[simp] theorem wr_fuses (s : State) (a : Nat) (v : Word) : (wr s a v).fuses = s.fuses := rfl
@[simp] theorem wr_power (s : State) (a : Nat) (v : Word) : (wr s a v).power = s.power := rfl
@[simp] theorem wr_mode (s : State) (a : Nat) (v : Word) : (wr s a v).mode = s.mode := rfl
@[simp] theorem wr_keeper (s : State) (a : Nat) (v : Word) : (wr s a v).keeper = s.keeper := rfl
@[simp] theorem wr_time (s : State) (a : Nat) (v : Word) : (wr s a v).time = s.time := rfl
@[simp] theorem wr_line (s : State) (a : Nat) (v : Word) : (wr s a v).line = s.line := rfl
@[simp] theorem wr_keys (s : State) (a : Nat) (v : Word) : (wr s a v).keys = s.keys := rfl
@[simp] theorem wr_reasm (s : State) (a : Nat) (v : Word) : (wr s a v).reasm = s.reasm := rfl
@[simp] theorem wr_intc (s : State) (a : Nat) (v : Word) : (wr s a v).intc = s.intc := rfl
@[simp] theorem wr_host (s : State) (a : Nat) (v : Word) : (wr s a v).host = s.host := rfl
@[simp] theorem wr_perf (s : State) (a : Nat) (v : Word) : (wr s a v).perf = s.perf := rfl
@[simp] theorem wr_paces (s : State) (a : Nat) (v : Word) : (wr s a v).paces = s.paces := rfl
@[simp] theorem wr_serial (s : State) (a : Nat) (v : Word) : (wr s a v).serial = s.serial := rfl
@[simp] theorem wr_past (s : State) (a : Nat) (v : Word) : (wr s a v).past = s.past := rfl
@[simp] theorem wr_turns (s : State) (a : Nat) (v : Word) : (wr s a v).turns = s.turns := rfl
@[simp] theorem wr_cistern (s : State) (a : Nat) (v : Word) : (wr s a v).cistern = s.cistern := rfl
@[simp] theorem wr_res (s : State) (a : Nat) (v : Word) : (wr s a v).res = s.res := rfl
@[simp] theorem wr_queues (s : State) (a : Nat) (v : Word) : (wr s a v).queues = s.queues := rfl
@[simp] theorem wr_robins (s : State) (a : Nat) (v : Word) : (wr s a v).robins = s.robins := rfl
@[simp] theorem wr_marks (s : State) (a : Nat) (v : Word) : (wr s a v).marks = s.marks := rfl
@[simp] theorem wr_table (s : State) (a : Nat) (v : Word) : (wr s a v).table = s.table := rfl
@[simp] theorem wr_drovers (s : State) (a : Nat) (v : Word) : (wr s a v).drovers = s.drovers := rfl
@[simp] theorem wr_store (s : State) (a : Nat) (v : Word) : (wr s a v).store = s.store := rfl
@[simp] theorem wr_gate (s : State) (a : Nat) (v : Word) : (wr s a v).gate = s.gate := rfl
@[simp] theorem wr_msgs (s : State) (a : Nat) (v : Word) : (wr s a v).msgs = s.msgs := rfl
@[simp] theorem wr_parser (s : State) (a : Nat) (v : Word) : (wr s a v).parser = s.parser := rfl
@[simp] theorem wr_cls (s : State) (a : Nat) (v : Word) : (wr s a v).cls = s.cls := rfl
@[simp] theorem wr_flights (s : State) (a : Nat) (v : Word) : (wr s a v).flights = s.flights := rfl
@[simp] theorem wr_ghosts (s : State) (a : Nat) (v : Word) : (wr s a v).ghosts = s.ghosts := rfl
@[simp] theorem wr_toQueue (s : State) (a : Nat) (v : Word) : (wr s a v).toQueue = s.toQueue := rfl
@[simp] theorem wr_toPort (s : State) (a : Nat) (v : Word) : (wr s a v).toPort = s.toPort := rfl
@[simp] theorem wr_rings (s : State) (a : Nat) (v : Word) : (wr s a v).rings = s.rings := rfl
@[simp] theorem wr_dmas (s : State) (a : Nat) (v : Word) : (wr s a v).dmas = s.dmas := rfl
@[simp] theorem wr_scans (s : State) (a : Nat) (v : Word) : (wr s a v).scans = s.scans := rfl
@[simp] theorem wr_ports (s : State) (a : Nat) (v : Word) : (wr s a v).ports = s.ports := rfl
@[simp] theorem wr_flash (s : State) (a : Nat) (v : Word) : (wr s a v).flash = s.flash := rfl
@[simp] theorem wr_loader (s : State) (a : Nat) (v : Word) : (wr s a v).loader = s.loader := rfl

/-! ### emit -/

@[simp] theorem emit_pending (s : State) (o : Output) : (emit s o).pending = s.pending := rfl
@[simp] theorem emit_free (s : State) (o : Output) : (emit s o).free = s.free := rfl
@[simp] theorem emit_now (s : State) (o : Output) : (emit s o).now = s.now := rfl
@[simp] theorem emit_fuses (s : State) (o : Output) : (emit s o).fuses = s.fuses := rfl
@[simp] theorem emit_power (s : State) (o : Output) : (emit s o).power = s.power := rfl
@[simp] theorem emit_mode (s : State) (o : Output) : (emit s o).mode = s.mode := rfl
@[simp] theorem emit_keeper (s : State) (o : Output) : (emit s o).keeper = s.keeper := rfl
@[simp] theorem emit_time (s : State) (o : Output) : (emit s o).time = s.time := rfl
@[simp] theorem emit_line (s : State) (o : Output) : (emit s o).line = s.line := rfl
@[simp] theorem emit_keys (s : State) (o : Output) : (emit s o).keys = s.keys := rfl
@[simp] theorem emit_reasm (s : State) (o : Output) : (emit s o).reasm = s.reasm := rfl
@[simp] theorem emit_intc (s : State) (o : Output) : (emit s o).intc = s.intc := rfl
@[simp] theorem emit_host (s : State) (o : Output) : (emit s o).host = s.host := rfl
@[simp] theorem emit_perf (s : State) (o : Output) : (emit s o).perf = s.perf := rfl
@[simp] theorem emit_paces (s : State) (o : Output) : (emit s o).paces = s.paces := rfl
@[simp] theorem emit_serial (s : State) (o : Output) : (emit s o).serial = s.serial := rfl
@[simp] theorem emit_past (s : State) (o : Output) : (emit s o).past = s.past := rfl
@[simp] theorem emit_turns (s : State) (o : Output) : (emit s o).turns = s.turns := rfl
@[simp] theorem emit_cistern (s : State) (o : Output) : (emit s o).cistern = s.cistern := rfl
@[simp] theorem emit_res (s : State) (o : Output) : (emit s o).res = s.res := rfl
@[simp] theorem emit_queues (s : State) (o : Output) : (emit s o).queues = s.queues := rfl
@[simp] theorem emit_robins (s : State) (o : Output) : (emit s o).robins = s.robins := rfl
@[simp] theorem emit_marks (s : State) (o : Output) : (emit s o).marks = s.marks := rfl
@[simp] theorem emit_table (s : State) (o : Output) : (emit s o).table = s.table := rfl
@[simp] theorem emit_drovers (s : State) (o : Output) : (emit s o).drovers = s.drovers := rfl
@[simp] theorem emit_store (s : State) (o : Output) : (emit s o).store = s.store := rfl
@[simp] theorem emit_gate (s : State) (o : Output) : (emit s o).gate = s.gate := rfl
@[simp] theorem emit_msgs (s : State) (o : Output) : (emit s o).msgs = s.msgs := rfl
@[simp] theorem emit_parser (s : State) (o : Output) : (emit s o).parser = s.parser := rfl
@[simp] theorem emit_cls (s : State) (o : Output) : (emit s o).cls = s.cls := rfl
@[simp] theorem emit_flights (s : State) (o : Output) : (emit s o).flights = s.flights := rfl
@[simp] theorem emit_ghosts (s : State) (o : Output) : (emit s o).ghosts = s.ghosts := rfl
@[simp] theorem emit_toQueue (s : State) (o : Output) : (emit s o).toQueue = s.toQueue := rfl
@[simp] theorem emit_toPort (s : State) (o : Output) : (emit s o).toPort = s.toPort := rfl
@[simp] theorem emit_rings (s : State) (o : Output) : (emit s o).rings = s.rings := rfl
@[simp] theorem emit_dmas (s : State) (o : Output) : (emit s o).dmas = s.dmas := rfl
@[simp] theorem emit_scans (s : State) (o : Output) : (emit s o).scans = s.scans := rfl
@[simp] theorem emit_ports (s : State) (o : Output) : (emit s o).ports = s.ports := rfl
@[simp] theorem emit_flash (s : State) (o : Output) : (emit s o).flash = s.flash := rfl
@[simp] theorem emit_loader (s : State) (o : Output) : (emit s o).loader = s.loader := rfl
@[simp] theorem emit_regs (s : State) (o : Output) : (emit s o).regs = s.regs := rfl

/-! ### draw1 -/

@[simp] theorem draw1_pending (s : State) : (draw1 s).pending = s.pending := rfl
@[simp] theorem draw1_wire (s : State) : (draw1 s).wire = s.wire := rfl
@[simp] theorem draw1_now (s : State) : (draw1 s).now = s.now := rfl
@[simp] theorem draw1_fuses (s : State) : (draw1 s).fuses = s.fuses := rfl
@[simp] theorem draw1_power (s : State) : (draw1 s).power = s.power := rfl
@[simp] theorem draw1_mode (s : State) : (draw1 s).mode = s.mode := rfl
@[simp] theorem draw1_keeper (s : State) : (draw1 s).keeper = s.keeper := rfl
@[simp] theorem draw1_time (s : State) : (draw1 s).time = s.time := rfl
@[simp] theorem draw1_line (s : State) : (draw1 s).line = s.line := rfl
@[simp] theorem draw1_keys (s : State) : (draw1 s).keys = s.keys := rfl
@[simp] theorem draw1_reasm (s : State) : (draw1 s).reasm = s.reasm := rfl
@[simp] theorem draw1_intc (s : State) : (draw1 s).intc = s.intc := rfl
@[simp] theorem draw1_host (s : State) : (draw1 s).host = s.host := rfl
@[simp] theorem draw1_perf (s : State) : (draw1 s).perf = s.perf := rfl
@[simp] theorem draw1_paces (s : State) : (draw1 s).paces = s.paces := rfl
@[simp] theorem draw1_serial (s : State) : (draw1 s).serial = s.serial := rfl
@[simp] theorem draw1_past (s : State) : (draw1 s).past = s.past := rfl
@[simp] theorem draw1_turns (s : State) : (draw1 s).turns = s.turns := rfl
@[simp] theorem draw1_cistern (s : State) : (draw1 s).cistern = s.cistern := rfl
@[simp] theorem draw1_res (s : State) : (draw1 s).res = s.res := rfl
@[simp] theorem draw1_queues (s : State) : (draw1 s).queues = s.queues := rfl
@[simp] theorem draw1_robins (s : State) : (draw1 s).robins = s.robins := rfl
@[simp] theorem draw1_marks (s : State) : (draw1 s).marks = s.marks := rfl
@[simp] theorem draw1_table (s : State) : (draw1 s).table = s.table := rfl
@[simp] theorem draw1_drovers (s : State) : (draw1 s).drovers = s.drovers := rfl
@[simp] theorem draw1_store (s : State) : (draw1 s).store = s.store := rfl
@[simp] theorem draw1_gate (s : State) : (draw1 s).gate = s.gate := rfl
@[simp] theorem draw1_msgs (s : State) : (draw1 s).msgs = s.msgs := rfl
@[simp] theorem draw1_parser (s : State) : (draw1 s).parser = s.parser := rfl
@[simp] theorem draw1_cls (s : State) : (draw1 s).cls = s.cls := rfl
@[simp] theorem draw1_flights (s : State) : (draw1 s).flights = s.flights := rfl
@[simp] theorem draw1_ghosts (s : State) : (draw1 s).ghosts = s.ghosts := rfl
@[simp] theorem draw1_toQueue (s : State) : (draw1 s).toQueue = s.toQueue := rfl
@[simp] theorem draw1_toPort (s : State) : (draw1 s).toPort = s.toPort := rfl
@[simp] theorem draw1_rings (s : State) : (draw1 s).rings = s.rings := rfl
@[simp] theorem draw1_dmas (s : State) : (draw1 s).dmas = s.dmas := rfl
@[simp] theorem draw1_scans (s : State) : (draw1 s).scans = s.scans := rfl
@[simp] theorem draw1_ports (s : State) : (draw1 s).ports = s.ports := rfl
@[simp] theorem draw1_flash (s : State) : (draw1 s).flash = s.flash := rfl
@[simp] theorem draw1_loader (s : State) : (draw1 s).loader = s.loader := rfl
@[simp] theorem draw1_regs (s : State) : (draw1 s).regs = s.regs := rfl

/-! ### stageLo -/

@[simp] theorem stageLo_pending (s : State) (a : Nat) (v : Word) : (stageLo s a v).pending = s.pending := rfl
@[simp] theorem stageLo_wire (s : State) (a : Nat) (v : Word) : (stageLo s a v).wire = s.wire := rfl
@[simp] theorem stageLo_free (s : State) (a : Nat) (v : Word) : (stageLo s a v).free = s.free := rfl
@[simp] theorem stageLo_now (s : State) (a : Nat) (v : Word) : (stageLo s a v).now = s.now := rfl
@[simp] theorem stageLo_fuses (s : State) (a : Nat) (v : Word) : (stageLo s a v).fuses = s.fuses := rfl
@[simp] theorem stageLo_power (s : State) (a : Nat) (v : Word) : (stageLo s a v).power = s.power := rfl
@[simp] theorem stageLo_mode (s : State) (a : Nat) (v : Word) : (stageLo s a v).mode = s.mode := rfl
@[simp] theorem stageLo_keeper (s : State) (a : Nat) (v : Word) : (stageLo s a v).keeper = s.keeper := rfl
@[simp] theorem stageLo_time (s : State) (a : Nat) (v : Word) : (stageLo s a v).time = s.time := rfl
@[simp] theorem stageLo_line (s : State) (a : Nat) (v : Word) : (stageLo s a v).line = s.line := rfl
@[simp] theorem stageLo_keys (s : State) (a : Nat) (v : Word) : (stageLo s a v).keys = s.keys := rfl
@[simp] theorem stageLo_reasm (s : State) (a : Nat) (v : Word) : (stageLo s a v).reasm = s.reasm := rfl
@[simp] theorem stageLo_intc (s : State) (a : Nat) (v : Word) : (stageLo s a v).intc = s.intc := rfl
@[simp] theorem stageLo_perf (s : State) (a : Nat) (v : Word) : (stageLo s a v).perf = s.perf := rfl
@[simp] theorem stageLo_paces (s : State) (a : Nat) (v : Word) : (stageLo s a v).paces = s.paces := rfl
@[simp] theorem stageLo_serial (s : State) (a : Nat) (v : Word) : (stageLo s a v).serial = s.serial := rfl
@[simp] theorem stageLo_past (s : State) (a : Nat) (v : Word) : (stageLo s a v).past = s.past := rfl
@[simp] theorem stageLo_turns (s : State) (a : Nat) (v : Word) : (stageLo s a v).turns = s.turns := rfl
@[simp] theorem stageLo_cistern (s : State) (a : Nat) (v : Word) : (stageLo s a v).cistern = s.cistern := rfl
@[simp] theorem stageLo_res (s : State) (a : Nat) (v : Word) : (stageLo s a v).res = s.res := rfl
@[simp] theorem stageLo_queues (s : State) (a : Nat) (v : Word) : (stageLo s a v).queues = s.queues := rfl
@[simp] theorem stageLo_robins (s : State) (a : Nat) (v : Word) : (stageLo s a v).robins = s.robins := rfl
@[simp] theorem stageLo_marks (s : State) (a : Nat) (v : Word) : (stageLo s a v).marks = s.marks := rfl
@[simp] theorem stageLo_table (s : State) (a : Nat) (v : Word) : (stageLo s a v).table = s.table := rfl
@[simp] theorem stageLo_drovers (s : State) (a : Nat) (v : Word) : (stageLo s a v).drovers = s.drovers := rfl
@[simp] theorem stageLo_store (s : State) (a : Nat) (v : Word) : (stageLo s a v).store = s.store := rfl
@[simp] theorem stageLo_gate (s : State) (a : Nat) (v : Word) : (stageLo s a v).gate = s.gate := rfl
@[simp] theorem stageLo_msgs (s : State) (a : Nat) (v : Word) : (stageLo s a v).msgs = s.msgs := rfl
@[simp] theorem stageLo_parser (s : State) (a : Nat) (v : Word) : (stageLo s a v).parser = s.parser := rfl
@[simp] theorem stageLo_cls (s : State) (a : Nat) (v : Word) : (stageLo s a v).cls = s.cls := rfl
@[simp] theorem stageLo_flights (s : State) (a : Nat) (v : Word) : (stageLo s a v).flights = s.flights := rfl
@[simp] theorem stageLo_ghosts (s : State) (a : Nat) (v : Word) : (stageLo s a v).ghosts = s.ghosts := rfl
@[simp] theorem stageLo_toQueue (s : State) (a : Nat) (v : Word) : (stageLo s a v).toQueue = s.toQueue := rfl
@[simp] theorem stageLo_toPort (s : State) (a : Nat) (v : Word) : (stageLo s a v).toPort = s.toPort := rfl
@[simp] theorem stageLo_rings (s : State) (a : Nat) (v : Word) : (stageLo s a v).rings = s.rings := rfl
@[simp] theorem stageLo_dmas (s : State) (a : Nat) (v : Word) : (stageLo s a v).dmas = s.dmas := rfl
@[simp] theorem stageLo_scans (s : State) (a : Nat) (v : Word) : (stageLo s a v).scans = s.scans := rfl
@[simp] theorem stageLo_ports (s : State) (a : Nat) (v : Word) : (stageLo s a v).ports = s.ports := rfl
@[simp] theorem stageLo_flash (s : State) (a : Nat) (v : Word) : (stageLo s a v).flash = s.flash := rfl
@[simp] theorem stageLo_loader (s : State) (a : Nat) (v : Word) : (stageLo s a v).loader = s.loader := rfl
@[simp] theorem stageLo_regs (s : State) (a : Nat) (v : Word) : (stageLo s a v).regs = s.regs := rfl

/-! ### setLatch -/

@[simp] theorem setLatch_pending (s : State) (p a : Nat) (v : Word) : (setLatch s p a v).pending = s.pending := rfl
@[simp] theorem setLatch_wire (s : State) (p a : Nat) (v : Word) : (setLatch s p a v).wire = s.wire := rfl
@[simp] theorem setLatch_free (s : State) (p a : Nat) (v : Word) : (setLatch s p a v).free = s.free := rfl
@[simp] theorem setLatch_now (s : State) (p a : Nat) (v : Word) : (setLatch s p a v).now = s.now := rfl
@[simp] theorem setLatch_fuses (s : State) (p a : Nat) (v : Word) : (setLatch s p a v).fuses = s.fuses := rfl
@[simp] theorem setLatch_power (s : State) (p a : Nat) (v : Word) : (setLatch s p a v).power = s.power := rfl
@[simp] theorem setLatch_mode (s : State) (p a : Nat) (v : Word) : (setLatch s p a v).mode = s.mode := rfl
@[simp] theorem setLatch_keeper (s : State) (p a : Nat) (v : Word) : (setLatch s p a v).keeper = s.keeper := rfl
@[simp] theorem setLatch_time (s : State) (p a : Nat) (v : Word) : (setLatch s p a v).time = s.time := rfl
@[simp] theorem setLatch_line (s : State) (p a : Nat) (v : Word) : (setLatch s p a v).line = s.line := rfl
@[simp] theorem setLatch_keys (s : State) (p a : Nat) (v : Word) : (setLatch s p a v).keys = s.keys := rfl
@[simp] theorem setLatch_reasm (s : State) (p a : Nat) (v : Word) : (setLatch s p a v).reasm = s.reasm := rfl
@[simp] theorem setLatch_intc (s : State) (p a : Nat) (v : Word) : (setLatch s p a v).intc = s.intc := rfl
@[simp] theorem setLatch_perf (s : State) (p a : Nat) (v : Word) : (setLatch s p a v).perf = s.perf := rfl
@[simp] theorem setLatch_paces (s : State) (p a : Nat) (v : Word) : (setLatch s p a v).paces = s.paces := rfl
@[simp] theorem setLatch_serial (s : State) (p a : Nat) (v : Word) : (setLatch s p a v).serial = s.serial := rfl
@[simp] theorem setLatch_past (s : State) (p a : Nat) (v : Word) : (setLatch s p a v).past = s.past := rfl
@[simp] theorem setLatch_turns (s : State) (p a : Nat) (v : Word) : (setLatch s p a v).turns = s.turns := rfl
@[simp] theorem setLatch_cistern (s : State) (p a : Nat) (v : Word) : (setLatch s p a v).cistern = s.cistern := rfl
@[simp] theorem setLatch_res (s : State) (p a : Nat) (v : Word) : (setLatch s p a v).res = s.res := rfl
@[simp] theorem setLatch_queues (s : State) (p a : Nat) (v : Word) : (setLatch s p a v).queues = s.queues := rfl
@[simp] theorem setLatch_robins (s : State) (p a : Nat) (v : Word) : (setLatch s p a v).robins = s.robins := rfl
@[simp] theorem setLatch_marks (s : State) (p a : Nat) (v : Word) : (setLatch s p a v).marks = s.marks := rfl
@[simp] theorem setLatch_table (s : State) (p a : Nat) (v : Word) : (setLatch s p a v).table = s.table := rfl
@[simp] theorem setLatch_drovers (s : State) (p a : Nat) (v : Word) : (setLatch s p a v).drovers = s.drovers := rfl
@[simp] theorem setLatch_store (s : State) (p a : Nat) (v : Word) : (setLatch s p a v).store = s.store := rfl
@[simp] theorem setLatch_gate (s : State) (p a : Nat) (v : Word) : (setLatch s p a v).gate = s.gate := rfl
@[simp] theorem setLatch_msgs (s : State) (p a : Nat) (v : Word) : (setLatch s p a v).msgs = s.msgs := rfl
@[simp] theorem setLatch_parser (s : State) (p a : Nat) (v : Word) : (setLatch s p a v).parser = s.parser := rfl
@[simp] theorem setLatch_cls (s : State) (p a : Nat) (v : Word) : (setLatch s p a v).cls = s.cls := rfl
@[simp] theorem setLatch_flights (s : State) (p a : Nat) (v : Word) : (setLatch s p a v).flights = s.flights := rfl
@[simp] theorem setLatch_ghosts (s : State) (p a : Nat) (v : Word) : (setLatch s p a v).ghosts = s.ghosts := rfl
@[simp] theorem setLatch_toQueue (s : State) (p a : Nat) (v : Word) : (setLatch s p a v).toQueue = s.toQueue := rfl
@[simp] theorem setLatch_toPort (s : State) (p a : Nat) (v : Word) : (setLatch s p a v).toPort = s.toPort := rfl
@[simp] theorem setLatch_rings (s : State) (p a : Nat) (v : Word) : (setLatch s p a v).rings = s.rings := rfl
@[simp] theorem setLatch_dmas (s : State) (p a : Nat) (v : Word) : (setLatch s p a v).dmas = s.dmas := rfl
@[simp] theorem setLatch_scans (s : State) (p a : Nat) (v : Word) : (setLatch s p a v).scans = s.scans := rfl
@[simp] theorem setLatch_ports (s : State) (p a : Nat) (v : Word) : (setLatch s p a v).ports = s.ports := rfl
@[simp] theorem setLatch_flash (s : State) (p a : Nat) (v : Word) : (setLatch s p a v).flash = s.flash := rfl
@[simp] theorem setLatch_loader (s : State) (p a : Nat) (v : Word) : (setLatch s p a v).loader = s.loader := rfl
@[simp] theorem setLatch_regs (s : State) (p a : Nat) (v : Word) : (setLatch s p a v).regs = s.regs := rfl

/-! ### setQueue -/

@[simp] theorem setQueue_pending (s : State) (q : Nat) (x : Queue) : (setQueue s q x).pending = s.pending := rfl
@[simp] theorem setQueue_wire (s : State) (q : Nat) (x : Queue) : (setQueue s q x).wire = s.wire := rfl
@[simp] theorem setQueue_free (s : State) (q : Nat) (x : Queue) : (setQueue s q x).free = s.free := rfl
@[simp] theorem setQueue_now (s : State) (q : Nat) (x : Queue) : (setQueue s q x).now = s.now := rfl
@[simp] theorem setQueue_fuses (s : State) (q : Nat) (x : Queue) : (setQueue s q x).fuses = s.fuses := rfl
@[simp] theorem setQueue_power (s : State) (q : Nat) (x : Queue) : (setQueue s q x).power = s.power := rfl
@[simp] theorem setQueue_mode (s : State) (q : Nat) (x : Queue) : (setQueue s q x).mode = s.mode := rfl
@[simp] theorem setQueue_keeper (s : State) (q : Nat) (x : Queue) : (setQueue s q x).keeper = s.keeper := rfl
@[simp] theorem setQueue_time (s : State) (q : Nat) (x : Queue) : (setQueue s q x).time = s.time := rfl
@[simp] theorem setQueue_line (s : State) (q : Nat) (x : Queue) : (setQueue s q x).line = s.line := rfl
@[simp] theorem setQueue_keys (s : State) (q : Nat) (x : Queue) : (setQueue s q x).keys = s.keys := rfl
@[simp] theorem setQueue_reasm (s : State) (q : Nat) (x : Queue) : (setQueue s q x).reasm = s.reasm := rfl
@[simp] theorem setQueue_intc (s : State) (q : Nat) (x : Queue) : (setQueue s q x).intc = s.intc := rfl
@[simp] theorem setQueue_host (s : State) (q : Nat) (x : Queue) : (setQueue s q x).host = s.host := rfl
@[simp] theorem setQueue_perf (s : State) (q : Nat) (x : Queue) : (setQueue s q x).perf = s.perf := rfl
@[simp] theorem setQueue_paces (s : State) (q : Nat) (x : Queue) : (setQueue s q x).paces = s.paces := rfl
@[simp] theorem setQueue_serial (s : State) (q : Nat) (x : Queue) : (setQueue s q x).serial = s.serial := rfl
@[simp] theorem setQueue_past (s : State) (q : Nat) (x : Queue) : (setQueue s q x).past = s.past := rfl
@[simp] theorem setQueue_turns (s : State) (q : Nat) (x : Queue) : (setQueue s q x).turns = s.turns := rfl
@[simp] theorem setQueue_cistern (s : State) (q : Nat) (x : Queue) : (setQueue s q x).cistern = s.cistern := rfl
@[simp] theorem setQueue_res (s : State) (q : Nat) (x : Queue) : (setQueue s q x).res = s.res := rfl
@[simp] theorem setQueue_robins (s : State) (q : Nat) (x : Queue) : (setQueue s q x).robins = s.robins := rfl
@[simp] theorem setQueue_marks (s : State) (q : Nat) (x : Queue) : (setQueue s q x).marks = s.marks := rfl
@[simp] theorem setQueue_table (s : State) (q : Nat) (x : Queue) : (setQueue s q x).table = s.table := rfl
@[simp] theorem setQueue_drovers (s : State) (q : Nat) (x : Queue) : (setQueue s q x).drovers = s.drovers := rfl
@[simp] theorem setQueue_store (s : State) (q : Nat) (x : Queue) : (setQueue s q x).store = s.store := rfl
@[simp] theorem setQueue_gate (s : State) (q : Nat) (x : Queue) : (setQueue s q x).gate = s.gate := rfl
@[simp] theorem setQueue_msgs (s : State) (q : Nat) (x : Queue) : (setQueue s q x).msgs = s.msgs := rfl
@[simp] theorem setQueue_parser (s : State) (q : Nat) (x : Queue) : (setQueue s q x).parser = s.parser := rfl
@[simp] theorem setQueue_cls (s : State) (q : Nat) (x : Queue) : (setQueue s q x).cls = s.cls := rfl
@[simp] theorem setQueue_flights (s : State) (q : Nat) (x : Queue) : (setQueue s q x).flights = s.flights := rfl
@[simp] theorem setQueue_ghosts (s : State) (q : Nat) (x : Queue) : (setQueue s q x).ghosts = s.ghosts := rfl
@[simp] theorem setQueue_toQueue (s : State) (q : Nat) (x : Queue) : (setQueue s q x).toQueue = s.toQueue := rfl
@[simp] theorem setQueue_toPort (s : State) (q : Nat) (x : Queue) : (setQueue s q x).toPort = s.toPort := rfl
@[simp] theorem setQueue_rings (s : State) (q : Nat) (x : Queue) : (setQueue s q x).rings = s.rings := rfl
@[simp] theorem setQueue_dmas (s : State) (q : Nat) (x : Queue) : (setQueue s q x).dmas = s.dmas := rfl
@[simp] theorem setQueue_scans (s : State) (q : Nat) (x : Queue) : (setQueue s q x).scans = s.scans := rfl
@[simp] theorem setQueue_ports (s : State) (q : Nat) (x : Queue) : (setQueue s q x).ports = s.ports := rfl
@[simp] theorem setQueue_flash (s : State) (q : Nat) (x : Queue) : (setQueue s q x).flash = s.flash := rfl
@[simp] theorem setQueue_loader (s : State) (q : Nat) (x : Queue) : (setQueue s q x).loader = s.loader := rfl
@[simp] theorem setQueue_regs (s : State) (q : Nat) (x : Queue) : (setQueue s q x).regs = s.regs := rfl

/-! ### setDrover -/

@[simp] theorem setDrover_pending (s : State) (t : Nat) (x : Drover) : (setDrover s t x).pending = s.pending := rfl
@[simp] theorem setDrover_wire (s : State) (t : Nat) (x : Drover) : (setDrover s t x).wire = s.wire := rfl
@[simp] theorem setDrover_free (s : State) (t : Nat) (x : Drover) : (setDrover s t x).free = s.free := rfl
@[simp] theorem setDrover_now (s : State) (t : Nat) (x : Drover) : (setDrover s t x).now = s.now := rfl
@[simp] theorem setDrover_fuses (s : State) (t : Nat) (x : Drover) : (setDrover s t x).fuses = s.fuses := rfl
@[simp] theorem setDrover_power (s : State) (t : Nat) (x : Drover) : (setDrover s t x).power = s.power := rfl
@[simp] theorem setDrover_mode (s : State) (t : Nat) (x : Drover) : (setDrover s t x).mode = s.mode := rfl
@[simp] theorem setDrover_keeper (s : State) (t : Nat) (x : Drover) : (setDrover s t x).keeper = s.keeper := rfl
@[simp] theorem setDrover_time (s : State) (t : Nat) (x : Drover) : (setDrover s t x).time = s.time := rfl
@[simp] theorem setDrover_line (s : State) (t : Nat) (x : Drover) : (setDrover s t x).line = s.line := rfl
@[simp] theorem setDrover_keys (s : State) (t : Nat) (x : Drover) : (setDrover s t x).keys = s.keys := rfl
@[simp] theorem setDrover_reasm (s : State) (t : Nat) (x : Drover) : (setDrover s t x).reasm = s.reasm := rfl
@[simp] theorem setDrover_intc (s : State) (t : Nat) (x : Drover) : (setDrover s t x).intc = s.intc := rfl
@[simp] theorem setDrover_host (s : State) (t : Nat) (x : Drover) : (setDrover s t x).host = s.host := rfl
@[simp] theorem setDrover_perf (s : State) (t : Nat) (x : Drover) : (setDrover s t x).perf = s.perf := rfl
@[simp] theorem setDrover_paces (s : State) (t : Nat) (x : Drover) : (setDrover s t x).paces = s.paces := rfl
@[simp] theorem setDrover_serial (s : State) (t : Nat) (x : Drover) : (setDrover s t x).serial = s.serial := rfl
@[simp] theorem setDrover_past (s : State) (t : Nat) (x : Drover) : (setDrover s t x).past = s.past := rfl
@[simp] theorem setDrover_turns (s : State) (t : Nat) (x : Drover) : (setDrover s t x).turns = s.turns := rfl
@[simp] theorem setDrover_cistern (s : State) (t : Nat) (x : Drover) : (setDrover s t x).cistern = s.cistern := rfl
@[simp] theorem setDrover_res (s : State) (t : Nat) (x : Drover) : (setDrover s t x).res = s.res := rfl
@[simp] theorem setDrover_queues (s : State) (t : Nat) (x : Drover) : (setDrover s t x).queues = s.queues := rfl
@[simp] theorem setDrover_robins (s : State) (t : Nat) (x : Drover) : (setDrover s t x).robins = s.robins := rfl
@[simp] theorem setDrover_marks (s : State) (t : Nat) (x : Drover) : (setDrover s t x).marks = s.marks := rfl
@[simp] theorem setDrover_table (s : State) (t : Nat) (x : Drover) : (setDrover s t x).table = s.table := rfl
@[simp] theorem setDrover_store (s : State) (t : Nat) (x : Drover) : (setDrover s t x).store = s.store := rfl
@[simp] theorem setDrover_gate (s : State) (t : Nat) (x : Drover) : (setDrover s t x).gate = s.gate := rfl
@[simp] theorem setDrover_msgs (s : State) (t : Nat) (x : Drover) : (setDrover s t x).msgs = s.msgs := rfl
@[simp] theorem setDrover_parser (s : State) (t : Nat) (x : Drover) : (setDrover s t x).parser = s.parser := rfl
@[simp] theorem setDrover_cls (s : State) (t : Nat) (x : Drover) : (setDrover s t x).cls = s.cls := rfl
@[simp] theorem setDrover_flights (s : State) (t : Nat) (x : Drover) : (setDrover s t x).flights = s.flights := rfl
@[simp] theorem setDrover_ghosts (s : State) (t : Nat) (x : Drover) : (setDrover s t x).ghosts = s.ghosts := rfl
@[simp] theorem setDrover_toQueue (s : State) (t : Nat) (x : Drover) : (setDrover s t x).toQueue = s.toQueue := rfl
@[simp] theorem setDrover_toPort (s : State) (t : Nat) (x : Drover) : (setDrover s t x).toPort = s.toPort := rfl
@[simp] theorem setDrover_rings (s : State) (t : Nat) (x : Drover) : (setDrover s t x).rings = s.rings := rfl
@[simp] theorem setDrover_dmas (s : State) (t : Nat) (x : Drover) : (setDrover s t x).dmas = s.dmas := rfl
@[simp] theorem setDrover_scans (s : State) (t : Nat) (x : Drover) : (setDrover s t x).scans = s.scans := rfl
@[simp] theorem setDrover_ports (s : State) (t : Nat) (x : Drover) : (setDrover s t x).ports = s.ports := rfl
@[simp] theorem setDrover_flash (s : State) (t : Nat) (x : Drover) : (setDrover s t x).flash = s.flash := rfl
@[simp] theorem setDrover_loader (s : State) (t : Nat) (x : Drover) : (setDrover s t x).loader = s.loader := rfl
@[simp] theorem setDrover_regs (s : State) (t : Nat) (x : Drover) : (setDrover s t x).regs = s.regs := rfl

/-! ### setScan -/

@[simp] theorem setScan_pending (s : State) (e : Nat) (x : Scan) : (setScan s e x).pending = s.pending := rfl
@[simp] theorem setScan_wire (s : State) (e : Nat) (x : Scan) : (setScan s e x).wire = s.wire := rfl
@[simp] theorem setScan_free (s : State) (e : Nat) (x : Scan) : (setScan s e x).free = s.free := rfl
@[simp] theorem setScan_now (s : State) (e : Nat) (x : Scan) : (setScan s e x).now = s.now := rfl
@[simp] theorem setScan_fuses (s : State) (e : Nat) (x : Scan) : (setScan s e x).fuses = s.fuses := rfl
@[simp] theorem setScan_power (s : State) (e : Nat) (x : Scan) : (setScan s e x).power = s.power := rfl
@[simp] theorem setScan_mode (s : State) (e : Nat) (x : Scan) : (setScan s e x).mode = s.mode := rfl
@[simp] theorem setScan_keeper (s : State) (e : Nat) (x : Scan) : (setScan s e x).keeper = s.keeper := rfl
@[simp] theorem setScan_time (s : State) (e : Nat) (x : Scan) : (setScan s e x).time = s.time := rfl
@[simp] theorem setScan_line (s : State) (e : Nat) (x : Scan) : (setScan s e x).line = s.line := rfl
@[simp] theorem setScan_keys (s : State) (e : Nat) (x : Scan) : (setScan s e x).keys = s.keys := rfl
@[simp] theorem setScan_reasm (s : State) (e : Nat) (x : Scan) : (setScan s e x).reasm = s.reasm := rfl
@[simp] theorem setScan_intc (s : State) (e : Nat) (x : Scan) : (setScan s e x).intc = s.intc := rfl
@[simp] theorem setScan_host (s : State) (e : Nat) (x : Scan) : (setScan s e x).host = s.host := rfl
@[simp] theorem setScan_perf (s : State) (e : Nat) (x : Scan) : (setScan s e x).perf = s.perf := rfl
@[simp] theorem setScan_paces (s : State) (e : Nat) (x : Scan) : (setScan s e x).paces = s.paces := rfl
@[simp] theorem setScan_serial (s : State) (e : Nat) (x : Scan) : (setScan s e x).serial = s.serial := rfl
@[simp] theorem setScan_past (s : State) (e : Nat) (x : Scan) : (setScan s e x).past = s.past := rfl
@[simp] theorem setScan_turns (s : State) (e : Nat) (x : Scan) : (setScan s e x).turns = s.turns := rfl
@[simp] theorem setScan_cistern (s : State) (e : Nat) (x : Scan) : (setScan s e x).cistern = s.cistern := rfl
@[simp] theorem setScan_res (s : State) (e : Nat) (x : Scan) : (setScan s e x).res = s.res := rfl
@[simp] theorem setScan_queues (s : State) (e : Nat) (x : Scan) : (setScan s e x).queues = s.queues := rfl
@[simp] theorem setScan_robins (s : State) (e : Nat) (x : Scan) : (setScan s e x).robins = s.robins := rfl
@[simp] theorem setScan_marks (s : State) (e : Nat) (x : Scan) : (setScan s e x).marks = s.marks := rfl
@[simp] theorem setScan_table (s : State) (e : Nat) (x : Scan) : (setScan s e x).table = s.table := rfl
@[simp] theorem setScan_drovers (s : State) (e : Nat) (x : Scan) : (setScan s e x).drovers = s.drovers := rfl
@[simp] theorem setScan_store (s : State) (e : Nat) (x : Scan) : (setScan s e x).store = s.store := rfl
@[simp] theorem setScan_gate (s : State) (e : Nat) (x : Scan) : (setScan s e x).gate = s.gate := rfl
@[simp] theorem setScan_msgs (s : State) (e : Nat) (x : Scan) : (setScan s e x).msgs = s.msgs := rfl
@[simp] theorem setScan_parser (s : State) (e : Nat) (x : Scan) : (setScan s e x).parser = s.parser := rfl
@[simp] theorem setScan_cls (s : State) (e : Nat) (x : Scan) : (setScan s e x).cls = s.cls := rfl
@[simp] theorem setScan_flights (s : State) (e : Nat) (x : Scan) : (setScan s e x).flights = s.flights := rfl
@[simp] theorem setScan_ghosts (s : State) (e : Nat) (x : Scan) : (setScan s e x).ghosts = s.ghosts := rfl
@[simp] theorem setScan_toQueue (s : State) (e : Nat) (x : Scan) : (setScan s e x).toQueue = s.toQueue := rfl
@[simp] theorem setScan_toPort (s : State) (e : Nat) (x : Scan) : (setScan s e x).toPort = s.toPort := rfl
@[simp] theorem setScan_rings (s : State) (e : Nat) (x : Scan) : (setScan s e x).rings = s.rings := rfl
@[simp] theorem setScan_dmas (s : State) (e : Nat) (x : Scan) : (setScan s e x).dmas = s.dmas := rfl
@[simp] theorem setScan_ports (s : State) (e : Nat) (x : Scan) : (setScan s e x).ports = s.ports := rfl
@[simp] theorem setScan_flash (s : State) (e : Nat) (x : Scan) : (setScan s e x).flash = s.flash := rfl
@[simp] theorem setScan_loader (s : State) (e : Nat) (x : Scan) : (setScan s e x).loader = s.loader := rfl
@[simp] theorem setScan_regs (s : State) (e : Nat) (x : Scan) : (setScan s e x).regs = s.regs := rfl

/-! ### setPort -/

@[simp] theorem setPort_pending (s : State) (p : Nat) (x : Port) : (setPort s p x).pending = s.pending := rfl
@[simp] theorem setPort_wire (s : State) (p : Nat) (x : Port) : (setPort s p x).wire = s.wire := rfl
@[simp] theorem setPort_free (s : State) (p : Nat) (x : Port) : (setPort s p x).free = s.free := rfl
@[simp] theorem setPort_now (s : State) (p : Nat) (x : Port) : (setPort s p x).now = s.now := rfl
@[simp] theorem setPort_fuses (s : State) (p : Nat) (x : Port) : (setPort s p x).fuses = s.fuses := rfl
@[simp] theorem setPort_power (s : State) (p : Nat) (x : Port) : (setPort s p x).power = s.power := rfl
@[simp] theorem setPort_mode (s : State) (p : Nat) (x : Port) : (setPort s p x).mode = s.mode := rfl
@[simp] theorem setPort_keeper (s : State) (p : Nat) (x : Port) : (setPort s p x).keeper = s.keeper := rfl
@[simp] theorem setPort_time (s : State) (p : Nat) (x : Port) : (setPort s p x).time = s.time := rfl
@[simp] theorem setPort_line (s : State) (p : Nat) (x : Port) : (setPort s p x).line = s.line := rfl
@[simp] theorem setPort_keys (s : State) (p : Nat) (x : Port) : (setPort s p x).keys = s.keys := rfl
@[simp] theorem setPort_reasm (s : State) (p : Nat) (x : Port) : (setPort s p x).reasm = s.reasm := rfl
@[simp] theorem setPort_intc (s : State) (p : Nat) (x : Port) : (setPort s p x).intc = s.intc := rfl
@[simp] theorem setPort_host (s : State) (p : Nat) (x : Port) : (setPort s p x).host = s.host := rfl
@[simp] theorem setPort_perf (s : State) (p : Nat) (x : Port) : (setPort s p x).perf = s.perf := rfl
@[simp] theorem setPort_paces (s : State) (p : Nat) (x : Port) : (setPort s p x).paces = s.paces := rfl
@[simp] theorem setPort_serial (s : State) (p : Nat) (x : Port) : (setPort s p x).serial = s.serial := rfl
@[simp] theorem setPort_past (s : State) (p : Nat) (x : Port) : (setPort s p x).past = s.past := rfl
@[simp] theorem setPort_turns (s : State) (p : Nat) (x : Port) : (setPort s p x).turns = s.turns := rfl
@[simp] theorem setPort_cistern (s : State) (p : Nat) (x : Port) : (setPort s p x).cistern = s.cistern := rfl
@[simp] theorem setPort_res (s : State) (p : Nat) (x : Port) : (setPort s p x).res = s.res := rfl
@[simp] theorem setPort_queues (s : State) (p : Nat) (x : Port) : (setPort s p x).queues = s.queues := rfl
@[simp] theorem setPort_robins (s : State) (p : Nat) (x : Port) : (setPort s p x).robins = s.robins := rfl
@[simp] theorem setPort_marks (s : State) (p : Nat) (x : Port) : (setPort s p x).marks = s.marks := rfl
@[simp] theorem setPort_table (s : State) (p : Nat) (x : Port) : (setPort s p x).table = s.table := rfl
@[simp] theorem setPort_drovers (s : State) (p : Nat) (x : Port) : (setPort s p x).drovers = s.drovers := rfl
@[simp] theorem setPort_store (s : State) (p : Nat) (x : Port) : (setPort s p x).store = s.store := rfl
@[simp] theorem setPort_gate (s : State) (p : Nat) (x : Port) : (setPort s p x).gate = s.gate := rfl
@[simp] theorem setPort_msgs (s : State) (p : Nat) (x : Port) : (setPort s p x).msgs = s.msgs := rfl
@[simp] theorem setPort_parser (s : State) (p : Nat) (x : Port) : (setPort s p x).parser = s.parser := rfl
@[simp] theorem setPort_cls (s : State) (p : Nat) (x : Port) : (setPort s p x).cls = s.cls := rfl
@[simp] theorem setPort_flights (s : State) (p : Nat) (x : Port) : (setPort s p x).flights = s.flights := rfl
@[simp] theorem setPort_ghosts (s : State) (p : Nat) (x : Port) : (setPort s p x).ghosts = s.ghosts := rfl
@[simp] theorem setPort_toQueue (s : State) (p : Nat) (x : Port) : (setPort s p x).toQueue = s.toQueue := rfl
@[simp] theorem setPort_toPort (s : State) (p : Nat) (x : Port) : (setPort s p x).toPort = s.toPort := rfl
@[simp] theorem setPort_rings (s : State) (p : Nat) (x : Port) : (setPort s p x).rings = s.rings := rfl
@[simp] theorem setPort_dmas (s : State) (p : Nat) (x : Port) : (setPort s p x).dmas = s.dmas := rfl
@[simp] theorem setPort_scans (s : State) (p : Nat) (x : Port) : (setPort s p x).scans = s.scans := rfl
@[simp] theorem setPort_flash (s : State) (p : Nat) (x : Port) : (setPort s p x).flash = s.flash := rfl
@[simp] theorem setPort_loader (s : State) (p : Nat) (x : Port) : (setPort s p x).loader = s.loader := rfl
@[simp] theorem setPort_regs (s : State) (p : Nat) (x : Port) : (setPort s p x).regs = s.regs := rfl

/-! ### setDma -/

@[simp] theorem setDma_pending (s : State) (c : Nat) (x : Dma) : (setDma s c x).pending = s.pending := rfl
@[simp] theorem setDma_wire (s : State) (c : Nat) (x : Dma) : (setDma s c x).wire = s.wire := rfl
@[simp] theorem setDma_free (s : State) (c : Nat) (x : Dma) : (setDma s c x).free = s.free := rfl
@[simp] theorem setDma_now (s : State) (c : Nat) (x : Dma) : (setDma s c x).now = s.now := rfl
@[simp] theorem setDma_fuses (s : State) (c : Nat) (x : Dma) : (setDma s c x).fuses = s.fuses := rfl
@[simp] theorem setDma_power (s : State) (c : Nat) (x : Dma) : (setDma s c x).power = s.power := rfl
@[simp] theorem setDma_mode (s : State) (c : Nat) (x : Dma) : (setDma s c x).mode = s.mode := rfl
@[simp] theorem setDma_keeper (s : State) (c : Nat) (x : Dma) : (setDma s c x).keeper = s.keeper := rfl
@[simp] theorem setDma_time (s : State) (c : Nat) (x : Dma) : (setDma s c x).time = s.time := rfl
@[simp] theorem setDma_line (s : State) (c : Nat) (x : Dma) : (setDma s c x).line = s.line := rfl
@[simp] theorem setDma_keys (s : State) (c : Nat) (x : Dma) : (setDma s c x).keys = s.keys := rfl
@[simp] theorem setDma_reasm (s : State) (c : Nat) (x : Dma) : (setDma s c x).reasm = s.reasm := rfl
@[simp] theorem setDma_intc (s : State) (c : Nat) (x : Dma) : (setDma s c x).intc = s.intc := rfl
@[simp] theorem setDma_host (s : State) (c : Nat) (x : Dma) : (setDma s c x).host = s.host := rfl
@[simp] theorem setDma_perf (s : State) (c : Nat) (x : Dma) : (setDma s c x).perf = s.perf := rfl
@[simp] theorem setDma_paces (s : State) (c : Nat) (x : Dma) : (setDma s c x).paces = s.paces := rfl
@[simp] theorem setDma_serial (s : State) (c : Nat) (x : Dma) : (setDma s c x).serial = s.serial := rfl
@[simp] theorem setDma_past (s : State) (c : Nat) (x : Dma) : (setDma s c x).past = s.past := rfl
@[simp] theorem setDma_turns (s : State) (c : Nat) (x : Dma) : (setDma s c x).turns = s.turns := rfl
@[simp] theorem setDma_cistern (s : State) (c : Nat) (x : Dma) : (setDma s c x).cistern = s.cistern := rfl
@[simp] theorem setDma_res (s : State) (c : Nat) (x : Dma) : (setDma s c x).res = s.res := rfl
@[simp] theorem setDma_queues (s : State) (c : Nat) (x : Dma) : (setDma s c x).queues = s.queues := rfl
@[simp] theorem setDma_robins (s : State) (c : Nat) (x : Dma) : (setDma s c x).robins = s.robins := rfl
@[simp] theorem setDma_marks (s : State) (c : Nat) (x : Dma) : (setDma s c x).marks = s.marks := rfl
@[simp] theorem setDma_table (s : State) (c : Nat) (x : Dma) : (setDma s c x).table = s.table := rfl
@[simp] theorem setDma_drovers (s : State) (c : Nat) (x : Dma) : (setDma s c x).drovers = s.drovers := rfl
@[simp] theorem setDma_store (s : State) (c : Nat) (x : Dma) : (setDma s c x).store = s.store := rfl
@[simp] theorem setDma_gate (s : State) (c : Nat) (x : Dma) : (setDma s c x).gate = s.gate := rfl
@[simp] theorem setDma_msgs (s : State) (c : Nat) (x : Dma) : (setDma s c x).msgs = s.msgs := rfl
@[simp] theorem setDma_parser (s : State) (c : Nat) (x : Dma) : (setDma s c x).parser = s.parser := rfl
@[simp] theorem setDma_cls (s : State) (c : Nat) (x : Dma) : (setDma s c x).cls = s.cls := rfl
@[simp] theorem setDma_flights (s : State) (c : Nat) (x : Dma) : (setDma s c x).flights = s.flights := rfl
@[simp] theorem setDma_ghosts (s : State) (c : Nat) (x : Dma) : (setDma s c x).ghosts = s.ghosts := rfl
@[simp] theorem setDma_toQueue (s : State) (c : Nat) (x : Dma) : (setDma s c x).toQueue = s.toQueue := rfl
@[simp] theorem setDma_toPort (s : State) (c : Nat) (x : Dma) : (setDma s c x).toPort = s.toPort := rfl
@[simp] theorem setDma_rings (s : State) (c : Nat) (x : Dma) : (setDma s c x).rings = s.rings := rfl
@[simp] theorem setDma_scans (s : State) (c : Nat) (x : Dma) : (setDma s c x).scans = s.scans := rfl
@[simp] theorem setDma_ports (s : State) (c : Nat) (x : Dma) : (setDma s c x).ports = s.ports := rfl
@[simp] theorem setDma_flash (s : State) (c : Nat) (x : Dma) : (setDma s c x).flash = s.flash := rfl
@[simp] theorem setDma_loader (s : State) (c : Nat) (x : Dma) : (setDma s c x).loader = s.loader := rfl
@[simp] theorem setDma_regs (s : State) (c : Nat) (x : Dma) : (setDma s c x).regs = s.regs := rfl

/-! ### setRing -/

@[simp] theorem setRing_pending (s : State) (rx : Bool) (r : Nat) (x : Ring) : (setRing s rx r x).pending = s.pending := rfl
@[simp] theorem setRing_wire (s : State) (rx : Bool) (r : Nat) (x : Ring) : (setRing s rx r x).wire = s.wire := rfl
@[simp] theorem setRing_free (s : State) (rx : Bool) (r : Nat) (x : Ring) : (setRing s rx r x).free = s.free := rfl
@[simp] theorem setRing_now (s : State) (rx : Bool) (r : Nat) (x : Ring) : (setRing s rx r x).now = s.now := rfl
@[simp] theorem setRing_fuses (s : State) (rx : Bool) (r : Nat) (x : Ring) : (setRing s rx r x).fuses = s.fuses := rfl
@[simp] theorem setRing_power (s : State) (rx : Bool) (r : Nat) (x : Ring) : (setRing s rx r x).power = s.power := rfl
@[simp] theorem setRing_mode (s : State) (rx : Bool) (r : Nat) (x : Ring) : (setRing s rx r x).mode = s.mode := rfl
@[simp] theorem setRing_keeper (s : State) (rx : Bool) (r : Nat) (x : Ring) : (setRing s rx r x).keeper = s.keeper := rfl
@[simp] theorem setRing_time (s : State) (rx : Bool) (r : Nat) (x : Ring) : (setRing s rx r x).time = s.time := rfl
@[simp] theorem setRing_line (s : State) (rx : Bool) (r : Nat) (x : Ring) : (setRing s rx r x).line = s.line := rfl
@[simp] theorem setRing_keys (s : State) (rx : Bool) (r : Nat) (x : Ring) : (setRing s rx r x).keys = s.keys := rfl
@[simp] theorem setRing_reasm (s : State) (rx : Bool) (r : Nat) (x : Ring) : (setRing s rx r x).reasm = s.reasm := rfl
@[simp] theorem setRing_intc (s : State) (rx : Bool) (r : Nat) (x : Ring) : (setRing s rx r x).intc = s.intc := rfl
@[simp] theorem setRing_host (s : State) (rx : Bool) (r : Nat) (x : Ring) : (setRing s rx r x).host = s.host := rfl
@[simp] theorem setRing_perf (s : State) (rx : Bool) (r : Nat) (x : Ring) : (setRing s rx r x).perf = s.perf := rfl
@[simp] theorem setRing_paces (s : State) (rx : Bool) (r : Nat) (x : Ring) : (setRing s rx r x).paces = s.paces := rfl
@[simp] theorem setRing_serial (s : State) (rx : Bool) (r : Nat) (x : Ring) : (setRing s rx r x).serial = s.serial := rfl
@[simp] theorem setRing_past (s : State) (rx : Bool) (r : Nat) (x : Ring) : (setRing s rx r x).past = s.past := rfl
@[simp] theorem setRing_turns (s : State) (rx : Bool) (r : Nat) (x : Ring) : (setRing s rx r x).turns = s.turns := rfl
@[simp] theorem setRing_cistern (s : State) (rx : Bool) (r : Nat) (x : Ring) : (setRing s rx r x).cistern = s.cistern := rfl
@[simp] theorem setRing_res (s : State) (rx : Bool) (r : Nat) (x : Ring) : (setRing s rx r x).res = s.res := rfl
@[simp] theorem setRing_queues (s : State) (rx : Bool) (r : Nat) (x : Ring) : (setRing s rx r x).queues = s.queues := rfl
@[simp] theorem setRing_robins (s : State) (rx : Bool) (r : Nat) (x : Ring) : (setRing s rx r x).robins = s.robins := rfl
@[simp] theorem setRing_marks (s : State) (rx : Bool) (r : Nat) (x : Ring) : (setRing s rx r x).marks = s.marks := rfl
@[simp] theorem setRing_table (s : State) (rx : Bool) (r : Nat) (x : Ring) : (setRing s rx r x).table = s.table := rfl
@[simp] theorem setRing_drovers (s : State) (rx : Bool) (r : Nat) (x : Ring) : (setRing s rx r x).drovers = s.drovers := rfl
@[simp] theorem setRing_store (s : State) (rx : Bool) (r : Nat) (x : Ring) : (setRing s rx r x).store = s.store := rfl
@[simp] theorem setRing_gate (s : State) (rx : Bool) (r : Nat) (x : Ring) : (setRing s rx r x).gate = s.gate := rfl
@[simp] theorem setRing_msgs (s : State) (rx : Bool) (r : Nat) (x : Ring) : (setRing s rx r x).msgs = s.msgs := rfl
@[simp] theorem setRing_parser (s : State) (rx : Bool) (r : Nat) (x : Ring) : (setRing s rx r x).parser = s.parser := rfl
@[simp] theorem setRing_cls (s : State) (rx : Bool) (r : Nat) (x : Ring) : (setRing s rx r x).cls = s.cls := rfl
@[simp] theorem setRing_flights (s : State) (rx : Bool) (r : Nat) (x : Ring) : (setRing s rx r x).flights = s.flights := rfl
@[simp] theorem setRing_ghosts (s : State) (rx : Bool) (r : Nat) (x : Ring) : (setRing s rx r x).ghosts = s.ghosts := rfl
@[simp] theorem setRing_toQueue (s : State) (rx : Bool) (r : Nat) (x : Ring) : (setRing s rx r x).toQueue = s.toQueue := rfl
@[simp] theorem setRing_toPort (s : State) (rx : Bool) (r : Nat) (x : Ring) : (setRing s rx r x).toPort = s.toPort := rfl
@[simp] theorem setRing_dmas (s : State) (rx : Bool) (r : Nat) (x : Ring) : (setRing s rx r x).dmas = s.dmas := rfl
@[simp] theorem setRing_scans (s : State) (rx : Bool) (r : Nat) (x : Ring) : (setRing s rx r x).scans = s.scans := rfl
@[simp] theorem setRing_ports (s : State) (rx : Bool) (r : Nat) (x : Ring) : (setRing s rx r x).ports = s.ports := rfl
@[simp] theorem setRing_flash (s : State) (rx : Bool) (r : Nat) (x : Ring) : (setRing s rx r x).flash = s.flash := rfl
@[simp] theorem setRing_loader (s : State) (rx : Bool) (r : Nat) (x : Ring) : (setRing s rx r x).loader = s.loader := rfl
@[simp] theorem setRing_regs (s : State) (rx : Bool) (r : Nat) (x : Ring) : (setRing s rx r x).regs = s.regs := rfl

/-! ### setChan -/

@[simp] theorem setChan_pending (s : State) (c : Nat) (x : Channel) : (setChan s c x).pending = s.pending := rfl
@[simp] theorem setChan_wire (s : State) (c : Nat) (x : Channel) : (setChan s c x).wire = s.wire := rfl
@[simp] theorem setChan_free (s : State) (c : Nat) (x : Channel) : (setChan s c x).free = s.free := rfl
@[simp] theorem setChan_now (s : State) (c : Nat) (x : Channel) : (setChan s c x).now = s.now := rfl
@[simp] theorem setChan_fuses (s : State) (c : Nat) (x : Channel) : (setChan s c x).fuses = s.fuses := rfl
@[simp] theorem setChan_power (s : State) (c : Nat) (x : Channel) : (setChan s c x).power = s.power := rfl
@[simp] theorem setChan_mode (s : State) (c : Nat) (x : Channel) : (setChan s c x).mode = s.mode := rfl
@[simp] theorem setChan_keeper (s : State) (c : Nat) (x : Channel) : (setChan s c x).keeper = s.keeper := rfl
@[simp] theorem setChan_time (s : State) (c : Nat) (x : Channel) : (setChan s c x).time = s.time := rfl
@[simp] theorem setChan_line (s : State) (c : Nat) (x : Channel) : (setChan s c x).line = s.line := rfl
@[simp] theorem setChan_keys (s : State) (c : Nat) (x : Channel) : (setChan s c x).keys = s.keys := rfl
@[simp] theorem setChan_reasm (s : State) (c : Nat) (x : Channel) : (setChan s c x).reasm = s.reasm := rfl
@[simp] theorem setChan_intc (s : State) (c : Nat) (x : Channel) : (setChan s c x).intc = s.intc := rfl
@[simp] theorem setChan_host (s : State) (c : Nat) (x : Channel) : (setChan s c x).host = s.host := rfl
@[simp] theorem setChan_perf (s : State) (c : Nat) (x : Channel) : (setChan s c x).perf = s.perf := rfl
@[simp] theorem setChan_paces (s : State) (c : Nat) (x : Channel) : (setChan s c x).paces = s.paces := rfl
@[simp] theorem setChan_serial (s : State) (c : Nat) (x : Channel) : (setChan s c x).serial = s.serial := rfl
@[simp] theorem setChan_past (s : State) (c : Nat) (x : Channel) : (setChan s c x).past = s.past := rfl
@[simp] theorem setChan_turns (s : State) (c : Nat) (x : Channel) : (setChan s c x).turns = s.turns := rfl
@[simp] theorem setChan_cistern (s : State) (c : Nat) (x : Channel) : (setChan s c x).cistern = s.cistern := rfl
@[simp] theorem setChan_queues (s : State) (c : Nat) (x : Channel) : (setChan s c x).queues = s.queues := rfl
@[simp] theorem setChan_robins (s : State) (c : Nat) (x : Channel) : (setChan s c x).robins = s.robins := rfl
@[simp] theorem setChan_marks (s : State) (c : Nat) (x : Channel) : (setChan s c x).marks = s.marks := rfl
@[simp] theorem setChan_table (s : State) (c : Nat) (x : Channel) : (setChan s c x).table = s.table := rfl
@[simp] theorem setChan_drovers (s : State) (c : Nat) (x : Channel) : (setChan s c x).drovers = s.drovers := rfl
@[simp] theorem setChan_store (s : State) (c : Nat) (x : Channel) : (setChan s c x).store = s.store := rfl
@[simp] theorem setChan_gate (s : State) (c : Nat) (x : Channel) : (setChan s c x).gate = s.gate := rfl
@[simp] theorem setChan_msgs (s : State) (c : Nat) (x : Channel) : (setChan s c x).msgs = s.msgs := rfl
@[simp] theorem setChan_parser (s : State) (c : Nat) (x : Channel) : (setChan s c x).parser = s.parser := rfl
@[simp] theorem setChan_cls (s : State) (c : Nat) (x : Channel) : (setChan s c x).cls = s.cls := rfl
@[simp] theorem setChan_flights (s : State) (c : Nat) (x : Channel) : (setChan s c x).flights = s.flights := rfl
@[simp] theorem setChan_ghosts (s : State) (c : Nat) (x : Channel) : (setChan s c x).ghosts = s.ghosts := rfl
@[simp] theorem setChan_toQueue (s : State) (c : Nat) (x : Channel) : (setChan s c x).toQueue = s.toQueue := rfl
@[simp] theorem setChan_toPort (s : State) (c : Nat) (x : Channel) : (setChan s c x).toPort = s.toPort := rfl
@[simp] theorem setChan_rings (s : State) (c : Nat) (x : Channel) : (setChan s c x).rings = s.rings := rfl
@[simp] theorem setChan_dmas (s : State) (c : Nat) (x : Channel) : (setChan s c x).dmas = s.dmas := rfl
@[simp] theorem setChan_scans (s : State) (c : Nat) (x : Channel) : (setChan s c x).scans = s.scans := rfl
@[simp] theorem setChan_ports (s : State) (c : Nat) (x : Channel) : (setChan s c x).ports = s.ports := rfl
@[simp] theorem setChan_flash (s : State) (c : Nat) (x : Channel) : (setChan s c x).flash = s.flash := rfl
@[simp] theorem setChan_loader (s : State) (c : Nat) (x : Channel) : (setChan s c x).loader = s.loader := rfl
@[simp] theorem setChan_regs (s : State) (c : Nat) (x : Channel) : (setChan s c x).regs = s.regs := rfl

/-! ### setSlot -/

@[simp] theorem setSlot_pending (s : State) (k : Nat) (x : RuleSlot) : (setSlot s k x).pending = s.pending := rfl
@[simp] theorem setSlot_wire (s : State) (k : Nat) (x : RuleSlot) : (setSlot s k x).wire = s.wire := rfl
@[simp] theorem setSlot_free (s : State) (k : Nat) (x : RuleSlot) : (setSlot s k x).free = s.free := rfl
@[simp] theorem setSlot_now (s : State) (k : Nat) (x : RuleSlot) : (setSlot s k x).now = s.now := rfl
@[simp] theorem setSlot_fuses (s : State) (k : Nat) (x : RuleSlot) : (setSlot s k x).fuses = s.fuses := rfl
@[simp] theorem setSlot_power (s : State) (k : Nat) (x : RuleSlot) : (setSlot s k x).power = s.power := rfl
@[simp] theorem setSlot_mode (s : State) (k : Nat) (x : RuleSlot) : (setSlot s k x).mode = s.mode := rfl
@[simp] theorem setSlot_keeper (s : State) (k : Nat) (x : RuleSlot) : (setSlot s k x).keeper = s.keeper := rfl
@[simp] theorem setSlot_time (s : State) (k : Nat) (x : RuleSlot) : (setSlot s k x).time = s.time := rfl
@[simp] theorem setSlot_line (s : State) (k : Nat) (x : RuleSlot) : (setSlot s k x).line = s.line := rfl
@[simp] theorem setSlot_keys (s : State) (k : Nat) (x : RuleSlot) : (setSlot s k x).keys = s.keys := rfl
@[simp] theorem setSlot_reasm (s : State) (k : Nat) (x : RuleSlot) : (setSlot s k x).reasm = s.reasm := rfl
@[simp] theorem setSlot_intc (s : State) (k : Nat) (x : RuleSlot) : (setSlot s k x).intc = s.intc := rfl
@[simp] theorem setSlot_host (s : State) (k : Nat) (x : RuleSlot) : (setSlot s k x).host = s.host := rfl
@[simp] theorem setSlot_perf (s : State) (k : Nat) (x : RuleSlot) : (setSlot s k x).perf = s.perf := rfl
@[simp] theorem setSlot_paces (s : State) (k : Nat) (x : RuleSlot) : (setSlot s k x).paces = s.paces := rfl
@[simp] theorem setSlot_serial (s : State) (k : Nat) (x : RuleSlot) : (setSlot s k x).serial = s.serial := rfl
@[simp] theorem setSlot_past (s : State) (k : Nat) (x : RuleSlot) : (setSlot s k x).past = s.past := rfl
@[simp] theorem setSlot_turns (s : State) (k : Nat) (x : RuleSlot) : (setSlot s k x).turns = s.turns := rfl
@[simp] theorem setSlot_cistern (s : State) (k : Nat) (x : RuleSlot) : (setSlot s k x).cistern = s.cistern := rfl
@[simp] theorem setSlot_res (s : State) (k : Nat) (x : RuleSlot) : (setSlot s k x).res = s.res := rfl
@[simp] theorem setSlot_queues (s : State) (k : Nat) (x : RuleSlot) : (setSlot s k x).queues = s.queues := rfl
@[simp] theorem setSlot_robins (s : State) (k : Nat) (x : RuleSlot) : (setSlot s k x).robins = s.robins := rfl
@[simp] theorem setSlot_marks (s : State) (k : Nat) (x : RuleSlot) : (setSlot s k x).marks = s.marks := rfl
@[simp] theorem setSlot_table (s : State) (k : Nat) (x : RuleSlot) : (setSlot s k x).table = s.table := rfl
@[simp] theorem setSlot_drovers (s : State) (k : Nat) (x : RuleSlot) : (setSlot s k x).drovers = s.drovers := rfl
@[simp] theorem setSlot_store (s : State) (k : Nat) (x : RuleSlot) : (setSlot s k x).store = s.store := rfl
@[simp] theorem setSlot_gate (s : State) (k : Nat) (x : RuleSlot) : (setSlot s k x).gate = s.gate := rfl
@[simp] theorem setSlot_msgs (s : State) (k : Nat) (x : RuleSlot) : (setSlot s k x).msgs = s.msgs := rfl
@[simp] theorem setSlot_parser (s : State) (k : Nat) (x : RuleSlot) : (setSlot s k x).parser = s.parser := rfl
@[simp] theorem setSlot_flights (s : State) (k : Nat) (x : RuleSlot) : (setSlot s k x).flights = s.flights := rfl
@[simp] theorem setSlot_ghosts (s : State) (k : Nat) (x : RuleSlot) : (setSlot s k x).ghosts = s.ghosts := rfl
@[simp] theorem setSlot_toQueue (s : State) (k : Nat) (x : RuleSlot) : (setSlot s k x).toQueue = s.toQueue := rfl
@[simp] theorem setSlot_toPort (s : State) (k : Nat) (x : RuleSlot) : (setSlot s k x).toPort = s.toPort := rfl
@[simp] theorem setSlot_rings (s : State) (k : Nat) (x : RuleSlot) : (setSlot s k x).rings = s.rings := rfl
@[simp] theorem setSlot_dmas (s : State) (k : Nat) (x : RuleSlot) : (setSlot s k x).dmas = s.dmas := rfl
@[simp] theorem setSlot_scans (s : State) (k : Nat) (x : RuleSlot) : (setSlot s k x).scans = s.scans := rfl
@[simp] theorem setSlot_ports (s : State) (k : Nat) (x : RuleSlot) : (setSlot s k x).ports = s.ports := rfl
@[simp] theorem setSlot_flash (s : State) (k : Nat) (x : RuleSlot) : (setSlot s k x).flash = s.flash := rfl
@[simp] theorem setSlot_loader (s : State) (k : Nat) (x : RuleSlot) : (setSlot s k x).loader = s.loader := rfl
@[simp] theorem setSlot_regs (s : State) (k : Nat) (x : RuleSlot) : (setSlot s k x).regs = s.regs := rfl

/-! ### setBucket -/

@[simp] theorem setBucket_pending (s : State) (n level : Nat) : (setBucket s n level).pending = s.pending := rfl
@[simp] theorem setBucket_wire (s : State) (n level : Nat) : (setBucket s n level).wire = s.wire := rfl
@[simp] theorem setBucket_free (s : State) (n level : Nat) : (setBucket s n level).free = s.free := rfl
@[simp] theorem setBucket_now (s : State) (n level : Nat) : (setBucket s n level).now = s.now := rfl
@[simp] theorem setBucket_fuses (s : State) (n level : Nat) : (setBucket s n level).fuses = s.fuses := rfl
@[simp] theorem setBucket_power (s : State) (n level : Nat) : (setBucket s n level).power = s.power := rfl
@[simp] theorem setBucket_mode (s : State) (n level : Nat) : (setBucket s n level).mode = s.mode := rfl
@[simp] theorem setBucket_keeper (s : State) (n level : Nat) : (setBucket s n level).keeper = s.keeper := rfl
@[simp] theorem setBucket_time (s : State) (n level : Nat) : (setBucket s n level).time = s.time := rfl
@[simp] theorem setBucket_line (s : State) (n level : Nat) : (setBucket s n level).line = s.line := rfl
@[simp] theorem setBucket_keys (s : State) (n level : Nat) : (setBucket s n level).keys = s.keys := rfl
@[simp] theorem setBucket_reasm (s : State) (n level : Nat) : (setBucket s n level).reasm = s.reasm := rfl
@[simp] theorem setBucket_intc (s : State) (n level : Nat) : (setBucket s n level).intc = s.intc := rfl
@[simp] theorem setBucket_host (s : State) (n level : Nat) : (setBucket s n level).host = s.host := rfl
@[simp] theorem setBucket_perf (s : State) (n level : Nat) : (setBucket s n level).perf = s.perf := rfl
@[simp] theorem setBucket_paces (s : State) (n level : Nat) : (setBucket s n level).paces = s.paces := rfl
@[simp] theorem setBucket_serial (s : State) (n level : Nat) : (setBucket s n level).serial = s.serial := rfl
@[simp] theorem setBucket_past (s : State) (n level : Nat) : (setBucket s n level).past = s.past := rfl
@[simp] theorem setBucket_turns (s : State) (n level : Nat) : (setBucket s n level).turns = s.turns := rfl
@[simp] theorem setBucket_cistern (s : State) (n level : Nat) : (setBucket s n level).cistern = s.cistern := rfl
@[simp] theorem setBucket_res (s : State) (n level : Nat) : (setBucket s n level).res = s.res := rfl
@[simp] theorem setBucket_queues (s : State) (n level : Nat) : (setBucket s n level).queues = s.queues := rfl
@[simp] theorem setBucket_robins (s : State) (n level : Nat) : (setBucket s n level).robins = s.robins := rfl
@[simp] theorem setBucket_marks (s : State) (n level : Nat) : (setBucket s n level).marks = s.marks := rfl
@[simp] theorem setBucket_table (s : State) (n level : Nat) : (setBucket s n level).table = s.table := rfl
@[simp] theorem setBucket_drovers (s : State) (n level : Nat) : (setBucket s n level).drovers = s.drovers := rfl
@[simp] theorem setBucket_store (s : State) (n level : Nat) : (setBucket s n level).store = s.store := rfl
@[simp] theorem setBucket_gate (s : State) (n level : Nat) : (setBucket s n level).gate = s.gate := rfl
@[simp] theorem setBucket_msgs (s : State) (n level : Nat) : (setBucket s n level).msgs = s.msgs := rfl
@[simp] theorem setBucket_parser (s : State) (n level : Nat) : (setBucket s n level).parser = s.parser := rfl
@[simp] theorem setBucket_flights (s : State) (n level : Nat) : (setBucket s n level).flights = s.flights := rfl
@[simp] theorem setBucket_ghosts (s : State) (n level : Nat) : (setBucket s n level).ghosts = s.ghosts := rfl
@[simp] theorem setBucket_toQueue (s : State) (n level : Nat) : (setBucket s n level).toQueue = s.toQueue := rfl
@[simp] theorem setBucket_toPort (s : State) (n level : Nat) : (setBucket s n level).toPort = s.toPort := rfl
@[simp] theorem setBucket_rings (s : State) (n level : Nat) : (setBucket s n level).rings = s.rings := rfl
@[simp] theorem setBucket_dmas (s : State) (n level : Nat) : (setBucket s n level).dmas = s.dmas := rfl
@[simp] theorem setBucket_scans (s : State) (n level : Nat) : (setBucket s n level).scans = s.scans := rfl
@[simp] theorem setBucket_ports (s : State) (n level : Nat) : (setBucket s n level).ports = s.ports := rfl
@[simp] theorem setBucket_flash (s : State) (n level : Nat) : (setBucket s n level).flash = s.flash := rfl
@[simp] theorem setBucket_loader (s : State) (n level : Nat) : (setBucket s n level).loader = s.loader := rfl
@[simp] theorem setBucket_regs (s : State) (n level : Nat) : (setBucket s n level).regs = s.regs := rfl

/-! ### setPace -/

@[simp] theorem setPace_pending (s : State) (t : Nat) (x : Pace) : (setPace s t x).pending = s.pending := rfl
@[simp] theorem setPace_wire (s : State) (t : Nat) (x : Pace) : (setPace s t x).wire = s.wire := rfl
@[simp] theorem setPace_free (s : State) (t : Nat) (x : Pace) : (setPace s t x).free = s.free := rfl
@[simp] theorem setPace_now (s : State) (t : Nat) (x : Pace) : (setPace s t x).now = s.now := rfl
@[simp] theorem setPace_fuses (s : State) (t : Nat) (x : Pace) : (setPace s t x).fuses = s.fuses := rfl
@[simp] theorem setPace_power (s : State) (t : Nat) (x : Pace) : (setPace s t x).power = s.power := rfl
@[simp] theorem setPace_mode (s : State) (t : Nat) (x : Pace) : (setPace s t x).mode = s.mode := rfl
@[simp] theorem setPace_keeper (s : State) (t : Nat) (x : Pace) : (setPace s t x).keeper = s.keeper := rfl
@[simp] theorem setPace_time (s : State) (t : Nat) (x : Pace) : (setPace s t x).time = s.time := rfl
@[simp] theorem setPace_line (s : State) (t : Nat) (x : Pace) : (setPace s t x).line = s.line := rfl
@[simp] theorem setPace_keys (s : State) (t : Nat) (x : Pace) : (setPace s t x).keys = s.keys := rfl
@[simp] theorem setPace_reasm (s : State) (t : Nat) (x : Pace) : (setPace s t x).reasm = s.reasm := rfl
@[simp] theorem setPace_intc (s : State) (t : Nat) (x : Pace) : (setPace s t x).intc = s.intc := rfl
@[simp] theorem setPace_host (s : State) (t : Nat) (x : Pace) : (setPace s t x).host = s.host := rfl
@[simp] theorem setPace_perf (s : State) (t : Nat) (x : Pace) : (setPace s t x).perf = s.perf := rfl
@[simp] theorem setPace_serial (s : State) (t : Nat) (x : Pace) : (setPace s t x).serial = s.serial := rfl
@[simp] theorem setPace_past (s : State) (t : Nat) (x : Pace) : (setPace s t x).past = s.past := rfl
@[simp] theorem setPace_turns (s : State) (t : Nat) (x : Pace) : (setPace s t x).turns = s.turns := rfl
@[simp] theorem setPace_cistern (s : State) (t : Nat) (x : Pace) : (setPace s t x).cistern = s.cistern := rfl
@[simp] theorem setPace_res (s : State) (t : Nat) (x : Pace) : (setPace s t x).res = s.res := rfl
@[simp] theorem setPace_queues (s : State) (t : Nat) (x : Pace) : (setPace s t x).queues = s.queues := rfl
@[simp] theorem setPace_robins (s : State) (t : Nat) (x : Pace) : (setPace s t x).robins = s.robins := rfl
@[simp] theorem setPace_marks (s : State) (t : Nat) (x : Pace) : (setPace s t x).marks = s.marks := rfl
@[simp] theorem setPace_table (s : State) (t : Nat) (x : Pace) : (setPace s t x).table = s.table := rfl
@[simp] theorem setPace_drovers (s : State) (t : Nat) (x : Pace) : (setPace s t x).drovers = s.drovers := rfl
@[simp] theorem setPace_store (s : State) (t : Nat) (x : Pace) : (setPace s t x).store = s.store := rfl
@[simp] theorem setPace_gate (s : State) (t : Nat) (x : Pace) : (setPace s t x).gate = s.gate := rfl
@[simp] theorem setPace_msgs (s : State) (t : Nat) (x : Pace) : (setPace s t x).msgs = s.msgs := rfl
@[simp] theorem setPace_parser (s : State) (t : Nat) (x : Pace) : (setPace s t x).parser = s.parser := rfl
@[simp] theorem setPace_cls (s : State) (t : Nat) (x : Pace) : (setPace s t x).cls = s.cls := rfl
@[simp] theorem setPace_flights (s : State) (t : Nat) (x : Pace) : (setPace s t x).flights = s.flights := rfl
@[simp] theorem setPace_ghosts (s : State) (t : Nat) (x : Pace) : (setPace s t x).ghosts = s.ghosts := rfl
@[simp] theorem setPace_toQueue (s : State) (t : Nat) (x : Pace) : (setPace s t x).toQueue = s.toQueue := rfl
@[simp] theorem setPace_toPort (s : State) (t : Nat) (x : Pace) : (setPace s t x).toPort = s.toPort := rfl
@[simp] theorem setPace_rings (s : State) (t : Nat) (x : Pace) : (setPace s t x).rings = s.rings := rfl
@[simp] theorem setPace_dmas (s : State) (t : Nat) (x : Pace) : (setPace s t x).dmas = s.dmas := rfl
@[simp] theorem setPace_scans (s : State) (t : Nat) (x : Pace) : (setPace s t x).scans = s.scans := rfl
@[simp] theorem setPace_ports (s : State) (t : Nat) (x : Pace) : (setPace s t x).ports = s.ports := rfl
@[simp] theorem setPace_flash (s : State) (t : Nat) (x : Pace) : (setPace s t x).flash = s.flash := rfl
@[simp] theorem setPace_loader (s : State) (t : Nat) (x : Pace) : (setPace s t x).loader = s.loader := rfl
@[simp] theorem setPace_regs (s : State) (t : Nat) (x : Pace) : (setPace s t x).regs = s.regs := rfl

/-! ### setLane -/

@[simp] theorem setLane_pending (s : State) (l : Nat) (x : Lane) : (setLane s l x).pending = s.pending := rfl
@[simp] theorem setLane_wire (s : State) (l : Nat) (x : Lane) : (setLane s l x).wire = s.wire := rfl
@[simp] theorem setLane_free (s : State) (l : Nat) (x : Lane) : (setLane s l x).free = s.free := rfl
@[simp] theorem setLane_now (s : State) (l : Nat) (x : Lane) : (setLane s l x).now = s.now := rfl
@[simp] theorem setLane_fuses (s : State) (l : Nat) (x : Lane) : (setLane s l x).fuses = s.fuses := rfl
@[simp] theorem setLane_power (s : State) (l : Nat) (x : Lane) : (setLane s l x).power = s.power := rfl
@[simp] theorem setLane_mode (s : State) (l : Nat) (x : Lane) : (setLane s l x).mode = s.mode := rfl
@[simp] theorem setLane_keeper (s : State) (l : Nat) (x : Lane) : (setLane s l x).keeper = s.keeper := rfl
@[simp] theorem setLane_time (s : State) (l : Nat) (x : Lane) : (setLane s l x).time = s.time := rfl
@[simp] theorem setLane_keys (s : State) (l : Nat) (x : Lane) : (setLane s l x).keys = s.keys := rfl
@[simp] theorem setLane_reasm (s : State) (l : Nat) (x : Lane) : (setLane s l x).reasm = s.reasm := rfl
@[simp] theorem setLane_intc (s : State) (l : Nat) (x : Lane) : (setLane s l x).intc = s.intc := rfl
@[simp] theorem setLane_host (s : State) (l : Nat) (x : Lane) : (setLane s l x).host = s.host := rfl
@[simp] theorem setLane_perf (s : State) (l : Nat) (x : Lane) : (setLane s l x).perf = s.perf := rfl
@[simp] theorem setLane_paces (s : State) (l : Nat) (x : Lane) : (setLane s l x).paces = s.paces := rfl
@[simp] theorem setLane_serial (s : State) (l : Nat) (x : Lane) : (setLane s l x).serial = s.serial := rfl
@[simp] theorem setLane_past (s : State) (l : Nat) (x : Lane) : (setLane s l x).past = s.past := rfl
@[simp] theorem setLane_turns (s : State) (l : Nat) (x : Lane) : (setLane s l x).turns = s.turns := rfl
@[simp] theorem setLane_cistern (s : State) (l : Nat) (x : Lane) : (setLane s l x).cistern = s.cistern := rfl
@[simp] theorem setLane_res (s : State) (l : Nat) (x : Lane) : (setLane s l x).res = s.res := rfl
@[simp] theorem setLane_queues (s : State) (l : Nat) (x : Lane) : (setLane s l x).queues = s.queues := rfl
@[simp] theorem setLane_robins (s : State) (l : Nat) (x : Lane) : (setLane s l x).robins = s.robins := rfl
@[simp] theorem setLane_marks (s : State) (l : Nat) (x : Lane) : (setLane s l x).marks = s.marks := rfl
@[simp] theorem setLane_table (s : State) (l : Nat) (x : Lane) : (setLane s l x).table = s.table := rfl
@[simp] theorem setLane_drovers (s : State) (l : Nat) (x : Lane) : (setLane s l x).drovers = s.drovers := rfl
@[simp] theorem setLane_store (s : State) (l : Nat) (x : Lane) : (setLane s l x).store = s.store := rfl
@[simp] theorem setLane_gate (s : State) (l : Nat) (x : Lane) : (setLane s l x).gate = s.gate := rfl
@[simp] theorem setLane_msgs (s : State) (l : Nat) (x : Lane) : (setLane s l x).msgs = s.msgs := rfl
@[simp] theorem setLane_parser (s : State) (l : Nat) (x : Lane) : (setLane s l x).parser = s.parser := rfl
@[simp] theorem setLane_cls (s : State) (l : Nat) (x : Lane) : (setLane s l x).cls = s.cls := rfl
@[simp] theorem setLane_flights (s : State) (l : Nat) (x : Lane) : (setLane s l x).flights = s.flights := rfl
@[simp] theorem setLane_ghosts (s : State) (l : Nat) (x : Lane) : (setLane s l x).ghosts = s.ghosts := rfl
@[simp] theorem setLane_toQueue (s : State) (l : Nat) (x : Lane) : (setLane s l x).toQueue = s.toQueue := rfl
@[simp] theorem setLane_toPort (s : State) (l : Nat) (x : Lane) : (setLane s l x).toPort = s.toPort := rfl
@[simp] theorem setLane_rings (s : State) (l : Nat) (x : Lane) : (setLane s l x).rings = s.rings := rfl
@[simp] theorem setLane_dmas (s : State) (l : Nat) (x : Lane) : (setLane s l x).dmas = s.dmas := rfl
@[simp] theorem setLane_scans (s : State) (l : Nat) (x : Lane) : (setLane s l x).scans = s.scans := rfl
@[simp] theorem setLane_ports (s : State) (l : Nat) (x : Lane) : (setLane s l x).ports = s.ports := rfl
@[simp] theorem setLane_flash (s : State) (l : Nat) (x : Lane) : (setLane s l x).flash = s.flash := rfl
@[simp] theorem setLane_loader (s : State) (l : Nat) (x : Lane) : (setLane s l x).loader = s.loader := rfl
@[simp] theorem setLane_regs (s : State) (l : Nat) (x : Lane) : (setLane s l x).regs = s.regs := rfl

/-! ### setDom -/

@[simp] theorem setDom_pending (s : State) (d : Bool) (x : Domain) : (setDom s d x).pending = s.pending := rfl
@[simp] theorem setDom_wire (s : State) (d : Bool) (x : Domain) : (setDom s d x).wire = s.wire := rfl
@[simp] theorem setDom_free (s : State) (d : Bool) (x : Domain) : (setDom s d x).free = s.free := rfl
@[simp] theorem setDom_now (s : State) (d : Bool) (x : Domain) : (setDom s d x).now = s.now := rfl
@[simp] theorem setDom_fuses (s : State) (d : Bool) (x : Domain) : (setDom s d x).fuses = s.fuses := rfl
@[simp] theorem setDom_power (s : State) (d : Bool) (x : Domain) : (setDom s d x).power = s.power := rfl
@[simp] theorem setDom_mode (s : State) (d : Bool) (x : Domain) : (setDom s d x).mode = s.mode := rfl
@[simp] theorem setDom_keeper (s : State) (d : Bool) (x : Domain) : (setDom s d x).keeper = s.keeper := rfl
@[simp] theorem setDom_line (s : State) (d : Bool) (x : Domain) : (setDom s d x).line = s.line := rfl
@[simp] theorem setDom_keys (s : State) (d : Bool) (x : Domain) : (setDom s d x).keys = s.keys := rfl
@[simp] theorem setDom_reasm (s : State) (d : Bool) (x : Domain) : (setDom s d x).reasm = s.reasm := rfl
@[simp] theorem setDom_intc (s : State) (d : Bool) (x : Domain) : (setDom s d x).intc = s.intc := rfl
@[simp] theorem setDom_host (s : State) (d : Bool) (x : Domain) : (setDom s d x).host = s.host := rfl
@[simp] theorem setDom_perf (s : State) (d : Bool) (x : Domain) : (setDom s d x).perf = s.perf := rfl
@[simp] theorem setDom_paces (s : State) (d : Bool) (x : Domain) : (setDom s d x).paces = s.paces := rfl
@[simp] theorem setDom_serial (s : State) (d : Bool) (x : Domain) : (setDom s d x).serial = s.serial := rfl
@[simp] theorem setDom_past (s : State) (d : Bool) (x : Domain) : (setDom s d x).past = s.past := rfl
@[simp] theorem setDom_turns (s : State) (d : Bool) (x : Domain) : (setDom s d x).turns = s.turns := rfl
@[simp] theorem setDom_cistern (s : State) (d : Bool) (x : Domain) : (setDom s d x).cistern = s.cistern := rfl
@[simp] theorem setDom_res (s : State) (d : Bool) (x : Domain) : (setDom s d x).res = s.res := rfl
@[simp] theorem setDom_queues (s : State) (d : Bool) (x : Domain) : (setDom s d x).queues = s.queues := rfl
@[simp] theorem setDom_robins (s : State) (d : Bool) (x : Domain) : (setDom s d x).robins = s.robins := rfl
@[simp] theorem setDom_marks (s : State) (d : Bool) (x : Domain) : (setDom s d x).marks = s.marks := rfl
@[simp] theorem setDom_table (s : State) (d : Bool) (x : Domain) : (setDom s d x).table = s.table := rfl
@[simp] theorem setDom_drovers (s : State) (d : Bool) (x : Domain) : (setDom s d x).drovers = s.drovers := rfl
@[simp] theorem setDom_store (s : State) (d : Bool) (x : Domain) : (setDom s d x).store = s.store := rfl
@[simp] theorem setDom_gate (s : State) (d : Bool) (x : Domain) : (setDom s d x).gate = s.gate := rfl
@[simp] theorem setDom_msgs (s : State) (d : Bool) (x : Domain) : (setDom s d x).msgs = s.msgs := rfl
@[simp] theorem setDom_parser (s : State) (d : Bool) (x : Domain) : (setDom s d x).parser = s.parser := rfl
@[simp] theorem setDom_cls (s : State) (d : Bool) (x : Domain) : (setDom s d x).cls = s.cls := rfl
@[simp] theorem setDom_flights (s : State) (d : Bool) (x : Domain) : (setDom s d x).flights = s.flights := rfl
@[simp] theorem setDom_ghosts (s : State) (d : Bool) (x : Domain) : (setDom s d x).ghosts = s.ghosts := rfl
@[simp] theorem setDom_toQueue (s : State) (d : Bool) (x : Domain) : (setDom s d x).toQueue = s.toQueue := rfl
@[simp] theorem setDom_toPort (s : State) (d : Bool) (x : Domain) : (setDom s d x).toPort = s.toPort := rfl
@[simp] theorem setDom_rings (s : State) (d : Bool) (x : Domain) : (setDom s d x).rings = s.rings := rfl
@[simp] theorem setDom_dmas (s : State) (d : Bool) (x : Domain) : (setDom s d x).dmas = s.dmas := rfl
@[simp] theorem setDom_scans (s : State) (d : Bool) (x : Domain) : (setDom s d x).scans = s.scans := rfl
@[simp] theorem setDom_ports (s : State) (d : Bool) (x : Domain) : (setDom s d x).ports = s.ports := rfl
@[simp] theorem setDom_flash (s : State) (d : Bool) (x : Domain) : (setDom s d x).flash = s.flash := rfl
@[simp] theorem setDom_loader (s : State) (d : Bool) (x : Domain) : (setDom s d x).loader = s.loader := rfl
@[simp] theorem setDom_regs (s : State) (d : Bool) (x : Domain) : (setDom s d x).regs = s.regs := rfl

/-! ### setSched -/

@[simp] theorem setSched_pending (s : State) (n : Nat) (x : SchedState) : (setSched s n x).pending = s.pending := rfl
@[simp] theorem setSched_wire (s : State) (n : Nat) (x : SchedState) : (setSched s n x).wire = s.wire := rfl
@[simp] theorem setSched_free (s : State) (n : Nat) (x : SchedState) : (setSched s n x).free = s.free := rfl
@[simp] theorem setSched_now (s : State) (n : Nat) (x : SchedState) : (setSched s n x).now = s.now := rfl
@[simp] theorem setSched_fuses (s : State) (n : Nat) (x : SchedState) : (setSched s n x).fuses = s.fuses := rfl
@[simp] theorem setSched_power (s : State) (n : Nat) (x : SchedState) : (setSched s n x).power = s.power := rfl
@[simp] theorem setSched_mode (s : State) (n : Nat) (x : SchedState) : (setSched s n x).mode = s.mode := rfl
@[simp] theorem setSched_keeper (s : State) (n : Nat) (x : SchedState) : (setSched s n x).keeper = s.keeper := rfl
@[simp] theorem setSched_line (s : State) (n : Nat) (x : SchedState) : (setSched s n x).line = s.line := rfl
@[simp] theorem setSched_keys (s : State) (n : Nat) (x : SchedState) : (setSched s n x).keys = s.keys := rfl
@[simp] theorem setSched_reasm (s : State) (n : Nat) (x : SchedState) : (setSched s n x).reasm = s.reasm := rfl
@[simp] theorem setSched_intc (s : State) (n : Nat) (x : SchedState) : (setSched s n x).intc = s.intc := rfl
@[simp] theorem setSched_host (s : State) (n : Nat) (x : SchedState) : (setSched s n x).host = s.host := rfl
@[simp] theorem setSched_perf (s : State) (n : Nat) (x : SchedState) : (setSched s n x).perf = s.perf := rfl
@[simp] theorem setSched_paces (s : State) (n : Nat) (x : SchedState) : (setSched s n x).paces = s.paces := rfl
@[simp] theorem setSched_serial (s : State) (n : Nat) (x : SchedState) : (setSched s n x).serial = s.serial := rfl
@[simp] theorem setSched_past (s : State) (n : Nat) (x : SchedState) : (setSched s n x).past = s.past := rfl
@[simp] theorem setSched_turns (s : State) (n : Nat) (x : SchedState) : (setSched s n x).turns = s.turns := rfl
@[simp] theorem setSched_cistern (s : State) (n : Nat) (x : SchedState) : (setSched s n x).cistern = s.cistern := rfl
@[simp] theorem setSched_res (s : State) (n : Nat) (x : SchedState) : (setSched s n x).res = s.res := rfl
@[simp] theorem setSched_queues (s : State) (n : Nat) (x : SchedState) : (setSched s n x).queues = s.queues := rfl
@[simp] theorem setSched_robins (s : State) (n : Nat) (x : SchedState) : (setSched s n x).robins = s.robins := rfl
@[simp] theorem setSched_marks (s : State) (n : Nat) (x : SchedState) : (setSched s n x).marks = s.marks := rfl
@[simp] theorem setSched_table (s : State) (n : Nat) (x : SchedState) : (setSched s n x).table = s.table := rfl
@[simp] theorem setSched_drovers (s : State) (n : Nat) (x : SchedState) : (setSched s n x).drovers = s.drovers := rfl
@[simp] theorem setSched_store (s : State) (n : Nat) (x : SchedState) : (setSched s n x).store = s.store := rfl
@[simp] theorem setSched_gate (s : State) (n : Nat) (x : SchedState) : (setSched s n x).gate = s.gate := rfl
@[simp] theorem setSched_msgs (s : State) (n : Nat) (x : SchedState) : (setSched s n x).msgs = s.msgs := rfl
@[simp] theorem setSched_parser (s : State) (n : Nat) (x : SchedState) : (setSched s n x).parser = s.parser := rfl
@[simp] theorem setSched_cls (s : State) (n : Nat) (x : SchedState) : (setSched s n x).cls = s.cls := rfl
@[simp] theorem setSched_flights (s : State) (n : Nat) (x : SchedState) : (setSched s n x).flights = s.flights := rfl
@[simp] theorem setSched_ghosts (s : State) (n : Nat) (x : SchedState) : (setSched s n x).ghosts = s.ghosts := rfl
@[simp] theorem setSched_toQueue (s : State) (n : Nat) (x : SchedState) : (setSched s n x).toQueue = s.toQueue := rfl
@[simp] theorem setSched_toPort (s : State) (n : Nat) (x : SchedState) : (setSched s n x).toPort = s.toPort := rfl
@[simp] theorem setSched_rings (s : State) (n : Nat) (x : SchedState) : (setSched s n x).rings = s.rings := rfl
@[simp] theorem setSched_dmas (s : State) (n : Nat) (x : SchedState) : (setSched s n x).dmas = s.dmas := rfl
@[simp] theorem setSched_scans (s : State) (n : Nat) (x : SchedState) : (setSched s n x).scans = s.scans := rfl
@[simp] theorem setSched_ports (s : State) (n : Nat) (x : SchedState) : (setSched s n x).ports = s.ports := rfl
@[simp] theorem setSched_flash (s : State) (n : Nat) (x : SchedState) : (setSched s n x).flash = s.flash := rfl
@[simp] theorem setSched_loader (s : State) (n : Nat) (x : SchedState) : (setSched s n x).loader = s.loader := rfl
@[simp] theorem setSched_regs (s : State) (n : Nat) (x : SchedState) : (setSched s n x).regs = s.regs := rfl

/-! ### setRobin -/

@[simp] theorem setRobin_pending (s : State) (aid p m : Nat) : (setRobin s aid p m).pending = s.pending := rfl
@[simp] theorem setRobin_wire (s : State) (aid p m : Nat) : (setRobin s aid p m).wire = s.wire := rfl
@[simp] theorem setRobin_free (s : State) (aid p m : Nat) : (setRobin s aid p m).free = s.free := rfl
@[simp] theorem setRobin_now (s : State) (aid p m : Nat) : (setRobin s aid p m).now = s.now := rfl
@[simp] theorem setRobin_fuses (s : State) (aid p m : Nat) : (setRobin s aid p m).fuses = s.fuses := rfl
@[simp] theorem setRobin_power (s : State) (aid p m : Nat) : (setRobin s aid p m).power = s.power := rfl
@[simp] theorem setRobin_mode (s : State) (aid p m : Nat) : (setRobin s aid p m).mode = s.mode := rfl
@[simp] theorem setRobin_keeper (s : State) (aid p m : Nat) : (setRobin s aid p m).keeper = s.keeper := rfl
@[simp] theorem setRobin_time (s : State) (aid p m : Nat) : (setRobin s aid p m).time = s.time := rfl
@[simp] theorem setRobin_line (s : State) (aid p m : Nat) : (setRobin s aid p m).line = s.line := rfl
@[simp] theorem setRobin_keys (s : State) (aid p m : Nat) : (setRobin s aid p m).keys = s.keys := rfl
@[simp] theorem setRobin_reasm (s : State) (aid p m : Nat) : (setRobin s aid p m).reasm = s.reasm := rfl
@[simp] theorem setRobin_intc (s : State) (aid p m : Nat) : (setRobin s aid p m).intc = s.intc := rfl
@[simp] theorem setRobin_host (s : State) (aid p m : Nat) : (setRobin s aid p m).host = s.host := rfl
@[simp] theorem setRobin_perf (s : State) (aid p m : Nat) : (setRobin s aid p m).perf = s.perf := rfl
@[simp] theorem setRobin_paces (s : State) (aid p m : Nat) : (setRobin s aid p m).paces = s.paces := rfl
@[simp] theorem setRobin_serial (s : State) (aid p m : Nat) : (setRobin s aid p m).serial = s.serial := rfl
@[simp] theorem setRobin_past (s : State) (aid p m : Nat) : (setRobin s aid p m).past = s.past := rfl
@[simp] theorem setRobin_turns (s : State) (aid p m : Nat) : (setRobin s aid p m).turns = s.turns := rfl
@[simp] theorem setRobin_cistern (s : State) (aid p m : Nat) : (setRobin s aid p m).cistern = s.cistern := rfl
@[simp] theorem setRobin_res (s : State) (aid p m : Nat) : (setRobin s aid p m).res = s.res := rfl
@[simp] theorem setRobin_queues (s : State) (aid p m : Nat) : (setRobin s aid p m).queues = s.queues := rfl
@[simp] theorem setRobin_marks (s : State) (aid p m : Nat) : (setRobin s aid p m).marks = s.marks := rfl
@[simp] theorem setRobin_table (s : State) (aid p m : Nat) : (setRobin s aid p m).table = s.table := rfl
@[simp] theorem setRobin_drovers (s : State) (aid p m : Nat) : (setRobin s aid p m).drovers = s.drovers := rfl
@[simp] theorem setRobin_store (s : State) (aid p m : Nat) : (setRobin s aid p m).store = s.store := rfl
@[simp] theorem setRobin_gate (s : State) (aid p m : Nat) : (setRobin s aid p m).gate = s.gate := rfl
@[simp] theorem setRobin_msgs (s : State) (aid p m : Nat) : (setRobin s aid p m).msgs = s.msgs := rfl
@[simp] theorem setRobin_parser (s : State) (aid p m : Nat) : (setRobin s aid p m).parser = s.parser := rfl
@[simp] theorem setRobin_cls (s : State) (aid p m : Nat) : (setRobin s aid p m).cls = s.cls := rfl
@[simp] theorem setRobin_flights (s : State) (aid p m : Nat) : (setRobin s aid p m).flights = s.flights := rfl
@[simp] theorem setRobin_ghosts (s : State) (aid p m : Nat) : (setRobin s aid p m).ghosts = s.ghosts := rfl
@[simp] theorem setRobin_toQueue (s : State) (aid p m : Nat) : (setRobin s aid p m).toQueue = s.toQueue := rfl
@[simp] theorem setRobin_toPort (s : State) (aid p m : Nat) : (setRobin s aid p m).toPort = s.toPort := rfl
@[simp] theorem setRobin_rings (s : State) (aid p m : Nat) : (setRobin s aid p m).rings = s.rings := rfl
@[simp] theorem setRobin_dmas (s : State) (aid p m : Nat) : (setRobin s aid p m).dmas = s.dmas := rfl
@[simp] theorem setRobin_scans (s : State) (aid p m : Nat) : (setRobin s aid p m).scans = s.scans := rfl
@[simp] theorem setRobin_ports (s : State) (aid p m : Nat) : (setRobin s aid p m).ports = s.ports := rfl
@[simp] theorem setRobin_flash (s : State) (aid p m : Nat) : (setRobin s aid p m).flash = s.flash := rfl
@[simp] theorem setRobin_loader (s : State) (aid p m : Nat) : (setRobin s aid p m).loader = s.loader := rfl
@[simp] theorem setRobin_regs (s : State) (aid p m : Nat) : (setRobin s aid p m).regs = s.regs := rfl

/-! ### setComparator -/

@[simp] theorem setComparator_pending (s : State) (n : Nat) (x : Comparator) : (setComparator s n x).pending = s.pending := rfl
@[simp] theorem setComparator_wire (s : State) (n : Nat) (x : Comparator) : (setComparator s n x).wire = s.wire := rfl
@[simp] theorem setComparator_free (s : State) (n : Nat) (x : Comparator) : (setComparator s n x).free = s.free := rfl
@[simp] theorem setComparator_now (s : State) (n : Nat) (x : Comparator) : (setComparator s n x).now = s.now := rfl
@[simp] theorem setComparator_fuses (s : State) (n : Nat) (x : Comparator) : (setComparator s n x).fuses = s.fuses := rfl
@[simp] theorem setComparator_power (s : State) (n : Nat) (x : Comparator) : (setComparator s n x).power = s.power := rfl
@[simp] theorem setComparator_mode (s : State) (n : Nat) (x : Comparator) : (setComparator s n x).mode = s.mode := rfl
@[simp] theorem setComparator_time (s : State) (n : Nat) (x : Comparator) : (setComparator s n x).time = s.time := rfl
@[simp] theorem setComparator_line (s : State) (n : Nat) (x : Comparator) : (setComparator s n x).line = s.line := rfl
@[simp] theorem setComparator_keys (s : State) (n : Nat) (x : Comparator) : (setComparator s n x).keys = s.keys := rfl
@[simp] theorem setComparator_reasm (s : State) (n : Nat) (x : Comparator) : (setComparator s n x).reasm = s.reasm := rfl
@[simp] theorem setComparator_intc (s : State) (n : Nat) (x : Comparator) : (setComparator s n x).intc = s.intc := rfl
@[simp] theorem setComparator_host (s : State) (n : Nat) (x : Comparator) : (setComparator s n x).host = s.host := rfl
@[simp] theorem setComparator_perf (s : State) (n : Nat) (x : Comparator) : (setComparator s n x).perf = s.perf := rfl
@[simp] theorem setComparator_paces (s : State) (n : Nat) (x : Comparator) : (setComparator s n x).paces = s.paces := rfl
@[simp] theorem setComparator_serial (s : State) (n : Nat) (x : Comparator) : (setComparator s n x).serial = s.serial := rfl
@[simp] theorem setComparator_past (s : State) (n : Nat) (x : Comparator) : (setComparator s n x).past = s.past := rfl
@[simp] theorem setComparator_turns (s : State) (n : Nat) (x : Comparator) : (setComparator s n x).turns = s.turns := rfl
@[simp] theorem setComparator_cistern (s : State) (n : Nat) (x : Comparator) : (setComparator s n x).cistern = s.cistern := rfl
@[simp] theorem setComparator_res (s : State) (n : Nat) (x : Comparator) : (setComparator s n x).res = s.res := rfl
@[simp] theorem setComparator_queues (s : State) (n : Nat) (x : Comparator) : (setComparator s n x).queues = s.queues := rfl
@[simp] theorem setComparator_robins (s : State) (n : Nat) (x : Comparator) : (setComparator s n x).robins = s.robins := rfl
@[simp] theorem setComparator_marks (s : State) (n : Nat) (x : Comparator) : (setComparator s n x).marks = s.marks := rfl
@[simp] theorem setComparator_table (s : State) (n : Nat) (x : Comparator) : (setComparator s n x).table = s.table := rfl
@[simp] theorem setComparator_drovers (s : State) (n : Nat) (x : Comparator) : (setComparator s n x).drovers = s.drovers := rfl
@[simp] theorem setComparator_store (s : State) (n : Nat) (x : Comparator) : (setComparator s n x).store = s.store := rfl
@[simp] theorem setComparator_gate (s : State) (n : Nat) (x : Comparator) : (setComparator s n x).gate = s.gate := rfl
@[simp] theorem setComparator_msgs (s : State) (n : Nat) (x : Comparator) : (setComparator s n x).msgs = s.msgs := rfl
@[simp] theorem setComparator_parser (s : State) (n : Nat) (x : Comparator) : (setComparator s n x).parser = s.parser := rfl
@[simp] theorem setComparator_cls (s : State) (n : Nat) (x : Comparator) : (setComparator s n x).cls = s.cls := rfl
@[simp] theorem setComparator_flights (s : State) (n : Nat) (x : Comparator) : (setComparator s n x).flights = s.flights := rfl
@[simp] theorem setComparator_ghosts (s : State) (n : Nat) (x : Comparator) : (setComparator s n x).ghosts = s.ghosts := rfl
@[simp] theorem setComparator_toQueue (s : State) (n : Nat) (x : Comparator) : (setComparator s n x).toQueue = s.toQueue := rfl
@[simp] theorem setComparator_toPort (s : State) (n : Nat) (x : Comparator) : (setComparator s n x).toPort = s.toPort := rfl
@[simp] theorem setComparator_rings (s : State) (n : Nat) (x : Comparator) : (setComparator s n x).rings = s.rings := rfl
@[simp] theorem setComparator_dmas (s : State) (n : Nat) (x : Comparator) : (setComparator s n x).dmas = s.dmas := rfl
@[simp] theorem setComparator_scans (s : State) (n : Nat) (x : Comparator) : (setComparator s n x).scans = s.scans := rfl
@[simp] theorem setComparator_ports (s : State) (n : Nat) (x : Comparator) : (setComparator s n x).ports = s.ports := rfl
@[simp] theorem setComparator_flash (s : State) (n : Nat) (x : Comparator) : (setComparator s n x).flash = s.flash := rfl
@[simp] theorem setComparator_loader (s : State) (n : Nat) (x : Comparator) : (setComparator s n x).loader = s.loader := rfl
@[simp] theorem setComparator_regs (s : State) (n : Nat) (x : Comparator) : (setComparator s n x).regs = s.regs := rfl

/-! ### setFlight -/

@[simp] theorem setFlight_pending (s : State) (f : Flight) : (setFlight s f).pending = s.pending := rfl
@[simp] theorem setFlight_wire (s : State) (f : Flight) : (setFlight s f).wire = s.wire := rfl
@[simp] theorem setFlight_free (s : State) (f : Flight) : (setFlight s f).free = s.free := rfl
@[simp] theorem setFlight_now (s : State) (f : Flight) : (setFlight s f).now = s.now := rfl
@[simp] theorem setFlight_fuses (s : State) (f : Flight) : (setFlight s f).fuses = s.fuses := rfl
@[simp] theorem setFlight_power (s : State) (f : Flight) : (setFlight s f).power = s.power := rfl
@[simp] theorem setFlight_mode (s : State) (f : Flight) : (setFlight s f).mode = s.mode := rfl
@[simp] theorem setFlight_keeper (s : State) (f : Flight) : (setFlight s f).keeper = s.keeper := rfl
@[simp] theorem setFlight_time (s : State) (f : Flight) : (setFlight s f).time = s.time := rfl
@[simp] theorem setFlight_line (s : State) (f : Flight) : (setFlight s f).line = s.line := rfl
@[simp] theorem setFlight_keys (s : State) (f : Flight) : (setFlight s f).keys = s.keys := rfl
@[simp] theorem setFlight_reasm (s : State) (f : Flight) : (setFlight s f).reasm = s.reasm := rfl
@[simp] theorem setFlight_intc (s : State) (f : Flight) : (setFlight s f).intc = s.intc := rfl
@[simp] theorem setFlight_host (s : State) (f : Flight) : (setFlight s f).host = s.host := rfl
@[simp] theorem setFlight_perf (s : State) (f : Flight) : (setFlight s f).perf = s.perf := rfl
@[simp] theorem setFlight_paces (s : State) (f : Flight) : (setFlight s f).paces = s.paces := rfl
@[simp] theorem setFlight_serial (s : State) (f : Flight) : (setFlight s f).serial = s.serial := rfl
@[simp] theorem setFlight_past (s : State) (f : Flight) : (setFlight s f).past = s.past := rfl
@[simp] theorem setFlight_turns (s : State) (f : Flight) : (setFlight s f).turns = s.turns := rfl
@[simp] theorem setFlight_cistern (s : State) (f : Flight) : (setFlight s f).cistern = s.cistern := rfl
@[simp] theorem setFlight_res (s : State) (f : Flight) : (setFlight s f).res = s.res := rfl
@[simp] theorem setFlight_queues (s : State) (f : Flight) : (setFlight s f).queues = s.queues := rfl
@[simp] theorem setFlight_robins (s : State) (f : Flight) : (setFlight s f).robins = s.robins := rfl
@[simp] theorem setFlight_marks (s : State) (f : Flight) : (setFlight s f).marks = s.marks := rfl
@[simp] theorem setFlight_table (s : State) (f : Flight) : (setFlight s f).table = s.table := rfl
@[simp] theorem setFlight_drovers (s : State) (f : Flight) : (setFlight s f).drovers = s.drovers := rfl
@[simp] theorem setFlight_store (s : State) (f : Flight) : (setFlight s f).store = s.store := rfl
@[simp] theorem setFlight_gate (s : State) (f : Flight) : (setFlight s f).gate = s.gate := rfl
@[simp] theorem setFlight_msgs (s : State) (f : Flight) : (setFlight s f).msgs = s.msgs := rfl
@[simp] theorem setFlight_parser (s : State) (f : Flight) : (setFlight s f).parser = s.parser := rfl
@[simp] theorem setFlight_cls (s : State) (f : Flight) : (setFlight s f).cls = s.cls := rfl
@[simp] theorem setFlight_ghosts (s : State) (f : Flight) : (setFlight s f).ghosts = s.ghosts := rfl
@[simp] theorem setFlight_toQueue (s : State) (f : Flight) : (setFlight s f).toQueue = s.toQueue := rfl
@[simp] theorem setFlight_toPort (s : State) (f : Flight) : (setFlight s f).toPort = s.toPort := rfl
@[simp] theorem setFlight_rings (s : State) (f : Flight) : (setFlight s f).rings = s.rings := rfl
@[simp] theorem setFlight_dmas (s : State) (f : Flight) : (setFlight s f).dmas = s.dmas := rfl
@[simp] theorem setFlight_scans (s : State) (f : Flight) : (setFlight s f).scans = s.scans := rfl
@[simp] theorem setFlight_ports (s : State) (f : Flight) : (setFlight s f).ports = s.ports := rfl
@[simp] theorem setFlight_flash (s : State) (f : Flight) : (setFlight s f).flash = s.flash := rfl
@[simp] theorem setFlight_loader (s : State) (f : Flight) : (setFlight s f).loader = s.loader := rfl
@[simp] theorem setFlight_regs (s : State) (f : Flight) : (setFlight s f).regs = s.regs := rfl

/-! ### setLoader -/

@[simp] theorem setLoader_pending (s : State) (x : LoaderState) : (setLoader x s).pending = s.pending := rfl
@[simp] theorem setLoader_wire (s : State) (x : LoaderState) : (setLoader x s).wire = s.wire := rfl
@[simp] theorem setLoader_free (s : State) (x : LoaderState) : (setLoader x s).free = s.free := rfl
@[simp] theorem setLoader_now (s : State) (x : LoaderState) : (setLoader x s).now = s.now := rfl
@[simp] theorem setLoader_fuses (s : State) (x : LoaderState) : (setLoader x s).fuses = s.fuses := rfl
@[simp] theorem setLoader_power (s : State) (x : LoaderState) : (setLoader x s).power = s.power := rfl
@[simp] theorem setLoader_mode (s : State) (x : LoaderState) : (setLoader x s).mode = s.mode := rfl
@[simp] theorem setLoader_keeper (s : State) (x : LoaderState) : (setLoader x s).keeper = s.keeper := rfl
@[simp] theorem setLoader_time (s : State) (x : LoaderState) : (setLoader x s).time = s.time := rfl
@[simp] theorem setLoader_line (s : State) (x : LoaderState) : (setLoader x s).line = s.line := rfl
@[simp] theorem setLoader_keys (s : State) (x : LoaderState) : (setLoader x s).keys = s.keys := rfl
@[simp] theorem setLoader_reasm (s : State) (x : LoaderState) : (setLoader x s).reasm = s.reasm := rfl
@[simp] theorem setLoader_intc (s : State) (x : LoaderState) : (setLoader x s).intc = s.intc := rfl
@[simp] theorem setLoader_host (s : State) (x : LoaderState) : (setLoader x s).host = s.host := rfl
@[simp] theorem setLoader_perf (s : State) (x : LoaderState) : (setLoader x s).perf = s.perf := rfl
@[simp] theorem setLoader_paces (s : State) (x : LoaderState) : (setLoader x s).paces = s.paces := rfl
@[simp] theorem setLoader_serial (s : State) (x : LoaderState) : (setLoader x s).serial = s.serial := rfl
@[simp] theorem setLoader_past (s : State) (x : LoaderState) : (setLoader x s).past = s.past := rfl
@[simp] theorem setLoader_turns (s : State) (x : LoaderState) : (setLoader x s).turns = s.turns := rfl
@[simp] theorem setLoader_cistern (s : State) (x : LoaderState) : (setLoader x s).cistern = s.cistern := rfl
@[simp] theorem setLoader_res (s : State) (x : LoaderState) : (setLoader x s).res = s.res := rfl
@[simp] theorem setLoader_queues (s : State) (x : LoaderState) : (setLoader x s).queues = s.queues := rfl
@[simp] theorem setLoader_robins (s : State) (x : LoaderState) : (setLoader x s).robins = s.robins := rfl
@[simp] theorem setLoader_marks (s : State) (x : LoaderState) : (setLoader x s).marks = s.marks := rfl
@[simp] theorem setLoader_table (s : State) (x : LoaderState) : (setLoader x s).table = s.table := rfl
@[simp] theorem setLoader_drovers (s : State) (x : LoaderState) : (setLoader x s).drovers = s.drovers := rfl
@[simp] theorem setLoader_store (s : State) (x : LoaderState) : (setLoader x s).store = s.store := rfl
@[simp] theorem setLoader_gate (s : State) (x : LoaderState) : (setLoader x s).gate = s.gate := rfl
@[simp] theorem setLoader_msgs (s : State) (x : LoaderState) : (setLoader x s).msgs = s.msgs := rfl
@[simp] theorem setLoader_parser (s : State) (x : LoaderState) : (setLoader x s).parser = s.parser := rfl
@[simp] theorem setLoader_cls (s : State) (x : LoaderState) : (setLoader x s).cls = s.cls := rfl
@[simp] theorem setLoader_flights (s : State) (x : LoaderState) : (setLoader x s).flights = s.flights := rfl
@[simp] theorem setLoader_ghosts (s : State) (x : LoaderState) : (setLoader x s).ghosts = s.ghosts := rfl
@[simp] theorem setLoader_toQueue (s : State) (x : LoaderState) : (setLoader x s).toQueue = s.toQueue := rfl
@[simp] theorem setLoader_toPort (s : State) (x : LoaderState) : (setLoader x s).toPort = s.toPort := rfl
@[simp] theorem setLoader_rings (s : State) (x : LoaderState) : (setLoader x s).rings = s.rings := rfl
@[simp] theorem setLoader_dmas (s : State) (x : LoaderState) : (setLoader x s).dmas = s.dmas := rfl
@[simp] theorem setLoader_scans (s : State) (x : LoaderState) : (setLoader x s).scans = s.scans := rfl
@[simp] theorem setLoader_ports (s : State) (x : LoaderState) : (setLoader x s).ports = s.ports := rfl
@[simp] theorem setLoader_flash (s : State) (x : LoaderState) : (setLoader x s).flash = s.flash := rfl
@[simp] theorem setLoader_regs (s : State) (x : LoaderState) : (setLoader x s).regs = s.regs := rfl

/-! ### granted -/

@[simp] theorem granted_pending (s : State) (a : Arbiter) (i : Nat) (l : List Nat) : (granted a i l s).pending = s.pending := rfl
@[simp] theorem granted_wire (s : State) (a : Arbiter) (i : Nat) (l : List Nat) : (granted a i l s).wire = s.wire := rfl
@[simp] theorem granted_free (s : State) (a : Arbiter) (i : Nat) (l : List Nat) : (granted a i l s).free = s.free := rfl
@[simp] theorem granted_now (s : State) (a : Arbiter) (i : Nat) (l : List Nat) : (granted a i l s).now = s.now := rfl
@[simp] theorem granted_fuses (s : State) (a : Arbiter) (i : Nat) (l : List Nat) : (granted a i l s).fuses = s.fuses := rfl
@[simp] theorem granted_power (s : State) (a : Arbiter) (i : Nat) (l : List Nat) : (granted a i l s).power = s.power := rfl
@[simp] theorem granted_mode (s : State) (a : Arbiter) (i : Nat) (l : List Nat) : (granted a i l s).mode = s.mode := rfl
@[simp] theorem granted_keeper (s : State) (a : Arbiter) (i : Nat) (l : List Nat) : (granted a i l s).keeper = s.keeper := rfl
@[simp] theorem granted_time (s : State) (a : Arbiter) (i : Nat) (l : List Nat) : (granted a i l s).time = s.time := rfl
@[simp] theorem granted_line (s : State) (a : Arbiter) (i : Nat) (l : List Nat) : (granted a i l s).line = s.line := rfl
@[simp] theorem granted_keys (s : State) (a : Arbiter) (i : Nat) (l : List Nat) : (granted a i l s).keys = s.keys := rfl
@[simp] theorem granted_reasm (s : State) (a : Arbiter) (i : Nat) (l : List Nat) : (granted a i l s).reasm = s.reasm := rfl
@[simp] theorem granted_intc (s : State) (a : Arbiter) (i : Nat) (l : List Nat) : (granted a i l s).intc = s.intc := rfl
@[simp] theorem granted_host (s : State) (a : Arbiter) (i : Nat) (l : List Nat) : (granted a i l s).host = s.host := rfl
@[simp] theorem granted_perf (s : State) (a : Arbiter) (i : Nat) (l : List Nat) : (granted a i l s).perf = s.perf := rfl
@[simp] theorem granted_paces (s : State) (a : Arbiter) (i : Nat) (l : List Nat) : (granted a i l s).paces = s.paces := rfl
@[simp] theorem granted_serial (s : State) (a : Arbiter) (i : Nat) (l : List Nat) : (granted a i l s).serial = s.serial := rfl
@[simp] theorem granted_past (s : State) (a : Arbiter) (i : Nat) (l : List Nat) : (granted a i l s).past = s.past := rfl
@[simp] theorem granted_cistern (s : State) (a : Arbiter) (i : Nat) (l : List Nat) : (granted a i l s).cistern = s.cistern := rfl
@[simp] theorem granted_res (s : State) (a : Arbiter) (i : Nat) (l : List Nat) : (granted a i l s).res = s.res := rfl
@[simp] theorem granted_queues (s : State) (a : Arbiter) (i : Nat) (l : List Nat) : (granted a i l s).queues = s.queues := rfl
@[simp] theorem granted_robins (s : State) (a : Arbiter) (i : Nat) (l : List Nat) : (granted a i l s).robins = s.robins := rfl
@[simp] theorem granted_marks (s : State) (a : Arbiter) (i : Nat) (l : List Nat) : (granted a i l s).marks = s.marks := rfl
@[simp] theorem granted_table (s : State) (a : Arbiter) (i : Nat) (l : List Nat) : (granted a i l s).table = s.table := rfl
@[simp] theorem granted_drovers (s : State) (a : Arbiter) (i : Nat) (l : List Nat) : (granted a i l s).drovers = s.drovers := rfl
@[simp] theorem granted_store (s : State) (a : Arbiter) (i : Nat) (l : List Nat) : (granted a i l s).store = s.store := rfl
@[simp] theorem granted_gate (s : State) (a : Arbiter) (i : Nat) (l : List Nat) : (granted a i l s).gate = s.gate := rfl
@[simp] theorem granted_msgs (s : State) (a : Arbiter) (i : Nat) (l : List Nat) : (granted a i l s).msgs = s.msgs := rfl
@[simp] theorem granted_parser (s : State) (a : Arbiter) (i : Nat) (l : List Nat) : (granted a i l s).parser = s.parser := rfl
@[simp] theorem granted_cls (s : State) (a : Arbiter) (i : Nat) (l : List Nat) : (granted a i l s).cls = s.cls := rfl
@[simp] theorem granted_flights (s : State) (a : Arbiter) (i : Nat) (l : List Nat) : (granted a i l s).flights = s.flights := rfl
@[simp] theorem granted_ghosts (s : State) (a : Arbiter) (i : Nat) (l : List Nat) : (granted a i l s).ghosts = s.ghosts := rfl
@[simp] theorem granted_toQueue (s : State) (a : Arbiter) (i : Nat) (l : List Nat) : (granted a i l s).toQueue = s.toQueue := rfl
@[simp] theorem granted_toPort (s : State) (a : Arbiter) (i : Nat) (l : List Nat) : (granted a i l s).toPort = s.toPort := rfl
@[simp] theorem granted_rings (s : State) (a : Arbiter) (i : Nat) (l : List Nat) : (granted a i l s).rings = s.rings := rfl
@[simp] theorem granted_dmas (s : State) (a : Arbiter) (i : Nat) (l : List Nat) : (granted a i l s).dmas = s.dmas := rfl
@[simp] theorem granted_scans (s : State) (a : Arbiter) (i : Nat) (l : List Nat) : (granted a i l s).scans = s.scans := rfl
@[simp] theorem granted_ports (s : State) (a : Arbiter) (i : Nat) (l : List Nat) : (granted a i l s).ports = s.ports := rfl
@[simp] theorem granted_flash (s : State) (a : Arbiter) (i : Nat) (l : List Nat) : (granted a i l s).flash = s.flash := rfl
@[simp] theorem granted_loader (s : State) (a : Arbiter) (i : Nat) (l : List Nat) : (granted a i l s).loader = s.loader := rfl
@[simp] theorem granted_regs (s : State) (a : Arbiter) (i : Nat) (l : List Nat) : (granted a i l s).regs = s.regs := rfl

/-! ### keepBurst -/

@[simp] theorem keepBurst_pending (s : State) (b : Burst) : (keepBurst b s).pending = s.pending := rfl
@[simp] theorem keepBurst_wire (s : State) (b : Burst) : (keepBurst b s).wire = s.wire := rfl
@[simp] theorem keepBurst_free (s : State) (b : Burst) : (keepBurst b s).free = s.free := rfl
@[simp] theorem keepBurst_now (s : State) (b : Burst) : (keepBurst b s).now = s.now := rfl
@[simp] theorem keepBurst_fuses (s : State) (b : Burst) : (keepBurst b s).fuses = s.fuses := rfl
@[simp] theorem keepBurst_power (s : State) (b : Burst) : (keepBurst b s).power = s.power := rfl
@[simp] theorem keepBurst_mode (s : State) (b : Burst) : (keepBurst b s).mode = s.mode := rfl
@[simp] theorem keepBurst_keeper (s : State) (b : Burst) : (keepBurst b s).keeper = s.keeper := rfl
@[simp] theorem keepBurst_time (s : State) (b : Burst) : (keepBurst b s).time = s.time := rfl
@[simp] theorem keepBurst_line (s : State) (b : Burst) : (keepBurst b s).line = s.line := rfl
@[simp] theorem keepBurst_keys (s : State) (b : Burst) : (keepBurst b s).keys = s.keys := rfl
@[simp] theorem keepBurst_reasm (s : State) (b : Burst) : (keepBurst b s).reasm = s.reasm := rfl
@[simp] theorem keepBurst_intc (s : State) (b : Burst) : (keepBurst b s).intc = s.intc := rfl
@[simp] theorem keepBurst_host (s : State) (b : Burst) : (keepBurst b s).host = s.host := rfl
@[simp] theorem keepBurst_perf (s : State) (b : Burst) : (keepBurst b s).perf = s.perf := rfl
@[simp] theorem keepBurst_paces (s : State) (b : Burst) : (keepBurst b s).paces = s.paces := rfl
@[simp] theorem keepBurst_serial (s : State) (b : Burst) : (keepBurst b s).serial = s.serial := rfl
@[simp] theorem keepBurst_past (s : State) (b : Burst) : (keepBurst b s).past = s.past := rfl
@[simp] theorem keepBurst_turns (s : State) (b : Burst) : (keepBurst b s).turns = s.turns := rfl
@[simp] theorem keepBurst_cistern (s : State) (b : Burst) : (keepBurst b s).cistern = s.cistern := rfl
@[simp] theorem keepBurst_res (s : State) (b : Burst) : (keepBurst b s).res = s.res := rfl
@[simp] theorem keepBurst_queues (s : State) (b : Burst) : (keepBurst b s).queues = s.queues := rfl
@[simp] theorem keepBurst_robins (s : State) (b : Burst) : (keepBurst b s).robins = s.robins := rfl
@[simp] theorem keepBurst_marks (s : State) (b : Burst) : (keepBurst b s).marks = s.marks := rfl
@[simp] theorem keepBurst_table (s : State) (b : Burst) : (keepBurst b s).table = s.table := rfl
@[simp] theorem keepBurst_drovers (s : State) (b : Burst) : (keepBurst b s).drovers = s.drovers := rfl
@[simp] theorem keepBurst_store (s : State) (b : Burst) : (keepBurst b s).store = s.store := rfl
@[simp] theorem keepBurst_msgs (s : State) (b : Burst) : (keepBurst b s).msgs = s.msgs := rfl
@[simp] theorem keepBurst_parser (s : State) (b : Burst) : (keepBurst b s).parser = s.parser := rfl
@[simp] theorem keepBurst_cls (s : State) (b : Burst) : (keepBurst b s).cls = s.cls := rfl
@[simp] theorem keepBurst_flights (s : State) (b : Burst) : (keepBurst b s).flights = s.flights := rfl
@[simp] theorem keepBurst_ghosts (s : State) (b : Burst) : (keepBurst b s).ghosts = s.ghosts := rfl
@[simp] theorem keepBurst_toQueue (s : State) (b : Burst) : (keepBurst b s).toQueue = s.toQueue := rfl
@[simp] theorem keepBurst_toPort (s : State) (b : Burst) : (keepBurst b s).toPort = s.toPort := rfl
@[simp] theorem keepBurst_rings (s : State) (b : Burst) : (keepBurst b s).rings = s.rings := rfl
@[simp] theorem keepBurst_dmas (s : State) (b : Burst) : (keepBurst b s).dmas = s.dmas := rfl
@[simp] theorem keepBurst_scans (s : State) (b : Burst) : (keepBurst b s).scans = s.scans := rfl
@[simp] theorem keepBurst_ports (s : State) (b : Burst) : (keepBurst b s).ports = s.ports := rfl
@[simp] theorem keepBurst_flash (s : State) (b : Burst) : (keepBurst b s).flash = s.flash := rfl
@[simp] theorem keepBurst_loader (s : State) (b : Burst) : (keepBurst b s).loader = s.loader := rfl
@[simp] theorem keepBurst_regs (s : State) (b : Burst) : (keepBurst b s).regs = s.regs := rfl

/-! ### setMode -/

@[simp] theorem setMode_pending (s : State) (m : Mode) : (setMode m s).pending = s.pending := rfl
@[simp] theorem setMode_wire (s : State) (m : Mode) : (setMode m s).wire = s.wire := rfl
@[simp] theorem setMode_free (s : State) (m : Mode) : (setMode m s).free = s.free := rfl
@[simp] theorem setMode_now (s : State) (m : Mode) : (setMode m s).now = s.now := rfl
@[simp] theorem setMode_fuses (s : State) (m : Mode) : (setMode m s).fuses = s.fuses := rfl
@[simp] theorem setMode_power (s : State) (m : Mode) : (setMode m s).power = s.power := rfl
@[simp] theorem setMode_keeper (s : State) (m : Mode) : (setMode m s).keeper = s.keeper := rfl
@[simp] theorem setMode_time (s : State) (m : Mode) : (setMode m s).time = s.time := rfl
@[simp] theorem setMode_line (s : State) (m : Mode) : (setMode m s).line = s.line := rfl
@[simp] theorem setMode_keys (s : State) (m : Mode) : (setMode m s).keys = s.keys := rfl
@[simp] theorem setMode_reasm (s : State) (m : Mode) : (setMode m s).reasm = s.reasm := rfl
@[simp] theorem setMode_intc (s : State) (m : Mode) : (setMode m s).intc = s.intc := rfl
@[simp] theorem setMode_host (s : State) (m : Mode) : (setMode m s).host = s.host := rfl
@[simp] theorem setMode_perf (s : State) (m : Mode) : (setMode m s).perf = s.perf := rfl
@[simp] theorem setMode_paces (s : State) (m : Mode) : (setMode m s).paces = s.paces := rfl
@[simp] theorem setMode_serial (s : State) (m : Mode) : (setMode m s).serial = s.serial := rfl
@[simp] theorem setMode_past (s : State) (m : Mode) : (setMode m s).past = s.past := rfl
@[simp] theorem setMode_turns (s : State) (m : Mode) : (setMode m s).turns = s.turns := rfl
@[simp] theorem setMode_cistern (s : State) (m : Mode) : (setMode m s).cistern = s.cistern := rfl
@[simp] theorem setMode_res (s : State) (m : Mode) : (setMode m s).res = s.res := rfl
@[simp] theorem setMode_queues (s : State) (m : Mode) : (setMode m s).queues = s.queues := rfl
@[simp] theorem setMode_robins (s : State) (m : Mode) : (setMode m s).robins = s.robins := rfl
@[simp] theorem setMode_marks (s : State) (m : Mode) : (setMode m s).marks = s.marks := rfl
@[simp] theorem setMode_table (s : State) (m : Mode) : (setMode m s).table = s.table := rfl
@[simp] theorem setMode_drovers (s : State) (m : Mode) : (setMode m s).drovers = s.drovers := rfl
@[simp] theorem setMode_store (s : State) (m : Mode) : (setMode m s).store = s.store := rfl
@[simp] theorem setMode_gate (s : State) (m : Mode) : (setMode m s).gate = s.gate := rfl
@[simp] theorem setMode_msgs (s : State) (m : Mode) : (setMode m s).msgs = s.msgs := rfl
@[simp] theorem setMode_parser (s : State) (m : Mode) : (setMode m s).parser = s.parser := rfl
@[simp] theorem setMode_cls (s : State) (m : Mode) : (setMode m s).cls = s.cls := rfl
@[simp] theorem setMode_flights (s : State) (m : Mode) : (setMode m s).flights = s.flights := rfl
@[simp] theorem setMode_ghosts (s : State) (m : Mode) : (setMode m s).ghosts = s.ghosts := rfl
@[simp] theorem setMode_toQueue (s : State) (m : Mode) : (setMode m s).toQueue = s.toQueue := rfl
@[simp] theorem setMode_toPort (s : State) (m : Mode) : (setMode m s).toPort = s.toPort := rfl
@[simp] theorem setMode_rings (s : State) (m : Mode) : (setMode m s).rings = s.rings := rfl
@[simp] theorem setMode_dmas (s : State) (m : Mode) : (setMode m s).dmas = s.dmas := rfl
@[simp] theorem setMode_scans (s : State) (m : Mode) : (setMode m s).scans = s.scans := rfl
@[simp] theorem setMode_ports (s : State) (m : Mode) : (setMode m s).ports = s.ports := rfl
@[simp] theorem setMode_flash (s : State) (m : Mode) : (setMode m s).flash = s.flash := rfl
@[simp] theorem setMode_loader (s : State) (m : Mode) : (setMode m s).loader = s.loader := rfl
@[simp] theorem setMode_regs (s : State) (m : Mode) : (setMode m s).regs = s.regs := rfl

/-! ### noteLeft -/

@[simp] theorem noteLeft_pending (s : State) : (noteLeft s).pending = s.pending := rfl
@[simp] theorem noteLeft_wire (s : State) : (noteLeft s).wire = s.wire := rfl
@[simp] theorem noteLeft_free (s : State) : (noteLeft s).free = s.free := rfl
@[simp] theorem noteLeft_now (s : State) : (noteLeft s).now = s.now := rfl
@[simp] theorem noteLeft_fuses (s : State) : (noteLeft s).fuses = s.fuses := rfl
@[simp] theorem noteLeft_power (s : State) : (noteLeft s).power = s.power := rfl
@[simp] theorem noteLeft_keeper (s : State) : (noteLeft s).keeper = s.keeper := rfl
@[simp] theorem noteLeft_time (s : State) : (noteLeft s).time = s.time := rfl
@[simp] theorem noteLeft_line (s : State) : (noteLeft s).line = s.line := rfl
@[simp] theorem noteLeft_keys (s : State) : (noteLeft s).keys = s.keys := rfl
@[simp] theorem noteLeft_reasm (s : State) : (noteLeft s).reasm = s.reasm := rfl
@[simp] theorem noteLeft_intc (s : State) : (noteLeft s).intc = s.intc := rfl
@[simp] theorem noteLeft_host (s : State) : (noteLeft s).host = s.host := rfl
@[simp] theorem noteLeft_perf (s : State) : (noteLeft s).perf = s.perf := rfl
@[simp] theorem noteLeft_paces (s : State) : (noteLeft s).paces = s.paces := rfl
@[simp] theorem noteLeft_serial (s : State) : (noteLeft s).serial = s.serial := rfl
@[simp] theorem noteLeft_past (s : State) : (noteLeft s).past = s.past := rfl
@[simp] theorem noteLeft_turns (s : State) : (noteLeft s).turns = s.turns := rfl
@[simp] theorem noteLeft_cistern (s : State) : (noteLeft s).cistern = s.cistern := rfl
@[simp] theorem noteLeft_res (s : State) : (noteLeft s).res = s.res := rfl
@[simp] theorem noteLeft_queues (s : State) : (noteLeft s).queues = s.queues := rfl
@[simp] theorem noteLeft_robins (s : State) : (noteLeft s).robins = s.robins := rfl
@[simp] theorem noteLeft_marks (s : State) : (noteLeft s).marks = s.marks := rfl
@[simp] theorem noteLeft_table (s : State) : (noteLeft s).table = s.table := rfl
@[simp] theorem noteLeft_drovers (s : State) : (noteLeft s).drovers = s.drovers := rfl
@[simp] theorem noteLeft_store (s : State) : (noteLeft s).store = s.store := rfl
@[simp] theorem noteLeft_gate (s : State) : (noteLeft s).gate = s.gate := rfl
@[simp] theorem noteLeft_msgs (s : State) : (noteLeft s).msgs = s.msgs := rfl
@[simp] theorem noteLeft_parser (s : State) : (noteLeft s).parser = s.parser := rfl
@[simp] theorem noteLeft_cls (s : State) : (noteLeft s).cls = s.cls := rfl
@[simp] theorem noteLeft_flights (s : State) : (noteLeft s).flights = s.flights := rfl
@[simp] theorem noteLeft_ghosts (s : State) : (noteLeft s).ghosts = s.ghosts := rfl
@[simp] theorem noteLeft_toQueue (s : State) : (noteLeft s).toQueue = s.toQueue := rfl
@[simp] theorem noteLeft_toPort (s : State) : (noteLeft s).toPort = s.toPort := rfl
@[simp] theorem noteLeft_rings (s : State) : (noteLeft s).rings = s.rings := rfl
@[simp] theorem noteLeft_dmas (s : State) : (noteLeft s).dmas = s.dmas := rfl
@[simp] theorem noteLeft_scans (s : State) : (noteLeft s).scans = s.scans := rfl
@[simp] theorem noteLeft_ports (s : State) : (noteLeft s).ports = s.ports := rfl
@[simp] theorem noteLeft_flash (s : State) : (noteLeft s).flash = s.flash := rfl
@[simp] theorem noteLeft_loader (s : State) : (noteLeft s).loader = s.loader := rfl
@[simp] theorem noteLeft_regs (s : State) : (noteLeft s).regs = s.regs := rfl

/-! ### noteError -/

@[simp] theorem noteError_pending (s : State) (i : Nat) : (noteError s i).pending = s.pending := rfl
@[simp] theorem noteError_wire (s : State) (i : Nat) : (noteError s i).wire = s.wire := rfl
@[simp] theorem noteError_free (s : State) (i : Nat) : (noteError s i).free = s.free := rfl
@[simp] theorem noteError_now (s : State) (i : Nat) : (noteError s i).now = s.now := rfl
@[simp] theorem noteError_fuses (s : State) (i : Nat) : (noteError s i).fuses = s.fuses := rfl
@[simp] theorem noteError_power (s : State) (i : Nat) : (noteError s i).power = s.power := rfl
@[simp] theorem noteError_mode (s : State) (i : Nat) : (noteError s i).mode = s.mode := rfl
@[simp] theorem noteError_keeper (s : State) (i : Nat) : (noteError s i).keeper = s.keeper := rfl
@[simp] theorem noteError_time (s : State) (i : Nat) : (noteError s i).time = s.time := rfl
@[simp] theorem noteError_line (s : State) (i : Nat) : (noteError s i).line = s.line := rfl
@[simp] theorem noteError_keys (s : State) (i : Nat) : (noteError s i).keys = s.keys := rfl
@[simp] theorem noteError_reasm (s : State) (i : Nat) : (noteError s i).reasm = s.reasm := rfl
@[simp] theorem noteError_intc (s : State) (i : Nat) : (noteError s i).intc = s.intc := rfl
@[simp] theorem noteError_perf (s : State) (i : Nat) : (noteError s i).perf = s.perf := rfl
@[simp] theorem noteError_paces (s : State) (i : Nat) : (noteError s i).paces = s.paces := rfl
@[simp] theorem noteError_serial (s : State) (i : Nat) : (noteError s i).serial = s.serial := rfl
@[simp] theorem noteError_past (s : State) (i : Nat) : (noteError s i).past = s.past := rfl
@[simp] theorem noteError_turns (s : State) (i : Nat) : (noteError s i).turns = s.turns := rfl
@[simp] theorem noteError_cistern (s : State) (i : Nat) : (noteError s i).cistern = s.cistern := rfl
@[simp] theorem noteError_res (s : State) (i : Nat) : (noteError s i).res = s.res := rfl
@[simp] theorem noteError_queues (s : State) (i : Nat) : (noteError s i).queues = s.queues := rfl
@[simp] theorem noteError_robins (s : State) (i : Nat) : (noteError s i).robins = s.robins := rfl
@[simp] theorem noteError_marks (s : State) (i : Nat) : (noteError s i).marks = s.marks := rfl
@[simp] theorem noteError_table (s : State) (i : Nat) : (noteError s i).table = s.table := rfl
@[simp] theorem noteError_drovers (s : State) (i : Nat) : (noteError s i).drovers = s.drovers := rfl
@[simp] theorem noteError_store (s : State) (i : Nat) : (noteError s i).store = s.store := rfl
@[simp] theorem noteError_gate (s : State) (i : Nat) : (noteError s i).gate = s.gate := rfl
@[simp] theorem noteError_msgs (s : State) (i : Nat) : (noteError s i).msgs = s.msgs := rfl
@[simp] theorem noteError_parser (s : State) (i : Nat) : (noteError s i).parser = s.parser := rfl
@[simp] theorem noteError_cls (s : State) (i : Nat) : (noteError s i).cls = s.cls := rfl
@[simp] theorem noteError_flights (s : State) (i : Nat) : (noteError s i).flights = s.flights := rfl
@[simp] theorem noteError_ghosts (s : State) (i : Nat) : (noteError s i).ghosts = s.ghosts := rfl
@[simp] theorem noteError_toQueue (s : State) (i : Nat) : (noteError s i).toQueue = s.toQueue := rfl
@[simp] theorem noteError_toPort (s : State) (i : Nat) : (noteError s i).toPort = s.toPort := rfl
@[simp] theorem noteError_rings (s : State) (i : Nat) : (noteError s i).rings = s.rings := rfl
@[simp] theorem noteError_dmas (s : State) (i : Nat) : (noteError s i).dmas = s.dmas := rfl
@[simp] theorem noteError_scans (s : State) (i : Nat) : (noteError s i).scans = s.scans := rfl
@[simp] theorem noteError_ports (s : State) (i : Nat) : (noteError s i).ports = s.ports := rfl
@[simp] theorem noteError_flash (s : State) (i : Nat) : (noteError s i).flash = s.flash := rfl
@[simp] theorem noteError_loader (s : State) (i : Nat) : (noteError s i).loader = s.loader := rfl
@[simp] theorem noteError_regs (s : State) (i : Nat) : (noteError s i).regs = s.regs := rfl

/-! ### settle -/

@[simp] theorem settle_pending (s : State) : (settle s).pending = s.pending := rfl
@[simp] theorem settle_wire (s : State) : (settle s).wire = s.wire := rfl
@[simp] theorem settle_free (s : State) : (settle s).free = s.free := rfl
@[simp] theorem settle_now (s : State) : (settle s).now = s.now := rfl
@[simp] theorem settle_fuses (s : State) : (settle s).fuses = s.fuses := rfl
@[simp] theorem settle_power (s : State) : (settle s).power = s.power := rfl
@[simp] theorem settle_mode (s : State) : (settle s).mode = s.mode := rfl
@[simp] theorem settle_keeper (s : State) : (settle s).keeper = s.keeper := rfl
@[simp] theorem settle_time (s : State) : (settle s).time = s.time := rfl
@[simp] theorem settle_line (s : State) : (settle s).line = s.line := rfl
@[simp] theorem settle_keys (s : State) : (settle s).keys = s.keys := rfl
@[simp] theorem settle_reasm (s : State) : (settle s).reasm = s.reasm := rfl
@[simp] theorem settle_host (s : State) : (settle s).host = s.host := rfl
@[simp] theorem settle_perf (s : State) : (settle s).perf = s.perf := rfl
@[simp] theorem settle_paces (s : State) : (settle s).paces = s.paces := rfl
@[simp] theorem settle_serial (s : State) : (settle s).serial = s.serial := rfl
@[simp] theorem settle_past (s : State) : (settle s).past = s.past := rfl
@[simp] theorem settle_turns (s : State) : (settle s).turns = s.turns := rfl
@[simp] theorem settle_cistern (s : State) : (settle s).cistern = s.cistern := rfl
@[simp] theorem settle_res (s : State) : (settle s).res = s.res := rfl
@[simp] theorem settle_queues (s : State) : (settle s).queues = s.queues := rfl
@[simp] theorem settle_robins (s : State) : (settle s).robins = s.robins := rfl
@[simp] theorem settle_marks (s : State) : (settle s).marks = s.marks := rfl
@[simp] theorem settle_table (s : State) : (settle s).table = s.table := rfl
@[simp] theorem settle_drovers (s : State) : (settle s).drovers = s.drovers := rfl
@[simp] theorem settle_store (s : State) : (settle s).store = s.store := rfl
@[simp] theorem settle_gate (s : State) : (settle s).gate = s.gate := rfl
@[simp] theorem settle_msgs (s : State) : (settle s).msgs = s.msgs := rfl
@[simp] theorem settle_parser (s : State) : (settle s).parser = s.parser := rfl
@[simp] theorem settle_cls (s : State) : (settle s).cls = s.cls := rfl
@[simp] theorem settle_flights (s : State) : (settle s).flights = s.flights := rfl
@[simp] theorem settle_ghosts (s : State) : (settle s).ghosts = s.ghosts := rfl
@[simp] theorem settle_toQueue (s : State) : (settle s).toQueue = s.toQueue := rfl
@[simp] theorem settle_toPort (s : State) : (settle s).toPort = s.toPort := rfl
@[simp] theorem settle_rings (s : State) : (settle s).rings = s.rings := rfl
@[simp] theorem settle_dmas (s : State) : (settle s).dmas = s.dmas := rfl
@[simp] theorem settle_scans (s : State) : (settle s).scans = s.scans := rfl
@[simp] theorem settle_ports (s : State) : (settle s).ports = s.ports := rfl
@[simp] theorem settle_flash (s : State) : (settle s).flash = s.flash := rfl
@[simp] theorem settle_loader (s : State) : (settle s).loader = s.loader := rfl
@[simp] theorem settle_regs (s : State) : (settle s).regs = s.regs := rfl

/-! ### accessed -/

@[simp] theorem accessed_pending (s : State) (old : State) : (accessed old s).pending = s.pending := rfl
@[simp] theorem accessed_wire (s : State) (old : State) : (accessed old s).wire = s.wire := rfl
@[simp] theorem accessed_free (s : State) (old : State) : (accessed old s).free = s.free := rfl
@[simp] theorem accessed_now (s : State) (old : State) : (accessed old s).now = s.now := rfl
@[simp] theorem accessed_fuses (s : State) (old : State) : (accessed old s).fuses = s.fuses := rfl
@[simp] theorem accessed_power (s : State) (old : State) : (accessed old s).power = s.power := rfl
@[simp] theorem accessed_mode (s : State) (old : State) : (accessed old s).mode = s.mode := rfl
@[simp] theorem accessed_keeper (s : State) (old : State) : (accessed old s).keeper = s.keeper := rfl
@[simp] theorem accessed_time (s : State) (old : State) : (accessed old s).time = s.time := rfl
@[simp] theorem accessed_line (s : State) (old : State) : (accessed old s).line = s.line := rfl
@[simp] theorem accessed_keys (s : State) (old : State) : (accessed old s).keys = s.keys := rfl
@[simp] theorem accessed_reasm (s : State) (old : State) : (accessed old s).reasm = s.reasm := rfl
@[simp] theorem accessed_host (s : State) (old : State) : (accessed old s).host = s.host := rfl
@[simp] theorem accessed_perf (s : State) (old : State) : (accessed old s).perf = s.perf := rfl
@[simp] theorem accessed_paces (s : State) (old : State) : (accessed old s).paces = s.paces := rfl
@[simp] theorem accessed_serial (s : State) (old : State) : (accessed old s).serial = s.serial := rfl
@[simp] theorem accessed_past (s : State) (old : State) : (accessed old s).past = s.past := rfl
@[simp] theorem accessed_turns (s : State) (old : State) : (accessed old s).turns = s.turns := rfl
@[simp] theorem accessed_cistern (s : State) (old : State) : (accessed old s).cistern = s.cistern := rfl
@[simp] theorem accessed_res (s : State) (old : State) : (accessed old s).res = s.res := rfl
@[simp] theorem accessed_queues (s : State) (old : State) : (accessed old s).queues = s.queues := rfl
@[simp] theorem accessed_robins (s : State) (old : State) : (accessed old s).robins = s.robins := rfl
@[simp] theorem accessed_marks (s : State) (old : State) : (accessed old s).marks = s.marks := rfl
@[simp] theorem accessed_table (s : State) (old : State) : (accessed old s).table = s.table := rfl
@[simp] theorem accessed_drovers (s : State) (old : State) : (accessed old s).drovers = s.drovers := rfl
@[simp] theorem accessed_store (s : State) (old : State) : (accessed old s).store = s.store := rfl
@[simp] theorem accessed_gate (s : State) (old : State) : (accessed old s).gate = s.gate := rfl
@[simp] theorem accessed_msgs (s : State) (old : State) : (accessed old s).msgs = s.msgs := rfl
@[simp] theorem accessed_parser (s : State) (old : State) : (accessed old s).parser = s.parser := rfl
@[simp] theorem accessed_cls (s : State) (old : State) : (accessed old s).cls = s.cls := rfl
@[simp] theorem accessed_flights (s : State) (old : State) : (accessed old s).flights = s.flights := rfl
@[simp] theorem accessed_ghosts (s : State) (old : State) : (accessed old s).ghosts = s.ghosts := rfl
@[simp] theorem accessed_toQueue (s : State) (old : State) : (accessed old s).toQueue = s.toQueue := rfl
@[simp] theorem accessed_toPort (s : State) (old : State) : (accessed old s).toPort = s.toPort := rfl
@[simp] theorem accessed_rings (s : State) (old : State) : (accessed old s).rings = s.rings := rfl
@[simp] theorem accessed_dmas (s : State) (old : State) : (accessed old s).dmas = s.dmas := rfl
@[simp] theorem accessed_scans (s : State) (old : State) : (accessed old s).scans = s.scans := rfl
@[simp] theorem accessed_ports (s : State) (old : State) : (accessed old s).ports = s.ports := rfl
@[simp] theorem accessed_flash (s : State) (old : State) : (accessed old s).flash = s.flash := rfl
@[simp] theorem accessed_loader (s : State) (old : State) : (accessed old s).loader = s.loader := rfl
@[simp] theorem accessed_regs (s : State) (old : State) : (accessed old s).regs = s.regs := rfl

/-! ### hostWr -/

@[simp] theorem hostWr_pending (s : State) (a : DWord) (b : Bytes) : (hostWr s a b).pending = s.pending := rfl
@[simp] theorem hostWr_free (s : State) (a : DWord) (b : Bytes) : (hostWr s a b).free = s.free := rfl
@[simp] theorem hostWr_now (s : State) (a : DWord) (b : Bytes) : (hostWr s a b).now = s.now := rfl
@[simp] theorem hostWr_fuses (s : State) (a : DWord) (b : Bytes) : (hostWr s a b).fuses = s.fuses := rfl
@[simp] theorem hostWr_power (s : State) (a : DWord) (b : Bytes) : (hostWr s a b).power = s.power := rfl
@[simp] theorem hostWr_mode (s : State) (a : DWord) (b : Bytes) : (hostWr s a b).mode = s.mode := rfl
@[simp] theorem hostWr_keeper (s : State) (a : DWord) (b : Bytes) : (hostWr s a b).keeper = s.keeper := rfl
@[simp] theorem hostWr_time (s : State) (a : DWord) (b : Bytes) : (hostWr s a b).time = s.time := rfl
@[simp] theorem hostWr_line (s : State) (a : DWord) (b : Bytes) : (hostWr s a b).line = s.line := rfl
@[simp] theorem hostWr_keys (s : State) (a : DWord) (b : Bytes) : (hostWr s a b).keys = s.keys := rfl
@[simp] theorem hostWr_reasm (s : State) (a : DWord) (b : Bytes) : (hostWr s a b).reasm = s.reasm := rfl
@[simp] theorem hostWr_intc (s : State) (a : DWord) (b : Bytes) : (hostWr s a b).intc = s.intc := rfl
@[simp] theorem hostWr_host (s : State) (a : DWord) (b : Bytes) : (hostWr s a b).host = s.host := rfl
@[simp] theorem hostWr_perf (s : State) (a : DWord) (b : Bytes) : (hostWr s a b).perf = s.perf := rfl
@[simp] theorem hostWr_paces (s : State) (a : DWord) (b : Bytes) : (hostWr s a b).paces = s.paces := rfl
@[simp] theorem hostWr_serial (s : State) (a : DWord) (b : Bytes) : (hostWr s a b).serial = s.serial := rfl
@[simp] theorem hostWr_past (s : State) (a : DWord) (b : Bytes) : (hostWr s a b).past = s.past := rfl
@[simp] theorem hostWr_turns (s : State) (a : DWord) (b : Bytes) : (hostWr s a b).turns = s.turns := rfl
@[simp] theorem hostWr_cistern (s : State) (a : DWord) (b : Bytes) : (hostWr s a b).cistern = s.cistern := rfl
@[simp] theorem hostWr_res (s : State) (a : DWord) (b : Bytes) : (hostWr s a b).res = s.res := rfl
@[simp] theorem hostWr_queues (s : State) (a : DWord) (b : Bytes) : (hostWr s a b).queues = s.queues := rfl
@[simp] theorem hostWr_robins (s : State) (a : DWord) (b : Bytes) : (hostWr s a b).robins = s.robins := rfl
@[simp] theorem hostWr_marks (s : State) (a : DWord) (b : Bytes) : (hostWr s a b).marks = s.marks := rfl
@[simp] theorem hostWr_table (s : State) (a : DWord) (b : Bytes) : (hostWr s a b).table = s.table := rfl
@[simp] theorem hostWr_drovers (s : State) (a : DWord) (b : Bytes) : (hostWr s a b).drovers = s.drovers := rfl
@[simp] theorem hostWr_store (s : State) (a : DWord) (b : Bytes) : (hostWr s a b).store = s.store := rfl
@[simp] theorem hostWr_gate (s : State) (a : DWord) (b : Bytes) : (hostWr s a b).gate = s.gate := rfl
@[simp] theorem hostWr_msgs (s : State) (a : DWord) (b : Bytes) : (hostWr s a b).msgs = s.msgs := rfl
@[simp] theorem hostWr_parser (s : State) (a : DWord) (b : Bytes) : (hostWr s a b).parser = s.parser := rfl
@[simp] theorem hostWr_cls (s : State) (a : DWord) (b : Bytes) : (hostWr s a b).cls = s.cls := rfl
@[simp] theorem hostWr_flights (s : State) (a : DWord) (b : Bytes) : (hostWr s a b).flights = s.flights := rfl
@[simp] theorem hostWr_ghosts (s : State) (a : DWord) (b : Bytes) : (hostWr s a b).ghosts = s.ghosts := rfl
@[simp] theorem hostWr_toQueue (s : State) (a : DWord) (b : Bytes) : (hostWr s a b).toQueue = s.toQueue := rfl
@[simp] theorem hostWr_toPort (s : State) (a : DWord) (b : Bytes) : (hostWr s a b).toPort = s.toPort := rfl
@[simp] theorem hostWr_rings (s : State) (a : DWord) (b : Bytes) : (hostWr s a b).rings = s.rings := rfl
@[simp] theorem hostWr_dmas (s : State) (a : DWord) (b : Bytes) : (hostWr s a b).dmas = s.dmas := rfl
@[simp] theorem hostWr_scans (s : State) (a : DWord) (b : Bytes) : (hostWr s a b).scans = s.scans := rfl
@[simp] theorem hostWr_ports (s : State) (a : DWord) (b : Bytes) : (hostWr s a b).ports = s.ports := rfl
@[simp] theorem hostWr_flash (s : State) (a : DWord) (b : Bytes) : (hostWr s a b).flash = s.flash := rfl
@[simp] theorem hostWr_loader (s : State) (a : DWord) (b : Bytes) : (hostWr s a b).loader = s.loader := rfl
@[simp] theorem hostWr_regs (s : State) (a : DWord) (b : Bytes) : (hostWr s a b).regs = s.regs := rfl

/-! ### hostRd -/

@[simp] theorem hostRd_pending (s : State) (a : DWord) (n : Nat) : (hostRd s a n).pending = s.pending := rfl
@[simp] theorem hostRd_free (s : State) (a : DWord) (n : Nat) : (hostRd s a n).free = s.free := rfl
@[simp] theorem hostRd_now (s : State) (a : DWord) (n : Nat) : (hostRd s a n).now = s.now := rfl
@[simp] theorem hostRd_fuses (s : State) (a : DWord) (n : Nat) : (hostRd s a n).fuses = s.fuses := rfl
@[simp] theorem hostRd_power (s : State) (a : DWord) (n : Nat) : (hostRd s a n).power = s.power := rfl
@[simp] theorem hostRd_mode (s : State) (a : DWord) (n : Nat) : (hostRd s a n).mode = s.mode := rfl
@[simp] theorem hostRd_keeper (s : State) (a : DWord) (n : Nat) : (hostRd s a n).keeper = s.keeper := rfl
@[simp] theorem hostRd_time (s : State) (a : DWord) (n : Nat) : (hostRd s a n).time = s.time := rfl
@[simp] theorem hostRd_line (s : State) (a : DWord) (n : Nat) : (hostRd s a n).line = s.line := rfl
@[simp] theorem hostRd_keys (s : State) (a : DWord) (n : Nat) : (hostRd s a n).keys = s.keys := rfl
@[simp] theorem hostRd_reasm (s : State) (a : DWord) (n : Nat) : (hostRd s a n).reasm = s.reasm := rfl
@[simp] theorem hostRd_intc (s : State) (a : DWord) (n : Nat) : (hostRd s a n).intc = s.intc := rfl
@[simp] theorem hostRd_host (s : State) (a : DWord) (n : Nat) : (hostRd s a n).host = s.host := rfl
@[simp] theorem hostRd_perf (s : State) (a : DWord) (n : Nat) : (hostRd s a n).perf = s.perf := rfl
@[simp] theorem hostRd_paces (s : State) (a : DWord) (n : Nat) : (hostRd s a n).paces = s.paces := rfl
@[simp] theorem hostRd_serial (s : State) (a : DWord) (n : Nat) : (hostRd s a n).serial = s.serial := rfl
@[simp] theorem hostRd_past (s : State) (a : DWord) (n : Nat) : (hostRd s a n).past = s.past := rfl
@[simp] theorem hostRd_turns (s : State) (a : DWord) (n : Nat) : (hostRd s a n).turns = s.turns := rfl
@[simp] theorem hostRd_cistern (s : State) (a : DWord) (n : Nat) : (hostRd s a n).cistern = s.cistern := rfl
@[simp] theorem hostRd_res (s : State) (a : DWord) (n : Nat) : (hostRd s a n).res = s.res := rfl
@[simp] theorem hostRd_queues (s : State) (a : DWord) (n : Nat) : (hostRd s a n).queues = s.queues := rfl
@[simp] theorem hostRd_robins (s : State) (a : DWord) (n : Nat) : (hostRd s a n).robins = s.robins := rfl
@[simp] theorem hostRd_marks (s : State) (a : DWord) (n : Nat) : (hostRd s a n).marks = s.marks := rfl
@[simp] theorem hostRd_table (s : State) (a : DWord) (n : Nat) : (hostRd s a n).table = s.table := rfl
@[simp] theorem hostRd_drovers (s : State) (a : DWord) (n : Nat) : (hostRd s a n).drovers = s.drovers := rfl
@[simp] theorem hostRd_store (s : State) (a : DWord) (n : Nat) : (hostRd s a n).store = s.store := rfl
@[simp] theorem hostRd_gate (s : State) (a : DWord) (n : Nat) : (hostRd s a n).gate = s.gate := rfl
@[simp] theorem hostRd_msgs (s : State) (a : DWord) (n : Nat) : (hostRd s a n).msgs = s.msgs := rfl
@[simp] theorem hostRd_parser (s : State) (a : DWord) (n : Nat) : (hostRd s a n).parser = s.parser := rfl
@[simp] theorem hostRd_cls (s : State) (a : DWord) (n : Nat) : (hostRd s a n).cls = s.cls := rfl
@[simp] theorem hostRd_flights (s : State) (a : DWord) (n : Nat) : (hostRd s a n).flights = s.flights := rfl
@[simp] theorem hostRd_ghosts (s : State) (a : DWord) (n : Nat) : (hostRd s a n).ghosts = s.ghosts := rfl
@[simp] theorem hostRd_toQueue (s : State) (a : DWord) (n : Nat) : (hostRd s a n).toQueue = s.toQueue := rfl
@[simp] theorem hostRd_toPort (s : State) (a : DWord) (n : Nat) : (hostRd s a n).toPort = s.toPort := rfl
@[simp] theorem hostRd_rings (s : State) (a : DWord) (n : Nat) : (hostRd s a n).rings = s.rings := rfl
@[simp] theorem hostRd_dmas (s : State) (a : DWord) (n : Nat) : (hostRd s a n).dmas = s.dmas := rfl
@[simp] theorem hostRd_scans (s : State) (a : DWord) (n : Nat) : (hostRd s a n).scans = s.scans := rfl
@[simp] theorem hostRd_ports (s : State) (a : DWord) (n : Nat) : (hostRd s a n).ports = s.ports := rfl
@[simp] theorem hostRd_flash (s : State) (a : DWord) (n : Nat) : (hostRd s a n).flash = s.flash := rfl
@[simp] theorem hostRd_loader (s : State) (a : DWord) (n : Nat) : (hostRd s a n).loader = s.loader := rfl
@[simp] theorem hostRd_regs (s : State) (a : DWord) (n : Nat) : (hostRd s a n).regs = s.regs := rfl

/-! ### What an updated entry reads as -/

@[simp] theorem queue_setQueue_same (s : State) (q : Nat) (x : Queue) : queue (setQueue s q x) q = x := look_put_same ..
theorem queue_setQueue_ne (s : State) (q : Nat) (x : Queue) {j : Nat} (h : j ≠ q) : queue (setQueue s q x) j = queue s j := look_put_ne _ _ _ h
@[simp] theorem drover_setDrover_same (s : State) (t : Nat) (x : Drover) : drover (setDrover s t x) t = x := look_put_same ..
theorem drover_setDrover_ne (s : State) (t : Nat) (x : Drover) {j : Nat} (h : j ≠ t) : drover (setDrover s t x) j = drover s j := look_put_ne _ _ _ h
@[simp] theorem scan_setScan_same (s : State) (e : Nat) (x : Scan) : scan (setScan s e x) e = x := look_put_same ..
theorem scan_setScan_ne (s : State) (e : Nat) (x : Scan) {j : Nat} (h : j ≠ e) : scan (setScan s e x) j = scan s j := look_put_ne _ _ _ h
@[simp] theorem port_setPort_same (s : State) (p : Nat) (x : Port) : port (setPort s p x) p = x := look_put_same ..
theorem port_setPort_ne (s : State) (p : Nat) (x : Port) {j : Nat} (h : j ≠ p) : port (setPort s p x) j = port s j := look_put_ne _ _ _ h
@[simp] theorem dma_setDma_same (s : State) (c : Nat) (x : Dma) : dma (setDma s c x) c = x := look_put_same ..
theorem dma_setDma_ne (s : State) (c : Nat) (x : Dma) {j : Nat} (h : j ≠ c) : dma (setDma s c x) j = dma s j := look_put_ne _ _ _ h
@[simp] theorem chan_setChan_same (s : State) (c : Nat) (x : Channel) : chan (setChan s c x) c = x := look_put_same ..
theorem chan_setChan_ne (s : State) (c : Nat) (x : Channel) {j : Nat} (h : j ≠ c) : chan (setChan s c x) j = chan s j := look_put_ne _ _ _ h
@[simp] theorem ruleSlot_setSlot_same (s : State) (k : Nat) (x : RuleSlot) : ruleSlot (setSlot s k x) k = x := look_put_same ..
theorem ruleSlot_setSlot_ne (s : State) (k : Nat) (x : RuleSlot) {j : Nat} (h : j ≠ k) : ruleSlot (setSlot s k x) j = ruleSlot s j := look_put_ne _ _ _ h
@[simp] theorem pace_setPace_same (s : State) (t : Nat) (x : Pace) : pace (setPace s t x) t = x := look_put_same ..
theorem pace_setPace_ne (s : State) (t : Nat) (x : Pace) {j : Nat} (h : j ≠ t) : pace (setPace s t x) j = pace s j := look_put_ne _ _ _ h
@[simp] theorem lane_setLane_same (s : State) (l : Nat) (x : Lane) : lane (setLane s l x) l = x := look_put_same ..
theorem lane_setLane_ne (s : State) (l : Nat) (x : Lane) {j : Nat} (h : j ≠ l) : lane (setLane s l x) j = lane s j := look_put_ne _ _ _ h
@[simp] theorem comparator_setComparator_same (s : State) (n : Nat) (x : Comparator) : comparator (setComparator s n x) n = x := look_put_same ..
theorem comparator_setComparator_ne (s : State) (n : Nat) (x : Comparator) {j : Nat} (h : j ≠ n) : comparator (setComparator s n x) j = comparator s j := look_put_ne _ _ _ h
@[simp] theorem dom_setDom_same (s : State) (d : Bool) (x : Domain) : dom (setDom s d x) d = x := look_put_same ..
theorem dom_setDom_other (s : State) (d : Bool) (x : Domain) : dom (setDom s d x) (!d) = dom s (!d) := look_put_ne _ _ _ (by cases d <;> decide)
@[simp] theorem ring_setRing_same (s : State) (rx : Bool) (r : Nat) (x : Ring) : ring (setRing s rx r x) rx r = x := look_put_same ..
theorem ring_setRing_ne (s : State) (rx : Bool) (r : Nat) (x : Ring) {n : Nat} (h : n ≠ b2n rx * 256 + r) :
    look {} (setRing s rx r x).rings n = look {} s.rings n := look_put_ne _ _ _ h

end Sys2Proof.Machine
end

