-- ==== Sys2Proof/Laws/Regs.lean ====
section
/-!
SUPPORT. What a register reads as after each operation on registers: writes, pairs, counters, events and fault records.
-/
namespace Sys2Proof.Machine

/-- A register written reads as written. -/
@[simp] theorem rd_wr_same (s : State) (a : Nat) (v : Word) : rd (wr s a v) a = v := look_put_same ..

/-- Every other register reads as before. -/
theorem rd_wr_ne (s : State) {a b : Nat} (v : Word) (h : b ≠ a) : rd (wr s a v) b = rd s b := by
  unfold rd wr put
  dsimp only
  split
  · exact look_del_ne _ _ h
  · exact look_ins_ne _ _ _ h

theorem rd_wr (s : State) (a b : Nat) (v : Word) : rd (wr s a v) b = if b = a then v else rd s b := by
  split
  · rename_i h; subst h; exact rd_wr_same s b v
  · rename_i h; exact rd_wr_ne s v h

/-- Registers read alike in states with the same registers. -/
theorem rd_congr {s t : State} (h : t.regs = s.regs) (a : Nat) : rd t a = rd s a := by unfold rd; rw [h]

theorem rd64_congr {s t : State} (h : t.regs = s.regs) (a : Nat) : rd64 t a = rd64 s a := by unfold rd64; rw [rd_congr h, rd_congr h]

theorem rfld_congr {s t : State} (h : t.regs = s.regs) (a lo n : Nat) : rfld t a lo n = rfld s a lo n := by unfold rfld; rw [rd_congr h]

theorem rbit_congr {s t : State} (h : t.regs = s.regs) (a i : Nat) : rbit t a i = rbit s a i := by unfold rbit; rw [rd_congr h]

theorem rd_wr64_lo (s : State) (a : Nat) (v : DWord) : rd (wr64 s a v) a = v.extractLsb' 0 32 := by
  unfold wr64; rw [rd_wr_ne _ _ (by omega), rd_wr_same]

theorem rd_wr64_hi (s : State) (a : Nat) (v : DWord) : rd (wr64 s a v) (a + 4) = v.extractLsb' 32 32 := by
  unfold wr64; rw [rd_wr_same]

/-- A pair written reads as written. -/
@[simp] theorem rd64_wr64_same (s : State) (a : Nat) (v : DWord) : rd64 (wr64 s a v) a = v := by
  unfold rd64
  rw [rd_wr64_lo, rd_wr64_hi]
  ext i hi
  simp only [BitVec.getElem_append, BitVec.getElem_extractLsb', Nat.zero_add]
  split
  · exact BitVec.getLsbD_eq_getElem hi
  · rw [show 32 + (i - 32) = i by omega]; exact BitVec.getLsbD_eq_getElem hi

/-- Registers outside a pair read as before. -/
theorem rd_wr64_ne (s : State) {a b : Nat} (v : DWord) (h : b ≠ a) (h4 : b ≠ a + 4) : rd (wr64 s a v) b = rd s b := by
  unfold wr64; rw [rd_wr_ne _ _ h4, rd_wr_ne _ _ h]

theorem rd_wrField_same (s : State) (a : Nat) (v rw_ w1c : Word) : rd (wrField s a v rw_ w1c) a = merge (rd s a) v rw_ w1c := rd_wr_same ..

theorem rd_wrField_ne (s : State) {a b : Nat} (v rw_ w1c : Word) (h : b ≠ a) : rd (wrField s a v rw_ w1c) b = rd s b := rd_wr_ne _ _ h

theorem rd_bumpBy_same (s : State) (a n : Nat) : rd (bumpBy s a n) a = sat32 ((rd s a).toNat + n) := rd_wr_same ..

theorem rd_bumpBy_ne (s : State) {a b : Nat} (n : Nat) (h : b ≠ a) : rd (bumpBy s a n) b = rd s b := rd_wr_ne _ _ h

theorem rd_bump_same (s : State) (a : Nat) : rd (bump s a) a = sat32 ((rd s a).toNat + 1) := rd_wr_same ..

theorem rd_bump_ne (s : State) {a b : Nat} (h : b ≠ a) : rd (bump s a) b = rd s b := rd_wr_ne _ _ h

theorem rd_event_same (s : State) (a i : Nat) : rd (event s a i) a = rd s a ||| oneHot i := rd_wr_same ..

theorem rd_event_ne (s : State) {a b : Nat} (i : Nat) (h : b ≠ a) : rd (event s a i) b = rd s b := rd_wr_ne _ _ h

theorem rd64_bump64_same (s : State) (a n : Nat) : rd64 (bump64 s a n) a = rd64 s a + BitVec.ofNat 64 n := rd64_wr64_same ..

theorem rd_bump64_ne (s : State) {a b : Nat} (n : Nat) (h : b ≠ a) (h4 : b ≠ a + 4) : rd (bump64 s a n) b = rd s b := rd_wr64_ne _ _ h h4

/-- The latch that a LO read leaves is the one that the path's next HI read answers. -/
@[simp] theorem getLatch_setLatch_same (s : State) (p a : Nat) (v : Word) : getLatch (setLatch s p a v) p a = v := look_put_same ..

/-- One bit of a word with a bit set. -/
theorem oneHot_getLsbD (i j : Nat) (hj : j < 32) : (oneHot i).getLsbD j = decide (i = j) := by
  unfold oneHot
  rw [BitVec.getLsbD_ofNat]
  simp [hj, Nat.one_shiftLeft, Nat.testBit_two_pow]

theorem bit_or_oneHot (w : Word) (i j : Nat) (hj : j < 32) : bit (w ||| oneHot i) j = (bit w j || decide (i = j)) := by
  unfold bit
  rw [BitVec.getLsbD_or, oneHot_getLsbD i j hj]

theorem bit_setBit (w : Word) (i j : Nat) (b : Bool) (hj : j < 32) : bit (setBit w i b) j = if i = j then b else bit w j := by
  unfold setBit
  cases b
  · simp only [bit, Bool.false_eq_true, if_false, BitVec.getLsbD_and, BitVec.getLsbD_not, oneHot_getLsbD i j hj, hj, decide_true, Bool.true_and]
    by_cases h : i = j <;> simp [h]
  · rw [if_pos rfl, bit_or_oneHot _ _ _ hj]
    by_cases h : i = j <;> simp [h]

/-- Registers outside the record that a fault is captured in read as before. -/
theorem rd_capture_out (s : State) (x : FaultNote) {a : Nat} (h : a < x.base ∨ x.base + 0x20 ≤ a) : rd (capture s x) a = rd s a := by
  unfold capture
  dsimp only
  split
  · rw [rd_wr_ne _ _ (by omega)]
  · rw [rd_wr64_ne _ _ (by omega) (by omega), rd_wr64_ne _ _ (by omega) (by omega), rd_wr_ne _ _ (by omega),
      rd_wr_ne _ _ (by omega)]

/-- Registers outside the block's record read as before. -/
theorem rd_fault_out (s : State) (b : Block) (code inst : Nat) (ident : DWord) {a : Nat}
    (h : a < b.base ∨ b.base + 0x20 ≤ a) : rd (fault s b code inst ident) a = rd s a := by
  unfold fault faultAt
  dsimp only
  rw [rd_capture_out _ _ h, rd_bump_ne _ (by omega)]
  rfl

end Sys2Proof.Machine
end

