-- ==== Sys2Proof/Laws/Outcome.lean ====
section
/-!
SUPPORT. What the outcome of a meaning is: a next state with the lines sampled, with the effect where its condition holds and without it
where it does not.
-/
namespace Sys2Proof.Machine

theorem done_eq (s : State) : done s = .next (settle s) := rfl

theorem viaBar_open {s : State} (h : barOpen s = true) (f : State → State) : viaBar s f = .next (accessed s (settle (f s))) := by
  unfold viaBar; rw [if_pos h]

theorem viaBar_closed {s : State} (h : barOpen s = false) (f : State → State) : viaBar s f = .next (settle s) := by
  unfold viaBar; rw [if_neg (by simp [h])]; rfl

theorem viaCore_running {s : State} (h : running s = true) (f : State → State) : viaCore s f = .next (settle (f s)) := by
  unfold viaCore; rw [if_pos h]; rfl

theorem viaCore_stopped {s : State} (h : running s = false) (f : State → State) : viaCore s f = .next (settle s) := by
  unfold viaCore; rw [if_neg (by simp [h])]; rfl

/-- A register-path command answers a next state: the effect's, kept for a delivery commit of its instant, or the state's own, with the lines
sampled. -/
theorem viaBar_cases {s t : State} {f : State → State} (h : viaBar s f = .next t) : t = accessed s (settle (f s)) ∨ t = settle s := by
  cases hb : barOpen s
  · rw [viaBar_closed hb] at h; injection h with h; exact .inr h.symm
  · rw [viaBar_open hb] at h; injection h with h; exact .inl h.symm

theorem viaCore_cases {s t : State} {f : State → State} (h : viaCore s f = .next t) : t = settle (f s) ∨ t = settle s := by
  cases hb : running s
  · rw [viaCore_stopped hb] at h; injection h with h; exact .inr h.symm
  · rw [viaCore_running hb] at h; injection h with h; exact .inl h.symm

theorem viaBar_total (s : State) (f : State → State) : ∃ t, viaBar s f = .next t := by
  unfold viaBar; split <;> exact ⟨_, rfl⟩

theorem viaCore_total (s : State) (f : State → State) : ∃ t, viaCore s f = .next t := by
  unfold viaCore; split <;> exact ⟨_, rfl⟩

theorem barOpen_running {s : State} (h : barOpen s = true) : running s = true := by
  unfold barOpen at h
  unfold running
  revert h
  cases s.power.coreUp <;> cases s.power.barOpen <;> simp

@[simp] theorem rd_settle (s : State) (a : Nat) : rd (settle s) a = rd s a := rfl
@[simp] theorem rd64_settle (s : State) (a : Nat) : rd64 (settle s) a = rd64 s a := rfl

/-- What an access keeps for a delivery commit of its instant is the interrupt controller's alone. -/
theorem accessed_eq (old s : State) : accessed old s = { s with intc := (accessed old s).intc } := rfl

@[simp] theorem rd_accessed (old s : State) (a : Nat) : rd (accessed old s) a = rd s a := rfl
@[simp] theorem rd64_accessed (old s : State) (a : Nat) : rd64 (accessed old s) a = rd64 s a := rfl

/-- Sampling the lines changes nothing but what the interrupt controller samples. -/
theorem settle_eq (s : State) : settle s = { s with intc := (settle s).intc } := rfl

end Sys2Proof.Machine
end

