-- ==== Sys2Proof/Laws/Frame.lean ====
section
/-!
SUPPORT. What an operation may change: the fields of the state as names, and the frame of an operation, which leaves every other field as it
was and keeps the cistern's memory canonical.
-/
namespace Sys2Proof.Machine

/-- The fields of the state, by name. -/
inductive Field where
  | pending | wire | free | now | fuses | power | mode | keeper | time | line | keys | reasm | intc | host | perf | paces | serial | past | turns | cistern | res | queues | robins | marks | table | drovers | store | gate | msgs | parser | cls | flights | ghosts | toQueue | toPort | rings | dmas | scans | ports | flash | loader | regs
  deriving DecidableEq, Repr

/-- The two states agree in the field. -/
def Field.same : Field → State → State → Prop
  | .pending, s, t => t.pending = s.pending
  | .wire, s, t => t.wire = s.wire
  | .free, s, t => t.free = s.free
  | .now, s, t => t.now = s.now
  | .fuses, s, t => t.fuses = s.fuses
  | .power, s, t => t.power = s.power
  | .mode, s, t => t.mode = s.mode
  | .keeper, s, t => t.keeper = s.keeper
  | .time, s, t => t.time = s.time
  | .line, s, t => t.line = s.line
  | .keys, s, t => t.keys = s.keys
  | .reasm, s, t => t.reasm = s.reasm
  | .intc, s, t => t.intc = s.intc
  | .host, s, t => t.host = s.host
  | .perf, s, t => t.perf = s.perf
  | .paces, s, t => t.paces = s.paces
  | .serial, s, t => t.serial = s.serial
  | .past, s, t => t.past = s.past
  | .turns, s, t => t.turns = s.turns
  | .cistern, s, t => t.cistern = s.cistern
  | .res, s, t => t.res = s.res
  | .queues, s, t => t.queues = s.queues
  | .robins, s, t => t.robins = s.robins
  | .marks, s, t => t.marks = s.marks
  | .table, s, t => t.table = s.table
  | .drovers, s, t => t.drovers = s.drovers
  | .store, s, t => t.store = s.store
  | .gate, s, t => t.gate = s.gate
  | .msgs, s, t => t.msgs = s.msgs
  | .parser, s, t => t.parser = s.parser
  | .cls, s, t => t.cls = s.cls
  | .flights, s, t => t.flights = s.flights
  | .ghosts, s, t => t.ghosts = s.ghosts
  | .toQueue, s, t => t.toQueue = s.toQueue
  | .toPort, s, t => t.toPort = s.toPort
  | .rings, s, t => t.rings = s.rings
  | .dmas, s, t => t.dmas = s.dmas
  | .scans, s, t => t.scans = s.scans
  | .ports, s, t => t.ports = s.ports
  | .flash, s, t => t.flash = s.flash
  | .loader, s, t => t.loader = s.loader
  | .regs, s, t => t.regs = s.regs

/-- The place of a field in the state. -/
def Field.place : Field → Nat
  | .pending => 0
  | .wire => 1
  | .free => 2
  | .now => 3
  | .fuses => 4
  | .power => 5
  | .mode => 6
  | .keeper => 7
  | .time => 8
  | .line => 9
  | .keys => 10
  | .reasm => 11
  | .intc => 12
  | .host => 13
  | .perf => 14
  | .paces => 15
  | .serial => 16
  | .past => 17
  | .turns => 18
  | .cistern => 19
  | .res => 20
  | .queues => 21
  | .robins => 22
  | .marks => 23
  | .table => 24
  | .drovers => 25
  | .store => 26
  | .gate => 27
  | .msgs => 28
  | .parser => 29
  | .cls => 30
  | .flights => 31
  | .ghosts => 32
  | .toQueue => 33
  | .toPort => 34
  | .rings => 35
  | .dmas => 36
  | .scans => 37
  | .ports => 38
  | .flash => 39
  | .loader => 40
  | .regs => 41

/-- `f` is among the fields `l`. -/
def Field.isIn (f : Field) (l : List Field) : Bool := l.any fun g => Nat.beq f.place g.place

/-- Every field of `a` is among `b`. -/
def Field.sub (a b : List Field) : Bool := a.all fun f => f.isIn b

/-- The cistern's memory is in canonical form. -/
abbrev MemOk (s : State) : Prop := Memory.wf s.cistern.mem = true

/-- From `s` to `t` only fields of `l` may differ, and a canonical memory stays canonical. -/
def Frame (l : List Field) (s t : State) : Prop := (∀ f : Field, f.isIn l = false → f.same s t) ∧ (MemOk s → MemOk t)

theorem Field.isIn_of_sub {a b : List Field} {f : Field} (h : Field.sub a b = true) (hf : f.isIn b = false) : f.isIn a = false := by
  unfold Field.isIn at *
  rw [List.any_eq_false] at *
  intro g hg hfg
  have h1 := List.all_eq_true.1 h g hg
  unfold Field.isIn at h1
  rw [List.any_eq_true] at h1
  obtain ⟨x, hx, he⟩ := h1
  exact hf x hx (by rw [Nat.eq_of_beq_eq_true hfg, Nat.eq_of_beq_eq_true he]; exact Nat.beq_refl _)

theorem Field.sub_trans {a b c : List Field} (h1 : Field.sub a b = true) (h2 : Field.sub b c = true) : Field.sub a c = true := by
  unfold Field.sub
  rw [List.all_eq_true]
  intro f hf
  by_contra hn
  have := Field.isIn_of_sub (f := f) h1 (Field.isIn_of_sub h2 (by simpa using hn))
  unfold Field.isIn at this
  rw [List.any_eq_false] at this
  exact this f hf (Nat.beq_refl _)

theorem Frame.refl {l : List Field} {s : State} : Frame l s s := ⟨fun f _ => by cases f <;> rfl, id⟩

theorem Frame.trans {l : List Field} {s t u : State} (h : Frame l s t) (h' : Frame l t u) : Frame l s u := by
  refine ⟨fun f hf => ?_, fun hm => h'.2 (h.2 hm)⟩
  have a := h.1 f hf
  have b := h'.1 f hf
  cases f <;> exact Eq.trans b a

/-- A frame of fewer fields is one of more. -/
theorem Frame.weaken {l m : List Field} {s t : State} (hs : Field.sub l m = true) (h : Frame l s t) : Frame m s t :=
  ⟨fun f hf => h.1 f (Field.isIn_of_sub hs hf), h.2⟩

theorem Frame.andThen {l m : List Field} {s t u : State} (h' : Frame l t u) (hs : Field.sub l m = true) (h : Frame m s t) : Frame m s u :=
  h.trans (h'.weaken hs)

theorem Frame.fst {α : Type} {l : List Field} {s : State} {x : State × α} {b : α} {t : State} (e : x = (t, b)) (h : Frame l s x.1) : Frame l s t := by
  subst e; exact h

theorem Frame.snd {α : Type} {l : List Field} {s : State} {x : α × State} {b : α} {t : State} (e : x = (b, t)) (h : Frame l s x.2) : Frame l s t := by
  subst e; exact h

theorem Frame.foldl {α : Type} {m : List Field} {s0 : State} {g : State → α → State} {l : List α} {s : State}
    (hg : ∀ s x, Frame m s0 s → Frame m s0 (g s x)) (h : Frame m s0 s) : Frame m s0 (l.foldl g s) := by
  induction l generalizing s with
  | nil => exact h
  | cons x l ih => exact ih (hg s x h)

theorem Frame.foldr {α : Type} {m : List Field} {s0 : State} {g : α → State → State} {l : List α} {s : State}
    (hg : ∀ x s, Frame m s0 s → Frame m s0 (g x s)) (h : Frame m s0 s) : Frame m s0 (l.foldr g s) := by
  induction l with
  | nil => exact h
  | cons x l ih => exact hg x _ ih

theorem Frame.pending_eq {l : List Field} {s t : State} (h : Frame l s t) (hf : Field.isIn .pending l = false) : t.pending = s.pending := h.1 .pending hf
theorem Frame.wire_eq {l : List Field} {s t : State} (h : Frame l s t) (hf : Field.isIn .wire l = false) : t.wire = s.wire := h.1 .wire hf
theorem Frame.free_eq {l : List Field} {s t : State} (h : Frame l s t) (hf : Field.isIn .free l = false) : t.free = s.free := h.1 .free hf
theorem Frame.now_eq {l : List Field} {s t : State} (h : Frame l s t) (hf : Field.isIn .now l = false) : t.now = s.now := h.1 .now hf
theorem Frame.fuses_eq {l : List Field} {s t : State} (h : Frame l s t) (hf : Field.isIn .fuses l = false) : t.fuses = s.fuses := h.1 .fuses hf
theorem Frame.power_eq {l : List Field} {s t : State} (h : Frame l s t) (hf : Field.isIn .power l = false) : t.power = s.power := h.1 .power hf
theorem Frame.mode_eq {l : List Field} {s t : State} (h : Frame l s t) (hf : Field.isIn .mode l = false) : t.mode = s.mode := h.1 .mode hf
theorem Frame.keeper_eq {l : List Field} {s t : State} (h : Frame l s t) (hf : Field.isIn .keeper l = false) : t.keeper = s.keeper := h.1 .keeper hf
theorem Frame.time_eq {l : List Field} {s t : State} (h : Frame l s t) (hf : Field.isIn .time l = false) : t.time = s.time := h.1 .time hf
theorem Frame.line_eq {l : List Field} {s t : State} (h : Frame l s t) (hf : Field.isIn .line l = false) : t.line = s.line := h.1 .line hf
theorem Frame.keys_eq {l : List Field} {s t : State} (h : Frame l s t) (hf : Field.isIn .keys l = false) : t.keys = s.keys := h.1 .keys hf
theorem Frame.reasm_eq {l : List Field} {s t : State} (h : Frame l s t) (hf : Field.isIn .reasm l = false) : t.reasm = s.reasm := h.1 .reasm hf
theorem Frame.intc_eq {l : List Field} {s t : State} (h : Frame l s t) (hf : Field.isIn .intc l = false) : t.intc = s.intc := h.1 .intc hf
theorem Frame.host_eq {l : List Field} {s t : State} (h : Frame l s t) (hf : Field.isIn .host l = false) : t.host = s.host := h.1 .host hf
theorem Frame.perf_eq {l : List Field} {s t : State} (h : Frame l s t) (hf : Field.isIn .perf l = false) : t.perf = s.perf := h.1 .perf hf
theorem Frame.paces_eq {l : List Field} {s t : State} (h : Frame l s t) (hf : Field.isIn .paces l = false) : t.paces = s.paces := h.1 .paces hf
theorem Frame.serial_eq {l : List Field} {s t : State} (h : Frame l s t) (hf : Field.isIn .serial l = false) : t.serial = s.serial := h.1 .serial hf
theorem Frame.past_eq {l : List Field} {s t : State} (h : Frame l s t) (hf : Field.isIn .past l = false) : t.past = s.past := h.1 .past hf
theorem Frame.turns_eq {l : List Field} {s t : State} (h : Frame l s t) (hf : Field.isIn .turns l = false) : t.turns = s.turns := h.1 .turns hf
theorem Frame.cistern_eq {l : List Field} {s t : State} (h : Frame l s t) (hf : Field.isIn .cistern l = false) : t.cistern = s.cistern := h.1 .cistern hf
theorem Frame.res_eq {l : List Field} {s t : State} (h : Frame l s t) (hf : Field.isIn .res l = false) : t.res = s.res := h.1 .res hf
theorem Frame.queues_eq {l : List Field} {s t : State} (h : Frame l s t) (hf : Field.isIn .queues l = false) : t.queues = s.queues := h.1 .queues hf
theorem Frame.robins_eq {l : List Field} {s t : State} (h : Frame l s t) (hf : Field.isIn .robins l = false) : t.robins = s.robins := h.1 .robins hf
theorem Frame.marks_eq {l : List Field} {s t : State} (h : Frame l s t) (hf : Field.isIn .marks l = false) : t.marks = s.marks := h.1 .marks hf
theorem Frame.table_eq {l : List Field} {s t : State} (h : Frame l s t) (hf : Field.isIn .table l = false) : t.table = s.table := h.1 .table hf
theorem Frame.drovers_eq {l : List Field} {s t : State} (h : Frame l s t) (hf : Field.isIn .drovers l = false) : t.drovers = s.drovers := h.1 .drovers hf
theorem Frame.store_eq {l : List Field} {s t : State} (h : Frame l s t) (hf : Field.isIn .store l = false) : t.store = s.store := h.1 .store hf
theorem Frame.gate_eq {l : List Field} {s t : State} (h : Frame l s t) (hf : Field.isIn .gate l = false) : t.gate = s.gate := h.1 .gate hf
theorem Frame.msgs_eq {l : List Field} {s t : State} (h : Frame l s t) (hf : Field.isIn .msgs l = false) : t.msgs = s.msgs := h.1 .msgs hf
theorem Frame.parser_eq {l : List Field} {s t : State} (h : Frame l s t) (hf : Field.isIn .parser l = false) : t.parser = s.parser := h.1 .parser hf
theorem Frame.cls_eq {l : List Field} {s t : State} (h : Frame l s t) (hf : Field.isIn .cls l = false) : t.cls = s.cls := h.1 .cls hf
theorem Frame.flights_eq {l : List Field} {s t : State} (h : Frame l s t) (hf : Field.isIn .flights l = false) : t.flights = s.flights := h.1 .flights hf
theorem Frame.ghosts_eq {l : List Field} {s t : State} (h : Frame l s t) (hf : Field.isIn .ghosts l = false) : t.ghosts = s.ghosts := h.1 .ghosts hf
theorem Frame.toQueue_eq {l : List Field} {s t : State} (h : Frame l s t) (hf : Field.isIn .toQueue l = false) : t.toQueue = s.toQueue := h.1 .toQueue hf
theorem Frame.toPort_eq {l : List Field} {s t : State} (h : Frame l s t) (hf : Field.isIn .toPort l = false) : t.toPort = s.toPort := h.1 .toPort hf
theorem Frame.rings_eq {l : List Field} {s t : State} (h : Frame l s t) (hf : Field.isIn .rings l = false) : t.rings = s.rings := h.1 .rings hf
theorem Frame.dmas_eq {l : List Field} {s t : State} (h : Frame l s t) (hf : Field.isIn .dmas l = false) : t.dmas = s.dmas := h.1 .dmas hf
theorem Frame.scans_eq {l : List Field} {s t : State} (h : Frame l s t) (hf : Field.isIn .scans l = false) : t.scans = s.scans := h.1 .scans hf
theorem Frame.ports_eq {l : List Field} {s t : State} (h : Frame l s t) (hf : Field.isIn .ports l = false) : t.ports = s.ports := h.1 .ports hf
theorem Frame.flash_eq {l : List Field} {s t : State} (h : Frame l s t) (hf : Field.isIn .flash l = false) : t.flash = s.flash := h.1 .flash hf
theorem Frame.loader_eq {l : List Field} {s t : State} (h : Frame l s t) (hf : Field.isIn .loader l = false) : t.loader = s.loader := h.1 .loader hf
theorem Frame.regs_eq {l : List Field} {s t : State} (h : Frame l s t) (hf : Field.isIn .regs l = false) : t.regs = s.regs := h.1 .regs hf

theorem Frame.with_pending {l : List Field} {s t : State} {v0 : _} (hW : Field.sub [.pending] l = true) (h : Frame l s t) :
    Frame l s { t with pending := v0 } :=
  Frame.andThen (l := [.pending]) (t := t) ⟨fun f hf => by cases f <;> first | rfl | exact absurd hf (by decide), id⟩ hW h

theorem Frame.with_wire {l : List Field} {s t : State} {v0 : _} (hW : Field.sub [.wire] l = true) (h : Frame l s t) :
    Frame l s { t with wire := v0 } :=
  Frame.andThen (l := [.wire]) (t := t) ⟨fun f hf => by cases f <;> first | rfl | exact absurd hf (by decide), id⟩ hW h

theorem Frame.with_free {l : List Field} {s t : State} {v0 : _} (hW : Field.sub [.free] l = true) (h : Frame l s t) :
    Frame l s { t with free := v0 } :=
  Frame.andThen (l := [.free]) (t := t) ⟨fun f hf => by cases f <;> first | rfl | exact absurd hf (by decide), id⟩ hW h

theorem Frame.with_now {l : List Field} {s t : State} {v0 : _} (hW : Field.sub [.now] l = true) (h : Frame l s t) :
    Frame l s { t with now := v0 } :=
  Frame.andThen (l := [.now]) (t := t) ⟨fun f hf => by cases f <;> first | rfl | exact absurd hf (by decide), id⟩ hW h

theorem Frame.with_fuses {l : List Field} {s t : State} {v0 : _} (hW : Field.sub [.fuses] l = true) (h : Frame l s t) :
    Frame l s { t with fuses := v0 } :=
  Frame.andThen (l := [.fuses]) (t := t) ⟨fun f hf => by cases f <;> first | rfl | exact absurd hf (by decide), id⟩ hW h

theorem Frame.with_power {l : List Field} {s t : State} {v0 : _} (hW : Field.sub [.power] l = true) (h : Frame l s t) :
    Frame l s { t with power := v0 } :=
  Frame.andThen (l := [.power]) (t := t) ⟨fun f hf => by cases f <;> first | rfl | exact absurd hf (by decide), id⟩ hW h

theorem Frame.with_mode {l : List Field} {s t : State} {v0 : _} (hW : Field.sub [.mode] l = true) (h : Frame l s t) :
    Frame l s { t with mode := v0 } :=
  Frame.andThen (l := [.mode]) (t := t) ⟨fun f hf => by cases f <;> first | rfl | exact absurd hf (by decide), id⟩ hW h

theorem Frame.with_keeper {l : List Field} {s t : State} {v0 : _} (hW : Field.sub [.keeper] l = true) (h : Frame l s t) :
    Frame l s { t with keeper := v0 } :=
  Frame.andThen (l := [.keeper]) (t := t) ⟨fun f hf => by cases f <;> first | rfl | exact absurd hf (by decide), id⟩ hW h

theorem Frame.with_time {l : List Field} {s t : State} {v0 : _} (hW : Field.sub [.time] l = true) (h : Frame l s t) :
    Frame l s { t with time := v0 } :=
  Frame.andThen (l := [.time]) (t := t) ⟨fun f hf => by cases f <;> first | rfl | exact absurd hf (by decide), id⟩ hW h

theorem Frame.with_line {l : List Field} {s t : State} {v0 : _} (hW : Field.sub [.line] l = true) (h : Frame l s t) :
    Frame l s { t with line := v0 } :=
  Frame.andThen (l := [.line]) (t := t) ⟨fun f hf => by cases f <;> first | rfl | exact absurd hf (by decide), id⟩ hW h

theorem Frame.with_keys {l : List Field} {s t : State} {v0 : _} (hW : Field.sub [.keys] l = true) (h : Frame l s t) :
    Frame l s { t with keys := v0 } :=
  Frame.andThen (l := [.keys]) (t := t) ⟨fun f hf => by cases f <;> first | rfl | exact absurd hf (by decide), id⟩ hW h

theorem Frame.with_reasm {l : List Field} {s t : State} {v0 : _} (hW : Field.sub [.reasm] l = true) (h : Frame l s t) :
    Frame l s { t with reasm := v0 } :=
  Frame.andThen (l := [.reasm]) (t := t) ⟨fun f hf => by cases f <;> first | rfl | exact absurd hf (by decide), id⟩ hW h

theorem Frame.with_intc {l : List Field} {s t : State} {v0 : _} (hW : Field.sub [.intc] l = true) (h : Frame l s t) :
    Frame l s { t with intc := v0 } :=
  Frame.andThen (l := [.intc]) (t := t) ⟨fun f hf => by cases f <;> first | rfl | exact absurd hf (by decide), id⟩ hW h

theorem Frame.with_host {l : List Field} {s t : State} {v0 : _} (hW : Field.sub [.host] l = true) (h : Frame l s t) :
    Frame l s { t with host := v0 } :=
  Frame.andThen (l := [.host]) (t := t) ⟨fun f hf => by cases f <;> first | rfl | exact absurd hf (by decide), id⟩ hW h

theorem Frame.with_perf {l : List Field} {s t : State} {v0 : _} (hW : Field.sub [.perf] l = true) (h : Frame l s t) :
    Frame l s { t with perf := v0 } :=
  Frame.andThen (l := [.perf]) (t := t) ⟨fun f hf => by cases f <;> first | rfl | exact absurd hf (by decide), id⟩ hW h

theorem Frame.with_paces {l : List Field} {s t : State} {v0 : _} (hW : Field.sub [.paces] l = true) (h : Frame l s t) :
    Frame l s { t with paces := v0 } :=
  Frame.andThen (l := [.paces]) (t := t) ⟨fun f hf => by cases f <;> first | rfl | exact absurd hf (by decide), id⟩ hW h

theorem Frame.with_serial {l : List Field} {s t : State} {v0 : _} (hW : Field.sub [.serial] l = true) (h : Frame l s t) :
    Frame l s { t with serial := v0 } :=
  Frame.andThen (l := [.serial]) (t := t) ⟨fun f hf => by cases f <;> first | rfl | exact absurd hf (by decide), id⟩ hW h

theorem Frame.with_past {l : List Field} {s t : State} {v0 : _} (hW : Field.sub [.past] l = true) (h : Frame l s t) :
    Frame l s { t with past := v0 } :=
  Frame.andThen (l := [.past]) (t := t) ⟨fun f hf => by cases f <;> first | rfl | exact absurd hf (by decide), id⟩ hW h

theorem Frame.with_turns {l : List Field} {s t : State} {v0 : _} (hW : Field.sub [.turns] l = true) (h : Frame l s t) :
    Frame l s { t with turns := v0 } :=
  Frame.andThen (l := [.turns]) (t := t) ⟨fun f hf => by cases f <;> first | rfl | exact absurd hf (by decide), id⟩ hW h

theorem Frame.with_cistern {l : List Field} {s t : State} {v0 : _} (hW : Field.sub [.cistern] l = true) (hc : v0.mem = t.cistern.mem) (h : Frame l s t) :
    Frame l s { t with cistern := v0 } :=
  Frame.andThen (l := [.cistern]) (t := t) ⟨fun f hf => by cases f <;> first | rfl | exact absurd hf (by decide), fun hm => by unfold MemOk; dsimp only; rw [hc]; exact hm⟩ hW h

theorem Frame.with_res {l : List Field} {s t : State} {v0 : _} (hW : Field.sub [.res] l = true) (h : Frame l s t) :
    Frame l s { t with res := v0 } :=
  Frame.andThen (l := [.res]) (t := t) ⟨fun f hf => by cases f <;> first | rfl | exact absurd hf (by decide), id⟩ hW h

theorem Frame.with_queues {l : List Field} {s t : State} {v0 : _} (hW : Field.sub [.queues] l = true) (h : Frame l s t) :
    Frame l s { t with queues := v0 } :=
  Frame.andThen (l := [.queues]) (t := t) ⟨fun f hf => by cases f <;> first | rfl | exact absurd hf (by decide), id⟩ hW h

theorem Frame.with_robins {l : List Field} {s t : State} {v0 : _} (hW : Field.sub [.robins] l = true) (h : Frame l s t) :
    Frame l s { t with robins := v0 } :=
  Frame.andThen (l := [.robins]) (t := t) ⟨fun f hf => by cases f <;> first | rfl | exact absurd hf (by decide), id⟩ hW h

theorem Frame.with_marks {l : List Field} {s t : State} {v0 : _} (hW : Field.sub [.marks] l = true) (h : Frame l s t) :
    Frame l s { t with marks := v0 } :=
  Frame.andThen (l := [.marks]) (t := t) ⟨fun f hf => by cases f <;> first | rfl | exact absurd hf (by decide), id⟩ hW h

theorem Frame.with_table {l : List Field} {s t : State} {v0 : _} (hW : Field.sub [.table] l = true) (h : Frame l s t) :
    Frame l s { t with table := v0 } :=
  Frame.andThen (l := [.table]) (t := t) ⟨fun f hf => by cases f <;> first | rfl | exact absurd hf (by decide), id⟩ hW h

theorem Frame.with_drovers {l : List Field} {s t : State} {v0 : _} (hW : Field.sub [.drovers] l = true) (h : Frame l s t) :
    Frame l s { t with drovers := v0 } :=
  Frame.andThen (l := [.drovers]) (t := t) ⟨fun f hf => by cases f <;> first | rfl | exact absurd hf (by decide), id⟩ hW h

theorem Frame.with_store {l : List Field} {s t : State} {v0 : _} (hW : Field.sub [.store] l = true) (h : Frame l s t) :
    Frame l s { t with store := v0 } :=
  Frame.andThen (l := [.store]) (t := t) ⟨fun f hf => by cases f <;> first | rfl | exact absurd hf (by decide), id⟩ hW h

theorem Frame.with_gate {l : List Field} {s t : State} {v0 : _} (hW : Field.sub [.gate] l = true) (h : Frame l s t) :
    Frame l s { t with gate := v0 } :=
  Frame.andThen (l := [.gate]) (t := t) ⟨fun f hf => by cases f <;> first | rfl | exact absurd hf (by decide), id⟩ hW h

theorem Frame.with_msgs {l : List Field} {s t : State} {v0 : _} (hW : Field.sub [.msgs] l = true) (h : Frame l s t) :
    Frame l s { t with msgs := v0 } :=
  Frame.andThen (l := [.msgs]) (t := t) ⟨fun f hf => by cases f <;> first | rfl | exact absurd hf (by decide), id⟩ hW h

theorem Frame.with_parser {l : List Field} {s t : State} {v0 : _} (hW : Field.sub [.parser] l = true) (h : Frame l s t) :
    Frame l s { t with parser := v0 } :=
  Frame.andThen (l := [.parser]) (t := t) ⟨fun f hf => by cases f <;> first | rfl | exact absurd hf (by decide), id⟩ hW h

theorem Frame.with_cls {l : List Field} {s t : State} {v0 : _} (hW : Field.sub [.cls] l = true) (h : Frame l s t) :
    Frame l s { t with cls := v0 } :=
  Frame.andThen (l := [.cls]) (t := t) ⟨fun f hf => by cases f <;> first | rfl | exact absurd hf (by decide), id⟩ hW h

theorem Frame.with_flights {l : List Field} {s t : State} {v0 : _} (hW : Field.sub [.flights] l = true) (h : Frame l s t) :
    Frame l s { t with flights := v0 } :=
  Frame.andThen (l := [.flights]) (t := t) ⟨fun f hf => by cases f <;> first | rfl | exact absurd hf (by decide), id⟩ hW h

theorem Frame.with_ghosts {l : List Field} {s t : State} {v0 : _} (hW : Field.sub [.ghosts] l = true) (h : Frame l s t) :
    Frame l s { t with ghosts := v0 } :=
  Frame.andThen (l := [.ghosts]) (t := t) ⟨fun f hf => by cases f <;> first | rfl | exact absurd hf (by decide), id⟩ hW h

theorem Frame.with_toQueue {l : List Field} {s t : State} {v0 : _} (hW : Field.sub [.toQueue] l = true) (h : Frame l s t) :
    Frame l s { t with toQueue := v0 } :=
  Frame.andThen (l := [.toQueue]) (t := t) ⟨fun f hf => by cases f <;> first | rfl | exact absurd hf (by decide), id⟩ hW h

theorem Frame.with_toPort {l : List Field} {s t : State} {v0 : _} (hW : Field.sub [.toPort] l = true) (h : Frame l s t) :
    Frame l s { t with toPort := v0 } :=
  Frame.andThen (l := [.toPort]) (t := t) ⟨fun f hf => by cases f <;> first | rfl | exact absurd hf (by decide), id⟩ hW h

theorem Frame.with_rings {l : List Field} {s t : State} {v0 : _} (hW : Field.sub [.rings] l = true) (h : Frame l s t) :
    Frame l s { t with rings := v0 } :=
  Frame.andThen (l := [.rings]) (t := t) ⟨fun f hf => by cases f <;> first | rfl | exact absurd hf (by decide), id⟩ hW h

theorem Frame.with_dmas {l : List Field} {s t : State} {v0 : _} (hW : Field.sub [.dmas] l = true) (h : Frame l s t) :
    Frame l s { t with dmas := v0 } :=
  Frame.andThen (l := [.dmas]) (t := t) ⟨fun f hf => by cases f <;> first | rfl | exact absurd hf (by decide), id⟩ hW h

theorem Frame.with_scans {l : List Field} {s t : State} {v0 : _} (hW : Field.sub [.scans] l = true) (h : Frame l s t) :
    Frame l s { t with scans := v0 } :=
  Frame.andThen (l := [.scans]) (t := t) ⟨fun f hf => by cases f <;> first | rfl | exact absurd hf (by decide), id⟩ hW h

theorem Frame.with_ports {l : List Field} {s t : State} {v0 : _} (hW : Field.sub [.ports] l = true) (h : Frame l s t) :
    Frame l s { t with ports := v0 } :=
  Frame.andThen (l := [.ports]) (t := t) ⟨fun f hf => by cases f <;> first | rfl | exact absurd hf (by decide), id⟩ hW h

theorem Frame.with_flash {l : List Field} {s t : State} {v0 : _} (hW : Field.sub [.flash] l = true) (h : Frame l s t) :
    Frame l s { t with flash := v0 } :=
  Frame.andThen (l := [.flash]) (t := t) ⟨fun f hf => by cases f <;> first | rfl | exact absurd hf (by decide), id⟩ hW h

theorem Frame.with_loader {l : List Field} {s t : State} {v0 : _} (hW : Field.sub [.loader] l = true) (h : Frame l s t) :
    Frame l s { t with loader := v0 } :=
  Frame.andThen (l := [.loader]) (t := t) ⟨fun f hf => by cases f <;> first | rfl | exact absurd hf (by decide), id⟩ hW h

theorem Frame.with_regs {l : List Field} {s t : State} {v0 : _} (hW : Field.sub [.regs] l = true) (h : Frame l s t) :
    Frame l s { t with regs := v0 } :=
  Frame.andThen (l := [.regs]) (t := t) ⟨fun f hf => by cases f <;> first | rfl | exact absurd hf (by decide), id⟩ hW h

theorem Frame.with_flash_loader {l : List Field} {s t : State} {v0 : _} {v1 : _} (hW : Field.sub [.flash, .loader] l = true) (h : Frame l s t) :
    Frame l s { t with flash := v0, loader := v1 } :=
  Frame.andThen (l := [.flash, .loader]) (t := t) ⟨fun f hf => by cases f <;> first | rfl | exact absurd hf (by decide), id⟩ hW h

theorem Frame.with_host_rings_dmas_regs {l : List Field} {s t : State} {v0 : _} {v1 : _} {v2 : _} {v3 : _} (hW : Field.sub [.host, .rings, .dmas, .regs] l = true) (h : Frame l s t) :
    Frame l s { t with host := v0, rings := v1, dmas := v2, regs := v3 } :=
  Frame.andThen (l := [.host, .rings, .dmas, .regs]) (t := t) ⟨fun f hf => by cases f <;> first | rfl | exact absurd hf (by decide), id⟩ hW h

theorem Frame.with_intc_regs {l : List Field} {s t : State} {v0 : _} {v1 : _} (hW : Field.sub [.intc, .regs] l = true) (h : Frame l s t) :
    Frame l s { t with intc := v0, regs := v1 } :=
  Frame.andThen (l := [.intc, .regs]) (t := t) ⟨fun f hf => by cases f <;> first | rfl | exact absurd hf (by decide), id⟩ hW h

theorem Frame.with_keeper_host_regs {l : List Field} {s t : State} {v0 : _} {v1 : _} {v2 : _} (hW : Field.sub [.keeper, .host, .regs] l = true) (h : Frame l s t) :
    Frame l s { t with keeper := v0, host := v1, regs := v2 } :=
  Frame.andThen (l := [.keeper, .host, .regs]) (t := t) ⟨fun f hf => by cases f <;> first | rfl | exact absurd hf (by decide), id⟩ hW h

theorem Frame.with_mode_loader {l : List Field} {s t : State} {v0 : _} {v1 : _} (hW : Field.sub [.mode, .loader] l = true) (h : Frame l s t) :
    Frame l s { t with mode := v0, loader := v1 } :=
  Frame.andThen (l := [.mode, .loader]) (t := t) ⟨fun f hf => by cases f <;> first | rfl | exact absurd hf (by decide), id⟩ hW h

theorem Frame.with_power_keeper {l : List Field} {s t : State} {v0 : _} {v1 : _} (hW : Field.sub [.power, .keeper] l = true) (h : Frame l s t) :
    Frame l s { t with power := v0, keeper := v1 } :=
  Frame.andThen (l := [.power, .keeper]) (t := t) ⟨fun f hf => by cases f <;> first | rfl | exact absurd hf (by decide), id⟩ hW h

theorem Frame.with_power_mode {l : List Field} {s t : State} {v0 : _} {v1 : _} (hW : Field.sub [.power, .mode] l = true) (h : Frame l s t) :
    Frame l s { t with power := v0, mode := v1 } :=
  Frame.andThen (l := [.power, .mode]) (t := t) ⟨fun f hf => by cases f <;> first | rfl | exact absurd hf (by decide), id⟩ hW h

theorem Frame.with_power_mode_flash {l : List Field} {s t : State} {v0 : _} {v1 : _} {v2 : _} (hW : Field.sub [.power, .mode, .flash] l = true) (h : Frame l s t) :
    Frame l s { t with power := v0, mode := v1, flash := v2 } :=
  Frame.andThen (l := [.power, .mode, .flash]) (t := t) ⟨fun f hf => by cases f <;> first | rfl | exact absurd hf (by decide), id⟩ hW h

theorem Frame.with_res_queues {l : List Field} {s t : State} {v0 : _} {v1 : _} (hW : Field.sub [.res, .queues] l = true) (h : Frame l s t) :
    Frame l s { t with res := v0, queues := v1 } :=
  Frame.andThen (l := [.res, .queues]) (t := t) ⟨fun f hf => by cases f <;> first | rfl | exact absurd hf (by decide), id⟩ hW h

theorem Frame.with_robins_marks {l : List Field} {s t : State} {v0 : _} {v1 : _} (hW : Field.sub [.robins, .marks] l = true) (h : Frame l s t) :
    Frame l s { t with robins := v0, marks := v1 } :=
  Frame.andThen (l := [.robins, .marks]) (t := t) ⟨fun f hf => by cases f <;> first | rfl | exact absurd hf (by decide), id⟩ hW h

theorem Frame.with_serial_flights {l : List Field} {s t : State} {v0 : _} {v1 : _} (hW : Field.sub [.serial, .flights] l = true) (h : Frame l s t) :
    Frame l s { t with serial := v0, flights := v1 } :=
  Frame.andThen (l := [.serial, .flights]) (t := t) ⟨fun f hf => by cases f <;> first | rfl | exact absurd hf (by decide), id⟩ hW h

theorem Frame.with_serial_msgs {l : List Field} {s t : State} {v0 : _} {v1 : _} (hW : Field.sub [.serial, .msgs] l = true) (h : Frame l s t) :
    Frame l s { t with serial := v0, msgs := v1 } :=
  Frame.andThen (l := [.serial, .msgs]) (t := t) ⟨fun f hf => by cases f <;> first | rfl | exact absurd hf (by decide), id⟩ hW h

theorem Frame.with_serial_table {l : List Field} {s t : State} {v0 : _} {v1 : _} (hW : Field.sub [.serial, .table] l = true) (h : Frame l s t) :
    Frame l s { t with serial := v0, table := v1 } :=
  Frame.andThen (l := [.serial, .table]) (t := t) ⟨fun f hf => by cases f <;> first | rfl | exact absurd hf (by decide), id⟩ hW h

end Sys2Proof.Machine
end

