-- ==== Sys2Proof/Laws/FrameControl.lean ====
section
/-!
SUPPORT. Which fields of the state each function may change, for the named operations, interrupts, the Keeper, time and pace. No function leaves a canonical memory not canonical.
-/
namespace Sys2Proof.Machine

theorem setLatch_frame {s : State} {path : Nat} {a : Nat} {v : Word} : Frame [.host] s (setLatch s path a v) := by
  dsimp only [setLatch]
  repeat' first | with_reducible exact Frame.refl | with_reducible assumption | intro _ | with_reducible refine .with_host (by decide) ?_

theorem emit_frame {s : State} {o : Output} : Frame [.wire] s (emit s o) := by
  dsimp only [emit]
  repeat' first | with_reducible exact Frame.refl | with_reducible assumption | intro _ | with_reducible refine .with_wire (by decide) ?_

theorem wr_frame {s : State} {a : Nat} {v : Word} : Frame [.regs] s (wr s a v) := by
  dsimp only [wr]
  repeat' first | with_reducible exact Frame.refl | with_reducible assumption | intro _ | with_reducible refine .with_regs (by decide) ?_

theorem wr64_frame {s : State} {a : Nat} {v : DWord} : Frame [.regs] s (wr64 s a v) := by
  dsimp only [wr64]
  repeat' first | with_reducible exact Frame.refl | with_reducible assumption | with_reducible refine wr_frame.andThen (by decide) ?_

theorem event_frame {s : State} {a : Nat} {i : Nat} : Frame [.regs] s (event s a i) := by
  dsimp only [event]
  repeat' first | with_reducible exact Frame.refl | with_reducible assumption | with_reducible refine wr_frame.andThen (by decide) ?_

theorem capture_frame {s : State} {x : FaultNote} : Frame [.regs] s (capture s x) := by
  dsimp only [capture]
  repeat' first | with_reducible exact Frame.refl | with_reducible assumption | with_reducible refine wr_frame.andThen (by decide) ?_ | with_reducible refine wr64_frame.andThen (by decide) ?_ | intro _ | (split <;> try dsimp only)

theorem bumpBy_frame {s : State} {a : Nat} {n : Nat} : Frame [.regs] s (bumpBy s a n) := by
  dsimp only [bumpBy]
  repeat' first | with_reducible exact Frame.refl | with_reducible assumption | with_reducible refine wr_frame.andThen (by decide) ?_

theorem bump_frame {s : State} {a : Nat} : Frame [.regs] s (bump s a) := by
  dsimp only [bump]
  repeat' first | with_reducible exact Frame.refl | with_reducible assumption | with_reducible refine bumpBy_frame.andThen (by decide) ?_

theorem faultAt_frame {s : State} {b : Block} {code : Nat} {inst : Nat} {ident : DWord} {time : DWord} : Frame [.intc, .regs] s (faultAt s b code inst ident time) := by
  dsimp only [faultAt]
  repeat' first | with_reducible exact Frame.refl | with_reducible assumption | with_reducible refine capture_frame.andThen (by decide) ?_ | with_reducible refine bump_frame.andThen (by decide) ?_ | intro _ | with_reducible refine .with_intc (by decide) ?_

theorem fault_frame {s : State} {b : Block} {code : Nat} {inst : Nat} {ident : DWord} : Frame [.intc, .regs] s (fault s b code inst ident) := by
  dsimp only [fault]
  repeat' first | with_reducible exact Frame.refl | with_reducible assumption | with_reducible refine faultAt_frame.andThen (by decide) ?_

theorem emitAll_frame {s : State} {l : List Output} : Frame [.wire] s (emitAll s l) := by
  dsimp only [emitAll]
  repeat' first | with_reducible exact Frame.refl | with_reducible assumption | intro _ | with_reducible refine .with_wire (by decide) ?_

theorem hostWr_frame {s : State} {a : DWord} {b : Bytes} : Frame [.wire] s (hostWr s a b) := by
  dsimp only [hostWr]
  repeat' first | with_reducible exact Frame.refl | with_reducible assumption | with_reducible refine emitAll_frame.andThen (by decide) ?_

theorem wrField_frame {s : State} {a : Nat} {v : Word} {rw : Word} {w1c : Word} : Frame [.regs] s (wrField s a v rw w1c) := by
  dsimp only [wrField]
  repeat' first | with_reducible exact Frame.refl | with_reducible assumption | with_reducible refine wr_frame.andThen (by decide) ?_

theorem draw1_frame {s : State} : Frame [.free] s (draw1 s) := by
  dsimp only [draw1]
  repeat' first | with_reducible exact Frame.refl | with_reducible assumption | intro _ | with_reducible refine .with_free (by decide) ?_

theorem bump64_frame {s : State} {a : Nat} {n : Nat} : Frame [.regs] s (bump64 s a n) := by
  dsimp only [bump64]
  repeat' first | with_reducible exact Frame.refl | with_reducible assumption | with_reducible refine wr64_frame.andThen (by decide) ?_

theorem takeHi_frame {s : State} {a : Nat} {v : Word} {mask : DWord} : Frame [.regs] s (takeHi s a v mask) := by
  dsimp only [takeHi]
  repeat' first | with_reducible exact Frame.refl | with_reducible assumption | with_reducible refine wr64_frame.andThen (by decide) ?_

theorem stageLo_frame {s : State} {a : Nat} {v : Word} : Frame [.host] s (stageLo s a v) := by
  dsimp only [stageLo]
  repeat' first | with_reducible exact Frame.refl | with_reducible assumption | intro _ | with_reducible refine .with_host (by decide) ?_

theorem granted_frame {a : Arbiter} {i : Nat} {waiting : List Nat} {s : State} : Frame [.turns] s (granted a i waiting s) := by
  dsimp only [granted]
  repeat' first | with_reducible exact Frame.refl | with_reducible assumption | intro _ | with_reducible refine .with_turns (by decide) ?_

theorem keepPast_frame {old : State} {a : Nat} {s : State} : Frame [.past] s (keepPast old a s) := by
  dsimp only [keepPast]
  repeat' first | with_reducible exact Frame.refl | with_reducible assumption | intro _ | (split <;> try dsimp only) | with_reducible refine .with_past (by decide) ?_

theorem noteError_frame {s : State} {i : Nat} : Frame [.host] s (noteError s i) := by
  dsimp only [noteError]
  repeat' first | with_reducible exact Frame.refl | with_reducible assumption | intro _ | with_reducible refine .with_host (by decide) ?_

theorem answered_frame {r : Reply} {issue f held : State → State} {l : List Field} {s : State} (hi : ∀ s, Frame l s (issue s))
    (hf : ∀ s, Frame l s (f s)) (hh : ∀ s, Frame l s (held s)) (hl : Field.sub [.host] l = true) : Frame l s (answered r issue f held s) := by
  have hn : ∀ (s : State) (i : Nat), Frame l s (noteError s i) := fun _ _ => noteError_frame.weaken (Field.sub_trans (by decide) hl)
  cases r with
  | stray tag => exact .refl
  | timedOut =>
    dsimp only [answered]
    split
    · exact (hi s).trans (hh _)
    · exact ((hi s).trans (hn _ 14)).trans (hf _)
  | poisoned b => exact ((hi s).trans (hn _ 12)).trans (hf _)
  | ok b => exact (hi s).trans (hf _)
  | failed => exact (hi s).trans (hf _)

theorem hostRd_frame {s : State} {a : DWord} {n : Nat} : Frame [.wire] s (hostRd s a n) := by
  dsimp only [hostRd]
  repeat' first | with_reducible exact Frame.refl | with_reducible assumption | with_reducible refine emitAll_frame.andThen (by decide) ?_

theorem onReply_frame {r : Reply} {f : State → State} {l : List Field} {s : State} (hf : ∀ s, Frame l s (f s))
    (hl : Field.sub [.intc, .host, .regs] l = true) : Frame l s (onReply r f s) := by
  unfold onReply
  split
  · split
    · exact fault_frame.andThen (Field.sub_trans (by decide) hl) (noteError_frame.weaken (Field.sub_trans (by decide) hl))
    · exact .refl
  · exact hf s

theorem noteCleared_frame {l : List Nat} {s : State} : Frame [.intc] s (noteCleared l s) := by
  dsimp only [noteCleared]
  repeat' first | with_reducible exact Frame.refl | with_reducible assumption | intro _ | with_reducible refine .with_intc (by decide) ?_

theorem answer_frame {s : State} {v : Word} : Frame [.wire] s (answer s v) := by
  dsimp only [answer]
  repeat' first | with_reducible exact Frame.refl | with_reducible assumption | with_reducible refine emit_frame.andThen (by decide) ?_

theorem latchStrand_frame {s : State} : Frame [.intc] s (latchStrand s) := by
  dsimp only [latchStrand]
  repeat' first | with_reducible exact Frame.refl | with_reducible assumption | with_reducible apply Frame.foldl | intro _ | with_reducible refine .with_intc (by decide) ?_

theorem beforeWrites_frame {s : State} : Frame [.intc, .regs] s (beforeWrites s) := by
  dsimp only [beforeWrites]
  repeat' first | with_reducible exact Frame.refl | with_reducible assumption | with_reducible apply Frame.foldl | intro _ | (split <;> try dsimp only) | with_reducible refine .with_intc_regs (by decide) ?_

theorem accessed_frame {old : State} {s : State} : Frame [.intc] s (accessed old s) := by
  dsimp only [accessed]
  repeat' first | with_reducible exact Frame.refl | with_reducible assumption | with_reducible apply Frame.foldl | intro _ | with_reducible refine .with_intc (by decide) ?_

theorem latchLines_frame {s : State} : Frame [.intc] s (latchLines s) := by
  dsimp only [latchLines]
  repeat' first | with_reducible exact Frame.refl | with_reducible assumption | with_reducible apply Frame.foldl | intro _ | (split <;> try dsimp only) | with_reducible refine .with_intc (by decide) ?_

theorem settle_frame {s : State} : Frame [.intc] s (settle s) := by
  dsimp only [settle]
  repeat' first | with_reducible exact Frame.refl | with_reducible assumption | with_reducible refine latchStrand_frame.andThen (by decide) ?_ | with_reducible refine latchLines_frame.andThen (by decide) ?_

theorem intcHtStateEff_frame {v : Word} {s : State} : Frame [.regs] s (intcHtStateEff v s) := by
  dsimp only [intcHtStateEff]
  repeat' first | with_reducible exact Frame.refl | with_reducible assumption | with_reducible refine wr_frame.andThen (by decide) ?_

theorem intcHtIdleEff_frame {v : Word} {s : State} : Frame [.regs] s (intcHtIdleEff v s) := by
  dsimp only [intcHtIdleEff]
  repeat' first | with_reducible exact Frame.refl | with_reducible assumption | with_reducible refine wr_frame.andThen (by decide) ?_

theorem intcWatcherEff_frame {v : Word} {s : State} : Frame [.intc, .regs] s (intcWatcherEff v s) := by
  dsimp only [intcWatcherEff]
  repeat' first | with_reducible exact Frame.refl | with_reducible assumption | with_reducible refine wr_frame.andThen (by decide) ?_ | with_reducible refine noteCleared_frame.andThen (by decide) ?_ | intro _ | (split <;> try dsimp only) | with_reducible refine .with_intc (by decide) ?_

theorem unannounce_frame {src : Nat} {s : State} : Frame [.intc] s (unannounce src s) := by
  dsimp only [unannounce]
  repeat' first | with_reducible exact Frame.refl | with_reducible assumption | with_reducible refine noteCleared_frame.andThen (by decide) ?_ | intro _ | with_reducible refine .with_intc (by decide) ?_

theorem intcRetargetEff_frame {v : Word} {s : State} : Frame [.intc, .regs] s (intcRetargetEff v s) := by
  dsimp only [intcRetargetEff]
  repeat' first | with_reducible exact Frame.refl | with_reducible assumption | with_reducible refine wr_frame.andThen (by decide) ?_ | with_reducible refine unannounce_frame.andThen (by decide) ?_ | intro _ | (split <;> try dsimp only)

theorem intcSwiEff_frame {v : Word} {s : State} : Frame [.intc] s (intcSwiEff v s) := by
  dsimp only [intcSwiEff]
  repeat' first | with_reducible exact Frame.refl | with_reducible assumption | intro _ | with_reducible refine .with_intc (by decide) ?_

theorem intcSrcCfgEff_frame {src : Nat} {v : Word} {s : State} : Frame [.intc, .regs] s (intcSrcCfgEff src v s) := by
  dsimp only [intcSrcCfgEff]
  repeat' first | with_reducible exact Frame.refl | with_reducible assumption | with_reducible refine wrField_frame.andThen (by decide) ?_ | with_reducible refine unannounce_frame.andThen (by decide) ?_ | intro _ | (split <;> try dsimp only)

theorem complete_frame {s : State} {src : Nat} : Frame [.intc] s (complete s src) := by
  dsimp only [complete]
  repeat' first | with_reducible exact Frame.refl | with_reducible assumption | with_reducible refine noteCleared_frame.andThen (by decide) ?_ | intro _ | (split <;> try dsimp only) | with_reducible refine .with_intc (by decide) ?_

theorem completeBank_frame {s : State} {n : Nat} {k : Nat} {v : Word} : Frame [.intc] s (completeBank s n k v) := by
  dsimp only [completeBank]
  repeat' first | with_reducible exact Frame.refl | with_reducible assumption | with_reducible refine complete_frame.andThen (by decide) ?_ | with_reducible apply Frame.foldl | intro _ | (split <;> try dsimp only)

theorem completePriv_frame {s : State} {n : Nat} {v : Word} : Frame [.intc] s (completePriv s n v) := by
  dsimp only [completePriv]
  repeat' first | with_reducible exact Frame.refl | with_reducible assumption | with_reducible refine noteCleared_frame.andThen (by decide) ?_ | intro _ | (split <;> try dsimp only) | with_reducible refine .with_intc (by decide) ?_

theorem intcCompletionEff_frame {n : Nat} {k : Option Nat} {v : Word} {s : State} : Frame [.intc] s (intcCompletionEff n k v s) := by
  dsimp only [intcCompletionEff]
  repeat' first | with_reducible exact Frame.refl | with_reducible assumption | with_reducible refine completeBank_frame.andThen (by decide) ?_ | with_reducible refine completePriv_frame.andThen (by decide) ?_ | intro _ | (split <;> try dsimp only)

theorem summaryRead_frame {n : Nat} {s : State} : Frame [.regs] s (summaryRead n s) := by
  dsimp only [summaryRead]
  repeat' first | with_reducible exact Frame.refl | with_reducible assumption | with_reducible refine wr_frame.andThen (by decide) ?_ | with_reducible refine bump_frame.andThen (by decide) ?_ | intro _ | (split <;> try dsimp only)

theorem functionEff_frame {w : FunctionAccess} {s : State} : Frame [.wire, .host] s (functionEff w s) := by
  dsimp only [functionEff]
  repeat' first | with_reducible exact Frame.refl | with_reducible assumption | with_reducible refine emit_frame.andThen (by decide) ?_ | intro _ | (split <;> try dsimp only) | with_reducible refine .with_host (by decide) ?_

theorem startTimer_frame {v : State} {s : State} {src : Nat} : Frame [.intc] s (startTimer v s src) := by
  dsimp only [startTimer]
  repeat' first | with_reducible exact Frame.refl | with_reducible assumption | intro _ | (split <;> try dsimp only) | with_reducible refine .with_intc (by decide) ?_

theorem deliver_frame {n : Nat} {v : State} {s : State} : Frame [.wire, .intc, .regs] s (deliver n v s) := by
  dsimp only [deliver]
  repeat' first | with_reducible exact Frame.refl | with_reducible assumption | with_reducible refine emit_frame.andThen (by decide) ?_ | with_reducible refine bump_frame.andThen (by decide) ?_ | with_reducible refine startTimer_frame.andThen (by decide) ?_ | with_reducible apply Frame.foldl | intro _ | with_reducible refine .with_intc (by decide) ?_

theorem strandEnds_frame {n : Nat} {s : State} : Frame [.intc, .regs] s (strandEnds n s) := by
  dsimp only [strandEnds]
  repeat' first | with_reducible exact Frame.refl | with_reducible assumption | with_reducible refine fault_frame.andThen (by decide) ?_ | with_reducible refine event_frame.andThen (by decide) ?_ | intro _ | with_reducible refine .with_intc (by decide) ?_

theorem rtcCtlWrite_frame {v : Word} {s : State} : Frame [.keeper] s (rtcCtlWrite v s) := by
  dsimp only [rtcCtlWrite]
  repeat' first | with_reducible exact Frame.refl | with_reducible assumption | intro _ | (split <;> try dsimp only) | with_reducible refine .with_keeper (by decide) ?_

theorem alarmLate_frame {s : State} : Frame [.regs] s (alarmLate s) := by
  dsimp only [alarmLate]
  repeat' first | with_reducible exact Frame.refl | with_reducible assumption | with_reducible refine wr_frame.andThen (by decide) ?_

theorem alarmFalls_frame {old : Nat} {s : State} : Frame [.keeper] s (alarmFalls old s) := by
  dsimp only [alarmFalls]
  repeat' first | with_reducible exact Frame.refl | with_reducible assumption | intro _ | (split <;> try dsimp only) | with_reducible refine .with_keeper (by decide) ?_

theorem rtcLoad_frame {s : State} : Frame [.keeper, .regs] s (rtcLoad s) := by
  dsimp only [rtcLoad]
  repeat' first | with_reducible exact Frame.refl | with_reducible assumption | with_reducible refine alarmLate_frame.andThen (by decide) ?_ | with_reducible refine alarmFalls_frame.andThen (by decide) ?_ | intro _ | (split <;> try dsimp only) | with_reducible refine .with_keeper (by decide) ?_

theorem wakeCondition_frame {s : State} : Frame [.mode] s (wakeCondition s) := by
  dsimp only [wakeCondition]
  repeat' first | with_reducible exact Frame.refl | with_reducible assumption | intro _ | (split <;> try dsimp only) | with_reducible refine .with_mode (by decide) ?_

theorem keeperWakeCheck_frame {s : State} : Frame [.mode] s (keeperWakeCheck s) := by
  dsimp only [keeperWakeCheck]
  repeat' first | with_reducible exact Frame.refl | with_reducible assumption | with_reducible refine wakeCondition_frame.andThen (by decide) ?_ | intro _ | (split <;> try dsimp only)

theorem wakeCause_frame {s : State} {i : Nat} : Frame [.regs] s (wakeCause s i) := by
  dsimp only [wakeCause]
  repeat' first | with_reducible exact Frame.refl | with_reducible assumption | with_reducible refine event_frame.andThen (by decide) ?_

theorem alarmFires_frame {s : State} : Frame [.mode, .keeper, .regs] s (alarmFires s) := by
  dsimp only [alarmFires]
  repeat' first | with_reducible exact Frame.refl | with_reducible assumption | with_reducible refine wr_frame.andThen (by decide) ?_ | with_reducible refine keeperWakeCheck_frame.andThen (by decide) ?_ | with_reducible refine wakeCause_frame.andThen (by decide) ?_ | with_reducible refine event_frame.andThen (by decide) ?_ | with_reducible refine .with_keeper (by decide) ?_

theorem todHoldover_frame {s : State} : Frame [.keeper] s (todHoldover s) := by
  dsimp only [todHoldover]
  repeat' first | with_reducible exact Frame.refl | with_reducible assumption | intro _ | (split <;> try dsimp only) | with_reducible refine .with_keeper (by decide) ?_

theorem tripCheck_frame {s : State} : Frame [.keeper, .regs] s (tripCheck s) := by
  dsimp only [tripCheck]
  repeat' first | with_reducible exact Frame.refl | with_reducible assumption | with_reducible refine wr_frame.andThen (by decide) ?_ | intro _ | (split <;> try dsimp only) | with_reducible refine .with_keeper (by decide) ?_

theorem setComparator_frame {s : State} {n : Nat} {c : Comparator} : Frame [.keeper] s (setComparator s n c) := by
  dsimp only [setComparator]
  repeat' first | with_reducible exact Frame.refl | with_reducible assumption | intro _ | with_reducible refine .with_keeper (by decide) ?_

theorem logEntry_frame {s : State} {n : Nat} {kind : Nat} {worst : Nat} {duration : Nat} : Frame [.keeper, .regs] s (logEntry s n kind worst duration) := by
  dsimp only [logEntry]
  repeat' first | with_reducible exact Frame.refl | with_reducible assumption | with_reducible refine event_frame.andThen (by decide) ?_ | with_reducible refine bump_frame.andThen (by decide) ?_ | intro _ | (split <;> try dsimp only) | with_reducible refine .with_keeper (by decide) ?_

theorem supplyChange_frame {s : State} {n : Nat} {st : Supply} : Frame [.keeper, .regs] s (supplyChange s n st) := by
  dsimp only [supplyChange]
  repeat' first | with_reducible exact Frame.refl | with_reducible assumption | with_reducible refine setComparator_frame.andThen (by decide) ?_ | with_reducible refine logEntry_frame.andThen (by decide) ?_ | with_reducible refine wakeCause_frame.andThen (by decide) ?_ | intro _ | (split <;> try dsimp only)

theorem supplySample_frame {s : State} {n : Nat} {code : Byte} : Frame [.keeper, .regs] s (supplySample s n code) := by
  dsimp only [supplySample]
  repeat' first | with_reducible exact Frame.refl | with_reducible assumption | with_reducible refine setComparator_frame.andThen (by decide) ?_ | with_reducible refine supplyChange_frame.andThen (by decide) ?_ | intro _ | (split <;> try dsimp only)

theorem sampleAll_frame {s : State} : Frame [.mode, .keeper, .regs] s (sampleAll s) := by
  dsimp only [sampleAll]
  repeat' first | with_reducible exact Frame.refl | with_reducible assumption | with_reducible refine keeperWakeCheck_frame.andThen (by decide) ?_ | with_reducible refine tripCheck_frame.andThen (by decide) ?_ | with_reducible refine supplySample_frame.andThen (by decide) ?_ | with_reducible apply Frame.foldl | intro _ | with_reducible refine .with_keeper (by decide) ?_

theorem keeperDue_frame {s : State} : Frame [.mode, .keeper, .regs] s (keeperDue s) := by
  dsimp only [keeperDue]
  repeat' first | with_reducible exact Frame.refl | with_reducible assumption | with_reducible refine rtcLoad_frame.andThen (by decide) ?_ | with_reducible refine alarmFires_frame.andThen (by decide) ?_ | with_reducible refine todHoldover_frame.andThen (by decide) ?_ | with_reducible refine sampleAll_frame.andThen (by decide) ?_ | intro _ | (split <;> try dsimp only)

theorem rtcCtlEff_frame {v : Word} {s : State} : Frame [.mode, .keeper, .regs] s (rtcCtlEff v s) := by
  dsimp only [rtcCtlEff]
  repeat' first | with_reducible exact Frame.refl | with_reducible assumption | with_reducible refine rtcCtlWrite_frame.andThen (by decide) ?_ | with_reducible refine keeperDue_frame.andThen (by decide) ?_

theorem alarmArm_frame {v : Word} {s : State} : Frame [.regs] s (alarmArm v s) := by
  dsimp only [alarmArm]
  repeat' first | with_reducible exact Frame.refl | with_reducible assumption | with_reducible refine alarmLate_frame.andThen (by decide) ?_ | with_reducible refine wr_frame.andThen (by decide) ?_ | intro _ | (split <;> try dsimp only)

theorem keeperAlarmCtlEff_frame {v : Word} {s : State} : Frame [.mode, .keeper, .regs] s (keeperAlarmCtlEff v s) := by
  dsimp only [keeperAlarmCtlEff]
  repeat' first | with_reducible exact Frame.refl | with_reducible assumption | with_reducible refine alarmArm_frame.andThen (by decide) ?_ | with_reducible refine keeperDue_frame.andThen (by decide) ?_

theorem restartCounts_frame {s : State} {n : Nat} : Frame [.keeper] s (restartCounts s n) := by
  dsimp only [restartCounts]
  repeat' first | with_reducible exact Frame.refl | with_reducible assumption | with_reducible refine setComparator_frame.andThen (by decide) ?_

theorem scWrite_frame {n : Nat} {filt : Bool} {v : Word} {s : State} : Frame [.keeper, .regs] s (scWrite n filt v s) := by
  dsimp only [scWrite]
  repeat' first | with_reducible exact Frame.refl | with_reducible assumption | with_reducible refine wrField_frame.andThen (by decide) ?_ | with_reducible refine restartCounts_frame.andThen (by decide) ?_ | with_reducible refine setComparator_frame.andThen (by decide) ?_ | intro _ | (split <;> try dsimp only)

theorem keeperScCtlEff_frame {n : Nat} {filt : Bool} {v : Word} {s : State} : Frame [.mode, .keeper, .regs] s (keeperScCtlEff n filt v s) := by
  dsimp only [keeperScCtlEff]
  repeat' first | with_reducible exact Frame.refl | with_reducible assumption | with_reducible refine scWrite_frame.andThen (by decide) ?_ | with_reducible refine keeperDue_frame.andThen (by decide) ?_

theorem logLatch_frame {v : Word} {s : State} : Frame [.regs] s (logLatch v s) := by
  dsimp only [logLatch]
  repeat' first | with_reducible exact Frame.refl | with_reducible assumption | with_reducible refine wr_frame.andThen (by decide) ?_ | with_reducible apply Frame.foldl | intro _

theorem keeperLogSelEff_frame {v : Word} {s : State} : Frame [.mode, .keeper, .regs] s (keeperLogSelEff v s) := by
  dsimp only [keeperLogSelEff]
  repeat' first | with_reducible exact Frame.refl | with_reducible assumption | with_reducible refine logLatch_frame.andThen (by decide) ?_ | with_reducible refine keeperDue_frame.andThen (by decide) ?_

theorem keeperEdge_frame {sec : Nat} {s : State} : Frame [.keeper, .regs] s (keeperEdge sec s) := by
  dsimp only [keeperEdge]
  repeat' first | with_reducible exact Frame.refl | with_reducible assumption | with_reducible refine wr_frame.andThen (by decide) ?_ | intro _ | (split <;> try dsimp only) | with_reducible refine .with_keeper (by decide) ?_

theorem supplyInputs_frame {codes : List Byte} {s : State} : Frame [.mode, .keeper, .regs] s (supplyInputs codes s) := by
  dsimp only [supplyInputs]
  repeat' first | with_reducible exact Frame.refl | with_reducible assumption | with_reducible refine sampleAll_frame.andThen (by decide) ?_ | intro _ | (split <;> try dsimp only) | with_reducible refine .with_keeper (by decide) ?_

theorem quietTick_frame {s : State} : Frame [.keeper] s (quietTick s) := by
  dsimp only [quietTick]
  repeat' first | with_reducible exact Frame.refl | with_reducible assumption | intro _ | (split <;> try dsimp only) | with_reducible refine .with_keeper (by decide) ?_

theorem keeperTicked_frame {trim : ℤ} {s : State} : Frame [.mode, .keeper, .regs] s (keeperTicked trim s) := by
  dsimp only [keeperTicked]
  repeat' first | with_reducible exact Frame.refl | with_reducible assumption | with_reducible refine alarmFalls_frame.andThen (by decide) ?_ | with_reducible refine keeperWakeCheck_frame.andThen (by decide) ?_ | with_reducible refine tripCheck_frame.andThen (by decide) ?_ | intro _ | with_reducible refine .with_keeper (by decide) ?_

theorem keeperRun_frame {s0 : State} : Frame [.power, .mode, .keeper, .regs] s0 (keeperRun s0) := by
  dsimp only [keeperRun]
  repeat' first | with_reducible exact Frame.refl | with_reducible assumption | with_reducible refine quietTick_frame.andThen (by decide) ?_ | with_reducible refine keeperTicked_frame.andThen (by decide) ?_ | intro _ | (split <;> try dsimp only) | with_reducible refine .with_power_keeper (by decide) ?_

theorem quietDue_frame {s : State} : Frame [.keeper, .intc, .regs] s (quietDue s) := by
  dsimp only [quietDue]
  repeat' first | with_reducible exact Frame.refl | with_reducible assumption | with_reducible refine fault_frame.andThen (by decide) ?_ | intro _ | (split <;> try dsimp only) | with_reducible refine .with_keeper (by decide) ?_

theorem stampQueue_frame {e : TxStamp} {s : State} : Frame [.time, .regs] s (stampQueue e s).2 := by
  dsimp only [stampQueue]
  repeat' first | with_reducible exact Frame.refl | with_reducible assumption | with_reducible refine event_frame.andThen (by decide) ?_ | with_reducible refine bump_frame.andThen (by decide) ?_ | intro _ | (split <;> try dsimp only) | with_reducible refine .with_time (by decide) ?_

theorem winCount_frame {port : Option Nat} {t : DWord} {len : Nat} {s : State} : Frame [.regs] s (winCount port t len s) := by
  dsimp only [winCount]
  repeat' first | with_reducible exact Frame.refl | with_reducible assumption | with_reducible refine bump64_frame.andThen (by decide) ?_ | with_reducible refine bump_frame.andThen (by decide) ?_ | with_reducible apply Frame.foldl | intro _ | (split <;> try dsimp only)

theorem setIncr_frame {s : State} {d : Bool} {v : BitVec 48} : Frame [.regs] s (setIncr s d v) := by
  dsimp only [setIncr]
  repeat' first | with_reducible exact Frame.refl | with_reducible assumption | with_reducible refine wr64_frame.andThen (by decide) ?_

theorem setDom_frame {s : State} {d : Bool} {x : Domain} : Frame [.time] s (setDom s d x) := by
  dsimp only [setDom]
  repeat' first | with_reducible exact Frame.refl | with_reducible assumption | intro _ | with_reducible refine .with_time (by decide) ?_

theorem enterHoldover_frame {s : State} {d : Bool} {cause : Nat} : Frame [.time, .regs] s (enterHoldover s d cause) := by
  dsimp only [enterHoldover]
  repeat' first | with_reducible exact Frame.refl | with_reducible assumption | with_reducible refine setIncr_frame.andThen (by decide) ?_ | with_reducible refine event_frame.andThen (by decide) ?_ | with_reducible refine setDom_frame.andThen (by decide) ?_

theorem rttStepDomain_frame {s : State} {d : Bool} : Frame [.time, .regs] s (rttStepDomain s d) := by
  dsimp only [rttStepDomain]
  repeat' first | with_reducible exact Frame.refl | with_reducible assumption | with_reducible refine enterHoldover_frame.andThen (by decide) ?_ | with_reducible refine setDom_frame.andThen (by decide) ?_ | intro _ | (split <;> try dsimp only)

theorem tune_frame {s : State} {d : Bool} {e : ℤ} : Frame [.time, .regs] s (tune s d e) := by
  dsimp only [tune]
  repeat' first | with_reducible exact Frame.refl | with_reducible assumption | with_reducible refine setDom_frame.andThen (by decide) ?_ | with_reducible refine setIncr_frame.andThen (by decide) ?_

theorem setSched_frame {s : State} {n : Nat} {x : SchedState} : Frame [.time] s (setSched s n x) := by
  dsimp only [setSched]
  repeat' first | with_reducible exact Frame.refl | with_reducible assumption | intro _ | with_reducible refine .with_time (by decide) ?_

theorem schedLate_frame {s : State} {n : Nat} : Frame [.time, .regs] s (schedLate s n) := by
  dsimp only [schedLate]
  repeat' first | with_reducible exact Frame.refl | with_reducible assumption | with_reducible refine event_frame.andThen (by decide) ?_ | with_reducible refine wr_frame.andThen (by decide) ?_ | with_reducible refine setSched_frame.andThen (by decide) ?_

theorem lateCheck_frame {old : State} {s : State} : Frame [.time, .regs] s (lateCheck old s) := by
  dsimp only [lateCheck]
  repeat' first | with_reducible exact Frame.refl | with_reducible assumption | with_reducible refine schedLate_frame.andThen (by decide) ?_ | with_reducible apply Frame.foldl | intro _ | (split <;> try dsimp only)

theorem outStep_frame {s : State} {e : ℤ} : Frame [.time, .regs] s (outStep s e) := by
  dsimp only [outStep]
  repeat' first | with_reducible exact Frame.refl | with_reducible assumption | with_reducible refine event_frame.andThen (by decide) ?_ | intro _ | with_reducible refine .with_time (by decide) ?_

theorem stepCount_frame {s : State} {d : Bool} {e : ℤ} : Frame [.time, .regs] s (stepCount s d e) := by
  dsimp only [stepCount]
  repeat' first | with_reducible exact Frame.refl | with_reducible assumption | with_reducible refine event_frame.andThen (by decide) ?_ | with_reducible refine setDom_frame.andThen (by decide) ?_ | with_reducible refine lateCheck_frame.andThen (by decide) ?_ | with_reducible refine outStep_frame.andThen (by decide) ?_ | intro _ | (split <;> try dsimp only)

theorem enterLock_frame {s : State} {d : Bool} : Frame [.time, .regs] s (enterLock s d) := by
  dsimp only [enterLock]
  repeat' first | with_reducible exact Frame.refl | with_reducible assumption | with_reducible refine event_frame.andThen (by decide) ?_ | with_reducible refine setDom_frame.andThen (by decide) ?_

theorem measureNoInput_frame {s : State} {d : Bool} {e : ℤ} : Frame [.time, .regs] s (measureNoInput s d e) := by
  dsimp only [measureNoInput]
  repeat' first | with_reducible exact Frame.refl | with_reducible assumption | with_reducible refine enterLock_frame.andThen (by decide) ?_ | with_reducible refine tune_frame.andThen (by decide) ?_ | with_reducible refine setDom_frame.andThen (by decide) ?_ | intro _ | (split <;> try dsimp only)

theorem enterAcquire_frame {s : State} {d : Bool} : Frame [.time] s (enterAcquire s d) := by
  dsimp only [enterAcquire]
  repeat' first | with_reducible exact Frame.refl | with_reducible assumption | with_reducible refine setDom_frame.andThen (by decide) ?_

theorem servoCtlEff_frame {d : Bool} {v : Word} {s : State} : Frame [.time, .regs] s (servoCtlEff d v s) := by
  dsimp only [servoCtlEff]
  repeat' first | with_reducible exact Frame.refl | with_reducible assumption | with_reducible refine wrField_frame.andThen (by decide) ?_ | with_reducible refine setDom_frame.andThen (by decide) ?_ | with_reducible refine enterAcquire_frame.andThen (by decide) ?_ | intro _ | (split <;> try dsimp only)

theorem incrEff_frame {d : Bool} {hi : Bool} {v : Word} {s : State} : Frame [.intc, .host, .regs] s (incrEff d hi v s) := by
  dsimp only [incrEff]
  repeat' first | with_reducible exact Frame.refl | with_reducible assumption | with_reducible refine fault_frame.andThen (by decide) ?_ | with_reducible refine takeHi_frame.andThen (by decide) ?_ | with_reducible refine stageLo_frame.andThen (by decide) ?_ | intro _ | (split <;> try dsimp only)

theorem switchTo_frame {d : Bool} {s : State} : Frame [.time, .regs] s (switchTo d s) := by
  dsimp only [switchTo]
  repeat' first | with_reducible exact Frame.refl | with_reducible assumption | with_reducible refine lateCheck_frame.andThen (by decide) ?_ | with_reducible refine outStep_frame.andThen (by decide) ?_ | intro _ | (split <;> try dsimp only) | with_reducible refine .with_time (by decide) ?_

theorem switchEff_frame {v : Word} {s : State} : Frame [.time, .regs] s (switchEff v s) := by
  dsimp only [switchEff]
  repeat' first | with_reducible exact Frame.refl | with_reducible assumption | with_reducible refine wrField_frame.andThen (by decide) ?_ | with_reducible refine switchTo_frame.andThen (by decide) ?_ | intro _ | (split <;> try dsimp only) | with_reducible refine .with_time (by decide) ?_

theorem schedArmEff_frame {n : Nat} {v : Word} {s : State} : Frame [.time, .intc, .regs] s (schedArmEff n v s) := by
  dsimp only [schedArmEff]
  repeat' first | with_reducible exact Frame.refl | with_reducible assumption | with_reducible refine wrField_frame.andThen (by decide) ?_ | with_reducible refine fault_frame.andThen (by decide) ?_ | with_reducible refine schedLate_frame.andThen (by decide) ?_ | with_reducible refine setSched_frame.andThen (by decide) ?_ | intro _ | (split <;> try dsimp only)

theorem rttStepServos_frame {s : State} : Frame [.time, .regs] s (rttStepServos s) := by
  dsimp only [rttStepServos]
  repeat' first | with_reducible exact Frame.refl | with_reducible assumption | with_reducible refine rttStepDomain_frame.andThen (by decide) ?_

theorem measureAcquire_frame {s : State} {d : Bool} {e : ℤ} : Frame [.time, .regs] s (measureAcquire s d e) := by
  dsimp only [measureAcquire]
  repeat' first | with_reducible exact Frame.refl | with_reducible assumption | with_reducible refine stepCount_frame.andThen (by decide) ?_ | with_reducible refine tune_frame.andThen (by decide) ?_ | with_reducible refine setDom_frame.andThen (by decide) ?_ | with_reducible refine enterLock_frame.andThen (by decide) ?_ | intro _ | (split <;> try dsimp only)

theorem measure_frame {s : State} {d : Bool} {e : ℤ} : Frame [.time, .regs] s (measure s d e) := by
  dsimp only [measure]
  repeat' first | with_reducible exact Frame.refl | with_reducible assumption | with_reducible refine setDom_frame.andThen (by decide) ?_ | with_reducible refine wr_frame.andThen (by decide) ?_ | with_reducible refine measureAcquire_frame.andThen (by decide) ?_ | with_reducible refine enterHoldover_frame.andThen (by decide) ?_ | with_reducible refine tune_frame.andThen (by decide) ?_ | with_reducible refine measureNoInput_frame.andThen (by decide) ?_ | intro _ | (split <;> try dsimp only)

theorem todRead_frame {path : Nat} {d : Bool} {s : State} : Frame [.time, .host] s (todRead path d s).2 := by
  dsimp only [todRead]
  repeat' first | with_reducible exact Frame.refl | with_reducible assumption | with_reducible refine setLatch_frame.andThen (by decide) ?_ | intro _ | (split <;> try dsimp only) | with_reducible refine .with_time (by decide) ?_

theorem ppsObserve_frame {s : State} : Frame [.time] s (ppsObserve s) := by
  dsimp only [ppsObserve]
  repeat' first | with_reducible exact Frame.refl | with_reducible assumption | intro _ | (split <;> try dsimp only) | with_reducible refine .with_time (by decide) ?_

theorem ppsEdge_frame {s : State} : Frame [.wire, .keeper, .time, .regs] s (ppsEdge s) := by
  dsimp only [ppsEdge]
  repeat' first | with_reducible exact Frame.refl | with_reducible assumption | with_reducible refine emit_frame.andThen (by decide) ?_ | with_reducible refine keeperEdge_frame.andThen (by decide) ?_ | intro _ | (split <;> try dsimp only) | with_reducible refine .with_time (by decide) ?_

theorem ppsEff_frame {s : State} : Frame [.wire, .keeper, .time, .regs] s (ppsEff s) := by
  dsimp only [ppsEff]
  repeat' first | with_reducible exact Frame.refl | with_reducible assumption | with_reducible refine ppsObserve_frame.andThen (by decide) ?_ | with_reducible refine ppsEdge_frame.andThen (by decide) ?_ | intro _ | (split <;> try dsimp only)

theorem clocksTick_frame {s : State} : Frame [.time] s (clocksTick s) := by
  dsimp only [clocksTick]
  repeat' first | with_reducible exact Frame.refl | with_reducible assumption | intro _ | (split <;> try dsimp only) | with_reducible refine .with_time (by decide) ?_

theorem ppsTick_frame {s : State} : Frame [.time] s (ppsTick s) := by
  dsimp only [ppsTick]
  repeat' first | with_reducible exact Frame.refl | with_reducible assumption | intro _ | (split <;> try dsimp only) | with_reducible refine .with_time (by decide) ?_

theorem txqWords_frame {s : State} {e : Option TxStamp} : Frame [.regs] s (txqWords s e) := by
  dsimp only [txqWords]
  repeat' first | with_reducible exact Frame.refl | with_reducible assumption | with_reducible refine wr_frame.andThen (by decide) ?_

theorem txqRead_frame {s : State} : Frame [.time, .regs] s (txqRead s).2 := by
  dsimp only [txqRead]
  repeat' first | with_reducible exact Frame.refl | with_reducible assumption | with_reducible refine txqWords_frame.andThen (by decide) ?_ | intro _ | (split <;> try dsimp only) | with_reducible refine .with_time (by decide) ?_

theorem todSend_frame {wait : Nat} {s : State} : Frame [.wire, .time] s (todSend wait s) := by
  dsimp only [todSend]
  repeat' first | with_reducible exact Frame.refl | with_reducible assumption | with_reducible refine emit_frame.andThen (by decide) ?_ | intro _ | (split <;> try dsimp only) | with_reducible refine .with_time (by decide) ?_

theorem todDeadline_frame {s : State} : Frame [.wire, .time] s (todDeadline s) := by
  dsimp only [todDeadline]
  repeat' first | with_reducible exact Frame.refl | with_reducible assumption | with_reducible refine todSend_frame.andThen (by decide) ?_

theorem setPace_frame {s : State} {t : Nat} {p : Pace} : Frame [.paces] s (setPace s t p) := by
  dsimp only [setPace]
  repeat' first | with_reducible exact Frame.refl | with_reducible assumption | intro _ | with_reducible refine .with_paces (by decide) ?_

theorem sbCmdEff_frame {v : Word} {s : State} : Frame [.wire, .line, .regs] s (sbCmdEff v s) := by
  dsimp only [sbCmdEff]
  repeat' first | with_reducible exact Frame.refl | with_reducible assumption | with_reducible refine wrField_frame.andThen (by decide) ?_ | with_reducible refine wr_frame.andThen (by decide) ?_ | with_reducible refine emit_frame.andThen (by decide) ?_ | intro _ | (split <;> try dsimp only) | with_reducible refine .with_line (by decide) ?_

theorem avsFail_frame {s : State} {t : Nat} {f : Word} {a : Ack} : Frame [.intc, .paces, .regs] s (avsFail s t f a) := by
  dsimp only [avsFail]
  repeat' first | with_reducible exact Frame.refl | with_reducible assumption | with_reducible refine fault_frame.andThen (by decide) ?_ | with_reducible refine setPace_frame.andThen (by decide) ?_

theorem writeRail_frame {s : State} {t : Nat} {mv : Nat} {a : Ack} : Frame [.wire, .intc, .paces, .regs] s (writeRail s t mv a) := by
  dsimp only [writeRail]
  repeat' first | with_reducible exact Frame.refl | with_reducible assumption | with_reducible refine emit_frame.andThen (by decide) ?_ | with_reducible refine setPace_frame.andThen (by decide) ?_ | with_reducible refine avsFail_frame.andThen (by decide) ?_ | intro _ | (split <;> try dsimp only)

theorem paceSelect_frame {s : State} {t : Nat} {a : Ack} : Frame [.wire, .intc, .paces, .regs] s (paceSelect s t a) := by
  dsimp only [paceSelect]
  repeat' first | with_reducible exact Frame.refl | with_reducible assumption | with_reducible refine setPace_frame.andThen (by decide) ?_ | with_reducible refine writeRail_frame.andThen (by decide) ?_ | intro _ | (split <;> try dsimp only)

theorem paceCtlEff_frame {t : Nat} {v : Word} {a : Ack} {s : State} : Frame [.wire, .intc, .paces, .regs] s (paceCtlEff t v a s) := by
  dsimp only [paceCtlEff]
  repeat' first | with_reducible exact Frame.refl | with_reducible assumption | with_reducible refine wrField_frame.andThen (by decide) ?_ | with_reducible refine paceSelect_frame.andThen (by decide) ?_ | intro _ | (split <;> try dsimp only)

theorem paceFixedEff_frame {t : Nat} {v : Word} {a : Ack} {s : State} : Frame [.wire, .intc, .paces, .regs] s (paceFixedEff t v a s) := by
  dsimp only [paceFixedEff]
  repeat' first | with_reducible exact Frame.refl | with_reducible assumption | with_reducible refine wrField_frame.andThen (by decide) ?_ | with_reducible refine writeRail_frame.andThen (by decide) ?_ | intro _ | (split <;> try dsimp only)

theorem paceNewWindow_frame {s : State} {t : Nat} : Frame [.paces] s (paceNewWindow s t) := by
  dsimp only [paceNewWindow]
  repeat' first | with_reducible exact Frame.refl | with_reducible assumption | with_reducible refine setPace_frame.andThen (by decide) ?_

theorem creditRaise_frame {s : State} {t : Nat} : Frame [.paces] s (creditRaise s t) := by
  dsimp only [creditRaise]
  repeat' first | with_reducible exact Frame.refl | with_reducible assumption | with_reducible refine setPace_frame.andThen (by decide) ?_ | intro _ | (split <;> try dsimp only)

theorem railsFree_frame {s : State} : Frame [.wire, .free, .intc, .paces, .regs] s (railsFree s) := by
  dsimp only [railsFree]
  repeat' first | with_reducible exact Frame.refl | with_reducible assumption | with_reducible refine paceNewWindow_frame.andThen (by decide) ?_ | with_reducible refine paceSelect_frame.andThen (by decide) ?_ | with_reducible refine draw1_frame.andThen (by decide) ?_ | with_reducible refine creditRaise_frame.andThen (by decide) ?_ | with_reducible apply Frame.foldl | intro _ | (split <;> try dsimp only)

theorem paceResume_frame {s : State} : Frame [.wire, .free, .intc, .paces, .regs] s (paceResume s) := by
  dsimp only [paceResume]
  repeat' first | with_reducible exact Frame.refl | with_reducible assumption | with_reducible refine paceNewWindow_frame.andThen (by decide) ?_ | with_reducible refine writeRail_frame.andThen (by decide) ?_ | with_reducible refine draw1_frame.andThen (by decide) ?_ | with_reducible apply Frame.foldl | intro _ | (split <;> try dsimp only)

theorem paceMonitor_frame {s : State} {t : Nat} {measured : Nat} : Frame [.intc, .regs] s (paceMonitor s t measured) := by
  dsimp only [paceMonitor]
  repeat' first | with_reducible exact Frame.refl | with_reducible assumption | with_reducible refine wr_frame.andThen (by decide) ?_ | with_reducible refine fault_frame.andThen (by decide) ?_ | intro _ | (split <;> try dsimp only)

theorem railsMove_frame {m : Mode} {avs : List (Nat × Ack)} {s : State} : Frame [.wire, .mode, .intc, .paces, .regs] s (railsMove m avs s) := by
  dsimp only [railsMove]
  repeat' first | with_reducible exact Frame.refl | with_reducible assumption | with_reducible refine writeRail_frame.andThen (by decide) ?_ | with_reducible refine setPace_frame.andThen (by decide) ?_ | with_reducible apply Frame.foldl | intro _ | (split <;> try dsimp only) | with_reducible refine .with_mode (by decide) ?_

theorem paceRead_frame {s : State} {t : Nat} {read : Ack} : Frame [.wire, .intc, .paces, .regs] s (paceRead s t read) := by
  dsimp only [paceRead]
  repeat' first | with_reducible exact Frame.refl | with_reducible assumption | with_reducible refine emit_frame.andThen (by decide) ?_ | with_reducible refine wr_frame.andThen (by decide) ?_ | with_reducible refine avsFail_frame.andThen (by decide) ?_ | intro _ | (split <;> try dsimp only)

theorem paceChoose_frame {s : State} {t : Nat} {write : Ack} : Frame [.wire, .intc, .paces, .regs] s (paceChoose s t write) := by
  dsimp only [paceChoose]
  repeat' first | with_reducible exact Frame.refl | with_reducible assumption | with_reducible refine bump_frame.andThen (by decide) ?_ | with_reducible refine setPace_frame.andThen (by decide) ?_ | with_reducible refine writeRail_frame.andThen (by decide) ?_ | intro _ | (split <;> try dsimp only)

theorem paceWindowEff_frame {t : Nat} {measured : Nat} {read : Ack} {write : Ack} {s : State} : Frame [.wire, .intc, .paces, .regs] s (paceWindowEff t measured read write s) := by
  dsimp only [paceWindowEff]
  repeat' first | with_reducible exact Frame.refl | with_reducible assumption | with_reducible refine paceMonitor_frame.andThen (by decide) ?_ | with_reducible refine paceRead_frame.andThen (by decide) ?_ | with_reducible refine paceNewWindow_frame.andThen (by decide) ?_ | with_reducible refine paceChoose_frame.andThen (by decide) ?_ | intro _ | (split <;> try dsimp only)

end Sys2Proof.Machine
end

