-- ==== Sys2Proof/Laws/FrameLine.lean ====
section
/-!
SUPPORT. Which fields of the state each function may change, for the line, the counters, the cistern, the queues, the beats and the allotments. No function leaves a canonical memory not canonical.
-/
namespace Sys2Proof.Machine

theorem endConvoy_frame {s : State} : Frame [.line] s (endConvoy s) := by
  dsimp only [endConvoy]
  repeat' first | with_reducible exact Frame.refl | with_reducible assumption | intro _ | with_reducible refine .with_line (by decide) ?_

theorem setLane_frame {s : State} {l : Nat} {x : Lane} : Frame [.line] s (setLane s l x) := by
  dsimp only [setLane]
  repeat' first | with_reducible exact Frame.refl | with_reducible assumption | intro _ | with_reducible refine .with_line (by decide) ?_

theorem fecCount_frame {d : Option Decoded} {s : State} : Frame [.regs] s (fecCount d s) := by
  dsimp only [fecCount]
  repeat' first | with_reducible exact Frame.refl | with_reducible assumption | with_reducible refine bump_frame.andThen (by decide) ?_ | intro _ | (split <;> try dsimp only)

theorem skewCheck_frame {s : State} : Frame [.line, .intc, .regs] s (skewCheck s) := by
  dsimp only [skewCheck]
  repeat' first | with_reducible exact Frame.refl | with_reducible assumption | with_reducible refine fault_frame.andThen (by decide) ?_ | intro _ | (split <;> try dsimp only) | with_reducible refine .with_line (by decide) ?_

theorem truncateConvoy_frame {s : State} : Frame [.line, .intc, .regs] s (truncateConvoy s) := by
  dsimp only [truncateConvoy]
  repeat' first | with_reducible exact Frame.refl | with_reducible assumption | with_reducible refine fault_frame.andThen (by decide) ?_ | intro _ | (split <;> try dsimp only) | with_reducible refine .with_line (by decide) ?_

theorem laneTake_frame {l : Nat} {bits : BitVec 5600} {pos : Nat} {age : Nat} {d : Option Decoded} {s : State} : Frame [.line, .intc, .regs] s (laneTake l bits pos age d s) := by
  dsimp only [laneTake]
  repeat' first | with_reducible exact Frame.refl | with_reducible assumption | with_reducible refine setLane_frame.andThen (by decide) ?_ | with_reducible refine fecCount_frame.andThen (by decide) ?_ | with_reducible refine skewCheck_frame.andThen (by decide) ?_ | with_reducible refine fault_frame.andThen (by decide) ?_ | with_reducible refine truncateConvoy_frame.andThen (by decide) ?_ | intro _ | (split <;> try dsimp only)

theorem fifoTake_frame {l : Nat} {p : Nat} {age : Nat} {s : State} : Frame [.line, .intc, .regs] s (fifoTake l p age s) := by
  dsimp only [fifoTake]
  repeat' first | with_reducible exact Frame.refl | with_reducible assumption | with_reducible refine faultAt_frame.andThen (by decide) ?_ | intro _ | (split <;> try dsimp only) | with_reducible refine .with_line (by decide) ?_

theorem storeCw_frame {l : Nat} {p : Nat} {age : Nat} {blocks : List (Option Bytes)} {s : State} : Frame [.line] s (storeCw l p age blocks s) := by
  dsimp only [storeCw]
  repeat' first | with_reducible exact Frame.refl | with_reducible assumption | with_reducible refine setLane_frame.andThen (by decide) ?_ | intro _ | (split <;> try dsimp only)

theorem periodChange_frame {p : Nat} {s : State} : Frame [.line] s (periodChange p s) := by
  dsimp only [periodChange]
  repeat' first | with_reducible exact Frame.refl | with_reducible assumption | intro _ | (split <;> try dsimp only) | with_reducible refine .with_line (by decide) ?_

theorem sampleTc_frame {l : Nat} {p : Nat} {age : Nat} {s : State} : Frame [.line] s (sampleTc l p age s) := by
  dsimp only [sampleTc]
  repeat' first | with_reducible exact Frame.refl | with_reducible assumption | intro _ | (split <;> try dsimp only) | with_reducible refine .with_line (by decide) ?_

theorem dropEnds_frame {l : Nat} {p : Nat} {s : State} : Frame [.line] s (dropEnds l p s) := by
  dsimp only [dropEnds]
  repeat' first | with_reducible exact Frame.refl | with_reducible assumption | intro _ | with_reducible refine .with_line (by decide) ?_

theorem takeCw_frame {l : Nat} {p : Nat} {age : Nat} {blocks : List (Option Bytes)} {s : State} : Frame [.line, .intc, .regs] s (takeCw l p age blocks s) := by
  dsimp only [takeCw]
  repeat' first | with_reducible exact Frame.refl | with_reducible assumption | with_reducible refine periodChange_frame.andThen (by decide) ?_ | with_reducible refine sampleTc_frame.andThen (by decide) ?_ | with_reducible refine storeCw_frame.andThen (by decide) ?_ | with_reducible refine fifoTake_frame.andThen (by decide) ?_ | with_reducible refine dropEnds_frame.andThen (by decide) ?_

theorem codewordEff_frame {l : Nat} {bits : BitVec 5600} {pos : Nat} {age : Nat} {s : State} : Frame [.line, .intc, .regs] s (codewordEff l bits pos age s) := by
  dsimp only [codewordEff]
  repeat' first | with_reducible exact Frame.refl | with_reducible assumption | with_reducible refine laneTake_frame.andThen (by decide) ?_ | with_reducible refine takeCw_frame.andThen (by decide) ?_ | intro _ | (split <;> try dsimp only)

theorem reasmDrop_frame {s : State} {tid : Nat} {flow : Nat} {reason : Nat} : Frame [.intc, .regs] s (reasmDrop s tid flow reason) := by
  dsimp only [reasmDrop]
  repeat' first | with_reducible exact Frame.refl | with_reducible assumption | with_reducible refine fault_frame.andThen (by decide) ?_ | with_reducible refine bump_frame.andThen (by decide) ?_

theorem abandonAll_frame {s : State} : Frame [.reasm, .intc, .regs] s (abandonAll s) := by
  dsimp only [abandonAll]
  repeat' first | with_reducible exact Frame.refl | with_reducible assumption | with_reducible refine reasmDrop_frame.andThen (by decide) ?_ | with_reducible apply Frame.foldl | intro _ | with_reducible refine .with_reasm (by decide) ?_

theorem closeCtx_frame {s : State} {tid : Nat} {flow : Nat} : Frame [.reasm] s (closeCtx s tid flow) := by
  dsimp only [closeCtx]
  repeat' first | with_reducible exact Frame.refl | with_reducible assumption | intro _ | with_reducible refine .with_reasm (by decide) ?_

theorem convoyLayout_frame {b : Bytes} {s : State} : Frame [.line] s (convoyLayout b s) := by
  dsimp only [convoyLayout]
  repeat' first | with_reducible exact Frame.refl | with_reducible assumption | intro _ | with_reducible refine .with_line (by decide) ?_

theorem linePmEff_frame {n : Nat} {v : Word} {s : State} : Frame [.regs] s (linePmEff n v s) := by
  dsimp only [linePmEff]
  repeat' first | with_reducible exact Frame.refl | with_reducible assumption | with_reducible refine wrField_frame.andThen (by decide) ?_ | intro _ | (split <;> try dsimp only)

theorem clearEqd_frame {s : State} : Frame [.regs] s (clearEqd s) := by
  dsimp only [clearEqd]
  repeat' first | with_reducible exact Frame.refl | with_reducible assumption | with_reducible refine wr_frame.andThen (by decide) ?_

theorem setPm0_frame {s : State} {v : Word} : Frame [.line, .regs] s (setPm0 s v) := by
  dsimp only [setPm0]
  repeat' first | with_reducible exact Frame.refl | with_reducible assumption | with_reducible refine wr_frame.andThen (by decide) ?_ | intro _ | with_reducible refine .with_line (by decide) ?_

theorem convoyGap_frame {number : Word} {s : State} : Frame [.reasm, .intc, .regs] s (convoyGap number s) := by
  dsimp only [convoyGap]
  repeat' first | with_reducible exact Frame.refl | with_reducible assumption | with_reducible refine fault_frame.andThen (by decide) ?_ | with_reducible refine bump_frame.andThen (by decide) ?_ | with_reducible refine abandonAll_frame.andThen (by decide) ?_ | intro _ | (split <;> try dsimp only)

theorem reachConvoy_frame {rt : DWord} {s : State} : Frame [.free, .time, .regs] s (reachConvoy rt s) := by
  dsimp only [reachConvoy]
  repeat' first | with_reducible exact Frame.refl | with_reducible assumption | with_reducible refine draw1_frame.andThen (by decide) ?_ | with_reducible refine wr_frame.andThen (by decide) ?_ | with_reducible refine wr64_frame.andThen (by decide) ?_ | with_reducible refine event_frame.andThen (by decide) ?_ | intro _ | (split <;> try dsimp only) | with_reducible refine .with_time (by decide) ?_

theorem reportStep_frame {old : State} {s : State} : Frame [.time, .regs] s (reportStep old s) := by
  dsimp only [reportStep]
  repeat' first | with_reducible exact Frame.refl | with_reducible assumption | with_reducible refine wr_frame.andThen (by decide) ?_ | with_reducible refine rttStepServos_frame.andThen (by decide) ?_ | with_reducible refine event_frame.andThen (by decide) ?_ | intro _ | (split <;> try dsimp only)

theorem checkEqd_frame {old : State} {s : State} : Frame [.intc, .regs] s (checkEqd old s) := by
  dsimp only [checkEqd]
  repeat' first | with_reducible exact Frame.refl | with_reducible assumption | with_reducible refine fault_frame.andThen (by decide) ?_ | with_reducible refine clearEqd_frame.andThen (by decide) ?_ | intro _ | (split <;> try dsimp only)

theorem autoService_frame {s : State} : Frame [.mode] s (autoService s) := by
  dsimp only [autoService]
  repeat' first | with_reducible exact Frame.refl | with_reducible assumption | intro _ | (split <;> try dsimp only) | with_reducible refine .with_mode (by decide) ?_

theorem loadEqd_frame {s : State} : Frame [.mode, .line, .intc, .regs] s (loadEqd s) := by
  dsimp only [loadEqd]
  repeat' first | with_reducible exact Frame.refl | with_reducible assumption | with_reducible refine fault_frame.andThen (by decide) ?_ | with_reducible refine wr_frame.andThen (by decide) ?_ | with_reducible refine autoService_frame.andThen (by decide) ?_ | with_reducible refine event_frame.andThen (by decide) ?_ | intro _ | (split <;> try dsimp only) | with_reducible refine .with_line (by decide) ?_

theorem loadRoute_frame {s : State} : Frame [.line, .regs] s (loadRoute s) := by
  dsimp only [loadRoute]
  repeat' first | with_reducible exact Frame.refl | with_reducible assumption | with_reducible refine wr_frame.andThen (by decide) ?_ | with_reducible refine event_frame.andThen (by decide) ?_ | intro _ | (split <;> try dsimp only) | with_reducible refine .with_line (by decide) ?_

theorem rangeEffects_frame {s : State} : Frame [.mode, .time, .line, .intc, .regs] s (rangeEffects s) := by
  dsimp only [rangeEffects]
  repeat' first | with_reducible exact Frame.refl | with_reducible assumption | with_reducible refine reportStep_frame.andThen (by decide) ?_ | with_reducible refine checkEqd_frame.andThen (by decide) ?_ | with_reducible refine loadEqd_frame.andThen (by decide) ?_ | with_reducible refine loadRoute_frame.andThen (by decide) ?_

theorem measureConvoy_frame {d : Bool} {valid : Bool} {t : DWord} {s : State} : Frame [.mode, .time, .line, .intc, .regs] s (measureConvoy d valid t s) := by
  dsimp only [measureConvoy]
  repeat' first | with_reducible exact Frame.refl | with_reducible assumption | with_reducible refine rangeEffects_frame.andThen (by decide) ?_ | with_reducible refine measure_frame.andThen (by decide) ?_ | intro _ | (split <;> try dsimp only)

theorem convoyGood_frame {b : Bytes} {s : State} : Frame [.free, .mode, .time, .line, .reasm, .intc, .regs] s (convoyGood b s) := by
  unfold convoyGood
  dsimp only
  generalize hx : convoyLayout b _ = x
  have h : Frame [.free, .mode, .time, .line, .reasm, .intc, .regs] s x := by
    rw [← hx]
    refine convoyLayout_frame.andThen (by decide) (measureConvoy_frame.andThen (by decide) (measureConvoy_frame.andThen (by decide)
      (reachConvoy_frame.andThen (by decide) (wr_frame.andThen (by decide) (bump_frame.andThen (by decide) (convoyGap_frame.weaken (by decide)))))))
  split
  · exact h
  · exact truncateConvoy_frame.andThen (by decide) h

theorem setSub_frame {s : State} {x : Sub} : Frame [.mode] s (setSub s x) := by
  dsimp only [setSub]
  repeat' first | with_reducible exact Frame.refl | with_reducible assumption | intro _ | (split <;> try dsimp only) | with_reducible refine .with_mode (by decide) ?_

theorem convoyStart_frame {p : Nat} {s : State} : Frame [.line] s (convoyStart p s) := by
  dsimp only [convoyStart]
  repeat' first | with_reducible exact Frame.refl | with_reducible assumption | with_reducible apply Frame.foldl | intro _ | with_reducible refine .with_line (by decide) ?_

theorem convoyBad_frame {o : Octets} {s : State} : Frame [.line, .reasm, .intc, .regs] s (convoyBad o s) := by
  dsimp only [convoyBad]
  repeat' first | with_reducible exact Frame.refl | with_reducible assumption | with_reducible refine fault_frame.andThen (by decide) ?_ | with_reducible refine bump_frame.andThen (by decide) ?_ | with_reducible refine abandonAll_frame.andThen (by decide) ?_ | intro _ | with_reducible refine .with_line (by decide) ?_

theorem convoyHeaderEff_frame {s : State} : Frame [.free, .mode, .time, .line, .reasm, .intc, .regs] s (convoyHeaderEff s) := by
  dsimp only [convoyHeaderEff]
  repeat' first | with_reducible exact Frame.refl | with_reducible assumption | with_reducible refine convoyStart_frame.andThen (by decide) ?_ | with_reducible refine convoyGood_frame.andThen (by decide) ?_ | with_reducible refine convoyBad_frame.andThen (by decide) ?_ | intro _ | (split <;> try dsimp only)

theorem emptySlots_frame {s : State} : Frame [.keys] s (emptySlots s) := by
  dsimp only [emptySlots]
  repeat' first | with_reducible exact Frame.refl | with_reducible assumption | intro _ | with_reducible refine .with_keys (by decide) ?_

theorem assignEffect_frame {tid : Nat} {s : State} : Frame [.mode, .line, .keys, .regs] s (assignEffect tid s) := by
  dsimp only [assignEffect]
  repeat' first | with_reducible exact Frame.refl | with_reducible assumption | with_reducible refine emptySlots_frame.andThen (by decide) ?_ | with_reducible refine clearEqd_frame.andThen (by decide) ?_ | with_reducible refine setPm0_frame.andThen (by decide) ?_ | with_reducible refine wr_frame.andThen (by decide) ?_ | with_reducible refine setSub_frame.andThen (by decide) ?_ | with_reducible refine event_frame.andThen (by decide) ?_ | intro _ | with_reducible refine .with_line (by decide) ?_

theorem keyEffect_frame {s : State} {w : KeyWait} : Frame [.keys] s (keyEffect s w) := by
  dsimp only [keyEffect]
  repeat' first | with_reducible exact Frame.refl | with_reducible assumption | intro _ | (split <;> try dsimp only) | with_reducible refine .with_keys (by decide) ?_

theorem wrapped_frame {s : State} : Frame [.regs] s (wrapped s) := by
  dsimp only [wrapped]
  repeat' first | with_reducible exact Frame.refl | with_reducible assumption | with_reducible refine event_frame.andThen (by decide) ?_

theorem accessInc_frame {a : Access} {s : State} {k : Nat} : Frame [.regs] s (accessInc a s k) := by
  dsimp only [accessInc]
  repeat' first | with_reducible exact Frame.refl | with_reducible assumption | with_reducible refine wr64_frame.andThen (by decide) ?_ | with_reducible refine wrapped_frame.andThen (by decide) ?_ | intro _ | (split <;> try dsimp only)

theorem access_frame {s : State} {a : Access} : Frame [.regs] s (access s a) := by
  dsimp only [access]
  repeat' first | with_reducible exact Frame.refl | with_reducible assumption | with_reducible refine accessInc_frame.andThen (by decide) ?_ | with_reducible apply Frame.foldl | intro _

theorem inc48_frame {s : State} {a : Nat} {n : Nat} {ovf : Nat} {k : Nat} : Frame [.regs] s (inc48 s a n ovf k) := by
  dsimp only [inc48]
  repeat' first | with_reducible exact Frame.refl | with_reducible assumption | with_reducible refine wr64_frame.andThen (by decide) ?_ | with_reducible refine wrapped_frame.andThen (by decide) ?_ | with_reducible refine event_frame.andThen (by decide) ?_ | intro _ | (split <;> try dsimp only)

theorem cellInc_frame {t : Nat} {c : Nat} {n : Nat} {s : State} {k : Nat} : Frame [.perf, .regs] s (cellInc t c n s k) := by
  dsimp only [cellInc]
  repeat' first | with_reducible exact Frame.refl | with_reducible assumption | with_reducible refine inc48_frame.andThen (by decide) ?_ | intro _ | (split <;> try dsimp only) | with_reducible refine .with_perf (by decide) ?_

theorem cellEvent_frame {s : State} {t : Nat} {c : Nat} {ev : CellEv} {n : Nat} : Frame [.perf, .regs] s (cellEvent s t c ev n) := by
  dsimp only [cellEvent]
  repeat' first | with_reducible exact Frame.refl | with_reducible assumption | with_reducible refine cellInc_frame.andThen (by decide) ?_ | with_reducible apply Frame.foldl | intro _

theorem tractCount1_frame {s : State} {t : Nat} {k : Nat} {n : Nat} : Frame [.regs] s (tractCount1 s t k n) := by
  dsimp only [tractCount1]
  repeat' first | with_reducible exact Frame.refl | with_reducible assumption | with_reducible refine wr_frame.andThen (by decide) ?_ | with_reducible refine wrapped_frame.andThen (by decide) ?_ | with_reducible refine event_frame.andThen (by decide) ?_ | intro _ | (split <;> try dsimp only)

theorem tractInc_frame {t : Nat} {n : Nat} {s : State} {k : Nat} : Frame [.perf, .regs] s (tractInc t n s k) := by
  dsimp only [tractInc]
  repeat' first | with_reducible exact Frame.refl | with_reducible assumption | with_reducible refine wr_frame.andThen (by decide) ?_ | with_reducible refine tractCount1_frame.andThen (by decide) ?_ | intro _ | (split <;> try dsimp only) | with_reducible refine .with_perf (by decide) ?_

theorem tractEvent_frame {s : State} {t : Nat} {ev : TractEv} {n : Nat} : Frame [.perf, .regs] s (tractEvent s t ev n) := by
  dsimp only [tractEvent]
  repeat' first | with_reducible exact Frame.refl | with_reducible assumption | with_reducible refine tractInc_frame.andThen (by decide) ?_ | with_reducible apply Frame.foldl | intro _

theorem portStat_frame {s : State} {p : Nat} {k : Nat} {n : Nat} : Frame [.regs] s (portStat s p k n) := by
  dsimp only [portStat]
  repeat' first | with_reducible exact Frame.refl | with_reducible assumption | with_reducible refine wr64_frame.andThen (by decide) ?_

theorem cisEcc_frame {s : State} {g : Nat} : Frame [.intc, .regs] s (cisEcc s g) := by
  dsimp only [cisEcc]
  repeat' first | with_reducible exact Frame.refl | with_reducible assumption | with_reducible refine fault_frame.andThen (by decide) ?_ | with_reducible refine bump_frame.andThen (by decide) ?_

theorem cisRead_frame {s : State} {acc : Access} {a : Nat} {n : Nat} : Frame [.intc, .regs] s (cisRead s acc a n).1 := by
  dsimp only [cisRead]
  repeat' first | with_reducible exact Frame.refl | with_reducible assumption | with_reducible refine access_frame.andThen (by decide) ?_ | with_reducible refine cisEcc_frame.andThen (by decide) ?_ | intro _ | (split <;> try dsimp only)

theorem cisWrite_frame {s : State} {a : Nat} {b : Bytes} : Frame [.cistern] s (cisWrite s a b) :=
  ⟨fun f hf => by cases f <;> first | rfl | exact absurd hf (by decide), memWriteAll_wf b a⟩

theorem patchChunk_frame {s : State} {c : Chunk} {k : Nat} {b : Bytes} : Frame [.cistern, .res] s (patchChunk s c k b) := by
  unfold patchChunk
  split
  · rename_i g sk n
    have key : ∀ (l : List (Nat × Nat)) (x : State × Bytes), Frame [.cistern, .res] s x.1 →
        Frame [.cistern, .res] s (l.foldl (fun (x : State × Bytes) r => (cisWrite x.1 r.1 (x.2.take r.2), x.2.drop r.2)) x).1 := by
      intro l
      induction l with
      | nil => exact fun x h => h
      | cons r l ih => exact fun x h => ih _ (cisWrite_frame.andThen (by decide) h)
    exact key _ _ .refl
  · exact .with_res (by decide) .refl

theorem patchParts_frame {l : List Chunk} {i : Nat} {b : Bytes} {s : State} : Frame [.cistern, .res] s (patchParts s l i b) := by
  induction l generalizing i b s with
  | nil => exact .refl
  | cons c l ih =>
    unfold patchParts
    split
    · exact .refl
    · split
      · exact ih
      · exact Frame.trans (patchChunk_frame.weaken (by decide)) ih

theorem unhold_frame {s : State} {g : Nat} : Frame [.cistern] s (unhold s g).1 := by
  dsimp only [unhold]
  repeat' first | with_reducible exact Frame.refl | with_reducible assumption | intro _ | (split <;> try dsimp only) | with_reducible refine .with_cistern (by decide) rfl ?_

theorem toArea_mem (c : Cistern) (r : Nat) : (toArea c r).mem = c.mem := by
  unfold toArea; split
  · rfl
  · split <;> rfl

theorem foldl_mem {f : Cistern → Nat → Cistern} (hf : ∀ c x, (f c x).mem = c.mem) (l : List Nat) (c : Cistern) : (l.foldl f c).mem = c.mem := by
  induction l generalizing c with
  | nil => rfl
  | cons x l ih => rw [List.foldl_cons, ih, hf]

theorem toAreas_frame {n : Nat} {s : State} : Frame [.cistern] s (toAreas n s) :=
  .with_cistern (by decide) (foldl_mem (fun _ _ => toArea_mem ..) ..) .refl

theorem letGo_frame {s : State} {g : Nat} : Frame [.cistern] s (letGo s g) := by
  dsimp only [letGo]
  repeat' first | with_reducible exact Frame.refl | with_reducible assumption | with_reducible refine unhold_frame.andThen (by decide) ?_ | with_reducible refine toAreas_frame.andThen (by decide) ?_ | with_reducible refine Frame.snd (by assumption) ?_ | with_reducible refine Frame.fst (by assumption) ?_ | intro _ | (split <;> try dsimp only)

theorem letGoAll_frame {s : State} {l : List Nat} : Frame [.cistern] s (letGoAll s l) := by
  dsimp only [letGoAll]
  repeat' first | with_reducible exact Frame.refl | with_reducible assumption | with_reducible refine letGo_frame.andThen (by decide) ?_ | with_reducible apply Frame.foldl | intro _

theorem freeChunks_frame {s : State} {l : List Chunk} : Frame [.cistern] s (freeChunks s l) := by
  dsimp only [freeChunks]
  repeat' first | with_reducible exact Frame.refl | with_reducible assumption | with_reducible refine letGoAll_frame.andThen (by decide) ?_

theorem hold_frame {s : State} {g : Nat} : Frame [.cistern] s (hold s g) := by
  dsimp only [hold]
  repeat' first | with_reducible exact Frame.refl | with_reducible assumption | intro _ | with_reducible refine .with_cistern (by decide) rfl ?_

theorem holdAll_frame {s : State} {l : List Nat} : Frame [.cistern] s (holdAll s l) := by
  dsimp only [holdAll]
  repeat' first | with_reducible exact Frame.refl | with_reducible assumption | with_reducible refine hold_frame.andThen (by decide) ?_ | with_reducible apply Frame.foldl | intro _

theorem toPools_frame {n : Nat} {s : State} : Frame [.cistern] s (toPools n s) :=
  .with_cistern (by decide) (foldl_mem (f := fun c _ => toPool c) (fun _ _ => rfl) ..) .refl

theorem letGoPool_frame {s : State} {g : Nat} : Frame [.cistern] s (letGoPool s g) := by
  dsimp only [letGoPool]
  repeat' first | with_reducible exact Frame.refl | with_reducible assumption | with_reducible refine unhold_frame.andThen (by decide) ?_ | with_reducible refine toPools_frame.andThen (by decide) ?_ | with_reducible refine Frame.snd (by assumption) ?_ | with_reducible refine Frame.fst (by assumption) ?_ | intro _ | (split <;> try dsimp only)

theorem returnCredit_frame {n : Nat} {s : State} : Frame [.cistern] s (returnCredit n s) :=
  toAreas_frame.andThen (by decide) (.with_cistern (by decide) rfl .refl)

theorem upset_frame {s : State} {u : Upset} : Frame [.cistern, .regs] s (upset s u) := by
  dsimp only [upset]
  repeat' first | with_reducible exact Frame.refl | with_reducible assumption | with_reducible refine bumpBy_frame.andThen (by decide) ?_ | with_reducible apply Frame.foldl | intro _ | with_reducible refine .with_cistern (by decide) rfl ?_

theorem readRuns_frame {acc : Access} {s : State} {l : List (Nat × Nat)} : Frame [.intc, .regs] s (readRuns acc s l).1 := by
  induction l generalizing s with
  | nil => exact .refl
  | cons r l ih => exact Frame.trans (cisRead_frame.weaken (by decide)) ih

theorem writeRuns_frame {acc : Access} {s : State} {l : List (Nat × Nat)} {b : Bytes} : Frame [.cistern, .regs] s (writeRuns acc s l b) := by
  induction l generalizing s b with
  | nil => exact .refl
  | cons r l ih => exact Frame.trans (cisWrite_frame.andThen (by decide) (access_frame.weaken (by decide))) ih

theorem restoreRobin_frame {asm : Nat} {k : Nat} {pos : Nat} {s : State} : Frame [.robins, .marks] s (restoreRobin asm k pos s) := by
  dsimp only [restoreRobin]
  repeat' first | with_reducible exact Frame.refl | with_reducible assumption | intro _ | (split <;> try dsimp only) | with_reducible refine .with_robins_marks (by decide) ?_

theorem restoreRobins_frame {asm : Nat} {l : List (Nat × Nat)} {s : State} : Frame [.robins, .marks] s (restoreRobins asm l s) := by
  dsimp only [restoreRobins]
  repeat' first | with_reducible exact Frame.refl | with_reducible assumption | with_reducible refine restoreRobin_frame.andThen (by decide) ?_ | with_reducible apply Frame.foldr | intro _

theorem returnMsgs_frame {s : State} {l : List Msg} : Frame [.msgs] s (returnMsgs s l) := by
  dsimp only [returnMsgs]
  repeat' first | with_reducible exact Frame.refl | with_reducible assumption | with_reducible apply Frame.foldl | intro _ | with_reducible refine .with_msgs (by decide) ?_

theorem flushFrame_frame {f : QFrame} {s : State} : Frame [.cistern, .regs] s (flushFrame f s) := by
  dsimp only [flushFrame]
  repeat' first | with_reducible exact Frame.refl | with_reducible assumption | with_reducible refine bump_frame.andThen (by decide) ?_ | with_reducible refine freeChunks_frame.andThen (by decide) ?_

theorem setQueue_frame {s : State} {q : Nat} {x : Queue} : Frame [.queues] s (setQueue s q x) := by
  dsimp only [setQueue]
  repeat' first | with_reducible exact Frame.refl | with_reducible assumption | intro _ | with_reducible refine .with_queues (by decide) ?_

theorem evalPressure_frame {s : State} {q : Nat} : Frame [.queues] s (evalPressure s q) := by
  dsimp only [evalPressure]
  repeat' first | with_reducible exact Frame.refl | with_reducible assumption | with_reducible refine setQueue_frame.andThen (by decide) ?_

theorem returnSeg_frame {aid : Nat} {s : State} {g : Seg} : Frame [.cistern, .queues, .regs] s (returnSeg aid s g) := by
  dsimp only [returnSeg]
  repeat' first | with_reducible exact Frame.refl | with_reducible assumption | with_reducible refine flushFrame_frame.andThen (by decide) ?_ | with_reducible refine evalPressure_frame.andThen (by decide) ?_ | with_reducible refine setQueue_frame.andThen (by decide) ?_ | intro _ | (split <;> try dsimp only)

theorem setRobin_frame {s : State} {aid : Nat} {p : Nat} {m : Nat} : Frame [.robins] s (setRobin s aid p m) := by
  dsimp only [setRobin]
  repeat' first | with_reducible exact Frame.refl | with_reducible assumption | intro _ | with_reducible refine .with_robins (by decide) ?_

theorem dropInvalid_frame {q : Nat} {f : QFrame} {s : State} : Frame [.intc, .perf, .cistern, .regs] s (dropInvalid q f s) := by
  dsimp only [dropInvalid]
  repeat' first | with_reducible exact Frame.refl | with_reducible assumption | with_reducible refine tractEvent_frame.andThen (by decide) ?_ | with_reducible refine bump_frame.andThen (by decide) ?_ | with_reducible refine freeChunks_frame.andThen (by decide) ?_ | with_reducible refine fault_frame.andThen (by decide) ?_

theorem dropLimit_frame {q : Nat} {f : QFrame} {s : State} : Frame [.perf, .cistern, .regs] s (dropLimit q f s) := by
  dsimp only [dropLimit]
  repeat' first | with_reducible exact Frame.refl | with_reducible assumption | with_reducible refine tractEvent_frame.andThen (by decide) ?_ | with_reducible refine bump_frame.andThen (by decide) ?_ | with_reducible refine freeChunks_frame.andThen (by decide) ?_

theorem linkFrame_frame {q : Nat} {f : QFrame} {s : State} : Frame [.perf, .serial, .queues, .regs] s (linkFrame q f s) := by
  dsimp only [linkFrame]
  repeat' first | with_reducible exact Frame.refl | with_reducible assumption | with_reducible refine setQueue_frame.andThen (by decide) ?_ | with_reducible refine tractEvent_frame.andThen (by decide) ?_ | with_reducible refine evalPressure_frame.andThen (by decide) ?_ | intro _ | with_reducible refine .with_serial (by decide) ?_

theorem enqueueFrame_frame {q : Nat} {f : QFrame} {s : State} : Frame [.intc, .perf, .serial, .cistern, .queues, .regs] s (enqueueFrame q f s) := by
  dsimp only [enqueueFrame]
  repeat' first | with_reducible exact Frame.refl | with_reducible assumption | with_reducible refine dropInvalid_frame.andThen (by decide) ?_ | with_reducible refine dropLimit_frame.andThen (by decide) ?_ | with_reducible refine linkFrame_frame.andThen (by decide) ?_ | intro _ | (split <;> try dsimp only)

theorem queueWmEff_frame {q : Nat} {v : Word} {s : State} : Frame [.queues, .regs] s (queueWmEff q v s) := by
  dsimp only [queueWmEff]
  repeat' first | with_reducible exact Frame.refl | with_reducible assumption | with_reducible refine evalPressure_frame.andThen (by decide) ?_ | with_reducible refine wr_frame.andThen (by decide) ?_ | intro _ | (split <;> try dsimp only)

theorem queueMsg_frame {b : Bytes} {ring : Bool} {s : State} : Frame [.serial, .msgs] s (queueMsg b ring s) := by
  dsimp only [queueMsg]
  repeat' first | with_reducible exact Frame.refl | with_reducible assumption | intro _ | with_reducible refine .with_serial_msgs (by decide) ?_

theorem setRing_frame {s : State} {rx : Bool} {r : Nat} {x : Ring} : Frame [.rings] s (setRing s rx r x) := by
  dsimp only [setRing]
  repeat' first | with_reducible exact Frame.refl | with_reducible assumption | intro _ | with_reducible refine .with_rings (by decide) ?_

theorem setScan_frame {s : State} {e : Nat} {x : Scan} : Frame [.scans] s (setScan s e x) := by
  dsimp only [setScan]
  repeat' first | with_reducible exact Frame.refl | with_reducible assumption | intro _ | with_reducible refine .with_scans (by decide) ?_

theorem setDma_frame {s : State} {c : Nat} {x : Dma} : Frame [.dmas] s (setDma s c x) := by
  dsimp only [setDma]
  repeat' first | with_reducible exact Frame.refl | with_reducible assumption | intro _ | with_reducible refine .with_dmas (by decide) ?_

theorem noteInflight_frame {s : State} : Frame [.regs] s (noteInflight s) := by
  dsimp only [noteInflight]
  repeat' first | with_reducible exact Frame.refl | with_reducible assumption | with_reducible refine wr_frame.andThen (by decide) ?_ | intro _ | (split <;> try dsimp only)

theorem opsTake_frame {n : Nat} {s : State} : Frame [.turns] s (opsTake n s) := by
  dsimp only [opsTake]
  repeat' first | with_reducible exact Frame.refl | with_reducible assumption | with_reducible refine granted_frame.andThen (by decide) ?_ | intro _ | (split <;> try dsimp only) | with_reducible refine .with_turns (by decide) ?_

theorem takeBanks_frame {waits : Nat → Nat → Bool} {i : Nat} {l : List Nat} {s : State} : Frame [.turns] s (takeBanks waits i l s) := by
  dsimp only [takeBanks]
  repeat' first | with_reducible exact Frame.refl | with_reducible assumption | with_reducible refine granted_frame.andThen (by decide) ?_ | with_reducible apply Frame.foldl | intro _ | with_reducible refine .with_turns (by decide) ?_

theorem setDrover_frame {s : State} {t : Nat} {d : Drover} : Frame [.drovers] s (setDrover s t d) := by
  dsimp only [setDrover]
  repeat' first | with_reducible exact Frame.refl | with_reducible assumption | intro _ | with_reducible refine .with_drovers (by decide) ?_

theorem allotFault_frame {s : State} {code : Nat} {e : Entry} : Frame [.intc, .regs] s (allotFault s code e) := by
  dsimp only [allotFault]
  repeat' first | with_reducible exact Frame.refl | with_reducible assumption | with_reducible refine fault_frame.andThen (by decide) ?_

theorem refuseEntry_frame {s : State} {a : Nat} {code : Nat} {e : Entry} : Frame [.intc, .regs] s (refuseEntry s a code e) := by
  dsimp only [refuseEntry]
  repeat' first | with_reducible exact Frame.refl | with_reducible assumption | with_reducible refine allotFault_frame.andThen (by decide) ?_ | with_reducible refine bump_frame.andThen (by decide) ?_

theorem removeEntry_frame {s : State} {id : Nat} : Frame [.table] s (removeEntry s id) := by
  dsimp only [removeEntry]
  repeat' first | with_reducible exact Frame.refl | with_reducible assumption | intro _ | with_reducible refine .with_table (by decide) ?_

theorem tableFault_frame {s : State} {e : Nat × Entry} : Frame [.intc, .table, .regs] s (tableFault s e) := by
  dsimp only [tableFault]
  repeat' first | with_reducible exact Frame.refl | with_reducible assumption | with_reducible refine fault_frame.andThen (by decide) ?_ | with_reducible refine removeEntry_frame.andThen (by decide) ?_

theorem tableFaults_frame {ecc : List Nat} {s : State} : Frame [.intc, .table, .regs] s (tableFaults ecc s) := by
  dsimp only [tableFaults]
  repeat' first | with_reducible exact Frame.refl | with_reducible assumption | with_reducible refine tableFault_frame.andThen (by decide) ?_ | with_reducible apply Frame.foldl | intro _

theorem admitEntry_frame {s : State} {e : Entry} : Frame [.serial, .table, .regs] s (admitEntry s e) := by
  dsimp only [admitEntry]
  repeat' first | with_reducible exact Frame.refl | with_reducible assumption | with_reducible refine bump_frame.andThen (by decide) ?_ | with_reducible refine wr_frame.andThen (by decide) ?_ | intro _ | (split <;> try dsimp only) | with_reducible refine .with_serial_table (by decide) ?_

theorem admission_frame {ecc : List Nat} {e : Entry} {s : State} : Frame [.intc, .serial, .table, .regs] s (admission ecc e s) := by
  dsimp only [admission]
  repeat' first | with_reducible exact Frame.refl | with_reducible assumption | with_reducible refine refuseEntry_frame.andThen (by decide) ?_ | with_reducible refine tableFaults_frame.andThen (by decide) ?_ | with_reducible refine admitEntry_frame.andThen (by decide) ?_ | intro _ | (split <;> try dsimp only)

theorem lineHgLeadEff_frame {v : Word} {s : State} : Frame [.regs] s (lineHgLeadEff v s) := by
  dsimp only [lineHgLeadEff]
  repeat' first | with_reducible exact Frame.refl | with_reducible assumption | with_reducible refine wrField_frame.andThen (by decide) ?_

theorem addBurst_frame {s : State} {b : Burst} : Frame [.gate] s (addBurst s b) := by
  dsimp only [addBurst]
  repeat' first | with_reducible exact Frame.refl | with_reducible assumption | intro _ | with_reducible refine .with_gate (by decide) ?_

theorem gateBurst_frame {kind : BurstKind} {e : Entry} {s : State} : Frame [.gate] s (gateBurst kind e s) := by
  dsimp only [gateBurst]
  repeat' first | with_reducible exact Frame.refl | with_reducible assumption | with_reducible refine addBurst_frame.andThen (by decide) ?_

theorem purge_frame {s : State} {p : Entry → Bool} {a : Nat} : Frame [.table, .regs] s (purge s p a) := by
  dsimp only [purge]
  repeat' first | with_reducible exact Frame.refl | with_reducible assumption | with_reducible refine bumpBy_frame.andThen (by decide) ?_ | intro _ | with_reducible refine .with_table (by decide) ?_

theorem countOut_frame {s : State} {id : Nat} {a : Nat} : Frame [.table, .regs] s (countOut s id a) := by
  dsimp only [countOut]
  repeat' first | with_reducible exact Frame.refl | with_reducible assumption | with_reducible refine bump_frame.andThen (by decide) ?_ | with_reducible refine removeEntry_frame.andThen (by decide) ?_

theorem windowEndEff_frame {s : State} : Frame [.table, .regs] s (windowEndEff s) := by
  dsimp only [windowEndEff]
  repeat' first | with_reducible exact Frame.refl | with_reducible assumption | with_reducible refine removeEntry_frame.andThen (by decide) ?_ | with_reducible refine countOut_frame.andThen (by decide) ?_ | intro _ | (split <;> try dsimp only)

theorem updateEntry_frame {s : State} {id : Nat} {f : Entry → Entry} : Frame [.table] s (updateEntry s id f) := by
  dsimp only [updateEntry]
  repeat' first | with_reducible exact Frame.refl | with_reducible assumption | intro _ | with_reducible refine .with_table (by decide) ?_

theorem fixEntry_frame {g : Stage} {e : Entry} {s : State} : Frame [.table] s (fixEntry g e s) := by
  dsimp only [fixEntry]
  repeat' first | with_reducible exact Frame.refl | with_reducible assumption | with_reducible refine updateEntry_frame.andThen (by decide) ?_

theorem handToDrover_frame {e : Entry} {s : State} : Frame [.drovers, .gate] s (handToDrover e s) := by
  dsimp only [handToDrover]
  repeat' first | with_reducible exact Frame.refl | with_reducible assumption | with_reducible refine gateBurst_frame.andThen (by decide) ?_ | with_reducible refine setDrover_frame.andThen (by decide) ?_ | intro _ | (split <;> try dsimp only)

theorem takeDue_frame {e : Entry} {s : State} : Frame [.line, .intc, .table, .drovers, .gate, .regs] s (takeDue e s) := by
  dsimp only [takeDue]
  repeat' first | with_reducible exact Frame.refl | with_reducible assumption | with_reducible refine fixEntry_frame.andThen (by decide) ?_ | with_reducible refine allotFault_frame.andThen (by decide) ?_ | with_reducible refine countOut_frame.andThen (by decide) ?_ | with_reducible refine gateBurst_frame.andThen (by decide) ?_ | with_reducible refine handToDrover_frame.andThen (by decide) ?_ | intro _ | (split <;> try dsimp only) | with_reducible refine .with_line (by decide) ?_

theorem retakeHeld_frame {old : State} {s : State} : Frame [.line, .intc, .table, .drovers, .gate, .regs] s (retakeHeld old s) := by
  dsimp only [retakeHeld]
  repeat' first | with_reducible exact Frame.refl | with_reducible assumption | with_reducible refine takeDue_frame.andThen (by decide) ?_ | with_reducible apply Frame.foldl | intro _

theorem purgeRegister_frame {s : State} : Frame [.table, .regs] s (purgeRegister s) := by
  dsimp only [purgeRegister]
  repeat' first | with_reducible exact Frame.refl | with_reducible assumption | with_reducible refine purge_frame.andThen (by decide) ?_

theorem assignIdEff_frame {s : State} : Frame [.mode, .line, .keys, .table, .regs] s (assignIdEff s) := by
  dsimp only [assignIdEff]
  repeat' first | with_reducible exact Frame.refl | with_reducible assumption | with_reducible refine assignEffect_frame.andThen (by decide) ?_ | with_reducible refine purgeRegister_frame.andThen (by decide) ?_ | intro _ | (split <;> try dsimp only) | with_reducible refine .with_line (by decide) ?_

theorem allotmentDueEff_frame {ecc : List Nat} {s : State} : Frame [.line, .intc, .table, .drovers, .gate, .regs] s (allotmentDueEff ecc s) := by
  dsimp only [allotmentDueEff]
  repeat' first | with_reducible exact Frame.refl | with_reducible assumption | with_reducible refine tableFaults_frame.andThen (by decide) ?_ | with_reducible refine takeDue_frame.andThen (by decide) ?_ | intro _ | (split <;> try dsimp only)

theorem mapTake_frame {ecc : List Nat} {idx : Nat} {o : Octets} {s : State} : Frame [.intc, .serial, .table, .regs] s (mapTake ecc idx o s) := by
  dsimp only [mapTake]
  repeat' first | with_reducible exact Frame.refl | with_reducible assumption | with_reducible refine admission_frame.andThen (by decide) ?_ | with_reducible refine fault_frame.andThen (by decide) ?_ | with_reducible refine bump_frame.andThen (by decide) ?_ | intro _ | (split <;> try dsimp only)

theorem mapEntryEff_frame {ecc : List Nat} {s : State} : Frame [.line, .intc, .serial, .table, .regs] s (mapEntryEff ecc s) := by
  dsimp only [mapEntryEff]
  repeat' first | with_reducible exact Frame.refl | with_reducible assumption | with_reducible refine endConvoy_frame.andThen (by decide) ?_ | with_reducible refine mapTake_frame.andThen (by decide) ?_ | intro _ | (split <;> try dsimp only) | with_reducible refine .with_line (by decide) ?_

theorem launchRemovalEff_frame {s : State} : Frame [.table, .regs] s (launchRemovalEff s) := by
  dsimp only [launchRemovalEff]
  repeat' first | with_reducible exact Frame.refl | with_reducible assumption | with_reducible refine countOut_frame.andThen (by decide) ?_ | intro _ | (split <;> try dsimp only)

end Sys2Proof.Machine
end

