-- ==== Sys2Proof/Laws/FrameUpstream.lean ====
section
/-!
SUPPORT. Which fields of the state each function may change, for the drovers, the headgate and the reservoir. No function leaves a canonical memory not canonical.
-/
namespace Sys2Proof.Machine

theorem slackAdd_frame {s : State} {t : Nat} {u : Nat} : Frame [.drovers] s (slackAdd s t u) := by
  dsimp only [slackAdd]
  repeat' first | with_reducible exact Frame.refl | with_reducible assumption | with_reducible refine setDrover_frame.andThen (by decide) ?_

theorem gatherInto_frame {l : List (Access × Nat × Nat)} {room : Nat} {b : Burst} {s : State} : Frame [.intc, .regs] s (gatherInto l room b s).1 := by
  induction l generalizing room b s with
  | nil => exact .refl
  | cons r l ih =>
    simp only [gatherInto]
    split
    · exact .refl
    · split
      · exact .refl
      · split
        · exact Frame.trans (cisRead_frame.weaken (by decide)) ih
        · exact cisRead_frame.weaken (by decide)

theorem keepBurst_frame {b : Burst} {s : State} : Frame [.gate] s (keepBurst b s) := by
  dsimp only [keepBurst]
  repeat' first | with_reducible exact Frame.refl | with_reducible assumption | intro _ | with_reducible refine .with_gate (by decide) ?_

theorem gatherAll_frame {l : List Burst} {room : Nat} {s : State} : Frame [.intc, .gate, .regs] s (gatherAll l room s) := by
  induction l generalizing room s with
  | nil => exact .refl
  | cons b l ih =>
    simp only [gatherAll]
    exact Frame.trans (keepBurst_frame.andThen (by decide) (gatherInto_frame.weaken (by decide))) ih

theorem stageBursts_frame {s : State} : Frame [.intc, .gate, .regs] s (stageBursts s) := by
  dsimp only [stageBursts]
  repeat' first | with_reducible exact Frame.refl | with_reducible assumption | with_reducible refine gatherAll_frame.andThen (by decide) ?_

theorem writeBack_frame {q : Nat} {uid : Nat} {s : State} {o : Nat × Bytes} : Frame [.cistern, .res, .gate] s (writeBack q uid s o) := by
  dsimp only [writeBack]
  repeat' first | with_reducible exact Frame.refl | with_reducible assumption | with_reducible refine patchParts_frame.andThen (by decide) ?_ | intro _ | with_reducible refine .with_gate (by decide) ?_

theorem tcRestore_frame {s : State} {x : TcSave} : Frame [.cistern, .res, .gate] s (tcRestore s x) := by
  dsimp only [tcRestore]
  repeat' first | with_reducible exact Frame.refl | with_reducible assumption | with_reducible refine writeBack_frame.andThen (by decide) ?_ | with_reducible apply Frame.foldl | intro _

theorem returnBurst_frame {s : State} {b : Burst} : Frame [.cistern, .res, .queues, .robins, .marks, .gate, .msgs, .regs] s (returnBurst s b) := by
  dsimp only [returnBurst]
  repeat' first | with_reducible exact Frame.refl | with_reducible assumption | with_reducible refine tcRestore_frame.andThen (by decide) ?_ | with_reducible refine restoreRobins_frame.andThen (by decide) ?_ | with_reducible refine returnMsgs_frame.andThen (by decide) ?_ | with_reducible refine returnSeg_frame.andThen (by decide) ?_ | with_reducible refine bump_frame.andThen (by decide) ?_ | with_reducible apply Frame.foldl | intro _ | (split <;> try dsimp only) | with_reducible refine .with_gate (by decide) ?_

theorem withdrawBursts_frame {p : Burst → Bool} {s : State} : Frame [.intc, .cistern, .res, .queues, .robins, .marks, .gate, .msgs, .regs] s (withdrawBursts p s) := by
  dsimp only [withdrawBursts]
  repeat' first | with_reducible exact Frame.refl | with_reducible assumption | with_reducible refine stageBursts_frame.andThen (by decide) ?_ | with_reducible refine returnBurst_frame.andThen (by decide) ?_ | with_reducible apply Frame.foldl | intro _

theorem recallBurst_frame {t : Nat} {s : State} : Frame [.intc, .cistern, .res, .queues, .robins, .marks, .gate, .msgs, .regs] s (recallBurst t s) := by
  dsimp only [recallBurst]
  repeat' first | with_reducible exact Frame.refl | with_reducible assumption | with_reducible refine withdrawBursts_frame.andThen (by decide) ?_ | intro _ | (split <;> try dsimp only)

theorem ioHead_frame {t : Nat} {s u : State} {o : IoOut} (e : ioHead t s = some (o, u)) : Frame [.robins, .drovers] s u := by
  unfold ioHead at e
  dsimp only at e
  split at e
  · exact absurd e (by simp)
  · injection e with e; injection e with _ e; subst e; exact setDrover_frame.weaken (by decide)

theorem beginWord_frame {s : State} {t : Nat} : Frame [.paces, .drovers] s (beginWord s t) := by
  dsimp only [beginWord]
  repeat' first | with_reducible exact Frame.refl | with_reducible assumption | with_reducible refine setPace_frame.andThen (by decide) ?_ | with_reducible refine setDrover_frame.andThen (by decide) ?_ | intro _ | (split <;> try dsimp only)

theorem aluEff_frame {op : AluOp} {t : Nat} {s : State} : Frame [.paces, .drovers] s (aluEff op t s) := by
  dsimp only [aluEff]
  repeat' first | with_reducible exact Frame.refl | with_reducible assumption | with_reducible refine beginWord_frame.andThen (by decide) ?_ | with_reducible refine setDrover_frame.andThen (by decide) ?_ | intro _ | (split <;> try dsimp only)

theorem droverRestartEff_frame {t : Nat} {v : Word} {s : State} : Frame [.drovers] s (droverRestartEff t v s) := by
  dsimp only [droverRestartEff]
  repeat' first | with_reducible exact Frame.refl | with_reducible assumption | with_reducible refine setDrover_frame.andThen (by decide) ?_ | intro _ | (split <;> try dsimp only)

theorem cancelReservations_frame {t : Nat} {s : State} : Frame [.robins, .marks, .drovers, .msgs] s (cancelReservations t s) := by
  dsimp only [cancelReservations]
  repeat' first | with_reducible exact Frame.refl | with_reducible assumption | with_reducible refine returnMsgs_frame.andThen (by decide) ?_ | with_reducible refine restoreRobins_frame.andThen (by decide) ?_ | with_reducible refine setDrover_frame.andThen (by decide) ?_

theorem ledgerAdd_frame {s : State} {t : Nat} {k : Nat} {n : Nat} : Frame [.drovers, .regs] s (ledgerAdd s t k n) := by
  dsimp only [ledgerAdd]
  repeat' first | with_reducible exact Frame.refl | with_reducible assumption | with_reducible refine setDrover_frame.andThen (by decide) ?_ | with_reducible refine wrapped_frame.andThen (by decide) ?_ | with_reducible refine event_frame.andThen (by decide) ?_ | intro _ | (split <;> try dsimp only)

theorem chargeOpen_frame {s : State} {t : Nat} {k : Nat} : Frame [.drovers, .regs] s (chargeOpen s t k) := by
  dsimp only [chargeOpen]
  repeat' first | with_reducible exact Frame.refl | with_reducible assumption | with_reducible refine ledgerAdd_frame.andThen (by decide) ?_ | with_reducible refine setDrover_frame.andThen (by decide) ?_

theorem addSample_frame {t : Nat} {aid : Nat} {carried : Bool} {s : State} {g : Tag} : Frame [.perf, .regs] s (addSample t aid carried s g) := by
  dsimp only [addSample]
  repeat' first | with_reducible exact Frame.refl | with_reducible assumption | with_reducible refine event_frame.andThen (by decide) ?_ | with_reducible refine bump_frame.andThen (by decide) ?_ | intro _ | (split <;> try dsimp only) | with_reducible refine .with_perf (by decide) ?_

theorem flushTags_frame {s : State} {t : Nat} {carried : Bool} : Frame [.perf, .drovers, .regs] s (flushTags s t carried) := by
  dsimp only [flushTags]
  repeat' first | with_reducible exact Frame.refl | with_reducible assumption | with_reducible refine addSample_frame.andThen (by decide) ?_ | with_reducible refine setDrover_frame.andThen (by decide) ?_ | with_reducible apply Frame.foldl | intro _

theorem closeAccount_frame {s : State} {t : Nat} {carried : Bool} : Frame [.perf, .drovers, .regs] s (closeAccount s t carried) := by
  dsimp only [closeAccount]
  repeat' first | with_reducible exact Frame.refl | with_reducible assumption | with_reducible refine chargeOpen_frame.andThen (by decide) ?_ | with_reducible refine flushTags_frame.andThen (by decide) ?_

theorem enterReloading_frame {t : Nat} {s : State} : Frame [.drovers, .gate] s (enterReloading t s) := by
  dsimp only [enterReloading]
  repeat' first | with_reducible exact Frame.refl | with_reducible assumption | with_reducible refine setDrover_frame.andThen (by decide) ?_ | with_reducible refine gateBurst_frame.andThen (by decide) ?_ | with_reducible apply Frame.foldl | intro _

theorem toIdle_frame {t : Nat} {s : State} : Frame [.drovers, .gate] s (toIdle t s) := by
  dsimp only [toIdle]
  repeat' first | with_reducible exact Frame.refl | with_reducible assumption | with_reducible refine setDrover_frame.andThen (by decide) ?_ | with_reducible refine enterReloading_frame.andThen (by decide) ?_ | intro _ | (split <;> try dsimp only)

theorem takeAbort_frame {t : Nat} {s : State} : Frame [.perf, .robins, .marks, .drovers, .gate, .msgs, .regs] s (takeAbort t s) := by
  dsimp only [takeAbort]
  repeat' first | with_reducible exact Frame.refl | with_reducible assumption | with_reducible refine cancelReservations_frame.andThen (by decide) ?_ | with_reducible refine tractEvent_frame.andThen (by decide) ?_ | with_reducible refine closeAccount_frame.andThen (by decide) ?_ | with_reducible refine chargeOpen_frame.andThen (by decide) ?_ | with_reducible refine gateBurst_frame.andThen (by decide) ?_ | with_reducible refine toIdle_frame.andThen (by decide) ?_ | intro _ | (split <;> try dsimp only)

theorem sendAbort_frame {a : Abort} {t : Nat} {s : State} : Frame [.perf, .robins, .marks, .drovers, .gate, .msgs, .regs] s (sendAbort a t s) := by
  dsimp only [sendAbort]
  repeat' first | with_reducible exact Frame.refl | with_reducible assumption | with_reducible refine setDrover_frame.andThen (by decide) ?_ | with_reducible refine takeAbort_frame.andThen (by decide) ?_ | intro _ | (split <;> try dsimp only)

theorem abortDrovers_frame {a : Abort} {s : State} : Frame [.perf, .robins, .marks, .drovers, .gate, .msgs, .regs] s (abortDrovers a s) := by
  dsimp only [abortDrovers]
  repeat' first | with_reducible exact Frame.refl | with_reducible assumption | with_reducible refine sendAbort_frame.andThen (by decide) ?_ | with_reducible refine setDrover_frame.andThen (by decide) ?_ | with_reducible apply Frame.foldl | intro _

theorem ioMsg_frame {t : Nat} {s u : State} {o : IoOut} (e : ioMsg t s = some (o, u)) : Frame [.drovers, .msgs] s u := by
  unfold ioMsg at e
  injection e with e; injection e with _ e; subst e; exact setDrover_frame.andThen (by decide) (.with_msgs (by decide) .refl)

theorem removeTaken_frame {s : State} {k : Taken} : Frame [.cistern, .queues] s (removeTaken s k).2 := by
  dsimp only [removeTaken]
  repeat' first | with_reducible exact Frame.refl | with_reducible assumption | with_reducible refine holdAll_frame.andThen (by decide) ?_ | with_reducible refine setQueue_frame.andThen (by decide) ?_ | with_reducible refine evalPressure_frame.andThen (by decide) ?_ | intro _ | (split <;> try dsimp only)

theorem removeAll_frame {l : List Taken} {s : State} : Frame [.cistern, .queues] s (removeAll l s).2 := by
  induction l generalizing s with
  | nil => exact .refl
  | cons k l ih => exact Frame.trans (removeTaken_frame.weaken (by decide)) ih

theorem takeFrames_frame {d : Drover} {aid n : Nat} {s : State} {segs : List Taken} {room count : Nat} {moved : List (Nat × Nat)} :
    Frame [.robins] s (takeFrames d aid n s segs room count moved).2 := by
  induction n generalizing s segs room count moved with
  | zero =>
    unfold takeFrames
    dsimp only
    split
    · exact .refl
    · split <;> exact .refl
  | succ n ih =>
    unfold takeFrames
    dsimp only
    split
    · exact .refl
    · split
      · exact .refl
      · split
        · exact .refl
        · refine Frame.trans ?_ ih
          split
          · exact setRobin_frame.weaken (by decide)
          · exact .refl

theorem ioAbandon_frame {t : Nat} {s u : State} {o : IoOut} (e : ioAbandon t s = some (o, u)) : Frame [.robins, .marks, .drovers, .msgs] s u := by
  unfold ioAbandon at e
  injection e with e; injection e with _ e; subst e; exact cancelReservations_frame.weaken (by decide)

theorem tcWrite_frame {s : State} {q : Nat} {f : QFrame} {egress : DWord} {add : Word} : Frame [.cistern, .res] s (tcWrite s q f egress add).2 := by
  dsimp only [tcWrite]
  repeat' first | with_reducible exact Frame.refl | with_reducible assumption | with_reducible refine patchParts_frame.andThen (by decide) ?_ | with_reducible apply Frame.foldl | intro _ | (split <;> try dsimp only)

theorem tcBurst_frame {launch : DWord} {k : Nat} {l : List Taken} {pos : Nat} {s : State} : Frame [.cistern, .res] s (tcBurst launch k l pos s).2 := by
  induction l generalizing pos s with
  | nil => exact .refl
  | cons x l ih =>
    simp only [tcBurst]
    split
    · refine Frame.trans ?_ ih
      split
      · exact tcWrite_frame.weaken (by decide)
      · exact .refl
    · exact ih

theorem ioNop_frame {t : Nat} {s u : State} {o : IoOut} (e : ioNop t s = some (o, u)) : Frame [] s u := by
  unfold ioNop at e
  injection e with e; injection e with _ e; exact e ▸ .refl

theorem droverLate_frame {t : Nat} {inst : Nat} {e : Entry} {s : State} : Frame [.intc, .paces, .regs] s (droverLate t inst e s) := by
  dsimp only [droverLate]
  repeat' first | with_reducible exact Frame.refl | with_reducible assumption | with_reducible refine fault_frame.andThen (by decide) ?_ | with_reducible refine setPace_frame.andThen (by decide) ?_

theorem handoffEff_frame {t : Nat} {s : State} : Frame [.intc, .perf, .paces, .robins, .marks, .drovers, .gate, .msgs, .regs] s (handoffEff t s) := by
  dsimp only [handoffEff]
  repeat' first | with_reducible exact Frame.refl | with_reducible assumption | with_reducible refine sendAbort_frame.andThen (by decide) ?_ | with_reducible refine droverLate_frame.andThen (by decide) ?_ | with_reducible refine gateBurst_frame.andThen (by decide) ?_ | with_reducible refine setDrover_frame.andThen (by decide) ?_ | intro _ | (split <;> try dsimp only)

theorem ioTakeRun_frame {t : Nat} {s u : State} {o : IoOut} (e : ioTakeRun t s = some (o, u)) : Frame [.robins, .drovers] s u := by
  unfold ioTakeRun at e
  dsimp only at e
  split at e
  · injection e with e; injection e with _ e; subst e
    exact setDrover_frame.andThen (by decide) (takeFrames_frame.weaken (by decide))
  · exact absurd e (by simp)

theorem stopDrover_frame {t : Nat} {code : Nat} {s : State} : Frame [.intc, .perf, .robins, .marks, .drovers, .gate, .msgs, .regs] s (stopDrover t code s) := by
  dsimp only [stopDrover]
  repeat' first | with_reducible exact Frame.refl | with_reducible assumption | with_reducible refine closeAccount_frame.andThen (by decide) ?_ | with_reducible refine cancelReservations_frame.andThen (by decide) ?_ | with_reducible refine setDrover_frame.andThen (by decide) ?_ | with_reducible refine fault_frame.andThen (by decide) ?_ | with_reducible refine gateBurst_frame.andThen (by decide) ?_ | with_reducible refine enterReloading_frame.andThen (by decide) ?_ | with_reducible apply Frame.foldl | intro _ | (split <;> try dsimp only)

theorem fetchWord_frame {t : Nat} {ecc : Bool} {s : State} : Frame [.intc, .perf, .robins, .marks, .drovers, .gate, .msgs, .regs] s (fetchWord t ecc s) := by
  dsimp only [fetchWord]
  repeat' first | with_reducible exact Frame.refl | with_reducible assumption | with_reducible refine stopDrover_frame.andThen (by decide) ?_ | intro _ | (split <;> try dsimp only)

theorem entryVectorEff_frame {t : Nat} {ecc : Bool} {s : State} : Frame [.intc, .perf, .serial, .robins, .marks, .drovers, .gate, .msgs, .regs] s (entryVectorEff t ecc s) := by
  dsimp only [entryVectorEff]
  repeat' first | with_reducible exact Frame.refl | with_reducible assumption | with_reducible refine setDrover_frame.andThen (by decide) ?_ | with_reducible refine fetchWord_frame.andThen (by decide) ?_ | intro _ | (split <;> try dsimp only) | with_reducible refine .with_serial (by decide) ?_

theorem refuseCommit_frame {t : Nat} {e : Entry} {s : State} : Frame [.perf, .robins, .marks, .drovers, .gate, .msgs, .regs] s (refuseCommit t e s) := by
  dsimp only [refuseCommit]
  repeat' first | with_reducible exact Frame.refl | with_reducible assumption | with_reducible refine closeAccount_frame.andThen (by decide) ?_ | with_reducible refine cancelReservations_frame.andThen (by decide) ?_ | with_reducible refine gateBurst_frame.andThen (by decide) ?_ | with_reducible refine setDrover_frame.andThen (by decide) ?_ | intro _ | (split <;> try dsimp only)

theorem acceptCommit_frame {t : Nat} {e : Entry} {u : Upset} {s : State} : Frame [.intc, .perf, .cistern, .res, .queues, .drovers, .gate, .regs] s (acceptCommit t e u s) := by
  dsimp only [acceptCommit]
  repeat' first | with_reducible exact Frame.refl | with_reducible assumption | with_reducible refine tcBurst_frame.andThen (by decide) ?_ | with_reducible refine removeAll_frame.andThen (by decide) ?_ | with_reducible refine addBurst_frame.andThen (by decide) ?_ | with_reducible refine tractEvent_frame.andThen (by decide) ?_ | with_reducible refine stageBursts_frame.andThen (by decide) ?_ | with_reducible refine upset_frame.andThen (by decide) ?_ | with_reducible refine slackAdd_frame.andThen (by decide) ?_ | with_reducible refine closeAccount_frame.andThen (by decide) ?_ | with_reducible refine setDrover_frame.andThen (by decide) ?_

theorem ioCommit_frame {x : Upset} {t : Nat} {s u : State} {o : IoOut} (e : ioCommit x t s = some (o, u)) : Frame [.intc, .perf, .turns, .cistern, .res, .queues, .robins, .marks, .drovers, .gate, .msgs, .regs] s u := by
  unfold ioCommit at e
  split at e
  · split at e
    · injection e with e; injection e with _ e; subst e; exact refuseCommit_frame.weaken (by decide)
    · split at e
      · exact absurd e (by simp)
      · injection e with e; injection e with _ e; subst e
        exact (takeBanks_frame.weaken (by decide)).trans (acceptCommit_frame.weaken (by decide))
  · injection e with e; injection e with _ e; exact e ▸ .refl

theorem ioEff_frame {op : Nat} {f : Nat → State → Option (IoOut × State)} {t : Nat} {l : List Field} {s : State}
    (hf : ∀ s u o, f t s = some (o, u) → Frame l s u) (hl : Field.sub [.paces, .drovers] l = true) : Frame l s (ioEff op f t s) := by
  unfold ioEff
  dsimp only
  have hd : Field.sub [.drovers] l = true := Field.sub_trans (b := [.paces, .drovers]) (by decide) hl
  have hb : Frame l s (beginWord s t) := Frame.weaken (Field.sub_trans (a := [.paces, .drovers]) (b := [.paces, .drovers]) (by decide) hl) beginWord_frame
  split
  · split
    · rename_i e
      exact setDrover_frame.andThen hd (hb.trans (hf _ _ _ e))
    · exact hb
  · exact .refl

theorem seqEff_frame {seq : Nat} {t : Nat} {ecc : Bool} {s : State} : Frame [.free, .intc, .perf, .cistern, .res, .queues, .robins, .marks, .drovers, .gate, .msgs, .regs] s (seqEff seq t ecc s) := by
  dsimp only [seqEff]
  repeat' first | with_reducible exact Frame.refl | with_reducible assumption | with_reducible refine draw1_frame.andThen (by decide) ?_ | with_reducible refine stopDrover_frame.andThen (by decide) ?_ | with_reducible refine setDrover_frame.andThen (by decide) ?_ | with_reducible refine toIdle_frame.andThen (by decide) ?_ | with_reducible refine recallBurst_frame.andThen (by decide) ?_ | with_reducible refine chargeOpen_frame.andThen (by decide) ?_ | with_reducible refine closeAccount_frame.andThen (by decide) ?_ | with_reducible refine cancelReservations_frame.andThen (by decide) ?_ | with_reducible refine gateBurst_frame.andThen (by decide) ?_ | with_reducible refine takeAbort_frame.andThen (by decide) ?_ | with_reducible refine fetchWord_frame.andThen (by decide) ?_ | intro _ | (split <;> try dsimp only)

theorem ioTakePart_frame {t : Nat} {s u : State} {o : IoOut} (e : ioTakePart t s = some (o, u)) : Frame [.drovers] s u := by
  unfold ioTakePart at e
  dsimp only at e
  split at e
  · split at e
    · injection e with e; injection e with _ e; subst e; exact setDrover_frame.weaken (by decide)
    · injection e with e; injection e with _ e; exact e ▸ .refl
  · injection e with e; injection e with _ e; exact e ▸ .refl

theorem sendIdle_frame {s : State} : Frame [.wire] s (sendIdle s) := by
  dsimp only [sendIdle]
  repeat' first | with_reducible exact Frame.refl | with_reducible assumption | with_reducible refine emit_frame.andThen (by decide) ?_

theorem nextPn_frame {s : State} {slot : Nat} : Frame [.keys] s (nextPn s slot) := by
  dsimp only [nextPn]
  repeat' first | with_reducible exact Frame.refl | with_reducible assumption | intro _ | (split <;> try dsimp only) | with_reducible refine .with_keys (by decide) ?_

theorem sendSeg_frame {tid : Nat} {aid : Nat} {ovr : Nat} {slot : Nat} {g : Seg} {text : Bytes} {bad : Bool} {s : State} : Frame [.keys] s (sendSeg tid aid ovr slot g text bad s).1 := by
  dsimp only [sendSeg]
  repeat' first | with_reducible exact Frame.refl | with_reducible assumption | with_reducible refine nextPn_frame.andThen (by decide) ?_ | intro _ | (split <;> try dsimp only)

theorem sendSegs_frame {tid aid ovr slot : Nat} {l : List Seg} {text : Bytes} {room : Nat} {s : State} :
    Frame [.keys] s (sendSegs tid aid ovr slot l text room s).1 := by
  induction l generalizing text room s with
  | nil => exact .refl
  | cons g l ih =>
    simp only [sendSegs]
    split
    · exact .refl
    · split
      · exact sendSeg_frame.weaken (by decide)
      · exact Frame.trans (sendSeg_frame.weaken (by decide)) ih

theorem contentOf_frame {m : Manifest} {b : Burst} {dry : Option Nat} {s : State} : Frame [.keys, .intc, .regs] s (contentOf m b dry s).1 := by
  unfold contentOf
  dsimp only
  generalize (match dry with | some n => _ | none => m.segs) = room
  split
  · exact fault_frame.andThen (by decide) (bump_frame.andThen (by decide) (sendSegs_frame.weaken (by decide)))
  · exact sendSegs_frame.weaken (by decide)

theorem gaspCtlEff_frame {v : Word} {s : State} : Frame [.regs] s (gaspCtlEff v s) := by
  dsimp only [gaspCtlEff]
  repeat' first | with_reducible exact Frame.refl | with_reducible assumption | with_reducible refine wrField_frame.andThen (by decide) ?_ | with_reducible refine wr_frame.andThen (by decide) ?_ | intro _ | (split <;> try dsimp only)

theorem preambleEff_frame {n : Nat} {v : Word} {s : State} : Frame [.gate, .regs] s (preambleEff n v s) := by
  dsimp only [preambleEff]
  repeat' first | with_reducible exact Frame.refl | with_reducible assumption | with_reducible refine wr_frame.andThen (by decide) ?_ | intro _ | (split <;> try dsimp only) | with_reducible refine .with_gate (by decide) ?_

theorem tcLaunch_frame {s : State} {x : TcSave} : Frame [.cistern, .res, .gate, .regs] s (tcLaunch s x) := by
  dsimp only [tcLaunch]
  repeat' first | with_reducible exact Frame.refl | with_reducible assumption | with_reducible refine event_frame.andThen (by decide) ?_ | with_reducible refine bump_frame.andThen (by decide) ?_ | with_reducible refine tcRestore_frame.andThen (by decide) ?_ | intro _ | (split <;> try dsimp only)

theorem gaspSent_frame {launch : DWord} {s : State} : Frame [.regs] s (gaspSent launch s) := by
  dsimp only [gaspSent]
  repeat' first | with_reducible exact Frame.refl | with_reducible assumption | with_reducible refine bump_frame.andThen (by decide) ?_ | with_reducible refine wr64_frame.andThen (by decide) ?_ | with_reducible refine wr_frame.andThen (by decide) ?_

theorem countRises_frame {s : State} : Frame [.gate, .regs] s (countRises s) := by
  dsimp only [countRises]
  repeat' first | with_reducible exact Frame.refl | with_reducible assumption | with_reducible refine bumpBy_frame.andThen (by decide) ?_ | intro _ | with_reducible refine .with_gate (by decide) ?_

theorem sendBurst_frame {b : Burst} {content : Bytes} {s : State} : Frame [.wire, .gate, .regs] s (sendBurst b content s) := by
  dsimp only [sendBurst]
  repeat' first | with_reducible exact Frame.refl | with_reducible assumption | with_reducible refine sendIdle_frame.andThen (by decide) ?_ | with_reducible refine emit_frame.andThen (by decide) ?_ | with_reducible refine countRises_frame.andThen (by decide) ?_ | intro _ | with_reducible refine .with_gate (by decide) ?_

theorem countLaunch_frame {b : Burst} {s : State} : Frame [.mode, .line, .perf, .regs] s (countLaunch b s) := by
  dsimp only [countLaunch]
  repeat' first | with_reducible exact Frame.refl | with_reducible assumption | with_reducible refine bump_frame.andThen (by decide) ?_ | with_reducible refine setSub_frame.andThen (by decide) ?_ | with_reducible refine tractEvent_frame.andThen (by decide) ?_ | intro _ | (split <;> try dsimp only) | with_reducible refine .with_line (by decide) ?_

theorem dropBurst_frame {b : Burst} {s : State} : Frame [.gate] s (dropBurst b s) := by
  dsimp only [dropBurst]
  repeat' first | with_reducible exact Frame.refl | with_reducible assumption | intro _ | with_reducible refine .with_gate (by decide) ?_

theorem launchBurst_frame {b : Burst} {dry : Option Nat} {u : Upset} {s : State} : Frame [.wire, .mode, .line, .keys, .intc, .perf, .cistern, .res, .table, .gate, .regs] s (launchBurst b dry u s) := by
  dsimp only [launchBurst]
  repeat' first | with_reducible exact Frame.refl | with_reducible assumption | with_reducible refine gaspSent_frame.andThen (by decide) ?_ | with_reducible refine tcLaunch_frame.andThen (by decide) ?_ | with_reducible refine upset_frame.andThen (by decide) ?_ | with_reducible refine gatherInto_frame.andThen (by decide) ?_ | with_reducible refine contentOf_frame.andThen (by decide) ?_ | with_reducible refine sendBurst_frame.andThen (by decide) ?_ | with_reducible refine countLaunch_frame.andThen (by decide) ?_ | with_reducible refine dropBurst_frame.andThen (by decide) ?_ | with_reducible refine updateEntry_frame.andThen (by decide) ?_ | with_reducible refine freeChunks_frame.andThen (by decide) ?_ | with_reducible refine stageBursts_frame.andThen (by decide) ?_ | with_reducible refine Frame.snd (by assumption) ?_ | with_reducible refine Frame.fst (by assumption) ?_ | with_reducible apply Frame.foldl | intro _ | (split <;> try dsimp only)

theorem cancelBurst_frame {b : Burst} {s : State} : Frame [.intc, .cistern, .res, .queues, .robins, .marks, .table, .gate, .msgs, .regs] s (cancelBurst b s) := by
  dsimp only [cancelBurst]
  repeat' first | with_reducible exact Frame.refl | with_reducible assumption | with_reducible refine stageBursts_frame.andThen (by decide) ?_ | with_reducible refine returnBurst_frame.andThen (by decide) ?_ | with_reducible refine countOut_frame.andThen (by decide) ?_ | intro _ | (split <;> try dsimp only)

theorem registerWaitEff_frame {s : State} : Frame [.line] s (registerWaitEff s) := by
  dsimp only [registerWaitEff]
  repeat' first | with_reducible exact Frame.refl | with_reducible assumption | intro _ | (split <;> try dsimp only) | with_reducible refine .with_line (by decide) ?_

theorem preambleTransferEff_frame {s : State} : Frame [.wire, .gate] s (preambleTransferEff s) := by
  dsimp only [preambleTransferEff]
  repeat' first | with_reducible exact Frame.refl | with_reducible assumption | with_reducible refine emit_frame.andThen (by decide) ?_ | intro _ | (split <;> try dsimp only) | with_reducible refine .with_gate (by decide) ?_

theorem launchCommitEff_frame {dry : Option Nat} {u : Upset} {s : State} : Frame [.wire, .mode, .line, .keys, .intc, .perf, .cistern, .res, .queues, .robins, .marks, .table, .gate, .msgs, .regs] s (launchCommitEff dry u s) := by
  dsimp only [launchCommitEff]
  repeat' first | with_reducible exact Frame.refl | with_reducible assumption | with_reducible refine cancelBurst_frame.andThen (by decide) ?_ | with_reducible refine launchBurst_frame.andThen (by decide) ?_ | intro _ | (split <;> try dsimp only)

theorem breakQueue_frame {q : Nat} {k : Nat} {s : State} : Frame [.intc, .queues, .regs] s (breakQueue q k s) := by
  dsimp only [breakQueue]
  repeat' first | with_reducible exact Frame.refl | with_reducible assumption | with_reducible refine setQueue_frame.andThen (by decide) ?_ | with_reducible refine fault_frame.andThen (by decide) ?_ | with_reducible refine event_frame.andThen (by decide) ?_

theorem pieceAccess_frame {q : Nat} {k : Nat} {write : Bool} {l : List (Nat × Nat × Nat)} {s : State} : Frame [.regs] s (pieceAccess q k write l s) := by
  dsimp only [pieceAccess]
  repeat' first | with_reducible exact Frame.refl | with_reducible assumption | with_reducible refine access_frame.andThen (by decide) ?_ | with_reducible apply Frame.foldl | intro _

theorem poisonBeat_frame {k : Nat} {s : State} {b : Nat} : Frame [.intc, .regs] s (poisonBeat k s b) := by
  dsimp only [poisonBeat]
  repeat' first | with_reducible exact Frame.refl | with_reducible assumption | with_reducible refine fault_frame.andThen (by decide) ?_

theorem fillRuns_frame {l : List (Nat × Nat)} {b : Bytes} {s : State} : Frame [.cistern] s (fillRuns l b s) := by
  induction l generalizing s b with
  | nil => exact .refl
  | cons r l ih => exact Frame.trans (cisWrite_frame.weaken (by decide)) ih

theorem landAccess_frame {q : Nat} {uid : Nat} {l : List (Nat × Nat)} {s : State} : Frame [.regs] s (landAccess q uid l s) := by
  dsimp only [landAccess]
  repeat' first | with_reducible exact Frame.refl | with_reducible assumption | with_reducible refine access_frame.andThen (by decide) ?_ | with_reducible apply Frame.foldl | intro _

theorem landAccess_foldl_frame {q : Nat} {g : Nat × Nat × Nat → List (Nat × Nat)} {l : List (Nat × Nat × Nat)} {m : List Field} {s0 s : State}
    (hm : Field.sub [.regs] m = true) (h : Frame m s0 s) : Frame m s0 (l.foldl (fun s e => landAccess q e.1 (g e) s) s) := by
  induction l generalizing s with
  | nil => exact h
  | cons e l ih => exact ih (landAccess_frame.andThen hm h)

theorem landPage_frame {q k : Nat} {gs : List Nat} {s : State} : Frame [.cistern, .queues, .regs] s (landPage q k gs s) := by
  unfold landPage
  dsimp only
  refine letGoAll_frame.andThen (by decide) (setQueue_frame.andThen (by decide) (landAccess_foldl_frame (by decide) (fillRuns_frame.andThen (by decide)
    (holdAll_frame.andThen (by decide) (holdAll_frame.andThen (by decide) ?_)))))
  exact .with_cistern (by decide) (foldl_mem (fun _ _ => by unfold takeGranule; split <;> rfl) ..) .refl

theorem discardFrame_frame {q : Nat} {s : State} {uid : Nat} : Frame [.cistern, .queues] s (discardFrame q s uid) := by
  dsimp only [discardFrame]
  repeat' first | with_reducible exact Frame.refl | with_reducible assumption | with_reducible refine freeChunks_frame.andThen (by decide) ?_ | with_reducible refine setQueue_frame.andThen (by decide) ?_ | intro _ | (split <;> try dsimp only)

theorem setChan_frame {s : State} {ch : Nat} {c : Channel} : Frame [.res] s (setChan s ch c) := by
  dsimp only [setChan]
  repeat' first | with_reducible exact Frame.refl | with_reducible assumption | intro _ | with_reducible refine .with_res (by decide) ?_

theorem freePage_frame {k : Nat} {s : State} : Frame [.res] s (freePage k s) := by
  dsimp only [freePage]
  repeat' first | with_reducible exact Frame.refl | with_reducible assumption | with_reducible refine setChan_frame.andThen (by decide) ?_ | intro _ | with_reducible refine .with_res (by decide) ?_

theorem landDraw_frame {q : Nat} {k : Nat} {badBeats : List Nat} {corr : Nat} {gs : List Nat} {s : State} : Frame [.intc, .perf, .cistern, .res, .queues, .regs] s (landDraw q k badBeats corr gs s) := by
  dsimp only [landDraw]
  repeat' first | with_reducible exact Frame.refl | with_reducible assumption | with_reducible refine pieceAccess_frame.andThen (by decide) ?_ | with_reducible refine bumpBy_frame.andThen (by decide) ?_ | with_reducible refine poisonBeat_frame.andThen (by decide) ?_ | with_reducible refine landPage_frame.andThen (by decide) ?_ | with_reducible refine discardFrame_frame.andThen (by decide) ?_ | with_reducible refine setQueue_frame.andThen (by decide) ?_ | with_reducible refine freePage_frame.andThen (by decide) ?_ | with_reducible refine evalPressure_frame.andThen (by decide) ?_ | with_reducible refine tractEvent_frame.andThen (by decide) ?_ | with_reducible apply Frame.foldl | intro _ | (split <;> try dsimp only) | with_reducible refine .with_res (by decide) ?_

theorem drawArrivedEff_frame {q : Nat} {badBeats : List Nat} {corr : Nat} {granules : List Nat} {s : State} : Frame [.intc, .perf, .cistern, .res, .queues, .regs] s (drawArrivedEff q badBeats corr granules s) := by
  dsimp only [drawArrivedEff]
  repeat' first | with_reducible exact Frame.refl | with_reducible assumption | with_reducible refine landDraw_frame.andThen (by decide) ?_ | intro _ | (split <;> try dsimp only)

theorem cancelWriting_frame {ch : Nat} {s : State} : Frame [.res, .queues] s (cancelWriting ch s) := by
  dsimp only [cancelWriting]
  repeat' first | with_reducible exact Frame.refl | with_reducible assumption | with_reducible refine setChan_frame.andThen (by decide) ?_ | with_reducible refine setQueue_frame.andThen (by decide) ?_ | intro _ | (split <;> try dsimp only)

theorem recoverQueue_frame {q : Nat} {s : State} : Frame [.cistern, .res, .queues, .regs] s (recoverQueue q s) := by
  dsimp only [recoverQueue]
  repeat' first | with_reducible exact Frame.refl | with_reducible assumption | with_reducible refine cancelWriting_frame.andThen (by decide) ?_ | with_reducible refine bumpBy_frame.andThen (by decide) ?_ | with_reducible refine discardFrame_frame.andThen (by decide) ?_ | with_reducible refine wr_frame.andThen (by decide) ?_ | with_reducible refine evalPressure_frame.andThen (by decide) ?_ | with_reducible refine setQueue_frame.andThen (by decide) ?_ | with_reducible apply Frame.foldl | intro _ | (split <;> try dsimp only) | with_reducible refine .with_res (by decide) ?_

theorem qRecoverEff_frame {v : Word} {s : State} : Frame [.cistern, .res, .queues, .regs] s (qRecoverEff v s) := by
  dsimp only [qRecoverEff]
  repeat' first | with_reducible exact Frame.refl | with_reducible assumption | with_reducible refine recoverQueue_frame.andThen (by decide) ?_ | intro _ | (split <;> try dsimp only)

theorem notePeak_frame {s : State} : Frame [.regs] s (notePeak s) := by
  dsimp only [notePeak]
  repeat' first | with_reducible exact Frame.refl | with_reducible assumption | with_reducible refine wr_frame.andThen (by decide) ?_ | intro _ | (split <;> try dsimp only)

theorem checkLow_frame {old : State} {s : State} : Frame [.regs] s (checkLow old s) := by
  dsimp only [checkLow]
  repeat' first | with_reducible exact Frame.refl | with_reducible assumption | with_reducible refine event_frame.andThen (by decide) ?_ | intro _ | (split <;> try dsimp only)

theorem spillPage_frame {q ch page : Nat} {s : State} : Frame [.free, .intc, .res, .queues, .regs] s (spillPage q ch page s) := by
  have key : ∀ (ps : List Piece) (x : State × Bytes × List Nat), Frame [.free, .intc, .res, .queues, .regs] s x.1 → Frame [.free, .intc, .res, .queues, .regs] s (ps.foldl (readPiece q) x).1 := by
    intro ps
    induction ps with
    | nil => exact fun x h => h
    | cons p ps ih =>
      intro x h
      apply ih
      obtain ⟨s, b, bad⟩ := x
      unfold readPiece
      dsimp only
      split
      · exact draw1_frame.andThen (by decide) h
      · exact readRuns_frame.andThen (by decide) h
  unfold spillPage
  generalize fillPage (spillInput s q) 0 = fp
  obtain ⟨ps, owed⟩ := fp
  dsimp only
  have h1 := key ps (s, [], []) .refl
  generalize ps.foldl (readPiece q) (s, [], []) = x at h1
  obtain ⟨s1, data, bad⟩ := x
  refine notePeak_frame.andThen (by decide) (checkLow_frame.andThen (by decide) ?_)
  exact .with_res (by decide) (setChan_frame.andThen (by decide) (setQueue_frame.andThen (by decide) h1))

theorem metaAccess_frame {ch : Nat} {k : Nat} {write : Bool} {s : State} : Frame [.regs] s (metaAccess ch k write s) := by
  dsimp only [metaAccess]
  repeat' first | with_reducible exact Frame.refl | with_reducible assumption | with_reducible refine access_frame.andThen (by decide) ?_

theorem metaWrite_frame {k : Nat} {m : Nat} {s : State} : Frame [.regs] s (metaWrite k m s) := by
  dsimp only [metaWrite]
  repeat' first | with_reducible exact Frame.refl | with_reducible assumption | with_reducible refine metaAccess_frame.andThen (by decide) ?_

theorem cutFrame_frame {q : Nat} {k : Nat} {s : State} {c : Nat × Nat × Nat} : Frame [.cistern, .queues] s (cutFrame q k s c) := by
  dsimp only [cutFrame]
  repeat' first | with_reducible exact Frame.refl | with_reducible assumption | with_reducible refine setQueue_frame.andThen (by decide) ?_ | with_reducible refine freeChunks_frame.andThen (by decide) ?_ | with_reducible refine holdAll_frame.andThen (by decide) ?_ | intro _ | (split <;> try dsimp only)

theorem acceptPage_frame {ch : Nat} {w : Writing} {s : State} : Frame [.perf, .cistern, .res, .queues, .regs] s (acceptPage ch w s) := by
  unfold acceptPage
  dsimp only
  refine tractEvent_frame.andThen (by decide) (.with_res (by decide) (setChan_frame.andThen (by decide) (setQueue_frame.andThen (by decide) ?_)))
  refine Frame.foldl (fun _ _ h => cutFrame_frame.andThen (by decide) h) ?_
  have own : Frame [.perf, .cistern, .res, .queues, .regs] s (metaWrite (pageKey ch w.page) w.body.info.mirror
      (pieceAccess w.q (pageKey ch w.page) true ((w.body.recs.map fun r => (r.2.2, r.1, r.2.1)) ++ w.cuts) s)) :=
    metaWrite_frame.andThen (by decide) (pieceAccess_frame.weaken (by decide))
  split
  · exact metaWrite_frame.andThen (by decide) own
  · exact own

theorem resRateTick_frame {s : State} : Frame [.res, .regs] s (resRateTick s) := by
  dsimp only [resRateTick]
  repeat' first | with_reducible exact Frame.refl | with_reducible assumption | with_reducible refine wr_frame.andThen (by decide) ?_ | intro _ | (split <;> try dsimp only) | with_reducible refine .with_res (by decide) ?_

theorem haltChan_frame {ch : Nat} {cause : Nat} {s : State} : Frame [.intc, .res, .queues, .regs] s (haltChan ch cause s) := by
  dsimp only [haltChan]
  repeat' first | with_reducible exact Frame.refl | with_reducible assumption | with_reducible refine fault_frame.andThen (by decide) ?_ | with_reducible refine wr_frame.andThen (by decide) ?_ | with_reducible refine breakQueue_frame.andThen (by decide) ?_ | with_reducible refine cancelWriting_frame.andThen (by decide) ?_ | with_reducible apply Frame.foldl | intro _

theorem spillAcceptedEff_frame {ch : Nat} {s : State} : Frame [.perf, .cistern, .res, .queues, .regs] s (spillAcceptedEff ch s) := by
  dsimp only [spillAcceptedEff]
  repeat' first | with_reducible exact Frame.refl | with_reducible assumption | with_reducible refine acceptPage_frame.andThen (by decide) ?_ | intro _ | (split <;> try dsimp only)

theorem spillEff_frame {q : Nat} {room : Bool} {page : Nat} {u : Upset} {s : State} : Frame [.free, .intc, .cistern, .res, .queues, .regs] s (spillEff q room page u s) := by
  dsimp only [spillEff]
  repeat' first | with_reducible exact Frame.refl | with_reducible assumption | with_reducible refine spillPage_frame.andThen (by decide) ?_ | with_reducible refine upset_frame.andThen (by decide) ?_ | intro _ | (split <;> try dsimp only)

theorem drawPage_frame {q : Nat} {k : Nat} {badPrimary : Bool} {badMirror : Bool} {s : State} : Frame [.intc, .queues, .regs] s (drawPage q k badPrimary badMirror s) := by
  dsimp only [drawPage]
  repeat' first | with_reducible exact Frame.refl | with_reducible assumption | with_reducible refine breakQueue_frame.andThen (by decide) ?_ | with_reducible refine metaAccess_frame.andThen (by decide) ?_ | with_reducible refine bump_frame.andThen (by decide) ?_ | with_reducible refine fault_frame.andThen (by decide) ?_ | with_reducible refine setQueue_frame.andThen (by decide) ?_ | intro _ | (split <;> try dsimp only)

theorem drawEff_frame {q : Nat} {badPrimary : Bool} {badMirror : Bool} {s : State} : Frame [.intc, .res, .queues, .robins, .regs] s (drawEff q badPrimary badMirror s) := by
  dsimp only [drawEff]
  repeat' first | with_reducible exact Frame.refl | with_reducible assumption | with_reducible refine drawPage_frame.andThen (by decide) ?_ | intro _ | (split <;> try dsimp only) | with_reducible refine .with_res (by decide) ?_

end Sys2Proof.Machine
end

