-- ==== Sys2Proof/Laws/FrameDownstream.lean ====
section
/-!
SUPPORT. Which fields of the state each function may change, for classification, the fronts, the cells and the client ports. No function leaves a canonical memory not canonical.
-/
namespace Sys2Proof.Machine

theorem setSlot_frame {s : State} {k : Nat} {x : RuleSlot} : Frame [.cls] s (setSlot s k x) := by
  dsimp only [setSlot]
  repeat' first | with_reducible exact Frame.refl | with_reducible assumption | intro _ | with_reducible refine .with_cls (by decide) ?_

theorem takeVersion_frame {s : State} : Frame [.cls] s (takeVersion s) := by
  dsimp only [takeVersion]
  repeat' first | with_reducible exact Frame.refl | with_reducible assumption | with_reducible refine setSlot_frame.andThen (by decide) ?_

theorem stageEff_frame {op : Nat} {idx : Nat} {s : State} : Frame [.cls, .regs] s (stageEff op idx s) := by
  dsimp only [stageEff]
  repeat' first | with_reducible exact Frame.refl | with_reducible assumption | with_reducible refine wr_frame.andThen (by decide) ?_ | intro _ | (split <;> try dsimp only) | with_reducible refine .with_cls (by decide) ?_

theorem setBucket_frame {s : State} {n : Nat} {level : Nat} : Frame [.cls] s (setBucket s n level) := by
  dsimp only [setBucket]
  repeat' first | with_reducible exact Frame.refl | with_reducible assumption | intro _ | with_reducible refine .with_cls (by decide) ?_

theorem actCount_frame {s : State} {k : Nat} : Frame [.regs] s (actCount s k) := by
  dsimp only [actCount]
  repeat' first | with_reducible exact Frame.refl | with_reducible assumption | with_reducible refine bump_frame.andThen (by decide) ?_ | intro _ | (split <;> try dsimp only)

theorem retireSlot_frame {k : Nat} {s : State} : Frame [.cls, .regs] s (retireSlot k s) := by
  dsimp only [retireSlot]
  repeat' first | with_reducible exact Frame.refl | with_reducible assumption | with_reducible refine setSlot_frame.andThen (by decide) ?_ | with_reducible refine event_frame.andThen (by decide) ?_ | with_reducible apply Frame.foldl | intro _ | with_reducible refine .with_cls (by decide) ?_

theorem releaseVersion_frame {k : Nat} {s : State} : Frame [.cls, .regs] s (releaseVersion k s) := by
  dsimp only [releaseVersion]
  repeat' first | with_reducible exact Frame.refl | with_reducible assumption | with_reducible refine setSlot_frame.andThen (by decide) ?_ | with_reducible refine retireSlot_frame.andThen (by decide) ?_ | intro _ | (split <;> try dsimp only)

theorem startWaiting_frame {s : State} : Frame [.cls, .regs] s (startWaiting s) := by
  dsimp only [startWaiting]
  repeat' first | with_reducible exact Frame.refl | with_reducible assumption | with_reducible refine event_frame.andThen (by decide) ?_ | intro _ | (split <;> try dsimp only) | with_reducible refine .with_cls (by decide) ?_

theorem classGoEff_frame {s : State} : Frame [.cls, .regs] s (classGoEff s) := by
  dsimp only [classGoEff]
  repeat' first | with_reducible exact Frame.refl | with_reducible assumption | with_reducible refine startWaiting_frame.andThen (by decide) ?_ | intro _ | (split <;> try dsimp only)

theorem withdraw_frame {s : State} : Frame [.cls] s (withdraw s) := by
  dsimp only [withdraw]
  repeat' first | with_reducible exact Frame.refl | with_reducible assumption | with_reducible refine setSlot_frame.andThen (by decide) ?_ | intro _ | (split <;> try dsimp only) | with_reducible refine .with_cls (by decide) ?_

theorem stageCmdEff_frame {v : Word} {s : State} : Frame [.cls, .regs] s (stageCmdEff v s) := by
  dsimp only [stageCmdEff]
  repeat' first | with_reducible exact Frame.refl | with_reducible assumption | with_reducible refine stageEff_frame.andThen (by decide) ?_

theorem classPrivEff_frame {n : Nat} {rate : Bool} {v : Word} {s : State} : Frame [.intc, .cls, .regs] s (classPrivEff n rate v s) := by
  dsimp only [classPrivEff]
  repeat' first | with_reducible exact Frame.refl | with_reducible assumption | with_reducible refine wr_frame.andThen (by decide) ?_ | with_reducible refine setBucket_frame.andThen (by decide) ?_ | with_reducible refine fault_frame.andThen (by decide) ?_ | with_reducible refine wrField_frame.andThen (by decide) ?_ | intro _ | (split <;> try dsimp only)

theorem commitInstantEff_frame {k : Nat} {s : State} : Frame [.cls, .regs] s (commitInstantEff k s) := by
  dsimp only [commitInstantEff]
  repeat' first | with_reducible exact Frame.refl | with_reducible assumption | with_reducible refine setSlot_frame.andThen (by decide) ?_ | with_reducible refine retireSlot_frame.andThen (by decide) ?_ | with_reducible refine event_frame.andThen (by decide) ?_ | with_reducible refine bump_frame.andThen (by decide) ?_ | intro _ | (split <;> try dsimp only) | with_reducible refine .with_cls (by decide) ?_

theorem applyingEff_frame {s : State} : Frame [.cls] s (applyingEff s) := by
  dsimp only [applyingEff]
  repeat' first | with_reducible exact Frame.refl | with_reducible assumption | with_reducible refine setSlot_frame.andThen (by decide) ?_ | intro _ | (split <;> try dsimp only) | with_reducible refine .with_cls (by decide) ?_

theorem entriesReturnedEff_frame {s : State} : Frame [.cls] s (entriesReturnedEff s) := by
  dsimp only [entriesReturnedEff]
  repeat' first | with_reducible exact Frame.refl | with_reducible assumption | intro _ | with_reducible refine .with_cls (by decide) ?_

theorem tsOutcome_frame {tok : Token} {ts : Nat} {s : State} : Frame [.rings] s (tsOutcome tok ts s) := by
  dsimp only [tsOutcome]
  repeat' first | with_reducible exact Frame.refl | with_reducible assumption | with_reducible refine setRing_frame.andThen (by decide) ?_ | intro _ | (split <;> try dsimp only)

theorem enterFront_frame {x : FrontStamp} {tok : Token} {data : Bytes} {err : Bool} {runt : Bool} {pool : Nat} {s : State} : Frame [.serial, .flights] s (enterFront x tok data err runt pool s) := by
  dsimp only [enterFront]
  repeat' first | with_reducible exact Frame.refl | with_reducible assumption | intro _ | with_reducible refine .with_serial_flights (by decide) ?_

theorem startFlight_frame {tok : Token} {data : Bytes} {err : Bool} {runt : Bool} {pool : Nat} {s : State} : Frame [.serial, .cls, .flights] s (startFlight tok data err runt pool s) := by
  dsimp only [startFlight]
  repeat' first | with_reducible exact Frame.refl | with_reducible assumption | with_reducible refine enterFront_frame.andThen (by decide) ?_ | with_reducible refine takeVersion_frame.andThen (by decide) ?_

theorem releaseStamp_frame {x : Option FrontStamp} {s : State} : Frame [.cls, .regs] s (releaseStamp x s) := by
  dsimp only [releaseStamp]
  repeat' first | with_reducible exact Frame.refl | with_reducible assumption | with_reducible refine releaseVersion_frame.andThen (by decide) ?_ | intro _ | (split <;> try dsimp only)

theorem setFlight_frame {s : State} {f : Flight} : Frame [.flights] s (setFlight s f) := by
  dsimp only [setFlight]
  repeat' first | with_reducible exact Frame.refl | with_reducible assumption | intro _ | with_reducible refine .with_flights (by decide) ?_

theorem endFlight_frame {f : Flight} {s : State} : Frame [.cls, .flights, .regs] s (endFlight f s) := by
  dsimp only [endFlight]
  repeat' first | with_reducible exact Frame.refl | with_reducible assumption | with_reducible refine releaseVersion_frame.andThen (by decide) ?_ | intro _ | with_reducible refine .with_flights (by decide) ?_

theorem returnSpace_frame {f : Flight} {s : State} : Frame [.cistern] s (returnSpace f s) := by
  dsimp only [returnSpace]
  repeat' first | with_reducible exact Frame.refl | with_reducible assumption | with_reducible refine returnCredit_frame.andThen (by decide) ?_ | with_reducible refine freeChunks_frame.andThen (by decide) ?_ | with_reducible refine toAreas_frame.andThen (by decide) ?_ | intro _ | (split <;> try dsimp only)

theorem releaseSpace_frame {f : Flight} {s : State} : Frame [.cistern] s (releaseSpace f s) := by
  dsimp only [releaseSpace]
  repeat' first | with_reducible exact Frame.refl | with_reducible assumption | with_reducible refine letGoPool_frame.andThen (by decide) ?_ | with_reducible refine toPools_frame.andThen (by decide) ?_ | with_reducible refine returnSpace_frame.andThen (by decide) ?_ | with_reducible apply Frame.foldl | intro _ | (split <;> try dsimp only)

theorem releaseFlight_frame {f : Flight} {s : State} : Frame [.cistern, .cls, .flights, .rings, .regs] s (releaseFlight f s) := by
  dsimp only [releaseFlight]
  repeat' first | with_reducible exact Frame.refl | with_reducible assumption | with_reducible refine endFlight_frame.andThen (by decide) ?_ | with_reducible refine tsOutcome_frame.andThen (by decide) ?_ | with_reducible refine releaseSpace_frame.andThen (by decide) ?_

theorem dropFlight_frame {f : Flight} {s : State} : Frame [.cistern, .cls, .flights, .rings, .regs] s (dropFlight f s) := by
  dsimp only [dropFlight]
  repeat' first | with_reducible exact Frame.refl | with_reducible assumption | with_reducible refine endFlight_frame.andThen (by decide) ?_ | with_reducible refine tsOutcome_frame.andThen (by decide) ?_ | with_reducible refine returnSpace_frame.andThen (by decide) ?_

theorem replicaUpset_frame {t : Nat} {c : Nat} {u : ReplicaUpset} {s : State} : Frame [.perf, .cls, .regs] s (replicaUpset t c u s) := by
  dsimp only [replicaUpset]
  repeat' first | with_reducible exact Frame.refl | with_reducible assumption | with_reducible refine cellEvent_frame.andThen (by decide) ?_ | with_reducible apply Frame.foldl | intro _ | with_reducible refine .with_cls (by decide) ?_

theorem classCount_frame {k : Nat} {s : State} : Frame [.regs] s (classCount k s) := by
  dsimp only [classCount]
  repeat' first | with_reducible exact Frame.refl | with_reducible assumption | with_reducible refine bump_frame.andThen (by decide) ?_

theorem exception_frame {f : Flight} {w : Walk} {flags : Nat} {k : Nat} {s : State} : Frame [.perf, .cls, .regs] s (exception f w flags k s).2 := by
  dsimp only [exception]
  repeat' first | with_reducible exact Frame.refl | with_reducible assumption | with_reducible refine cellEvent_frame.andThen (by decide) ?_ | with_reducible refine classCount_frame.andThen (by decide) ?_ | with_reducible refine setBucket_frame.andThen (by decide) ?_ | with_reducible refine event_frame.andThen (by decide) ?_ | intro _ | (split <;> try dsimp only)

theorem recirculate_frame {f : Flight} {a : DWord} {flags : Nat} {s : State} : Frame [.perf, .regs] s (recirculate f a flags s).2 := by
  dsimp only [recirculate]
  repeat' first | with_reducible exact Frame.refl | with_reducible assumption | with_reducible refine classCount_frame.andThen (by decide) ?_ | with_reducible refine cellEvent_frame.andThen (by decide) ?_ | with_reducible refine actCount_frame.andThen (by decide) ?_ | intro _ | (split <;> try dsimp only)

theorem followAction_frame {f : Flight} {w : Walk} {a : DWord} {flags : Nat} {s : State} : Frame [.perf, .cls, .regs] s (followAction f w a flags s).2 := by
  dsimp only [followAction]
  repeat' first | with_reducible exact Frame.refl | with_reducible assumption | with_reducible refine exception_frame.andThen (by decide) ?_ | with_reducible refine recirculate_frame.andThen (by decide) ?_ | with_reducible refine Frame.snd (by assumption) ?_ | with_reducible refine Frame.fst (by assumption) ?_ | intro _ | (split <;> try dsimp only)

theorem judge_frame {f : Flight} {w : Walk} {s : State} : Frame [.intc, .perf, .cls, .regs] s (judge f w s).2 := by
  dsimp only [judge]
  repeat' first | with_reducible exact Frame.refl | with_reducible assumption | with_reducible refine exception_frame.andThen (by decide) ?_ | with_reducible refine fault_frame.andThen (by decide) ?_ | with_reducible refine followAction_frame.andThen (by decide) ?_ | with_reducible refine Frame.snd (by assumption) ?_ | with_reducible refine Frame.fst (by assumption) ?_ | intro _ | (split <;> try dsimp only)

theorem concludePass_frame {f : Flight} {w : Walk} {s : State} : Frame [.intc, .perf, .cls, .regs] s (concludePass f w s).2 := by
  dsimp only [concludePass]
  repeat' first | with_reducible exact Frame.refl | with_reducible assumption | with_reducible refine judge_frame.andThen (by decide) ?_

theorem beginPass_frame {f : Flight} {s : State} : Frame [.intc, .perf, .cls, .flights, .regs] s (beginPass f s) := by
  dsimp only [beginPass]
  repeat' first | with_reducible exact Frame.refl | with_reducible assumption | with_reducible refine cellEvent_frame.andThen (by decide) ?_ | with_reducible refine fault_frame.andThen (by decide) ?_ | with_reducible refine concludePass_frame.andThen (by decide) ?_ | with_reducible refine setFlight_frame.andThen (by decide) ?_ | with_reducible refine Frame.snd (by assumption) ?_ | with_reducible refine Frame.fst (by assumption) ?_ | intro _ | (split <;> try dsimp only)

theorem mapConflict_frame {t : Nat} {ident : DWord} {s : State} : Frame [.intc, .regs] s (mapConflict t ident s) := by
  dsimp only [mapConflict]
  repeat' first | with_reducible exact Frame.refl | with_reducible assumption | with_reducible refine fault_frame.andThen (by decide) ?_

theorem fenceCell_frame {t : Nat} {s : State} {c : Nat} : Frame [.cistern, .cls, .flights, .ghosts, .rings, .regs] s (fenceCell t s c) := by
  dsimp only [fenceCell]
  repeat' first | with_reducible exact Frame.refl | with_reducible assumption | with_reducible refine event_frame.andThen (by decide) ?_ | with_reducible refine bump_frame.andThen (by decide) ?_ | with_reducible refine releaseFlight_frame.andThen (by decide) ?_ | with_reducible apply Frame.foldl | intro _ | with_reducible refine .with_ghosts (by decide) ?_

theorem setCellMap_frame {t : Nat} {n : Nat} {v : Word} {s : State} : Frame [.intc, .cistern, .cls, .flights, .ghosts, .rings, .regs] s (setCellMap t n v s) := by
  dsimp only [setCellMap]
  repeat' first | with_reducible exact Frame.refl | with_reducible assumption | with_reducible refine wr_frame.andThen (by decide) ?_ | with_reducible refine mapConflict_frame.andThen (by decide) ?_ | with_reducible refine fenceCell_frame.andThen (by decide) ?_ | with_reducible apply Frame.foldl | intro _ | (split <;> try dsimp only)

theorem cellMapEff_frame {t : Nat} {n : Nat} {v : Word} {s : State} : Frame [.intc, .cistern, .cls, .flights, .ghosts, .rings, .regs] s (cellMapEff t n v s) := by
  dsimp only [cellMapEff]
  repeat' first | with_reducible exact Frame.refl | with_reducible assumption | with_reducible refine mapConflict_frame.andThen (by decide) ?_ | with_reducible refine setCellMap_frame.andThen (by decide) ?_ | intro _ | (split <;> try dsimp only)

theorem cellResetEff_frame {t : Nat} {v : Word} {s : State} : Frame [.intc, .regs] s (cellResetEff t v s) := by
  dsimp only [cellResetEff]
  repeat' first | with_reducible exact Frame.refl | with_reducible assumption | with_reducible refine mapConflict_frame.andThen (by decide) ?_ | with_reducible refine event_frame.andThen (by decide) ?_ | with_reducible apply Frame.foldl | intro _ | (split <;> try dsimp only)

theorem failCheck_frame {f : Flight} {s : State} : Frame [.intc, .cistern, .cls, .flights, .rings, .regs] s (failCheck f s) := by
  dsimp only [failCheck]
  repeat' first | with_reducible exact Frame.refl | with_reducible assumption | with_reducible refine releaseFlight_frame.andThen (by decide) ?_ | with_reducible refine fault_frame.andThen (by decide) ?_

theorem acceptRing_frame {r : Nat} {f : QFrame} {s : State} : Frame [.cistern, .rings, .regs] s (acceptRing r f s) := by
  dsimp only [acceptRing]
  repeat' first | with_reducible exact Frame.refl | with_reducible assumption | with_reducible refine tsOutcome_frame.andThen (by decide) ?_ | with_reducible refine bump_frame.andThen (by decide) ?_ | with_reducible refine freeChunks_frame.andThen (by decide) ?_ | with_reducible refine setRing_frame.andThen (by decide) ?_ | intro _ | (split <;> try dsimp only)

theorem sendFate_frame {f : Flight} {x : Fate} {s : State} : Frame [.perf, .cistern, .cls, .flights, .toQueue, .toPort, .rings, .regs] s (sendFate f x s) := by
  dsimp only [sendFate]
  repeat' first | with_reducible exact Frame.refl | with_reducible assumption | with_reducible refine endFlight_frame.andThen (by decide) ?_ | with_reducible refine actCount_frame.andThen (by decide) ?_ | with_reducible refine cellEvent_frame.andThen (by decide) ?_ | with_reducible refine tsOutcome_frame.andThen (by decide) ?_ | with_reducible refine freeChunks_frame.andThen (by decide) ?_ | with_reducible refine acceptRing_frame.andThen (by decide) ?_ | intro _ | (split <;> try dsimp only) | with_reducible refine .with_toQueue (by decide) ?_ | with_reducible refine .with_toPort (by decide) ?_

theorem grantWay_frame {f : Flight} {x : Fate} {s : State} : Frame [.turns] s (grantWay f x s) := by
  dsimp only [grantWay]
  repeat' first | with_reducible exact Frame.refl | with_reducible assumption | with_reducible refine granted_frame.andThen (by decide) ?_ | intro _ | (split <;> try dsimp only)

theorem dispatchFlight_frame {f : Flight} {checkFails : Bool} {s : State} : Frame [.intc, .perf, .turns, .cistern, .cls, .flights, .toQueue, .toPort, .rings, .regs] s (dispatchFlight f checkFails s) := by
  dsimp only [dispatchFlight]
  repeat' first | with_reducible exact Frame.refl | with_reducible assumption | with_reducible refine failCheck_frame.andThen (by decide) ?_ | with_reducible refine cellEvent_frame.andThen (by decide) ?_ | with_reducible refine dropFlight_frame.andThen (by decide) ?_ | with_reducible refine sendFate_frame.andThen (by decide) ?_ | with_reducible refine grantWay_frame.andThen (by decide) ?_ | intro _ | (split <;> try dsimp only)

theorem roleToken_frame {t : Nat} {role : Nat} {s : State} : Frame [.paces] s (roleToken t role s) := by
  dsimp only [roleToken]
  repeat' first | with_reducible exact Frame.refl | with_reducible assumption | with_reducible refine setPace_frame.andThen (by decide) ?_

theorem refuseHead_frame {f : Flight} {t : Nat} {c : Nat} {s : State} : Frame [.perf, .cistern, .cls, .flights, .rings, .regs] s (refuseHead f t c s) := by
  dsimp only [refuseHead]
  repeat' first | with_reducible exact Frame.refl | with_reducible assumption | with_reducible refine cellEvent_frame.andThen (by decide) ?_ | with_reducible refine dropFlight_frame.andThen (by decide) ?_

theorem runtEff_frame {p : Nat} {len : Nat} {stamp : DWord} {s : State} : Frame [.regs] s (runtEff p len stamp s) := by
  dsimp only [runtEff]
  repeat' first | with_reducible exact Frame.refl | with_reducible assumption | with_reducible refine portStat_frame.andThen (by decide) ?_ | with_reducible refine event_frame.andThen (by decide) ?_ | with_reducible refine wr64_frame.andThen (by decide) ?_ | with_reducible refine wr_frame.andThen (by decide) ?_ | intro _ | (split <;> try dsimp only)

theorem noBuf_frame {p : Nat} {s : State} : Frame [.regs] s (noBuf p s) := by
  dsimp only [noBuf]
  repeat' first | with_reducible exact Frame.refl | with_reducible assumption | with_reducible refine event_frame.andThen (by decide) ?_ | with_reducible refine bump_frame.andThen (by decide) ?_

theorem refillPool_frame {n : Nat} {s : State} : Frame [.cistern] s (refillPool n s) := by
  dsimp only [refillPool]
  repeat' first | with_reducible exact Frame.refl | with_reducible assumption | intro _ | with_reducible refine .with_cistern (by decide) rfl ?_

theorem grant_frame {f : Flight} {s : State} : Frame [.cistern] s (grant f s).2 := by
  dsimp only [grant]
  repeat' first | with_reducible exact Frame.refl | with_reducible assumption | with_reducible refine refillPool_frame.andThen (by decide) ?_ | intro _ | (split <;> try dsimp only) | with_reducible refine .with_cistern (by decide) rfl ?_

theorem admitHead_frame {f : Flight} {u : ReplicaUpset} {s : State} : Frame [.intc, .perf, .paces, .cistern, .cls, .flights, .rings, .regs] s (admitHead f u s) := by
  dsimp only [admitHead]
  repeat' first | with_reducible exact Frame.refl | with_reducible assumption | with_reducible refine replicaUpset_frame.andThen (by decide) ?_ | with_reducible refine roleToken_frame.andThen (by decide) ?_ | with_reducible refine refuseHead_frame.andThen (by decide) ?_ | with_reducible refine runtEff_frame.andThen (by decide) ?_ | with_reducible refine noBuf_frame.andThen (by decide) ?_ | with_reducible refine grant_frame.andThen (by decide) ?_ | with_reducible refine beginPass_frame.andThen (by decide) ?_ | with_reducible refine cellEvent_frame.andThen (by decide) ?_ | with_reducible refine setFlight_frame.andThen (by decide) ?_ | with_reducible refine Frame.snd (by assumption) ?_ | with_reducible refine Frame.fst (by assumption) ?_ | intro _ | (split <;> try dsimp only)

theorem grantRole_frame {f : Flight} {s : State} : Frame [.turns] s (grantRole f s) := by
  dsimp only [grantRole]
  repeat' first | with_reducible exact Frame.refl | with_reducible assumption | with_reducible refine granted_frame.andThen (by decide) ?_

theorem clearCell_frame {t : Nat} {c : Nat} {s : State} : Frame [.regs] s (clearCell t c s) := by
  dsimp only [clearCell]
  repeat' first | with_reducible exact Frame.refl | with_reducible assumption | with_reducible refine wr_frame.andThen (by decide) ?_ | with_reducible refine wr64_frame.andThen (by decide) ?_ | with_reducible apply Frame.foldl | intro _

theorem cellResetDoneEff_frame {t : Nat} {c : Nat} {s : State} : Frame [.ghosts, .regs] s (cellResetDoneEff t c s) := by
  dsimp only [cellResetDoneEff]
  repeat' first | with_reducible exact Frame.refl | with_reducible assumption | with_reducible refine wr_frame.andThen (by decide) ?_ | with_reducible refine clearCell_frame.andThen (by decide) ?_ | intro _ | (split <;> try dsimp only) | with_reducible refine .with_ghosts (by decide) ?_

theorem headTokenEff_frame {tag : Nat} {u : ReplicaUpset} {s : State} : Frame [.intc, .perf, .paces, .turns, .cistern, .cls, .flights, .rings, .regs] s (headTokenEff tag u s) := by
  dsimp only [headTokenEff]
  repeat' first | with_reducible exact Frame.refl | with_reducible assumption | with_reducible refine admitHead_frame.andThen (by decide) ?_ | with_reducible refine grantRole_frame.andThen (by decide) ?_ | with_reducible refine beginPass_frame.andThen (by decide) ?_ | with_reducible refine replicaUpset_frame.andThen (by decide) ?_ | with_reducible refine roleToken_frame.andThen (by decide) ?_ | intro _ | (split <;> try dsimp only)

theorem dispatchEff_frame {tag : Nat} {checkFails : Bool} {s : State} : Frame [.intc, .perf, .turns, .cistern, .cls, .flights, .ghosts, .toQueue, .toPort, .rings, .regs] s (dispatchEff tag checkFails s) := by
  dsimp only [dispatchEff]
  repeat' first | with_reducible exact Frame.refl | with_reducible assumption | with_reducible refine dispatchFlight_frame.andThen (by decide) ?_ | with_reducible refine tractEvent_frame.andThen (by decide) ?_ | with_reducible refine fault_frame.andThen (by decide) ?_ | with_reducible refine bump_frame.andThen (by decide) ?_ | intro _ | (split <;> try dsimp only) | with_reducible refine .with_ghosts (by decide) ?_

theorem drainEndEff_frame {front : Nat} {s : State} : Frame [.mode] s (drainEndEff front s) := by
  dsimp only [drainEndEff]
  repeat' first | with_reducible exact Frame.refl | with_reducible assumption | intro _ | (split <;> try dsimp only) | with_reducible refine .with_mode (by decide) ?_

theorem writePayload_frame {f : Flight} {gs : List Nat} {data : Bytes} {s : State} : Frame [.cistern, .regs] s (writePayload f gs data s) := by
  dsimp only [writePayload]
  repeat' first | with_reducible exact Frame.refl | with_reducible assumption | with_reducible refine writeRuns_frame.andThen (by decide) ?_

theorem landPayload_frame {f : Flight} {gs : List Nat} {s : State} : Frame [.cistern] s (landPayload f gs s).2 := by
  dsimp only [landPayload]
  repeat' first | with_reducible exact Frame.refl | with_reducible assumption | with_reducible refine returnCredit_frame.andThen (by decide) ?_ | with_reducible refine holdAll_frame.andThen (by decide) ?_ | intro _ | (split <;> try dsimp only) | with_reducible refine .with_cistern (by decide) rfl ?_

theorem payloadCompleteEff_frame {tag : Nat} {granules : List Nat} {s : State} : Frame [.intc, .perf, .cistern, .cls, .flights, .regs] s (payloadCompleteEff tag granules s) := by
  dsimp only [payloadCompleteEff]
  repeat' first | with_reducible exact Frame.refl | with_reducible assumption | with_reducible refine landPayload_frame.andThen (by decide) ?_ | with_reducible refine concludePass_frame.andThen (by decide) ?_ | with_reducible refine setFlight_frame.andThen (by decide) ?_ | with_reducible refine writePayload_frame.andThen (by decide) ?_ | with_reducible refine Frame.snd (by assumption) ?_ | with_reducible refine Frame.fst (by assumption) ?_ | intro _ | (split <;> try dsimp only)

theorem cellStallEff_frame {t : Nat} {c : Nat} {s : State} : Frame [.intc, .regs] s (cellStallEff t c s) := by
  dsimp only [cellStallEff]
  repeat' first | with_reducible exact Frame.refl | with_reducible assumption | with_reducible refine fault_frame.andThen (by decide) ?_ | with_reducible refine event_frame.andThen (by decide) ?_ | intro _ | (split <;> try dsimp only)

theorem enqueueEff_frame {t : Nat} {s : State} : Frame [.intc, .perf, .serial, .cistern, .queues, .toQueue, .rings, .regs] s (enqueueEff t s) := by
  dsimp only [enqueueEff]
  repeat' first | with_reducible exact Frame.refl | with_reducible assumption | with_reducible refine enqueueFrame_frame.andThen (by decide) ?_ | with_reducible refine tsOutcome_frame.andThen (by decide) ?_ | intro _ | (split <;> try dsimp only) | with_reducible refine .with_toQueue (by decide) ?_

theorem stampTx_frame {p : Nat} {f : QFrame} {s : State} : Frame [.time, .rings, .regs] s (stampTx p f s) := by
  dsimp only [stampTx]
  repeat' first | with_reducible exact Frame.refl | with_reducible assumption | with_reducible refine stampQueue_frame.andThen (by decide) ?_ | with_reducible refine tsOutcome_frame.andThen (by decide) ?_ | with_reducible refine Frame.snd (by assumption) ?_ | with_reducible refine Frame.fst (by assumption) ?_ | intro _ | (split <;> try dsimp only)

theorem setPort_frame {s : State} {p : Nat} {x : Port} : Frame [.ports] s (setPort s p x) := by
  dsimp only [setPort]
  repeat' first | with_reducible exact Frame.refl | with_reducible assumption | intro _ | with_reducible refine .with_ports (by decide) ?_

theorem cutOff_frame {p : Nat} {s : State} : Frame [.wire, .cistern, .ports, .regs] s (cutOff p s) := by
  dsimp only [cutOff]
  repeat' first | with_reducible exact Frame.refl | with_reducible assumption | with_reducible refine portStat_frame.andThen (by decide) ?_ | with_reducible refine freeChunks_frame.andThen (by decide) ?_ | with_reducible refine emit_frame.andThen (by decide) ?_ | with_reducible refine setPort_frame.andThen (by decide) ?_ | intro _ | (split <;> try dsimp only)

theorem fcCtlEff_frame {p : Nat} {v : Word} {s : State} : Frame [.ports, .regs] s (fcCtlEff p v s) := by
  dsimp only [fcCtlEff]
  repeat' first | with_reducible exact Frame.refl | with_reducible assumption | with_reducible refine wrField_frame.andThen (by decide) ?_ | with_reducible refine setPort_frame.andThen (by decide) ?_

theorem statPresetEff_frame {p : Nat} {v : Word} {s : State} : Frame [.regs] s (statPresetEff p v s) := by
  dsimp only [statPresetEff]
  repeat' first | with_reducible exact Frame.refl | with_reducible assumption | with_reducible refine wrField_frame.andThen (by decide) ?_ | with_reducible refine wr64_frame.andThen (by decide) ?_ | intro _ | (split <;> try dsimp only)

theorem wakePatterns_frame {x : Nat} {p : Nat} {b : Bytes} {s : State} : Frame [.mode, .regs] s (wakePatterns x p b s) := by
  dsimp only [wakePatterns]
  repeat' first | with_reducible exact Frame.refl | with_reducible assumption | with_reducible refine event_frame.andThen (by decide) ?_ | with_reducible refine wr_frame.andThen (by decide) ?_ | with_reducible refine wakeCondition_frame.andThen (by decide) ?_ | with_reducible apply Frame.foldl | intro _ | (split <;> try dsimp only)

theorem showSignal_frame {s : State} {p : Nat} : Frame [.wire, .ports] s (showSignal s p) := by
  dsimp only [showSignal]
  repeat' first | with_reducible exact Frame.refl | with_reducible assumption | with_reducible refine emit_frame.andThen (by decide) ?_ | with_reducible refine setPort_frame.andThen (by decide) ?_ | intro _ | (split <;> try dsimp only)

theorem beginTx_frame {p : Nat} {b : Bytes} {parts : List Chunk} {bad : Bool} {gen : Option Nat} {s : State} : Frame [.ports] s (beginTx p b parts bad gen s) := by
  dsimp only [beginTx]
  repeat' first | with_reducible exact Frame.refl | with_reducible assumption | with_reducible refine setPort_frame.andThen (by decide) ?_

theorem sendControl_frame {p : Nat} {k : Nat} {told : Nat} {b : Bytes} {s : State} : Frame [.ports] s (sendControl p k told b s) := by
  dsimp only [sendControl]
  repeat' first | with_reducible exact Frame.refl | with_reducible assumption | with_reducible refine beginTx_frame.andThen (by decide) ?_ | with_reducible refine setPort_frame.andThen (by decide) ?_

theorem linkUpEff_frame {p : Nat} {s : State} : Frame [.ports, .regs] s (linkUpEff p s) := by
  dsimp only [linkUpEff]
  repeat' first | with_reducible exact Frame.refl | with_reducible assumption | with_reducible refine event_frame.andThen (by decide) ?_ | with_reducible refine setPort_frame.andThen (by decide) ?_ | intro _ | (split <;> try dsimp only)

theorem sendPfc_frame {p : Nat} {s : State} : Frame [.ports] s (sendPfc p s) := by
  dsimp only [sendPfc]
  repeat' first | with_reducible exact Frame.refl | with_reducible assumption | with_reducible refine sendControl_frame.andThen (by decide) ?_

theorem showSignals_frame {s : State} : Frame [.wire, .ports] s (showSignals s) := by
  dsimp only [showSignals]
  repeat' first | with_reducible exact Frame.refl | with_reducible assumption | with_reducible refine showSignal_frame.andThen (by decide) ?_ | with_reducible apply Frame.foldl | intro _

theorem macControl_frame {p : Nat} {b : Bytes} {s : State} : Frame [.ports, .regs] s (macControl p b s) := by
  dsimp only [macControl]
  repeat' first | with_reducible exact Frame.refl | with_reducible assumption | with_reducible refine portStat_frame.andThen (by decide) ?_ | with_reducible refine setPort_frame.andThen (by decide) ?_ | with_reducible apply Frame.foldl | intro _ | (split <;> try dsimp only)

theorem txDone_frame {p : Nat} {c : TxCur} {s : State} : Frame [.wire, .cistern, .ports, .regs] s (txDone p c s) := by
  dsimp only [txDone]
  repeat' first | with_reducible exact Frame.refl | with_reducible assumption | with_reducible refine freeChunks_frame.andThen (by decide) ?_ | with_reducible refine emit_frame.andThen (by decide) ?_ | with_reducible refine setPort_frame.andThen (by decide) ?_ | with_reducible refine portStat_frame.andThen (by decide) ?_ | intro _ | (split <;> try dsimp only)

theorem speedTryEff_frame {s : State} : Frame [.ports] s (speedTryEff s) := by
  dsimp only [speedTryEff]
  repeat' first | with_reducible exact Frame.refl | with_reducible assumption | with_reducible refine setPort_frame.andThen (by decide) ?_ | intro _ | (split <;> try dsimp only)

theorem toFront_frame {p : Nat} {f : Arrival} {err : Bool} {runt : Bool} {s : State} : Frame [.serial, .cls, .flights] s (toFront p f err runt s) := by
  dsimp only [toFront]
  repeat' first | with_reducible exact Frame.refl | with_reducible assumption | with_reducible refine startFlight_frame.andThen (by decide) ?_

theorem timerEndEff_frame {p : Nat} {k : Option Nat} {s : State} : Frame [.ports] s (timerEndEff p k s) := by
  dsimp only [timerEndEff]
  repeat' first | with_reducible exact Frame.refl | with_reducible assumption | with_reducible refine setPort_frame.andThen (by decide) ?_ | intro _ | (split <;> try dsimp only)

theorem rxError_frame {p : Nat} {k : Nat} {f : Arrival} {s : State} : Frame [.serial, .cls, .flights, .regs] s (rxError p k f s) := by
  dsimp only [rxError]
  repeat' first | with_reducible exact Frame.refl | with_reducible assumption | with_reducible refine portStat_frame.andThen (by decide) ?_ | with_reducible refine toFront_frame.andThen (by decide) ?_ | intro _ | (split <;> try dsimp only)

theorem txDrop_frame {p : Nat} {k : Nat} {s : State} {f : QFrame} : Frame [.cistern, .rings, .regs] s (txDrop p k s f) := by
  dsimp only [txDrop]
  repeat' first | with_reducible exact Frame.refl | with_reducible assumption | with_reducible refine portStat_frame.andThen (by decide) ?_ | with_reducible refine tsOutcome_frame.andThen (by decide) ?_ | with_reducible refine freeChunks_frame.andThen (by decide) ?_

theorem joinTx_frame {p : Nat} {f : QFrame} {s : State} : Frame [.cistern, .rings, .ports, .regs] s (joinTx p f s) := by
  dsimp only [joinTx]
  repeat' first | with_reducible exact Frame.refl | with_reducible assumption | with_reducible refine txDrop_frame.andThen (by decide) ?_ | with_reducible refine setPort_frame.andThen (by decide) ?_ | intro _ | (split <;> try dsimp only)

theorem transmitQueueEff_frame {p : Nat} {s : State} : Frame [.cistern, .toPort, .rings, .ports, .regs] s (transmitQueueEff p s) := by
  dsimp only [transmitQueueEff]
  repeat' first | with_reducible exact Frame.refl | with_reducible assumption | with_reducible refine joinTx_frame.andThen (by decide) ?_ | intro _ | (split <;> try dsimp only) | with_reducible refine .with_toPort (by decide) ?_

theorem rxCarried_frame {p : Nat} {f : Arrival} {s : State} : Frame [.mode, .serial, .cls, .flights, .regs] s (rxCarried p f s) := by
  dsimp only [rxCarried]
  repeat' first | with_reducible exact Frame.refl | with_reducible assumption | with_reducible refine portStat_frame.andThen (by decide) ?_ | with_reducible refine toFront_frame.andThen (by decide) ?_ | with_reducible refine wakePatterns_frame.andThen (by decide) ?_ | with_reducible refine winCount_frame.andThen (by decide) ?_ | intro _ | (split <;> try dsimp only)

theorem rxFrame_frame {p : Nat} {f : Arrival} {s : State} : Frame [.mode, .serial, .cls, .flights, .ports, .regs] s (rxFrame p f s) := by
  dsimp only [rxFrame]
  repeat' first | with_reducible exact Frame.refl | with_reducible assumption | with_reducible refine rxError_frame.andThen (by decide) ?_ | with_reducible refine portStat_frame.andThen (by decide) ?_ | with_reducible refine toFront_frame.andThen (by decide) ?_ | with_reducible refine macControl_frame.andThen (by decide) ?_ | with_reducible refine rxCarried_frame.andThen (by decide) ?_ | intro _ | (split <;> try dsimp only)

theorem receivedEff_frame {p : Nat} {f : Arrival} {s : State} : Frame [.mode, .serial, .cls, .flights, .ports, .regs] s (receivedEff p f s) := by
  dsimp only [receivedEff]
  repeat' first | with_reducible exact Frame.refl | with_reducible assumption | with_reducible refine portStat_frame.andThen (by decide) ?_ | with_reducible refine rxFrame_frame.andThen (by decide) ?_ | intro _ | (split <;> try dsimp only)

theorem tcPort_frame {p : Nat} {f : QFrame} {s : State} : Frame [.cistern, .res, .regs] s (tcPort p f s) := by
  dsimp only [tcPort]
  repeat' first | with_reducible exact Frame.refl | with_reducible assumption | with_reducible refine tcWrite_frame.andThen (by decide) ?_ | with_reducible refine event_frame.andThen (by decide) ?_ | with_reducible refine bump_frame.andThen (by decide) ?_ | with_reducible refine Frame.snd (by assumption) ?_ | with_reducible refine Frame.fst (by assumption) ?_ | intro _ | (split <;> try dsimp only)

theorem portFaults_frame {p : Nat} {lf : Bool} {rf : Bool} {s : State} : Frame [.ports, .regs] s (portFaults p lf rf s) := by
  dsimp only [portFaults]
  repeat' first | with_reducible exact Frame.refl | with_reducible assumption | with_reducible refine setPort_frame.andThen (by decide) ?_ | with_reducible refine event_frame.andThen (by decide) ?_ | intro _ | (split <;> try dsimp only)

theorem linkDownEff_frame {p : Nat} {lf : Bool} {rf : Bool} {s : State} : Frame [.wire, .intc, .cistern, .rings, .ports, .regs] s (linkDownEff p lf rf s) := by
  dsimp only [linkDownEff]
  repeat' first | with_reducible exact Frame.refl | with_reducible assumption | with_reducible refine portFaults_frame.andThen (by decide) ?_ | with_reducible refine fault_frame.andThen (by decide) ?_ | with_reducible refine event_frame.andThen (by decide) ?_ | with_reducible refine setPort_frame.andThen (by decide) ?_ | with_reducible refine cutOff_frame.andThen (by decide) ?_ | with_reducible refine txDrop_frame.andThen (by decide) ?_ | with_reducible apply Frame.foldl | intro _ | (split <;> try dsimp only)

theorem txTick_frame {s : State} : Frame [.wire, .cistern, .ports, .regs] s (txTick s) := by
  dsimp only [txTick]
  repeat' first | with_reducible exact Frame.refl | with_reducible assumption | with_reducible refine txDone_frame.andThen (by decide) ?_ | with_reducible apply Frame.foldl | intro _ | (split <;> try dsimp only)

theorem sendFrame_frame {p : Nat} {f : QFrame} {rest : List QFrame} {u : Upset} {s : State} : Frame [.time, .intc, .cistern, .res, .rings, .ports, .regs] s (sendFrame p f rest u s) := by
  dsimp only [sendFrame]
  repeat' first | with_reducible exact Frame.refl | with_reducible assumption | with_reducible refine tcPort_frame.andThen (by decide) ?_ | with_reducible refine upset_frame.andThen (by decide) ?_ | with_reducible refine setPort_frame.andThen (by decide) ?_ | with_reducible refine readRuns_frame.andThen (by decide) ?_ | with_reducible refine stampTx_frame.andThen (by decide) ?_ | with_reducible refine beginTx_frame.andThen (by decide) ?_ | with_reducible refine fault_frame.andThen (by decide) ?_ | with_reducible refine Frame.snd (by assumption) ?_ | with_reducible refine Frame.fst (by assumption) ?_ | intro _ | (split <;> try dsimp only)

theorem sendPause_frame {p : Nat} {s : State} : Frame [.ports] s (sendPause p s) := by
  dsimp only [sendPause]
  repeat' first | with_reducible exact Frame.refl | with_reducible assumption | with_reducible refine sendControl_frame.andThen (by decide) ?_

theorem faultChangeEff_frame {p : Nat} {lf : Bool} {rf : Bool} {s : State} : Frame [.ports, .regs] s (faultChangeEff p lf rf s) := by
  dsimp only [faultChangeEff]
  repeat' first | with_reducible exact Frame.refl | with_reducible assumption | with_reducible refine portFaults_frame.andThen (by decide) ?_ | intro _ | (split <;> try dsimp only)

theorem detectingEff_frame {s : State} : Frame [.ports] s (detectingEff s) := by
  dsimp only [detectingEff]
  repeat' first | with_reducible exact Frame.refl | with_reducible assumption | with_reducible refine setPort_frame.andThen (by decide) ?_ | intro _ | (split <;> try dsimp only)

theorem transmitEff_frame {p : Nat} {u : Upset} {s : State} : Frame [.time, .intc, .cistern, .res, .rings, .ports, .regs] s (transmitEff p u s) := by
  dsimp only [transmitEff]
  repeat' first | with_reducible exact Frame.refl | with_reducible assumption | with_reducible refine sendFrame_frame.andThen (by decide) ?_ | intro _ | (split <;> try dsimp only)

end Sys2Proof.Machine
end

