-- ==== Sys2Proof/Laws/FrameHost.lean ====
section
/-!
SUPPORT. Which fields of the state each function may change, for the rings, DMA, the scans and the sampler. No function leaves a canonical memory not canonical.
-/
namespace Sys2Proof.Machine

theorem finishTx_frame {r : Nat} {d : DoneFrame} {s : State} : Frame [.rings] s (finishTx r d s) := by
  dsimp only [finishTx]
  repeat' first | with_reducible exact Frame.refl | with_reducible assumption | with_reducible refine setRing_frame.andThen (by decide) ?_

theorem hemDrop_frame {copied : Bool} {s : State} : Frame [.regs] s (hemDrop copied s) := by
  dsimp only [hemDrop]
  repeat' first | with_reducible exact Frame.refl | with_reducible assumption | with_reducible refine bump_frame.andThen (by decide) ?_ | intro _ | (split <;> try dsimp only)

theorem dropOff_frame {r : Nat} {s : State} {i : RxItem} : Frame [.cistern, .regs] s (dropOff r s i) := by
  dsimp only [dropOff]
  repeat' first | with_reducible exact Frame.refl | with_reducible assumption | with_reducible refine bump_frame.andThen (by decide) ?_ | with_reducible refine freeChunks_frame.andThen (by decide) ?_ | with_reducible refine hemDrop_frame.andThen (by decide) ?_ | intro _ | (split <;> try dsimp only)

theorem freeItem_frame {s : State} {i : RxItem} : Frame [.cistern] s (freeItem s i) := by
  dsimp only [freeItem]
  repeat' first | with_reducible exact Frame.refl | with_reducible assumption | with_reducible refine freeChunks_frame.andThen (by decide) ?_ | intro _ | (split <;> try dsimp only)

theorem dropItem_frame {s : State} {i : RxItem} : Frame [.cistern, .regs] s (dropItem s i) := by
  dsimp only [dropItem]
  repeat' first | with_reducible exact Frame.refl | with_reducible assumption | with_reducible refine freeItem_frame.andThen (by decide) ?_ | with_reducible refine hemDrop_frame.andThen (by decide) ?_ | intro _ | (split <;> try dsimp only)

theorem releaseRing_frame {rx : Bool} {r : Nat} {s : State} : Frame [.cistern, .cls, .rings, .regs] s (releaseRing rx r s) := by
  dsimp only [releaseRing]
  repeat' first | with_reducible exact Frame.refl | with_reducible assumption | with_reducible refine dropOff_frame.andThen (by decide) ?_ | with_reducible refine dropItem_frame.andThen (by decide) ?_ | with_reducible refine setRing_frame.andThen (by decide) ?_ | with_reducible refine releaseStamp_frame.andThen (by decide) ?_ | with_reducible apply Frame.foldl | intro _ | (split <;> try dsimp only)

theorem closeRing_frame {rx : Bool} {r : Nat} {s : State} : Frame [.cistern, .cls, .rings, .regs] s (closeRing rx r s) := by
  dsimp only [closeRing]
  repeat' first | with_reducible exact Frame.refl | with_reducible assumption | with_reducible refine releaseRing_frame.andThen (by decide) ?_ | with_reducible refine setRing_frame.andThen (by decide) ?_

theorem ringStoppedEff_frame {rx : Bool} {r : Nat} {s : State} : Frame [.cistern, .cls, .rings, .regs] s (ringStoppedEff rx r s) := by
  dsimp only [ringStoppedEff]
  repeat' first | with_reducible exact Frame.refl | with_reducible assumption | with_reducible refine closeRing_frame.andThen (by decide) ?_ | intro _ | (split <;> try dsimp only)

theorem startRing_frame {rx : Bool} {r : Nat} {s : State} : Frame [.rings] s (startRing rx r s) := by
  dsimp only [startRing]
  repeat' first | with_reducible exact Frame.refl | with_reducible assumption | with_reducible refine setRing_frame.andThen (by decide) ?_

theorem ringCtlEff_frame {rx : Bool} {r : Nat} {v : Word} {s : State} : Frame [.cistern, .cls, .rings, .regs] s (ringCtlEff rx r v s) := by
  dsimp only [ringCtlEff]
  repeat' first | with_reducible exact Frame.refl | with_reducible assumption | with_reducible refine wrField_frame.andThen (by decide) ?_ | with_reducible refine startRing_frame.andThen (by decide) ?_ | with_reducible refine setRing_frame.andThen (by decide) ?_ | with_reducible refine closeRing_frame.andThen (by decide) ?_ | intro _ | (split <;> try dsimp only)

theorem dbTailEff_frame {rx : Bool} {r : Nat} {v : Word} {s : State} : Frame [.intc, .rings, .regs] s (dbTailEff rx r v s) := by
  dsimp only [dbTailEff]
  repeat' first | with_reducible exact Frame.refl | with_reducible assumption | with_reducible refine fault_frame.andThen (by decide) ?_ | with_reducible refine setRing_frame.andThen (by decide) ?_ | intro _ | (split <;> try dsimp only)

theorem onLink_frame {i : Nat} {f : State → State} {l : List Field} {s : State} (hf : ∀ s, Frame l s (f s)) (hl : Field.sub [.turns] l = true) :
    Frame l s (onLink i f s) := by
  unfold onLink
  split
  · exact .refl
  · exact (granted_frame.weaken hl).trans (hf _)

theorem countDone_frame {rx : Bool} {r : Nat} {f : DoneFrame} {s : State} : Frame [.regs] s (countDone rx r f s) := by
  dsimp only [countDone]
  repeat' first | with_reducible exact Frame.refl | with_reducible assumption | with_reducible refine bump_frame.andThen (by decide) ?_ | intro _ | (split <;> try dsimp only)

theorem writeData_frame {l : List Desc} {b : Bytes} {s : State} : Frame [.wire] s (writeData l b s) := by
  induction l generalizing b s with
  | nil => exact .refl
  | cons d l ih => exact Frame.trans (hostWr_frame.weaken (by decide)) ih

theorem endRx_frame {r : Nat} {c : RxCur} {descs left : List Desc} {status : Nat} {s : State} : Frame [.cistern, .rings, .regs] s (endRx r c descs left status s) := by
  have h : Frame [.cistern, .rings, .regs] s (if status = 1 then dropItem s c.item else freeItem s c.item) := by
    split
    · exact dropItem_frame.weaken (by decide)
    · exact freeItem_frame.weaken (by decide)
  exact setRing_frame.andThen (by decide) h

theorem fillRx_frame {r : Nat} {c : RxCur} {s : State} : Frame [.wire, .cistern, .rings, .regs] s (fillRx r c s) := by
  dsimp only [fillRx]
  repeat' first | with_reducible exact Frame.refl | with_reducible assumption | with_reducible refine writeData_frame.andThen (by decide) ?_ | with_reducible refine endRx_frame.andThen (by decide) ?_ | with_reducible refine setRing_frame.andThen (by decide) ?_ | intro _ | (split <;> try dsimp only)

theorem dropFull_frame {r : Nat} {i : RxItem} {s : State} : Frame [.cistern, .regs] s (dropFull r i s) := by
  dsimp only [dropFull]
  repeat' first | with_reducible exact Frame.refl | with_reducible assumption | with_reducible refine bump_frame.andThen (by decide) ?_ | with_reducible refine freeChunks_frame.andThen (by decide) ?_ | with_reducible refine hemDrop_frame.andThen (by decide) ?_ | intro _ | (split <;> try dsimp only)

theorem beginRx_frame {i : RxItem} {u : Upset} {s : State} : Frame [.intc, .cistern, .regs] s (beginRx i u s).2 := by
  dsimp only [beginRx]
  repeat' first | with_reducible exact Frame.refl | with_reducible assumption | with_reducible refine upset_frame.andThen (by decide) ?_ | with_reducible refine readRuns_frame.andThen (by decide) ?_ | with_reducible refine Frame.snd (by assumption) ?_ | with_reducible refine Frame.fst (by assumption) ?_ | intro _ | (split <;> try dsimp only)

theorem ringRxEff_frame {r : Nat} {u : Upset} {s : State} : Frame [.wire, .intc, .cistern, .rings, .regs] s (ringRxEff r u s) := by
  dsimp only [ringRxEff]
  repeat' first | with_reducible exact Frame.refl | with_reducible assumption | with_reducible refine fillRx_frame.andThen (by decide) ?_ | with_reducible refine setRing_frame.andThen (by decide) ?_ | with_reducible refine dropOff_frame.andThen (by decide) ?_ | with_reducible refine dropFull_frame.andThen (by decide) ?_ | with_reducible refine beginRx_frame.andThen (by decide) ?_ | with_reducible refine Frame.snd (by assumption) ?_ | with_reducible refine Frame.fst (by assumption) ?_ | intro _ | (split <;> try dsimp only)

theorem haltRing_frame {rx : Bool} {r : Nat} {reason : Nat} {atBuf : Bool} {addr : DWord} {s : State} : Frame [.intc, .cistern, .cls, .rings, .regs] s (haltRing rx r reason atBuf addr s) := by
  dsimp only [haltRing]
  repeat' first | with_reducible exact Frame.refl | with_reducible assumption | with_reducible refine releaseRing_frame.andThen (by decide) ?_ | with_reducible refine setRing_frame.andThen (by decide) ?_ | with_reducible refine event_frame.andThen (by decide) ?_ | with_reducible refine wr64_frame.andThen (by decide) ?_ | with_reducible refine fault_frame.andThen (by decide) ?_ | with_reducible refine bumpBy_frame.andThen (by decide) ?_

theorem addDesc_frame {rx : Bool} {r : Nat} {d : Desc} {s : State} : Frame [.rings, .regs] s (addDesc rx r d s) := by
  dsimp only [addDesc]
  repeat' first | with_reducible exact Frame.refl | with_reducible assumption | with_reducible refine noteInflight_frame.andThen (by decide) ?_ | with_reducible refine setRing_frame.andThen (by decide) ?_

theorem takeDesc_frame {rx : Bool} {r : Nat} {b : Bytes} {s : State} : Frame [.free, .intc, .cistern, .cls, .rings, .regs] s (takeDesc rx r b s) := by
  dsimp only [takeDesc]
  repeat' first | with_reducible exact Frame.refl | with_reducible assumption | with_reducible refine haltRing_frame.andThen (by decide) ?_ | with_reducible refine setRing_frame.andThen (by decide) ?_ | with_reducible refine draw1_frame.andThen (by decide) ?_ | with_reducible refine addDesc_frame.andThen (by decide) ?_ | intro _ | (split <;> try dsimp only)

theorem fetchEff_frame {rx : Bool} {r : Nat} {reply : Reply} {s : State} : Frame [.free, .intc, .cistern, .cls, .rings, .regs] s (fetchEff rx r reply s) := by
  dsimp only [fetchEff]
  repeat' first | with_reducible exact Frame.refl | with_reducible assumption | with_reducible refine takeDesc_frame.andThen (by decide) ?_ | with_reducible refine haltRing_frame.andThen (by decide) ?_ | intro _ | (split <;> try dsimp only)

theorem fetchHangs_frame {rx : Bool} {r : Nat} {s : State} : Frame [.rings, .regs] s (fetchHangs rx r s) := by
  dsimp only [fetchHangs]
  repeat' first | with_reducible exact Frame.refl | with_reducible assumption | with_reducible refine noteInflight_frame.andThen (by decide) ?_ | with_reducible refine setRing_frame.andThen (by decide) ?_

theorem fetchReply_frame {rx : Bool} {r : Nat} {reply : Reply} {s : State} : Frame [.wire, .free, .intc, .host, .turns, .cistern, .cls, .rings, .regs] s (fetchReply rx r reply s) := by
  unfold fetchReply
  split
  · exact .refl
  · split
    · exact haltRing_frame.weaken (by decide)
    · refine onLink_frame (fun _ => ?_) (by decide)
      exact (opsTake_frame.weaken (by decide)).trans (answered_frame (fun _ => hostRd_frame.weaken (by decide))
        (fun _ => fetchEff_frame.weaken (by decide)) (fun _ => fetchHangs_frame.weaken (by decide)) (by decide))

theorem writeDwords_frame {d : Desc} {i : Nat} {ws : List Word} {s : State} : Frame [.wire] s (writeDwords d i ws s) := by
  dsimp only [writeDwords]
  repeat' first | with_reducible exact Frame.refl | with_reducible assumption | with_reducible refine hostWr_frame.andThen (by decide) ?_

theorem failRead_frame {r : Nat} {reason : Nat} {d : Desc} {s : State} : Frame [.intc, .serial, .cistern, .cls, .flights, .rings, .regs] s (failRead r reason d s) := by
  dsimp only [failRead]
  repeat' first | with_reducible exact Frame.refl | with_reducible assumption | with_reducible refine enterFront_frame.andThen (by decide) ?_ | with_reducible refine setRing_frame.andThen (by decide) ?_ | with_reducible refine haltRing_frame.andThen (by decide) ?_ | intro _ | (split <;> try dsimp only)

theorem takeSeq_frame {r : Nat} {ts : Bool} {s : State} : Frame [.rings] s (takeSeq r ts s).2 := by
  dsimp only [takeSeq]
  repeat' first | with_reducible exact Frame.refl | with_reducible assumption | with_reducible refine setRing_frame.andThen (by decide) ?_ | intro _ | (split <;> try dsimp only)

theorem sendTm_frame {r : Nat} {descs : List Desc} {ts : Bool} {b : Bytes} {s : State} : Frame [.serial, .msgs, .cls, .rings, .regs] s (sendTm r descs ts b s) := by
  dsimp only [sendTm]
  repeat' first | with_reducible exact Frame.refl | with_reducible assumption | with_reducible refine takeSeq_frame.andThen (by decide) ?_ | with_reducible refine releaseStamp_frame.andThen (by decide) ?_ | with_reducible refine finishTx_frame.andThen (by decide) ?_ | with_reducible refine queueMsg_frame.andThen (by decide) ?_ | with_reducible refine Frame.snd (by assumption) ?_ | with_reducible refine Frame.fst (by assumption) ?_ | intro _ | (split <;> try dsimp only)

theorem sendRingFrame_frame {r : Nat} {descs : List Desc} {d : Desc} {b : Bytes} {s : State} : Frame [.serial, .cls, .flights, .rings, .regs] s (sendRingFrame r descs d b s) := by
  dsimp only [sendRingFrame]
  repeat' first | with_reducible exact Frame.refl | with_reducible assumption | with_reducible refine takeSeq_frame.andThen (by decide) ?_ | with_reducible refine releaseStamp_frame.andThen (by decide) ?_ | with_reducible refine finishTx_frame.andThen (by decide) ?_ | with_reducible refine takeVersion_frame.andThen (by decide) ?_ | with_reducible refine enterFront_frame.andThen (by decide) ?_ | with_reducible refine Frame.snd (by assumption) ?_ | with_reducible refine Frame.fst (by assumption) ?_ | intro _ | (split <;> try dsimp only)

theorem endBuffer_frame {r : Nat} {d : Desc} {rest : List Desc} {b : Bytes} {s : State} : Frame [.serial, .msgs, .cls, .flights, .rings, .regs] s (endBuffer r d rest b s) := by
  dsimp only [endBuffer]
  repeat' first | with_reducible exact Frame.refl | with_reducible assumption | with_reducible refine setRing_frame.andThen (by decide) ?_ | with_reducible refine sendTm_frame.andThen (by decide) ?_ | with_reducible refine sendRingFrame_frame.andThen (by decide) ?_ | intro _ | (split <;> try dsimp only)

theorem writeSevens_frame {f : DoneFrame} {l : List Desc} {s : State} : Frame [.wire] s (writeSevens f l s) := by
  induction l generalizing s with
  | nil => exact .refl
  | cons d l ih => exact Frame.trans (writeDwords_frame.weaken (by decide)) ih

theorem writeFrame_frame {f : DoneFrame} {s : State} : Frame [.wire] s (writeFrame f s) := by
  dsimp only [writeFrame]
  repeat' first | with_reducible exact Frame.refl | with_reducible assumption | with_reducible refine writeDwords_frame.andThen (by decide) ?_ | with_reducible refine writeSevens_frame.andThen (by decide) ?_ | with_reducible apply Frame.foldl | intro _ | (split <;> try dsimp only)

theorem writeBack1_frame {rx : Bool} {r : Nat} {s : State} : Frame [.wire, .rings, .regs] s (writeBack1 rx r s) := by
  dsimp only [writeBack1]
  repeat' first | with_reducible exact Frame.refl | with_reducible assumption | with_reducible refine countDone_frame.andThen (by decide) ?_ | with_reducible refine writeFrame_frame.andThen (by decide) ?_ | with_reducible refine setRing_frame.andThen (by decide) ?_ | with_reducible refine event_frame.andThen (by decide) ?_ | intro _ | (split <;> try dsimp only)

theorem writeBackEff_frame {rx : Bool} {r : Nat} {s : State} : Frame [.wire, .turns, .rings, .regs] s (writeBackEff rx r s) := by
  unfold writeBackEff
  split
  · exact onLink_frame (fun _ => writeBack1_frame.weaken (by decide)) (by decide)
  · exact .refl

theorem stampRing_frame {r : Nat} {s : State} : Frame [.host, .cls, .rings] s (stampRing r s) := by
  dsimp only [stampRing]
  repeat' first | with_reducible exact Frame.refl | with_reducible assumption | with_reducible refine setRing_frame.andThen (by decide) ?_ | with_reducible refine takeVersion_frame.andThen (by decide) ?_ | intro _ | with_reducible refine .with_host (by decide) ?_

theorem readHangs_frame {r : Nat} {s : State} : Frame [.rings] s (readHangs r s) := by
  dsimp only [readHangs]
  repeat' first | with_reducible exact Frame.refl | with_reducible assumption | with_reducible refine setRing_frame.andThen (by decide) ?_

theorem ringReadEff_frame {r : Nat} {d : Desc} {rest : List Desc} {reply : Reply} {s : State} : Frame [.intc, .serial, .cistern, .msgs, .cls, .flights, .rings, .regs] s (ringReadEff r d rest reply s) := by
  dsimp only [ringReadEff]
  repeat' first | with_reducible exact Frame.refl | with_reducible assumption | with_reducible refine endBuffer_frame.andThen (by decide) ?_ | with_reducible refine setRing_frame.andThen (by decide) ?_ | with_reducible refine failRead_frame.andThen (by decide) ?_ | intro _ | (split <;> try dsimp only)

theorem ringReadReply_frame {r : Nat} {reply : Reply} {s : State} : Frame [.wire, .intc, .host, .serial, .turns, .cistern, .msgs, .cls, .flights, .rings, .regs] s (ringReadReply r reply s) := by
  unfold ringReadReply
  dsimp only
  split
  · split
    · refine onLink_frame (fun _ => answered_frame (fun s => hostRd_frame.weaken (by decide))
        (fun _ => ringReadEff_frame.andThen (by decide) ?_) (fun _ => readHangs_frame.weaken (by decide)) (by decide)) (by decide)
      split
      · exact .refl
      · exact stampRing_frame.weaken (by decide)
    · exact .refl
  · exact .refl

theorem dmaRecord_frame {c : Nat} {code : Option Nat} {s : State} : Frame [.wire] s (dmaRecord c code s) := by
  dsimp only [dmaRecord]
  repeat' first | with_reducible exact Frame.refl | with_reducible assumption | with_reducible refine hostWr_frame.andThen (by decide) ?_ | intro _ | (split <;> try dsimp only)

theorem dmaEnd_frame {c : Nat} {code : Option Nat} {s : State} : Frame [.wire, .dmas, .regs] s (dmaEnd c code s) := by
  dsimp only [dmaEnd]
  repeat' first | with_reducible exact Frame.refl | with_reducible assumption | with_reducible refine dmaRecord_frame.andThen (by decide) ?_ | with_reducible refine wr_frame.andThen (by decide) ?_ | with_reducible refine setDma_frame.andThen (by decide) ?_

theorem dmaBegin_frame {c : Nat} {s : State} : Frame [.turns, .dmas, .regs] s (dmaBegin c s) := by
  dsimp only [dmaBegin]
  repeat' first | with_reducible exact Frame.refl | with_reducible assumption | with_reducible refine noteInflight_frame.andThen (by decide) ?_ | with_reducible refine setDma_frame.andThen (by decide) ?_ | with_reducible refine opsTake_frame.andThen (by decide) ?_ | intro _ | (split <;> try dsimp only)

theorem dmaGo_frame {c : Nat} {s : State} : Frame [.wire, .intc, .turns, .dmas, .regs] s (dmaGo c s) := by
  dsimp only [dmaGo]
  repeat' first | with_reducible exact Frame.refl | with_reducible assumption | with_reducible refine dmaEnd_frame.andThen (by decide) ?_ | with_reducible refine fault_frame.andThen (by decide) ?_ | with_reducible refine dmaBegin_frame.andThen (by decide) ?_ | with_reducible refine setDma_frame.andThen (by decide) ?_ | with_reducible refine wr_frame.andThen (by decide) ?_ | intro _ | (split <;> try dsimp only)

theorem dmaCtlEff_frame {c : Nat} {v : Word} {s : State} : Frame [.wire, .intc, .turns, .dmas, .regs] s (dmaCtlEff c v s) := by
  dsimp only [dmaCtlEff]
  repeat' first | with_reducible exact Frame.refl | with_reducible assumption | with_reducible refine fault_frame.andThen (by decide) ?_ | with_reducible refine wrField_frame.andThen (by decide) ?_ | with_reducible refine dmaGo_frame.andThen (by decide) ?_ | intro _ | (split <;> try dsimp only)

theorem dmaRead_frame {c a n : Nat} {r : Reply} {corr : Nat} {s t : State} {x : Except Nat Bytes} (e : dmaRead c a n r corr s = some (x, t)) :
    Frame [.intc, .cistern, .regs] s t := by
  unfold dmaRead at e
  split at e
  · injection e with e
    injection e with _ e
    subst e
    exact cisRead_frame.andThen (by decide) (upset_frame.weaken (by decide))
  · split at e
    · split at e
      · injection e with e; injection e with _ e; exact e ▸ .refl
      · exact absurd e (by simp)
    case h_5 => exact absurd e (by simp)
    all_goals (injection e with e; injection e with _ e; exact e ▸ .refl)

theorem dmaWrite_frame {c : Nat} {off : Nat} {b : Bytes} {s : State} : Frame [.wire, .free, .cistern, .regs] s (dmaWrite c off b s) := by
  dsimp only [dmaWrite]
  repeat' first | with_reducible exact Frame.refl | with_reducible assumption | with_reducible refine draw1_frame.andThen (by decide) ?_ | with_reducible refine cisWrite_frame.andThen (by decide) ?_ | with_reducible refine access_frame.andThen (by decide) ?_ | with_reducible refine hostWr_frame.andThen (by decide) ?_ | intro _ | (split <;> try dsimp only)

theorem dmaLand_frame {c : Nat} {n : Nat} {b : Bytes} {s : State} : Frame [.wire, .free, .cistern, .dmas, .regs] s (dmaLand c n b s) := by
  dsimp only [dmaLand]
  repeat' first | with_reducible exact Frame.refl | with_reducible assumption | with_reducible refine dmaWrite_frame.andThen (by decide) ?_ | with_reducible refine dmaEnd_frame.andThen (by decide) ?_ | with_reducible refine setDma_frame.andThen (by decide) ?_ | intro _ | (split <;> try dsimp only)

theorem dmaFlush_frame {c : Nat} {s : State} : Frame [.wire, .free, .cistern, .regs] s (dmaFlush c s) := by
  dsimp only [dmaFlush]
  repeat' first | with_reducible exact Frame.refl | with_reducible assumption | with_reducible refine dmaWrite_frame.andThen (by decide) ?_ | with_reducible refine draw1_frame.andThen (by decide) ?_ | intro _ | (split <;> try dsimp only)

theorem dmaBeat1_frame {c : Nat} {r : Reply} {corr : Nat} {s : State} : Frame [.wire, .free, .intc, .cistern, .dmas, .regs] s (dmaBeat1 c r corr s) := by
  unfold dmaBeat1
  dsimp only
  split
  · exact .refl
  · rename_i e
    have h1 := (dmaRead_frame e).weaken (m := [.wire, .free, .intc, .cistern, .dmas, .regs]) (by decide)
    split
    · exact dmaLand_frame.andThen (by decide) (wr_frame.andThen (by decide) h1)
    · exact dmaEnd_frame.andThen (by decide) (fault_frame.andThen (by decide) (wr_frame.andThen (by decide) (dmaFlush_frame.andThen (by decide)
        (wr_frame.andThen (by decide) h1))))

theorem passTurn_frame {c : Nat} {s : State} : Frame [.host] s (passTurn c s) := by
  dsimp only [passTurn]
  repeat' first | with_reducible exact Frame.refl | with_reducible assumption | intro _ | with_reducible refine .with_host (by decide) ?_

theorem dmaHangs_frame {c : Nat} {s : State} : Frame [.dmas, .regs] s (dmaHangs c s) := by
  dsimp only [dmaHangs]
  repeat' first | with_reducible exact Frame.refl | with_reducible assumption | with_reducible refine setDma_frame.andThen (by decide) ?_ | with_reducible refine wr_frame.andThen (by decide) ?_

theorem dmaIssue_frame {c : Nat} {r : Reply} {corr : Nat} {s : State} : Frame [.wire, .free, .intc, .host, .turns, .cistern, .dmas, .regs] s (dmaIssue c r corr s) := by
  unfold dmaIssue
  dsimp only
  have h : Frame [.wire, .free, .intc, .host, .turns, .cistern, .dmas, .regs] s (dmaBegin c (passTurn c (takeBanks (bankWaits s) (8 + c) (dmaBanks s c) s))) :=
    dmaBegin_frame.andThen (by decide) (passTurn_frame.andThen (by decide) (takeBanks_frame.weaken (by decide)))
  split
  · exact dmaBeat1_frame.andThen (by decide) h
  · exact h.trans (answered_frame (fun _ => hostRd_frame.weaken (by decide)) (fun _ => dmaBeat1_frame.weaken (by decide))
      (fun _ => dmaHangs_frame.weaken (by decide)) (by decide))

theorem dmaBeatEff_frame {c : Nat} {r : Reply} {corr : Nat} {s : State} : Frame [.wire, .free, .intc, .host, .turns, .cistern, .dmas, .regs] s (dmaBeatEff c r corr s) := by
  unfold dmaBeatEff
  split
  · exact onLink_frame (fun _ => dmaIssue_frame.weaken (by decide)) (by decide)
  · exact .refl

theorem checkFail_frame {e : Nat} {code : Nat} {s : State} : Frame [.scans, .regs] s (checkFail e code s) := by
  dsimp only [checkFail]
  repeat' first | with_reducible exact Frame.refl | with_reducible assumption | with_reducible refine wr_frame.andThen (by decide) ?_ | with_reducible refine setScan_frame.andThen (by decide) ?_

theorem checkDone_frame {e : Nat} {stored : DWord} {s : State} : Frame [.scans, .regs] s (checkDone e stored s) := by
  dsimp only [checkDone]
  repeat' first | with_reducible exact Frame.refl | with_reducible assumption | with_reducible refine wr_frame.andThen (by decide) ?_ | with_reducible refine setScan_frame.andThen (by decide) ?_ | with_reducible refine wr64_frame.andThen (by decide) ?_

theorem checkRangeEnd_frame {e : Nat} {s : State} : Frame [.scans, .regs] s (checkRangeEnd e s) := by
  dsimp only [checkRangeEnd]
  repeat' first | with_reducible exact Frame.refl | with_reducible assumption | with_reducible refine checkDone_frame.andThen (by decide) ?_ | intro _ | (split <;> try dsimp only)

theorem checkGo_frame {e : Nat} {s : State} : Frame [.scans, .regs] s (checkGo e s) := by
  dsimp only [checkGo]
  repeat' first | with_reducible exact Frame.refl | with_reducible assumption | with_reducible refine wr64_frame.andThen (by decide) ?_ | with_reducible refine wr_frame.andThen (by decide) ?_ | with_reducible refine setScan_frame.andThen (by decide) ?_ | with_reducible refine checkRangeEnd_frame.andThen (by decide) ?_ | intro _ | (split <;> try dsimp only)

theorem checkCtlEff_frame {e : Nat} {v : Word} {s : State} : Frame [.intc, .scans, .regs] s (checkCtlEff e v s) := by
  dsimp only [checkCtlEff]
  repeat' first | with_reducible exact Frame.refl | with_reducible assumption | with_reducible refine fault_frame.andThen (by decide) ?_ | with_reducible refine checkFail_frame.andThen (by decide) ?_ | with_reducible refine wrField_frame.andThen (by decide) ?_ | with_reducible refine checkGo_frame.andThen (by decide) ?_ | intro _ | (split <;> try dsimp only)

theorem checkFold_frame {e : Nat} {b : Bytes} {s : State} : Frame [.scans, .regs] s (checkFold e b s) := by
  dsimp only [checkFold]
  repeat' first | with_reducible exact Frame.refl | with_reducible assumption | with_reducible refine setScan_frame.andThen (by decide) ?_ | with_reducible refine checkRangeEnd_frame.andThen (by decide) ?_ | intro _ | (split <;> try dsimp only)

theorem checkRead_frame {g a n : Nat} {r : Reply} {corr : Nat} {s t : State} {x : Except (Nat × Nat) Bytes}
    (e : checkRead g a n r corr s = some (x, t)) : Frame [.intc, .cistern, .regs] s t := by
  unfold checkRead at e
  split at e
  · split at e
    · split at e
      · injection e with e; injection e with _ e; exact e ▸ .refl
      · exact absurd e (by simp)
    case h_5 => exact absurd e (by simp)
    all_goals (injection e with e; injection e with _ e; exact e ▸ .refl)
  · injection e with e; injection e with _ e; subst e
    exact cisRead_frame.andThen (by decide) (upset_frame.weaken (by decide))
  · have h1 : Frame [.intc, .cistern, .regs] s (bumpBy (access s { res := true, addr := checkChan s g * 2 ^ 35 + a, bytes := n })
        (R.BUFFER_RES_CH_CORR (checkChan s g)) corr) := bumpBy_frame.andThen (by decide) (access_frame.weaken (by decide))
    cases r with
    | ok b =>
      dsimp only at e
      split at e
      · injection e with e; injection e with _ e; subst e
        exact bump_frame.andThen (by decide) h1
      · split at e
        · injection e with e; injection e with _ e; exact e ▸ h1
        · exact absurd e (by simp)
    | _ =>
      injection e with e; injection e with _ e; subst e
      exact bump_frame.andThen (by decide) h1

theorem checkReadFail_frame {e : Nat} {off : Nat} {x : Nat × Nat} {s : State} : Frame [.intc, .scans, .regs] s (checkReadFail e off x s) := by
  dsimp only [checkReadFail]
  repeat' first | with_reducible exact Frame.refl | with_reducible assumption | with_reducible refine checkFail_frame.andThen (by decide) ?_ | with_reducible refine fault_frame.andThen (by decide) ?_ | with_reducible refine wr64_frame.andThen (by decide) ?_

theorem checkBeat1_frame {e : Nat} {r : Reply} {corr : Nat} {s : State} : Frame [.intc, .cistern, .scans, .regs] s (checkBeat1 e r corr s) := by
  unfold checkBeat1
  dsimp only
  split
  · exact .refl
  · rename_i h
    exact checkReadFail_frame.andThen (by decide) ((checkRead_frame h).weaken (by decide))
  · rename_i h
    have h1 := (checkRead_frame h).weaken (m := [.intc, .cistern, .scans, .regs]) (by decide)
    split
    · exact checkDone_frame.andThen (by decide) h1
    · exact checkFold_frame.andThen (by decide) h1

theorem scanHangs_frame {e : Nat} {s : State} : Frame [.scans] s (scanHangs e s) := by
  dsimp only [scanHangs]
  repeat' first | with_reducible exact Frame.refl | with_reducible assumption | with_reducible refine setScan_frame.andThen (by decide) ?_

theorem checkIssue_frame {e : Nat} {r : Reply} {corr : Nat} {s : State} : Frame [.wire, .intc, .host, .turns, .cistern, .scans, .regs] s (checkIssue e r corr s) := by
  unfold checkIssue
  split
  · split
    · exact onLink_frame (fun _ => answered_frame (fun _ => hostRd_frame.weaken (by decide)) (fun _ => checkBeat1_frame.weaken (by decide))
        (fun _ => scanHangs_frame.weaken (by decide)) (by decide)) (by decide)
    · exact .refl
  · split
    · exact .refl
    · exact checkBeat1_frame.andThen (by decide) (takeBanks_frame.weaken (by decide))
  · exact checkBeat1_frame.weaken (by decide)

theorem checkBeatEff_frame {e : Nat} {r : Reply} {corr : Nat} {s : State} : Frame [.wire, .intc, .host, .turns, .cistern, .robins, .scans, .regs] s (checkBeatEff e r corr s) := by
  dsimp only [checkBeatEff]
  repeat' first | with_reducible exact Frame.refl | with_reducible assumption | with_reducible refine checkIssue_frame.andThen (by decide) ?_ | intro _ | (split <;> try dsimp only)

theorem endScans_frame {sp : Nat} {code : Nat} {s : State} : Frame [.intc, .scans, .regs] s (endScans sp code s) := by
  dsimp only [endScans]
  repeat' first | with_reducible exact Frame.refl | with_reducible assumption | with_reducible refine checkFail_frame.andThen (by decide) ?_ | with_reducible refine checkReadFail_frame.andThen (by decide) ?_ | with_reducible apply Frame.foldl | intro _ | (split <;> try dsimp only)

theorem cellPresetEff_frame {t : Nat} {c : Nat} {v : Word} {s : State} : Frame [.regs] s (cellPresetEff t c v s) := by
  dsimp only [cellPresetEff]
  repeat' first | with_reducible exact Frame.refl | with_reducible assumption | with_reducible refine wrField_frame.andThen (by decide) ?_ | with_reducible refine wr64_frame.andThen (by decide) ?_ | intro _ | (split <;> try dsimp only)

theorem tallyPut_frame {x : Tally} {a : DWord} {b : Bytes} {s : State} : Frame [.wire, .cistern, .regs] s (tallyPut x a b s) := by
  dsimp only [tallyPut]
  repeat' first | with_reducible exact Frame.refl | with_reducible assumption | with_reducible refine cisWrite_frame.andThen (by decide) ?_ | with_reducible refine access_frame.andThen (by decide) ?_ | with_reducible refine hostWr_frame.andThen (by decide) ?_ | intro _ | (split <;> try dsimp only)

theorem tallyCtlEff_frame {v : Word} {s : State} : Frame [.intc, .perf, .regs] s (tallyCtlEff v s) := by
  dsimp only [tallyCtlEff]
  repeat' first | with_reducible exact Frame.refl | with_reducible assumption | with_reducible refine wr_frame.andThen (by decide) ?_ | with_reducible refine fault_frame.andThen (by decide) ?_ | intro _ | (split <;> try dsimp only) | with_reducible refine .with_perf (by decide) ?_

theorem accPresetEff_frame {v : Word} {s : State} : Frame [.regs] s (accPresetEff v s) := by
  dsimp only [accPresetEff]
  repeat' first | with_reducible exact Frame.refl | with_reducible assumption | with_reducible refine wrField_frame.andThen (by decide) ?_ | with_reducible refine wr64_frame.andThen (by decide) ?_ | intro _ | (split <;> try dsimp only)

theorem tractPresetEff_frame {t : Nat} {v : Word} {s : State} : Frame [.perf, .regs] s (tractPresetEff t v s) := by
  dsimp only [tractPresetEff]
  repeat' first | with_reducible exact Frame.refl | with_reducible assumption | with_reducible refine wrField_frame.andThen (by decide) ?_ | with_reducible refine wr_frame.andThen (by decide) ?_ | intro _ | (split <;> try dsimp only) | with_reducible refine .with_perf (by decide) ?_

theorem ledgerLatch_frame {t : Nat} {s : State} : Frame [.regs] s (ledgerLatch t s) := by
  dsimp only [ledgerLatch]
  repeat' first | with_reducible exact Frame.refl | with_reducible assumption | with_reducible refine wr64_frame.andThen (by decide) ?_ | with_reducible refine wr_frame.andThen (by decide) ?_ | with_reducible apply Frame.foldl | intro _

theorem snapEff_frame {t : Nat} {v : Word} {s : State} : Frame [.drovers, .regs] s (snapEff t v s) := by
  dsimp only [snapEff]
  repeat' first | with_reducible exact Frame.refl | with_reducible assumption | with_reducible refine setDrover_frame.andThen (by decide) ?_ | with_reducible refine ledgerLatch_frame.andThen (by decide) ?_ | intro _ | (split <;> try dsimp only)

theorem tallySnap_frame {x : Tally} {t : Nat} {c : Nat} {s : State} : Frame [.perf, .regs] s (tallySnap x t c s) := by
  dsimp only [tallySnap]
  repeat' first | with_reducible exact Frame.refl | with_reducible assumption | with_reducible refine wr64_frame.andThen (by decide) ?_ | with_reducible apply Frame.foldl | intro _ | (split <;> try dsimp only) | with_reducible refine .with_perf (by decide) ?_

theorem tallyCell_frame {x : Tally} {k : Nat} {skips : List Nat} {s : State} {t : Nat} {c : Nat} : Frame [.wire, .perf, .cistern, .regs] s (tallyCell x k skips s t c) := by
  dsimp only [tallyCell]
  repeat' first | with_reducible exact Frame.refl | with_reducible assumption | with_reducible refine event_frame.andThen (by decide) ?_ | with_reducible refine bump_frame.andThen (by decide) ?_ | with_reducible refine tallyPut_frame.andThen (by decide) ?_ | with_reducible refine tallySnap_frame.andThen (by decide) ?_ | intro _ | (split <;> try dsimp only)

theorem sampleWords_frame {s : State} {x : Option Sample} : Frame [.regs] s (sampleWords s x) := by
  dsimp only [sampleWords]
  repeat' first | with_reducible exact Frame.refl | with_reducible assumption | with_reducible refine wr_frame.andThen (by decide) ?_

theorem sampleRead_frame {s : State} : Frame [.perf, .regs] s (sampleRead s).2 := by
  dsimp only [sampleRead]
  repeat' first | with_reducible exact Frame.refl | with_reducible assumption | with_reducible refine sampleWords_frame.andThen (by decide) ?_ | intro _ | (split <;> try dsimp only) | with_reducible refine .with_perf (by decide) ?_

theorem tallyDumpEff_frame {skips : List Nat} {s : State} : Frame [.wire, .perf, .cistern, .regs] s (tallyDumpEff skips s) := by
  dsimp only [tallyDumpEff]
  repeat' first | with_reducible exact Frame.refl | with_reducible assumption | with_reducible refine wr_frame.andThen (by decide) ?_ | with_reducible refine tallyCell_frame.andThen (by decide) ?_ | with_reducible apply Frame.foldl | intro _ | (split <;> try dsimp only) | with_reducible refine .with_perf (by decide) ?_

end Sys2Proof.Machine
end

