-- ==== Sys2Proof/Laws/FrameModes.lean ====
section
/-!
SUPPORT. Which fields of the state each function may change, for modes, head-end messages, segments and supplies. No function leaves a canonical memory not canonical.
-/
namespace Sys2Proof.Machine

theorem requestEff_frame {target : Nat} {s : State} : Frame [.mode] s (requestEff target s) := by
  dsimp only [requestEff]
  repeat' first | with_reducible exact Frame.refl | with_reducible assumption | intro _ | (split <;> try dsimp only) | with_reducible refine .with_mode (by decide) ?_

theorem modeCtlEff_frame {v : Word} {s : State} : Frame [.mode, .regs] s (modeCtlEff v s) := by
  dsimp only [modeCtlEff]
  repeat' first | with_reducible exact Frame.refl | with_reducible assumption | with_reducible refine wrField_frame.andThen (by decide) ?_ | with_reducible refine requestEff_frame.andThen (by decide) ?_ | intro _ | (split <;> try dsimp only)

theorem coreReset_frame {cause : Nat} {s : State} : Frame [.wire, .power, .mode, .time, .line, .keys, .reasm, .intc, .host, .perf, .paces, .serial, .past, .turns, .cistern, .res, .queues, .robins, .marks, .table, .drovers, .store, .gate, .msgs, .parser, .cls, .flights, .ghosts, .toQueue, .toPort, .rings, .dmas, .scans, .ports, .loader, .regs] s (coreReset cause s) :=
  ⟨fun f hf => by cases f <;> first | rfl | exact absurd hf (by decide), fun _ => rfl⟩

theorem purgeOwn_frame {s : State} : Frame [.table, .regs] s (purgeOwn s) := by
  dsimp only [purgeOwn]
  repeat' first | with_reducible exact Frame.refl | with_reducible assumption | with_reducible refine purge_frame.andThen (by decide) ?_

theorem purgeData_frame {s : State} : Frame [.table, .regs] s (purgeData s) := by
  dsimp only [purgeData]
  repeat' first | with_reducible exact Frame.refl | with_reducible assumption | with_reducible refine purge_frame.andThen (by decide) ?_

theorem leaveFallow_frame {s : State} : Frame [.wire, .free, .mode, .intc, .paces, .regs] s (leaveFallow s) := by
  dsimp only [leaveFallow]
  repeat' first | with_reducible exact Frame.refl | with_reducible assumption | with_reducible refine railsFree_frame.andThen (by decide) ?_ | intro _ | (split <;> try dsimp only) | with_reducible refine .with_mode (by decide) ?_

theorem toSilent_frame {s : State} : Frame [.mode] s (toSilent s) := by
  dsimp only [toSilent]
  repeat' first | with_reducible exact Frame.refl | with_reducible assumption | intro _ | with_reducible refine .with_mode (by decide) ?_

theorem emptyNext_frame {s : State} : Frame [.keys] s (emptyNext s) := by
  dsimp only [emptyNext]
  repeat' first | with_reducible exact Frame.refl | with_reducible assumption | intro _ | with_reducible refine .with_keys (by decide) ?_

theorem enterSilent_frame {s : State} : Frame [.wire, .free, .mode, .line, .keys, .intc, .perf, .paces, .robins, .marks, .table, .drovers, .gate, .msgs, .regs] s (enterSilent s) := by
  dsimp only [enterSilent]
  repeat' first | with_reducible exact Frame.refl | with_reducible assumption | with_reducible refine purgeOwn_frame.andThen (by decide) ?_ | with_reducible refine purgeData_frame.andThen (by decide) ?_ | with_reducible refine abortDrovers_frame.andThen (by decide) ?_ | with_reducible refine leaveFallow_frame.andThen (by decide) ?_ | with_reducible refine toSilent_frame.andThen (by decide) ?_ | with_reducible refine clearEqd_frame.andThen (by decide) ?_ | with_reducible refine emptyNext_frame.andThen (by decide) ?_ | with_reducible refine event_frame.andThen (by decide) ?_ | intro _ | with_reducible refine .with_line (by decide) ?_ | with_reducible refine .with_mode (by decide) ?_

theorem setMode_frame {m : Mode} {s : State} : Frame [.mode] s (setMode m s) := by
  dsimp only [setMode]
  repeat' first | with_reducible exact Frame.refl | with_reducible assumption | intro _ | with_reducible refine .with_mode (by decide) ?_

theorem noteLeft_frame {s : State} : Frame [.mode] s (noteLeft s) := by
  dsimp only [noteLeft]
  repeat' first | with_reducible exact Frame.refl | with_reducible assumption | intro _ | (split <;> try dsimp only) | with_reducible refine .with_mode (by decide) ?_

theorem stopKinds_frame {s : State} : Frame [.intc, .cistern, .res, .queues, .robins, .marks, .table, .gate, .msgs, .regs] s (stopKinds s) := by
  dsimp only [stopKinds]
  repeat' first | with_reducible exact Frame.refl | with_reducible assumption | with_reducible refine withdrawBursts_frame.andThen (by decide) ?_ | intro _ | with_reducible refine .with_table (by decide) ?_

theorem discardIdentity_frame {s : State} : Frame [.line, .regs] s (discardIdentity s) := by
  dsimp only [discardIdentity]
  repeat' first | with_reducible exact Frame.refl | with_reducible assumption | with_reducible refine wr_frame.andThen (by decide) ?_ | intro _ | with_reducible refine .with_line (by decide) ?_

theorem enterListen_frame {s : State} : Frame [.line, .keys, .regs] s (enterListen s) := by
  dsimp only [enterListen]
  repeat' first | with_reducible exact Frame.refl | with_reducible assumption | with_reducible refine discardIdentity_frame.andThen (by decide) ?_ | with_reducible refine emptyNext_frame.andThen (by decide) ?_ | with_reducible refine setPm0_frame.andThen (by decide) ?_

theorem emptyQueue_frame {q : Nat} {s : State} : Frame [.cistern, .res, .queues] s (emptyQueue q s) := by
  dsimp only [emptyQueue]
  repeat' first | with_reducible exact Frame.refl | with_reducible assumption | with_reducible refine cancelWriting_frame.andThen (by decide) ?_ | with_reducible refine freePage_frame.andThen (by decide) ?_ | with_reducible refine freeChunks_frame.andThen (by decide) ?_ | with_reducible refine evalPressure_frame.andThen (by decide) ?_ | with_reducible refine setQueue_frame.andThen (by decide) ?_ | with_reducible apply Frame.foldl | intro _ | (split <;> try dsimp only)

theorem flushQueues_frame {s : State} : Frame [.cistern, .res, .queues] s (flushQueues s) := by
  dsimp only [flushQueues]
  repeat' first | with_reducible exact Frame.refl | with_reducible assumption | with_reducible refine emptyQueue_frame.andThen (by decide) ?_ | with_reducible apply Frame.foldl | intro _

theorem modeEffects_frame {old : State} {m : Mode} {s : State} : Frame [.mode, .line, .keys, .intc, .perf, .cistern, .res, .queues, .robins, .marks, .table, .drovers, .gate, .msgs, .regs] s (modeEffects old m s) := by
  dsimp only [modeEffects]
  repeat' first | with_reducible exact Frame.refl | with_reducible assumption | with_reducible refine stopKinds_frame.andThen (by decide) ?_ | with_reducible refine abortDrovers_frame.andThen (by decide) ?_ | with_reducible refine retakeHeld_frame.andThen (by decide) ?_ | with_reducible refine keeperWakeCheck_frame.andThen (by decide) ?_ | with_reducible refine emptySlots_frame.andThen (by decide) ?_ | with_reducible refine discardIdentity_frame.andThen (by decide) ?_ | with_reducible refine purgeRegister_frame.andThen (by decide) ?_ | with_reducible refine purgeOwn_frame.andThen (by decide) ?_ | with_reducible refine enterListen_frame.andThen (by decide) ?_ | with_reducible refine flushQueues_frame.andThen (by decide) ?_ | intro _ | (split <;> try dsimp only)

theorem fallowChange_frame {m : Mode} {s : State} : Frame [.wire, .free, .mode, .intc, .paces, .regs] s (fallowChange m s) := by
  dsimp only [fallowChange]
  repeat' first | with_reducible exact Frame.refl | with_reducible assumption | with_reducible refine leaveFallow_frame.andThen (by decide) ?_ | intro _ | (split <;> try dsimp only) | with_reducible refine .with_mode (by decide) ?_

theorem commitMode_frame {m : Mode} {s : State} : Frame [.wire, .free, .mode, .line, .keys, .intc, .perf, .paces, .cistern, .res, .queues, .robins, .marks, .table, .drovers, .gate, .msgs, .regs] s (commitMode m s) := by
  dsimp only [commitMode]
  repeat' first | with_reducible exact Frame.refl | with_reducible assumption | with_reducible refine noteLeft_frame.andThen (by decide) ?_ | with_reducible refine setMode_frame.andThen (by decide) ?_ | with_reducible refine modeEffects_frame.andThen (by decide) ?_ | with_reducible refine fallowChange_frame.andThen (by decide) ?_ | intro _ | (split <;> try dsimp only)

theorem driveCoreEn_frame {high : Bool} {s : State} : Frame [.wire, .power] s (driveCoreEn high s) := by
  dsimp only [driveCoreEn]
  repeat' first | with_reducible exact Frame.refl | with_reducible assumption | with_reducible refine emit_frame.andThen (by decide) ?_ | intro _ | with_reducible refine .with_power (by decide) ?_

theorem enterDormant_frame {s : State} : Frame [.wire, .power, .mode, .time, .line, .keys, .reasm, .intc, .host, .perf, .paces, .serial, .past, .turns, .cistern, .res, .queues, .robins, .marks, .table, .drovers, .store, .gate, .msgs, .parser, .cls, .flights, .ghosts, .toQueue, .toPort, .rings, .dmas, .scans, .ports, .loader, .regs] s (enterDormant s) := by
  dsimp only [enterDormant]
  repeat' first | with_reducible exact Frame.refl | with_reducible assumption | with_reducible refine coreReset_frame.andThen (by decide) ?_ | with_reducible refine driveCoreEn_frame.andThen (by decide) ?_ | intro _ | with_reducible refine .with_mode (by decide) ?_

theorem endRequest_frame {s : State} : Frame [.mode] s (endRequest s) := by
  dsimp only [endRequest]
  repeat' first | with_reducible exact Frame.refl | with_reducible assumption | intro _ | with_reducible refine .with_mode (by decide) ?_

theorem refuseRequest_frame {r : Nat} {s : State} : Frame [.wire, .free, .mode, .intc, .paces, .regs] s (refuseRequest r s) := by
  dsimp only [refuseRequest]
  repeat' first | with_reducible exact Frame.refl | with_reducible assumption | with_reducible refine leaveFallow_frame.andThen (by decide) ?_ | with_reducible refine endRequest_frame.andThen (by decide) ?_ | intro _ | (split <;> try dsimp only) | with_reducible refine .with_mode (by decide) ?_

theorem modeCommitEff_frame {avs : List (Nat × Ack)} {s : State} : Frame [.wire, .free, .mode, .line, .keys, .intc, .perf, .paces, .cistern, .res, .queues, .robins, .marks, .table, .drovers, .gate, .msgs, .regs] s (modeCommitEff avs s) := by
  dsimp only [modeCommitEff]
  repeat' first | with_reducible exact Frame.refl | with_reducible assumption | with_reducible refine refuseRequest_frame.andThen (by decide) ?_ | with_reducible refine railsMove_frame.andThen (by decide) ?_ | with_reducible refine commitMode_frame.andThen (by decide) ?_ | with_reducible refine endRequest_frame.andThen (by decide) ?_ | intro _ | (split <;> try dsimp only)

theorem cutConvoy_frame {s : State} : Frame [.line, .reasm, .intc, .regs] s (cutConvoy s) := by
  dsimp only [cutConvoy]
  repeat' first | with_reducible exact Frame.refl | with_reducible assumption | with_reducible refine abandonAll_frame.andThen (by decide) ?_ | with_reducible refine endConvoy_frame.andThen (by decide) ?_

theorem hemDeliver_frame {h : Hem} {s : State} : Frame [.rings, .regs] s (hemDeliver h s) := by
  dsimp only [hemDeliver]
  repeat' first | with_reducible exact Frame.refl | with_reducible assumption | with_reducible refine setRing_frame.andThen (by decide) ?_ | with_reducible refine hemDrop_frame.andThen (by decide) ?_ | with_reducible refine bump_frame.andThen (by decide) ?_ | intro _ | (split <;> try dsimp only)

theorem deregisterLate_frame {s : State} : Frame [.wire, .free, .mode, .line, .keys, .intc, .perf, .paces, .robins, .marks, .table, .drovers, .gate, .msgs, .regs] s (deregisterLate s) := by
  dsimp only [deregisterLate]
  repeat' first | with_reducible exact Frame.refl | with_reducible assumption | with_reducible refine enterSilent_frame.andThen (by decide) ?_ | with_reducible refine setPm0_frame.andThen (by decide) ?_ | with_reducible refine wr_frame.andThen (by decide) ?_ | intro _ | (split <;> try dsimp only) | with_reducible refine .with_mode (by decide) ?_

theorem keyReply_frame {op : Nat} {h : Hem} {rest : Bytes} {s : State} : Frame [.serial, .msgs] s (keyReply op h rest s) := by
  dsimp only [keyReply]
  repeat' first | with_reducible exact Frame.refl | with_reducible assumption | with_reducible refine queueMsg_frame.andThen (by decide) ?_

theorem keyStage_frame {w : KeyWait} {s : State} : Frame [.keys] s (keyStage w s) := by
  dsimp only [keyStage]
  repeat' first | with_reducible exact Frame.refl | with_reducible assumption | intro _ | with_reducible refine .with_keys (by decide) ?_

theorem offerTake_frame {h : Hem} {s : State} : Frame [.free, .keys, .serial, .msgs] s (offerTake h s) := by
  dsimp only [offerTake]
  repeat' first | with_reducible exact Frame.refl | with_reducible assumption | with_reducible refine keyReply_frame.andThen (by decide) ?_ | with_reducible refine draw1_frame.andThen (by decide) ?_ | with_reducible refine keyStage_frame.andThen (by decide) ?_ | intro _ | with_reducible refine .with_keys (by decide) ?_

theorem offerMsg_frame {h : Hem} {s : State} : Frame [.free, .keys, .intc, .serial, .msgs, .regs] s (offerMsg h s) := by
  dsimp only [offerMsg]
  repeat' first | with_reducible exact Frame.refl | with_reducible assumption | with_reducible refine fault_frame.andThen (by decide) ?_ | with_reducible refine draw1_frame.andThen (by decide) ?_ | with_reducible refine offerTake_frame.andThen (by decide) ?_ | intro _ | (split <;> try dsimp only)

theorem activateMsg_frame {h : Hem} {s : State} : Frame [.keys, .serial, .msgs, .regs] s (activateMsg h s) := by
  dsimp only [activateMsg]
  repeat' first | with_reducible exact Frame.refl | with_reducible assumption | with_reducible refine keyReply_frame.andThen (by decide) ?_ | with_reducible refine event_frame.andThen (by decide) ?_ | intro _ | with_reducible refine .with_keys (by decide) ?_

theorem groupMsg_frame {h : Hem} {s : State} : Frame [.keys, .intc, .serial, .msgs, .regs] s (groupMsg h s) := by
  dsimp only [groupMsg]
  repeat' first | with_reducible exact Frame.refl | with_reducible assumption | with_reducible refine keyReply_frame.andThen (by decide) ?_ | with_reducible refine keyStage_frame.andThen (by decide) ?_ | with_reducible refine fault_frame.andThen (by decide) ?_ | intro _ | (split <;> try dsimp only)

theorem retireMsg_frame {h : Hem} {s : State} : Frame [.keys, .serial, .msgs] s (retireMsg h s) := by
  dsimp only [retireMsg]
  repeat' first | with_reducible exact Frame.refl | with_reducible assumption | with_reducible refine keyReply_frame.andThen (by decide) ?_ | with_reducible refine keyStage_frame.andThen (by decide) ?_

theorem keyMessage_frame {h : Hem} {s : State} : Frame [.free, .keys, .intc, .serial, .msgs, .regs] s (keyMessage h s) := by
  dsimp only [keyMessage]
  repeat' first | with_reducible exact Frame.refl | with_reducible assumption | with_reducible refine keyReply_frame.andThen (by decide) ?_ | with_reducible refine fault_frame.andThen (by decide) ?_ | with_reducible refine offerMsg_frame.andThen (by decide) ?_ | with_reducible refine activateMsg_frame.andThen (by decide) ?_ | with_reducible refine groupMsg_frame.andThen (by decide) ?_ | with_reducible refine retireMsg_frame.andThen (by decide) ?_ | intro _ | (split <;> try dsimp only)

theorem deregisterMsg_frame {b : Bytes} {s : State} : Frame [.wire, .free, .mode, .line, .keys, .intc, .perf, .paces, .robins, .marks, .table, .drovers, .gate, .msgs, .regs] s (deregisterMsg b s) := by
  dsimp only [deregisterMsg]
  repeat' first | with_reducible exact Frame.refl | with_reducible assumption | with_reducible refine enterSilent_frame.andThen (by decide) ?_ | intro _ | (split <;> try dsimp only) | with_reducible refine .with_mode (by decide) ?_

theorem hemNext_frame {n : Nat} {s : State} : Frame [.line] s (hemNext n s) := by
  dsimp only [hemNext]
  repeat' first | with_reducible exact Frame.refl | with_reducible assumption | intro _ | with_reducible refine .with_line (by decide) ?_

theorem assignIdMsg_frame {b : Bytes} {s : State} : Frame [.line] s (assignIdMsg b s) := by
  dsimp only [assignIdMsg]
  repeat' first | with_reducible exact Frame.refl | with_reducible assumption | intro _ | (split <;> try dsimp only) | with_reducible refine .with_line (by decide) ?_

theorem assignEqdMsg_frame {b : Bytes} {s : State} : Frame [.line] s (assignEqdMsg b s) := by
  dsimp only [assignEqdMsg]
  repeat' first | with_reducible exact Frame.refl | with_reducible assumption | intro _ | (split <;> try dsimp only) | with_reducible refine .with_line (by decide) ?_

theorem routeParamsMsg_frame {b : Bytes} {s : State} : Frame [.line, .intc, .regs] s (routeParamsMsg b s) := by
  dsimp only [routeParamsMsg]
  repeat' first | with_reducible exact Frame.refl | with_reducible assumption | with_reducible refine fault_frame.andThen (by decide) ?_ | intro _ | (split <;> try dsimp only) | with_reducible refine .with_line (by decide) ?_

theorem timeEpochMsg_frame {b : Bytes} {s : State} : Frame [.intc, .regs] s (timeEpochMsg b s) := by
  dsimp only [timeEpochMsg]
  repeat' first | with_reducible exact Frame.refl | with_reducible assumption | with_reducible refine fault_frame.andThen (by decide) ?_ | with_reducible refine wr64_frame.andThen (by decide) ?_ | with_reducible refine wr_frame.andThen (by decide) ?_ | with_reducible refine event_frame.andThen (by decide) ?_ | intro _ | (split <;> try dsimp only)

theorem hemAct_frame {h : Hem} {s : State} : Frame [.wire, .free, .mode, .line, .keys, .intc, .perf, .paces, .serial, .robins, .marks, .table, .drovers, .gate, .msgs, .regs] s (hemAct h s) := by
  dsimp only [hemAct]
  repeat' first | with_reducible exact Frame.refl | with_reducible assumption | with_reducible refine assignIdMsg_frame.andThen (by decide) ?_ | with_reducible refine assignEqdMsg_frame.andThen (by decide) ?_ | with_reducible refine routeParamsMsg_frame.andThen (by decide) ?_ | with_reducible refine deregisterMsg_frame.andThen (by decide) ?_ | with_reducible refine keyMessage_frame.andThen (by decide) ?_ | with_reducible refine wakeCondition_frame.andThen (by decide) ?_ | with_reducible refine timeEpochMsg_frame.andThen (by decide) ?_ | intro _ | (split <;> try dsimp only)

theorem hemBad_frame {idx : Nat} {o : Octets} {s : State} : Frame [.intc, .regs] s (hemBad idx o s) := by
  dsimp only [hemBad]
  repeat' first | with_reducible exact Frame.refl | with_reducible assumption | with_reducible refine fault_frame.andThen (by decide) ?_ | with_reducible refine bump_frame.andThen (by decide) ?_

theorem takeHem_frame {idx : Nat} {o : Octets} {s : State} : Frame [.wire, .free, .mode, .line, .keys, .reasm, .intc, .perf, .paces, .serial, .robins, .marks, .table, .drovers, .gate, .msgs, .rings, .regs] s (takeHem idx o s) := by
  dsimp only [takeHem]
  repeat' first | with_reducible exact Frame.refl | with_reducible assumption | with_reducible refine deregisterLate_frame.andThen (by decide) ?_ | with_reducible refine hemDeliver_frame.andThen (by decide) ?_ | with_reducible refine hemAct_frame.andThen (by decide) ?_ | with_reducible refine hemBad_frame.andThen (by decide) ?_ | with_reducible refine cutConvoy_frame.andThen (by decide) ?_ | intro _ | (split <;> try dsimp only)

theorem messageEff_frame {mine : HemCheck → Bool} {s : State} : Frame [.wire, .free, .mode, .line, .keys, .reasm, .intc, .perf, .paces, .serial, .robins, .marks, .table, .drovers, .gate, .msgs, .rings, .regs] s (messageEff mine s) := by
  dsimp only [messageEff]
  repeat' first | with_reducible exact Frame.refl | with_reducible assumption | with_reducible refine endConvoy_frame.andThen (by decide) ?_ | with_reducible refine takeHem_frame.andThen (by decide) ?_ | with_reducible refine hemNext_frame.andThen (by decide) ?_ | intro _ | (split <;> try dsimp only)

theorem segBad_frame {off : Nat} {s : State} : Frame [.line, .reasm, .intc, .regs] s (segBad off s) := by
  dsimp only [segBad]
  repeat' first | with_reducible exact Frame.refl | with_reducible assumption | with_reducible refine fault_frame.andThen (by decide) ?_ | with_reducible refine bump_frame.andThen (by decide) ?_ | with_reducible refine cutConvoy_frame.andThen (by decide) ?_

theorem segRestart_frame {h : SegHeader} {s : State} : Frame [.reasm, .intc, .regs] s (segRestart h s) := by
  dsimp only [segRestart]
  repeat' first | with_reducible exact Frame.refl | with_reducible assumption | with_reducible refine reasmDrop_frame.andThen (by decide) ?_ | with_reducible refine closeCtx_frame.andThen (by decide) ?_ | intro _ | (split <;> try dsimp only)

theorem unskip_frame {h : SegHeader} {s : State} : Frame [.reasm] s (unskip h s) := by
  dsimp only [unskip]
  repeat' first | with_reducible exact Frame.refl | with_reducible assumption | intro _ | with_reducible refine .with_reasm (by decide) ?_

theorem segPass_frame {h : SegHeader} {last : Bool} {s : State} : Frame [.reasm] s (segPass h last s) := by
  dsimp only [segPass]
  repeat' first | with_reducible exact Frame.refl | with_reducible assumption | with_reducible refine unskip_frame.andThen (by decide) ?_ | intro _ | (split <;> try dsimp only)

theorem skipKey_frame {h : SegHeader} {last : Bool} {s : State} : Frame [.reasm] s (skipKey h last s) := by
  dsimp only [skipKey]
  repeat' first | with_reducible exact Frame.refl | with_reducible assumption | with_reducible refine unskip_frame.andThen (by decide) ?_ | intro _ | with_reducible refine .with_reasm (by decide) ?_

theorem segDrop_frame {h : SegHeader} {reason : Nat} {s : State} : Frame [.reasm, .intc, .regs] s (segDrop h reason s) := by
  dsimp only [segDrop]
  repeat' first | with_reducible exact Frame.refl | with_reducible assumption | with_reducible refine reasmDrop_frame.andThen (by decide) ?_ | with_reducible refine closeCtx_frame.andThen (by decide) ?_ | with_reducible refine unskip_frame.andThen (by decide) ?_ | with_reducible refine skipKey_frame.andThen (by decide) ?_ | intro _ | (split <;> try dsimp only)

theorem segAbandon_frame {h : SegHeader} {reason : Nat} {s : State} : Frame [.reasm, .intc, .regs] s (segAbandon h reason s) := by
  dsimp only [segAbandon]
  repeat' first | with_reducible exact Frame.refl | with_reducible assumption | with_reducible refine segPass_frame.andThen (by decide) ?_ | with_reducible refine segDrop_frame.andThen (by decide) ?_ | intro _ | (split <;> try dsimp only)

theorem segClear_frame {h : SegHeader} {p : Bytes} {s : State} : Frame [.free, .keys, .intc, .regs] s (segClear h p s).2 := by
  dsimp only [segClear]
  repeat' first | with_reducible exact Frame.refl | with_reducible assumption | with_reducible refine fault_frame.andThen (by decide) ?_ | with_reducible refine draw1_frame.andThen (by decide) ?_ | intro _ | (split <;> try dsimp only) | with_reducible refine .with_keys (by decide) ?_

theorem reasmDeliver_frame {tid : Nat} {flow : Nat} {b : Bytes} {stamp : DWord} {steps : Nat} {s : State} : Frame [.serial, .cls, .flights, .regs] s (reasmDeliver tid flow b stamp steps s) := by
  dsimp only [reasmDeliver]
  repeat' first | with_reducible exact Frame.refl | with_reducible assumption | with_reducible refine startFlight_frame.andThen (by decide) ?_ | with_reducible refine winCount_frame.andThen (by decide) ?_ | with_reducible refine bump_frame.andThen (by decide) ?_

theorem segWhole_frame {h : SegHeader} {b : Bytes} {at_ : DWord × Nat} {s : State} : Frame [.reasm, .intc, .serial, .cls, .flights, .regs] s (segWhole h b at_ s) := by
  dsimp only [segWhole]
  repeat' first | with_reducible exact Frame.refl | with_reducible assumption | with_reducible refine segAbandon_frame.andThen (by decide) ?_ | with_reducible refine reasmDrop_frame.andThen (by decide) ?_ | with_reducible refine reasmDeliver_frame.andThen (by decide) ?_ | intro _ | (split <;> try dsimp only)

theorem segFirst_frame {h : SegHeader} {b : Bytes} {at_ : DWord × Nat} {s : State} : Frame [.reasm, .intc, .regs] s (segFirst h b at_ s) := by
  dsimp only [segFirst]
  repeat' first | with_reducible exact Frame.refl | with_reducible assumption | with_reducible refine segAbandon_frame.andThen (by decide) ?_ | intro _ | (split <;> try dsimp only) | with_reducible refine .with_reasm (by decide) ?_

theorem segLast_frame {c : Context} {b : Bytes} {s : State} : Frame [.reasm, .intc, .serial, .cls, .flights, .regs] s (segLast c b s) := by
  dsimp only [segLast]
  repeat' first | with_reducible exact Frame.refl | with_reducible assumption | with_reducible refine closeCtx_frame.andThen (by decide) ?_ | with_reducible refine reasmDrop_frame.andThen (by decide) ?_ | with_reducible refine reasmDeliver_frame.andThen (by decide) ?_ | intro _ | (split <;> try dsimp only)

theorem segMore_frame {h : SegHeader} {c : Context} {p : Bytes} {s : State} : Frame [.reasm, .intc, .serial, .cls, .flights, .regs] s (segMore h c p s) := by
  dsimp only [segMore]
  repeat' first | with_reducible exact Frame.refl | with_reducible assumption | with_reducible refine segAbandon_frame.andThen (by decide) ?_ | with_reducible refine segLast_frame.andThen (by decide) ?_ | intro _ | (split <;> try dsimp only) | with_reducible refine .with_reasm (by decide) ?_

theorem segReassemble_frame {h : SegHeader} {b : Bytes} {off : Nat} {s : State} : Frame [.reasm, .intc, .serial, .cls, .flights, .regs] s (segReassemble h b off s) := by
  dsimp only [segReassemble]
  repeat' first | with_reducible exact Frame.refl | with_reducible assumption | with_reducible refine unskip_frame.andThen (by decide) ?_ | with_reducible refine segWhole_frame.andThen (by decide) ?_ | with_reducible refine segFirst_frame.andThen (by decide) ?_ | with_reducible refine segMore_frame.andThen (by decide) ?_ | with_reducible refine segAbandon_frame.andThen (by decide) ?_ | intro _ | (split <;> try dsimp only)

theorem segSteps_frame {h : SegHeader} {payload : Option Bytes} {off : Nat} {s : State} : Frame [.free, .keys, .reasm, .intc, .serial, .cls, .flights, .regs] s (segSteps h payload off s) := by
  dsimp only [segSteps]
  repeat' first | with_reducible exact Frame.refl | with_reducible assumption | with_reducible refine segRestart_frame.andThen (by decide) ?_ | with_reducible refine segAbandon_frame.andThen (by decide) ?_ | with_reducible refine fault_frame.andThen (by decide) ?_ | with_reducible refine bump_frame.andThen (by decide) ?_ | with_reducible refine segClear_frame.andThen (by decide) ?_ | with_reducible refine segReassemble_frame.andThen (by decide) ?_ | with_reducible refine Frame.snd (by assumption) ?_ | with_reducible refine Frame.fst (by assumption) ?_ | intro _ | (split <;> try dsimp only)

theorem segNext_frame {off : Nat} {len : Nat} {s : State} : Frame [.line] s (segNext off len s) := by
  dsimp only [segNext]
  repeat' first | with_reducible exact Frame.refl | with_reducible assumption | intro _ | with_reducible refine .with_line (by decide) ?_

theorem segTake_frame {h : SegHeader} {off : Nat} {s : State} : Frame [.free, .line, .keys, .reasm, .intc, .serial, .cls, .flights, .regs] s (segTake h off s) := by
  dsimp only [segTake]
  repeat' first | with_reducible exact Frame.refl | with_reducible assumption | with_reducible refine segSteps_frame.andThen (by decide) ?_ | with_reducible refine endConvoy_frame.andThen (by decide) ?_ | with_reducible refine segNext_frame.andThen (by decide) ?_ | intro _ | (split <;> try dsimp only)

theorem segmentEff_frame {s : State} : Frame [.free, .line, .keys, .reasm, .intc, .serial, .cls, .flights, .regs] s (segmentEff s) := by
  dsimp only [segmentEff]
  repeat' first | with_reducible exact Frame.refl | with_reducible assumption | with_reducible refine endConvoy_frame.andThen (by decide) ?_ | with_reducible refine segBad_frame.andThen (by decide) ?_ | with_reducible refine segTake_frame.andThen (by decide) ?_ | intro _ | (split <;> try dsimp only)

theorem softResetEff_frame {v : Word} {s : State} : Frame [.wire, .power, .mode, .time, .line, .keys, .reasm, .intc, .host, .perf, .paces, .serial, .past, .turns, .cistern, .res, .queues, .robins, .marks, .table, .drovers, .store, .gate, .msgs, .parser, .cls, .flights, .ghosts, .toQueue, .toPort, .rings, .dmas, .scans, .ports, .loader, .regs] s (softResetEff v s) := by
  dsimp only [softResetEff]
  repeat' first | with_reducible exact Frame.refl | with_reducible assumption | with_reducible refine coreReset_frame.andThen (by decide) ?_ | with_reducible refine fault_frame.andThen (by decide) ?_ | intro _ | (split <;> try dsimp only)

theorem ringLost_frame {s : State} {x : Ring} : Frame [.cistern, .cls, .regs] s (ringLost s x) := by
  dsimp only [ringLost]
  repeat' first | with_reducible exact Frame.refl | with_reducible assumption | with_reducible refine releaseStamp_frame.andThen (by decide) ?_ | with_reducible refine freeItem_frame.andThen (by decide) ?_ | with_reducible apply Frame.foldl | intro _ | (split <;> try dsimp only)

theorem pgTimeoutEff_frame {s : State} : Frame [.wire, .power, .mode, .intc, .regs] s (pgTimeoutEff s) := by
  dsimp only [pgTimeoutEff]
  repeat' first | with_reducible exact Frame.refl | with_reducible assumption | with_reducible refine driveCoreEn_frame.andThen (by decide) ?_ | with_reducible refine fault_frame.andThen (by decide) ?_ | with_reducible refine wr_frame.andThen (by decide) ?_ | intro _ | with_reducible refine .with_mode (by decide) ?_

theorem keeperWakeEff_frame {s : State} : Frame [.wire, .power] s (keeperWakeEff s) := by
  dsimp only [keeperWakeEff]
  repeat' first | with_reducible exact Frame.refl | with_reducible assumption | with_reducible refine driveCoreEn_frame.andThen (by decide) ?_ | intro _ | (split <;> try dsimp only) | with_reducible refine .with_power (by decide) ?_

theorem leaveReset_frame {bootSel : BitVec 2} {addrSel : Bool} {flash : FlashId} {s : State} : Frame [.power, .mode, .intc, .flash, .regs] s (leaveReset bootSel addrSel flash s) := by
  dsimp only [leaveReset]
  repeat' first | with_reducible exact Frame.refl | with_reducible assumption | with_reducible refine fault_frame.andThen (by decide) ?_ | intro _ | (split <;> try dsimp only) | with_reducible refine .with_power_mode_flash (by decide) ?_

theorem keeperReset_frame {s : State} : Frame [.wire, .power, .mode, .keeper, .time, .line, .keys, .reasm, .intc, .host, .perf, .paces, .serial, .past, .turns, .cistern, .res, .queues, .robins, .marks, .table, .drovers, .store, .gate, .msgs, .parser, .cls, .flights, .ghosts, .toQueue, .toPort, .rings, .dmas, .scans, .ports, .loader, .regs] s (keeperReset s) := by
  dsimp only [keeperReset]
  repeat' first | with_reducible exact Frame.refl | with_reducible assumption | with_reducible refine coreReset_frame.andThen (by decide) ?_ | intro _ | with_reducible refine .with_keeper_host_regs (by decide) ?_

theorem hostReset_frame {s : State} : Frame [.intc, .host, .cistern, .cls, .rings, .dmas, .scans, .regs] s (hostReset s) := by
  dsimp only [hostReset]
  repeat' first | with_reducible exact Frame.refl | with_reducible assumption | with_reducible refine endScans_frame.andThen (by decide) ?_ | with_reducible refine ringLost_frame.andThen (by decide) ?_ | with_reducible apply Frame.foldl | intro _ | with_reducible refine .with_host_rings_dmas_regs (by decide) ?_

end Sys2Proof.Machine
end

