-- ==== Sys2Proof/Laws/FrameImage.lean ====
section
/-!
SUPPORT. Which fields of the state each function may change, for images, the register paths, the boot and the tick. No function leaves a canonical memory not canonical.
-/
namespace Sys2Proof.Machine

theorem imageRefuse_frame {r : Nat} {d : Nat} {at_ : Nat} {s : State} : Frame [.intc, .loader, .regs] s (imageRefuse r d at_ s) := by
  dsimp only [imageRefuse]
  repeat' first | with_reducible exact Frame.refl | with_reducible assumption | with_reducible refine fault_frame.andThen (by decide) ?_ | with_reducible refine event_frame.andThen (by decide) ?_ | intro _ | with_reducible refine .with_loader (by decide) ?_

theorem setLoader_frame {st : LoaderState} {s : State} : Frame [.loader] s (setLoader st s) := by
  dsimp only [setLoader]
  repeat' first | with_reducible exact Frame.refl | with_reducible assumption | intro _ | with_reducible refine .with_loader (by decide) ?_

theorem imageGo_frame {s : State} : Frame [.intc, .loader, .regs] s (imageGo s) := by
  dsimp only [imageGo]
  repeat' first | with_reducible exact Frame.refl | with_reducible assumption | with_reducible refine imageRefuse_frame.andThen (by decide) ?_ | with_reducible refine setLoader_frame.andThen (by decide) ?_ | intro _ | (split <;> try dsimp only)

theorem imageCmdEff_frame {v : Word} {s : State} : Frame [.intc, .loader, .regs] s (imageCmdEff v s) := by
  dsimp only [imageCmdEff]
  repeat' first | with_reducible exact Frame.refl | with_reducible assumption | with_reducible refine wrField_frame.andThen (by decide) ?_ | with_reducible refine imageGo_frame.andThen (by decide) ?_ | with_reducible refine imageRefuse_frame.andThen (by decide) ?_ | intro _ | (split <;> try dsimp only)

theorem flashFails_frame {f : Flash} {s : State} : Frame [.intc, .flash, .loader, .regs] s (flashFails f s) := by
  dsimp only [flashFails]
  repeat' first | with_reducible exact Frame.refl | with_reducible assumption | with_reducible refine fault_frame.andThen (by decide) ?_ | with_reducible refine setLoader_frame.andThen (by decide) ?_ | intro _ | with_reducible refine .with_flash_loader (by decide) ?_

theorem commandFails_frame {r : Nat} {d : Nat} {at_ : Nat} {s : State} : Frame [.intc, .loader, .regs] s (commandFails r d at_ s) := by
  dsimp only [commandFails]
  repeat' first | with_reducible exact Frame.refl | with_reducible assumption | with_reducible refine setLoader_frame.andThen (by decide) ?_ | with_reducible refine fault_frame.andThen (by decide) ?_ | with_reducible refine imageRefuse_frame.andThen (by decide) ?_ | intro _ | (split <;> try dsimp only) | with_reducible refine .with_loader (by decide) ?_

theorem classCancelEff_frame {s : State} : Frame [.intc, .cls, .loader, .regs] s (classCancelEff s) := by
  dsimp only [classCancelEff]
  repeat' first | with_reducible exact Frame.refl | with_reducible assumption | with_reducible refine commandFails_frame.andThen (by decide) ?_ | with_reducible refine withdraw_frame.andThen (by decide) ?_ | intro _ | (split <;> try dsimp only) | with_reducible refine .with_cls (by decide) ?_

theorem abortNow_frame {s : State} {t : Nat} : Frame [.perf, .robins, .marks, .drovers, .gate, .msgs, .regs] s (abortNow s t) := by
  dsimp only [abortNow]
  repeat' first | with_reducible exact Frame.refl | with_reducible assumption | with_reducible refine setDrover_frame.andThen (by decide) ?_ | with_reducible refine takeAbort_frame.andThen (by decide) ?_ | intro _ | (split <;> try dsimp only)

theorem derivePrio_frame {s : State} {aid : Nat} : Frame [.regs] s (derivePrio s aid) := by
  dsimp only [derivePrio]
  repeat' first | with_reducible exact Frame.refl | with_reducible assumption | with_reducible refine wr_frame.andThen (by decide) ?_

theorem loadAid_frame {s : State} {e : Word × Nat} : Frame [.regs] s (loadAid s e) := by
  dsimp only [loadAid]
  repeat' first | with_reducible exact Frame.refl | with_reducible assumption | with_reducible refine derivePrio_frame.andThen (by decide) ?_ | with_reducible refine wr_frame.andThen (by decide) ?_ | intro _ | (split <;> try dsimp only)

theorem loadQueue_frame {s : State} {e : Nat × List Word} : Frame [.regs] s (loadQueue s e) := by
  dsimp only [loadQueue]
  repeat' first | with_reducible exact Frame.refl | with_reducible assumption | with_reducible refine wr_frame.andThen (by decide) ?_

theorem loadQueues_frame {d : ImageData} {s : State} : Frame [.regs] s (loadQueues d s) := by
  dsimp only [loadQueues]
  repeat' first | with_reducible exact Frame.refl | with_reducible assumption | with_reducible refine loadAid_frame.andThen (by decide) ?_ | with_reducible refine loadQueue_frame.andThen (by decide) ?_ | with_reducible refine wr_frame.andThen (by decide) ?_ | with_reducible apply Frame.foldl | intro _ | with_reducible refine .with_regs (by decide) ?_

theorem beginRules_frame {d : ImageData} {s : State} : Frame [.cls, .regs] s (beginRules d s) := by
  dsimp only [beginRules]
  repeat' first | with_reducible exact Frame.refl | with_reducible assumption | with_reducible refine startWaiting_frame.andThen (by decide) ?_ | intro _ | with_reducible refine .with_cls (by decide) ?_

theorem enterLoading_frame {s : State} : Frame [.mode] s (enterLoading s) := by
  dsimp only [enterLoading]
  repeat' first | with_reducible exact Frame.refl | with_reducible assumption | intro _ | (split <;> try dsimp only) | with_reducible refine .with_mode (by decide) ?_

theorem loadCorr_frame {d : ImageData} {s : State} {p : Nat} : Frame [.past, .regs] s (loadCorr d s p) := by
  dsimp only [loadCorr]
  repeat' first | with_reducible exact Frame.refl | with_reducible assumption | with_reducible refine keepPast_frame.andThen (by decide) ?_ | with_reducible refine wr_frame.andThen (by decide) ?_ | with_reducible apply Frame.foldl | intro _

theorem flushTok_frame {s : State} {f : QFrame} : Frame [.cistern, .rings, .regs] s (flushTok s f) := by
  dsimp only [flushTok]
  repeat' first | with_reducible exact Frame.refl | with_reducible assumption | with_reducible refine flushFrame_frame.andThen (by decide) ?_ | with_reducible refine tsOutcome_frame.andThen (by decide) ?_

theorem flushTx_frame {s : State} {p : Nat} : Frame [.cistern, .rings, .ports, .regs] s (flushTx s p) := by
  dsimp only [flushTx]
  repeat' first | with_reducible exact Frame.refl | with_reducible assumption | with_reducible refine flushTok_frame.andThen (by decide) ?_ | with_reducible refine setPort_frame.andThen (by decide) ?_ | with_reducible apply Frame.foldl | intro _

theorem loadParser_frame {p : Parser} {s : State} : Frame [.parser] s (loadParser p s) := by
  dsimp only [loadParser]
  repeat' first | with_reducible exact Frame.refl | with_reducible assumption | intro _ | with_reducible refine .with_parser (by decide) ?_

theorem loadPriv_frame {r : RuleSet} {s : State} : Frame [.cls, .regs] s (loadPriv r s) := by
  dsimp only [loadPriv]
  repeat' first | with_reducible exact Frame.refl | with_reducible assumption | with_reducible refine wr_frame.andThen (by decide) ?_ | with_reducible refine setBucket_frame.andThen (by decide) ?_ | with_reducible apply Frame.foldl | intro _

theorem loadRules_frame {r : RuleSet} {s : State} : Frame [.cls, .regs] s (loadRules r s) := by
  dsimp only [loadRules]
  repeat' first | with_reducible exact Frame.refl | with_reducible assumption | with_reducible refine loadPriv_frame.andThen (by decide) ?_ | with_reducible apply Frame.foldl | intro _ | with_reducible refine .with_cls (by decide) ?_

theorem commandDone_frame {st : LoaderState} {s : State} : Frame [.loader, .regs] s (commandDone st s) := by
  dsimp only [commandDone]
  repeat' first | with_reducible exact Frame.refl | with_reducible assumption | with_reducible refine event_frame.andThen (by decide) ?_ | with_reducible refine setLoader_frame.andThen (by decide) ?_

theorem appliedEff_frame {version : Word} {part_ : Bool} {s : State} : Frame [.loader, .regs] s (appliedEff version part_ s) := by
  dsimp only [appliedEff]
  repeat' first | with_reducible exact Frame.refl | with_reducible assumption | with_reducible refine commandDone_frame.andThen (by decide) ?_ | intro _ | with_reducible refine .with_loader (by decide) ?_

theorem divideCistern_frame {pool : Nat} {reserve : Nat} {s : State} : Frame [.cistern, .regs] s (divideCistern pool reserve s) := by
  dsimp only [divideCistern]
  repeat' first | with_reducible exact Frame.refl | with_reducible assumption | with_reducible refine wr_frame.andThen (by decide) ?_ | intro _ | with_reducible refine .with_cistern (by decide) rfl ?_

theorem loadTiming_frame {d : ImageData} {s : State} : Frame [.past, .loader, .regs] s (loadTiming d s) := by
  dsimp only [loadTiming]
  repeat' first | with_reducible exact Frame.refl | with_reducible assumption | with_reducible refine loadCorr_frame.andThen (by decide) ?_ | with_reducible refine wr_frame.andThen (by decide) ?_ | with_reducible apply Frame.foldl | intro _ | (split <;> try dsimp only) | with_reducible refine .with_loader (by decide) ?_

theorem loadMicro_frame {d : ImageData} {s : State} : Frame [.drovers, .store] s (loadMicro d s) := by
  dsimp only [loadMicro]
  repeat' first | with_reducible exact Frame.refl | with_reducible assumption | with_reducible refine setDrover_frame.andThen (by decide) ?_ | with_reducible apply Frame.foldl | intro _ | with_reducible refine .with_store (by decide) ?_

theorem loadSections_frame {d : ImageData} {s : State} : Frame [.past, .drovers, .store, .parser, .cls, .loader, .regs] s (loadSections d s) := by
  dsimp only [loadSections]
  repeat' first | with_reducible exact Frame.refl | with_reducible assumption | with_reducible refine loadTiming_frame.andThen (by decide) ?_ | with_reducible refine loadMicro_frame.andThen (by decide) ?_ | with_reducible refine loadQueues_frame.andThen (by decide) ?_ | with_reducible refine loadRules_frame.andThen (by decide) ?_ | with_reducible refine loadParser_frame.andThen (by decide) ?_

theorem loadSpread_frame {x : Bytes} {s : State} : Frame [.regs] s (loadSpread x s) := by
  dsimp only [loadSpread]
  repeat' first | with_reducible exact Frame.refl | with_reducible assumption | with_reducible refine wr_frame.andThen (by decide) ?_ | with_reducible apply Frame.foldl | intro _

theorem loadPort_frame {x : Bytes} {s : State} {p : Nat} : Frame [.wire, .cistern, .ports, .regs] s (loadPort x s p) := by
  dsimp only [loadPort]
  repeat' first | with_reducible exact Frame.refl | with_reducible assumption | with_reducible refine event_frame.andThen (by decide) ?_ | with_reducible refine cutOff_frame.andThen (by decide) ?_ | with_reducible refine setPort_frame.andThen (by decide) ?_ | with_reducible refine wr_frame.andThen (by decide) ?_ | intro _ | (split <;> try dsimp only)

theorem loadCellMap_frame {x : Bytes} {s : State} {t : Nat} : Frame [.cistern, .cls, .flights, .ghosts, .rings, .regs] s (loadCellMap x s t) := by
  dsimp only [loadCellMap]
  repeat' first | with_reducible exact Frame.refl | with_reducible assumption | with_reducible refine wr_frame.andThen (by decide) ?_ | with_reducible refine fenceCell_frame.andThen (by decide) ?_ | with_reducible apply Frame.foldl | intro _

theorem loadChannel_frame {x : Bytes} {s : State} {ch : Nat} : Frame [.res, .regs] s (loadChannel x s ch) := by
  dsimp only [loadChannel]
  repeat' first | with_reducible exact Frame.refl | with_reducible assumption | with_reducible refine setChan_frame.andThen (by decide) ?_ | with_reducible refine wr_frame.andThen (by decide) ?_

theorem showLanes_frame {s : State} : Frame [.wire] s (showLanes s) := by
  dsimp only [showLanes]
  repeat' first | with_reducible exact Frame.refl | with_reducible assumption | with_reducible refine emit_frame.andThen (by decide) ?_

theorem loadStructure_frame {x : Bytes} {s : State} : Frame [.wire, .mode, .cistern, .res, .cls, .flights, .ghosts, .rings, .ports, .loader, .regs] s (loadStructure x s) := by
  dsimp only [loadStructure]
  repeat' first | with_reducible exact Frame.refl | with_reducible assumption | with_reducible refine loadSpread_frame.andThen (by decide) ?_ | with_reducible refine loadPort_frame.andThen (by decide) ?_ | with_reducible refine divideCistern_frame.andThen (by decide) ?_ | with_reducible refine loadCellMap_frame.andThen (by decide) ?_ | with_reducible refine wr_frame.andThen (by decide) ?_ | with_reducible refine loadChannel_frame.andThen (by decide) ?_ | with_reducible refine showSignals_frame.andThen (by decide) ?_ | with_reducible refine showLanes_frame.andThen (by decide) ?_ | with_reducible refine sendIdle_frame.andThen (by decide) ?_ | with_reducible apply Frame.foldl | intro _ | with_reducible refine .with_mode_loader (by decide) ?_

theorem flushContexts_frame {s : State} : Frame [.reasm, .regs] s (flushContexts s) := by
  dsimp only [flushContexts]
  repeat' first | with_reducible exact Frame.refl | with_reducible assumption | with_reducible refine bumpBy_frame.andThen (by decide) ?_ | intro _ | with_reducible refine .with_reasm (by decide) ?_

theorem flushAllQueues_frame {s : State} : Frame [.cistern, .res, .queues, .regs] s (flushAllQueues s) := by
  dsimp only [flushAllQueues]
  repeat' first | with_reducible exact Frame.refl | with_reducible assumption | with_reducible refine flushFrame_frame.andThen (by decide) ?_ | with_reducible apply Frame.foldl | intro _ | with_reducible refine .with_res_queues (by decide) ?_

theorem flushFlights_frame {s : State} : Frame [.cistern, .cls, .flights, .toQueue, .toPort, .rings, .regs] s (flushFlights s) := by
  dsimp only [flushFlights]
  repeat' first | with_reducible exact Frame.refl | with_reducible assumption | with_reducible refine bump_frame.andThen (by decide) ?_ | with_reducible refine dropFlight_frame.andThen (by decide) ?_ | with_reducible refine flushTok_frame.andThen (by decide) ?_ | with_reducible apply Frame.foldl | intro _ | with_reducible refine .with_toQueue (by decide) ?_ | with_reducible refine .with_toPort (by decide) ?_

theorem stopTraffic_frame {s : State} : Frame [.reasm, .intc, .perf, .cistern, .res, .queues, .robins, .marks, .table, .drovers, .gate, .msgs, .cls, .flights, .toQueue, .toPort, .rings, .ports, .regs] s (stopTraffic s) := by
  dsimp only [stopTraffic]
  repeat' first | with_reducible exact Frame.refl | with_reducible assumption | with_reducible refine withdrawBursts_frame.andThen (by decide) ?_ | with_reducible refine abortNow_frame.andThen (by decide) ?_ | with_reducible refine purge_frame.andThen (by decide) ?_ | with_reducible refine flushContexts_frame.andThen (by decide) ?_ | with_reducible refine flushTx_frame.andThen (by decide) ?_ | with_reducible refine flushAllQueues_frame.andThen (by decide) ?_ | with_reducible refine flushFlights_frame.andThen (by decide) ?_ | with_reducible refine withdraw_frame.andThen (by decide) ?_ | with_reducible refine event_frame.andThen (by decide) ?_ | with_reducible apply Frame.foldl | intro _ | (split <;> try dsimp only) | with_reducible refine .with_cls (by decide) ?_ | with_reducible refine .with_msgs (by decide) ?_

theorem deviceStart_frame {s : State} : Frame [.wire, .mode, .reasm, .intc, .perf, .past, .cistern, .res, .queues, .robins, .marks, .table, .drovers, .store, .gate, .msgs, .parser, .cls, .flights, .ghosts, .toQueue, .toPort, .rings, .scans, .ports, .loader, .regs] s (deviceStart s) := by
  dsimp only [deviceStart]
  repeat' first | with_reducible exact Frame.refl | with_reducible assumption | with_reducible refine setLoader_frame.andThen (by decide) ?_ | with_reducible refine loadSections_frame.andThen (by decide) ?_ | with_reducible refine loadStructure_frame.andThen (by decide) ?_ | with_reducible refine enterLoading_frame.andThen (by decide) ?_ | with_reducible refine stopTraffic_frame.andThen (by decide) ?_ | with_reducible refine endScans_frame.andThen (by decide) ?_

theorem storeFails_frame {s : State} : Frame [.intc, .flash, .loader, .regs] s (storeFails s) := by
  dsimp only [storeFails]
  repeat' first | with_reducible exact Frame.refl | with_reducible assumption | with_reducible refine flashFails_frame.andThen (by decide) ?_

theorem beginReload_frame {t : Nat} {s : State} : Frame [.perf, .robins, .marks, .drovers, .gate, .msgs, .regs] s (beginReload t s) := by
  dsimp only [beginReload]
  repeat' first | with_reducible exact Frame.refl | with_reducible assumption | with_reducible refine sendAbort_frame.andThen (by decide) ?_ | with_reducible refine setDrover_frame.andThen (by decide) ?_ | with_reducible refine enterReloading_frame.andThen (by decide) ?_ | intro _ | (split <;> try dsimp only)

theorem beginScope_frame {d : ImageData} {s : State} : Frame [.wire, .mode, .reasm, .intc, .perf, .past, .cistern, .res, .queues, .robins, .marks, .table, .drovers, .store, .gate, .msgs, .parser, .cls, .flights, .ghosts, .toQueue, .toPort, .rings, .scans, .ports, .loader, .regs] s (beginScope d s) := by
  dsimp only [beginScope]
  repeat' first | with_reducible exact Frame.refl | with_reducible assumption | with_reducible refine deviceStart_frame.andThen (by decide) ?_ | with_reducible refine setLoader_frame.andThen (by decide) ?_ | with_reducible refine loadCellMap_frame.andThen (by decide) ?_ | with_reducible refine beginReload_frame.andThen (by decide) ?_ | with_reducible refine beginRules_frame.andThen (by decide) ?_ | intro _ | (split <;> try dsimp only)

theorem floorDoneEff_frame {s : State} : Frame [.fuses, .loader, .regs] s (floorDoneEff s) := by
  dsimp only [floorDoneEff]
  repeat' first | with_reducible exact Frame.refl | with_reducible assumption | with_reducible refine commandDone_frame.andThen (by decide) ?_ | intro _ | (split <;> try dsimp only) | with_reducible refine .with_fuses (by decide) ?_

theorem trainingEff_frame {ch : Nat} {fitted : Nat} {trains : List Nat} {s : State} : Frame [.intc, .res, .loader, .regs] s (trainingEff ch fitted trains s) := by
  dsimp only [trainingEff]
  repeat' first | with_reducible exact Frame.refl | with_reducible assumption | with_reducible refine setChan_frame.andThen (by decide) ?_ | with_reducible refine wr_frame.andThen (by decide) ?_ | with_reducible refine fault_frame.andThen (by decide) ?_ | with_reducible refine commandFails_frame.andThen (by decide) ?_ | intro _ | (split <;> try dsimp only) | with_reducible refine .with_loader (by decide) ?_

theorem instantEff_frame {s : State} : Frame [.cls, .loader, .regs] s (instantEff s) := by
  dsimp only [instantEff]
  repeat' first | with_reducible exact Frame.refl | with_reducible assumption | with_reducible refine loadPriv_frame.andThen (by decide) ?_ | with_reducible refine commitInstantEff_frame.andThen (by decide) ?_ | with_reducible refine appliedEff_frame.andThen (by decide) ?_ | intro _ | (split <;> try dsimp only) | with_reducible refine .with_cls (by decide) ?_

theorem flashStored_frame {f : Flash} {s : State} : Frame [.flash, .loader] s (flashStored f s) := by
  dsimp only [flashStored]
  repeat' first | with_reducible exact Frame.refl | with_reducible assumption | with_reducible refine setLoader_frame.andThen (by decide) ?_ | intro _ | with_reducible refine .with_flash_loader (by decide) ?_

theorem storeStep_frame {s : State} : Frame [.flash, .loader] s (storeStep s) := by
  dsimp only [storeStep]
  repeat' first | with_reducible exact Frame.refl | with_reducible assumption | intro _ | (split <;> try dsimp only) | with_reducible refine .with_flash_loader (by decide) ?_

theorem storeSteps_frame {n : Nat} {s : State} : Frame [.flash, .loader] s (storeSteps n s) := by
  dsimp only [storeSteps]
  repeat' first | with_reducible exact Frame.refl | with_reducible assumption | with_reducible refine storeStep_frame.andThen (by decide) ?_ | with_reducible apply Frame.foldl | intro _

theorem flashDoneEff_frame {ok : Bool} {step : Nat} {s : State} : Frame [.intc, .flash, .loader, .regs] s (flashDoneEff ok step s) := by
  dsimp only [flashDoneEff]
  repeat' first | with_reducible exact Frame.refl | with_reducible assumption | with_reducible refine flashStored_frame.andThen (by decide) ?_ | with_reducible refine flashFails_frame.andThen (by decide) ?_ | with_reducible refine storeFails_frame.andThen (by decide) ?_ | with_reducible refine storeSteps_frame.andThen (by decide) ?_ | with_reducible refine event_frame.andThen (by decide) ?_ | intro _ | (split <;> try dsimp only)

theorem reloadQueue_frame {d : ImageData} {s : State} {q : Nat} : Frame [.cistern, .res, .queues, .regs] s (reloadQueue d s q) := by
  dsimp only [reloadQueue]
  repeat' first | with_reducible exact Frame.refl | with_reducible assumption | with_reducible refine bumpBy_frame.andThen (by decide) ?_ | with_reducible refine emptyQueue_frame.andThen (by decide) ?_ | with_reducible refine bump_frame.andThen (by decide) ?_ | with_reducible refine discardFrame_frame.andThen (by decide) ?_ | with_reducible refine evalPressure_frame.andThen (by decide) ?_ | with_reducible refine wr_frame.andThen (by decide) ?_ | intro _ | (split <;> try dsimp only)

theorem loadStore_frame {d : ImageData} {t : Nat} {s : State} : Frame [.drovers, .store, .regs] s (loadStore d t s) := by
  dsimp only [loadStore]
  repeat' first | with_reducible exact Frame.refl | with_reducible assumption | with_reducible refine wr_frame.andThen (by decide) ?_ | with_reducible refine setDrover_frame.andThen (by decide) ?_ | intro _ | with_reducible refine .with_store (by decide) ?_

theorem reloadCommitEff_frame {s : State} : Frame [.cistern, .res, .queues, .drovers, .store, .loader, .regs] s (reloadCommitEff s) := by
  dsimp only [reloadCommitEff]
  repeat' first | with_reducible exact Frame.refl | with_reducible assumption | with_reducible refine reloadQueue_frame.andThen (by decide) ?_ | with_reducible refine derivePrio_frame.andThen (by decide) ?_ | with_reducible refine appliedEff_frame.andThen (by decide) ?_ | with_reducible refine loadStore_frame.andThen (by decide) ?_ | with_reducible apply Frame.foldl | intro _ | (split <;> try dsimp only)

theorem readingHangs_frame {s : State} : Frame [.loader] s (readingHangs s) := by
  dsimp only [readingHangs]
  repeat' first | with_reducible exact Frame.refl | with_reducible assumption | intro _ | with_reducible refine .with_loader (by decide) ?_

theorem checkedEff_frame {s : State} : Frame [.wire, .mode, .reasm, .intc, .perf, .past, .cistern, .res, .queues, .robins, .marks, .table, .drovers, .store, .gate, .msgs, .parser, .cls, .flights, .ghosts, .toQueue, .toPort, .rings, .scans, .ports, .loader, .regs] s (checkedEff s) := by
  dsimp only [checkedEff]
  repeat' first | with_reducible exact Frame.refl | with_reducible assumption | with_reducible refine commandFails_frame.andThen (by decide) ?_ | with_reducible refine deviceStart_frame.andThen (by decide) ?_ | with_reducible refine commandDone_frame.andThen (by decide) ?_ | with_reducible refine beginScope_frame.andThen (by decide) ?_ | intro _ | (split <;> try dsimp only)

theorem stagedEff_frame {r : Reply} {s : State} : Frame [.intc, .loader, .regs] s (stagedEff r s) := by
  dsimp only [stagedEff]
  repeat' first | with_reducible exact Frame.refl | with_reducible assumption | with_reducible refine commandFails_frame.andThen (by decide) ?_ | with_reducible refine setLoader_frame.andThen (by decide) ?_ | intro _ | (split <;> try dsimp only) | with_reducible refine .with_loader (by decide) ?_

theorem stagedReply_frame {r : Reply} {s : State} : Frame [.wire, .intc, .host, .loader, .regs] s (stagedReply r s) := by
  unfold stagedReply
  split
  · split
    · exact .refl
    · exact answered_frame (fun _ => hostRd_frame.weaken (by decide)) (fun _ => stagedEff_frame.weaken (by decide))
        (fun _ => readingHangs_frame.weaken (by decide)) (by decide)
  · exact (Frame.with_loader (by decide) .refl).trans (stagedEff_frame.weaken (by decide))

theorem readMirror_frame {path : Nat} {a : Nat} {b : Nat} {s : State} : Frame [.host] s (readMirror path a b s).2 := by
  dsimp only [readMirror]
  repeat' first | with_reducible exact Frame.refl | with_reducible assumption | with_reducible refine setLatch_frame.andThen (by decide) ?_ | intro _ | (split <;> try dsimp only)

theorem readWindow_frame {path : Nat} {a : Nat} {s : State} : Frame [.host] s (readWindow path a s).2 := by
  dsimp only [readWindow]
  repeat' first | with_reducible exact Frame.refl | with_reducible assumption | with_reducible refine readMirror_frame.andThen (by decide) ?_ | with_reducible refine Frame.snd (by assumption) ?_ | with_reducible refine Frame.fst (by assumption) ?_ | intro _ | (split <;> try dsimp only)

theorem perfSelEff_frame {h : RegHit} {a : Nat} {v : Word} {s : State} : Frame [.regs] s (perfSelEff h a v s) := by
  dsimp only [perfSelEff]
  repeat' first | with_reducible exact Frame.refl | with_reducible assumption | with_reducible refine wrField_frame.andThen (by decide) ?_

theorem unmapped_frame {a : Nat} {write : Bool} {s : State} : Frame [.intc, .regs] s (unmapped a write s) := by
  dsimp only [unmapped]
  repeat' first | with_reducible exact Frame.refl | with_reducible assumption | with_reducible refine fault_frame.andThen (by decide) ?_ | intro _ | (split <;> try dsimp only)

theorem faultsAfter_frame {a : Nat} {v : Word} {s : State} : Frame [.regs] s (faultsAfter a v s) := by
  dsimp only [faultsAfter]
  repeat' first | with_reducible exact Frame.refl | with_reducible assumption | with_reducible refine capture_frame.andThen (by decide) ?_ | with_reducible apply Frame.foldl | intro _ | (split <;> try dsimp only)

theorem plainWrite_frame {h : RegHit} {a : Nat} {v : Word} {s : State} : Frame [.host, .regs] s (plainWrite h a v s) := by
  dsimp only [plainWrite]
  repeat' first | with_reducible exact Frame.refl | with_reducible assumption | with_reducible refine faultsAfter_frame.andThen (by decide) ?_ | with_reducible refine wrField_frame.andThen (by decide) ?_ | with_reducible refine takeHi_frame.andThen (by decide) ?_ | with_reducible refine stageLo_frame.andThen (by decide) ?_ | intro _ | (split <;> try dsimp only)

theorem plainUnless_frame {p : Bool} {h : RegHit} {a : Nat} {v : Word} {s : State} : Frame [.host, .regs] s (plainUnless p h a v s) := by
  dsimp only [plainUnless]
  repeat' first | with_reducible exact Frame.refl | with_reducible assumption | with_reducible refine plainWrite_frame.andThen (by decide) ?_ | intro _ | (split <;> try dsimp only)

theorem stateWrite_frame {a : Nat} {v : Word} {s : State} : Frame [.regs] s (stateWrite a v s) := by
  dsimp only [stateWrite]
  repeat' first | with_reducible exact Frame.refl | with_reducible assumption | with_reducible refine wrField_frame.andThen (by decide) ?_ | with_reducible refine wr_frame.andThen (by decide) ?_ | intro _ | (split <;> try dsimp only)

theorem txeqWrite_frame {a : Nat} {v : Word} {s : State} : Frame [.regs] s (txeqWrite a v s) := by
  dsimp only [txeqWrite]
  repeat' first | with_reducible exact Frame.refl | with_reducible assumption | with_reducible refine wrField_frame.andThen (by decide) ?_ | intro _ | (split <;> try dsimp only)

theorem datedWrite_frame {h : RegHit} {a : Nat} {v : Word} {s : State} : Frame [.host, .past, .regs] s (datedWrite h a v s) := by
  dsimp only [datedWrite]
  repeat' first | with_reducible exact Frame.refl | with_reducible assumption | with_reducible refine plainWrite_frame.andThen (by decide) ?_ | with_reducible refine keepPast_frame.andThen (by decide) ?_ | intro _ | (split <;> try dsimp only)

theorem commitCtlEff_frame {v : Word} {s : State} : Frame [.intc, .cls, .loader, .regs] s (commitCtlEff v s) := by
  dsimp only [commitCtlEff]
  repeat' first | with_reducible exact Frame.refl | with_reducible assumption | with_reducible refine classGoEff_frame.andThen (by decide) ?_ | with_reducible refine classCancelEff_frame.andThen (by decide) ?_ | intro _ | (split <;> try dsimp only)

theorem entryAt_of_some {α : Type} {l : List (Nat × α)} {b : Nat} {x : α} (e : entryAt l b = some x) : ∃ p ∈ l, p.2 = x := by
  unfold entryAt at e
  rw [Option.map_eq_some_iff] at e
  obtain ⟨p, hp, rfl⟩ := e
  exact ⟨p, List.mem_of_find?_eq_some hp, rfl⟩

/-- The frame of every entry of a table of register writes. -/
abbrev TableFrame (l : List (Nat × (RegHit → Nat → Word → State → State))) : Prop :=
  ∀ p ∈ l, ∀ h a v s, Frame [.wire, .free, .power, .mode, .keeper, .time, .line, .keys, .reasm, .intc, .host, .perf, .paces, .serial, .past, .turns, .cistern, .res, .queues, .robins, .marks, .table, .drovers, .store, .gate, .msgs, .parser, .cls, .flights, .ghosts, .toQueue, .toPort, .rings, .dmas, .scans, .ports, .loader, .regs] s (p.2 h a v s)

theorem writeTable_frame : TableFrame writeTable := by
  unfold writeTable TableFrame
  repeat' first | exact List.forall_mem_nil _ | refine List.forall_mem_cons.2 ⟨?_, ?_⟩
  all_goals (intro h a v s; dsimp only)
  all_goals (repeat' first | with_reducible exact Frame.refl | with_reducible refine modeCtlEff_frame.andThen (by decide) ?_ | with_reducible refine softResetEff_frame.andThen (by decide) ?_ | with_reducible refine rtcCtlEff_frame.andThen (by decide) ?_ | with_reducible refine keeperAlarmCtlEff_frame.andThen (by decide) ?_ | with_reducible refine keeperScCtlEff_frame.andThen (by decide) ?_ | with_reducible refine keeperLogSelEff_frame.andThen (by decide) ?_ | with_reducible refine imageCmdEff_frame.andThen (by decide) ?_ | with_reducible refine plainUnless_frame.andThen (by decide) ?_ | with_reducible refine intcHtStateEff_frame.andThen (by decide) ?_ | with_reducible refine intcHtIdleEff_frame.andThen (by decide) ?_ | with_reducible refine intcWatcherEff_frame.andThen (by decide) ?_ | with_reducible refine intcRetargetEff_frame.andThen (by decide) ?_ | with_reducible refine intcSwiEff_frame.andThen (by decide) ?_ | with_reducible refine intcSrcCfgEff_frame.andThen (by decide) ?_ | with_reducible refine intcCompletionEff_frame.andThen (by decide) ?_ | (split <;> try dsimp only) | with_reducible refine .with_keeper (by decide) ?_)

theorem writeTable2_frame : TableFrame writeTable2 := by
  unfold writeTable2 TableFrame
  repeat' first | exact List.forall_mem_nil _ | refine List.forall_mem_cons.2 ⟨?_, ?_⟩
  all_goals (intro h a v s; dsimp only)
  all_goals (repeat' first | with_reducible exact Frame.refl | with_reducible refine plainUnless_frame.andThen (by decide) ?_ | with_reducible refine checkCtlEff_frame.andThen (by decide) ?_ | with_reducible refine stateWrite_frame.andThen (by decide) ?_ | with_reducible refine dmaCtlEff_frame.andThen (by decide) ?_ | with_reducible refine ringCtlEff_frame.andThen (by decide) ?_ | with_reducible refine dbTailEff_frame.andThen (by decide) ?_ | with_reducible refine wrField_frame.andThen (by decide) ?_ | with_reducible refine servoCtlEff_frame.andThen (by decide) ?_ | with_reducible refine incrEff_frame.andThen (by decide) ?_ | with_reducible refine switchEff_frame.andThen (by decide) ?_ | with_reducible refine schedArmEff_frame.andThen (by decide) ?_ | (split <;> try dsimp only) | with_reducible refine .with_keeper (by decide) ?_)

theorem writeTable3_frame : TableFrame writeTable3 := by
  unfold writeTable3 TableFrame
  repeat' first | exact List.forall_mem_nil _ | refine List.forall_mem_cons.2 ⟨?_, ?_⟩
  all_goals (intro h a v s; dsimp only)
  all_goals (repeat' first | with_reducible exact Frame.refl | with_reducible refine linePmEff_frame.andThen (by decide) ?_ | with_reducible refine lineHgLeadEff_frame.andThen (by decide) ?_ | with_reducible refine gaspCtlEff_frame.andThen (by decide) ?_ | with_reducible refine preambleEff_frame.andThen (by decide) ?_ | with_reducible refine sbCmdEff_frame.andThen (by decide) ?_ | with_reducible refine txeqWrite_frame.andThen (by decide) ?_ | with_reducible refine datedWrite_frame.andThen (by decide) ?_ | with_reducible refine fcCtlEff_frame.andThen (by decide) ?_ | with_reducible refine statPresetEff_frame.andThen (by decide) ?_ | with_reducible refine commitCtlEff_frame.andThen (by decide) ?_ | with_reducible refine stageCmdEff_frame.andThen (by decide) ?_ | with_reducible refine classPrivEff_frame.andThen (by decide) ?_ | with_reducible refine qRecoverEff_frame.andThen (by decide) ?_ | with_reducible refine tallyCtlEff_frame.andThen (by decide) ?_ | with_reducible refine plainUnless_frame.andThen (by decide) ?_ | with_reducible refine accPresetEff_frame.andThen (by decide) ?_ | with_reducible refine queueWmEff_frame.andThen (by decide) ?_ | (split <;> try dsimp only) | with_reducible refine .with_keeper (by decide) ?_)

theorem writeTable4_frame : TableFrame writeTable4 := by
  unfold writeTable4 TableFrame
  repeat' first | exact List.forall_mem_nil _ | refine List.forall_mem_cons.2 ⟨?_, ?_⟩
  all_goals (intro h a v s; dsimp only)
  all_goals (repeat' first | with_reducible exact Frame.refl | with_reducible refine cellMapEff_frame.andThen (by decide) ?_ | with_reducible refine cellResetEff_frame.andThen (by decide) ?_ | with_reducible refine paceCtlEff_frame.andThen (by decide) ?_ | with_reducible refine draw1_frame.andThen (by decide) ?_ | with_reducible refine paceFixedEff_frame.andThen (by decide) ?_ | with_reducible refine droverRestartEff_frame.andThen (by decide) ?_ | with_reducible refine perfSelEff_frame.andThen (by decide) ?_ | with_reducible refine tractPresetEff_frame.andThen (by decide) ?_ | with_reducible refine snapEff_frame.andThen (by decide) ?_ | with_reducible refine cellPresetEff_frame.andThen (by decide) ?_ | (split <;> try dsimp only) | with_reducible refine .with_keeper (by decide) ?_)


theorem writeReg_frame {a : Nat} {v : Word} {s : State} : Frame [.wire, .free, .power, .mode, .keeper, .time, .line, .keys, .reasm, .intc, .host, .perf, .paces, .serial, .past, .turns, .cistern, .res, .queues, .robins, .marks, .table, .drovers, .store, .gate, .msgs, .parser, .cls, .flights, .ghosts, .toQueue, .toPort, .rings, .dmas, .scans, .ports, .loader, .regs] s (writeReg a v s) := by
  unfold writeReg
  split
  · exact unmapped_frame.weaken (by decide)
  · split
    · exact .refl
    · split
      · rename_i e
        obtain ⟨p, hp, rfl⟩ := entryAt_of_some e
        simp only [List.mem_append] at hp
        rcases hp with ((hp | hp) | hp) | hp
        · exact writeTable_frame p hp _ _ _ _
        · exact writeTable2_frame p hp _ _ _ _
        · exact writeTable3_frame p hp _ _ _ _
        · exact writeTable4_frame p hp _ _ _ _
      · refine plainWrite_frame.andThen (by decide) ?_
        split
        · exact keeperDue_frame.weaken (by decide)
        · exact .refl

theorem hostWriteEff_frame {off : Nat} {be : BitVec 4} {v : Word} {s : State} : Frame [.wire, .free, .power, .mode, .keeper, .time, .line, .keys, .reasm, .intc, .host, .perf, .paces, .serial, .past, .turns, .cistern, .res, .queues, .robins, .marks, .table, .drovers, .store, .gate, .msgs, .parser, .cls, .flights, .ghosts, .toQueue, .toPort, .rings, .dmas, .scans, .ports, .loader, .regs] s (hostWriteEff off be v s) := by
  dsimp only [hostWriteEff]
  repeat' first | with_reducible exact Frame.refl | with_reducible assumption | with_reducible refine fault_frame.andThen (by decide) ?_ | with_reducible refine writeReg_frame.andThen (by decide) ?_ | intro _ | (split <;> try dsimp only)

theorem keeperLatch_frame {path : Nat} {b : Nat} {s : State} : Frame [.keeper] s (keeperLatch path b s) := by
  dsimp only [keeperLatch]
  repeat' first | with_reducible exact Frame.refl | with_reducible assumption | intro _ | (split <;> try dsimp only) | with_reducible refine .with_keeper (by decide) ?_

theorem readLo_frame {path : Nat} {h : RegHit} {a : Nat} {s : State} : Frame [.keeper, .time, .host, .regs] s (readLo path h a s).2 := by
  dsimp only [readLo]
  repeat' first | with_reducible exact Frame.refl | with_reducible assumption | with_reducible refine todRead_frame.andThen (by decide) ?_ | with_reducible refine keeperLatch_frame.andThen (by decide) ?_ | with_reducible refine setLatch_frame.andThen (by decide) ?_ | with_reducible refine wr64_frame.andThen (by decide) ?_ | with_reducible refine Frame.snd (by assumption) ?_ | with_reducible refine Frame.fst (by assumption) ?_ | intro _ | (split <;> try dsimp only)

theorem clearRead_frame {a : Nat} {rc : Nat} {s : State} : Frame [.regs] s (clearRead a rc s) := by
  dsimp only [clearRead]
  repeat' first | with_reducible exact Frame.refl | with_reducible assumption | with_reducible refine wr_frame.andThen (by decide) ?_ | intro _ | (split <;> try dsimp only)

theorem mgtOffset_frame {off : BitVec 32} {f : State → State} {l : List Field} {s : State} (hf : ∀ s, Frame l s (f s))
    (hl : Field.sub [.wire] l = true) : Frame l s (mgtOffset off f s) := by
  unfold mgtOffset
  split
  · exact hf s
  · exact emit_frame.weaken hl

theorem readWord_frame {path : Nat} {h : RegHit} {a : Nat} {s : State} : Frame [.time, .perf, .regs] s (readWord path h a s).2 := by
  dsimp only [readWord]
  repeat' first | with_reducible exact Frame.refl | with_reducible assumption | with_reducible refine txqRead_frame.andThen (by decide) ?_ | with_reducible refine sampleRead_frame.andThen (by decide) ?_ | with_reducible refine summaryRead_frame.andThen (by decide) ?_ | with_reducible refine clearRead_frame.andThen (by decide) ?_ | with_reducible refine Frame.snd (by assumption) ?_ | with_reducible refine Frame.fst (by assumption) ?_ | intro _ | (split <;> try dsimp only)

theorem bar2Read_frame {off : Nat} {len : Nat} {u : Upset} {s : State} : Frame [.wire, .intc, .cistern, .regs] s (bar2Read off len u s) := by
  dsimp only [bar2Read]
  repeat' first | with_reducible exact Frame.refl | with_reducible assumption | with_reducible refine readRuns_frame.andThen (by decide) ?_ | with_reducible refine upset_frame.andThen (by decide) ?_ | with_reducible refine emit_frame.andThen (by decide) ?_

theorem readReg_frame {path : Nat} {a : Nat} {s : State} : Frame [.keeper, .time, .intc, .host, .perf, .regs] s (readReg path a s).2 := by
  dsimp only [readReg]
  repeat' first | with_reducible exact Frame.refl | with_reducible assumption | with_reducible refine unmapped_frame.andThen (by decide) ?_ | with_reducible refine readWindow_frame.andThen (by decide) ?_ | with_reducible refine readWord_frame.andThen (by decide) ?_ | with_reducible refine readLo_frame.andThen (by decide) ?_ | with_reducible refine Frame.snd (by assumption) ?_ | with_reducible refine Frame.fst (by assumption) ?_ | intro _ | (split <;> try dsimp only)

theorem readDwords_frame {path n a : Nat} {s : State} : Frame [.keeper, .time, .intc, .host, .perf, .regs] s (readDwords path n a s).2 := by
  induction n generalizing a s with
  | zero => exact .refl
  | succ n ih => exact Frame.trans (readReg_frame.weaken (by decide)) ih

theorem hostReadEff_frame {off : Nat} {len : Nat} {s : State} : Frame [.wire, .keeper, .time, .intc, .host, .perf, .regs] s (hostReadEff off len s) := by
  dsimp only [hostReadEff]
  repeat' first | with_reducible exact Frame.refl | with_reducible assumption | with_reducible refine readDwords_frame.andThen (by decide) ?_ | with_reducible refine emit_frame.andThen (by decide) ?_

theorem bar2Write_frame {off : Nat} {b : Bytes} {s : State} : Frame [.cistern, .regs] s (bar2Write off b s) := by
  dsimp only [bar2Write]
  repeat' first | with_reducible exact Frame.refl | with_reducible assumption | with_reducible refine writeRuns_frame.andThen (by decide) ?_

theorem mgtReadEff_frame {s : State} : Frame [.wire, .keeper, .time, .intc, .host, .perf, .regs] s (mgtReadEff s) := by
  dsimp only [mgtReadEff]
  repeat' first | with_reducible exact Frame.refl | with_reducible assumption | with_reducible refine readReg_frame.andThen (by decide) ?_ | with_reducible refine emit_frame.andThen (by decide) ?_ | with_reducible refine Frame.snd (by assumption) ?_ | with_reducible refine Frame.fst (by assumption) ?_ | intro _ | with_reducible refine .with_host (by decide) ?_

theorem loadHash_frame {d : ImageData} {s : State} : Frame [.regs] s (loadHash d s) := by
  dsimp only [loadHash]
  repeat' first | with_reducible exact Frame.refl | with_reducible assumption | with_reducible refine wr_frame.andThen (by decide) ?_ | with_reducible apply Frame.foldl | intro _

theorem loadPresets_frame {d : ImageData} {s : State} : Frame [.wire, .free, .power, .mode, .keeper, .time, .line, .keys, .reasm, .intc, .host, .perf, .paces, .serial, .past, .turns, .cistern, .res, .queues, .robins, .marks, .table, .drovers, .store, .gate, .msgs, .parser, .cls, .flights, .ghosts, .toQueue, .toPort, .rings, .dmas, .scans, .ports, .loader, .regs] s (loadPresets d s) := by
  dsimp only [loadPresets]
  repeat' first | with_reducible exact Frame.refl | with_reducible assumption | with_reducible refine writeReg_frame.andThen (by decide) ?_ | with_reducible apply Frame.foldl | intro _

theorem openChannel_frame {s : State} {ch : Nat} : Frame [.res] s (openChannel s ch) := by
  dsimp only [openChannel]
  repeat' first | with_reducible exact Frame.refl | with_reducible assumption | with_reducible refine setChan_frame.andThen (by decide) ?_

theorem loadEnd_frame {d : ImageData} {s : State} : Frame [.wire, .free, .power, .mode, .keeper, .time, .line, .keys, .reasm, .intc, .host, .perf, .paces, .serial, .past, .turns, .cistern, .res, .queues, .robins, .marks, .table, .drovers, .store, .gate, .msgs, .parser, .cls, .flights, .ghosts, .toQueue, .toPort, .rings, .dmas, .scans, .ports, .loader, .regs] s (loadEnd d s) := by
  dsimp only [loadEnd]
  repeat' first | with_reducible exact Frame.refl | with_reducible assumption | with_reducible refine loadHash_frame.andThen (by decide) ?_ | with_reducible refine loadPresets_frame.andThen (by decide) ?_ | with_reducible refine openChannel_frame.andThen (by decide) ?_ | with_reducible apply Frame.foldl | intro _

theorem schedDone_frame {n : Nat} {c : DWord} {s : State} : Frame [.time, .regs] s (schedDone n c s) := by
  dsimp only [schedDone]
  repeat' first | with_reducible exact Frame.refl | with_reducible assumption | with_reducible refine wr64_frame.andThen (by decide) ?_ | with_reducible refine wr_frame.andThen (by decide) ?_ | with_reducible refine setSched_frame.andThen (by decide) ?_

theorem schedEff_frame {n : Nat} {s : State} : Frame [.wire, .free, .power, .mode, .keeper, .time, .line, .keys, .reasm, .intc, .host, .perf, .paces, .serial, .past, .turns, .cistern, .res, .queues, .robins, .marks, .table, .drovers, .store, .gate, .msgs, .parser, .cls, .flights, .ghosts, .toQueue, .toPort, .rings, .dmas, .scans, .ports, .loader, .regs] s (schedEff n s) := by
  dsimp only [schedEff]
  repeat' first | with_reducible exact Frame.refl | with_reducible assumption | with_reducible refine schedDone_frame.andThen (by decide) ?_ | with_reducible refine event_frame.andThen (by decide) ?_ | with_reducible refine writeReg_frame.andThen (by decide) ?_ | intro _ | (split <;> try dsimp only)

theorem factoryBoot_frame {rom : RomCheck} {s : State} : Frame [.wire, .free, .mode, .reasm, .intc, .perf, .past, .cistern, .res, .queues, .robins, .marks, .table, .drovers, .store, .gate, .msgs, .parser, .cls, .flights, .ghosts, .toQueue, .toPort, .rings, .scans, .ports, .loader, .regs] s (factoryBoot rom s) := by
  dsimp only [factoryBoot]
  repeat' first | with_reducible exact Frame.refl | with_reducible assumption | with_reducible refine deviceStart_frame.andThen (by decide) ?_ | with_reducible refine commandFails_frame.andThen (by decide) ?_ | with_reducible refine draw1_frame.andThen (by decide) ?_ | intro _ | (split <;> try dsimp only)

theorem startBoot_frame {rom : RomCheck} {s : State} : Frame [.wire, .free, .mode, .reasm, .intc, .perf, .past, .cistern, .res, .queues, .robins, .marks, .table, .drovers, .store, .gate, .msgs, .parser, .cls, .flights, .ghosts, .toQueue, .toPort, .rings, .scans, .ports, .loader, .regs] s (startBoot rom s) := by
  dsimp only [startBoot]
  repeat' first | with_reducible exact Frame.refl | with_reducible assumption | with_reducible refine factoryBoot_frame.andThen (by decide) ?_ | with_reducible refine setLoader_frame.andThen (by decide) ?_ | with_reducible refine commandFails_frame.andThen (by decide) ?_ | intro _ | (split <;> try dsimp only) | with_reducible refine .with_loader (by decide) ?_

theorem sequenceEff_frame {rom : RomCheck} {s : State} : Frame [.wire, .free, .power, .mode, .reasm, .intc, .perf, .past, .cistern, .res, .queues, .robins, .marks, .table, .drovers, .store, .gate, .msgs, .parser, .cls, .flights, .ghosts, .toQueue, .toPort, .rings, .scans, .ports, .loader, .regs] s (sequenceEff rom s) := by
  dsimp only [sequenceEff]
  repeat' first | with_reducible exact Frame.refl | with_reducible assumption | with_reducible refine startBoot_frame.andThen (by decide) ?_ | intro _ | (split <;> try dsimp only) | with_reducible refine .with_power_mode (by decide) ?_

theorem bootForce_frame {d : ImageData} {s : State} : Frame [.free, .loader] s (bootForce d s) := by
  dsimp only [bootForce]
  repeat' first | with_reducible exact Frame.refl | with_reducible assumption | with_reducible refine setLoader_frame.andThen (by decide) ?_ | with_reducible refine draw1_frame.andThen (by decide) ?_ | intro _ | (split <;> try dsimp only) | with_reducible refine .with_loader (by decide) ?_

theorem leaveLoading_frame {s : State} : Frame [.wire, .free, .mode, .line, .keys, .intc, .perf, .paces, .robins, .marks, .table, .drovers, .gate, .msgs, .regs] s (leaveLoading s) := by
  dsimp only [leaveLoading]
  repeat' first | with_reducible exact Frame.refl | with_reducible assumption | with_reducible refine paceResume_frame.andThen (by decide) ?_ | with_reducible refine enterSilent_frame.andThen (by decide) ?_ | intro _ | (split <;> try dsimp only) | with_reducible refine .with_mode (by decide) ?_

theorem deviceEnd_frame {s : State} : Frame [.wire, .free, .power, .mode, .keeper, .time, .line, .keys, .reasm, .intc, .host, .perf, .paces, .serial, .past, .turns, .cistern, .res, .queues, .robins, .marks, .table, .drovers, .store, .gate, .msgs, .parser, .cls, .flights, .ghosts, .toQueue, .toPort, .rings, .dmas, .scans, .ports, .loader, .regs] s (deviceEnd s) := by
  dsimp only [deviceEnd]
  repeat' first | with_reducible exact Frame.refl | with_reducible assumption | with_reducible refine loadEnd_frame.andThen (by decide) ?_ | with_reducible refine bootForce_frame.andThen (by decide) ?_ | with_reducible refine appliedEff_frame.andThen (by decide) ?_ | with_reducible refine showSignals_frame.andThen (by decide) ?_ | with_reducible refine leaveLoading_frame.andThen (by decide) ?_ | intro _ | (split <;> try dsimp only) | with_reducible refine .with_loader (by decide) ?_

theorem tickDrover_frame {s : State} {t : Nat} : Frame [.robins, .drovers, .regs] s (tickDrover s t) := by
  dsimp only [tickDrover]
  repeat' first | with_reducible exact Frame.refl | with_reducible assumption | with_reducible refine setDrover_frame.andThen (by decide) ?_ | with_reducible refine ledgerAdd_frame.andThen (by decide) ?_ | intro _ | (split <;> try dsimp only)

theorem tickEdges_frame {s : State} : Frame [.wire, .gate, .regs] s (tickEdges s) := by
  unfold tickEdges
  have rise : ∀ (b : Bool) (x : DWord) (s : State), Frame [.wire, .gate, .regs] s (if b then emit { s with gate := { s.gate with high := true } } (.burstEn true x) else s) := by
    intro b x s
    split
    · exact emit_frame.andThen (by decide) (.with_gate (by decide) .refl)
    · exact .refl
  dsimp only
  refine (countRises_frame.weaken (by decide)).trans ?_
  split
  · exact .refl
  · split
    · exact emit_frame.andThen (by decide) (.with_gate (by decide) (rise _ _ _))
    · exact rise _ _ _

theorem tickDue_frame {s : State} : Frame [.wire, .power, .mode, .keeper, .intc, .regs] s (tickDue s) := by
  dsimp only [tickDue]
  repeat' first | with_reducible exact Frame.refl | with_reducible assumption | with_reducible refine keeperWakeEff_frame.andThen (by decide) ?_ | with_reducible refine quietDue_frame.andThen (by decide) ?_ | with_reducible refine keeperDue_frame.andThen (by decide) ?_

theorem holdNoted_frame {s : State} {t : Nat} : Frame [.paces] s (holdNoted s t) := by
  dsimp only [holdNoted]
  repeat' first | with_reducible exact Frame.refl | with_reducible assumption | with_reducible refine setPace_frame.andThen (by decide) ?_

theorem tickCell_frame {t : Nat} {s : State} {c : Nat} : Frame [.perf, .regs] s (tickCell t s c) := by
  dsimp only [tickCell]
  repeat' first | with_reducible exact Frame.refl | with_reducible assumption | with_reducible refine cellEvent_frame.andThen (by decide) ?_ | intro _ | (split <;> try dsimp only)

theorem tickTract_frame {s : State} {t : Nat} : Frame [.perf, .paces, .robins, .drovers, .regs] s (tickTract s t) := by
  dsimp only [tickTract]
  repeat' first | with_reducible exact Frame.refl | with_reducible assumption | with_reducible refine tickCell_frame.andThen (by decide) ?_ | with_reducible refine holdNoted_frame.andThen (by decide) ?_ | with_reducible refine tractEvent_frame.andThen (by decide) ?_ | with_reducible refine tickDrover_frame.andThen (by decide) ?_ | with_reducible apply Frame.foldl | intro _ | (split <;> try dsimp only)

theorem tickCore_frame {s : State} : Frame [.wire, .time, .perf, .paces, .cistern, .res, .robins, .drovers, .gate, .ports, .regs] s (tickCore s) := by
  dsimp only [tickCore]
  repeat' first | with_reducible exact Frame.refl | with_reducible assumption | with_reducible refine resRateTick_frame.andThen (by decide) ?_ | with_reducible refine txTick_frame.andThen (by decide) ?_ | with_reducible refine todDeadline_frame.andThen (by decide) ?_ | with_reducible refine ppsObserve_frame.andThen (by decide) ?_ | with_reducible refine ppsTick_frame.andThen (by decide) ?_ | with_reducible refine tickEdges_frame.andThen (by decide) ?_ | with_reducible refine clocksTick_frame.andThen (by decide) ?_ | with_reducible refine tickTract_frame.andThen (by decide) ?_ | with_reducible apply Frame.foldl | intro _

theorem tick_frame {s : State} : Frame [.wire, .now, .power, .mode, .keeper, .time, .line, .keys, .reasm, .intc, .host, .perf, .paces, .serial, .past, .turns, .cistern, .res, .queues, .robins, .marks, .table, .drovers, .store, .gate, .msgs, .parser, .cls, .flights, .ghosts, .toQueue, .toPort, .rings, .dmas, .scans, .ports, .loader, .regs] s (tick s) := by
  dsimp only [tick]
  repeat' first | with_reducible exact Frame.refl | with_reducible assumption | with_reducible refine keeperRun_frame.andThen (by decide) ?_ | with_reducible refine tickDue_frame.andThen (by decide) ?_ | with_reducible refine settle_frame.andThen (by decide) ?_ | with_reducible refine tickCore_frame.andThen (by decide) ?_ | with_reducible refine enterDormant_frame.andThen (by decide) ?_ | intro _ | (split <;> try dsimp only) | with_reducible refine .with_now (by decide) ?_

end Sys2Proof.Machine
end

