-- ==== Sys2Proof/Tests/Slice0.lean ====
section
/-!
SUPPORT. Tests of single steps, of the checks of WellFormed, and the witnesses of the statements: for each statement with hypotheses, states
and operands that meet them.
-/
open Sys2Proof Sys2Proof.Machine
namespace Sys2Proof.Tests
section
set_option Elab.async false

/-- The device with its core running, its supplies on and BAR0 open, in mode `m`. -/
def on (m : Mode := .provision) : State :=
  { power := { strapped := true, barOpen := true }, host := { perst := false }, mode := { mode := m } }

/-- `s` with registers set. -/
def withR (s : State) (l : List (Nat × Word)) : State := l.foldl (fun s e => wr s e.1 e.2) s

/-- The device running, with registers set. -/
def regs (l : List (Nat × Word)) : State := withR (on) l

/-- The command answers a next state of which `p` holds. -/
def after (c : Instr) (s : State) (p : State → Bool) : Bool := match exec c s with | .next t => p t | _ => false

/-- Octets with none erased. -/
def octets (b : Bytes) : Octets := b.map some

/-! ### WellFormed: an ill-formed command for each check, and one that is well formed -/

theorem wf_refuses_short_pulse_that_acts : (Instr.resetN 999 true).wf = false := by decide +kernel
theorem wf_refuses_long_pulse_that_does_not : (Instr.resetN 10000 false).wf = false := by decide +kernel
theorem wf_refuses_capacity : (Instr.channelTraining 0 4 []).wf = false ∧ (Instr.channelTraining 0 8 [12]).wf = false ∧
    (Instr.channelTraining 0 32 [11]).wf = true := by decide +kernel
theorem wf_refuses_tract_of_rail : (Instr.modeCommit [(8, ackOk)]).wf = false := by decide +kernel
theorem wf_refuses_boundary : (Instr.codeword 0 0 5600 0).wf = false ∧ (Instr.codeword 0 0 5599 0).wf = true := by decide +kernel
theorem wf_refuses_table_index : (Instr.mapEntry [65536]).wf = false ∧ (Instr.allotmentDue [65536]).wf = false ∧
    (Instr.mapEntry [65535]).wf = true := by decide +kernel
theorem wf_refuses_word_of_upset : (Instr.launchCommit none { bad := [25165824] }).wf = false ∧ (Instr.transmitFrame 0 { bad := [25165824] }).wf = false ∧
    (Instr.ringReceiveFrame 0 { bad := [25165824] }).wf = false ∧ (Instr.commit 0 { bad := [25165824] }).wf = false := by decide +kernel
theorem wf_refuses_page_number : (Instr.spill 0 true 7864320 {}).wf = false ∧ (Instr.spill 0 true 0 { bad := [25165824] }).wf = false := by decide +kernel
theorem wf_refuses_empty_frame : (Instr.receivedFrame 0 { bytes := [] }).wf = false := by decide +kernel
theorem wf_refuses_replica_upset : (Instr.headToken 0 { nodes := [64] }).wf = false ∧ (Instr.headToken 0 { rules := [16384] }).wf = false := by decide +kernel
theorem wf_refuses_granules : (Instr.payloadComplete 0 [3, 3]).wf = false ∧ (Instr.payloadComplete 0 [786432]).wf = false := by decide +kernel
theorem wf_refuses_beats : (Instr.drawPageArrived 0 [512] 0 []).wf = false ∧ (Instr.drawPageArrived 0 [] 0 [786432]).wf = false := by decide +kernel
theorem wf_refuses_bar0 : (Instr.registerWrite 67108864 0xF 0).wf = false ∧ (Instr.rcRead 67108861 4).wf = false ∧ (Instr.loRead 0 0).wf = false := by
  decide +kernel
theorem wf_refuses_bar2 : (Instr.bar2Access 268435453 none 4 {}).wf = false ∧ (Instr.bar2Access 0 (some [1]) 2 {}).wf = false ∧
    (Instr.bar2Access 0 none 0 {}).wf = false ∧ (Instr.bar2Access 0 none 4 { bad := [25165824] }).wf = false := by decide +kernel
theorem wf_refuses_seven_samples : (Instr.scStateChange (List.replicate 7 0)).wf = false ∧ (Instr.scStateChange (List.replicate 8 0)).wf = true := by decide +kernel
theorem wf_refuses_readings : (Instr.tempUpdate (List.replicate 15 0)).wf = false := by decide +kernel
theorem wf_refuses_flash_step : (Instr.flashDone false 0).wf = false ∧ (Instr.flashDone false 4).wf = false := by decide +kernel
theorem wf_accepts : (Instr.resetN 1000 true).wf = true ∧ (Instr.bar2Access 268435452 none 4 {}).wf = true ∧ (Instr.flashDone false 3).wf = true := by
  decide +kernel

/-! ### Witnesses: for each statement with hypotheses, states and operands that meet those of every clause -/

theorem wit_StepRunsFront : (on).pending = [] ∧ step { on with pending := [.alarm] } = exec .alarm { on with pending := [] } := by
  constructor <;> rfl
theorem wit_IdleStepTicks : State.reset.pending = [] ∧
    (let s : State := { State.reset with power := { State.reset.power with coreUp := false } }; s.pending = [] ∧ running s = false ∧ falling s = false) ∧
    (on .dormant).pending = [] ∧ falling (on .dormant) = true ∧ (on).pending = [] ∧ running (keeperRun { tickDue on with now := 1 }) = true ∧
    (on).gate.edges = [] ∧ 0 ∈ tracts on ∧ hasB on = true ∧ hasB { on with fuses := { part := .dlb9708 } } = false ∧
    tickClass on 0 = some 3 ∧ tickClass { on with drovers := [(0, { st := .running })] } 0 = none ∧
    0 ≤ lead (reachNow on) 0 ∧ lead (reachNow on) 0x10000 < 0 ∧ joins on 0 = false ∧
    joins { on with gate := { bursts := [{ entry := { id := 4, kind := .range, aid := 5, len := 400, launch := some 0 }, launch := 0, kind := .range }] } } 0 = true := by
  decide +kernel
theorem wit_OnlyBarRangesStop : inBars .alarm = true ∧ inBars (.registerWrite (bar0End - 1) 0xF 0) = true ∧ inBars (.registerWrite bar0End 0xF 0) = false ∧
    inBars (.bar2Access (bar2End - 1) none 2 {}) = false := by decide +kernel
theorem wit_FaultRecordCaptures : (1 ≤ 30 ∧ 30 ≤ 30) ∧ (∀ p, Block.client 15 = .client p → p < 16) ∧ (∀ t, Block.tract 7 = .tract t → t < 8) ∧
    rbit on (Block.client 15).base 31 = false ∧ rbit (fault on (.tract 7) 1 0 0) (Block.tract 7).base 31 = true ∧
    (∀ b ∈ [Block.keeper, .client 15, .tract 7], barOpen (fault on b 30 0 0) = true ∧ absentAt (fault on b 30 0 0) b.base = false) ∧
    bit (0x80000000 : Word) 31 = true := by
  refine ⟨by decide, ?_, ?_, by decide +kernel, by decide +kernel, by decide +kernel, by decide⟩ <;> (intro _ h; injection h with h; omega)
/-- A fault and a write of 1 to FIRST_VALID at one instant: the fault is captured after the write (02 R117). -/
theorem test_first_valid_written_with_a_fault :
    after (.registerWrite Block.time.base 0xF 0x80000000) (fault (fault { on with now := 5 } .time 1 7 9) .time 3 8 4)
      (fun t => rbit t Block.time.base 31 && rbit t Block.time.base 3 && rd64 t (Block.time.base + 0x10) == 9) = true ∧
    after (.registerWrite Block.time.base 0xF 0x80000000) { fault { on with now := 5 } .time 1 7 9 with now := 6 }
      (fun t => !rbit t Block.time.base 31 && rbit t Block.time.base 1) = true := by decide +kernel
theorem wit_InterruptTargetRegisters : barOpen on = true ∧ sourceExists on 673 = true ∧ sourceExists on 674 = false ∧ bit (0x80000000 : Word) 31 = true ∧
    rfld on R.INTC_WATCHER 0 5 ≠ fld (31 : Word) 0 5 := by decide +kernel
theorem wit_CompletionClearsSources : barOpen on = true ∧ srcTarget on (32 * 20 + 31) = 0 ∧ bit (0x80000000 : Word) 31 = true ∧
    rd on R.INTC_STRANDED = 0 ∧ bit (0x10000 : Word) 16 = true := by decide +kernel
theorem wit_DeliveryAnnounces :
    let s : State := { regs [(R.INTC_HT_PRIV_MASK 0, 0), (R.INTC_HT_PRIV_MASK 31, 0)] with
      intc := { priv := [(0, 1), (31, 1)] }, host := { perst := false, msixOn := true, vectors := [(0, ⟨0x1000, 5, false⟩), (31, ⟨0, 0, false⟩)] } }
    running s = true ∧ wanted s 0 = true ∧ deferred s 0 = false ∧
    (∀ x ∈ s.turns, x.at_ = .message → x.winner = 0 → wanted s x.loser = true → deferred s x.loser = true) ∧
    (let t := { s with turns := [⟨.message, 0, 31⟩] }; ∃ x ∈ t.turns, x.at_ = .message ∧ x.winner = 0 ∧ wanted t x.loser = true ∧ deferred t x.loser = false) ∧
    (let t := { s with turns := [⟨.message, 0, 30⟩] }; ∀ x ∈ t.turns, x.at_ = .message → x.winner = 0 → wanted t x.loser = true → deferred t x.loser = true) ∧
    (let t := { s with intc := { s.intc with before := some { at_ := 0, cleared := [5] } } }
     wanted (beforeWrites t) 0 = true ∧ deferred (beforeWrites t) 0 = false ∧ (accessesOf t).cleared = [5] ∧ t.now = 0) := by
  decide +kernel
/-- A delivery takes the state as it was before a register access of its instant (12 R686): a completion of the only source still leaves the message. -/
theorem test_delivery_before_writes : let s : State := { regs [(R.INTC_HT_PRIV_MASK 0, 0)] with
      intc := { priv := [(0, 1)] }, host := { perst := false, msixOn := true, vectors := [(0, ⟨0, 0, false⟩)] } }
    after (.intcCompletion 0 none 1) s (fun u => after (.deliveryCommit 0) u (fun t => t.wire.length == u.wire.length + 1)
      && after (.deliveryCommit 0) { u with now := 1 } (fun t => t.wire == u.wire)) = true := by decide +kernel
/-- A message that lost its turn goes first: after target 0's message, target 31's goes and target 0's waits. -/
theorem test_message_turns : let s : State := { regs [(R.INTC_HT_PRIV_MASK 0, 0), (R.INTC_HT_PRIV_MASK 31, 0)] with
      intc := { priv := [(0, 1), (31, 1)] }, host := { perst := false, msixOn := true, vectors := [(31, ⟨0, 0, false⟩)] }, turns := [⟨.message, 0, 31⟩] }
    after (.deliveryCommit 0) s (fun t => t.wire.length == s.wire.length) = true ∧
    after (.deliveryCommit 31) s (fun t => t.wire == s.wire ++ [.msix 0 31 0 0]) = true := by decide +kernel
theorem wit_InterruptTimersEnd : let s := { on with intc := { timers := [(127, some 8)] }, now := 4 }
    running s = true ∧ look none s.intc.timers 127 = some 8 ∧ 8 ≤ 2 * s.now ∧ s.host.perst = false ∧ s.host.d3 = false ∧
    toBar4 .readPending = true ∧ toBar4 (.config .ids none) = false ∧
    let t := { regs [(R.INTC_STRAND_LIMIT, 1)] with intc := { strand := [(31, some 0)] }, now := 313 }
    running t = true ∧ strandDue t 31 = true := by decide +kernel
theorem wit_CoreResetKeepsKeeper : powered on = true ∧ 10000 ≤ 10000 ∧ 1000 ≤ 1000 ∧ 999 < 1000 ∧ 9999 < 10000 ∧
    powered { power := { coreUp := false } } = true ∧ powered { power := { coreUp := false, coreEn := false } } = false ∧
    barOpen on = true ∧ (0xA5A4 : Word) ≠ 0xA5A5 ∧ rbit on Block.global.base 31 = false := by decide +kernel
/-- A pulse of 10 us on a core that is powered and in reset shows its cause (17 R893). -/
theorem test_reset_pin_in_reset : after (.resetN 10000 true) { power := { coreUp := false, nextCause := 4 } } (·.power.nextCause == 2) = true := by
  decide +kernel
theorem wit_CorePowersUpAndLeavesReset :
    (let s : State := { power := { coreUp := false } }
     s.power.vkeep = true ∧ s.power.coreEn = true ∧ s.power.coreUp = false ∧ s.power.pgFrom = none ∧ (3 : BitVec 2) ≠ 2) ∧
    (let s : State := { power := { coreUp := false, pgFrom := some 5 }, now := 625005 }
     s.power.coreEn = true ∧ s.power.pgFrom = some 5 ∧ 5 + 625000 ≤ s.now ∧ 625004 < 5 + 625000) ∧
    (let s : Nat → State := fun b => { power := { strapped := true, straps := b } }
     running (s 3) = true ∧ (s 3).mode.mode = .resetting ∧ (s 3).power.barOpen = false ∧ (s 3).power.strapped = true ∧ (s 3).power.straps % 4 = 3 ∧
       (s 2).power.straps % 4 = 2 ∧ (s 1).power.straps % 4 = 1 ∧ (s 4).power.straps % 4 = 0 ∧ (directory (s 1)).isSome = false ∧
       (directory { s 1 with flash := putDir 0 (dirBytes 1 0 0 1 0) { ok := true } }).isSome = true) ∧
    (let s := { withR (on .dormant) [(R.KEEPER_WAKE_CAUSE, 0x10000), (R.KEEPER_WAKE_CTL, 0x10000)] with power := { coreEn := false, coreUp := false, enTicks := tenMs } }
     s.power.vkeep = true ∧ s.mode.mode = .dormant ∧ s.power.coreEn = false ∧ keeperWakeHolds s = true ∧ tenMs ≤ s.power.enTicks) ∧
    (let s := { withR (on .dormant) [(R.KEEPER_PWR_CTL, 1)] with power := { coreUp := false, pgWait := true, enTicks := 33 } }
     s.power.vkeep = true ∧ s.power.coreEn = true ∧ s.power.pgWait = true ∧ s.power.coreUp = false ∧
       32768 * zeroAsOne (rfld s R.KEEPER_PWR_CTL 0 16) < 1000 * s.power.enTicks) := by decide +kernel
theorem wit_HostResetScope : hostUp on = true ∧ let s := { on with host := { perst := false, d3 := true } }
    running s = true ∧ s.host.perst = false ∧ s.host.d3 = true := by decide +kernel
/-- A Function Level Reset in D3hot acts (10 R542). -/
theorem test_flr_in_d3hot : after .functionLevelReset { on with host := { perst := false, d3 := true } } (fun t => !t.host.d3) = true := by decide +kernel
/-- The flash is used where it is identified, described and 16 MiB or more (15 R762), and not below that. -/
theorem test_flash_identified : after (.coreLeavesReset 0 false ⟨true, true, 16777216⟩) { power := { coreUp := false } } (·.flash.ok) = true ∧
    after (.coreLeavesReset 0 false ⟨true, true, 16777215⟩) { power := { coreUp := false } } (fun t => !t.flash.ok) = true := by decide +kernel
/-- The device in a mode and substate, ranged or not, with a request. -/
def inMode (m : Mode) (sub : Sub := .listen) (r : Bool := false) (q : Option Mode := none) : State :=
  { regs (if r then [(R.LINE_EQD, 0xC0000000)] else []) with mode := { mode := m, sub := sub, request := q } }
theorem wit_ModeRequestRules :
    (∀ s ∈ [inMode .provision .listen false (some .service), inMode .loading, inMode .resetting], barOpen s = true ∧
      ((s.mode.request.isSome = true ∧ s.mode.auto = false) ∨ s.mode.mode = .loading ∨ s.mode.mode = .resetting)) ∧
    (∀ s ∈ [inMode .provision, inMode .hold, inMode .provision .silent, inMode .service, inMode .fallow, inMode .test, inMode .hold .listen true,
        inMode .provision .ranging true],
      barOpen s = true ∧ s.mode.request = none ∧ s.mode.mode ≠ .loading ∧ s.mode.mode ≠ .resetting ∧ s.mode.mode ≠ .dormant) ∧
    fld (5 : Word) 0 3 < 6 ∧ 6 ≤ fld (6 : Word) 0 3 ∧ 6 ≤ fld (7 : Word) 0 3 ∧ (inMode .service).mode.mode.code = fld (3 : Word) 0 3 ∧
    (inMode .provision).mode.sub ≠ .silent ∧ (inMode .provision .ranging true).mode.sub = .ranging ∧ ranged (inMode .provision .ranging true) = true ∧
    ranged (inMode .provision) = false ∧ ranged (inMode .hold) = false ∧ ranged (inMode .hold .listen true) = true ∧
    (inMode .provision .silent).mode.sub = .silent ∧ fld (4 : Word) 0 3 = 4 ∧ fld (0 : Word) 0 3 = 0 := by
  decide +kernel
theorem wit_ModeCommits :
    (let s := inMode .provision .registered true (some .service)
     running s = true ∧ s.mode.request = some .service ∧ s.mode.met = false ∧ refusal s .service = 0 ∧ movesRails s .service = false) ∧
    (let s := { inMode .service .registered true (some .fallow) with paces := [(0, { setpoint := 880 })] }
     running s = true ∧ s.mode.request = some .fallow ∧ s.mode.met = false ∧ refusal s .fallow = 0 ∧ movesRails s .fallow = true ∧ s.mode.rails = false ∧
       railsReady (railsMove .fallow [] s) = false ∧ railsReady (railsMove .fallow [] { s with now := 1000000, paces := [] }) = false ∧
       railsReady { railsMove .fallow [] s with now := 1000000 } = true ∧ (railsMove .fallow [] s).mode.rails = true ∧
       0 ∈ tracts s ∧ (pace s 0).st ≠ .stopped ∧ ackTaken (ackOf [] 0) = true ∧ ackTaken (ackOf [(0, ⟨0x20000000⟩)] 0) = false) ∧
    (let s := inMode .provision .listen false (some .service)
     running s = true ∧ s.mode.met = false ∧ refusal s .service ≠ 0) ∧
    (let s := inMode .provision .silent false (some .hold)
     { s with mode := { s.mode with met := true } }.mode.met = true) ∧
    (inMode .service).mode.request = none ∧ (inMode .service .listen false (some .dormant)).mode.request = some .dormant := by decide +kernel
/-- A commit of FALLOW first writes the rails, and commits once they have settled (16 R857). -/
theorem test_fallow_waits_for_rails : let s := { inMode .service .registered true (some .fallow) with paces := [(0, { setpoint := 880 })] }
    after (.modeCommit []) s (fun u => u.mode.mode == .service && (pace u 0).st == .fallow && (pace u 0).setpoint == paceFloor s 0
      && after (.modeCommit []) { u with now := 1000000 } (fun t => t.mode.mode == .fallow)) = true := by decide +kernel
theorem wit_KeeperClockCommands :
    (let s := { regs [(R.KEEPER_ALARM_CTL, 0x80000000), (R.KEEPER_ALARM, 5)] with keeper := { rtcSec := 5 } }
     rbit s R.KEEPER_ALARM_CTL 31 = true ∧ 4 ≠ s.keeper.rtcSec ∧ s.keeper.rtcSec = alarmSec s) ∧
    (let s := { on with keeper := { alarmDue := true, rtcSet := some (6, 5), ticks := 7, edgeTicks := 49152, quiet := 312500 } }
     s.power.vkeep = true ∧ s.keeper.alarmDue = true ∧ s.keeper.rtcSet = some (6, 5) ∧ 6 < s.keeper.ticks ∧ 49152 ≤ s.keeper.edgeTicks ∧ s.keeper.todHold = false ∧
       s.keeper.quiet = 312500 ∧ (on).keeper.quiet ≠ 312500 ∧ bit (0x80000000 : Word) 31 = true) ∧
    (let s := { regs [(R.KEEPER_ALARM_CTL, 0x80000000), (R.KEEPER_ALARM, 5)] with keeper := { rtcSec := 4, rtcSet := some (6, 5), ticks := 7 } }
     rbit s R.KEEPER_ALARM_CTL 31 = true ∧ atOrPast48 s.keeper.rtcSec (alarmSec s) = false ∧ atOrPast48 5 (alarmSec s) = true) := by
  decide +kernel
/-- The pair loaded is the one at the write of SET, also where the pair is written again before the tick (16 R818). -/
theorem test_rtc_set_keeps_its_pair :
    after (.registerWrite R.KEEPER_RTC_CTL 0xF 0x80000000) { regs [(R.KEEPER_RTC_SET, 5)] with keeper := { ticks := 6, sampled := true } } (fun u =>
      after .rtcSet { wr u R.KEEPER_RTC_SET 9 with keeper := { u.keeper with ticks := 7 } } (fun t => t.keeper.rtcSec == 5 && t.keeper.rtcSub == 0)
      && after .rtcSet u (fun t => t.keeper.rtcSec == u.keeper.rtcSec)) = true := by decide +kernel
theorem wit_KeeperRegisterWrites : let s := { regs [(R.KEEPER_ALARM, 5)] with keeper := { rtcSec := 5, logOld := [(63, 0, [9])] } }
    barOpen s = true ∧ { s with keeper := { s.keeper with alarmDue := true } }.keeper.alarmDue = true ∧ s.power.vkeep = true ∧ rtcSetDue s.keeper = false ∧
    (keeperDue s).keeper.logOld.find? (fun e => e.1 == fld (63 : Word) 0 6 && e.2.1 == (keeperDue s).keeper.ticks) = some (63, 0, [9]) ∧
    (∀ e ∈ (keeperDue s).keeper.logOld, e.1 = fld (62 : Word) 0 6 → e.2.1 ≠ (keeperDue s).keeper.ticks) ∧
    atOrPast48 (keeperDue s).keeper.rtcSec (alarmSec (keeperDue s)) = true ∧ atOrPast48 (on).keeper.rtcSec (alarmSec (regs [(R.KEEPER_ALARM, 5)])) = false ∧
    bit (0x80000000 : Word) 31 = true ∧ bit (0x7FFFFFFF : Word) 31 = false ∧ ((0x80000001 : Word) ^^^ rd (keeperDue s) (R.KEEPER_SC_CTL 7)) &&& 0x0FFFFFFF ≠ 0 := by
  decide +kernel
/-- Comparators 0 and 7 on, with thresholds 16, 32 and 224 and TRIP of DROPOUT, and FILTER 0. -/
def comparators : State :=
  { regs [(R.KEEPER_SC_CTL 0, 0xA0E02010), (R.KEEPER_SC_CTL 7, 0x90E02010), (R.LINE_GASP_CTL, 0x80000000)] with keeper := { sampled := false } }
theorem wit_SupplySampleRules : let s := comparators
    s.power.vkeep = true ∧ s.keeper.sampled = false ∧ { s with keeper := { s.keeper with sampled := true } }.keeper.sampled = true ∧
    rbit s (R.KEEPER_SC_CTL 0) 31 = true ∧ rbit s (R.KEEPER_SC_CTL 1) 31 = false ∧ rfld s (R.KEEPER_SC_FILT 0) 0 8 = 0 ∧
    (qualify (comparator s 0) (rd s (R.KEEPER_SC_CTL 0)) 0).qDrop = 1 ∧ (qualify (comparator s 7) (rd s (R.KEEPER_SC_CTL 7)) 31).qSag = 1 ∧
    (qualify { st := .dropout } (rd s (R.KEEPER_SC_CTL 0)) 100).qNormal = 1 ∧ (qualify { st := .sag } (rd s (R.KEEPER_SC_CTL 0)) 0).qDrop = 1 ∧
    running s = true ∧ rbit s R.LINE_GASP_CTL 31 = true ∧ s.keeper.trip.testBit 0 = false ∧
    inTrip { s with keeper := { s.keeper with scs := [(0, { st := .dropout })] } } 0 = true := by decide +kernel
/-- Two comparators change at one tick: two entries, the lower number first, and both in trip (16 R830, R836). -/
theorem test_two_comparators_at_one_tick : after (.scStateChange ((0 : Byte) :: List.replicate 6 100 ++ [31])) comparators (fun t =>
      t.keeper.logCount == 2 && ((look [] t.keeper.log 0).getD 0 0).extractLsb' 12 3 == 0 && ((look [] t.keeper.log 1).getD 0 0).extractLsb' 12 3 == 7
      && (comparator t 0).st == .dropout && (comparator t 7).st == .sag && rfld t R.LINE_GASP_CTL 0 8 == 0x81 && rbit t R.LINE_GASP_CTL 30) = true := by
  decide +kernel
/-- Domain A in a servo state. -/
def servo (st : Servo) (idle : Nat := 0) : State := { on with time := { doms := [(0, { st := st, idle := idle })] } }
/-- The part without domain B. -/
def partN : State := { on with fuses := { part := .dlb9708 } }
theorem wit_ServoControl : barOpen (servo .off) = true ∧ hasDomain (servo .off) false = true ∧ hasDomain on true = true ∧ (dom (servo .off) false).st = .off ∧
    (dom (servo .holdover) false).st = .holdover ∧ (dom (servo .lock) false).st = .lock ∧ (dom (servo .acquire) false).st ≠ .off ∧
    bit (0xC0000000 : Word) 31 = true ∧ bit (0x80000000 : Word) 30 = false ∧ barOpen partN = true ∧ hasDomain partN true = false ∧
    78125 * silentPeriods (servo .lock) false ≤ 2 * (dom (servo .lock 9999999) false).idle ∧
    (∀ st ∈ [Servo.off, .acquire, .lock, .holdover], (dom (servo st) false).st = st) ∧
    (let s := regs [(R.TIME_THRESH 0, 0x00040002), (R.TIME_LOCK 0, 0x00010200)]
     nsUnits (rfld s (R.TIME_THRESH 0) 16 16) < mag 0x50000000000 ∧ mag 0x100 ≤ nsUnits (rfld s (R.TIME_THRESH 0) 16 16) ∧
       mag 0x100 ≤ nsUnits (rfld s (R.TIME_THRESH 0) 0 16) ∧ nsUnits (rfld s (R.TIME_THRESH 0) 0 16) < mag 0x50000000000 ∧
       zeroAsOne (rfld s (R.TIME_LOCK 0) 8 8) ≤ 2 ∧ 1 < zeroAsOne (rfld s (R.TIME_LOCK 0) 8 8)) ∧
    (dom { on with time := { doms := [(0, { st := .holdover, cause := 1 })] } } false).cause = 1 ∧
    (dom { on with time := { doms := [(0, { st := .holdover, cause := 3 })] } } false).cause ≠ 1 := by decide +kernel
/-- A measurement in ACQUIRE beyond STEP steps the count, and one within it tunes (11 R617, R618). -/
theorem test_measurement_steps_or_tunes :
    (dom (measure { withR (servo .acquire) [(R.TIME_THRESH 0, 0x00040002)] with now := 1 } false (-0x50000000000)) false).cnt = clockAdd 0 (-0x50000000000) ∧
    (let s := withR (servo .acquire) [(R.TIME_THRESH 0, 0xFFFF0002), (R.TIME_SERVO_CTL 0, 0x80000844)]
     (dom (measure s false (-0x100)) false).cnt = 0 ∧ (dom (measure s false (-0x100)) false).freq = -0x10) := by decide +kernel
theorem wit_OutputTimeAndReads :
    (barOpen on = true ∧ bit (0x81000000 : Word) 31 = true ∧ hasDomain partN (bit (0x81000000 : Word) 24) = false ∧ (on).time.sel = false ∧ (on).time.remain = 0) ∧
    (let s := { on with time := { doms := [(1, { cnt := toClock 0x10000000 })] } }
     nsUnits (fld (0x81000FFF : Word) 0 16) < mag (clockDiff (dom s true).cnt (outClock s)) ∧
     mag (clockDiff (dom s true).cnt (outClock s)) ≤ nsUnits (fld (0x81001000 : Word) 0 16)) ∧
    (let s := { on with time := { slewDone := true, txq := [⟨3, 4, 5, 6, true, false⟩] } }
     running s = true ∧ s.time.slewDone = true ∧ s.time.txq = [⟨3, 4, 5, 6, true, false⟩] ∧ (on).time.txq = []) ∧
    hasDomain on false = true ∧ epochHeld (regs [(R.TIME_EPOCH_UTC 0, 0x80000000)]) false = true := by decide +kernel
theorem wit_ScheduledActions :
    (schedForbidden (rd on (R.TIME_SCHED_ADDR 0)).toNat = true ∧ bit (0x80000000 : Word) 16 = false ∧ fld (0x81010000 : Word) 24 2 = 1 ∧ hasB partN = false) ∧
    (let s := regs [(R.TIME_SCHED_ADDR 3, 0x100000), (R.TIME_SCHED_AT 3, 1)]
     schedForbidden (rd s (R.TIME_SCHED_ADDR 3)).toNat = false ∧ schedPast (wrField s (R.TIME_SCHED_CTL 3) 0x80000000 0x83010000 0) 3 = false ∧
     schedPast (wrField on (R.TIME_SCHED_CTL 3) 0x80000000 0x83010000 0) 3 = true) ∧
    (let s := { regs [(R.TIME_SCHED_CTL 15, 0x80010000)] with time := { sched := [(15, .armed), (3, .armed)] } }
     running s = true ∧ schedState s 15 = .armed ∧ schedPast s 15 = true ∧ rbit s (R.TIME_SCHED_CTL 15) 16 = true ∧ rbit s (R.TIME_SCHED_CTL 3) 16 = false) ∧
    (let s := regs [(R.TIME_WIN_CTL 7, 0x80000000), (R.TIME_WIN_END 7, 0xD8F00000), (R.TIME_WIN_END 7 + 4, 0xFFFFFFFF)]
     schedState { s with time := { sched := [(3, .armed)] } } 3 = .armed ∧ schedPast { s with time := { sched := [(3, .armed)] } } 3 = true ∧
     schedPast (wr { s with time := { sched := [(3, .armed)] } } (R.TIME_SCHED_AT 3) 1) 3 = false ∧
     rbit s (R.TIME_WIN_CTL 7) 31 = true ∧ atOrPast (outNow s) (rd64 s (R.TIME_WIN_END 7) + 0x27100000) = true) := by decide +kernel
theorem wit_PpsAndTod :
    (let s := regs [(R.TIME_PPS_CTL, 0x80000000), (R.TIME_EPOCH_UTC 0, 0x80000000), (R.TIME_TOD_CTL, 0x80000000)]
     running s = true ∧ s.power.vkeep = true ∧ ppsAllowed s = true ∧ ppsAllowed on = false ∧ rbit s R.TIME_TOD_CTL 31 = true ∧
     ¬(s.time.ppsOwed = true ∨ ∃ k < (ppsSecond s).1, s.time.ppsAt = some (rd s R.TIME_PPS_OFFSET, k))) ∧
    (let s := { regs [(R.TIME_PPS_CTL, 0x80000000), (R.TIME_EPOCH_UTC 0, 0x80000000)] with time := { ppsOwed := true } }
     ppsAllowed s = true ∧ s.time.ppsOwed = true) ∧
    (let s := { regs [(R.TIME_PPS_CTL, 0x80000000), (R.TIME_EPOCH_UTC 0, 0x80000000), (R.TIME_EPOCH_SEC 0, 9)] with
                  time := { ppsAt := some (0, 8) } }
     ppsAllowed s = true ∧ 8 < (ppsSecond s).1 ∧ s.time.ppsAt = some (rd s R.TIME_PPS_OFFSET, 8)) ∧
    (let s := { regs [(R.TIME_TOD_CTL, 0x80000000)] with time := { todMsg := [⟨9, 0⟩, ⟨10, 5⟩] }, now := 312500 }
     running s = true ∧ s.time.todMsg = [⟨9, 0⟩, ⟨10, 5⟩] ∧ 0 + 312500 ≤ s.now ∧ s.now < 5 + 312500 ∧ 0 + 625000 ≤ 625000 ∧ rbit s R.TIME_TOD_CTL 31 = true ∧
       rbit on R.TIME_TOD_CTL 31 = false) := by decide +kernel
theorem wit_PaceAndTemperature :
    (let s := { on with now := 3125000, paces := [(0, { st := .governing }), (1, { st := .stopped }), (2, { raising := some (800, 7) })] }
     ackTaken ackOk = true ∧ ackTaken ⟨0x20000000⟩ = false ∧
     running s = true ∧ hasTract s 0 = true ∧ s.mode.mode ≠ .loading ∧ 625 * paceWindow s 0 ≤ 2 * (s.now - (pace s 0).since) ∧ (pace s 0).st ≠ .stopped ∧
       (pace s 1).st = .stopped ∧ (pace s 3).st ≠ .governing ∧ barOpen s = true ∧ (pace s 2).raising = some (800, 7) ∧ 7 ≤ 2 * s.now) ∧
    (let s : State := { on with now := 3125000, paces := [(0, { st := .governing, setpoint := 650, held := 1000000 }), (1, { st := .governing, setpoint := 880 }),
        (2, { st := .governing, setpoint := 880, low := 300 }), (3, { st := .governing, setpoint := 880, low := 300, raising := some (800, 9) })] }
     (625 * paceWindow s 0 < 200 * (pace s 0).held) ∧ (pace s 0).setpoint < paceCeiling s 0 ∧
       (∀ t ∈ [1, 2, 3], ¬(625 * paceWindow s t < 200 * (pace s t).held ∨ (pace s t).late = true) ∧
         ((candidates s t).find? (paceMeets s t (pace s t))).getD (paceCeiling s t) < (pace s t).setpoint) ∧
       (pace s 2).raising = none ∧ zeroAsOne (rfld s (R.TRACT_PACE_TIMING 2) 24 8) ≤ (pace s 2).low + 1 ∧ (pace s 3).raising.isSome = true) ∧
    (let s : State := { on with paces := [(0, { st := .governing, setpoint := 800 })] }
     ((candidates s 0).find? (paceMeets s 0 (pace s 0))).isSome = true ∧
       (candidates { s with paces := [(0, { st := .governing, words := 2 ^ 60 })] } 0).find?
         (paceMeets { s with paces := [(0, { st := .governing, words := 2 ^ 60 })] } 0 { words := 2 ^ 60 }) = none) ∧
    (let s : State := { on with paces := [(0, { st := .stopped, setpoint := 880 })] }
     barOpen s = true ∧ hasTract s 0 = true ∧ (pace s 0).st = .stopped ∧ paceFixed s 0 ≠ (pace s 0).setpoint ∧ s.mode.mode ≠ .loading ∧
       bit (0x80000000 : Word) 31 = true ∧ bit (0 : Word) 31 = false ∧ { s with mode := { s.mode with mode := .loading } }.mode.mode = .loading) ∧
    (let s := regs [(R.GLOBAL_TEMP_ALERT, 0x80000064)]
     running s = true ∧ hottest s 0 [90, 100, 100] none = some (1, 100) ∧ hottest s 0 [80] none = some (0, 80) ∧ hottest s 0 [81] none = some (0, 81) ∧
       rbit s R.GLOBAL_TEMP_ALERT 31 = true ∧ ((rd s R.GLOBAL_TEMP_ALERT).extractLsb' 0 16).toInt = 100 ∧ rbit (regs [(R.GLOBAL_TEMP_ALERT, 0)]) R.GLOBAL_TEMP_ALERT 31 = false) := by
  decide +kernel
/-- A saturated window raises the rail to CEILING at once (16 R853, R854). -/
theorem test_pace_raises : after (.paceWindowEnd 0 700 ackOk ackOk)
      { on with now := 3125000, paces := [(0, { st := .governing, setpoint := 650, held := 1000000 })] }
      (fun t => (pace t 0).setpoint == paceCeiling t 0 && (pace t 0).sat && (pace t 0).held == 0) = true := by decide +kernel
/-- RESTART with EN 0 sends the rail to FIXED; unacknowledged, the governor stays stopped (16 R859). -/
theorem test_pace_restart : let s : State := { on with paces := [(0, { st := .stopped, setpoint := 880 })] }
    after (.paceRestart 0 0 ackOk) s (fun t => (pace t 0).st == .fixed && (pace t 0).setpoint == 800) = true ∧
    after (.paceRestart 0 0 ⟨0x20000000⟩) s (fun t => (pace t 0).st == .stopped && (pace t 0).setpoint == 880) = true := by decide +kernel
/-- The device with a sideband transaction under way, which the word began. -/
def inSideband (v : Word) : State := { regs [(R.LINE_SB_STATUS, 0x80000000)] with line := { sb := v } }
theorem wit_SidebandTransactions : barOpen on = true ∧ rbit on R.LINE_SB_STATUS 31 = false ∧ bit (0x7FFFFFFF : Word) 31 = false ∧
    running (inSideband 0) = true ∧ rbit (inSideband 0) R.LINE_SB_STATUS 31 = true ∧ bit (inSideband 0x20000000).line.sb 29 = true ∧
    bit (inSideband 0x20000000).line.sb 30 = false ∧ bit (inSideband 0x60000000).line.sb 29 = true ∧ bit (inSideband 0x60000000).line.sb 30 = true ∧
    bit (inSideband 0).line.sb 29 = false ∧ bit (inSideband 0x40000000).line.sb 29 = false := by decide +kernel
/-- The end of a transaction is judged by the word that began it, whatever the register holds since (17 R900). -/
theorem test_sideband_word_is_kept : after (.mdioRead 1 2 0) on (fun u => after (.registerWrite R.LINE_SB_CMD 0xF 0x40000000) u (fun v =>
      after (.sidebandDone none) v (fun t => rd t R.LINE_SB_STATUS == 0xFFFF))) = true := by decide +kernel
/-- A head-end message with its check (03 R160). -/
def hemOf (tid ty : Nat) (body : Bytes) : Bytes :=
  let h := beBytes 2 (tid * 16) ++ beBytes 1 ty ++ beBytes 1 body.length ++ [0, 0]
  h ++ beBytes 2 (crc16 (h ++ body)).toNat ++ body

/-- A segment header with its check (03 R173). -/
def segOf (tid flow len frag key : Nat) : Bytes :=
  let h := beBytes 6 (tid * 2 ^ 36 + flow * 2 ^ 20 + len * 2 ^ 6 + frag * 16 + key)
  h ++ beBytes 2 (crc16 h).toNat

/-- A map entry with its check (03 R154): ID, AID, the REGISTER-or-RANGE bit, START and LEN. -/
def mapOf (tid aid r start len : Nat) : Bytes :=
  let h := beBytes 12 (tid * 2 ^ 84 + aid * 2 ^ 74 + r * 2 ^ 72 + start * 2 ^ 20 + len)
  h ++ beBytes 2 (crc16 h).toNat ++ [0, 0]

/-- An accepted convoy header (03 R146) that states `maps` map entries and `hems` messages. -/
def convoyOf (number reach maps hems : Nat) : Bytes :=
  let h := beBytes 4 number ++ beBytes 8 reach ++ List.replicate 16 0 ++ beBytes 2 maps ++ beBytes 1 hems ++ [0]
  h ++ beBytes 4 (headerCheck h).toNat

/-- What the lane that carries block `n` of row 0 holds: the block's octets, or an erased block. -/
def laneWith (block : Option Bytes) : Lane :=
  { locked := true, last := some (0, 0), held := [(0, { at_ := 0, out := 0, steps := 0, blocks := [block] })] }

/-- The lanes when the first `k` blocks of a convoy body have come, those in `erased` erased (03 R139: block n lies on lane n). -/
def bodyLanes (b : Bytes) (k : Nat) (erased : List Nat := []) : Sparse Lane :=
  (List.range k).map fun n => (n, laneWith (if erased.contains n then none else some (slice b (32 * n) 32)))

/-- A convoy in progress, in a mode and substate, with the own ID 5 and registers set. -/
def convoy (m : Mode := .provision) (sub : Sub := .registered) (l : List (Nat × Word) := []) : State :=
  { regs ((R.LINE_TID, 0x80000005) :: l) with mode := { mode := m, sub := sub, lineOn := true }, line := { live := true, number := 7, convoys := 3, cursor := 48 } }

/-- The convoy's body goes on at byte 48 with `b`, of which `k` blocks have come. -/
def bodied (s : State) (b : Bytes) (k : Nat := 3) (erased : List Nat := []) : State :=
  { s with line := { s.line with lanes := bodyLanes (List.replicate 48 0 ++ b) k erased } }

/-- A message comes next. -/
def taking (s : State) (b : Bytes) (k : Nat := 3) (erased : List Nat := []) : State :=
  let t := bodied s b k erased
  { t with line := { t.line with hems := 1 } }

/-- A map entry comes next. -/
def mapping (s : State) (b : Bytes) (erased : List Nat := []) : State :=
  let t := bodied s b 3 erased
  { t with line := { t.line with maps := 1 } }

/-- The next message of the convoy is good and `p` holds of it. -/
def hemIs (s : State) (p : Hem → Bool) : Bool :=
  running s && hemTurn s && match hemOctets s s.line.cursor with
    | .octets o => (match checkHem o with | .good h => p h | _ => false)
    | _ => false

/-- The next segment's header is good and `p` holds of it and of what has come of its payload. -/
def segIs (s : State) (p : SegHeader → Got → Bool) : Bool :=
  segTurn s && match bodyOctets s s.line.start (roundUp s.line.cursor 8) 8 with
    | .octets o => (match (whole o).bind segFields with
        | some h => p h (bodyOctets s s.line.start (roundUp s.line.cursor 8 + 8) h.len)
        | none => false)
    | _ => false

/-- The next map entry's check holds and `p` holds of its ID and entry. -/
def mapIs (s : State) (p : Nat × Entry → Bool) : Bool :=
  mapTurn s && match bodyOctets s s.line.start 48 16 with
    | .octets o => (match whole o with | some b => beAt b 12 2 == (crc16 (slice b 0 12)).toNat && p (mapFields b) | none => false)
    | _ => false

theorem wit_CodewordLaneRules :
    let s := { regs [] with mode := { mode := .provision, lineOn := true },
                            line := { fill := 32129, lanes := [(15, { locked := true, good := 4, bad := 6, last := some (2499, 0) })] },
                            flights := [{ tag := 4, loc := .front, tok := { port := 17 } }] }
    running s = true ∧ s.mode.lineOn = true ∧ (lane s 0).locked = false ∧ (lane s 15).locked = true ∧ lineHeld s = true ∧ s.line.drops = none ∧
    s.line.live = false ∧ 32768 < s.line.fill + 640 ∧ (laneNext (lane s 15) 0 0 (arrival s 0) (some ⟨[], 0, false, 0, 0, 0⟩)).last = some (2500, 0) := by
  decide +kernel
theorem gfMul_zero (x : Sym) : gfMul 0 x = 0 := by
  have h : ∀ k, gfMulAux 0 x k 0 = 0 := by
    intro k
    induction k with
    | zero => rfl
    | succ k ih => unfold gfMulAux; simpa [gfX] using ih
  exact h 10
theorem polyEval_zeros (n : Nat) (l : List Sym) (x : Sym) : polyEval (List.replicate n 0 ++ l) x = polyEval l x := by
  induction n with
  | zero => rfl
  | succ n ih =>
    rw [← ih]
    show List.foldl _ (gfMul 0 x ^^^ 0) (List.replicate n 0 ++ l) = _
    rw [gfMul_zero]; rfl
theorem syndromes_zeros (n : Nat) (l : List Sym) : syndromes (List.replicate n 0 ++ l) = syndromes l := by
  unfold syndromes; congr 1; funext j; exact polyEval_zeros n l _
/-- Sixteen symbols of which thirty syndromes begin with fifteen zeros: more than fifteen symbols are in error. -/
def sixteen : List Sym := [1, 792, 769, 477, 965, 180, 5, 833, 936, 650, 38, 594, 684, 266, 944, 688]
/-- The codeword of those symbols alone. -/
def noisy : BitVec 5600 := BitVec.ofNat 5600 (sixteen.foldl (fun a c => a * 1024 + c.toNat) 0)
/-- The syndromes of those symbols. -/
def fifteenZeros : List Sym :=
  [0, 0, 0, 0, 0, 0, 0, 0, 0, 0, 0, 0, 0, 0, 0, 542, 841, 916, 500, 659, 568, 671, 796, 243, 338, 157, 449, 516, 46, 889]
theorem noisy_symbols : symbolsOf noisy = List.replicate 544 0 ++ sixteen := by decide +kernel
theorem noisy_syndromes : syndromes sixteen = fifteenZeros := by decide +kernel
theorem noisy_locator : 15 < (massey fifteenZeros 30 0 [1] 0 [1] 1 1).2 := by decide +kernel
theorem noisy_nonzero : fifteenZeros.all (· == 0) = false := by decide +kernel
theorem rsDecode_none {cw syn : List Sym} (h : syndromes cw = syn) (h0 : syn.all (· == 0) = false) (hl : 15 < (massey syn 30 0 [1] 0 [1] 1 1).2) :
    rsDecode cw = none := by
  unfold rsDecode
  rw [h]
  dsimp only
  rw [h0]
  generalize massey syn 30 0 [1] 0 [1] 1 1 = x at hl
  obtain ⟨a, n⟩ := x
  simp only [Bool.false_eq_true, if_false, if_pos hl]
theorem wit_CodewordUncorrectable : decodeCodeword noisy = none := by
  unfold decodeCodeword
  rw [rsDecode_none ((congrArg syndromes noisy_symbols).trans ((syndromes_zeros 544 sixteen).trans noisy_syndromes)) noisy_nonzero noisy_locator]
  rfl
theorem wit_CodewordGood : ∃ d, decodeCodeword 0 = some d ∧ d.fixed = 0 := by
  have h : symbolsOf 0 = List.replicate 560 0 ++ [] := by decide +kernel
  unfold decodeCodeword rsDecode
  rw [h, syndromes_zeros]
  exact ⟨_, rfl, rfl⟩
/-- A state in which the convoy whose body begins with `b` has been found. -/
def foundWith (b : Bytes) : State := { on with line := { found := some 0, lanes := bodyLanes b 2 } }
/-- The header of the convoy found is accepted. -/
def headerIs (s : State) (p : Bytes → Bool) : Bool :=
  match bodyOctets (convoyStart 0 s) 0 0 36 with
  | .octets o => (match headerAccepted o with | some b => p b | none => false)
  | _ => false
theorem wit_ConvoyHeaderJudged : running on = true ∧ (on).line.found = none ∧ (foundWith []).line.found = some 0 ∧
    headerIs (foundWith (convoyOf 9 16 8192 255)) (fun b => beAt b 28 2 == 8192 && beAt b 30 1 == 255) = true ∧
    (∀ s ∈ [foundWith [], foundWith (convoyOf 9 16 8193 0)],
      (match bodyOctets (convoyStart 0 s) 0 0 36 with | .octets o => headerAccepted o == none | _ => true) = true) := by decide +kernel
/-- The header that the witness takes makes its convoy the one in progress with the counts that it states. -/
theorem test_header_counts : after .convoyHeader (foundWith (convoyOf 9 16 2 3)) (fun t => t.line.maps == 2 && t.line.hems == 3 && t.line.cursor == 80) = true := by
  decide +kernel

theorem wit_RouteAndEqdTakeEffect :
    let s := { convoy with line := { convoy.line with route := some ⟨(9, 4), 2⟩, eqd := some ⟨(9, true), 2⟩ } }
    running s = true ∧ isDue s s.line.route = some (9, 4) ∧ isDue s s.line.eqd = some (9, true) ∧ (9 : BitVec 30).toNat ≤ 9 ∧
    let t := { convoy with line := { convoy.line with eqd := some ⟨(9, true), 2⟩ } }
    isDue t t.line.route = none ∧ logicalReach t < (9 : BitVec 30).toNat := by decide +kernel
/-- A key message for the own ID. -/
def keyOf (op idx slot n : Nat) : Bytes := hemOf 5 0x10 ([BitVec.ofNat 8 op, BitVec.ofNat 8 (16 * idx + slot)] ++ List.replicate n 0)
/-- A convoy in progress on the part with the cipher, with slot 1 keyed. -/
def keyed : State := { convoy with keys := { down := [(1, some {})], up := [(1, some {})] } }
theorem crcMsb_append {n : Nat} (p c : BitVec n) (a b : Bytes) : crcMsb p c (a ++ b) = crcMsb p (crcMsb p c a) b := List.foldl_append ..
/-- The body of an OFFER for slot 2, and the OFFER. -/
def offerBody : Bytes := [1, 2] ++ List.replicate 198 0
def offerOf : Bytes := [0, 80, 16, 200, 0, 0, 5, 228] ++ offerBody
theorem crc_offer_head : crcMsb 0x1021#16 0xFFFF#16 [0, 80, 16, 200, 0, 0, 1, 2] = 58315 := by decide +kernel
theorem crc_offer_a : crcMsb 0x1021#16 58315 (List.replicate 66 (0 : Byte)) = 54416 := by decide +kernel
theorem crc_offer_b : crcMsb 0x1021#16 54416 (List.replicate 66 (0 : Byte)) = 61463 := by decide +kernel
theorem crc_offer_c : crcMsb 0x1021#16 61463 (List.replicate 66 (0 : Byte)) = 1508 := by decide +kernel
theorem crc_offer : crc16 (slice [0, 80, 16, 200, 0, 0, 5, 228] 0 6 ++ offerBody) = 1508 := by
  have h : slice [0, 80, 16, 200, 0, 0, 5, 228] 0 6 ++ offerBody =
      [0, 80, 16, 200, 0, 0, 1, 2] ++ (List.replicate 66 0 ++ (List.replicate 66 0 ++ List.replicate 66 0)) := by decide +kernel
  unfold crc16
  rw [h, crcMsb_append, crc_offer_head, crcMsb_append, crc_offer_a, crcMsb_append, crc_offer_b, crc_offer_c]
theorem good_offer : checkHem (octets offerOf) = .good ⟨5, 0x10, 0, offerBody, offerOf⟩ := by
  have h1 : whole ((octets offerOf).take 8) = some [0, 80, 16, 200, 0, 0, 5, 228] := by decide +kernel
  have h2 : whole (((octets offerOf).drop 8).take (beAt [0, 80, 16, 200, 0, 0, 5, 228] 3 1)) = some offerBody := by decide +kernel
  unfold checkHem
  rw [h1]
  dsimp only
  rw [if_neg (by decide +kernel), h2]
  dsimp only
  rw [crc_offer, if_pos (by decide +kernel)]
  congr 1
theorem offer_comes : hemTurn (taking keyed offerOf 9) = true ∧ hemOctets (taking keyed offerOf 9) 48 = .octets (octets offerOf) := by decide +kernel
theorem wit_IdentityAndKeys :
    (let s := { convoy .provision .listen with line := { convoy.line with ident := some ⟨9, 2⟩ } }
     running s = true ∧ isDue s s.line.ident = some 9 ∧ unregistered s = true ∧ s.mode.mode ≠ .loading ∧
     unregistered { s with mode := { s.mode with sub := .ranging } } = false ∧
     (let t := { s with mode := { mode := .loading, backSub := .listen } }; unregistered t = true ∧ isDue t t.line.ident = some 9)) ∧
    (hasCipher keyed = true ∧ hasCipher { keyed with fuses := { part := .dlb9716n } } = false) ∧
    (∀ b ∈ [keyOf 3 0 1 2, keyOf 4 0 2 50, keyOf 5 0 1 2], hemIs (taking keyed b 5) (fun h =>
      hemAddressed keyed h.tid && hemMine keyed h && h.type == 0x10 && keyForm keyed h.body && [3, 4, 5].contains (beAt h.body 0 1)) = true) ∧
    hemIs (taking keyed (keyOf 5 0 3 2)) (fun h => hemAddressed keyed h.tid && hemMine keyed h && h.type == 0x10 && !keyForm keyed h.body) = true ∧
    hemAddressed keyed 5 = true ∧ hemMine keyed ⟨5, 0x10, 0, offerBody, []⟩ = true ∧ keyForm keyed offerBody = true ∧ beAt offerBody 0 1 = 1 ∧
    keyed.keys.upSlot ≠ beAt offerBody 1 1 % 4 ∧ offerGood keyed offerBody = true ∧
    (let s := { keyed with keys := { keyed.keys with upSlot := 2 } }; s.keys.upSlot = beAt offerBody 1 1 % 4 ∧ offerGood s offerBody = true) ∧
    offerGood (withR keyed [(R.CIPHER_HE_KEYHASH 11, 1)]) offerBody = false := by decide +kernel
theorem wit_ConvoyTimersRun :
    let s := { convoy with keys := { waiting := [⟨1, none, none, 2⟩, ⟨6, some {}, none, 2⟩, ⟨2, none, none, 3⟩], emptyAt := some 2 }, now := 9,
                           reasm := { ctxs := [⟨5, 6, 0, [], 0, 0, 0⟩] }, line := { convoy.line with convoys := 300, wait := some 300 } }
    running s = true ∧ s.keys.emptyAt = some 2 ∧ 2 < s.line.convoys ∧ findCtx s 5 6 = some ⟨5, 6, 0, [], 0, 0, 0⟩ ∧
    0 + zeroAsOne (rfld s R.LINE_REASM_CTL 16 8) < s.line.convoys ∧ s.line.wait = some 300 ∧ 300 ≤ s.line.convoys ∧
    ((s.keys.waiting.filter fun w => decide (w.since < s.line.convoys)).filter fun w => w.slot == 6).getLast? = some ⟨6, some {}, none, 2⟩ := by decide +kernel
/-- A body that belongs to the row of its type. -/
def rowsOk : List (Instr × Bytes × (HemCheck → Bool)) :=
  [(.assignId, hemOf 0xFFF 1 (List.replicate 12 0), isType 1), (.hem, hemOf 5 0x40 [], isSite), (.keyMsg, keyOf 7 0 1 2, isKeyOther), (.retire, keyOf 5 0 1 2, isKeyOp 5)]
theorem wit_MessageChecks :
    (running convoy = true ∧ hemTurn convoy = false ∧
     (let s := taking convoy [] 1; hemTurn s = true ∧ hemOctets s s.line.cursor = .wait) ∧
     (let s := taking convoy [] 1; let t := { s with line := { s.line with trunc := true } }; hemTurn t = true ∧ hemOctets t t.line.cursor = .cut)) ∧
    (∀ r ∈ rowsOk, (match hemOctets (taking convoy r.2.1) 48 with | .octets o => r.2.2 (checkHem o) | _ => false) = true) ∧
    (let s := taking convoy (hemOf 5 0x40 (List.replicate 28 0)) 3 [2]
     hemTurn s = true ∧ (match hemOctets s 48 with | .octets o => checkHem o == .trusted | _ => false) = true) ∧
    (let s := taking convoy [] 3 [1]
     hemTurn s = true ∧ (match hemOctets s 48 with | .octets o => checkHem o == .untrusted | _ => false) = true) ∧
    hemIs (taking convoy (hemOf 6 0x40 [])) (fun h => !hemAddressed convoy h.tid && !meetsLeft convoy h) = true ∧
    hemIs (taking convoy (hemOf 5 0x40 [])) (fun h => hemAddressed convoy h.tid && !hemConsumed h.type) = true ∧
    ringOpen { convoy .service with rings := [(256, { st := .running })] } (rfld convoy R.LINE_HEM_CTL 0 8) = true ∧
    rbit (convoy .service .registered [(R.LINE_HEM_CTL, 0x80000000)]) R.LINE_HEM_CTL 31 = true ∧ rbit convoy R.LINE_HEM_CTL 31 = false := by decide +kernel
theorem wit_RangingMessages :
    (let s := convoy .provision .silent
     hemIs (taking s (hemOf 0xFFF 1 (beBytes 8 1 ++ beBytes 2 9 ++ [0, 0]))) (fun h => hemAddressed s h.tid && hemMine s h && !meetsLeft s h && h.type == 0x01 &&
       serialMatches s h.body && unregistered s && beAt h.body 8 2 % 4096 != 0 && beAt h.body 8 2 % 4096 != 0xFFF) = true) ∧
    hemIs (taking convoy (hemOf 5 2 (List.replicate 8 0))) (fun h => hemMine convoy h && h.type == 0x02 && registered convoy) = true ∧
    hemIs (taking convoy (hemOf 0 3 (beBytes 4 838400000 ++ [0, 1, 0, 0]))) (fun h => hemAddressed convoy h.tid && hemMine convoy h && h.type == 0x03 &&
      decide (beAt h.body 0 4 % 2 ^ 30 ≤ 838400000) && beAt h.body 4 2 != 0) = true ∧
    hemIs (taking convoy (hemOf 0 3 (beBytes 4 838400001 ++ [0, 1, 0, 0]))) (fun h => decide (838400000 < beAt h.body 0 4 % 2 ^ 30)) = true ∧
    hemIs (taking convoy (hemOf 0 3 (beBytes 4 838400000 ++ [0, 0, 0, 0]))) (fun h => beAt h.body 4 2 == 0) = true ∧
    hemIs (taking convoy (hemOf 5 4 (beBytes 8 1))) (fun h => hemMine convoy h && h.type == 0x04 && serialMatches convoy h.body && registered convoy) = true ∧
    convoy.mode.mode ≠ .loading ∧
    (let s := { convoy with mode := { mode := .loading, backSub := .registered } }
     hemIs (taking s (hemOf 5 4 (beBytes 8 1))) (fun h => hemAddressed s h.tid && hemMine s h && serialMatches s h.body && registered s) = true) ∧
    (let s := { convoy .provision .listen [(R.LINE_TID, 0)] with now := 6, mode := { mode := .provision, left := some (6, 0x80000005, .provision) } }
     running s = true ∧ hemIs (taking s (hemOf 5 4 (beBytes 8 1))) (meetsLeft s) = true ∧ s.mode.left = some (6, 0x80000005, .provision)) ∧
    falling { convoy .dormant with mode := { mode := .dormant, left := some (6, 0x80000005, .dormant) } } = true ∧
    hemIs (taking (convoy .fallow) (hemOf 5 0x20 [])) (fun h => hemMine (convoy .fallow) h && h.type == 0x20 && decide ((convoy .fallow).mode.mode = .fallow)) = true ∧
    hemIs (taking convoy (hemOf 0 0x21 ([0, 0, 0, 0] ++ beBytes 4 7 ++ List.replicate 12 0)))
      (fun h => hemMine convoy h && h.type == 0x21 && beAt h.body 0 1 == 0 && beAt h.body 4 4 == convoy.line.number.toNat) = true := by decide +kernel
/-- The cistern as it is with 300 granules in the pool, in a convoy whose next segment is `b`. -/
def pooled (b : Bytes) (k : Nat := 4) (erased : List Nat := []) : State :=
  { bodied (convoy .service .registered [(R.LINE_REASM_CTL, 16000)]) b k erased with cistern := { pool := 300, gen := 100, reserve := 20 } }
/-- The same with a context open for ID 0 and flow 0, and for ID 6 and flow 0. -/
def opened (b : Bytes) (k : Nat := 4) (erased : List Nat := []) : State :=
  { pooled b k erased with reasm := { ctxs := [⟨0, 0, 0, [], 0, 0, 0⟩, ⟨6, 0, 0, [], 0, 0, 0⟩] } }
theorem wit_SegmentSteps :
    running (pooled []) = true ∧ segTurn (pooled []) = true ∧ segTurn on = false ∧ bodyOctets (pooled [] 1) 0 48 8 = .wait ∧
    (let s := pooled [] 1; bodyOctets { s with line := { s.line with trunc := true } } 0 48 8 = .cut) ∧
    (match bodyOctets (pooled [] 4 [1]) 0 48 8 with | .octets o => (whole o).bind segFields == none | _ => false) = true ∧
    segIs (pooled (segOf 0xFFF 0 0 0 0)) (fun h _ => h.len == 0 && h.tid == 0xFFF) = true ∧
    segIs (pooled (segOf 5 0 0 0 0)) (fun h _ => h.len == 0 && h.tid != 0xFFF) = true ∧
    segIs (pooled (segOf 0 0 64 3 0) 3) (fun h g => h.len != 0 && g == .wait) = true ∧
    (let s := pooled (segOf 0 0 64 3 0) 3
     segIs { s with line := { s.line with trunc := true } } (fun h g => h.len != 0 && g == .cut) = true) ∧
    segIs (pooled (segOf 6 0 64 3 0)) (fun h g => !pmMatches (pooled []) h.tid && findCtx (pooled []) h.tid h.flow == none && g != .wait && g != .cut) = true ∧
    segIs (opened (segOf 6 0 64 3 0)) (fun h g => !pmMatches (opened []) h.tid && h.starts && findCtx (opened []) h.tid h.flow != none && g != .wait && g != .cut) = true ∧
    segIs (pooled (segOf 0 0 64 3 1)) (fun h g => pmMatches (pooled []) h.tid && segNoKey (pooled []) h && skipping (pooled []) h == none && g != .wait && g != .cut) = true ∧
    segIs (opened (segOf 0 0 64 3 0) 4 [2]) (fun h g => pmMatches (opened []) h.tid && !segNoKey (opened []) h && skipping (opened []) h == none &&
      (match g with | .octets p => whole p == none | _ => false)) = true ∧
    segIs (pooled (segOf 0 0 64 3 0)) (fun h g => pmMatches (pooled []) h.tid && h.key == 0 && h.frag == 3 && findCtx (pooled []) h.tid h.flow == none &&
      (match g with | .octets p => whole p == some (List.replicate 64 0) | _ => false)) = true ∧
    64 ≤ reasmMax (pooled []) ∧ granulesOf 64 ≤ poolFree (pooled []) := by decide +kernel
/-- A state in which the entry `mapOf 5 9 0 start 200` could be admitted, with more registers and a table. -/
def admits (l : List (Nat × Word) := []) (tab : List Entry := []) : State :=
  { convoy .service .registered ([(R.LINE_BURST_P, 40), (R.QUEUE_AID 9, 0x80000000)] ++ l) with table := tab }
theorem wit_MapEntryAdmission :
    (running admits = true ∧ mapTurn admits = false ∧ admits.mode.mode ≠ .loading ∧
     (let s := { mapping admits [] with mode := { mode := .loading } }; mapTurn s = true ∧ s.mode.mode = .loading) ∧
     (let s := { admits with line := { admits.line with maps := 1 } }; mapTurn s = true ∧ bodyOctets s 0 48 16 = .wait ∧
       bodyOctets { s with line := { s.line with trunc := true } } 0 48 16 = .cut) ∧
     (match bodyOctets (mapping admits [] [1]) 0 48 16 with | .octets o => whole o == none | _ => false) = true ∧
     (match bodyOctets (mapping admits (List.replicate 16 1)) 0 48 16 with
      | .octets o => (match whole o with | some b => beAt b 12 2 != (crc16 (slice b 0 12)).toNat | none => false) | _ => false) = true) ∧
    (∀ o ∈ [mapOf 5 9 0 100000 200, mapOf 6 9 0 100000 200, mapOf 5 9 0 100000 199, mapOf 5 8 0 100000 200, mapOf 5 9 0 0 200, mapOf 5 9 1 0 200],
      mapIs (mapping admits o) (fun f => f == mapFields o) = true) ∧
    (let w (b : Bytes) : Bool := mapWanted admits (mapFields b).1 (mapFields b).2
     let e := (mapFields (mapOf 5 9 0 100000 200)).2
     w (mapOf 6 9 0 100000 200) = false ∧ w (mapOf 5 9 0 100000 200) = true ∧ w (mapOf 5 9 1 0 200) = true ∧
     rfld admits R.LINE_BURST_P 0 16 + 160 ≤ e.len ∧ ¬(rfld admits R.LINE_BURST_P 0 16 + 160 ≤ (mapFields (mapOf 5 9 0 100000 199)).2.len) ∧
     aidDefined admits e.aid = true ∧ aidDefined admits (mapFields (mapOf 5 8 0 100000 200)).2.aid = false ∧
     (hgLead admits : Int) ≤ lead (launchAt admits e) (reachNow admits) ∧
     ¬((hgLead admits : Int) ≤ lead (launchAt admits (mapFields (mapOf 5 9 0 0 200)).2) (reachNow admits)) ∧
     rfld (admits [(R.LINE_ADMIT_HORIZON, 0)]) R.LINE_ADMIT_HORIZON 0 16 = 0 ∧
     ¬(rfld (admits [(R.LINE_ADMIT_HORIZON, 0)]) R.LINE_ADMIT_HORIZON 0 16 ≠ 0) ∧
     lead (launchAt admits e) (reachNow admits) ≤ (1 * (100000 * 65536) : Int) ∧
     ¬(lead (launchAt admits (mapFields (mapOf 5 9 0 100001 200)).2) (reachNow admits) ≤ (1 * (100000 * 65536) : Int)) ∧
     overlaps (launchAt admits e) e.len (launchAt admits e) e.len = true ∧
     (let s := admits [] [e, e]; tableIndex s e = 0 ∧ (s.table.filter fun f => !(s.table.any fun g => g.id == f.id && [0].contains (tableIndex s g))) = [])) := by
  decide +kernel
/-- Where no entry is found uncorrectable, a table of 65,536 entries stays full. -/
theorem wit_MapEntryAdmission_full (l : List Entry) (h : 65536 ≤ l.length) : 65536 ≤ (l.filter fun f =>
    !(l.any fun g => g.id == f.id && ([] : List Nat).contains (tableIndex (admits [] l) g))).length := by
  have k : l.filter (fun f => !(l.any fun g => g.id == f.id && ([] : List Nat).contains (tableIndex (admits [] l) g))) = l :=
    List.filter_eq_self.2 fun f _ => by simp
  rw [k]; exact h
theorem wit_AllotmentTableRules :
    let e : Entry := { id := 4, kind := .range, aid := 5, len := 400, launch := some (BitVec.ofNat 64 (1900 * 65536)) }
    (let s := { on .service with table := [e] }
     running s = true ∧ barOpen s = true ∧ earliest s (s.table.filter (entryDue s)) = some e ∧ skipsWindow s e = false ∧ notLaunched s e = true) ∧
    (let s := { withR (on .service) [(R.LINE_LOGICAL_REACH, 0x80000000), (R.LINE_BURST_P, 40)] with table := [e], time := { reachSet := true } }
     earliest s (s.table.filter (entryDue s)) = some e ∧ skipsWindow s e = false ∧ notLaunched s e = false ∧ e.kind ≠ .data ∧
     1900 * 65536 ≤ lead (launchAt s e) (reachNow s) ∧ overlapsDue s e = false ∧ (∀ f ∈ s.table, [7].contains (tableIndex s f) = false) ∧
     [0].contains (tableIndex s e) = true) ∧
    (let e : Entry := { id := 4, kind := .data, aid := 5, len := 400, launch := some 0 }
     let s := { withR (on .service) [(R.LINE_LOGICAL_REACH, 0x80000000), (R.LINE_BURST_P, 40)] with table := [e], time := { reachSet := true } }
     earliest s (s.table.filter (entryDue s)) = some e ∧ notLaunched s e = false ∧ e.kind = .data ∧ ranged s = false) ∧
    (let e : Entry := { id := 4, kind := .register, len := 400, launch := some 0 }
     let s := { withR (on .provision) [(R.LINE_LOGICAL_REACH, 0x80000000), (R.LINE_BURST_P, 40)] with table := [e], line := { skip := 1 }, time := { reachSet := true } }
     earliest s (s.table.filter (entryDue s)) = some e ∧ skipsWindow s e = true) ∧
    (let f : Entry := { id := 6, kind := .register, stage := .unranged, launch := some 0 }
     let g : Entry := { id := 7, stage := .held, launch := some 1 }
     let s := { on with table := [g, f] }
     earliest s (s.table.filter fun e => (e.stage == .held || e.stage == .unranged) && decide (lead (launchAt s e) (reachNow s) ≤ 0)) = some f ∧
     earliest s (s.table.filter (windowOver s)) = some f) := by decide +kernel
theorem wit_LaunchCommitRules : let e : Entry := { id := 4, kind := .range }
    let b : Burst := { entry := e, launch := 0, kind := .range }
    let s := { convoy with table := [e], gate := { bursts := [b] } }
    running s = true ∧ firstBurst s.gate.bursts = some b ∧ 0 ≤ lead (reachNow s) b.launch ∧ cancels s b = false ∧ b.segs = [] ∧ b.tc = [] ∧
    cancels { s with table := [] } b = true := by decide +kernel
theorem wit_HeadgateRegisters : barOpen on = true ∧ (15 : Fin 16).val ≠ 0 ∧ bit (0x80000000 : Word) 31 = true ∧ (running on = true ∧
    let s := { on with gate := { pre := true, bursts := [{ entry := {}, launch := BitVec.ofNat 64 (2000 * 65536 + 1), kind := .range }] } }
    let t := { s with table := [{ id := 1, stage := .launched, launch := some 0 }, { id := 2, launch := some (BitVec.ofNat 64 (2000 * 65536 + 1)) },
       { id := 3, launch := some (BitVec.allOnes 64) }] }
    t.gate.pre = true ∧ burstHigh t = false ∧ (∀ b ∈ t.gate.bursts, 2000 * 65536 < lead b.launch (reachNow t)) ∧
    ∀ e ∈ t.table, e.stage = .launched ∨ lead (launchAt t e) (reachNow t) < 0 ∨ 2000 * 65536 < lead (launchAt t e) (reachNow t)) ∧
    (let e : Entry := { id := 1, launch := some 0 }
     ∀ a ∈ [none, some Abort.reload], let s := { on with drovers := [(7, { st := .running, entry := some e, abort := a })] }
     (drover s 7).entry = some e ∧ (drover s 7).st = .running ∧ ((drover s 7).abort = none ∨ (drover s 7).abort = some .reload) ∧
       (drover s 7).settled = none ∧ pastHandoff s e = true) ∧
    (let e : Entry := { id := 1, launch := some 0 }
     let s := { on with drovers := [(7, { faulted := [e] })] }
     (drover s 7).entry = none ∧ (drover s 7).faulted.find? (pastHandoff s) = some e) ∧
    (let e : Entry := { id := 1, launch := some 0 }
     let s := { on with drovers := [(7, { waiting := [e] })] }
     (drover s 7).entry = none ∧ (drover s 7).faulted = [] ∧ earliest s ((drover s 7).waiting.filter (pastHandoff s)) = some e) := by decide +kernel
/-- Drover 0 running a word, with registers 1 and 2 set. -/
def drv (w : BitVec 192) (d : Drover := {}) : State :=
  { on .service with drovers := [(0, { d with st := .running, w := [(1, 0xFFFFFFFFFFFFFFFF), (2, 2)] })], store := if w = 0 then [] else [(0, w)] }
/-- A word of its slots (06 R302): SEQ, COND, TARGET, ALU_OP and IO_OP. -/
def wordOf (seq cond target alu io : Nat) : BitVec 192 :=
  BitVec.ofNat 192 (seq * 2 ^ 188 + cond * 2 ^ 183 + target * 2 ^ 170 + alu * 2 ^ 164 + 3 * 2 ^ 160 + 1 * 2 ^ 156 + 2 * 2 ^ 152 + io * 2 ^ 144)
theorem wit_DroverAluSlot : ∀ n < 13, let s := drv (wordOf 0 0 0 n 0) { io := some {} }
    running s = true ∧ (drover s 0).st = .running ∧ (drover s 0).alu = none ∧ wAlu (curWord s 0) = n ∧ (drover s 0).io = some {} ∧ (drover s 0).abort = none ∧
    wSeq (curWord s 0) = 0 ∧ illegalWord (storeWord s 0 (((drover s 0).pc + 1) % 4096)) = false := by decide +kernel
theorem wit_DroverIoSlot : (∀ n < 7, let s := drv (wordOf 5 0 0 0 n) { entry := some {} }
      running s = true ∧ (drover s 0).st = .running ∧ (drover s 0).io = none ∧ wIo (curWord s 0) = n ∧ waitFrame s 0 = none ∧ onOffer s (drover s 0) = none) ∧
    (let f : QFrame := { tok := { uid := 3, len := 1000 }, stop := 1000, parts := [.cis [0, 1, 2, 3] 0 1000] }
     let s := { drv (wordOf 0 0 0 0 3) { entry := some {}, offer := some (0, 3), frag := 0xFF, w := [(0, 600)] } with queues := [(0, { frames := [f] })] }
     onOffer s (drover s 0) = some (0, f) ∧ (partBytes s (drover s 0) 600 0 f).isSome = true ∧
     (let s := { s with drovers := [(0, { drover s 0 with w := [(wIoSrc (curWord s 0), 600)] })] }
      wIo (curWord s 0) = 3 ∧ onOffer s (drover s 0) = some (0, f) ∧ (partBytes s (drover s 0) (ioRoom s 0) 0 f).isSome = true)) ∧
    (let f : QFrame := { tok := { uid := 3, len := 1000 }, stop := 1000, parts := [.res 0 0 1000] }
     let s := { withR (drv (wordOf 0 0 0 0 1) { entry := some { aid := 9 } }) [(R.QUEUE_Q_MAP 0, 0x80000009), (R.QUEUE_AID 9, 0x80000001)] with
                  queues := [(0, { frames := [f] })] }
     waitFrame s 0 ≠ none) := by decide +kernel
theorem wit_DroverCommitRules : let e : Entry := { id := 1, launch := some 0 }
    let late := drv (wordOf 5 0 0 0 5) { entry := some e }
    let g : Entry := { id := 1, launch := some (BitVec.ofNat 64 (2 ^ 40)) }
    let soon := drv (wordOf 5 0 0 0 5) { entry := some g }
    (running late = true ∧ (drover late 0).st = .running ∧ (drover late 0).io = none ∧ wIo (curWord late 0) = 5 ∧ (drover late 0).entry = some e ∧
      pastHandoff late e = true ∧ (drover late 0).abort = none ∧ (∀ b ∈ late.gate.bursts, b.asm ≠ (drover late 0).asm) ∧
      (drover (drv (wordOf 5 0 0 0 5) { entry := some e, abort := some .reload }) 0).abort = some .reload ∧
      (drover (drv (wordOf 5 0 0 0 5) { entry := some e, abort := some .hold }) 0).abort ≠ none) ∧
    (pastHandoff soon g = false ∧ waitingBursts soon < 64 ∧
      64 ≤ waitingBursts { soon with gate := { bursts := List.replicate 64 { entry := {}, launch := 0, kind := .data } } }) := by decide +kernel
theorem wit_DroverSequencing :
    (∀ q < 6, ∀ c < 2, let s := drv (wordOf q (if c = 0 then 0 else 1) 0xFFF 0 0) { alu := some ⟨7, false, none⟩, io := some {} }
      running s = true ∧ (drover s 0).st = .running ∧ (drover s 0).abort = none ∧ (drover s 0).alu = some ⟨7, false, none⟩ ∧ (drover s 0).io = some {} ∧
      wSeq (curWord s 0) = q ∧ condHolds s (curWord s 0) (applySlots (curWord s 0) ⟨7, false, none⟩ {} s.free (drover s 0)) = decide (c = 0) ∧
      (drover s 0).stack.length < 8 ∧ (drover s 0).stack = [] ∧ illegalWord (storeWord s 0 0xFFF) = false ∧ (drover s 0).reload = false ∧
      wCond (curWord s 0) < 12) ∧
    illegalWord (storeWord (drv (wordOf 6 0 0 0 0)) 0 0) = true ∧
    8 ≤ (drover (drv 0 { stack := List.replicate 8 0 }) 0).stack.length ∧ (drover (drv 0 { stack := [4, 5] }) 0).stack = [4] ++ [5] := by decide +kernel
theorem wit_DroverStartsAndEnds : let e : Entry := { id := 1, launch := some 0 }
    (let s := { on .service with drovers := [(7, { waiting := [e] }), (6, { st := .stopped })] }
     running s = true ∧ (drover s 7).st = .idle ∧ earliest s (drover s 7).waiting = some e ∧ illegalWord (storeWord s 7 0x010) = false ∧
     barOpen s = true ∧ bit (1 : Word) 0 = true ∧ (drover s 6).st = .stopped ∧ (drover s 7).st ≠ .stopped) ∧
    (let s := drv (wordOf 5 0 0 0 0) { alu := some ⟨0, false, none⟩, io := some {}, entry := some e }
     running s = true ∧ (drover s 0).st = .running ∧ (drover s 0).abort = none ∧ (drover s 0).reload = false ∧ wSeq (curWord s 0) = 5 ∧
     (drover s 0).entry = some e ∧ (drover s 0).settled = none ∧
     (drover (drv (wordOf 5 0 0 0 0) { settled := some true }) 0).settled ≠ none) := by decide +kernel
/-- Discarding, and a domain that takes a measurement, in a convoy that is found. -/
theorem wit_LaneDiscardsAndMeasures :
    (let s := { regs [] with mode := { mode := .provision, lineOn := true }, line := { drops := some (0, [3]), lanes := [(3, { locked := true, last := some (2499, 0) })] } }
     lineHeld s = false ∧ s.line.drops = some (0, [3]) ∧ (3 : Fin 16).val ∈ [3] ∧ 2500 % 2500 = 0 ∧ 2500 ≠ 0 ∧ ¬(2501 % 2500 = 0 ∧ 2501 ≠ 0) ∧
     (laneNext (lane s 3) 0 0 (arrival s 0) none).last = some (2500, 0)) ∧
    (let s0 := foundWith (convoyOf 9 16 0 0 |>.set 31 0x80)
     let s := { withR s0 [(R.LINE_LOGICAL_REACH, 0x80000064), (R.LINE_EQD, 0x80000001)] with time := { s0.time with doms := [(0, { st := .acquire })] } }
     hasDomain s false = true ∧ (dom s false).st ≠ .off ∧ lineRtt (rangeEffects (convoyStart 0 s)) ≠ 0 ∧
     ((convoyOf 9 16 0 0 |>.set 31 0x80).getD 31 0).getLsbD 7 = true ∧ (dom on true).st = .off ∧ lineRtt on = 0) := by decide +kernel
/-- The upstream half of a slot's change, and the active slot emptied or left. -/
theorem wit_UpstreamKeyChanges :
    let s := { convoy with keys := { upSlot := 2, waiting := [⟨1, some {}, some (some {}), 2⟩, ⟨2, none, some none, 2⟩] } }
    let due := s.keys.waiting.filter fun w => decide (w.since < s.line.convoys)
    running s = true ∧ (due.filter fun w => w.slot == 1 && w.up.isSome).getLast? = some ⟨1, some {}, some (some {}), 2⟩ ∧ s.keys.upSlot < 4 ∧
    (∃ w ∈ due, w.key = none ∧ w.slot = s.keys.upSlot) ∧ (∀ w ∈ due, w.slot = 3 → w.up = none) ∧
    ∀ w ∈ due, w.key = none → w.slot ≠ { s.keys with upSlot := 3 }.upSlot := by decide +kernel
/-- A key in slot 1 for an encrypted segment of ID 5 whose payload is `p`. -/
def sealed (p : Bytes) : State :=
  let s := opened (segOf 5 1 p.length 3 1 ++ p)
  { s with line := { s.line with pmLive := [(0, 0x80000005)] }, keys := { down := [(1, some ⟨List.replicate 32 0, List.replicate 4 0, 0⟩)] } }
/-- Packet number 1 and the tag of an empty segment. -/
def sealedPart : Bytes := beBytes 8 1 ++ [234, 163, 32, 99, 136, 197, 224, 176, 6, 233, 219, 165, 173, 33, 80, 243]
/-- A FIRST, a MIDDLE, a LAST, and an encrypted part whose tag verifies. -/
theorem wit_SegmentFragments :
    segIs (pooled (segOf 0 7 64 2 0)) (fun h g => pmMatches (pooled []) h.tid && h.key == 0 && h.frag == 2 && findCtx (pooled []) h.tid h.flow == none &&
      (match g with | .octets p => whole p == some (List.replicate 64 0) | _ => false)) = true ∧
    (pooled []).reasm.ctxs.length < 4096 ∧
    (∀ g < 2, segIs (opened (segOf 0 0 64 g 0)) (fun h p => pmMatches (opened []) h.tid && h.key == 0 && h.frag == g && findCtx (opened []) h.tid h.flow != none &&
      (match p with | .octets p => whole p == some (List.replicate 64 0) | _ => false)) = true) ∧
    findCtx (opened []) 0 0 = some ⟨0, 0, 0, [], 0, 0, 0⟩ ∧ 64 ≤ reasmMax (opened []) ∧ granulesOf 64 ≤ poolFree (opened []) + granulesOf 0 ∧
    segIs (sealed sealedPart) (fun h g => h.key != 0 && pmMatches (sealed sealedPart) h.tid && (match g with
      | .octets p => (match whole p, segKey (sealed sealedPart) h with
        | some q, some (_, k) => decide (k.high < beAt q 0 8) && segTagOk k h q
        | _, _ => false)
      | _ => false)) = true := by decide +kernel
/-- An allotment that is due, its launch instant `ns` after the reach counter. -/
def dueEntry (k : Kind) (ns : Nat) (id : Nat := 4) (st : Stage := .waiting) : Entry :=
  { id := id, kind := k, aid := 5, len := 400, launch := some (BitVec.ofNat 64 (ns * 65536)), stage := st }
/-- A ranged terminal in SERVICE with `e` in its table and drover 0 as `d`. -/
def dueIn (e : Entry) (d : Drover := {}) (more : List Entry := []) (l : List (Nat × Word) := []) : State :=
  { withR (on .service) ([(R.LINE_LOGICAL_REACH, 0x80000000), (R.LINE_EQD, 0x80000000), (R.LINE_BURST_P, 40)] ++ l) with
      table := e :: more, time := { reachSet := true }, drovers := [(0, d)] }
/-- The entry is the earliest due, found sound, to be launched, and the terminal is ranged. -/
def falls (s : State) (e : Entry) : Bool :=
  running s && (earliest s (s.table.filter (entryDue s)) == some e) && !skipsWindow s e && !notLaunched s e && ranged s
theorem wit_DueEntriesGo :
    (let e := dueEntry .range 1899; falls (dueIn e) e = true ∧ ¬(1900 * 65536 ≤ lead (launchAt (dueIn e) e) (reachNow (dueIn e)))) ∧
    (let e := dueEntry .range 1900; let s := dueIn e {} [dueEntry .range 1900 5 .held]
     falls s e = true ∧ 1900 * 65536 ≤ lead (launchAt s e) (reachNow s) ∧ overlapsDue s e = true) ∧
    (let e := dueEntry .data 1900; let s := dueIn e
     falls s e = true ∧ 1900 * 65536 ≤ lead (launchAt s e) (reachNow s) ∧ overlapsDue s e = false ∧ e.report = false ∧
     (drover s (aidTract s e.aid)).st ≠ .reloading ∧ burstEmpty s e = true) ∧
    (let e := { dueEntry .data 1900 with report := true }
     ∀ d ∈ [({} : Drover), { st := .running }, { st := .running, reload := true }, { st := .reloading }, { st := .stopped }],
       falls (dueIn e d) e = true ∧ overlapsDue (dueIn e d) e = false ∧ aidTract (dueIn e d) e.aid = 0 ∧ drover (dueIn e d) 0 = d) ∧
    (let e := dueEntry .range 1900; falls (dueIn e) e = true ∧ overlapsDue (dueIn e) e = false ∧ e.kind ≠ .data) := by decide +kernel
/-- A DATA burst of one frame of 600 bytes whose launch instant has come, in a state in which its frame's bytes have been gathered or not. -/
def dataBurst (got : Bytes) : Burst :=
  { entry := dueEntry .data 0 4 .handed, launch := 0, kind := .data, got := got, reads := if got = [] then 0 else 3,
    segs := [⟨3, 0, { tok := { uid := 7, len := 600 }, stop := 600, parts := [.cis [0, 1, 2] 0 600] }, true⟩] }
def launching (got : Bytes) : State := { dueIn (dueEntry .data 0 4 .handed) with gate := { bursts := [dataBurst got] } }
theorem wit_DataBurstLaunches :
    (let s := launching []
     running s = true ∧ firstBurst s.gate.bursts = some (dataBurst []) ∧ 0 ≤ lead (reachNow s) (dataBurst []).launch ∧ cancels s (dataBurst []) = false ∧
     (lastReads s (dataBurst []) none).length = 3) ∧
    (let s := { on with gate := { bursts := [{ dataBurst [] with launch := 1 }] } }
     firstBurst s.gate.bursts = some { dataBurst [] with launch := 1 } ∧ lead (reachNow s) 1 < 0) ∧
    (∀ d ∈ [none, some 0], cutShort d (64 + 608 + 8) (64 + 608) false = (d.map fun _ => (64, 1))) ∧
    cutShort none (64 + 608 + 8) 64 true = some (64, 2) ∧ (lastReads (launching (List.replicate 600 0)) (dataBurst (List.replicate 600 0)) none) = [] ∧
    (let x : TcSave := ⟨3, 7, 0, [(40, [1, 2])], false, true⟩
     ¬(x.step = true ∨ x.steps ≠ (on).time.steps) ∧ x.sat = true ∧ ({ x with steps := 1 }.steps ≠ (on).time.steps)) := by decide +kernel
/-- A part, the whole frames and a frame that is not in the cistern yet. -/
theorem wit_DroverTakes :
    (let f : QFrame := { tok := { uid := 3, len := 1000 }, stop := 1000, parts := [.cis [0, 1, 2, 3] 0 1000] }
     let s (n : Nat) (frag : Word) : State := { withR (drv (wordOf 0 0 0 0 n) { entry := some { aid := 9 }, offer := some (0, 3), frag := frag })
       [(R.QUEUE_Q_MAP 0, 0x80000009), (R.QUEUE_AID 9, 0x80000001)] with queues := [(0, { frames := [f] })] }
     let at_ (n : Nat) (frag : Word) (room : Nat) : State :=
       { s n frag with drovers := [(0, { drover (s n frag) 0 with w := [(wIoSrc (curWord (s n frag) 0), BitVec.ofNat 64 room)] })] }
     (∀ c ∈ [((0x00FF : Word), 72, true), (0x00FF, 71, false), (0, 72, false)], let u := at_ 3 c.1 c.2.1
       wIo (curWord u 0) = 3 ∧ onOffer u (drover u 0) = some (0, f) ∧ ioRoom u 0 = c.2.1 ∧
       (decide (minFrag (drover u 0) ≤ Nat.min (ioRoom u 0 - 8 - (drover u 0).ovr) (f.remain - minFrag (drover u 0))) &&
         bit (drover u 0).frag (qPrio u 0)) = c.2.2) ∧
     (∀ n ∈ [1, 2], let u := at_ n 0 1008
       wIo (curWord u 0) = n ∧ waitFrame u 0 = none ∧ droverOffer u (drover u 0) [] = some (0, f) ∧ segBytes 0 f.remain ≤ ioRoom u 0) ∧
     (let g : QFrame := { f with parts := [.res 0 0 1000] }
      ∀ n ∈ [1, 2], waitFrame { at_ n 0 1008 with queues := [(0, { frames := [g] })] } 0 = some (0, g))) ∧
    (let s := { drv (wordOf 0 0 0 0 4) { entry := some {} } with msgs := [⟨1, List.replicate 16 0, false⟩, ⟨2, List.replicate 2040 0, false⟩] }
     wIo (curWord s 0) = 4 ∧ (drover s 0).io = none) := by decide +kernel
/-- A frame that begins in granule 0. -/
def banked : QFrame := { tok := { uid := 3, len := 100 }, stop := 100, parts := [.cis [0] 0 100] }
/-- Drovers 0 and 1 commit that frame, with `turns` lost. -/
def committing (d : Drover := {}) (turns : List Turn := []) : State :=
  let e : Entry := { id := 1, launch := some (BitVec.ofNat 64 (2 ^ 40)) }
  let c : Drover := { d with st := .running, begun := true, entry := some e, segs := [⟨0, 3, 0, 100, true⟩] }
  let w := wordOf 5 0 0 0 5
  { on .service with drovers := [(0, c), (1, { c with asm := 1 })], store := [(0, w), (4096, w)], queues := [(0, { frames := [banked] })], turns := turns }
theorem wit_CommitWaitsForBank :
    (let s := committing
     running s = true ∧ (drover s 0).st = .running ∧ (drover s 0).io = none ∧ wIo (curWord s 0) = 5 ∧ commitAsks s 1 = true ∧
     (drover s 0).entry.any (fun e => !pastHandoff s e) = true ∧ waitingBursts s < 64 ∧
     ((drover s 0).segs.map fun k => (k.q, k.uid)).Nodup ∧ (drover s 0).segs = [⟨0, 3, 0, 100, true⟩] ∧
     (queue s 0).frames.find? (fun f => f.tok.uid == 3) = some banked ∧ banked.carried = 0 ∧ 100 ≤ banked.stop) ∧
    (∀ a ∈ [Abort.hold, .silent], (drover (committing { abort := some a }) 0).abort = some a) := by decide +kernel
/-- Where drover 1 has lost to drover 0 at the bank of granule 0, drover 0's COMMIT is barred; where no turn has been lost it is not. -/
theorem wit_CommitBarred : (barredAt (beginWord committing 0) 0 (commitBanks committing 0) = false) ∧
    (let s := committing {} [⟨.bank (Config.cisBank 0), 0, 1⟩]
     barredAt (beginWord s 0) 0 (commitBanks s 0) = true) := by
  constructor
  · rfl
  · show barredAt (committing {} [⟨.bank (Config.cisBank 0), 0, 1⟩]) 0 [Config.cisBank 0] = true
    have h : commitBanks (committing {} [⟨.bank (Config.cisBank 0), 0, 1⟩]) 1 = [Config.cisBank 0] := rfl
    have a : commitAsks (committing {} [⟨.bank (Config.cisBank 0), 0, 1⟩]) 1 = true := rfl
    have u : (committing {} [⟨.bank (Config.cisBank 0), 0, 1⟩]).turns = [⟨.bank (Config.cisBank 0), 0, 1⟩] := rfl
    generalize committing {} [⟨.bank (Config.cisBank 0), 0, 1⟩] = s at h a u
    simp [barredAt, barred, bankWaits, h, a, u]
/-- Client port 15 enabled with LINK 1 and the registers and state given. -/
def ported (x : Port := {}) (l : List (Nat × Word) := []) : State :=
  { regs ([(R.CLIENT_PORT_CFG 15, 0x80000000)] ++ l) with ports := [(15, { x with link := true })], now := 1000 }
/-- The first 18 octets of a frame: destination, source 0, type, and two 16-bit numbers. -/
def frameHead (type da : Nat) : Bytes := beBytes 6 da ++ List.replicate 6 0 ++ beBytes 2 type ++ beBytes 2 1 ++ beBytes 2 4
/-- A frame of 64 octets with that beginning, and its FCS. -/
def framed (type da : Nat) (fcs : Bytes) : Bytes := frameHead type da ++ List.replicate 42 0 ++ fcs
def pauseFrame : Bytes := framed 0x8808 0x0180C2000001 [139, 182, 144, 205]
def groupFrame : Bytes := framed 0x800 0x0180C2000001 [179, 231, 190, 233]
def otherFrame : Bytes := framed 0x800 2 [104, 122, 67, 18]
theorem crcLsb_append {n : Nat} (p c : BitVec n) (a b : Bytes) : crcLsb p c (a ++ b) = crcLsb p (crcLsb p c a) b := List.foldl_append ..
theorem fcs_pause_head : crcLsb 0xEDB88320#32 0xFFFFFFFF#32 (frameHead 0x8808 0x0180C2000001) = 565434633 := by decide +kernel
theorem fcs_pause_rest : crcLsb 0xEDB88320#32 565434633 (List.replicate 42 0) = 846154100 := by decide +kernel
theorem fcs_group_head : crcLsb 0xEDB88320#32 0xFFFFFFFF#32 (frameHead 0x800 0x0180C2000001) = 259229200 := by decide +kernel
theorem fcs_group_rest : crcLsb 0xEDB88320#32 259229200 (List.replicate 42 0) = 373364812 := by decide +kernel
theorem fcs_other_head : crcLsb 0xEDB88320#32 0xFFFFFFFF#32 (frameHead 0x800 2) = 306489786 := by decide +kernel
theorem fcs_other_rest : crcLsb 0xEDB88320#32 306489786 (List.replicate 42 0) = 3988555159 := by decide +kernel
theorem fcs_zeros : crcLsb 0xEDB88320#32 0xFFFFFFFF#32 (List.replicate 60 0) ≠ 0xFFFFFFFF := by decide +kernel
theorem good_pause : fcsGood pauseFrame = true := by
  unfold fcsGood crc32
  rw [show pauseFrame.take (pauseFrame.length - 4) = frameHead 0x8808 0x0180C2000001 ++ List.replicate 42 0 by decide +kernel, crcLsb_append, fcs_pause_head,
    fcs_pause_rest]
  decide +kernel
theorem good_group : fcsGood groupFrame = true := by
  unfold fcsGood crc32
  rw [show groupFrame.take (groupFrame.length - 4) = frameHead 0x800 0x0180C2000001 ++ List.replicate 42 0 by decide +kernel, crcLsb_append, fcs_group_head,
    fcs_group_rest]
  decide +kernel
theorem good_other : fcsGood otherFrame = true := by
  unfold fcsGood crc32
  rw [show otherFrame.take (otherFrame.length - 4) = frameHead 0x800 2 ++ List.replicate 42 0 by decide +kernel, crcLsb_append, fcs_other_head, fcs_other_rest]
  decide +kernel
theorem wit_ReceivedFrameFates : running (ported) = true ∧ portOn (ported) 15 = true ∧ (port (ported) 15).link = true ∧ pauseFrame.length = 64 ∧
    ported.mode.mode ≠ .loading ∧ { ported with mode := { mode := .loading } }.mode.mode = .loading ∧ (port { ported with ports := [] } 15).link = false ∧
    isMacControl (ported) 15 { bytes := pauseFrame } = true ∧ beAt pauseFrame 14 2 = 1 ∧ rbit (ported) (R.CLIENT_FC_CTL 15) 31 = false ∧
    rbit (ported {} [(R.CLIENT_FC_CTL 15, 0x80000000)]) (R.CLIENT_FC_CTL 15) 31 = true ∧ isMacControl (ported) 15 { bytes := groupFrame } = false ∧
    overruns (ported) 15 { bytes := pauseFrame } = false ∧ pauseFrame.length ≤ maxLen (ported) 15 { bytes := pauseFrame } ∧
    daAccepted (ported) 15 { bytes := groupFrame } = true ∧ isMacControl (ported) 15 { bytes := otherFrame } = false ∧
    daAccepted (ported {} [(R.CLIENT_RX_CTL 15, 0)]) 15 { bytes := otherFrame } = false ∧ (List.replicate 63 (0 : Byte)).length < 64 ∧
    maxLen (ported) 15 { bytes := [] } < (List.replicate 16005 (0 : Byte)).length ∧
    (let f : Arrival := { bytes := List.replicate 300 0xFF, codeErr := true }
     260 < f.bytes.length ∧ isMacControl (ported) 15 f = false ∧ daAccepted (ported) 15 f = true ∧ overruns (ported) 15 f = false ∧
     (let s := { ported with flights := [{ tag := 4, tok := { src := .client 15 }, data := List.replicate 32400 0 }] }
      overruns s 15 f = true ∧ headSent s 15 f = true ∧ headSent s 15 { bytes := pauseFrame } = false) ∧
     overruns { ported with flights := [{ tag := 4, tok := { src := .client 15 }, data := List.replicate 32768 0 }] } 15 { bytes := otherFrame } = true) := by
  decide +kernel
/-- A frame that began before its port's MAX_LEN was written keeps the limit that it began with (09 R497), and a later one has the new limit. -/
theorem test_max_len_of_frames_begun : let s := { ported {} [(R.CLIENT_RX_CTL 15, 64)] with past := [(999, R.CLIENT_RX_CTL 15, 9000)] }
    maxLen s 15 { bytes := [], age := 1000000 } = 9000 ∧ maxLen s 15 { bytes := [] } = 64 := by decide +kernel
theorem wit_ClientLinkChanges :
    (running (ported) = true ∧ portOn (ported) 15 = true ∧ (port (ported) 15).link = true ∧
     (let s := { ported with ports := [] }; portOn s 15 = true ∧ (port s 15).link = false) ∧
     (port (ported { cur := some { bytes := [1], ends := 0, parts := [] } }) 15).cur = some { bytes := [1], ends := 0, parts := [] }) ∧
    (let s := { regs [(R.CLIENT_PORT_CFG 0, 0x80000004)] with ports := [(0, { link := true, detecting := true })], now := 156250000 }
     running s = true ∧ autoPort s = true ∧ (port s 0).detecting = true ∧ (port s 0).link = true ∧ (port s 0).upAt + 3125000 ≤ s.now ∧
     (let t := { s with ports := [(0, { detecting := true })] }
      (port t 0).detecting = true ∧ (port t 0).link = false ∧ (port t 0).tryAt + 31250000 ≤ t.now) ∧
     (let t := { s with ports := [] }; (port t 0).detecting = false ∧ (port t 0).link = false ∧ (port t 0).downAt + 156250000 ≤ t.now)) ∧
    (let s := ported { pause := some (0, 3200000), pfc := [(7, some (0, 3200000))] }
     (port s 15).pause = some (0, 3200000) ∧ 3200000 ≤ psNow s ∧ look none (port s 15).pfc (7 : Fin 8) = some (0, 3200000)) := by decide +kernel
/-- A frame of 60 octets in granule 0. -/
def small : QFrame := { tok := { len := 60 }, stop := 60, parts := [.cis [0] 0 60] }
/-- A queue under pressure that presses priority 3 of port 15. -/
def pressing (mode told : Nat) (genAt : Option Nat := none) : State :=
  { ported { told := told, genAt := genAt } [(R.CLIENT_FC_CTL 15, BitVec.ofNat 32 (mode * 2 ^ 28 + 1)), (R.QUEUE_Q_MAP 2, BitVec.ofNat 32 (2 ^ 31 + 2 ^ 30 + 15 * 2 ^ 26 + 3 * 2 ^ 23))] with
    queues := [(2, { press := true })] }
theorem wit_ClientTransmission :
    (let s := { ported with toPort := [(15, small)] }
     running s = true ∧ s.toPort.find? (fun e => e.1 == (15 : Fin 16).val) = some (15, small) ∧
     beAt (partsBytes s small.parts) 12 2 ≠ 0x8808 ∧ portOn s 15 = true ∧
     zeroAsOne (rfld s (R.CLIENT_TX_CTL 15) 0 16) * 65536 ≥ frameBytes (port s 15).txq + small.remain) ∧
    (let s := ported { txq := [small] }
     (port s 15).txq = [small] ∧ canBegin s 15 = true ∧ pfcWanted s 15 = false ∧ pauseWanted s 15 = false ∧ refreshDue s 15 = false ∧
     holds s (port s 15).pause = false ∧ holds s (look none (port s 15).pfc (txPriority s 15 (partsBytes s small.parts))) = false) ∧
    (running (pressing 2 0) = true ∧ canBegin (pressing 2 0) 15 = true ∧ pfcWanted (pressing 2 0) 15 = true ∧
     canBegin (pressing 1 0) 15 = true ∧ pauseWanted (pressing 1 0) 15 = true ∧ pressured (pressing 1 0) 15 = 8 ∧
     pauseWanted { pressing 1 0xFF with queues := [] } 15 = true ∧
     canBegin (pressing 2 8 (some 0)) 15 = true ∧ refreshDue (pressing 2 8 (some 0)) 15 = true ∧ refreshDue (pressing 1 0xFF (some 0)) 15 = true) ∧
    barOpen (ported) = true ∧ bit (0x80000018 : Word) 31 = true ∧ fld (0x80000018 : Word) 0 5 ≤ 24 := by decide +kernel
/-- A flight at its front, of `n` octets. -/
def flying (n : Nat) (loc : HeadAt := .front) (runt : Bool := false) : Flight :=
  { tag := 4, tok := { len := n, port := 3, src := .client 3 }, data := List.replicate n 7, loc := loc, runt := runt }
/-- A state with flights and free granules. -/
def flown (l : List Flight) (gen : Nat := 63) : State := { on .service with flights := l, cistern := { gen := gen } }
theorem wit_CellAdmission :
    (let s := flown [flying 60]
     running s = true ∧ flight s 4 = some (flying 60) ∧ (flying 60).tok.port < 18 ∧ (flying 60).loc = .front ∧ canSend s (flying 60) = true ∧
     (flying 60).runt = false ∧ creditOf (flying 60) ≤ cisFree s ∧ cisFree (flown [flying 60] 62) < creditOf (flying 60) ∧
     canSend (flown [flying 60] 62) (flying 60) = true ∧ isLine (flying 60).tok = false ∧
     (let g : Flight := { flying 60 with tag := 5, tok := { (flying 60).tok with port := 17, src := .line }, pool := 1 }
      canSend (flown [g]) g = true ∧ isLine g.tok = true ∧ creditOf g ≤ cisFree (flown [g])) ∧
     (let g : Flight := { flying 60 with tag := 5, tok := { (flying 60).tok with port := 9 } }
      let r := routeOf s (flying 60).tok
      canSend (flown [flying 60, g]) (flying 60) = true ∧ frontAsks (flown [flying 60, g]) r.1 r.2 9 = true ∧
      canSend { flown [flying 60, g] with turns := [⟨.role r.1 r.2, 3, 9⟩] } (flying 60) = false)) ∧
    (let f := flying 20 .front true; flight (flown [f]) 4 = some f ∧ canSend (flown [f]) f = true ∧ f.runt = true) ∧
    (flying 60 .recirc).loc = .recirc ∧
    (let f := flying 300 .cell
     let s := flown [f]
     flight s 4 = some f ∧ f.loc ≠ .front ∧ f.full = false ∧ canGive s [5, 3] = true ∧ [5, 3].length = granulesOf f.tok.len ∧ f.data.length = f.tok.len) := by
  decide +kernel
theorem wit_DispatchAndEnqueue :
    (∀ x ∈ [Fate.drop, .lost, .queue 5, .port 2], let f := { flying 60 .cell with full := true, fate := some x }
     running (flown [f]) = true ∧ flight (flown [f]) 4 = some f ∧ f.fate = some x ∧ f.loc = .cell ∧ f.full = true ∧ mustWait (flown [f]) f = false ∧ f.tract < 8 ∧
     wayFree (flown [f]) f x = true ∧ { f with err := true }.err = true) ∧
    (let f := { flying 60 .cell with full := true, fate := some (.ring 9) }
     let g := { f with tag := 5, cell := 3, tok := { f.tok with port := 9 } }
     let s := { flown [f, g] with turns := [⟨.ringIn 9, 0, 3⟩] }
     wayFree s f (.ring 9) = false ∧ wayFree (flown [f, g]) f (.ring 9) = true ∧ cellAsks (flown [f, g]) (.ringIn 9) 3 = true ∧ cellNumber f = 0 ∧
     f.tok.tsReq = none ∧ ringOpen { s with rings := [(265, { st := .running })] } 9 = true ∧
     backlogUsed s + 256 * (f.parts.flatMap Chunk.granules).length ≤ zeroAsOne (rfld s R.RING_RX_BACKLOG 0 16) * 65536) ∧
    (let f := flying 60 .recirc
     flight (flown [f]) 4 = some f ∧ f.fate = none ∧ f.loc = .recirc ∧ f.tract < 8) ∧
    (let s := { on with ghosts := [⟨4, 7, 17⟩] }
     flight s 4 = none ∧ s.ghosts.find? (fun h => h.tag == 4) = some ⟨4, 7, 17⟩ ∧ (⟨4, 7, 17⟩ : Ghost).tract < 8) ∧
    (let s := { regs [(R.QUEUE_Q_MAP 32767, 0x80000000)] with toQueue := [(32767, small)] }
     running s = true ∧ s.toQueue.find? (fun e => qTract e.1 == (7 : Fin 8).val) = some (32767, small) ∧ 32767 < 32768 ∧ qValid s 32767 = true ∧
     overLimit s 32767 small.remain = false ∧ qValid { s with regs := [] } 32767 = false ∧
     overLimit { withR s [(R.QUEUE_Q_LIMIT 32767, 1)] with queues := [(32767, { frames := [{ small with stop := 0x400000 }] })] } 32767 small.remain = true) := by decide +kernel
theorem wit_CellHealthRules :
    (let s := { regs [(R.TRACT_CELL_WATCH 0, 1)] with flights := [flying 60 .cell], now := 313 }
     running s = true ∧ stalled s 0 0 = true ∧ rbit s (R.TRACT_CELL_HEALTH 0) 0 = false ∧
     rbit (withR s [(R.TRACT_CELL_HEALTH 0, 1)]) (R.TRACT_CELL_HEALTH 0) 0 = true) ∧
    (barOpen on = true ∧ hasTract on 7 = true ∧ inMap on 0 17 = false ∧ inMap on 0 15 = true ∧
     (let new := wr on (R.TRACT_CELL_MAP 0 0) 0x03020111; ((List.range 16).map (cellOf new 0)).Nodup ∧ inMap new 0 0 = false) ∧
     (let new := wr on (R.TRACT_CELL_MAP 0 0) 0x03020112; ((List.range 16).map (cellOf new 0)).any (fun c => decide (17 < c)) = true) ∧
     (let new := wr on (R.TRACT_CELL_MAP 0 0) 0x03020101; ¬((List.range 16).map (cellOf new 0)).Nodup) ∧
     reloading { on with drovers := [(0, { st := .reloading })] } 0 = true ∧ reloading on 0 = false) ∧
    (running (regs [(R.TRACT_CELL_RESET 0, 0x20000)]) = true ∧ rbit (regs [(R.TRACT_CELL_RESET 0, 0x20000)]) (R.TRACT_CELL_RESET 0) 17 = true) ∧
    ((flown [flying 60]).flights.any fun f => f.loc != .front && f.tok.port == (3 : Fin 18).val) = false := by decide +kernel
/-- A queue whose frames pass its spill watermark, and an open channel. -/
def spilling : State :=
  { regs [(R.QUEUE_Q_MAP 0, 0x80000000), (R.QUEUE_Q_LIMIT 0, 0x00010000), (R.BUFFER_RES_CH_CFG 1, 0xA0000008)] with
    queues := [(0, { frames := (List.range 5).map fun n => { tok := { uid := n, len := 16000 }, stop := 16000, parts := [.cis [] 0 16000] } })]
    res := { chans := [(1, { free := 1 })] } }
/-- A queue whose first page is page 9 of channel 1. -/
def drawing (d : Bool) : State :=
  { regs [(R.QUEUE_Q_MAP 0, 0x80000000), (R.BUFFER_RES_CH_CFG 1, 0xA0000008)] with
    queues := [(0, { pages := [pageKey 1 9], drawing := d, broken := false })], cistern := { gen := 16 } }
theorem wit_ReservoirMoves :
    (running spilling = true ∧ nextSpill spilling = some 0 ∧ nextChan spilling = some 1 ∧ (chan spilling 1).writing = none ∧ pageFree spilling 1 0 = true) ∧
    (let w : Writing := ⟨3, 9, {}, [], (0, 0), 0⟩
     let s := { on with res := { chans := [(7, { writing := some w })] }, queues := [(3, { pages := [pageKey 6 2] })] }
     (chan s 7).writing = some w ∧ chanHalted s 7 = false ∧ (queue s w.q).pages.getLast? = some (pageKey 6 2) ∧ pageKey 6 2 ≠ pageKey 7 w.page) ∧
    (nextDraw (drawing false) = some 0 ∧ (queue (drawing false) 0).pages = [pageKey 1 9] ∧
     (look {} (drawing false).res.pages (pageKey 1 9)).info.mirror = 0 ∧
     chanHalted (drawing false) 1 = false ∧ chanHalted (withR (drawing false) [(R.BUFFER_RES_CH_CFG 1, 0xB0000008)]) 1 = true ∧
     nextDraw (withR (drawing false) [(R.BUFFER_RES_CH_CFG 1, 0xB0000008)]) = some 0) ∧
    ((queue (drawing true) 0).drawing = true ∧ canGive (drawing true) (List.range 16) = true ∧ (List.range 16).length = 16 ∧
     16 ≤ cisFree (drawing true) + (drawing true).cistern.reserve ∧ (look {} (drawing true).res.pages (pageKey 1 9)).poison = []) ∧
    (barOpen on = true ∧ hasTract on (qTract 32767) = true ∧ chanEnabled spilling 1 = true ∧ chanHalted spilling 1 = false ∧
     bit (0x80000003 : Word) 31 = true ∧ (queue { on with queues := [(3, { broken := true })] } (fld (0x80000003 : Word) 0 15)).broken = true ∧
     (queue on 3).broken = false) := by decide +kernel
/-- A receive or transmit ring in a state, with EN as it has it. -/
def ringed (rx : Bool) (x : Ring) (en : Bool := true) : State :=
  { regs (if en then [(R.RING_CTL (b2n rx) 255, 0x80000000)] else []) with rings := [(b2n rx * 256 + 255, x)] }
theorem wit_RingControl :
    barOpen (ringed true {}) = true ∧ rbit (ringed true {} false) (R.RING_CTL 1 255) 31 = false ∧ (ring (ringed true {} false) true 255).st = .disabled ∧
    rbit (ringed true { st := .running }) (R.RING_CTL 1 255) 31 = true ∧ (ring (ringed true { st := .running }) true 255).st = .running ∧
    (ring (ringed false { st := .halted }) false 255).st = .halted ∧
    (let x := ring (ringed false { st := .running, size := 4, head := 2 }) false 255
     let cap := if x.chained then 65535 else Nat.min x.slots 65535
     sub16 (fld (6 : Word) 0 16) x.head ≤ cap ∧ cap < sub16 (fld (7 : Word) 0 16) x.head) ∧
    (let x := ring (ringed true { st := .stopping }) true 255
     running (ringed true { st := .stopping }) = true ∧ x.st = .stopping ∧ x.taken = [] ∧ x.got = 0 ∧ x.cur = none ∧ x.done = []) := by decide +kernel
/-- The ring that `wit_DescriptorFetchRules` fetches for. -/
def fetching (reads : Nat := 0) : State := ringed true { st := .running, size := 4, tail := 2, reads := reads, chained := true }
/-- A descriptor's octets: address, dwords 2 and 3, and OWN. -/
def descOf (addr d2 d3 : Nat) (own : Bool) : Bytes := leBytes 8 addr ++ leBytes 4 d2 ++ leBytes 4 d3 ++ List.replicate 15 0 ++ [if own then 0x80 else 0]
theorem wit_DescriptorFetchRules :
    running (fetching) = true ∧ canFetch (fetching) true 255 = true ∧ canFetch (fetching 4) true 255 = true ∧
    Nat.max 4 (rfld (fetching 4) R.RING_WALK_LIMIT 0 16) ≤ (ring (fetching 60000) true 255).reads - (ring (fetching 60000) true 255).mark ∧
    canFetch (fetching 60000) true 255 = true ∧
    (ring (fetching 3) true 255).reads - (ring (fetching 3) true 255).mark < Nat.max 4 (rfld (fetching 3) R.RING_WALK_LIMIT 0 16) ∧
    (let x := ring (fetching) true 255
     let d2 (b : Bytes) : Word := BitVec.ofNat 32 (leAt b 8 4)
     let d3 (b : Bytes) : Word := BitVec.ofNat 32 (leAt b 12 4)
     (let b := descOf 0x20 0 0x10000000 false; fld (d3 b) 28 4 = 1 ∧ badLink x (BitVec.ofNat 64 (leAt b 0 8)) (d2 b) (d3 b) = false) ∧
     (let b := descOf 0x10 0 0x10000000 false; fld (d3 b) 28 4 = 1 ∧ badLink x (BitVec.ofNat 64 (leAt b 0 8)) (d2 b) (d3 b) = true) ∧
     (let b := descOf 0 0 0x20000000 false; 1 < fld (d3 b) 28 4) ∧
     (let b := descOf 0x1000 63 0 true; fld (d3 b) 28 4 = 0 ∧ badBuffer true (d2 b) (d3 b) = true ∧ decide (128 ≤ leAt b 31 1) = true) ∧
     (let b := descOf 0x1000 64 0 false; badBuffer true (d2 b) (d3 b) = false ∧ decide (128 ≤ leAt b 31 1) = false) ∧
     (let b := descOf 0x1000 64 0x100 true; fld (d3 b) 28 4 = 0 ∧ badBuffer true (d2 b) (d3 b) = false ∧ decide (128 ≤ leAt b 31 1) = true)) := by decide +kernel
/-- Transmit ring 255 with a descriptor of 10 octets, and with 0 octets of it read. -/
def sending (eop : Bool) (tm : Bool := false) : State :=
  withR (ringed false { st := .running, descs := [{ addr := 0, buf := 0x1000, len := 10, eop := eop }] })
    (if tm then [(R.LINE_HEM_CTL, 0x80FF0000), (R.LINE_TID, 0x80000005)] else [])
theorem wit_TransmitRingRules :
    (∀ s ∈ [sending true, sending false, sending true true], running s = true ∧ txReady s 255 = true ∧ frontTurn s 255 = true ∧
      barred s .link 1 (linkWaits s) = false ∧ (ring s false 255).descs = (ring s false 255).descs.take 1 ∧ (ring s false 255).descs ≠ [] ∧
      (ring s false 255).got + 10 = 10 ∧ (ring s false 255).got + 9 < 10 ∧ (ring s false 255).begun = false) ∧
    (let s := { sending true with dmas := [(0, { busy := true, begun := true, total := 4 })] }
     linkWaits s 0 = true ∧ barred s .link 1 (linkWaits s) = false ∧ barred { s with turns := [⟨.link, 1, 0⟩] } .link 1 (linkWaits s) = true) ∧
    (let s := { sending true with rings := [(255, { ring (sending true) false 255 with part := List.replicate 257 0, front := some (stampNow on) })] }
     txReady s 255 = true ∧ frontTurn s 255 = true ∧ 256 < (ring s false 255).part.length ∧ (ring s false 255).front ≠ none) ∧
    bit ({ sending true with host := { perst := false, cfg := { ctl2 := 0x10 } } } : State).host.cfg.ctl2 4 = true ∧ bit (sending true).host.cfg.ctl2 4 = false ∧
    isTmRing (sending true) 255 = false ∧ isTmRing (sending true true) 255 = true ∧ failReason .timedOut ≠ 0 ∧ failReason (.poisoned []) ≠ 0 ∧
    tmGood ([0, 0, 0x40, 4] ++ List.replicate 8 0) = true ∧ tmGood [] = false := by decide +kernel
theorem wit_ReceiveRingAndWriteBack :
    (let s := fun (l : List Desc) => ringed true { st := .running, inbox := [.frame small], descs := l }
     let d : Desc := { addr := 0, buf := 0x1000, len := 64 }
     running (s []) = true ∧ (ring (s []) true 255).cur = none ∧ (ring (s []) true 255).inbox = [.frame small] ∧ (ring (s []) true 255).unread = 0 ∧
     barred (s []) .link 1 (linkWaits (s [])) = false ∧ barred (s [d]) .link 1 (linkWaits (s [d])) = false ∧
     (ring (ringed true { st := .running, inbox := [.hem [1] 0 0 false], descs := [d] }) true 255).inbox = [.hem [1] 0 0 false] ∧
     ringOpen { s [d] with mode := { mode := .service } } 255 = true ∧ (ring (s [d]) true 255).descs = [d] ∧ partsBytes (s [d]) small.parts ≠ [] ∧
     (partsBytes (s [d]) small.parts).length ≤ d.len ∧ ringOpen (ringed true { st := .halted }) 255 = false) ∧
    (let f : DoneFrame := { descs := [{ addr := 0, buf := 0, len := 64 }], w7 := 0 }
     let s := ringed false { done := [f, { f with wait := some 4 }] }
     running s = true ∧ hostUp s = true ∧ (ring s false 255).done = f :: [{ f with wait := some 4 }] ∧ f.wait = none ∧ fld f.w7 27 3 = 0) := by decide +kernel
/-- DMA channel 63 with registers set and in a transfer state. -/
def dmad (x : Dma) (l : List (Nat × Word)) : State := { regs l with dmas := [(63, x)] }
theorem wit_DmaTransfers :
    (let s := dmad {} [(R.DMA_COUNT 63, 4)]
     let s1 := wrField s (R.DMA_CTL 63) 0x80000000 0x63110000 0
     barOpen s = true ∧ (dma s 63).busy = false ∧ dmaBadParam s1 63 = false ∧ rd s (R.DMA_COUNT 63) ≠ 0) ∧
    (dma (dmad { busy := true } []) 63).busy = true ∧ rd (dmad {} []) (R.DMA_COUNT 63) = 0 ∧ dmaBadParam (wrField (dmad {} []) (R.DMA_CTL 63) 0x80000000 0x63110000 0) 63 = false ∧
    (let s := dmad {} [(R.DMA_COUNT 63, 3)]; dmaBadParam (wrField s (R.DMA_CTL 63) 0x82000000 0x63110000 0) 63 = true) ∧
    (let s := dmad { busy := true, begun := true, total := 65 } [(R.DMA_SRC 63, 64), (R.DMA_DST 63, 0x100000), (R.DMA_CTL 63, 0x00010000)]
     running s = true ∧ nextAfter s.host.dmaTurn 64 (dmaFree s) = some 63 ∧ barred s .link 0 (linkWaits s) = false ∧ dmaSrcCis s 63 = false ∧
     dmaDstCis s 63 = true ∧ dmaOverlap s 63 = false ∧ (dma s 63).off < (dma s 63).total ∧ (dma s 63).off + 64 < (dma s 63).total ∧ (dma s 63).held = [] ∧
     bit s.host.cfg.ctl2 4 = false ∧ bit ({ s.host with cfg := { ctl2 := 0x10 } } : HostUnit).cfg.ctl2 4 = true ∧
     (let t := withR s [(R.DMA_CTL 63, 0x00100000)]
      dmaSrcCis t 63 = true ∧ dmaDstCis t 63 = false ∧ nextAfter t.host.dmaTurn 64 (dmaFree t) = some 63 ∧
      (∀ w ∈ wordsOf 64 64, w ∉ t.cistern.poison) ∧ ∃ w ∈ wordsOf 64 64, w ∈ ({ t.cistern with poison := [8] } : Cistern).poison)) ∧
    (let s := dmad { busy := true, begun := true, total := 65, off := 64 } [(R.DMA_SRC 63, 64), (R.DMA_DST 63, 0x100000), (R.DMA_CTL 63, 0x00010000)]
     running s = true ∧ nextAfter s.host.dmaTurn 64 (dmaFree s) = some 63 ∧ barred s .link 0 (linkWaits s) = false ∧ (dma s 63).off < (dma s 63).total ∧
     dmaDstCis s 63 = true ∧ Nat.min (64 - (64 + 64) % 64) (65 - 64) = [(7 : BitVec 8)].length) := by decide +kernel
/-- Channels take turns: after channel 62's beat the beat is channel 63's, and one of channel 62 does nothing (10 R556). -/
theorem test_dma_turns :
    let s : State := { on with dmas := [(62, { busy := true, begun := true, total := 8 }), (63, { busy := true, begun := true, total := 8 })],
                               host := { perst := false, dmaTurn := 62 } }
    nextAfter s.host.dmaTurn 64 (dmaFree s) = some 63 ∧ after (.dmaBeat 62 (.ok (List.replicate 8 0)) 0) s (fun t => decide (t.dmas = s.dmas)) = true := by
  decide +kernel
/-- A DMA that fails under SWAP still writes the bytes that it has read (10 R560): 2 bytes that wait for their word. -/
theorem test_dma_error_flushes :
    let s := dmad { busy := true, begun := true, total := 64, off := 62, held := [1, 2] } [(R.DMA_SRC 63, 2), (R.DMA_DST 63, 0x100000), (R.DMA_CTL 63, 0x01010000)]
    after (.dmaBeat 63 .failed 0) s (fun t => (t.cistern.mem.map (·.1)) == [0x10003C, 0x10003D]) = true := by decide +kernel
/-- Scan engine 3 with registers set and in a computation. -/
def scanned (x : Scan) (l : List (Nat × Word)) : State := { regs l with scans := [(3, x)] }
theorem wit_ScanRules :
    (let s := scanned {} [(R.CHECK_LEN 3, 64)]
     let s1 := wrField s (R.CHECK_CTL 3) 0x80000000 0x23371310 0
     barOpen s = true ∧ (scan s 3).busy = false ∧ checkBadParam s1 3 = false ∧ checkLen s 3 ≠ 0 ∧ bit (0x80001000 : Word) 12 = true) ∧
    (scan (scanned { busy := true } []) 3).busy = true ∧ checkBadParam (wrField (scanned {} []) (R.CHECK_CTL 3) 0x80300000 0x23371310 0) 3 = true ∧
    (let s := scanned { busy := true } [(R.CHECK_LEN 3, 65), (R.CHECK_CTL 3, 0x100)]
     running s = true ∧ hostUp s = true ∧ (scan s 3).busy = true ∧ checkSpace s 3 = 0 ∧ (scan s 3).off < checkLen s 3 ∧ (scan s 3).off + 64 < checkLen s 3 ∧ checkCmp s 3 = 1 ∧
     bit s.host.cfg.ctl2 4 = false) ∧
    (let s := scanned { busy := true, off := 65 } [(R.CHECK_LEN 3, 65), (R.CHECK_CTL 3, 0x200), (R.CHECK_STORE_ADDR 3, 4)]
     checkLen s 3 ≤ (scan s 3).off ∧ checkCmp s 3 = 2) ∧
    (let s := scanned { busy := true } [(R.CHECK_LEN 3, 65), (R.CHECK_CTL 3, 0x100000)]
     checkSpace s 3 = 1 ∧ (∀ w ∈ wordsOf 0 64, w ∉ s.cistern.poison)) ∧
    (let s := scanned { busy := true } [(R.CHECK_LEN 3, 65), (R.CHECK_CTL 3, 0x200000), (R.BUFFER_RES_CH_CFG 0, 0xA0000008)]
     2 ≤ checkSpace s 3 ∧ chanShut s (checkChan s 3) = false ∧ resPoison s (checkChan s 3) 0 64 = false ∧
     chanShut (withR s [(R.BUFFER_RES_CH_CFG 0, 0xB0000008)]) (checkChan s 3) = true) ∧
    (let s := scanned { busy := true, off := 64 } [(R.CHECK_LEN 3, 65)]
     (scan s 3).off + 1 = checkLen s 3 ∧ checkCmp s 3 = 0) := by decide +kernel
/-- The offset is a register of which `p` holds. -/
def hit (a : Nat) (p : RegHit → Bool) : Bool := match decodeReg a with | some h => p h | none => false
theorem wit_RegisterPaths :
    bar0End ≤ bar0End ∧ bar0End - 1 < bar0End ∧ barOpen on = true ∧ ((0x7 : BitVec 4) ≠ 0xF ∨ 4 % 4 ≠ 0) ∧ decodeReg 0x40 = none ∧ inPage 0x40 = false ∧
    hit (R.TRACT_CELL_WATCH 7) (fun _ => absentAt partN (R.TRACT_CELL_WATCH 7)) = true ∧
    hit R.TIME_PPS_OFFSET (fun h => !absentAt on R.TIME_PPS_OFFSET && h.row.kind == .word &&
      (entryAt (writeTable ++ writeTable2 ++ writeTable3 ++ writeTable4) h.row.base).isNone) = true ∧
    hit R.KEEPER_EVENT (fun h => !absentAt on R.KEEPER_EVENT && h.row.base != R.PERF_USER_WIN 0 0 && !h.hi && h.row.kind == .word &&
      !([R.TIME_TXQ_W0, R.PERF_SAMPLE_W0, R.INTC_HT_SUMMARY 0].contains h.row.base)) = true ∧
    hit R.KEEPER_ALARM (fun h => !h.hi && h.row.kind == .pairRW && (entryAt pairViews h.row.base).isNone && h.row.base != R.TIME_TOD 0) = true ∧
    hit (R.CLIENT_RX_CTL 15) (fun h => !absentAt on (R.CLIENT_RX_CTL 15) && h.row.kind == .word && h.row.base == R.CLIENT_RX_CTL 0) = true ∧
    hit (R.TIME_SCHED_AT 15) (fun h => !absentAt on (R.TIME_SCHED_AT 15) && h.row.kind == .pairRW && !h.hi &&
      (entryAt (writeTable ++ writeTable2 ++ writeTable3 ++ writeTable4) h.row.base).isNone) = true ∧
    hit (R.TIME_SCHED_AT 15 + 4) (fun h => h.hi && h.row.kind == .pairRW) = true ∧
    hit R.RING_INFLIGHT_PEAK (fun h => !h.hi && (h.row.kind == .word || h.row.kind == .view)) = true ∧
    hit (R.KEEPER_ALARM + 4) (fun h => h.hi) = true ∧ mgtOffsetOk 0x10 = true ∧ mgtOffsetOk 0x11 = false ∧ mgtOffsetOk 0x4000000 = false ∧
    barOpen { on with power := {} } = false ∧ bar2End < (bar2End - 1) + 2 ∧ (bar2End - 1) + 1 ≤ bar2End := by decide +kernel
theorem wit_CounterCommands :
    (barOpen on = true ∧ rbit on R.PERF_TALLY_CTL 31 = false ∧ tallyBad on 0x80000000 = false ∧
     tallyBad (regs [(R.PERF_TALLY_BASE, 0x0C000000)]) 0xA0000000 = true ∧ rbit (regs [(R.PERF_TALLY_CTL, 0x80000000)]) R.PERF_TALLY_CTL 31 = true) ∧
    (let x : Tally := { clear := false, space := false, depth := 0, interval := 1, base := 0, since := 0, stop := false }
     let s := { on with perf := { tally := some x, samples := [⟨1, 2, 3⟩] }, now := 313 }
     running s = true ∧ s.perf.tally = some x ∧ 625 * x.interval * (x.k + 1) ≤ 2 * (s.now - x.since) ∧ s.perf.samples = ⟨1, 2, 3⟩ :: [] ∧ (on).perf.samples = []) ∧
    (let x : Tally := { clear := false, space := true, depth := 0, interval := 1, base := 0, since := 0, stop := true }
     x.stop = true ∧ { x with stop := false }.space = true) ∧
    hasTract on 7 = true ∧ bit (0x80000000 : Word) 31 = true := by decide +kernel
theorem wit_RuleStagingAndCommits :
    (barOpen on = true ∧ (on).cls.commit = .idle ∧ (on).cls.staged.length < 1024 ∧ { on with cls := { commit := .waiting } }.cls.commit ≠ .idle ∧
     actionOk on false 0 = true ∧ actionOk on false 0x8000 = false ∧ actionOk on true 0 = true ∧ (17 : BitVec 13).toNat ≤ 17 ∧ 17 < (18 : BitVec 13).toNat ∧
     (fld (0x00000000 : Word) 28 4 = 0 ∨ 4 < fld (0x50000000 : Word) 28 4) ∧ 4 < fld (0x50000000 : Word) 28 4) ∧
    (let s := { on with cls := { staged := [(0, .remove)] } }
     s.cls.commit = .idle ∧ s.cls.staged ≠ [] ∧ canApply s = true ∧
     canApply { s with cls := { s.cls with slots := (List.range 4).map fun k => (k, { st := .draining }) } } = false) ∧
    (let s := { on with cls := { commit := .waiting } }
     s.cls.image = none ∧ canApply s = true ∧ freeSlot s = some 0) ∧
    1024 ≤ (List.replicate 1024 (5, Change.remove)).length ∧ (∀ x ∈ [(5, Change.remove)], x.1 ≠ (6 : BitVec 13).toNat ∧ x.1 ≠ 8192 + (6 : BitVec 13).toNat) ∧
    (let s := { on with cls := { commit := .waiting, image := some {} } }
     s.cls.commit = .waiting ∧ s.cls.image = some {} ∧ s.loader.boot = false) ∧
    (let s := { on with cls := { commit := .applying 1, slots := [(0, { st := .current }), (1, {})] } }
     s.cls.commit = .applying 1 ∧ s.cls.image = none ∧ (1 ≠ s.cls.current ∨ (ruleSlot s 1).st ≠ .current) ∧ (ruleSlot s s.cls.current).st = .current) ∧
    (let s := { on with cls := { commit := .applying 0 } }
     s.cls.commit = .applying 0 ∧ (0 ≠ s.cls.current ∨ (ruleSlot s 0).st ≠ .current) ∧ s.cls.current = 0) ∧
    (let s := regs [(R.CLASS_PRIV 3, 0x80050000)]
     (bit (0x80100000 : Word) 31 = true ∧ fld (0x80100000 : Word) 16 5 = 16) ∧ 17 < fld (0x80120000 : Word) 16 5 ∧
     (0 ≠ (3 : Fin 4).val ∧ rbit s (R.CLASS_PRIV 3) 31 = true ∧ rfld s (R.CLASS_PRIV 3) 16 5 = fld (0x80050000 : Word) 16 5)) := by decide +kernel
/-- The loader in a state. -/
def loading (st : LoaderState) (boot : Bool := false) (l : List (Nat × Word) := []) : State := { regs l with loader := { st := st, boot := boot } }
/-- For the clauses of ImageCommands on an image that passes its checks no closed witness is given: an image is more than 400 KiB long, its queue
section alone 393,216 bytes, and its hash and signature would have to be computed here. -/
theorem wit_ImageCommands :
    barOpen (loading .idle) = true ∧ (loading .reading).loader.st ≠ .idle ∧ (loading .idle).loader.st = .idle ∧ (2 : BitVec 2) ≠ 3 ∧
    canRollback (loading .idle) = false ∧ floorBad (loading .idle) = true ∧
    floorBad { regs [(R.IMAGE_FLOOR_SET, 1)] with loader := { version := 1 } } = false ∧ 4 < fld (0x05000000 : Word) 24 4 ∧
    (let s := { loading .idle with loader := { st := .idle, source := 1 }, flash := { ok := true, dirs := [(0, dirBytes 1 0 1 5 4)] } }
     canRollback s = true) ∧
    running (loading .reading) = true ∧ (loading .reading).loader.boot = false ∧ imageOp (loading .reading) ≠ 3 ∧ hostUp (loading .reading) = true ∧
    (loading .reading true).loader.boot = true ∧ imageOp (loading .reading false [(R.IMAGE_CMD, 0x03000000)]) = 3 ∧
    (loading .checking true).loader.boot = true ∧ imageRows (loading .checking true) (loading .checking true).loader.staged = some (5, 0, 0) ∧
    bit (loading .reading).host.cfg.ctl2 4 = false ∧ longEnough [] = false ∧
    longEnough (List.replicate 192 0) = true ∧ (loading .checking).loader.st = .checking ∧
    imageRows (loading .checking) [] = some (5, 0, 0) := by decide +kernel
/-- An image loader at device scope that applies, and one at tract 7. -/
def applies (scope : Nat) (l : List (Nat × Word) := []) : State :=
  loading .applying false ((R.IMAGE_CMD, BitVec.ofNat 32 (2 * 2 ^ 24 + scope * 2 ^ 20 + 7 * 2 ^ 16)) :: l)
theorem wit_ImageLoadsComplete :
    (let s := applies 0 [(R.BUFFER_RES_CH_CFG 7, 0x80000000)]
     running s = true ∧ loaderAt s .applying 0 = true ∧ rbit s (R.BUFFER_RES_CH_CFG 7) 31 = true ∧ (chan s 7).result = none ∧ trainedAs s 7 32 [0] = some ⟨32, 2, 16⟩ ∧
     trainedAs s 7 8 [0, 8] = some ⟨8, 2, 16⟩ ∧ trainedAs s 7 16 [0] = none ∧ (chan s 7).want = none ∧ rbit s (R.BUFFER_RES_CH_CFG 7) 30 = false ∧ rbit (applies 0 [(R.BUFFER_RES_CH_CFG 7, 0xC0000000)]) (R.BUFFER_RES_CH_CFG 7) 30 = true) ∧
    (deviceReady (applies 0) = true ∧ (applies 0).loader.boot = false ∧ deviceReady (loading .applying true) = true ∧ (loading .applying true).loader.boot = true) ∧
    (let s := { applies 1 with drovers := [(7, { st := .reloading })] }
     loaderAt s .applying 1 = true ∧ s.loader.boot = false ∧ (drover s (imageTract s)).st = .reloading) ∧
    ((loading .writing).loader.st = .writing ∧ imageOp (loading .writing) ≠ 3 ∧ imageOp (loading .writing false [(R.IMAGE_CMD, 0x03000000)]) = 3 ∧
     imageOp (loading .applying false [(R.IMAGE_CMD, 0x04000000)]) = 4) := by decide +kernel
theorem wit_StepKeepsMemoryCanonical : Memory.wf [(0, 1), (201326591, 255)] = true ∧ Memory.wf [(0, 0)] = false ∧ Memory.wf [(5, 1), (4, 1)] = false ∧
    (match step { on with cistern := { mem := [(0, 1)] }, pending := [.discard] } with | .next t => t.cistern.mem == [(0, 1)] | _ => false) = true := by decide +kernel
theorem wit_StepKeepsLinesSampled : (settle (regs [])).sampled ∧ (match step { settle (regs []) with pending := [.discard] } with | .next t => t.pending == [] | _ => false) = true := by
  refine ⟨⟨by decide +kernel, by decide +kernel, by decide +kernel, ?_⟩, by decide +kernel⟩
  intro n h
  have off : (settle (regs [])).intc.strandOff = [] := by decide +kernel
  rw [off] at h; cases h
/-- A wake pattern: pattern `k` enabled for port 3, comparing four octets with those of `groupFrame`. -/
def patterned (ks : List Nat) (m : Mode := .fallow) (first : Word := 0) : State :=
  let s := withR (on m) ([(R.CLIENT_PORT_CFG 3, 0x80000000), (R.CLIENT_WAKE_FIRST, first)] ++ ks.flatMap fun k =>
    [(R.CLIENT_WAKE_CTL k, 0x80080004), (R.CLIENT_WAKE_MASK k 0, 0xF0000000), (R.CLIENT_WAKE_DATA k 0, 0x0180C200)])
  { s with ports := [(3, { link := true })], now := 1000 }
theorem wit_WakePatterns :
    let hit (s : State) (k : Nat) : Bool := wakeMatch s (beganAt s { bytes := groupFrame }) 3 (groupFrame.take 60) k
    (∀ m ∈ [Mode.fallow, .service], ∀ ks ∈ [[], [31], [0, 31]], let s := patterned ks m
      running s = true ∧ portOn s 3 = true ∧ (port s 3).link = true ∧ overruns s 3 { bytes := groupFrame } = false ∧ isMacControl s 3 { bytes := groupFrame } = false ∧
      daAccepted s 3 { bytes := groupFrame } = true ∧ groupFrame.length ≤ maxLen s 3 { bytes := groupFrame } ∧
      (List.range 32).filter (hit s) = ks) ∧
    rbit (patterned [31] .fallow 0x80000000) R.CLIENT_WAKE_FIRST 31 = true ∧ rbit (patterned [31]) R.CLIENT_WAKE_FIRST 31 = false := by decide +kernel
/-- A frame of 60 octets with EtherType 0x88F7 that begins a Sync message with a correctionField of `c`. -/
def syncFrame (c : Nat) : Bytes := List.replicate 12 0 ++ [0x88, 0xF7, 0, 2, 0, 44] ++ List.replicate 4 0 ++ beBytes 8 c ++ List.replicate 30 0
/-- That frame from the line, in granule 0 of a terminal that corrects frames for port 15. -/
def corrected (c : Nat) (steps : Nat := 0) : State :=
  { withR ported [(R.TIME_TC_CTL, 0x40008000)] with cistern := { mem := ((List.range 60).zip (syncFrame c)).filter fun x => x.2 != 0 }, time := { steps := steps } }
theorem wit_TransparentClock :
    (∀ c ∈ [0, 0x7FFFFFFFFFFFFFFF], ∀ n < 2, let s := corrected c n
      tcDownstream s 15 small = true ∧ ptpEvent (partsBytes s small.parts) = some ⟨14, none⟩ ∧ small.tok.steps = 0 ∧ s.time.steps = n) ∧
    tcDownstream ported 15 small = false ∧
    (tcApply (syncFrame 0x7FFFFFFFFFFFFFFF) ⟨14, none⟩ 0 0).2 = true ∧ (tcApply (syncFrame 0x7FFFFFFFFFFFFFFE) ⟨14, none⟩ 0 0).2 = false ∧
    (tcApply (syncFrame 0x7FFFFFFFFFFFFFFE) ⟨14, none⟩ 2 0).2 = true ∧ (tcApply (syncFrame (2 ^ 63)) ⟨14, none⟩ (BitVec.ofInt 64 (-1)) 0).2 = true := by decide +kernel
/-- A judged token of port 17 on pass `n`, of a frame of 300 octets, and a walk with flags `fl`. -/
def judged (n : Nat := 1) : Flight := { flying 300 .cell with pass := n, tok := { len := 300, port := 17 } }
/-- A classifier whose rule 0 matches every key with action `a`, with port 17 privileged or not. -/
def ruled (a : DWord) (l : List (Nat × Word) := []) : State :=
  { withR (on .service) l with cls := { slots := [(0, { st := .current, pos := [(0, 5)] })], store := [(5, { act := a })] } }
/-- The action of kind `k`. -/
def kindOf (k : Nat) : DWord := BitVec.ofNat 64 (k * 2 ^ 60)
theorem wit_Judgement :
    let found (s : State) (w : Walk) : Found := lookup s 0 (Machine.keyOf w 17 1) (ruleSlot s 0).pos
    (∀ fl ∈ [(0x1008 : Nat), 0x1010], (fl.testBit 3 || fl.testBit 4) = true) ∧ Nat.testBit 0x1004 2 = true ∧ Nat.testBit 0x1004 3 = false ∧ Nat.testBit 0x1004 4 = false ∧
    (match found (ruled 0) { flags := 1, key := List.replicate 64 0 } with | .hit a => a == 0 | _ => false) = true ∧
    (match found { ruled 0 with cls := { (ruled 0).cls with badRules := [5] } } { flags := 1 } with | .bad _ => true | _ => false) = true ∧
    (match found on { flags := 1 } with | .miss => true | _ => false) = true ∧
    (∀ k < 6, (match found (ruled (kindOf k)) { flags := 2, key := List.replicate 64 0 } with | .hit a => actKind a == k && !actPartial a | _ => false) = true) ∧
    (let s := ruled 0 [(R.CLASS_PRIV 3, 0x80110000), (R.CLASS_PRIV_RATE 3, 0x00010001)]
     privEntry s 17 = some 3 ∧ bucketLevel s 3 < tokenUnit ∧ tokenUnit ≤ bucketLevel { s with cls := { s.cls with buckets := [(3, ⟨tokenUnit, 0⟩)] } } 3) ∧
    privEntry (ruled 0) 17 = none ∧ (judged).tract < 8 ∧ 4 ≤ (judged 4).pass ∧ (judged 3).pass < 4 ∧ (judged).tok.len < ({ pending := 301 } : Walk).pending := by
  decide +kernel
/-- A walk that waits for its length, one that ends, a bad node and a parse that begins past the last node. -/
theorem wit_Walks :
    (let s := { flown [flying 300] with parser := { starts := List.replicate 18 0 } }
     canSend s (flying 300) = true ∧ creditOf (flying 300) ≤ cisFree s ∧ (0x40 : Nat) < 0x41 ∧
     ({ s with cls := { badNodes := [7 * 16384 + 3] } } : State).cls.badNodes.contains (7 * 16384 + 3) = true) ∧
    (let f := { flying 300 .cell with walk := some { flags := 1, pending := 301 } }
     let s := flown [f]
     flight s 4 = some f ∧ f.fate = none ∧ f.full = false ∧ canGive s [5, 3] = true ∧ [5, 3].length = granulesOf f.tok.len ∧ f.data.length = f.tok.len ∧
     f.tok.len < 301 ∧ (1 : Nat) % 32 / 4 = 0) := by decide +kernel
/-- Queue 0 draws its only page, page 9 of channel 1, which the mirror of channel 3 copies, while a page of it is written or not. -/
def drawn (w : Bool) (poison : List Nat := []) (more : List Nat := []) : State :=
  let s := drawing true
  { s with queues := [(0, { queue s 0 with writing := w, pages := pageKey 1 9 :: more, frames := [{ tok := { uid := 6, len := 300 }, stop := 300, parts := [.res (pageKey 1 9) 24 300] }] })]
           res := { pages := [(pageKey 1 9, { info := { q := 0, mirror := 3 }, recs := [(0, 24, 6)], poison := poison })] } }
theorem wit_Draws :
    (∀ w ∈ [true, false], ∀ more ∈ [[], [pageKey 1 8]], let s := drawn w [] more
      running s = true ∧ (queue s 0).drawing = true ∧ (queue s 0).pages = pageKey 1 9 :: more ∧ canGive s (List.range 16) = true ∧
      16 ≤ cisFree s + s.cistern.reserve ∧ (look {} s.res.pages (pageKey 1 9)).poison = [] ∧ (queue s 0).writing = w) ∧
    6 ∈ lostIn (queue (drawn false) 0).frames (pageKey 1 9) (look {} (drawn false).res.pages (pageKey 1 9)).recs 0 ∧ (0 : Nat) < 512 ∧ (512 : Nat) ≤ 512 ∧
    (let s := { drawing false with res := { (drawn false).res with dturn := 0 } }
     nextDraw s = some 0 ∧ (look {} s.res.pages (pageKey 1 9)).info.mirror = (3 : Fin 8).val ∧ chanHalted s 1 = false ∧ chanHalted s 3 = false ∧
     chanHalted (withR s [(R.BUFFER_RES_CH_CFG 3, 0xB0000008)]) 3 = true) ∧
    (let s := drawn false
     chanEnabled s 1 = true ∧ chanHalted s 1 = false ∧ keyChan (pageKey 1 9) = 1 ∧ keyChan (pageKey 1 9) ≠ 0) := by decide +kernel
/-- Rings, channels and engines that wait for the link beside receive ring 255, and a turn that the ring lost or won. -/
theorem wit_LinkTurns :
    (let s := { fetching with dmas := [(0, { busy := true, begun := true, total := 4 })] }
     canFetch s true 255 = true ∧ linkWaits s 0 = true ∧ barred s .link 1 (linkWaits s) = false ∧
     barred { s with turns := [⟨.link, 1, 0⟩] } .link 1 (linkWaits s) = true ∧ (ring s true 255).fetch.toNat % 32 = 0 ∧
     hostUp s = true ∧ bit ({ s.host with cfg := { ctl2 := 0x10 } } : HostUnit).cfg.ctl2 4 = true ∧
     (let b := descOf 0x1000 63 0 false; badBuffer true (BitVec.ofNat 32 (leAt b 8 4)) (BitVec.ofNat 32 (leAt b 12 4)) = true ∧
       decide (128 ≤ leAt b 31 1) = false)) ∧
    (let s := dmad { busy := true, begun := true, total := 65 } [(R.DMA_SRC 63, 64), (R.DMA_DST 63, 0x100000)]
     let t := { s with rings := [(511, ring fetching true 255)], regs := s.regs }
     nextAfter s.host.dmaTurn 64 (dmaFree s) = some 63 ∧ linkWaits { t with scans := [(3, { busy := true })] } 5 = true ∧
     barred { t with scans := [(3, { busy := true })], turns := [⟨.link, 0, 5⟩] } .link 0 (linkWaits { t with scans := [(3, { busy := true })] }) = true) ∧
    (let s := { scanned { busy := true } [(R.CHECK_LEN 3, 65)] with dmas := [(0, { busy := true, begun := true, total := 4 })] }
     scanReady s 3 = true ∧ barred s .link 5 (linkWaits s) = false ∧ barred { s with turns := [⟨.link, 5, 0⟩] } .link 5 (linkWaits s) = true ∧
     bit ({ s.host with cfg := { ctl2 := 0x10 } } : HostUnit).cfg.ctl2 4 = true ∧ scanReady { s with scans := [(3, { busy := true, hung := true })] } 3 = false ∧
     (scan { s with scans := [(3, { busy := true, hung := true })] } 3).hung = true) := by decide +kernel
/-- A frame of 300 octets in granules 0 and 1. -/
def twoGranules : QFrame := { tok := { len := 300 }, stop := 300, parts := [.cis [0, 1] 0 300] }
theorem wit_FramesOverBuffers :
    let d : Desc := { addr := 0x40, buf := 0x1000, len := 64 }
    let s (items : List RxItem) (l : List Desc) (tail : Nat) : State := ringed true { st := .running, size := 4, tail := tail, fetched := l.length, inbox := items, descs := l }
    (let p := fillDescs [d, { d with len := 100 }] (List.replicate 100 7)
     p.1.map (·.used) = [64, 36] ∧ p.2.1 = [] ∧ p.2.2 = []) ∧
    (let p := fillDescs [d] (List.replicate 100 7); p.1.map (·.used) = [64] ∧ p.2.2 = List.replicate 36 7) ∧
    (∀ items ∈ [[RxItem.frame twoGranules], [.hem (List.replicate 200 1) 0 0 false], [.hem (List.replicate 200 1) 0 0 true]],
      ∀ tail ∈ [1, 2], let u := s items [d] tail
        running u = true ∧ (ring u true 255).cur = none ∧ (ring u true 255).inbox = items ∧ barred u .link 1 (linkWaits u) = false ∧
        ringOpen u 255 = true ∧ (ring u true 255).descs = [d] ∧ (ring u true 255).unread = tail - 1) ∧
    (let u := s [.frame twoGranules] [] 0; ringOpen u 255 = true ∧ (ring u true 255).descs = [] ∧ (ring u true 255).unread = 0) ∧
    (let u := s [.frame twoGranules] [d] 1
     (∃ c ∈ chunkRuns twoGranules.parts, ∃ w ∈ wordsOf c.1 c.2, w ∈ (upset u { bad := [37] }).cistern.poison) ∧
     ¬∃ c ∈ chunkRuns twoGranules.parts, ∃ w ∈ wordsOf c.1 c.2, w ∈ (upset u {}).cistern.poison) ∧
    (let c : RxCur := { item := .frame twoGranules, bytes := List.replicate 300 0, good := true, off := 64, descs := [d] }
     let u := ringed true { st := .running, descs := [d], cur := some c }
     running u = true ∧ hostUp u = true ∧ (ring u true 255).cur = some c ∧ barred u .link 1 (linkWaits u) = false) ∧
    (let f : DoneFrame := { descs := [d, { d with addr := 0x60, int_ := true }], w7 := 0 }
     let u := withR (ringed true { done := [f] }) [(R.RING_CTL 1 255, 0xA0000000)]
     (ring u true 255).done = [f] ∧ f.wait = none ∧ barred u .link 1 (linkWaits u) = false ∧ (∀ e ∈ f.descs, e.addr.toNat % 32 = 0) ∧
     rbit u (R.RING_CTL 1 255) 29 = true ∧ (∃ e ∈ f.descs, e.int_ = true) ∧ fld f.w7 27 3 = 0 ∧ fld (0x08000000 : Word) 27 3 = 1 ∧
     (let v := { u with scans := [(0, { busy := true })], turns := [⟨.link, 1, 2⟩] }; barred v .link 1 (linkWaits v) = true)) := by decide +kernel
/-- A fault of the instant in progress in the block of a FIRST_VALID, the target's address, and the Keeper's registers. -/
theorem wit_RegisterPathsMore :
    (let s := fault on .time 1 7 9
     (errSource Block.time.base).isSome = true ∧ (faultsNow s).any (fun x => x.base == Block.time.base && x.code == 1) = true ∧
     inKeeper Block.time.base = false ∧ faultsNow on = [] ∧ hit Block.time.base (fun h => h.row.kind == .word && !absentAt s Block.time.base)) ∧
    inKeeper R.KEEPER_EVENT = true ∧ (0x58 : BitVec 7).toNat = 0x58 + (on).power.straps / 4 ∧ (0x59 : BitVec 7).toNat ≠ 0x58 + (on).power.straps / 4 ∧
    (0x58 : BitVec 7).toNat + 3 = 0x58 + ({ strapped := true, barOpen := true, straps := 12 } : Power).straps / 4 := by decide +kernel
theorem wit_TallyDumps :
    (∀ sp ∈ [true, false], let x : Tally := { clear := true, space := sp, depth := 8, interval := 1, base := 0x100, since := 0, stop := false }
     let s := { on with perf := { tally := some x }, now := 313 }
     running s = true ∧ s.perf.tally = some x ∧ 625 * x.interval * (x.k + 1) ≤ 2 * (s.now - x.since) ∧ hostUp s = true ∧
     hostUp { s with host := { perst := false, d3 := true } } = false ∧ x.depth ≤ 8 ∧ x.base.toNat + 144 * 2 ^ x.depth * 256 ≤ 2 ^ 64 ∧
     [143].contains (18 * 7 + 17) = true ∧ [143].contains (18 * 7 + 16) = false) := by decide +kernel
/-- An image of the host that is written to the flash, with `n` steps done. -/
def storing (n : Nat) (dirs : Sparse Bytes) : State :=
  { loading .writing with loader := { st := .writing, wrote := n, version := 9 }, flash := { ok := true, dirs := dirs, areas := [(0, [1])] } }
theorem wit_FlashSteps :
    (∀ n < 3, ∀ l ∈ [[], [(0, dirBytes 1 0 1 5 4)]], let s := storing n l
      running s = true ∧ s.loader.st = .writing ∧ imageOp s ≠ 3 ∧ s.flash.ok = true ∧ s.loader.wrote = n ∧ ((directory s).isSome = true ↔ l ≠ [])) ∧
    (let s := { loading .reading with loader := { st := .reading, hung := true } }
     s.loader.hung = true ∧ (loading .reading).loader.hung = false ∧ bit ({ s.host with cfg := { ctl2 := 0x10 } } : HostUnit).cfg.ctl2 4 = true) ∧
    rbit (loading .checking) Block.image.base 31 = false ∧
    (let s := { applies 0 with loader := { st := .applying, stuck := true } }
     deviceReady s = true ∧ s.loader.boot = false ∧ s.loader.stuck = true) ∧
    (imageInHand (loading .applying)).presets = [] ∧ (imageInHand (loading .applying)).keeper = [] := by decide +kernel
/-! ### Published vectors of the standards that chapters 03, 04 and 15 name -/

/-- SHA-384 of "abc": NIST's example for FIPS 180-4. -/
theorem test_sha384_abc : beNat (sha384 [0x61, 0x62, 0x63]) =
    0xcb00753f45a35e8bb5a03d699ac65007272c32ab0eded1631a8b605a43ff5bed8086072ba1e7cc2358baeca134c825a7 := by decide +kernel
/-- AES-256: FIPS 197, appendix C.3, and back. -/
theorem test_aes256 : beNat (aesEnc (beBytes 32 0x000102030405060708090a0b0c0d0e0f101112131415161718191a1b1c1d1e1f) (beBytes 16 0x00112233445566778899aabbccddeeff)) =
      0x8ea2b7ca516745bfeafc49904b496089 ∧
    beNat (aesDec (beBytes 32 0x000102030405060708090a0b0c0d0e0f101112131415161718191a1b1c1d1e1f) (beBytes 16 0x8ea2b7ca516745bfeafc49904b496089)) =
      0x00112233445566778899aabbccddeeff := by decide +kernel
/-- AES-256-GCM: test case 14 of the GCM submission. -/
theorem test_gcm : let z := List.replicate 32 (0 : Byte)
    beNat (gcmApply z (z.take 12) (z.take 16)) = 0xcea7403d4d606b6e074ec5d3baf39d18 ∧
    beNat (gcmTagOf z (z.take 12) [] (beBytes 16 0xcea7403d4d606b6e074ec5d3baf39d18)) = 0xd0d1c8a799996bf0265b98b5d48ab919 := by decide +kernel
/-- ECDSA over P-384 with SHA-384: RFC 6979, appendix A.2.6, the signature of "sample". -/
theorem test_ecdsa :
    let sig := (ecdsaSign 0x6B9D3DAD2E1B8C1C05B19875B6659F4DE23C3B667BF297BA9AA47740787137D896D5724E4C70A825F872C9EA60D2EDF5
      0x94ED910D1A099DAD3254E9242AE85ABDE4BA15168EAF0CA87A555FD56D10FBCA2907E3E83BA95368623B8C4686915CF9 [0x73, 0x61, 0x6D, 0x70, 0x6C, 0x65])
    beNat (sig.take 48) = 0x94EDBB92A5ECB8AAD4736E56C691916B3F88140666CE9FA73D64C4EA95AD133C81A648152E44ACF96E36DD1E80FABE46 ∧
    beNat (sig.drop 48) = 0x99EF4AEB15F178CEA1FE40DB2603138F130E740A19624526203B6351D0A3A94FA329C145786E679E7B82C71A38628AC8 := by decide +kernel
/-- The same signature verifies under the public key of that example, which is among the keys found from the signature alone. -/
theorem test_ecdsa_verifies :
    let pub := publicXY 0x6B9D3DAD2E1B8C1C05B19875B6659F4DE23C3B667BF297BA9AA47740787137D896D5724E4C70A825F872C9EA60D2EDF5
    let sig := (beBytes 48 0x94EDBB92A5ECB8AAD4736E56C691916B3F88140666CE9FA73D64C4EA95AD133C81A648152E44ACF96E36DD1E80FABE46 ++
      beBytes 48 0x99EF4AEB15F178CEA1FE40DB2603138F130E740A19624526203B6351D0A3A94FA329C145786E679E7B82C71A38628AC8)
    let text : Bytes := [0x73, 0x61, 0x6D, 0x70, 0x6C, 0x65]
    ecdsaOk (0x04 :: pub) text sig = true ∧ (ecdsaKeys text sig).contains pub = true ∧ ecdsaOk (0x04 :: pub) (0x20 :: text) sig = false := by decide +kernel

end
end Sys2Proof.Tests
end

section
/-!
Register accesses (O53): the effects that change registers alone, what the address decode gives, what a write and a read of a register do,
the host and management paths, and BAR2.
-/
namespace Sys2Proof.Machine

/-! ### Effects on registers alone -/

theorem regsOnly_refl (s : State) (l : List Nat) : regsOnly s s l := ⟨rfl, fun _ _ => rfl⟩

theorem regsOnly.trans {s t u : State} {l : List Nat} (h : regsOnly s t l) (h' : regsOnly t u l) : regsOnly s u l := by
  refine ⟨?_, fun a ha => (h'.2 a ha).trans (h.2 a ha)⟩
  calc u = { t with regs := u.regs, intc := u.intc } := h'.1
    _ = { s with regs := u.regs, intc := u.intc } := by rw [h.1]

theorem regsOnly.mono {s t : State} {l m : List Nat} (h : regsOnly s t l) (hs : l ⊆ m) : regsOnly s t m :=
  ⟨h.1, fun a ha => h.2 a fun hl => ha (hs hl)⟩

theorem regsOnly_wr (s : State) (a : Nat) (v : Word) : regsOnly s (wr s a v) [a] :=
  ⟨rfl, fun _ hb => rd_wr_ne s v (List.ne_of_not_mem_cons hb)⟩

theorem regsOnly_wr64 (s : State) (a : Nat) (v : DWord) : regsOnly s (wr64 s a v) [a, a + 4] :=
  ((regsOnly_wr s a _).mono (by simp)).trans ((regsOnly_wr _ (a + 4) _).mono (by simp))

/-- A register-path command answers its effect, but for what the interrupt controller samples. -/
theorem viaBar_next {s : State} (h : barOpen s = true) (f : State → State) : ∃ t, viaBar s f = .next t ∧ t = { f s with intc := t.intc } :=
  ⟨_, viaBar_open h f, rfl⟩

/-- One that changes registers alone changes nothing more. -/
theorem viaBar_regsOnly {s u : State} {f : State → State} {l : List Nat} (h : barOpen s = true) (hf : regsOnly u (f s) l) :
    ∃ t, viaBar s f = .next t ∧ regsOnly u t l ∧ t.regs = (f s).regs := by
  obtain ⟨t, ht, e⟩ := viaBar_next h f
  have hregs : t.regs = (f s).regs := (congrArg State.regs e :)
  refine ⟨t, ht, ⟨?_, fun a ha => (rd_congr hregs a).trans (hf.2 a ha)⟩, hregs⟩
  calc t = { f s with intc := t.intc } := e
    _ = { u with regs := (f s).regs, intc := t.intc } := congrArg (fun x : State => { x with intc := t.intc }) hf.1
    _ = { u with regs := t.regs, intc := t.intc } := by rw [hregs]

/-- The same for one that answers with an output. -/
theorem viaBar_answersOnly {s u : State} {f : State → State} {l : List Nat} {o : Output} (h : barOpen s = true)
    (he : f s = emit u o) (hf : regsOnly s u l) :
    ∃ t, viaBar s f = .next t ∧ answersOnly s t l [o] ∧ t.regs = u.regs := by
  obtain ⟨t, ht, e⟩ := viaBar_next h f
  rw [he] at e
  have hregs : t.regs = u.regs := (congrArg State.regs e :)
  have hwire : u.wire = s.wire := by rw [hf.1]
  refine ⟨t, ht, ⟨?_, fun a ha => (rd_congr hregs a).trans (hf.2 a ha)⟩, hregs⟩
  calc t = { u with intc := t.intc, wire := u.wire ++ [o] } := e
    _ = { s with regs := u.regs, intc := t.intc, wire := u.wire ++ [o] } :=
      congrArg (fun x : State => { x with intc := t.intc, wire := u.wire ++ [o] }) hf.1
    _ = { s with regs := t.regs, intc := t.intc, wire := s.wire ++ [o] } := by rw [hregs, hwire]

/-! ### Fault records -/

/-- The registers that the capture of a fault in the record at `a` may change. -/
def captured (a : Nat) : List Nat := [a, a + 8, a + 0x10, a + 0x14, a + 0x18, a + 0x1C]

theorem regsOnly_capture (s : State) (x : FaultNote) : regsOnly s (capture s x) (captured x.base) := by
  have hst (v : Word) : regsOnly s (wr s x.base v) (captured x.base) := (regsOnly_wr s _ v).mono (by simp [captured])
  unfold capture
  dsimp only
  split
  · exact hst _
  · exact (((hst _).trans ((regsOnly_wr _ (x.base + 8) _).mono (by simp [captured]))).trans
      ((regsOnly_wr64 _ (x.base + 0x10) _).mono (by simp [captured]))).trans
      ((regsOnly_wr64 _ (x.base + 0x18) _).mono (by simp [captured]))

theorem rd_capture_base (s : State) (x : FaultNote) : rd (capture s x) x.base = rd s x.base ||| oneHot x.code ||| oneHot 31 := by
  unfold capture
  dsimp only
  split
  · rw [rd_wr_same]
  · rw [rd_wr64_ne _ _ (by omega) (by omega), rd_wr64_ne _ _ (by omega) (by omega), rd_wr_ne _ _ (by omega), rd_wr_same]

theorem rbit_capture_base (s : State) (x : FaultNote) {i : Nat} (hi : i < 32) :
    rbit (capture s x) x.base i = (rbit s x.base i || decide (x.code = i) || decide (31 = i)) := by
  unfold rbit
  rw [rd_capture_base, bit_or_oneHot _ _ _ hi, bit_or_oneHot _ _ _ hi]

theorem regsOnly_fault (s : State) (b : Block) (code inst : Nat) (ident : DWord) :
    regsOnly s (fault s b code inst ident) (recordOf b) := by
  unfold fault faultAt bump bumpBy
  have hnote (i : Intc) : regsOnly s { s with intc := i } (recordOf b) := ⟨rfl, fun _ _ => rfl⟩
  exact ((hnote _).trans ((regsOnly_wr _ (b.base + 4) _).mono (by simp [recordOf]))).trans
    ((regsOnly_capture _ _).mono (by simp [captured, recordOf]))

theorem recorded_fault (s : State) (b : Block) {code : Nat} (inst : Nat) (ident : DWord) (hc : code < 32) :
    recorded s (fault s b code inst ident) b code := by
  unfold fault faultAt
  refine ⟨?_, ?_, ?_⟩
  · rw [rbit_capture_base _ _ hc]; simp
  · rw [rbit_capture_base _ _ (by decide)]; simp
  · rw [(regsOnly_capture _ _).2 _ (by simp [captured]), rd_bump_same]
    rfl

theorem recorded_congr {s t u : State} {b : Block} {code : Nat} (h : t.regs = u.regs) (hu : recorded s u b code) : recorded s t b code := by
  unfold recorded
  rwa [rbit_congr h, rbit_congr h, rd_congr h]

/-- Faults of one record that are captured again change that record alone. -/
theorem regsOnly_foldl_capture {a : Nat} {l : List FaultNote} (hl : ∀ x ∈ l, x.base = a) (s : State) :
    regsOnly s (l.foldl capture s) (captured a) := by
  induction l generalizing s with
  | nil => exact regsOnly_refl s _
  | cons x l ih =>
    obtain ⟨rfl, hl⟩ := List.forall_mem_cons.1 hl
    exact (regsOnly_capture s x).trans (ih hl _)

/-- Their CODE bits and FIRST_VALID are set, and what was set stays. -/
theorem rbit_foldl_capture {a : Nat} {l : List FaultNote} (hl : ∀ x ∈ l, x.base = a) (s : State) {i : Nat} (hi : i < 32) :
    rbit (l.foldl capture s) a i = (rbit s a i || l.any fun x => decide (x.code = i) || decide (31 = i)) := by
  induction l generalizing s with
  | nil => simp
  | cons x l ih =>
    obtain ⟨rfl, hl⟩ := List.forall_mem_cons.1 hl
    rw [List.foldl_cons, ih hl, rbit_capture_base _ _ hi, List.any_cons]
    simp only [Bool.or_assoc]

theorem faultsAfter_eq_self {a : Nat} {v : Word} {s : State}
    (h : (errSource a).isSome = false ∨ bit v 31 = false ∨ ∀ x ∈ faultsNow s, x.base ≠ a) : faultsAfter a v s = s := by
  unfold faultsAfter
  split
  next hc =>
    obtain ⟨hv, he⟩ := Bool.and_eq_true_iff.1 hc
    have hn : ∀ x ∈ faultsNow s, x.base ≠ a := by simpa [hv, he] using h
    rw [List.filter_eq_nil_iff.2 fun x hx => by simpa using hn x hx]
    rfl
  next => rfl

theorem faultsAfter_eq_foldl {a : Nat} {v : Word} (he : (errSource a).isSome = true) (hv : bit v 31 = true) (s : State) :
    faultsAfter a v s = ((faultsNow s).filter fun x => x.base == a).foldl capture s := by
  unfold faultsAfter; rw [if_pos (by simp [he, hv])]

/-! ### The address decode -/

theorem regFind_eq_some {rows : List RegRow} {a : Nat} {h : RegHit} (e : regFind rows a = some h) :
    ∃ row ∈ rows, row.hit a = some h := by
  induction rows with
  | nil => cases e
  | cons row rows ih =>
    unfold regFind at e
    split at e
    next hit => exact ⟨row, List.mem_cons_self, hit.trans e⟩
    next =>
      obtain ⟨r, hr, hh⟩ := ih e
      exact ⟨r, List.mem_cons_of_mem _ hr, hh⟩

/-- What a row of the map hits at: its base and array index, at the LO half or, for a pair, 4 above. -/
theorem RegRow.hit_eq_some {row : RegRow} {a : Nat} {h : RegHit} (e : row.hit a = some h) :
    h.row = row ∧ row.base ≤ a ∧ (h.hi = true → row.kind ≠ .word ∧ row.kind ≠ .view) ∧
      regIndex row.dims (a - row.base) = some (h.ix, if h.hi then 4 else 0) := by
  unfold RegRow.hit at e
  split at e
  · cases e
  next hb =>
    split at e
    · cases e
    next ix r hix =>
      dsimp only at e
      split at e
      next hr => cases e; exact ⟨rfl, by omega, by simp, by rw [hix, hr]; rfl⟩
      next =>
        split at e
        next hp =>
          cases e
          simp only [Bool.and_eq_true, bne_iff_ne, ne_eq, beq_iff_eq] at hp
          exact ⟨rfl, by omega, fun _ => hp.1, by rw [hix, hp.2]; rfl⟩
        · cases e

/-- A decoded register stands in the map. -/
theorem decodeReg_eq_some {a : Nat} {h : RegHit} (e : decodeReg a = some h) :
    h.row ∈ regRows ∧ h.row.base ≤ a ∧ (h.hi = true → h.row.kind ≠ .word ∧ h.row.kind ≠ .view) ∧
      regIndex h.row.dims (a - h.row.base) = some (h.ix, if h.hi then 4 else 0) := by
  obtain ⟨row, hr, hh⟩ := regFind_eq_some e
  obtain ⟨rfl, hs⟩ := RegRow.hit_eq_some hh
  exact ⟨hr, hs⟩

theorem decodeReg_word_lo {a : Nat} {h : RegHit} (e : decodeReg a = some h) (hk : h.row.kind = .word) : h.hi = false := by
  obtain ⟨-, -, hp, -⟩ := decodeReg_eq_some e
  by_contra hh
  exact (hp (by simpa using hh)).1 hk

/-- An index of an array of one dimension. -/
theorem regIndex_one {c d o r : Nat} {ix : List Nat} (h : regIndex [(c, d)] o = some (ix, r)) : o / d < c ∧ r = o % d := by
  simp only [regIndex] at h
  split at h
  next hc => cases h; exact ⟨hc, rfl⟩
  · cases h

/-- An index of an array of two dimensions. -/
theorem regIndex_two {c d c' d' o r : Nat} {ix : List Nat} (h : regIndex [(c, d), (c', d')] o = some (ix, r)) :
    o / d < c ∧ o % d / d' < c' ∧ r = o % d % d' := by
  rw [regIndex] at h
  split at h
  next hc =>
    split at h
    next hi =>
      cases h
      exact ⟨hc, regIndex_one hi⟩
    · cases h
  · cases h

theorem isAt_one_mod {b c d a : Nat} (h : isAt b [(c, d)] a = true) : b ≤ a ∧ (a - b) % d = 0 := by
  unfold isAt at h
  split at h
  · cases h
  · split at h
    next hi => exact ⟨by omega, (regIndex_one hi).2.symm⟩
    · cases h

/-- Every fault record that drives a source lies 0xF00 above a multiple of 32 KiB. -/
theorem errSource_mod {a : Nat} (h : (errSource a).isSome = true) : a % 0x8000 = 0xF00 := by
  by_contra hn
  have hc : isAt 0x600F00 [(16, 0x8000)] a = false := by
    by_contra hi
    have := isAt_one_mod (by simpa using hi)
    omega
  have ht : isAt 0x2000F00 [(8, 0x200000)] a = false := by
    by_contra hi
    have := isAt_one_mod (by simpa using hi)
    omega
  have hne (b : Nat) (hb : b % 0x8000 = 0xF00) : (a == b) = false := by
    rw [beq_eq_false_iff_ne]; rintro rfl; exact hn hb
  simp [errSource, hc, ht, hne] at h

/-- The settings of client reception that are held one register each, whose writes are dated. -/
def rxSettings : List Nat := [R.CLIENT_RX_CTL 0, R.CLIENT_WAKE_CTL 0, R.CLIENT_WAKE_MASK 0 0, R.CLIENT_WAKE_DATA 0 0]

theorem rxSettings_rows : ∀ row ∈ regRows, row.base ∈ rxSettings →
    (row.base, row.dims) ∈ [(0x600008, [(16, 0x8000)]), (0x701000, [(32, 0x100)]), (0x701010, [(32, 0x100), (4, 4)]),
      (0x701080, [(32, 0x100), (32, 4)])] := by decide +kernel

/-- A setting of client reception is no fault record. -/
theorem errSource_rxSetting {a : Nat} {h : RegHit} (e : decodeReg a = some h) (hk : h.row.kind = .word) (hb : h.row.base ∈ rxSettings) :
    (errSource a).isSome = false := by
  by_contra hs
  have hmod := errSource_mod (Bool.of_not_eq_false hs)
  obtain ⟨hr, hle, -, hix⟩ := decodeReg_eq_some e
  rw [decodeReg_word_lo e hk, if_neg Bool.false_ne_true] at hix
  have hrow := rxSettings_rows _ hr hb
  simp only [List.mem_cons, Prod.mk.injEq, List.not_mem_nil, or_false] at hrow
  rcases hrow with ⟨h1, h2⟩ | ⟨h1, h2⟩ | ⟨h1, h2⟩ | ⟨h1, h2⟩ <;> rw [h2] at hix <;> rw [h1] at hix hle
  · have := regIndex_one hix
    omega
  · have := regIndex_one hix
    omega
  · have := regIndex_two hix
    omega
  · have := regIndex_two hix
    omega

/-! ### BAR0 writes -/

/-- The state that a plain write to `a` finds: for the Keeper, with what its tick still owes (log 66). -/
def keeperOwed (s : State) (a : Nat) : State := if inKeeper a then keeperDue s else s

theorem keeperOwed_host (s : State) (a : Nat) : (keeperOwed s a).host = s.host := by
  unfold keeperOwed
  split
  · exact keeperDue_frame.host_eq rfl
  · rfl

theorem exec_registerWrite_outside {off : Nat} (h : bar0End ≤ off) (be : BitVec 4) (v : Word) (s : State) :
    exec (.registerWrite off be v) s = .fault .outsideBar0 := if_pos h

theorem exec_registerWrite_inside {off : Nat} (h : off < bar0End) (be : BitVec 4) (v : Word) (s : State) :
    exec (.registerWrite off be v) s = viaBar s (hostWriteEff off be v) := if_neg (Nat.not_le.2 h)

theorem hostWriteEff_partial {off : Nat} {be : BitVec 4} (h : be ≠ 0xF ∨ off % 4 ≠ 0) (v : Word) (s : State) :
    hostWriteEff off be v s = fault s .host 1 wholeBlock (BitVec.ofNat 64 off) := if_pos h

theorem hostWriteEff_whole {off : Nat} (h : off % 4 = 0) (v : Word) : hostWriteEff off 0xF v = writeReg off v :=
  funext fun _ => if_neg (by simp [h])

theorem writeReg_undecoded {a : Nat} (hd : decodeReg a = none) (hp : inPage a = false) (v : Word) (s : State) :
    writeReg a v s = fault s .host 2 wholeBlock (BitVec.ofNat 64 (a % 2 ^ 26 + 2 ^ 32)) := by
  unfold writeReg unmapped; rw [hd]; simp [hp]

theorem writeReg_absent {a : Nat} {h : RegHit} (hd : decodeReg a = some h) {s : State} (ha : absentAt s a = true) (v : Word) :
    writeReg a v s = s := by
  unfold writeReg; rw [hd]; exact if_pos ha

theorem writeReg_plain {a : Nat} {h : RegHit} (hd : decodeReg a = some h) {s : State} (ha : absentAt s a = false)
    (he : entryAt (writeTable ++ writeTable2 ++ writeTable3 ++ writeTable4) h.row.base = none) (v : Word) :
    writeReg a v s = plainWrite h a v (keeperOwed s a) := by
  unfold writeReg; rw [hd]; simp only [ha, he, Bool.false_eq_true, if_false]; rfl

theorem writeReg_acting {a : Nat} {h : RegHit} (hd : decodeReg a = some h) {s : State} (ha : absentAt s a = false)
    {f : RegHit → Nat → Word → State → State}
    (he : entryAt (writeTable ++ writeTable2 ++ writeTable3 ++ writeTable4) h.row.base = some f) (v : Word) :
    writeReg a v s = f h a v s := by
  unfold writeReg; rw [hd]; simp only [ha, he, Bool.false_eq_true, if_false]

theorem plainWrite_word {h : RegHit} (hk : h.row.kind = .word) (a : Nat) (v : Word) (s : State) :
    plainWrite h a v s = faultsAfter a v (wrField s a v (BitVec.ofNat 32 h.row.rw) (BitVec.ofNat 32 h.row.w1c)) := by
  unfold plainWrite; rw [hk]

theorem plainWrite_pairLo {h : RegHit} (hk : h.row.kind = .pairRW) (hh : h.hi = false) (a : Nat) (v : Word) (s : State) :
    plainWrite h a v s = stageLo s a v := by
  unfold plainWrite; rw [hk, hh]; rfl

theorem plainWrite_pairHi {h : RegHit} (hk : h.row.kind = .pairRW) (hh : h.hi = true) (a : Nat) (v : Word) (s : State) :
    plainWrite h a v s = takeHi s (a - 4) v (BitVec.ofNat 64 h.row.rw) := by
  unfold plainWrite; rw [hk, hh]; rfl

/-- A write that does not cover a whole aligned dword is recorded. -/
theorem registerWrite_partial {s : State} {off : Nat} {be : BitVec 4} (hlt : off < bar0End) (ho : barOpen s = true)
    (hb : be ≠ 0xF ∨ off % 4 ≠ 0) (v : Word) :
    ∃ t, exec (.registerWrite off be v) s = .next t ∧ regsOnly s t (recordOf .host) ∧ recorded s t .host 1 := by
  rw [exec_registerWrite_inside hlt]
  have hf := hostWriteEff_partial hb v s
  obtain ⟨t, he, hr, hregs⟩ := viaBar_regsOnly (f := hostWriteEff off be v) ho (by rw [hf]; exact regsOnly_fault ..)
  rw [hf] at hregs
  exact ⟨t, he, hr, recorded_congr hregs (recorded_fault _ _ _ _ (by decide))⟩

/-- What a register held before a write is kept where the write changes it (log 130). -/
theorem keepPast_wr (s : State) (a : Nat) (v : Word) :
    keepPast s a (wr s a v) =
      { wr s a v with past := if rd (wr s a v) a = rd s a then s.past else (s.now, a, rd s a) :: s.past } := by
  unfold keepPast
  split <;> rfl

section
variable {s : State} {off : Nat} (hlt : off < bar0End) (hal : off % 4 = 0) (ho : barOpen s = true)
include hlt hal

theorem exec_registerWrite_whole (v : Word) : exec (.registerWrite off 0xF v) s = viaBar s (writeReg off v) := by
  rw [exec_registerWrite_inside hlt, hostWriteEff_whole hal]

include ho

/-- A write to an offset that no block decodes is recorded (log 10). -/
theorem registerWrite_undecoded (hd : decodeReg off = none) (hp : inPage off = false) (v : Word) :
    ∃ t, exec (.registerWrite off 0xF v) s = .next t ∧ regsOnly s t (recordOf .host) ∧ recorded s t .host 2 := by
  rw [exec_registerWrite_whole hlt hal]
  have hf := writeReg_undecoded hd hp v s
  obtain ⟨t, he, hr, hregs⟩ := viaBar_regsOnly (f := writeReg off v) ho (by rw [hf]; exact regsOnly_fault ..)
  rw [hf] at hregs
  exact ⟨t, he, hr, recorded_congr hregs (recorded_fault _ _ _ _ (by decide))⟩

theorem registerWrite_absent {h : RegHit} (hd : decodeReg off = some h) (ha : absentAt s off = true) (v : Word) :
    ∃ t, exec (.registerWrite off 0xF v) s = .next t ∧ intcOnly s t := by
  rw [exec_registerWrite_whole hlt hal]
  obtain ⟨t, ht, e⟩ := viaBar_next ho (writeReg off v)
  rw [writeReg_absent hd ha] at e
  exact ⟨t, ht, e⟩

section
variable {h : RegHit} (hd : decodeReg off = some h) (ha : absentAt s off = false)
include hd ha

section
variable (he : entryAt (writeTable ++ writeTable2 ++ writeTable3 ++ writeTable4) h.row.base = none)
include he

/-- A plain write that no fault of the instant meets changes the bits that can be written. -/
theorem registerWrite_word (hk : h.row.kind = .word) {v : Word}
    (hn : (errSource off).isSome = false ∨ bit v 31 = false ∨ ∀ x ∈ faultsNow (keeperOwed s off), x.base ≠ off) :
    ∃ t, exec (.registerWrite off 0xF v) s = .next t ∧ regsOnly (keeperOwed s off) t [off] ∧
      rd t off = merge (rd (keeperOwed s off) off) v (BitVec.ofNat 32 h.row.rw) (BitVec.ofNat 32 h.row.w1c) := by
  have hw : writeReg off v s = wrField (keeperOwed s off) off v (BitVec.ofNat 32 h.row.rw) (BitVec.ofNat 32 h.row.w1c) := by
    rw [writeReg_plain hd ha he, plainWrite_word hk]
    exact faultsAfter_eq_self hn
  rw [exec_registerWrite_whole hlt hal]
  obtain ⟨t, ht, hr, hregs⟩ := viaBar_regsOnly (f := writeReg off v) ho (by rw [hw]; exact regsOnly_wr ..)
  exact ⟨t, ht, hr, by rw [rd_congr hregs, hw, rd_wrField_same]⟩

/-- A write of 1 to FIRST_VALID comes before the faults of the same instant (02 R117). -/
theorem registerWrite_firstValid (hk : h.row.kind = .word) {v : Word} (hs : (errSource off).isSome = true) (hv : bit v 31 = true)
    (hx : ∃ x ∈ faultsNow (keeperOwed s off), x.base = off) :
    ∃ t, exec (.registerWrite off 0xF v) s = .next t ∧ regsOnly (keeperOwed s off) t (captured off) ∧
      rbit t off 31 = true ∧ ∀ x ∈ faultsNow (keeperOwed s off), x.base = off → x.code < 31 → rbit t off x.code = true := by
  let u := wrField (keeperOwed s off) off v (BitVec.ofNat 32 h.row.rw) (BitVec.ofNat 32 h.row.w1c)
  let l := (faultsNow (keeperOwed s off)).filter fun x => x.base == off
  have hw : writeReg off v s = l.foldl capture u := by
    rw [writeReg_plain hd ha he, plainWrite_word hk, faultsAfter_eq_foldl hs hv]
    rfl
  have hl : ∀ x ∈ l, x.base = off := fun x hx => by simpa using (List.mem_filter.1 hx).2
  have hmem {x : FaultNote} (hx : x ∈ faultsNow (keeperOwed s off)) (hb : x.base = off) : x ∈ l := List.mem_filter.2 ⟨hx, by simp [hb]⟩
  have hu : regsOnly (keeperOwed s off) u (captured off) := (regsOnly_wr _ off _).mono (by simp [captured])
  rw [exec_registerWrite_whole hlt hal]
  obtain ⟨t, ht, hr, hregs⟩ := viaBar_regsOnly (f := writeReg off v) ho (by rw [hw]; exact hu.trans (regsOnly_foldl_capture hl u))
  refine ⟨t, ht, hr, ?_, fun x hx hb hc => ?_⟩ <;> rw [rbit_congr hregs, hw, rbit_foldl_capture hl u (by omega), Bool.or_eq_true]
  · obtain ⟨x, hx, hb⟩ := hx
    exact .inr (List.any_eq_true.2 ⟨x, hmem hx hb, by simp⟩)
  · exact .inr (List.any_eq_true.2 ⟨x, hmem hx hb, by simp⟩)

/-- A write of a LO half waits for its HI half (00 R34). -/
theorem registerWrite_pairLo (hk : h.row.kind = .pairRW) (hh : h.hi = false) (v : Word) :
    ∃ t, exec (.registerWrite off 0xF v) s = .next t ∧ t = { keeperOwed s off with host := t.host, intc := t.intc } ∧
      t.host = { s.host with stage := t.host.stage } ∧ look (regReset off) t.host.stage off = v := by
  have hhost := keeperOwed_host s off
  rw [exec_registerWrite_whole hlt hal]
  obtain ⟨t, ht, e⟩ := viaBar_next ho (writeReg off v)
  rw [writeReg_plain hd ha he, plainWrite_pairLo hk hh] at e
  generalize keeperOwed s off = u at hhost e ⊢
  have hth : t.host = { u.host with stage := put (regReset off) u.host.stage off v } := congrArg State.host e
  refine ⟨t, ht, by rw [hth]; exact e, by rw [hth, hhost], ?_⟩
  rw [hth]
  exact look_put_same ..

/-- The write of the HI half takes both (00 R34). -/
theorem registerWrite_pairHi (hk : h.row.kind = .pairRW) (hh : h.hi = true) (h4 : 4 ≤ off) (v : Word) :
    ∃ t, exec (.registerWrite off 0xF v) s = .next t ∧ regsOnly (keeperOwed s off) t [off - 4, off] ∧
      rd64 t (off - 4) = (v ++ look (regReset (off - 4)) s.host.stage (off - 4)) &&& BitVec.ofNat 64 h.row.rw := by
  have hw : writeReg off v s = wr64 (keeperOwed s off) (off - 4)
      ((v ++ look (regReset (off - 4)) s.host.stage (off - 4)) &&& BitVec.ofNat 64 h.row.rw) := by
    rw [writeReg_plain hd ha he, plainWrite_pairHi hk hh, takeHi, keeperOwed_host]
  have h2 := regsOnly_wr64 (keeperOwed s off) (off - 4)
    ((v ++ look (regReset (off - 4)) s.host.stage (off - 4)) &&& BitVec.ofNat 64 h.row.rw)
  rw [Nat.sub_add_cancel h4, ← hw] at h2
  rw [exec_registerWrite_whole hlt hal]
  obtain ⟨t, ht, hr, hregs⟩ := viaBar_regsOnly ho h2
  exact ⟨t, ht, hr, by rw [rd64_congr hregs, hw, rd64_wr64_same]⟩

end

/-- A write to a setting of client reception also keeps what it held (log 130). -/
theorem registerWrite_rxSetting (hk : h.row.kind = .word) (hb : h.row.base ∈ rxSettings) (v : Word) :
    ∃ t, exec (.registerWrite off 0xF v) s = .next t ∧ regsOnly { s with past := t.past } t [off] ∧
      rd t off = merge (rd s off) v (BitVec.ofNat 32 h.row.rw) (BitVec.ofNat 32 h.row.w1c) ∧
      t.past = if rd t off = rd s off then s.past else (s.now, off, rd s off) :: s.past := by
  have he : entryAt (writeTable ++ writeTable2 ++ writeTable3 ++ writeTable4) h.row.base = some datedWrite := by
    simp only [rxSettings, List.mem_cons, List.not_mem_nil, or_false] at hb
    rcases hb with hb | hb | hb | hb <;> rw [hb] <;> rfl
  let u := wrField s off v (BitVec.ofNat 32 h.row.rw) (BitVec.ofNat 32 h.row.w1c)
  let p := if rd u off = rd s off then s.past else (s.now, off, rd s off) :: s.past
  have hw : writeReg off v s = { u with past := p } := by
    rw [writeReg_acting hd ha he, datedWrite, plainWrite_word hk, faultsAfter_eq_self (.inl (errSource_rxSetting hd hk hb)),
      decodeReg_word_lo hd hk]
    exact keepPast_wr s off _
  have hu : regsOnly { s with past := p } { u with past := p } [off] := ⟨rfl, (regsOnly_wr s off _).2⟩
  rw [exec_registerWrite_whole hlt hal]
  obtain ⟨t, ht, hr, hregs⟩ := viaBar_regsOnly (f := writeReg off v) ho (by rw [hw]; exact hu)
  have hp : t.past = p := by rw [hr.1]
  have hrd : rd t off = rd u off := by rw [rd_congr hregs, hw]; rfl
  exact ⟨t, ht, by rw [hp]; exact hr, hrd.trans (rd_wrField_same ..), by rw [hp, hrd]⟩

end
end

/-! ### BAR0 reads -/

theorem exec_bar0Read_outside {off len : Nat} (h : bar0End < off + len) (s : State) : exec (.rcRead off len) s = .fault .outsideBar0 :=
  if_pos h

theorem hostReadEff_dword {off : Nat} (h : off % 4 = 0) (s : State) :
    hostReadEff off 4 s = emit (readReg hostPath off s).2 (.readData (leBytes 4 (readReg hostPath off s).1.toNat) false) := by
  have hn : (off + 4 + 3) / 4 - off / 4 = 1 := by omega
  have ha : off / 4 * 4 = off := by omega
  simp [hostReadEff, hn, ha, h, readDwords, leBytes]

/-- A read of one dword inside BAR0 is the read of its register on the host path. -/
theorem exec_bar0Read_dword {off : Nat} (hle : off + 4 ≤ bar0End) (s : State) : exec (.rcRead off 4) s = viaBar s (hostReadEff off 4) :=
  if_neg (Nat.not_lt.2 hle)

section
variable {s : State} {off : Nat} {h : RegHit} (hd : decodeReg off = some h) (ha : absentAt s off = false)
  (hu : h.row.base ≠ R.PERF_USER_WIN 0 0)
include hd ha hu

theorem readReg_hi (path : Nat) (hh : h.hi = true) : readReg path off s = (getLatch s path off, s) := by
  unfold readReg; rw [hd]; simp [ha, hu, hh]

theorem readReg_word (path : Nat) (hh : h.hi = false) (hk : h.row.kind = .word ∨ h.row.kind = .view) :
    readReg path off s = readWord path h off s := by
  unfold readReg; rw [hd]; simp [ha, hu, hh, hk]

theorem readReg_lo (path : Nat) (hh : h.hi = false) (hk : ¬(h.row.kind = .word ∨ h.row.kind = .view)) :
    readReg path off s = readLo path h off s := by
  unfold readReg; rw [hd]; simp only [ha, hu, hh, hk, Bool.false_eq_true, if_false]

end

/-- The registers that keep a peak, with what each is the peak of. -/
def peaksOf (s : State) : List (Nat × Nat) :=
  [(R.RING_INFLIGHT_PEAK, inflight s), (R.BUFFER_RES_USED_PEAK, pagesUsed s), (R.QUEUE_ALLOT_PEAK, s.table.length)]

theorem peakNow_of_mem {s : State} {e : Nat × Nat} (h : e ∈ peaksOf s) : peakNow s e.1 = some e.2 := by
  simp only [peaksOf, List.mem_cons, List.not_mem_nil, or_false] at h
  rcases h with rfl | rfl | rfl <;> simp [peakNow]

theorem peakNow_eq_none {s : State} {a : Nat} (h : ∀ e ∈ peaksOf s, a ≠ e.1) : peakNow s a = none := by
  simp only [peaksOf, List.forall_mem_cons] at h
  obtain ⟨h1, h2, h3, -⟩ := h
  simp [peakNow, h1, h2, h3]

theorem regsOnly_clearRead (a rc : Nat) (s : State) : regsOnly s (clearRead a rc s) [a] := by
  unfold clearRead
  dsimp only
  have h1 : regsOnly s (if rc = 0 then s else wr s a (rd s a &&& ~~~(BitVec.ofNat 32 rc))) [a] := by
    split
    · exact regsOnly_refl s _
    · exact regsOnly_wr ..
  split
  · exact h1.trans (regsOnly_wr ..)
  · exact h1

/-- A peak starts again from what stands. -/
theorem rd_clearRead_peak {a rc n : Nat} {s : State} (h : peakNow s a = some n) : rd (clearRead a rc s) a = BitVec.ofNat 32 n := by
  unfold clearRead; simp only [h, rd_wr_same]

theorem clearRead_rc_zero {a : Nat} {s : State} (h : peakNow s a = none) : clearRead a 0 s = s := by
  unfold clearRead; simp only [h, if_true]

theorem rd_clearRead {a rc : Nat} {s : State} (h : peakNow s a = none) :
    rd (clearRead a rc s) a = rd s a &&& ~~~(BitVec.ofNat 32 rc) := by
  by_cases hrc : rc = 0
  · subst hrc
    rw [clearRead_rc_zero h]
    exact (BitVec.and_allOnes ..).symm
  · unfold clearRead; simp only [h, hrc, if_false, rd_wr_same]

theorem readWord_plain {h : RegHit} (hb : h.row.base ∉ [R.TIME_TXQ_W0, R.PERF_SAMPLE_W0, R.INTC_HT_SUMMARY 0]) (path a : Nat) (s : State) :
    readWord path h a s = ((latchView path h s).getD (wordValue s h a), clearRead a h.row.rc s) := by
  simp only [List.mem_cons, List.not_mem_nil, or_false, not_or] at hb
  obtain ⟨h1, h2, h3⟩ := hb
  unfold readWord
  rw [if_neg h1, if_neg h2, if_neg h3]

theorem keeperLatch_eq_self {b : Nat} (h : entryAt pairViews b = none) (path : Nat) (s : State) : keeperLatch path b s = s := by
  unfold keeperLatch
  rw [if_neg (by rintro rfl; cases h), if_neg (by rintro rfl; cases h)]

/-- A LO read of a stored pair answers its LO half and latches its HI half. -/
theorem readLo_stored {h : RegHit} (hk : h.row.kind = .pairRW ∨ h.row.kind = .pairRO) (hv : entryAt pairViews h.row.base = none)
    (ht : h.row.base ≠ R.TIME_TOD 0) (path a : Nat) (s : State) :
    readLo path h a s = (rd s a, setLatch s path (a + 4) (rd s (a + 4))) := by
  have hlo : (rd64 s a).extractLsb' 0 32 = rd s a := BitVec.extractLsb'_append_eq_right
  have hhi : (rd64 s a).extractLsb' 32 32 = rd s (a + 4) := BitVec.extractLsb'_append_eq_left
  have hp : pairValue s h a = rd64 s a := by
    unfold pairValue
    rw [hv]
    rcases hk with hk | hk <;> simp [hk]
  have hc : h.row.kind ≠ .pairCnt := by rcases hk with hk | hk <;> simp [hk]
  unfold readLo
  rw [if_neg ht]
  simp only [keeperLatch_eq_self hv, hp, hlo, hhi, hc, if_false]

section
variable {s : State} {off : Nat} (hle : off + 4 ≤ bar0End) (hal : off % 4 = 0) (ho : barOpen s = true)
  {h : RegHit} (hd : decodeReg off = some h) (ha : absentAt s off = false) (hu : h.row.base ≠ R.PERF_USER_WIN 0 0)
include hle hal ho hd ha hu

/-- A read of a plain register answers its value and clears its RC bits. -/
theorem bar0Read_word (hh : h.hi = false) (hk : h.row.kind = .word ∨ h.row.kind = .view)
    (hb : h.row.base ∉ [R.TIME_TXQ_W0, R.PERF_SAMPLE_W0, R.INTC_HT_SUMMARY 0]) :
    ∃ t, exec (.rcRead off 4) s = .next t ∧
      answersOnly s t [off] [.readData (leBytes 4 ((latchView hostPath h s).getD (wordValue s h off)).toNat) false] ∧
      (∀ e ∈ peaksOf s, off = e.1 → rd t off = BitVec.ofNat 32 e.2) ∧
      ((∀ e ∈ peaksOf s, off ≠ e.1) → rd t off = rd s off &&& ~~~(BitVec.ofNat 32 h.row.rc) ∧ (h.row.rc = 0 → t.regs = s.regs)) := by
  have hr : readReg hostPath off s = ((latchView hostPath h s).getD (wordValue s h off), clearRead off h.row.rc s) := by
    rw [readReg_word hd ha hu _ hh hk, readWord_plain hb]
  rw [exec_bar0Read_dword hle]
  obtain ⟨t, ht, hans, hregs⟩ := viaBar_answersOnly ho (hostReadEff_dword hal s) (by rw [hr]; exact regsOnly_clearRead ..)
  rw [hr] at hans hregs
  refine ⟨t, ht, hans, fun e he hoff => ?_, fun hn => ⟨?_, fun hrc => ?_⟩⟩
  · subst hoff
    rw [rd_congr hregs, rd_clearRead_peak (peakNow_of_mem he)]
  · rw [rd_congr hregs, rd_clearRead (peakNow_eq_none hn)]
  · rw [hregs, hrc, clearRead_rc_zero (peakNow_eq_none hn)]

/-- A LO read answers the LO half and latches the HI half (00 R31). -/
theorem bar0Read_lo (hh : h.hi = false) (hk : h.row.kind = .pairRW ∨ h.row.kind = .pairRO) (hv : entryAt pairViews h.row.base = none)
    (htod : h.row.base ≠ R.TIME_TOD 0) :
    ∃ t, exec (.loRead off 4) s = .next t ∧ t.regs = s.regs ∧ t.wire = s.wire ++ [.readData (leBytes 4 (rd s off).toNat) false] ∧
      getLatch t hostPath (off + 4) = rd s (off + 4) ∧ t.host.stage = s.host.stage := by
  have hr : readReg hostPath off s = (rd s off, setLatch s hostPath (off + 4) (rd s (off + 4))) := by
    rw [readReg_lo hd ha hu _ hh (by rcases hk with hk | hk <;> simp [hk]), readLo_stored hk hv htod]
  have he : exec (.loRead off 4) s = viaBar s (hostReadEff off 4) := exec_bar0Read_dword hle s
  obtain ⟨t, ht, e⟩ := viaBar_next ho (hostReadEff off 4)
  rw [hostReadEff_dword hal, hr] at e
  have hth : t.host = (setLatch s hostPath (off + 4) (rd s (off + 4))).host := (congrArg State.host e :)
  refine ⟨t, he.trans ht, (congrArg State.regs e :), (congrArg State.wire e :), ?_,
    (congrArg (fun x : State => x.host.stage) e :)⟩
  rw [getLatch, hth]
  exact getLatch_setLatch_same ..

/-- A HI read answers what its path has latched (00 R33). -/
theorem bar0Read_hi (hh : h.hi = true) :
    ∃ t, exec (.loRead off 4) s = .next t ∧ answersOnly s t [] [.readData (leBytes 4 (getLatch s hostPath off).toNat) false] := by
  have hr := readReg_hi hd ha hu hostPath hh
  have he : exec (.loRead off 4) s = viaBar s (hostReadEff off 4) := exec_bar0Read_dword hle s
  obtain ⟨t, ht, hans, -⟩ := viaBar_answersOnly ho (hostReadEff_dword hal s) (by rw [hr]; exact regsOnly_refl s [])
  rw [hr] at hans
  exact ⟨t, he.trans ht, hans⟩

end

/-! ### The management path -/

theorem viaMgt_target {addr : BitVec 7} {s : State} (ho : barOpen s = true) (ha : addr.toNat = mgtAddress s) (f : State → State) :
    viaMgt addr s f = viaBar s f := if_pos (by simp [ho, ha])

/-- A transaction that the target does not take is not acknowledged (17 R901). -/
theorem viaMgt_other {addr : BitVec 7} {s : State} (h : barOpen s = false ∨ addr.toNat ≠ mgtAddress s) (f : State → State) :
    ∃ t, viaMgt addr s f = .next t ∧ answersOnly s t [] [.mgtNack 0] := by
  have hc : ¬(barOpen s && addr.toNat == mgtAddress s) = true := by rcases h with h | h <;> simp [h]
  exact ⟨_, if_neg hc, rfl, fun _ _ => rfl⟩

theorem mgtOffset_good {off : BitVec 32} (hal : off.toNat % 4 = 0) (hlt : off.toNat < bar0End) (f : State → State) :
    mgtOffset off f = f := funext fun _ => if_pos (by simp [mgtOffsetOk, hal, hlt])

theorem mgtOffset_bad {off : BitVec 32} (h : off.toNat % 4 ≠ 0 ∨ bar0End ≤ off.toNat) (f : State → State) (s : State) :
    mgtOffset off f s = emit s (.mgtNack 4) := if_neg (by rcases h with h | h <;> simp [mgtOffsetOk, h])

/-- What a read of the management path leaves to the host: its HI latches, the ticks latched with the Keeper's clocks, and the ns latched with
the times of day (17 R904). -/
structure HostLatchesKept (s t : State) : Prop where
  hi : ∀ a, a < bar0End → getLatch t hostPath a = getLatch s hostPath a
  rtc : look 0 t.keeper.rtcLatch hostPath = look 0 s.keeper.rtcLatch hostPath
  tod : look 0 t.keeper.todLatch hostPath = look 0 s.keeper.todLatch hostPath
  ns : ∀ d : Bool, look 0 t.time.todNs (b2n d) = look 0 s.time.todNs (b2n d)

theorem HostLatchesKept.refl (s : State) : HostLatchesKept s s := ⟨fun _ _ => rfl, rfl, rfl, fun _ => rfl⟩

theorem HostLatchesKept.trans {s t u : State} (h : HostLatchesKept s t) (h' : HostLatchesKept t u) : HostLatchesKept s u :=
  ⟨fun a ha => (h'.hi a ha).trans (h.hi a ha), h'.rtc.trans h.rtc, h'.tod.trans h.tod, fun d => (h'.ns d).trans (h.ns d)⟩

theorem HostLatchesKept.of_eq {s t : State} (hh : t.host = s.host) (hk : t.keeper = s.keeper)
    (ht : t.time.todNs = s.time.todNs) : HostLatchesKept s t :=
  ⟨fun a _ => by unfold getLatch; rw [hh], by rw [hk], by rw [hk], fun d => by rw [ht]⟩

theorem HostLatchesKept.of_regs {s t : State} (h : Frame [.intc, .perf, .regs] s t) : HostLatchesKept s t :=
  .of_eq (h.host_eq rfl) (h.keeper_eq rfl) (by rw [h.time_eq rfl])

/-- The latches of the management path stand apart from the host's. -/
theorem setLatch_keepsHostLatches (s : State) (a : Nat) (v : Word) : HostLatchesKept s (setLatch s mgtPath a v) := by
  refine ⟨fun b hb => look_put_ne _ _ _ ?_, rfl, rfl, fun _ => rfl⟩
  simp only [hostPath, mgtPath, bar0End] at hb ⊢
  omega

theorem keeperLatch_keepsHostLatches (b : Nat) (s : State) : HostLatchesKept s (keeperLatch mgtPath b s) := by
  unfold keeperLatch
  split
  · exact ⟨fun _ _ => rfl, look_put_ne _ _ _ (by decide), rfl, fun _ => rfl⟩
  · split
    · exact ⟨fun _ _ => rfl, rfl, look_put_ne _ _ _ (by decide), fun _ => rfl⟩
    · exact .refl s

theorem todRead_keepsHostLatches (d : Bool) (s : State) : HostLatchesKept s (todRead mgtPath d s).2 := by
  unfold todRead
  split
  · refine (setLatch_keepsHostLatches s _ _).trans ⟨fun _ _ => rfl, rfl, rfl, fun d' => look_put_ne _ _ _ ?_⟩
    cases d <;> cases d' <;> decide
  · exact .refl s

theorem txqRead_keepsHostLatches (s : State) : HostLatchesKept s (txqRead s).2 := by
  unfold txqRead
  split <;> exact .of_eq rfl rfl rfl

theorem readWord_keepsHostLatches (h : RegHit) (a : Nat) (s : State) : HostLatchesKept s (readWord mgtPath h a s).2 := by
  unfold readWord
  split
  · exact txqRead_keepsHostLatches s
  · split
    · exact .of_regs (sampleRead_frame.weaken rfl)
    · split
      · exact .of_regs (summaryRead_frame.weaken rfl)
      · exact .of_regs (clearRead_frame.weaken rfl)

theorem readLo_keepsHostLatches (h : RegHit) (a : Nat) (s : State) : HostLatchesKept s (readLo mgtPath h a s).2 := by
  unfold readLo
  split
  · exact todRead_keepsHostLatches _ s
  · have hl := (setLatch_keepsHostLatches s (a + 4) ((pairValue s h a).extractLsb' 32 32)).trans (keeperLatch_keepsHostLatches h.row.base _)
    dsimp only
    split
    · exact hl.trans (.of_regs (wr64_frame.weaken rfl))
    · exact hl

theorem readMirror_keepsHostLatches (a b : Nat) (s : State) : HostLatchesKept s (readMirror mgtPath a b s).2 := by
  unfold readMirror
  split
  · split
    · exact .refl s
    · split
      · exact .refl s
      · exact setLatch_keepsHostLatches s _ _
  · exact .refl s

theorem readWindow_keepsHostLatches (a : Nat) (s : State) : HostLatchesKept s (readWindow mgtPath a s).2 := by
  unfold readWindow
  split
  · split
    · exact .refl s
    · exact readMirror_keepsHostLatches a _ s
  · exact .refl s

theorem readReg_keepsHostLatches (a : Nat) (s : State) : HostLatchesKept s (readReg mgtPath a s).2 := by
  unfold readReg
  split
  · exact .of_regs (unmapped_frame.weaken rfl)
  · split
    · exact .refl s
    · split
      · exact readWindow_keepsHostLatches a s
      · split
        · exact .refl s
        · split
          · exact readWord_keepsHostLatches _ a s
          · exact readLo_keepsHostLatches _ a s

section
variable {s : State} {addr : BitVec 7} (ho : barOpen s = true) (hadd : addr.toNat = mgtAddress s)
include ho hadd

/-- A management write to the target is the same register write. -/
theorem mgtWrite_eq_registerWrite {off : BitVec 32} (hal : off.toNat % 4 = 0) (hlt : off.toNat < bar0End) (v : Word) :
    ∃ t, exec (.mgtWrite addr off v) s = .next t ∧ exec (.registerWrite off.toNat 0xF v) s = .next t := by
  have he : exec (.mgtWrite addr off v) s = viaBar s (writeReg off.toNat v) := by
    rw [← mgtOffset_good hal hlt (writeReg off.toNat v)]
    exact viaMgt_target ho hadd _
  rw [he, exec_registerWrite_whole hlt hal, viaBar_open ho]
  exact ⟨_, rfl, rfl⟩

theorem mgtSetOffset_good {off : BitVec 32} (hal : off.toNat % 4 = 0) (hlt : off.toNat < bar0End) :
    ∃ t, exec (.mgtSetOffset addr off) s = .next t ∧ t = { s with host := { s.host with mgt := off }, intc := t.intc } := by
  have he : exec (.mgtSetOffset addr off) s = viaBar s fun s => { s with host := { s.host with mgt := off } } := by
    rw [← mgtOffset_good hal hlt fun s : State => { s with host := { s.host with mgt := off } }]
    exact viaMgt_target ho hadd _
  rw [he]
  exact viaBar_next ho _

/-- A bad offset is not acknowledged at its fourth byte (17 R903). -/
theorem mgtOffset_nack {off : BitVec 32} (h : off.toNat % 4 ≠ 0 ∨ bar0End ≤ off.toNat) (f : State → State) :
    ∃ t, viaMgt addr s (mgtOffset off f) = .next t ∧ answersOnly s t [] [.mgtNack 4] := by
  rw [viaMgt_target ho hadd]
  obtain ⟨t, ht, hans, -⟩ := viaBar_answersOnly ho (mgtOffset_bad h f s) (regsOnly_refl s [])
  exact ⟨t, ht, hans⟩

/-- A management read answers and advances its offset, and leaves the host's latches alone. -/
theorem mgtRead_answers :
    ∃ t, exec (.mgtRead addr) s = .next t ∧ t.host.mgt = s.host.mgt + 4 ∧
      t.wire = s.wire ++ [.mgtData (readReg mgtPath s.host.mgt.toNat s).1] ∧ HostLatchesKept s t := by
  have he : exec (.mgtRead addr) s = viaBar s mgtReadEff := viaMgt_target ho hadd _
  obtain ⟨t, ht, e⟩ := viaBar_next ho mgtReadEff
  generalize hr : readReg mgtPath s.host.mgt.toNat s = r
  have hu : t = { r.2 with host := { r.2.host with mgt := s.host.mgt + 4 }, wire := r.2.wire ++ [.mgtData r.1], intc := t.intc } := by
    rw [mgtReadEff, hr] at e
    exact e
  have hwire : r.2.wire = s.wire := hr ▸ readReg_frame.wire_eq rfl
  have hkept : HostLatchesKept s r.2 := hr ▸ readReg_keepsHostLatches ..
  have hlast : HostLatchesKept r.2 t := by rw [hu]; exact ⟨fun _ _ => rfl, rfl, rfl, fun _ => rfl⟩
  exact ⟨t, he.trans ht, congrArg (fun x : State => x.host.mgt) hu, (congrArg State.wire hu).trans (by rw [hwire]), hkept.trans hlast⟩

end

/-! ### BAR2 -/

/-- Runs that follow one another without a gap from `a` on. -/
def Tiles : Nat → List (Nat × Nat) → Prop
  | _, [] => True
  | a, r :: l => r.1 = a ∧ Tiles (a + r.2) l

/-- Bytes of the runs together. -/
def runsLen (l : List (Nat × Nat)) : Nat := (l.map Prod.snd).sum

/-- The pieces between the marks `p 0, p 1, …` of a rising sequence. -/
theorem tiles_marks {p : Nat → Nat} (hp : Monotone p) (i k : Nat) :
    Tiles (p i) ((List.range' i k).map fun j => (p j, p (j + 1) - p j)) ∧
      runsLen ((List.range' i k).map fun j => (p j, p (j + 1) - p j)) = p (i + k) - p i := by
  induction k generalizing i with
  | zero => simp [Tiles, runsLen]
  | succ k ih =>
    have h1 : p i ≤ p (i + 1) := hp (Nat.le_succ i)
    have h2 : p (i + 1) ≤ p (i + 1 + k) := hp (Nat.le_add_right ..)
    obtain ⟨ht, hl⟩ := ih (i + 1)
    rw [List.range'_succ, List.map_cons]
    refine ⟨⟨rfl, by rwa [Nat.add_sub_cancel' h1]⟩, ?_⟩
    unfold runsLen at hl ⊢
    rw [List.map_cons, List.sum_cons, hl, show i + (k + 1) = i + 1 + k by omega]
    dsimp only
    omega

/-- Where the `i`-th piece of a span begins, and where the last one ends. -/
def spanMark (a n i : Nat) : Nat := max a (min (a + n) ((a / granuleSize + i) * granuleSize))

theorem spanMark_mono (a n : Nat) : Monotone (spanMark a n) := fun i j h => by
  simp only [spanMark, granuleSize]
  omega

theorem spanMark_zero (a n : Nat) : spanMark a n 0 = a := by
  simp only [spanMark, granuleSize]
  omega

/-- A span is cut at the marks. -/
theorem spanRuns_eq_marks {a n : Nat} (hn : n ≠ 0) :
    spanRuns a n = (List.range' 0 ((a + n - 1) / granuleSize + 1 - a / granuleSize)).map
      fun j => (spanMark a n j, spanMark a n (j + 1) - spanMark a n j) := by
  have hmax (x y : Nat) : Nat.max x y = max x y := rfl
  have hmin (x y : Nat) : Nat.min x y = min x y := rfl
  unfold spanRuns
  rw [if_neg hn, List.range_eq_range']
  refine List.map_congr_left fun i hi => ?_
  have him : i < (a + n - 1) / granuleSize + 1 - a / granuleSize := by simpa using hi
  simp only [spanMark, granuleSize, hmax, hmin, Prod.mk.injEq] at him ⊢
  omega

theorem spanMark_last (a n : Nat) : spanMark a n ((a + n - 1) / granuleSize + 1 - a / granuleSize) = a + n := by
  simp only [spanMark, granuleSize]
  omega

/-- The pieces of a span follow one another over its bytes. -/
theorem spanRuns_tiles (a n : Nat) : Tiles a (spanRuns a n) ∧ runsLen (spanRuns a n) = n := by
  by_cases hn : n = 0
  · subst hn
    exact ⟨trivial, rfl⟩
  · obtain ⟨ht, hl⟩ := tiles_marks (spanMark_mono a n) 0 ((a + n - 1) / granuleSize + 1 - a / granuleSize)
    rw [← spanRuns_eq_marks hn, spanMark_zero] at ht hl
    rw [Nat.zero_add, spanMark_last, Nat.add_sub_cancel_left] at hl
    exact ⟨ht, hl⟩

theorem memRead_memWriteAll (b : Bytes) (m : List Host.Cell) (a k : Nat) :
    memRead (memWriteAll m a b) k = if a ≤ k ∧ k < a + b.length then b.getD (k - a) 0 else memRead m k := by
  split
  next h =>
    induction b generalizing m a with
    | nil => simp at h; omega
    | cons v b ih =>
      rw [List.length_cons] at h
      rw [memWriteAll]
      by_cases hk : k = a
      · subst hk
        rw [memRead_memWriteAll_out b _ (by omega), memRead_memWrite_same]
        simp
      · rw [ih _ _ (by omega), show k - a = k - (a + 1) + 1 by omega]
        simp
  next h => exact memRead_memWriteAll_out b m (by omega)

theorem cisByte_cisWrite (s : State) (a : Nat) (b : Bytes) (k : Nat) :
    cisByte (cisWrite s a b) k = if a ≤ k ∧ k < a + b.length then b.getD (k - a) 0 else cisByte s k := memRead_memWriteAll ..

theorem cisByte_congr {s t : State} (h : t.cistern.mem = s.cistern.mem) (a : Nat) : cisByte t a = cisByte s a := by
  unfold cisByte; rw [h]

/-- Bytes written over runs without a gap read as written, and the others as before. -/
theorem cisByte_writeRuns (acc : Access) {l : List (Nat × Nat)} {a : Nat} {b : Bytes} (ht : Tiles a l) (hl : runsLen l = b.length)
    (s : State) (k : Nat) :
    cisByte (writeRuns acc s l b) k = if a ≤ k ∧ k < a + b.length then b.getD (k - a) 0 else cisByte s k := by
  induction l generalizing a b s with
  | nil =>
    have hb : b.length = 0 := hl.symm
    rw [if_neg (by omega)]
    rfl
  | cons r l ih =>
    obtain ⟨rfl, ht⟩ := ht
    have hr : r.2 + runsLen l = b.length := hl
    have hacc : (access s { acc with addr := r.1, bytes := r.2, write := true, res := false }).cistern.mem = s.cistern.mem := by
      rw [access_frame.cistern_eq rfl]
    rw [writeRuns, ih ht (by rw [List.length_drop]; omega), cisByte_cisWrite, cisByte_congr hacc, List.length_drop, List.length_take]
    by_cases h1 : r.1 + r.2 ≤ k
    · by_cases h2 : k < r.1 + b.length
      · rw [if_pos (by omega), if_pos (by omega), List.getD_eq_getElem?_getD, List.getD_eq_getElem?_getD, List.getElem?_drop,
          show r.2 + (k - (r.1 + r.2)) = k - r.1 by omega]
      · rw [if_neg (by omega), if_neg (by omega), if_neg (by omega)]
    · by_cases h2 : r.1 ≤ k
      · rw [if_neg (by omega), if_pos (by omega), if_pos (by omega), List.getD_eq_getElem?_getD, List.getD_eq_getElem?_getD,
          List.getElem?_take_of_lt (by omega)]
      · rw [if_neg (by omega), if_neg (by omega), if_neg (by omega)]

theorem cisByte_bar2Write (off : Nat) (b : Bytes) (s : State) (a : Nat) :
    cisByte (bar2Write off b s) a = if off ≤ a ∧ a < off + b.length ∧ a < cisternSize then b.getD (a - off) 0 else cisByte s a := by
  have hn : bar2Len off b.length ≤ b.length := Nat.min_le_left ..
  have htake : (b.take (bar2Len off b.length)).length = bar2Len off b.length := by rw [List.length_take]; omega
  obtain ⟨ht, hl⟩ := spanRuns_tiles off (bar2Len off b.length)
  unfold bar2Write
  rw [cisByte_writeRuns _ ht (hl.trans htake.symm), htake]
  have hmin : bar2Len off b.length = if b.length ≤ cisternSize - off then b.length else cisternSize - off := Nat.min_def
  by_cases hc : off ≤ a ∧ a < off + b.length ∧ a < cisternSize
  · have hlt : a - off < bar2Len off b.length := by rw [hmin]; split <;> omega
    rw [if_pos (by omega), if_pos hc, List.getD_eq_getElem?_getD, List.getD_eq_getElem?_getD, List.getElem?_take_of_lt hlt]
  · rw [if_neg (by rw [hmin]; split <;> omega), if_neg hc]

/-- The bytes read: the cistern's below 192 MiB, and 0 above. -/
theorem padTo_cisBytes (s : State) (off len : Nat) :
    padTo (cisBytes s off (bar2Len off len)) len =
      (List.range len).map fun i => if off + i < cisternSize then cisByte s (off + i) else 0 := by
  have hmin : bar2Len off len = if len ≤ cisternSize - off then len else cisternSize - off := Nat.min_def
  have hn : bar2Len off len ≤ len := Nat.min_le_left ..
  refine List.ext_getElem ?_ fun i h1 h2 => ?_
  · simp [padTo, cisBytes]
    omega
  · have hi : i < len := by simpa using h2
    simp only [padTo, cisBytes, List.getElem_append, List.length_map, List.length_range, List.getElem_map, List.getElem_range,
      List.getElem_replicate]
    by_cases hc : off + i < cisternSize
    · rw [dif_pos (by rw [hmin]; split <;> omega), if_pos hc]
    · rw [dif_neg (by rw [hmin]; split <;> omega), if_neg hc]

theorem exec_bar2Access_outside {off len : Nat} (h : bar2End < off + len) {b : Bytes} (hb : b.length = len) (u : Upset) (s : State) :
    exec (.bar2Access off (some b) len u) s = .fault .outsideBar2 ∧ exec (.bar2Access off none len u) s = .fault .outsideBar2 :=
  ⟨if_pos (by subst hb; exact h), if_pos h⟩

section
variable {s : State} {off len : Nat} (hle : off + len ≤ bar2End) (ho : barOpen s = true)
include hle ho

theorem bar2Access_write {b : Bytes} (hb : b.length = len) (u : Upset) :
    ∃ t, exec (.bar2Access off (some b) len u) s = .next t ∧ t.wire = s.wire ∧ t.queues = s.queues ∧
      ∀ a, cisByte t a = if off ≤ a ∧ a < off + len ∧ a < cisternSize then b.getD (a - off) 0 else cisByte s a := by
  subst hb
  have he : exec (.bar2Access off (some b) b.length u) s = viaBar s (bar2Write off b) := if_neg (Nat.not_lt.2 hle)
  obtain ⟨t, ht, e⟩ := viaBar_next ho (bar2Write off b)
  have hmem : t.cistern.mem = (bar2Write off b s).cistern.mem := (congrArg (fun x : State => x.cistern.mem) e :)
  refine ⟨t, he.trans ht, (congrArg State.wire e).trans (bar2Write_frame.wire_eq rfl),
    (congrArg State.queues e).trans (bar2Write_frame.queues_eq rfl), fun a => ?_⟩
  rw [cisByte_congr hmem, cisByte_bar2Write]

theorem bar2Access_read (u : Upset) :
    ∃ t bad, exec (.bar2Access off none len u) s = .next t ∧ t.cistern.mem = s.cistern.mem ∧
      t.wire = s.wire ++ [.readData ((List.range len).map fun i => if off + i < cisternSize then cisByte s (off + i) else 0) bad] := by
  have he : exec (.bar2Access off none len u) s = viaBar s (bar2Read off len u) := if_neg (Nat.not_lt.2 hle)
  let r := readRuns bar2Access (upset s u) (spanRuns off (bar2Len off len))
  have hr : Frame [.intc, .regs] (upset s u) r.1 := readRuns_frame
  have hmem : r.1.cistern.mem = s.cistern.mem := by rw [hr.cistern_eq rfl]; rfl
  have hwire : r.1.wire = s.wire := by rw [hr.wire_eq rfl]; rfl
  obtain ⟨t, ht, e⟩ := viaBar_next ho (bar2Read off len u)
  have hbytes := padTo_cisBytes r.1 off len
  simp only [cisByte_congr hmem] at hbytes
  refine ⟨t, r.2.isSome, he.trans ht, (congrArg (fun x : State => x.cistern.mem) e).trans hmem, ?_⟩
  rw [← hbytes, ← hwire]
  exact congrArg State.wire e

end

end Sys2Proof.Machine

open Sys2Proof Sys2Proof.Machine

/-- Settles O53, from what a write and a read of a register do and the frames of the two paths and of BAR2. -/
theorem registerPaths : Obligations.RegisterPaths := by
  unfold Obligations.RegisterPaths
  refine ⟨?_, ?_, ?_, ?_⟩
  · intro s off be v
    refine ⟨fun h => exec_registerWrite_outside h be v s, fun hlt ho => ⟨fun hb => registerWrite_partial hlt ho hb v, ?_, ?_, ?_, ?_, ?_⟩⟩
    · rintro rfl hal hd hp
      exact registerWrite_undecoded hlt hal ho hd hp v
    · rintro rfl hal h hd ha
      exact registerWrite_absent hlt hal ho hd ha v
    · rintro rfl hal h hd ha hk he
      refine ⟨registerWrite_word hlt hal ho hd ha he hk, fun hs hv hx => ?_⟩
      obtain ⟨t, ht, hr, hbits⟩ := registerWrite_firstValid hlt hal ho hd ha he hk hs hv hx
      exact ⟨t, ht, hr.mono (by simp [captured]), hbits⟩
    · rintro rfl hal h hd ha hk hb
      exact registerWrite_rxSetting hlt hal ho hd ha hk hb v
    · rintro rfl hal h hd ha hk he
      exact ⟨fun hh => registerWrite_pairLo hlt hal ho hd ha he hk hh v, fun hh h4 => registerWrite_pairHi hlt hal ho hd ha he hk hh h4 v⟩
  · intro s off len
    refine ⟨rfl, fun h => exec_bar0Read_outside h s, fun hle hal ho h hd ha hu => ⟨?_, ?_, ?_⟩⟩
    · exact bar0Read_word hle hal ho hd ha hu
    · exact bar0Read_lo hle hal ho hd ha hu
    · exact bar0Read_hi hle hal ho hd ha hu
  · intro s addr off v
    refine ⟨fun ho hadd => ⟨fun hal hlt => ?_, fun hbad => ?_, ?_⟩, fun hother => ?_⟩
    · exact ⟨mgtWrite_eq_registerWrite ho hadd hal hlt v, mgtSetOffset_good ho hadd hal hlt⟩
    · exact ⟨mgtOffset_nack ho hadd hbad _, mgtOffset_nack ho hadd hbad _⟩
    · obtain ⟨t, ht, hoff, hw, hk⟩ := mgtRead_answers ho hadd
      exact ⟨t, ht, hoff, hw, hk.hi, hk.rtc, hk.tod, hk.ns⟩
    · simp only [List.forall_mem_cons]
      exact ⟨viaMgt_other hother _, viaMgt_other hother _, viaMgt_other hother _, List.forall_mem_nil _⟩
  · intro s off len b u hb
    exact ⟨fun h => exec_bar2Access_outside h hb u s, fun hle ho => ⟨bar2Access_write hle ho hb u, bar2Access_read hle ho u⟩⟩

end

section
/-!
What the commands of chapter 01's paths share: the outcome of a core command, states that agree in every field, registers that an operation
leaves as they were, and what the release of a frame keeps.
-/
namespace Sys2Proof.Machine

/-! ### Outcomes and frames -/

/-- A core command answers its effect, but for what the interrupt controller samples. -/
theorem viaCore_frame {s : State} (h : running s = true) (f : State → State) : ∃ t, viaCore s f = .next t ∧ Frame [.intc] (f s) t :=
  ⟨_, viaCore_running h f, settle_frame⟩

/-- The same, as an equation for an effect written out. -/
theorem viaCore_next {s : State} (h : running s = true) (f : State → State) : ∃ t, viaCore s f = .next t ∧ t = { f s with intc := t.intc } :=
  ⟨_, viaCore_running h f, rfl⟩

/-- A register-path command answers its effect, but for what the interrupt controller samples. -/
theorem viaBar_frame {s : State} (h : barOpen s = true) (f : State → State) : ∃ t, viaBar s f = .next t ∧ Frame [.intc] (f s) t :=
  ⟨_, viaBar_open h f, settle_frame.trans accessed_frame⟩

/-- States that agree in every field are the same. -/
theorem State.eq_of_same {s t : State} (h : ∀ f : Field, f.same s t) : t = s := by
  cases s; cases t
  simp only [State.mk.injEq]
  exact ⟨h .pending, h .wire, h .free, h .now, h .fuses, h .power, h .mode, h .keeper, h .time, h .line, h .keys, h .reasm, h .intc, h .host,
    h .perf, h .paces, h .serial, h .past, h .turns, h .cistern, h .res, h .queues, h .robins, h .marks, h .table, h .drovers, h .store, h .gate,
    h .msgs, h .parser, h .cls, h .flights, h .ghosts, h .toQueue, h .toPort, h .rings, h .dmas, h .scans, h .ports, h .flash, h .loader, h .regs⟩

/-- A state that takes the fields of a frame from its end and the others from its beginning is its end. -/
theorem Frame.eq_of {l : List Field} {s t u : State} (h : Frame l s t) (hu : ∀ f : Field, if f.isIn l then f.same t u else f.same s u) :
    t = u := by
  refine State.eq_of_same fun f => ?_
  have hf := hu f
  by_cases hin : f.isIn l = true
  · rw [if_pos hin] at hf
    cases f <;> exact hf.symm
  · rw [if_neg hin] at hf
    have hs := h.1 f (Bool.not_eq_true _ ▸ hin)
    cases f <;> exact hs.trans hf.symm

theorem Frame.intcOnly {s t : State} (h : Frame [.intc] s t) : intcOnly s t := h.eq_of fun f => by cases f <;> rfl

/-- After an effect on registers alone only registers have changed. -/
theorem regsOnly.andIntc {s u t : State} {l : List Nat} (h : regsOnly s u l) (ht : Frame [.intc] u t) : regsOnly s t l :=
  h.trans ⟨(ht.weaken (m := [.regs, .intc]) rfl).eq_of fun f => by cases f <;> rfl, fun a _ => rd_congr (ht.regs_eq rfl) a⟩

/-! ### Registers that an operation leaves as they were -/

theorem rd_foldl {α : Type} {g : State → α → State} {l : List α} {a : Nat} (h : ∀ s, ∀ x ∈ l, rd (g s x) a = rd s a) (s : State) :
    rd (l.foldl g s) a = rd s a := by
  induction l generalizing s with
  | nil => rfl
  | cons x l ih =>
    rw [List.foldl_cons, ih fun s y hy => h s y (List.mem_cons_of_mem _ hy), h s x List.mem_cons_self]

theorem rd_inc48_ne (s : State) {a n ovf k b : Nat} (h : b ≠ a) (h4 : b ≠ a + 4) (ho : b ≠ ovf) (hp : b ≠ R.PERF_EVENT) :
    rd (inc48 s a n ovf k) b = rd s b := by
  unfold inc48
  dsimp only
  split
  · exact rd_wr64_ne _ _ h h4
  · rw [wrapped, rd_event_ne _ _ hp, rd_event_ne _ _ ho, rd_wr64_ne _ _ h h4]

/-- A cell event changes registers of its cell's counters and the event of a wrap alone. -/
theorem rd_cellEvent_below (s : State) {t c n a : Nat} (ev : CellEv) (h : a < 0x2100100 + t * 0x200000) (hp : a ≠ R.PERF_EVENT) :
    rd (cellEvent s t c ev n) a = rd s a := by
  unfold cellEvent
  refine rd_foldl (fun s k _ => ?_) s
  have hinc : rd (inc48 s (R.TRACT_CELL_CNT t c k) n (R.TRACT_CELL_CNT_OVF t c) k) a = rd s a :=
    rd_inc48_ne s (by unfold R.TRACT_CELL_CNT; omega) (by unfold R.TRACT_CELL_CNT; omega) (by unfold R.TRACT_CELL_CNT_OVF; omega) hp
  unfold cellInc
  dsimp only
  split
  · exact hinc
  · exact Eq.trans (rd_congr rfl a) hinc

theorem rd_tractCount1_below (s : State) {t k n a : Nat} (h : a < 0x2010000 + t * 0x200000) (hp : a ≠ R.PERF_EVENT) :
    rd (tractCount1 s t k n) a = rd s a := by
  unfold tractCount1
  dsimp only
  split
  · exact rd_wr_ne _ _ (by unfold R.TRACT_PERF_CNT; omega)
  · rw [wrapped, rd_event_ne _ _ hp, rd_event_ne _ _ (by unfold R.TRACT_PERF_OVF; omega),
      rd_wr_ne _ _ (by unfold R.TRACT_PERF_CNT; omega)]

/-- A tract event changes registers of its tract's counters and the event of a wrap alone. -/
theorem rd_tractEvent_below (s : State) {t n a : Nat} (ev : TractEv) (h : a < 0x2010000 + t * 0x200000) (hp : a ≠ R.PERF_EVENT) :
    rd (tractEvent s t ev n) a = rd s a := by
  unfold tractEvent
  refine rd_foldl (fun s k _ => ?_) s
  unfold tractInc
  split
  · dsimp only
    have hlow (u : State) (hu : u.regs = (wr s (R.TRACT_PERF_CNT t k) (rd s (R.TRACT_PERF_CNT t k) + BitVec.ofNat 32 n)).regs) :
        rd u a = rd s a :=
      (rd_congr hu a).trans (rd_wr_ne _ _ (by unfold R.TRACT_PERF_CNT; omega))
    split
    · exact hlow _ rfl
    · exact (rd_tractCount1_below _ h hp).trans (hlow _ rfl)
  · exact rd_tractCount1_below _ h hp

/-- An access changes access counters and the event of a wrap alone. -/
theorem rd_access_out (s : State) (x : Access) {a : Nat} (h : a < R.PERF_EVENT ∨ 0xC00200 ≤ a) : rd (access s x) a = rd s a := by
  unfold access
  refine rd_foldl (fun s k hk => ?_) s
  have hk : k < 8 := List.mem_range.1 hk
  have hcnt (v : DWord) : rd (wr64 s (R.PERF_ACC_CNT k) v) a = rd s a :=
    rd_wr64_ne _ _ (by unfold R.PERF_ACC_CNT; unfold R.PERF_EVENT at h; omega) (by unfold R.PERF_ACC_CNT; unfold R.PERF_EVENT at h; omega)
  unfold accessInc
  dsimp only
  split
  · split
    · exact hcnt _
    · rw [wrapped, rd_event_ne _ _ (by unfold R.PERF_EVENT at h ⊢; omega), hcnt]
  · rfl

/-- The release of an entry version changes the event of a retired slot alone. -/
theorem rd_releaseVersion_ne (k : Nat) (s : State) {a : Nat} (h : a ≠ R.CLASS_EVENT) : rd (releaseVersion k s) a = rd s a := by
  unfold releaseVersion
  dsimp only
  split
  · rw [retireSlot, rd_event_ne _ _ h]
    rfl
  · rfl

theorem rd_releaseStamp_ne (x : Option FrontStamp) (s : State) {a : Nat} (h : a ≠ R.CLASS_EVENT) : rd (releaseStamp x s) a = rd s a := by
  unfold releaseStamp
  split
  · exact rd_releaseVersion_ne _ _ h
  · rfl

theorem rd_endFlight_ne (f : Flight) (s : State) {a : Nat} (h : a ≠ R.CLASS_EVENT) : rd (endFlight f s) a = rd s a :=
  (rd_releaseVersion_ne _ _ h).trans rfl

theorem rd_releaseFlight_ne (f : Flight) (s : State) {a : Nat} (h : a ≠ R.CLASS_EVENT) : rd (releaseFlight f s) a = rd s a := by
  rw [releaseFlight, rd_endFlight_ne _ _ h, rd_congr (tsOutcome_frame.regs_eq rfl), rd_congr (releaseSpace_frame.regs_eq rfl)]

theorem rd_dropFlight_ne (f : Flight) (s : State) {a : Nat} (h : a ≠ R.CLASS_EVENT) : rd (dropFlight f s) a = rd s a := by
  rw [dropFlight, rd_endFlight_ne _ _ h, rd_congr (tsOutcome_frame.regs_eq rfl), rd_congr (returnSpace_frame.regs_eq rfl)]

theorem rd_freeChunks (s : State) (l : List Chunk) (a : Nat) : rd (freeChunks s l) a = rd s a := rd_congr (freeChunks_frame.regs_eq rfl) a

/-- A fault recorded after changes that leave the block's count alone is recorded once. -/
theorem recorded_fault_after {s u t : State} {b : Block} {code inst : Nat} {ident : DWord} (hc : code < 32)
    (hu : rd u (b.base + 4) = rd s (b.base + 4)) (ht : t.regs = (fault u b code inst ident).regs) : recorded s t b code := by
  obtain ⟨hcode, hvalid, hcount⟩ := recorded_congr ht (recorded_fault u b inst ident hc)
  exact ⟨hcode, hvalid, by rw [hcount, hu]⟩

/-! ### Flights that end -/

theorem endFlight_flights (f : Flight) (s : State) : (endFlight f s).flights = s.flights.filter fun g => g.tag != f.tag :=
  releaseVersion_frame.flights_eq rfl

theorem releaseFlight_flights (f : Flight) (s : State) : (releaseFlight f s).flights = s.flights.filter fun g => g.tag != f.tag := by
  rw [releaseFlight, endFlight_flights, tsOutcome_frame.flights_eq rfl, releaseSpace_frame.flights_eq rfl]

theorem dropFlight_flights (f : Flight) (s : State) : (dropFlight f s).flights = s.flights.filter fun g => g.tag != f.tag := by
  rw [dropFlight, endFlight_flights, tsOutcome_frame.flights_eq rfl, returnSpace_frame.flights_eq rfl]

/-- No flight has a tag whose flights have been taken out. -/
theorem flight_eq_none_of_filter {s t : State} {f : Flight} {tag : Nat} (hf : f.tag = tag)
    (h : t.flights = s.flights.filter fun g => g.tag != f.tag) : flight t tag = none := by
  subst hf
  unfold flight
  rw [h, List.find?_eq_none]
  intro g hg
  simpa using (List.mem_filter.1 hg).2

theorem flight_tag {s : State} {tag : Nat} {f : Flight} (h : flight s tag = some f) : f.tag = tag := by
  simpa using List.find?_some h

end Sys2Proof.Machine
end

section
/-!
Cell health (O45): stalls, the cell map and its fence, cell resets, and the drain of a front.
-/
namespace Sys2Proof.Machine

theorem regsOnly_event (s : State) (a i : Nat) : regsOnly s (event s a i) [a] := regsOnly_wr s a _

theorem regsOnly_mapConflict (t : Nat) (ident : DWord) (s : State) : regsOnly s (mapConflict t ident s) (recordOf (.tract t)) :=
  regsOnly_fault ..

/-! ### Stalls (02 R123) -/

theorem cellStallEff_set {s : State} {n c : Nat} (h : rbit s (R.TRACT_CELL_HEALTH n) c = true) : cellStallEff n c s = s := by
  unfold cellStallEff
  rw [h]
  simp

theorem cellStallEff_clear {s : State} {n c : Nat} (hs : stalled s n c = true) (h : rbit s (R.TRACT_CELL_HEALTH n) c = false) :
    cellStallEff n c s = fault (event s (R.TRACT_CELL_HEALTH n) c) (.tract n) 2 c (BitVec.ofNat 64 (roleOf s n c)) := by
  unfold cellStallEff
  exact if_pos (by rw [hs, h]; rfl)

theorem health_not_in_record (n : Nat) : R.TRACT_CELL_HEALTH n ∉ recordOf (.tract n) := by
  simp only [recordOf, Block.base, R.TRACT_CELL_HEALTH, List.mem_cons, List.not_mem_nil, or_false]
  omega

/-- A stall sets the health bit and is recorded; one whose bit is set already is not recorded again. -/
theorem cellStall_once {s : State} {n : Fin 8} {c : Fin 18} (hr : running s = true) (hs : stalled s n c = true) :
    ∃ t, exec (.cellStall n c) s = .next t ∧
      (rbit s (R.TRACT_CELL_HEALTH n) c = false →
        regsOnly s t (R.TRACT_CELL_HEALTH n :: recordOf (.tract n)) ∧ recorded s t (.tract n) 2 ∧
        rd t (R.TRACT_CELL_HEALTH n) = rd s (R.TRACT_CELL_HEALTH n) ||| oneHot c) ∧
      (rbit s (R.TRACT_CELL_HEALTH n) c = true → intcOnly s t) := by
  have hx : exec (.cellStall n c) s = viaCore s (cellStallEff n c) := rfl
  rw [hx]
  by_cases hb : rbit s (R.TRACT_CELL_HEALTH n) c = true
  · obtain ⟨t, ht, hF⟩ := viaCore_frame hr (cellStallEff n c)
    rw [cellStallEff_set hb] at hF
    exact ⟨t, ht, fun h => absurd hb (by simp [h]), fun _ => hF.intcOnly⟩
  · have he := cellStallEff_clear hs (Bool.not_eq_true _ ▸ hb)
    obtain ⟨t, ht, hF⟩ := viaCore_frame hr (cellStallEff n c)
    rw [he] at hF
    have hreg := ((regsOnly_event s (R.TRACT_CELL_HEALTH n) c).mono (m := R.TRACT_CELL_HEALTH n :: recordOf (.tract n)) (by simp)).trans
      ((regsOnly_fault _ (.tract n) 2 c (BitVec.ofNat 64 (roleOf s n c))).mono (by simp))
    have hregs := hF.regs_eq rfl
    refine ⟨t, ht, fun _ => ⟨hreg.andIntc hF, recorded_fault_after (by decide) (rd_event_ne _ _ ?_) hregs, ?_⟩, fun h => absurd h hb⟩
    · unfold Block.base R.TRACT_CELL_HEALTH
      dsimp only
      omega
    · rw [rd_congr hregs, (regsOnly_fault _ _ _ _ _).2 _ (health_not_in_record n), rd_event_same]

/-! ### The cell map and its fence (01 R68, R69, 02 R125-R129) -/

/-- What the fence of cells keeps: the map, the queues, fence bits that are set, and no flight comes into being. -/
structure Fencing (n : Nat) (s t : State) : Prop where
  map : ∀ k, k < 4 → rd t (R.TRACT_CELL_MAP n k) = rd s (R.TRACT_CELL_MAP n k)
  queues : t.queues = s.queues
  fence : ∀ c, rbit s (R.TRACT_CELL_FENCE n) c = true → rbit t (R.TRACT_CELL_FENCE n) c = true
  flights : t.flights ⊆ s.flights

theorem Fencing.refl (n : Nat) (s : State) : Fencing n s s := ⟨fun _ _ => rfl, rfl, fun _ h => h, fun _ h => h⟩

theorem Fencing.trans {n : Nat} {s t u : State} (h : Fencing n s t) (h' : Fencing n t u) : Fencing n s u :=
  ⟨fun k hk => (h'.map k hk).trans (h.map k hk), h'.queues.trans h.queues, fun c hc => h'.fence c (h.fence c hc),
    fun _ hf => h.flights (h'.flights hf)⟩

theorem Fencing.foldl {n : Nat} {α : Type} {g : State → α → State} {l : List α} (h : ∀ s, ∀ x ∈ l, Fencing n s (g s x)) (s : State) :
    Fencing n s (l.foldl g s) := by
  induction l generalizing s with
  | nil => exact .refl n s
  | cons x l ih => exact (h s x List.mem_cons_self).trans (ih (fun s y hy => h s y (List.mem_cons_of_mem _ hy)) _)

theorem rbit_event_of_rbit {s : State} {a i j : Nat} (h : rbit s a j = true) : rbit (event s a i) a j = true := by
  unfold rbit bit at h ⊢
  rw [rd_event_same, BitVec.getLsbD_or, h, Bool.true_or]

theorem rbit_event_self (s : State) {a i : Nat} (hi : i < 32) : rbit (event s a i) a i = true := by
  unfold rbit
  rw [rd_event_same, bit_or_oneHot _ _ _ hi]
  simp

theorem fencing_event (n c : Nat) (s : State) : Fencing n s (event s (R.TRACT_CELL_FENCE n) c) where
  map k hk := rd_event_ne _ _ (by unfold R.TRACT_CELL_MAP R.TRACT_CELL_FENCE; omega)
  queues := event_frame.queues_eq rfl
  fence _ h := rbit_event_of_rbit h
  flights := by rw [event_frame.flights_eq rfl]; exact fun _ h => h

/-- A token that the fence will stop is noted for its cell. -/
def addGhost (g : Ghost) (s : State) : State := { s with ghosts := s.ghosts ++ [g] }

theorem addGhost_frame {g : Ghost} {s : State} : Frame [.ghosts] s (addGhost g s) := Frame.refl.with_ghosts rfl

/-- The release of a token that a fenced cell holds (02 R126, R127). -/
def fenceToken (t c : Nat) (s : State) (f : Flight) : State :=
  addGhost ⟨f.tag, t, c⟩ (bump (releaseFlight f s) (R.TRACT_FENCE_ABANDON t))

theorem fenceToken_frame {t c : Nat} {s : State} {f : Flight} : Frame [.cistern, .cls, .flights, .ghosts, .rings, .regs] s (fenceToken t c s f) :=
  ((releaseFlight_frame.weaken rfl).trans (bump_frame.weaken rfl)).trans (addGhost_frame.weaken rfl)

theorem fenceCell_eq (t : Nat) (s : State) (c : Nat) :
    fenceCell t s c =
      (s.flights.filter fun f => f.loc == .cell && f.tract == t && f.cell == c).foldl (fenceToken t c) (event s (R.TRACT_CELL_FENCE t) c) := rfl

theorem fenceToken_flights (t c : Nat) (s : State) (f : Flight) :
    (fenceToken t c s f).flights = s.flights.filter fun g => g.tag != f.tag := by
  rw [fenceToken, addGhost_frame.flights_eq rfl, bump_frame.flights_eq rfl, releaseFlight_flights]

theorem rd_fenceToken_ne (t c : Nat) (s : State) (f : Flight) {a : Nat} (h : a ≠ R.CLASS_EVENT) (ha : a ≠ R.TRACT_FENCE_ABANDON t) :
    rd (fenceToken t c s f) a = rd s a := by
  rw [fenceToken, rd_congr (addGhost_frame.regs_eq rfl), rd_bump_ne _ ha, rd_releaseFlight_ne _ _ h]

theorem fencing_fenceToken (n c : Nat) (s : State) (f : Flight) : Fencing n s (fenceToken n c s f) where
  map k hk := rd_fenceToken_ne _ _ _ _ (by unfold R.TRACT_CELL_MAP R.CLASS_EVENT; omega)
    (by unfold R.TRACT_CELL_MAP R.TRACT_FENCE_ABANDON; omega)
  queues := fenceToken_frame.queues_eq rfl
  fence i h := by
    unfold rbit at h ⊢
    rwa [rd_fenceToken_ne _ _ _ _ (by unfold R.TRACT_CELL_FENCE R.CLASS_EVENT; omega)
      (by unfold R.TRACT_CELL_FENCE R.TRACT_FENCE_ABANDON; omega)]
  flights := by
    rw [fenceToken_flights]
    exact List.filter_subset_self _

theorem tag_ne_of_mem_foldl_fenceToken {t c : Nat} {l : List Flight} {s : State} {g : Flight}
    (h : g ∈ (l.foldl (fenceToken t c) s).flights) : ∀ f ∈ l, g.tag ≠ f.tag := by
  induction l generalizing s with
  | nil => simp
  | cons x l ih =>
    refine List.forall_mem_cons.2 ⟨?_, ih h⟩
    have hx := (Fencing.foldl (fun s f _ => fencing_fenceToken t c s f) (fenceToken t c s x)).flights h
    rw [fenceToken_flights] at hx
    simpa using (List.mem_filter.1 hx).2

theorem fencing_fenceCell (n : Nat) (s : State) (c : Nat) : Fencing n s (fenceCell n s c) := by
  rw [fenceCell_eq]
  exact (fencing_event n c s).trans (.foldl (fun s f _ => fencing_fenceToken n c s f) _)

/-- A fenced cell's fence bit is set, and it holds no flight. -/
theorem fenceCell_fences (n : Nat) (s : State) {c : Nat} (hc : c < 32) :
    rbit (fenceCell n s c) (R.TRACT_CELL_FENCE n) c = true ∧
      ∀ f ∈ (fenceCell n s c).flights, ¬(f.loc = .cell ∧ f.tract = n ∧ f.cell = c) := by
  rw [fenceCell_eq]
  have hrest := Fencing.foldl (l := s.flights.filter fun f => f.loc == .cell && f.tract == n && f.cell == c)
    (fun s f _ => fencing_fenceToken n c s f) (event s (R.TRACT_CELL_FENCE n) c)
  refine ⟨hrest.fence _ (rbit_event_self s hc), fun f hf ⟨hl, ht, hcell⟩ => ?_⟩
  have hs := hrest.flights hf
  rw [event_frame.flights_eq rfl] at hs
  exact tag_ne_of_mem_foldl_fenceToken hf f (List.mem_filter.2 ⟨hs, by simp [hl, ht, hcell]⟩) rfl

theorem foldl_fenceCell (n : Nat) {l : List Nat} (hl : ∀ c ∈ l, c < 32) (s : State) {c : Nat} (hc : c ∈ l) :
    rbit (l.foldl (fenceCell n) s) (R.TRACT_CELL_FENCE n) c = true ∧
      ∀ f ∈ (l.foldl (fenceCell n) s).flights, ¬(f.loc = .cell ∧ f.tract = n ∧ f.cell = c) := by
  induction l generalizing s with
  | nil => cases hc
  | cons x l ih =>
    obtain ⟨hx, hl⟩ := List.forall_mem_cons.1 hl
    rcases List.mem_cons.1 hc with rfl | hc
    · have hrest := Fencing.foldl (l := l) (fun s y _ => fencing_fenceCell n s y) (fenceCell n s c)
      obtain ⟨hbit, hnone⟩ := fenceCell_fences n s hx
      exact ⟨hrest.fence _ hbit, fun f hf => hnone f (hrest.flights hf)⟩
    · exact ih hl _ hc

theorem cellOf_congr {s t : State} {n : Nat} (h : ∀ k, k < 4 → rd t (R.TRACT_CELL_MAP n k) = rd s (R.TRACT_CELL_MAP n k)) {r : Nat} (hr : r < 16) :
    cellOf t n r = cellOf s n r := by
  unfold cellOf rfld
  rw [h _ (by omega)]

theorem inMap_congr {s t : State} {n : Nat} (h : ∀ k, k < 4 → rd t (R.TRACT_CELL_MAP n k) = rd s (R.TRACT_CELL_MAP n k)) (c : Nat) :
    inMap t n c = inMap s n c := by
  unfold inMap
  rw [Bool.eq_iff_iff]
  simp only [List.any_eq_true, List.mem_range]
  exact exists_congr fun r => and_congr_right fun hr => by rw [cellOf_congr h hr]

/-- The cells that a map word with value `v` would name. -/
def newCells (s : State) (n k : Nat) (v : Word) : List Nat := (List.range 16).map (cellOf (wr s (R.TRACT_CELL_MAP n k) (v &&& 0x1F1F1F1F)) n)

/-- A write of the map is refused (01 R68, 02 R129, 15 R799). -/
def mapRefused (s : State) (n k : Nat) (v : Word) : Prop :=
  ((newCells s n k v).any fun c => decide (17 < c) || rbit s (R.TRACT_CELL_FENCE n) c) = true ∨ ¬(newCells s n k v).Nodup ∨
    ∃ m, m < 8 ∧ reloading s m = true

/-- The cells of a map write that leave the map. -/
def cellsLeaving (s : State) (n k : Nat) (v : Word) : List Nat :=
  (List.range 18).filter fun c => inMap s n c && !inMap (wr s (R.TRACT_CELL_MAP n k) (v &&& 0x1F1F1F1F)) n c

theorem setCellMap_eq (n k : Nat) (v : Word) (s : State) :
    setCellMap n k v s =
      if ((newCells s n k v).any fun c => decide (17 < c) || rbit s (R.TRACT_CELL_FENCE n) c) || !decide (newCells s n k v).Nodup then
        mapConflict n (BitVec.ofNat 64 (k * 2 ^ 32 + v.toNat)) s
      else (cellsLeaving s n k v).foldl (fenceCell n) (wr s (R.TRACT_CELL_MAP n k) (v &&& 0x1F1F1F1F)) := by
  unfold setCellMap newCells cellsLeaving
  rfl

theorem any_reloading {s : State} : (List.range 8).any (reloading s) = true ↔ ∃ m, m < 8 ∧ reloading s m = true := by simp

theorem cellMapEff_refused {s : State} {n k : Nat} {v : Word} (ht : hasTract s n = true) (h : mapRefused s n k v) :
    cellMapEff n k v s = mapConflict n (BitVec.ofNat 64 (k * 2 ^ 32 + v.toNat)) s := by
  unfold cellMapEff
  rw [if_neg (by simp [ht])]
  split
  · rfl
  next hre =>
    rw [any_reloading] at hre
    rw [setCellMap_eq]
    rcases h with hbad | hdup | hrel
    · rw [if_pos (by rw [hbad, Bool.true_or])]
    · rw [if_pos (by rw [decide_eq_false hdup, Bool.not_false, Bool.or_true])]
    · exact absurd hrel hre

theorem cellMapEff_taken {s : State} {n k : Nat} {v : Word} (ht : hasTract s n = true) (h : ¬mapRefused s n k v) :
    cellMapEff n k v s = (cellsLeaving s n k v).foldl (fenceCell n) (wr s (R.TRACT_CELL_MAP n k) (v &&& 0x1F1F1F1F)) := by
  unfold mapRefused at h
  obtain ⟨hbad, hdup, hrel⟩ : _ ∧ _ ∧ _ := ⟨fun x => h (.inl x), fun x => h (.inr (.inl x)), fun x => h (.inr (.inr x))⟩
  unfold cellMapEff
  rw [if_neg (by simp [ht]), if_neg (by rw [any_reloading]; exact hrel)]
  rw [setCellMap_eq, if_neg (by rw [Bool.or_eq_true, not_or]; exact ⟨hbad, by rw [decide_eq_true (not_not.1 hdup)]; simp⟩)]

theorem tractCellMap_judged {s : State} {n : Fin 8} {k : Fin 4} {v : Word} (ho : barOpen s = true) (ht : hasTract s n = true) :
    ∃ t, exec (.tractCellMap n k v) s = .next t ∧
      (mapRefused s n k v → regsOnly s t (recordOf (.tract n)) ∧ recorded s t (.tract n) 1) ∧
      (¬mapRefused s n k v → rd t (R.TRACT_CELL_MAP n k) = v &&& 0x1F1F1F1F ∧ t.queues = s.queues ∧
        ∀ c, c < 18 → inMap s n c = true → inMap t n c = false →
          rbit t (R.TRACT_CELL_FENCE n) c = true ∧ ∀ f ∈ t.flights, ¬(f.loc = .cell ∧ f.tract = n.val ∧ f.cell = c)) := by
  obtain ⟨t, hn, hF⟩ := viaBar_frame ho (cellMapEff n k v)
  refine ⟨t, hn, fun hre => ?_, fun hre => ?_⟩
  · rw [cellMapEff_refused ht hre] at hF
    exact ⟨(regsOnly_mapConflict ..).andIntc hF, recorded_fault_after (by decide) rfl (hF.regs_eq rfl)⟩
  · rw [cellMapEff_taken ht hre] at hF
    have hf := Fencing.foldl (l := cellsLeaving s n k v) (fun s c _ => fencing_fenceCell n s c) (wr s (R.TRACT_CELL_MAP n k) (v &&& 0x1F1F1F1F))
    have hmap (j : Nat) (hj : j < 4) := (rd_congr (hF.regs_eq rfl) (R.TRACT_CELL_MAP n j)).trans (hf.map j hj)
    refine ⟨(hmap k k.isLt).trans (rd_wr_same ..), (hF.queues_eq rfl).trans (hf.queues.trans (wr_queues ..)), fun c hc hin hout => ?_⟩
    rw [inMap_congr hmap] at hout
    have hmem : c ∈ cellsLeaving s n k v := List.mem_filter.2 ⟨List.mem_range.2 hc, by rw [hin, hout]; rfl⟩
    have h32 : ∀ x ∈ cellsLeaving s n k v, x < 32 := fun x hx => by have := List.mem_range.1 (List.mem_filter.1 hx).1; omega
    rw [rbit_congr (hF.regs_eq rfl), hF.flights_eq rfl]
    exact foldl_fenceCell n h32 _ hmem

/-! ### Cell resets (02 R130, R131) -/

/-- A reset request of one cell. -/
def resetCell (n : Nat) (v : Word) (s : State) (c : Nat) : State :=
  if inMap s n c then mapConflict n (v.setWidth 64) s else event s (R.TRACT_CELL_RESET n) c

theorem cellResetEff_eq {s : State} {n : Nat} (ht : hasTract s n = true) (v : Word) :
    cellResetEff n v s = ((List.range 18).filter (bit v)).foldl (resetCell n v) s := if_pos ht

theorem map_not_in_reset (n : Nat) {k : Nat} (hk : k < 4) : R.TRACT_CELL_MAP n k ∉ R.TRACT_CELL_RESET n :: recordOf (.tract n) := by
  simp only [recordOf, Block.base, R.TRACT_CELL_MAP, R.TRACT_CELL_RESET, List.mem_cons, List.not_mem_nil, or_false]
  omega

theorem reset_not_in_record (n : Nat) : R.TRACT_CELL_RESET n ∉ recordOf (.tract n) := by
  simp only [recordOf, Block.base, R.TRACT_CELL_RESET, List.mem_cons, List.not_mem_nil, or_false]
  omega

theorem base_ne_reset (n : Nat) : (Block.tract n).base ≠ R.TRACT_CELL_RESET n := by
  unfold Block.base R.TRACT_CELL_RESET
  dsimp only
  omega

theorem resetCell_regsOnly (n : Nat) (v : Word) (s : State) (c : Nat) :
    regsOnly s (resetCell n v s c) (R.TRACT_CELL_RESET n :: recordOf (.tract n)) := by
  unfold resetCell
  split
  · exact (regsOnly_mapConflict ..).mono (by simp)
  · exact (regsOnly_event ..).mono (by simp)

theorem resetCell_inMap (n : Nat) (v : Word) (s : State) (c d : Nat) : inMap (resetCell n v s c) n d = inMap s n d :=
  inMap_congr (fun _ hk => (resetCell_regsOnly n v s c).2 _ (map_not_in_reset n hk)) d

theorem resetCell_rbit (n : Nat) (v : Word) (s : State) (c : Nat) {d : Nat} (hd : d < 32) :
    rbit (resetCell n v s c) (R.TRACT_CELL_RESET n) d = (rbit s (R.TRACT_CELL_RESET n) d || (decide (c = d) && !inMap s n d)) := by
  unfold resetCell
  split
  next h =>
    have hkeep : rbit (mapConflict n (v.setWidth 64) s) (R.TRACT_CELL_RESET n) d = rbit s (R.TRACT_CELL_RESET n) d := by
      unfold rbit
      rw [(regsOnly_mapConflict ..).2 _ (reset_not_in_record n)]
    rw [hkeep]
    by_cases hcd : c = d
    · subst hcd
      simp [h]
    · simp [hcd]
  next h =>
    unfold rbit
    rw [rd_event_same, bit_or_oneHot _ _ _ hd]
    by_cases hcd : c = d
    · subst hcd
      simp [h]
    · simp [hcd]

theorem resetCell_conflict {n : Nat} {s : State} {c : Nat} (v : Word)
    (h : inMap s n c = true ∨ rbit s (Block.tract n).base 1 = true) : rbit (resetCell n v s c) (Block.tract n).base 1 = true := by
  unfold resetCell
  split
  · exact (recorded_fault s (.tract n) wholeBlock (v.setWidth 64) (by decide)).1
  next hm =>
    unfold rbit
    rw [rd_event_ne _ _ (base_ne_reset n)]
    exact h.resolve_left hm

/-- What the reset requests of a list of cells come to. -/
theorem foldl_resetCell (n : Nat) (v : Word) (l : List Nat) (s : State) :
    regsOnly s (l.foldl (resetCell n v) s) (R.TRACT_CELL_RESET n :: recordOf (.tract n)) ∧
      (∀ d, d < 32 → rbit (l.foldl (resetCell n v) s) (R.TRACT_CELL_RESET n) d =
        (rbit s (R.TRACT_CELL_RESET n) d || (decide (d ∈ l) && !inMap s n d))) ∧
      ((∃ c ∈ l, inMap s n c = true) ∨ rbit s (Block.tract n).base 1 = true →
        rbit (l.foldl (resetCell n v) s) (Block.tract n).base 1 = true) := by
  induction l generalizing s with
  | nil => exact ⟨regsOnly_refl s _, fun d _ => by simp, fun h => by simpa using h⟩
  | cons c l ih =>
    obtain ⟨hreg, hbit, hconf⟩ := ih (resetCell n v s c)
    simp only [resetCell_inMap] at hbit hconf
    refine ⟨(resetCell_regsOnly n v s c).trans hreg, fun d hd => ?_, fun h => hconf ?_⟩
    · rw [List.foldl_cons, hbit d hd, resetCell_rbit n v s c hd, Bool.or_assoc, ← Bool.and_or_distrib_right]
      simp [eq_comm]
    · rcases h with ⟨e, he, hin⟩ | hset
      · rcases List.mem_cons.1 he with rfl | he
        · exact .inr (resetCell_conflict v (.inl hin))
        · exact .inl ⟨e, he, hin⟩
      · exact .inr (resetCell_conflict v (.inr hset))

theorem tractCellReset_sets {s : State} {n : Fin 8} {v : Word} (ho : barOpen s = true) (ht : hasTract s n = true) :
    ∃ t, exec (.tractCellReset n v) s = .next t ∧ regsOnly s t (R.TRACT_CELL_RESET n :: recordOf (.tract n)) ∧
      (∀ c, c < 18 → rbit t (R.TRACT_CELL_RESET n) c = (rbit s (R.TRACT_CELL_RESET n) c || (bit v c && !inMap s n c))) ∧
      ((∃ c, c < 18 ∧ bit v c = true ∧ inMap s n c = true) → rbit t (Block.tract n).base 1 = true) := by
  obtain ⟨t, hn, hF⟩ := viaBar_frame ho (cellResetEff n v)
  rw [cellResetEff_eq ht] at hF
  obtain ⟨hreg, hbit, hconf⟩ := foldl_resetCell n v ((List.range 18).filter (bit v)) s
  refine ⟨t, hn, hreg.andIntc hF, fun c hc => ?_, fun ⟨c, hc, hv, hin⟩ => ?_⟩
  · rw [rbit_congr (hF.regs_eq rfl), hbit c (by omega)]
    simp [hc]
  · rw [rbit_congr (hF.regs_eq rfl)]
    exact hconf (.inl ⟨c, List.mem_filter.2 ⟨List.mem_range.2 hc, hv⟩, hin⟩)

/-! ### The end of a cell's reset (02 R130) -/

/-- Bit `c` of a register clears. -/
def clearBit (s : State) (a c : Nat) : State := wr s a (setBit (rd s a) c false)

theorem rbit_clearBit_same (s : State) (a : Nat) {c : Nat} (hc : c < 32) : rbit (clearBit s a c) a c = false := by
  unfold rbit clearBit
  rw [rd_wr_same, bit_setBit _ _ _ _ hc, if_pos rfl]

theorem rd_clearBit_ne (s : State) {a b : Nat} (c : Nat) (h : b ≠ a) : rd (clearBit s a c) b = rd s b := rd_wr_ne _ _ h

/-- The tokens that a cell still holds are gone. -/
def dropGhosts (t c : Nat) (s : State) : State := { s with ghosts := s.ghosts.filter fun g => !(g.tract == t && g.cell == c) }

theorem dropGhosts_frame {t c : Nat} {s : State} : Frame [.ghosts] s (dropGhosts t c s) := Frame.refl.with_ghosts rfl

theorem cellResetDoneEff_set {s : State} {n c : Nat} (h : rbit s (R.TRACT_CELL_RESET n) c = true) :
    cellResetDoneEff n c s =
      dropGhosts n c (clearBit (clearBit (clearBit (clearCell n c s) (R.TRACT_CELL_HEALTH n) c) (R.TRACT_CELL_FENCE n) c) (R.TRACT_CELL_RESET n) c) := by
  unfold cellResetDoneEff
  rw [if_pos h]
  rfl

/-- The counters cleared so far read 0. -/
theorem rd_foldl_clear (n c m k : Nat) (s : State) (h : k < m) (a : Nat) (ha : a = R.TRACT_CELL_CNT n c k ∨ a = R.TRACT_CELL_CNT n c k + 4) :
    rd ((List.range m).foldl (fun s k => wr64 s (R.TRACT_CELL_CNT n c k) 0) s) a = 0 := by
  induction m with
  | zero => omega
  | succ m ih =>
    rw [List.range_succ, List.foldl_append, List.foldl_cons, List.foldl_nil]
    by_cases hk : k = m
    · subst hk
      rcases ha with rfl | rfl
      · rw [rd_wr64_lo]; rfl
      · rw [rd_wr64_hi]; rfl
    · rw [rd_wr64_ne _ _ (by unfold R.TRACT_CELL_CNT at *; omega) (by unfold R.TRACT_CELL_CNT at *; omega)]
      exact ih (by omega)

theorem rd_clearCell_cnt (n c : Nat) (s : State) {k : Nat} (hk : k < 16) (a : Nat)
    (ha : a = R.TRACT_CELL_CNT n c k ∨ a = R.TRACT_CELL_CNT n c k + 4) : rd (clearCell n c s) a = 0 := by
  unfold clearCell
  rw [rd_wr_ne _ _ (by unfold R.TRACT_CELL_CNT at ha; unfold R.TRACT_CELL_CNT_OVF; omega)]
  exact rd_foldl_clear n c 16 k s hk a ha

theorem cellResetDone_clears {s : State} {n : Fin 8} {c : Fin 18} (hr : running s = true) (hb : rbit s (R.TRACT_CELL_RESET n) c = true) :
    ∃ t, exec (.cellResetDone n c) s = .next t ∧ t = { s with regs := t.regs, ghosts := t.ghosts, intc := t.intc } ∧
      rbit t (R.TRACT_CELL_RESET n) c = false ∧ rbit t (R.TRACT_CELL_HEALTH n) c = false ∧ rbit t (R.TRACT_CELL_FENCE n) c = false ∧
      (∀ k, k < 16 → rd64 t (R.TRACT_CELL_CNT n c k) = 0) ∧ ∀ g ∈ t.ghosts, ¬(g.tract = n.val ∧ g.cell = c.val) := by
  have hc : c.val < 32 := by omega
  obtain ⟨t, hn, hF⟩ := viaCore_frame hr (cellResetDoneEff n c)
  have hall : Frame [.regs, .ghosts, .intc] s t := (cellResetDoneEff_frame.weaken rfl).trans (hF.weaken rfl)
  rw [cellResetDoneEff_set hb] at hF
  have hregs := (hF.regs_eq rfl).trans (dropGhosts_frame.regs_eq rfl)
  have hrd (a : Nat) := rd_congr hregs a
  have hcnt (k : Nat) (hk : k < 16) (a : Nat) (ha : a = R.TRACT_CELL_CNT n c k ∨ a = R.TRACT_CELL_CNT n c k + 4) : rd t a = 0 := by
    have hne : a ≠ R.TRACT_CELL_RESET n ∧ a ≠ R.TRACT_CELL_FENCE n ∧ a ≠ R.TRACT_CELL_HEALTH n := by
      unfold R.TRACT_CELL_CNT at ha
      unfold R.TRACT_CELL_RESET R.TRACT_CELL_FENCE R.TRACT_CELL_HEALTH
      omega
    rw [hrd, rd_clearBit_ne _ _ hne.1, rd_clearBit_ne _ _ hne.2.1, rd_clearBit_ne _ _ hne.2.2, rd_clearCell_cnt _ _ _ hk _ ha]
  refine ⟨t, hn, hall.eq_of fun f => by cases f <;> rfl, ?_, ?_, ?_, fun k hk => ?_, fun g hg => ?_⟩
  · rw [rbit_congr hregs, rbit_clearBit_same _ _ hc]
  · unfold rbit
    rw [hrd, rd_clearBit_ne _ _ (by unfold R.TRACT_CELL_HEALTH R.TRACT_CELL_RESET; omega),
      rd_clearBit_ne _ _ (by unfold R.TRACT_CELL_HEALTH R.TRACT_CELL_FENCE; omega)]
    exact rbit_clearBit_same _ _ hc
  · unfold rbit
    rw [hrd, rd_clearBit_ne _ _ (by unfold R.TRACT_CELL_FENCE R.TRACT_CELL_RESET; omega)]
    exact rbit_clearBit_same _ _ hc
  · unfold rd64
    rw [hcnt k hk _ (.inl rfl), hcnt k hk _ (.inr rfl)]
    rfl
  · rw [hF.ghosts_eq rfl] at hg
    rintro ⟨ht, hcell⟩
    simpa [ht, hcell] using (List.mem_filter.1 hg).2

/-! ### The drain of a front (01 R75) -/

theorem frontRoutingDrainEnd_ends {s : State} {p : Fin 18} (hr : running s = true)
    (h : (s.flights.any fun f => f.loc != .front && f.tok.port == p.val) = false) :
    ∃ t, exec (.frontRoutingDrainEnd p) s = .next t ∧ t = { s with mode := { s.mode with drain := t.mode.drain }, intc := t.intc } ∧
      ∀ n, n ∈ t.mode.drain ↔ n ∈ s.mode.drain ∧ n ≠ p.val := by
  obtain ⟨t, hn, e⟩ := viaCore_next hr (drainEndEff p)
  have he : drainEndEff p s = { s with mode := { s.mode with drain := setDel p s.mode.drain } } := if_neg (by simp [h])
  rw [he] at e
  have hd : t.mode.drain = setDel p s.mode.drain := by rw [e]
  exact ⟨t, hn, by rw [hd]; exact e, fun n => by rw [hd]; simp [setDel]⟩

end Sys2Proof.Machine

open Sys2Proof Sys2Proof.Machine

/-- Settles O45, from what a stall, a map write, a reset request, the end of a reset and the end of a drain do. -/
theorem cellHealthRules : Obligations.CellHealthRules := by
  unfold Obligations.CellHealthRules
  exact ⟨fun _ _ _ hr hs => cellStall_once hr hs, fun _ _ _ _ ho ht => tractCellMap_judged ho ht,
    fun _ _ _ ho ht => tractCellReset_sets ho ht, fun _ _ _ hr hb => cellResetDone_clears hr hb,
    fun _ _ hr h => frontRoutingDrainEnd_ends hr h⟩

end

section
/-!
Dispatch and enqueue (O44): a frame that leaves its cell, a token that a fence stops, and the queue manager.
-/
namespace Sys2Proof.Machine

/-! ### What an arbiter owes -/

/-- Those that wait while an input is granted have lost to it (01 R39). -/
theorem mem_turns_granted {a : Arbiter} {i j : Nat} {l : List Nat} (s : State) (hj : j ∈ l) (hne : j ≠ i) :
    (⟨a, i, j⟩ : Turn) ∈ (granted a i l s).turns := by
  unfold granted
  refine List.mem_append_right _ (List.mem_map.2 ⟨j, List.mem_filter.2 ⟨hj, ?_⟩, rfl⟩)
  simpa using hne

/-! ### A frame that leaves its cell (01 R57, R58, 02 R124-R127) -/

section
variable {s : State} {tag : Nat} {f : Flight}

theorem dispatchEff_flight (h : flight s tag = some f) (bad : Bool) : dispatchEff tag bad s = dispatchFlight f bad s := by
  unfold dispatchEff; rw [h]

/-- A frame that is complete and judged and need not wait: its check fails, it is in error, it wins its way, or it waits for it. -/
theorem dispatchFlight_ready {x : Fate} (hx : f.fate = some x) (hl : f.loc = .cell) (hf : f.full = true) (hw : mustWait s f = false) (bad : Bool) :
    dispatchFlight f bad s =
      if bad then failCheck f s
      else if f.err then cellEvent (dropFlight f s) f.tract f.cell .discard 1
      else if wayFree s f x then sendFate f x (grantWay f x s) else s := by
  unfold dispatchFlight
  rw [hx]
  dsimp only
  rw [if_neg (by simp [hl, hf, hw])]

theorem dispatchFlight_recirc (hx : f.fate = none) (hl : f.loc = .recirc) : dispatchFlight f true s = failCheck f s := by
  unfold dispatchFlight
  rw [hx]
  exact if_pos ⟨hl, rfl⟩

/-- A token whose check fails is recorded, and nothing of its frame stays. -/
theorem failCheck_records (ht : f.tract < 8) :
    (failCheck f s).flights = (s.flights.filter fun g => g.tag != f.tag) ∧ recorded s (failCheck f s) (.tract f.tract) 3 := by
  unfold failCheck
  refine ⟨by rw [releaseFlight_flights, fault_frame.flights_eq rfl], ?_⟩
  obtain ⟨hcode, hvalid, hcount⟩ := recorded_fault s (.tract f.tract) f.cell (BitVec.ofNat 64 f.tag) (code := 3) (by decide)
  have hkeep (a : Nat) (ha : 0x2000F00 ≤ a) := rd_releaseFlight_ne f (fault s (.tract f.tract) 3 f.cell (BitVec.ofNat 64 f.tag)) (a := a)
    (by unfold R.CLASS_EVENT; omega)
  have hbase : (Block.tract f.tract).base = 0x2000F00 + f.tract * 0x200000 := rfl
  unfold recorded rbit
  rw [hkeep _ (by rw [hbase]; omega), hkeep _ (by rw [hbase]; omega)]
  exact ⟨hcode, hvalid, hcount⟩

end

theorem endAction_frame {s : State} {f : Flight} : Frame [.cls, .flights, .regs] s (endFlight f (actCount s f.count)) :=
  (actCount_frame.weaken rfl).trans endFlight_frame

theorem endAction_flights (f : Flight) (s : State) :
    (endFlight f (actCount s f.count)).flights = s.flights.filter fun g => g.tag != f.tag := by
  rw [endFlight_flights, actCount_frame.flights_eq rfl]

/-- Whatever the fate, the flight ends. -/
theorem sendFate_flights (f : Flight) (x : Fate) (s : State) : (sendFate f x s).flights = s.flights.filter fun g => g.tag != f.tag := by
  unfold sendFate
  cases x
  case drop => rw [cellEvent_frame.flights_eq rfl, tsOutcome_frame.flights_eq rfl, freeChunks_frame.flights_eq rfl, endAction_flights]
  case lost => rw [tsOutcome_frame.flights_eq rfl, freeChunks_frame.flights_eq rfl, endAction_flights]
  case queue q =>
    dsimp only
    rw [cellEvent_frame.flights_eq rfl]
    exact endAction_flights f s
  case port p =>
    dsimp only
    rw [cellEvent_frame.flights_eq rfl]
    exact endAction_flights f s
  case ring r => rw [cellEvent_frame.flights_eq rfl, acceptRing_frame.flights_eq rfl, endAction_flights]

theorem sendFate_discard {x : Fate} (hx : x = .drop ∨ x = .lost) (f : Flight) (s : State) :
    Frame [.perf, .cistern, .cls, .flights, .rings, .regs] s (sendFate f x s) := by
  have hfree : Frame [.perf, .cistern, .cls, .flights, .rings, .regs] s
      (tsOutcome f.tok 3 (freeChunks (endFlight f (actCount s f.count)) f.parts)) :=
    ((endAction_frame.weaken rfl).trans (freeChunks_frame.weaken rfl)).trans (tsOutcome_frame.weaken rfl)
  rcases hx with rfl | rfl
  · exact hfree.trans (cellEvent_frame.weaken rfl)
  · exact hfree

theorem sendFate_queue (f : Flight) (q : Nat) (s : State) :
    (sendFate f (.queue q) s).toQueue = s.toQueue ++ [(q, descriptorOf f)] ∧ (sendFate f (.queue q) s).toPort = s.toPort := by
  unfold sendFate
  dsimp only
  rw [cellEvent_frame.toQueue_eq rfl, cellEvent_frame.toPort_eq rfl, endAction_frame.toQueue_eq rfl, endAction_frame.toPort_eq rfl]
  exact ⟨rfl, rfl⟩

theorem sendFate_port (f : Flight) (p : Nat) (s : State) :
    (sendFate f (.port p) s).toPort = s.toPort ++ [(p, descriptorOf f)] ∧ (sendFate f (.port p) s).toQueue = s.toQueue := by
  unfold sendFate
  dsimp only
  rw [cellEvent_frame.toQueue_eq rfl, cellEvent_frame.toPort_eq rfl, endAction_frame.toQueue_eq rfl, endAction_frame.toPort_eq rfl]
  exact ⟨rfl, rfl⟩

theorem sendFate_ring_frame (f : Flight) (r : Nat) (s : State) :
    Frame [.perf, .cistern, .cls, .flights, .rings, .regs] s (sendFate f (.ring r) s) :=
  ((endAction_frame.weaken rfl).trans (acceptRing_frame.weaken rfl)).trans (cellEvent_frame.weaken rfl)

theorem ring_congr {s t : State} (h : t.rings = s.rings) (rx : Bool) (r : Nat) : ring t rx r = ring s rx r := by
  unfold ring; rw [h]

theorem backlogUsed_congr {s t : State} (h : t.rings = s.rings) : backlogUsed t = backlogUsed s := by
  unfold backlogUsed; rw [h]

theorem ringOpen_congr {s t : State} (hr : t.rings = s.rings) (hh : t.host = s.host) (hm : t.mode = s.mode) (r : Nat) :
    ringOpen t r = ringOpen s r := by
  unfold ringOpen; rw [ring_congr hr, hh, hm]

/-- The egress switch accepts a frame without a timestamp request for an open ring within its backlog, or drops it. -/
theorem acceptRing_inbox {q : QFrame} (hts : q.tok.tsReq = none) (r : Nat) (s : State) :
    (ring (acceptRing r q s) true r).inbox =
      if ringOpen s r = true ∧
          backlogUsed s + 256 * (q.parts.flatMap Chunk.granules).length ≤ zeroAsOne (rfld s R.RING_RX_BACKLOG 0 16) * 65536
      then (ring s true r).inbox ++ [.frame q] else (ring s true r).inbox := by
  have hout : tsOutcome q.tok 3 s = s := by unfold tsOutcome; rw [hts]
  unfold acceptRing
  rw [hout]
  by_cases hc : ringOpen s r = true ∧
      backlogUsed s + 256 * (q.parts.flatMap Chunk.granules).length ≤ zeroAsOne (rfld s R.RING_RX_BACKLOG 0 16) * 65536
  · rw [if_pos hc]
    dsimp only
    rw [if_neg (by rw [hc.1, decide_eq_false (Nat.not_lt.2 hc.2)]; decide), ring_setRing_same]
  · rw [if_neg hc]
    dsimp only
    rw [if_pos (by by_contra hn; apply hc; simpa using hn), ring_congr (bump_frame.rings_eq rfl), ring_congr (freeChunks_frame.rings_eq rfl)]

theorem rd_endAction_backlog (f : Flight) (s : State) :
    rd (endFlight f (actCount s f.count)) R.RING_RX_BACKLOG = rd s R.RING_RX_BACKLOG := by
  rw [rd_endFlight_ne _ _ (by unfold R.RING_RX_BACKLOG R.CLASS_EVENT; omega)]
  unfold actCount
  split
  · rfl
  · exact rd_bump_ne _ (by unfold R.RING_RX_BACKLOG R.CLASS_ACT_CNT; omega)

theorem sendFate_ring_inbox {f : Flight} (hts : f.tok.tsReq = none) (r : Nat) (s : State) :
    (ring (sendFate f (.ring r) s) true r).inbox =
      if ringOpen s r = true ∧
          backlogUsed s + 256 * (f.parts.flatMap Chunk.granules).length ≤ zeroAsOne (rfld s R.RING_RX_BACKLOG 0 16) * 65536
      then (ring s true r).inbox ++ [.frame (descriptorOf f)] else (ring s true r).inbox := by
  unfold sendFate
  dsimp only
  rw [ring_congr (cellEvent_frame.rings_eq rfl), acceptRing_inbox (q := descriptorOf f) hts,
    ringOpen_congr (endAction_frame.rings_eq rfl) (endAction_frame.host_eq rfl) (endAction_frame.mode_eq rfl),
    backlogUsed_congr (endAction_frame.rings_eq rfl), ring_congr (endAction_frame.rings_eq rfl), rfld, rd_endAction_backlog]
  rfl

theorem grantWay_loses {x : Fate} {a : Arbiter} {c : Nat} (f : Flight) (s : State) (ha : fateArbiter x = some a) (hc : c < 144)
    (hne : c ≠ cellNumber f) (hasks : cellAsks s a c = true) : (⟨a, cellNumber f, c⟩ : Turn) ∈ (grantWay f x s).turns := by
  unfold grantWay
  rw [ha]
  exact mem_turns_granted s (List.mem_filter.2 ⟨List.mem_range.2 hc, hasks⟩) hne

/-- What becomes of a frame that is ready to leave its cell. -/
theorem dispatchStage_ready {s : State} {tag : Nat} {bad : Bool} {f : Flight} {x : Fate} (hr : running s = true) (hf : flight s tag = some f)
    (hx : f.fate = some x) (hl : f.loc = .cell) (hfull : f.full = true) (hw : mustWait s f = false) (ht : f.tract < 8) :
    let stay (t : State) : Prop := t.toQueue = s.toQueue ∧ t.toPort = s.toPort
    ∃ t, exec (.dispatchStage tag bad) s = .next t ∧ t.queues = s.queues ∧ t.wire = s.wire ∧
      (bad = true → flight t tag = none ∧ recorded s t (.tract f.tract) 3 ∧ stay t ∧ t.turns = s.turns) ∧
      (bad = false → f.err = true → flight t tag = none ∧ stay t ∧ t.turns = s.turns) ∧
      (bad = false → f.err = false → wayFree s f x = false → intcOnly s t) ∧
      (bad = false → f.err = false → wayFree s f x = true → flight t tag = none ∧
        (∀ a c, fateArbiter x = some a → c < 144 → c ≠ cellNumber f → cellAsks s a c = true → (⟨a, cellNumber f, c⟩ : Turn) ∈ t.turns) ∧
        (x = .drop ∨ x = .lost → stay t) ∧
        (∀ q, x = .queue q → t.toQueue = s.toQueue ++ [(q, descriptorOf f)] ∧ t.toPort = s.toPort) ∧
        (∀ p, x = .port p → t.toPort = s.toPort ++ [(p, descriptorOf f)] ∧ t.toQueue = s.toQueue) ∧
        (∀ r, x = .ring r → stay t ∧ (f.tok.tsReq = none →
          if ringOpen s r = true ∧
              backlogUsed s + 256 * (f.parts.flatMap Chunk.granules).length ≤ zeroAsOne (rfld s R.RING_RX_BACKLOG 0 16) * 65536
          then (ring t true r).inbox = (ring s true r).inbox ++ [.frame (descriptorOf f)]
          else (ring t true r).inbox = (ring s true r).inbox))) := by
  intro stay
  have htag := flight_tag hf
  obtain ⟨t, hn, hF⟩ := viaCore_frame hr (dispatchEff tag bad)
  refine ⟨t, hn, (hF.queues_eq rfl).trans (dispatchEff_frame.queues_eq rfl), (hF.wire_eq rfl).trans (dispatchEff_frame.wire_eq rfl), ?_⟩
  rw [dispatchEff_flight hf, dispatchFlight_ready hx hl hfull hw] at hF
  refine ⟨fun hb => ?_, fun hb he => ?_, fun hb he hway => ?_, fun hb he hway => ?_⟩
  · rw [if_pos hb] at hF
    obtain ⟨hflights, hrec⟩ := failCheck_records (s := s) ht
    exact ⟨flight_eq_none_of_filter htag ((hF.flights_eq rfl).trans hflights), recorded_congr (hF.regs_eq rfl) hrec,
      ⟨(hF.toQueue_eq rfl).trans (failCheck_frame.toQueue_eq rfl), (hF.toPort_eq rfl).trans (failCheck_frame.toPort_eq rfl)⟩,
      (hF.turns_eq rfl).trans (failCheck_frame.turns_eq rfl)⟩
  · rw [if_neg (by simp [hb]), if_pos he] at hF
    have hdrop : Frame [.intc, .perf, .cistern, .cls, .flights, .rings, .regs] s t :=
      ((dropFlight_frame.weaken rfl).trans (cellEvent_frame.weaken rfl)).trans (hF.weaken rfl)
    refine ⟨flight_eq_none_of_filter (s := s) htag ((hF.flights_eq rfl).trans ?_), ⟨hdrop.toQueue_eq rfl, hdrop.toPort_eq rfl⟩, hdrop.turns_eq rfl⟩
    rw [cellEvent_frame.flights_eq rfl, dropFlight_flights]
  · rw [if_neg (by simp [hb]), if_neg (by simp [he]), if_neg (by simp [hway])] at hF
    exact hF.intcOnly
  · rw [if_neg (by simp [hb]), if_neg (by simp [he]), if_pos hway] at hF
    refine ⟨flight_eq_none_of_filter (s := s) htag ((hF.flights_eq rfl).trans ?_), fun a c ha hc hne hasks => ?_, fun hd => ?_, ?_, ?_, ?_⟩
    · rw [sendFate_flights, grantWay_frame.flights_eq rfl]
    · rw [hF.turns_eq rfl, sendFate_frame.turns_eq rfl]
      exact grantWay_loses f s ha hc hne hasks
    · have hdrop : Frame [.intc, .turns, .perf, .cistern, .cls, .flights, .rings, .regs] s t :=
        ((grantWay_frame.weaken rfl).trans ((sendFate_discard hd f _).weaken rfl)).trans (hF.weaken rfl)
      exact ⟨hdrop.toQueue_eq rfl, hdrop.toPort_eq rfl⟩
    · rintro q rfl
      rw [hF.toQueue_eq rfl, hF.toPort_eq rfl, (sendFate_queue ..).1, (sendFate_queue ..).2, grantWay_frame.toQueue_eq rfl,
        grantWay_frame.toPort_eq rfl]
      exact ⟨rfl, rfl⟩
    · rintro p rfl
      rw [hF.toQueue_eq rfl, hF.toPort_eq rfl, (sendFate_port ..).1, (sendFate_port ..).2, grantWay_frame.toQueue_eq rfl,
        grantWay_frame.toPort_eq rfl]
      exact ⟨rfl, rfl⟩
    · rintro r rfl
      have hG : Frame [.turns] s (grantWay f (.ring r) s) := grantWay_frame
      have hring : Frame [.intc, .turns, .perf, .cistern, .cls, .flights, .rings, .regs] s t :=
        ((hG.weaken rfl).trans ((sendFate_ring_frame f r _).weaken rfl)).trans (hF.weaken rfl)
      refine ⟨⟨hring.toQueue_eq rfl, hring.toPort_eq rfl⟩, fun hts => ?_⟩
      rw [ring_congr (hF.rings_eq rfl), sendFate_ring_inbox hts, ringOpen_congr (hG.rings_eq rfl) (hG.host_eq rfl) (hG.mode_eq rfl),
        backlogUsed_congr (hG.rings_eq rfl), ring_congr (hG.rings_eq rfl), rfld_congr (hG.regs_eq rfl)]
      split
      · rfl
      · rfl

/-- A head token that has left for its role again may fail its check too (02 R124). -/
theorem dispatchStage_recirc {s : State} {tag : Nat} {f : Flight} (hr : running s = true) (hf : flight s tag = some f) (hx : f.fate = none)
    (hl : f.loc = .recirc) (ht : f.tract < 8) :
    ∃ t, exec (.dispatchStage tag true) s = .next t ∧ flight t tag = none ∧ recorded s t (.tract f.tract) 3 ∧ t.toQueue = s.toQueue ∧
      t.toPort = s.toPort ∧ t.queues = s.queues := by
  obtain ⟨t, hn, hF⟩ := viaCore_frame hr (dispatchEff tag true)
  rw [dispatchEff_flight hf, dispatchFlight_recirc hx hl] at hF
  obtain ⟨hflights, hrec⟩ := failCheck_records (s := s) ht
  have hall : Frame [.intc, .cistern, .cls, .flights, .rings, .regs] s t := failCheck_frame.trans (hF.weaken rfl)
  exact ⟨t, hn, flight_eq_none_of_filter (flight_tag hf) ((hF.flights_eq rfl).trans hflights), recorded_congr (hF.regs_eq rfl) hrec,
    hall.toQueue_eq rfl, hall.toPort_eq rfl, hall.queues_eq rfl⟩

/-! ### A token that the fence stops (02 R126) -/

/-- The tokens of a tag that fenced cells hold are stopped. -/
def stopGhosts (tag : Nat) (s : State) : State := { s with ghosts := s.ghosts.filter fun h => h.tag != tag }

theorem stopGhosts_frame {tag : Nat} {s : State} : Frame [.ghosts] s (stopGhosts tag s) := Frame.refl.with_ghosts rfl

theorem dispatchEff_ghost {s : State} {tag : Nat} {g : Ghost} (hf : flight s tag = none) (hg : s.ghosts.find? (fun h => h.tag == tag) = some g)
    (bad : Bool) : dispatchEff tag bad s =
      tractEvent (fault (bump (stopGhosts tag s) (R.TRACT_FENCE_DROP g.tract)) (.tract g.tract) 4 g.cell (BitVec.ofNat 64 tag))
        g.tract .fenceDrop 1 := by
  unfold dispatchEff
  rw [hf, hg]
  rfl

theorem dispatchStage_ghost {s : State} {tag : Nat} {bad : Bool} {g : Ghost} (hr : running s = true) (hf : flight s tag = none)
    (hg : s.ghosts.find? (fun h => h.tag == tag) = some g) (ht : g.tract < 8) :
    ∃ t, exec (.dispatchStage tag bad) s = .next t ∧ t.flights = s.flights ∧ (∀ h ∈ t.ghosts, h.tag ≠ tag) ∧ recorded s t (.tract g.tract) 4 ∧
      rd t (R.TRACT_FENCE_DROP g.tract) = sat32 ((rd s (R.TRACT_FENCE_DROP g.tract)).toNat + 1) := by
  obtain ⟨t, hn, hF⟩ := viaCore_frame hr (dispatchEff tag bad)
  rw [dispatchEff_ghost hf hg] at hF
  have hbase : (Block.tract g.tract).base = 0x2000F00 + g.tract * 0x200000 := rfl
  have hdrop : R.TRACT_FENCE_DROP g.tract = 0x2000130 + g.tract * 0x200000 := rfl
  have hkeep (a : Nat) (ha : a < 0x2001000 + g.tract * 0x200000) (hlo : 0x2000000 ≤ a) :
      rd t a = rd (fault (bump (stopGhosts tag s) (R.TRACT_FENCE_DROP g.tract)) (.tract g.tract) 4 g.cell (BitVec.ofNat 64 tag)) a := by
    rw [rd_congr (hF.regs_eq rfl), rd_tractEvent_below _ _ (by omega) (by unfold R.PERF_EVENT; omega)]
  have hstop (a : Nat) : rd (stopGhosts tag s) a = rd s a := rd_congr (stopGhosts_frame.regs_eq rfl) a
  obtain ⟨hcode, hvalid, hcount⟩ := recorded_fault_after (s := s) (t := fault _ _ _ _ _) (b := .tract g.tract) (code := 4) (inst := g.cell)
    (ident := BitVec.ofNat 64 tag) (u := bump (stopGhosts tag s) (R.TRACT_FENCE_DROP g.tract)) (by decide)
    (by rw [rd_bump_ne _ (by rw [hbase, hdrop]; omega), hstop]) rfl
  refine ⟨t, hn, ?_, fun h hh => ?_, ⟨?_, ?_, ?_⟩, ?_⟩
  · rw [hF.flights_eq rfl, tractEvent_frame.flights_eq rfl, fault_frame.flights_eq rfl, bump_frame.flights_eq rfl, stopGhosts_frame.flights_eq rfl]
  · rw [hF.ghosts_eq rfl, tractEvent_frame.ghosts_eq rfl, fault_frame.ghosts_eq rfl, bump_frame.ghosts_eq rfl] at hh
    simpa using (List.mem_filter.1 hh).2
  · unfold rbit at hcode ⊢
    rw [hkeep _ (by rw [hbase]; omega) (by rw [hbase]; omega), hcode]
  · unfold rbit at hvalid ⊢
    rw [hkeep _ (by rw [hbase]; omega) (by rw [hbase]; omega), hvalid]
  · rw [hkeep _ (by rw [hbase]; omega) (by rw [hbase]; omega), hcount]
  · rw [hkeep _ (by rw [hdrop]; omega) (by rw [hdrop]; omega), rd_fault_out _ _ _ _ _ (by rw [hbase, hdrop]; omega), rd_bump_same, hstop]

/-! ### The queue manager (05 R278) -/

/-- The descriptor token `e` leaves the way to the queues, and its timestamp request ends NOT_TAKEN. -/
def takeToken (e : Nat × QFrame) (s : State) : State := tsOutcome e.2.tok 3 { s with toQueue := s.toQueue.erase e }

theorem takeToken_frame {e : Nat × QFrame} {s : State} : Frame [.rings, .toQueue] s (takeToken e s) :=
  Frame.trans (t := { s with toQueue := s.toQueue.erase e }) (Frame.refl.with_toQueue rfl) (tsOutcome_frame.weaken rfl)

theorem takeToken_toQueue (e : Nat × QFrame) (s : State) : (takeToken e s).toQueue = s.toQueue.erase e := tsOutcome_frame.toQueue_eq rfl

theorem enqueueEff_found {s : State} {n : Nat} {e : Nat × QFrame} (h : s.toQueue.find? (fun e => qTract e.1 == n) = some e) :
    enqueueEff n s = enqueueFrame e.1 e.2 (takeToken e s) := by
  unfold enqueueEff; rw [h]; rfl

theorem queue_congr {s t : State} (h : t.queues = s.queues) (q : Nat) : queue t q = queue s q := by
  unfold queue; rw [h]

theorem qValid_congr {s t : State} (h : t.regs = s.regs) (q : Nat) : qValid t q = qValid s q := rbit_congr h _ _

theorem overLimit_congr {s t : State} (hr : t.regs = s.regs) (hq : t.queues = s.queues) (q n : Nat) : overLimit t q n = overLimit s q n := by
  unfold overLimit occupancy
  rw [rfld_congr hr, queue_congr hq]

/-- A frame for an invalid queue is recorded and counted. -/
theorem tract_base (n : Nat) : (Block.tract n).base = 0x2000F00 + n * 0x200000 := rfl

theorem dropInvalid_records {q : Nat} (f : QFrame) (s : State) :
    recorded s (dropInvalid q f s) (.tract (qTract q)) 8 ∧ rd (dropInvalid q f s) R.QUEUE_CNT_INVALID = sat32 ((rd s R.QUEUE_CNT_INVALID).toNat + 1) := by
  have hbase := tract_base (qTract q)
  have h1 : (Block.tract (qTract q)).base + 4 < 0x2010000 + qTract q * 0x200000 := by rw [hbase]; omega
  have h2 : (Block.tract (qTract q)).base + 4 ≠ R.PERF_EVENT := by rw [hbase]; unfold R.PERF_EVENT; omega
  have h3 : (Block.tract (qTract q)).base + 4 ≠ R.QUEUE_CNT_INVALID := by rw [hbase]; unfold R.QUEUE_CNT_INVALID; omega
  have h4 : R.QUEUE_CNT_INVALID < (Block.tract (qTract q)).base := by rw [hbase]; unfold R.QUEUE_CNT_INVALID; omega
  unfold dropInvalid
  dsimp only
  constructor
  · refine recorded_fault_after (by decide) ?_ rfl
    rw [rd_tractEvent_below _ _ h1 h2, rd_bump_ne _ h3, rd_freeChunks]
  · rw [rd_fault_out _ _ _ _ _ (.inl h4), rd_tractEvent_below _ _ (by unfold R.QUEUE_CNT_INVALID; omega) (by decide),
      rd_bump_same, rd_freeChunks]

/-- A frame over its queue's limit is counted. -/
theorem dropLimit_counts {q : Nat} (hq : q < 32768) (f : QFrame) (s : State) :
    rd (dropLimit q f s) (R.QUEUE_Q_DROP q) = sat32 ((rd s (R.QUEUE_Q_DROP q)).toNat + 1) := by
  unfold dropLimit
  rw [rd_tractEvent_below _ _ (by unfold R.QUEUE_Q_DROP; omega) (by unfold R.QUEUE_Q_DROP R.PERF_EVENT; omega), rd_bump_same, rd_freeChunks]

theorem evalPressure_queue (s : State) (q : Nat) :
    queue (evalPressure s q) q =
      { queue s q with press := pressureNow (rd s (R.QUEUE_Q_WM q)) (frameBytes (queue s q).frames) (queue s q).press } := by
  unfold evalPressure
  rw [queue_setQueue_same]

theorem evalPressure_queue_ne (s : State) {q j : Nat} (h : j ≠ q) : queue (evalPressure s q) j = queue s j := by
  unfold evalPressure
  rw [queue_setQueue_ne _ _ _ h]

/-- The frame joins the tail of its queue, and the queue's pressure is evaluated. -/
theorem linkFrame_queue {q : Nat} (hq : q < 32768) (f : QFrame) (s : State) :
    let frames := (queue s q).frames ++ [{ f with tok := { f.tok with uid := s.serial } }]
    queue (linkFrame q f s) q = { queue s q with
      frames := frames, press := pressureNow (rd s (R.QUEUE_Q_WM q)) (frameBytes frames) (queue s q).press } := by
  intro frames
  have hserial (a : Nat) : rd { s with serial := s.serial + 1 } a = rd s a := rd_congr rfl a
  unfold linkFrame
  dsimp only
  rw [evalPressure_queue, queue_congr (tractEvent_frame.queues_eq rfl), queue_congr (tractEvent_frame.queues_eq rfl), queue_setQueue_same,
    rd_tractEvent_below _ _ (by unfold R.QUEUE_Q_WM; omega) (by unfold R.QUEUE_Q_WM R.PERF_EVENT; omega),
    rd_tractEvent_below _ _ (by unfold R.QUEUE_Q_WM; omega) (by unfold R.QUEUE_Q_WM R.PERF_EVENT; omega),
    rd_congr (setQueue_regs ..), hserial]

theorem linkFrame_queue_ne {q j : Nat} (h : j ≠ q) (f : QFrame) (s : State) : queue (linkFrame q f s) j = queue s j := by
  unfold linkFrame
  dsimp only
  rw [evalPressure_queue_ne _ h, queue_congr (tractEvent_frame.queues_eq rfl), queue_congr (tractEvent_frame.queues_eq rfl),
    queue_setQueue_ne _ _ _ h, queue]
  rfl

theorem dropLimit_frame' {q : Nat} {f : QFrame} {s : State} : Frame [.perf, .cistern, .regs] s (dropLimit q f s) :=
  ((freeChunks_frame.weaken rfl).trans (bump_frame.weaken rfl)).trans (tractEvent_frame.weaken rfl)

/-- The queue manager drops a frame for an invalid queue or over its limit, and links every other. -/
theorem enqueue_fates {s : State} {n : Fin 8} {e : Nat × QFrame} (hr : running s = true)
    (he : s.toQueue.find? (fun e => qTract e.1 == n.val) = some e) (hq : e.1 < 32768) :
    ∃ t, exec (.enqueue n) s = .next t ∧ t.toQueue = s.toQueue.erase e ∧ (∀ q, q ≠ e.1 → queue t q = queue s q) ∧
      (qValid s e.1 = false → queue t e.1 = queue s e.1 ∧ recorded s t (.tract n) 8 ∧
        rd t R.QUEUE_CNT_INVALID = sat32 ((rd s R.QUEUE_CNT_INVALID).toNat + 1)) ∧
      (qValid s e.1 = true → overLimit s e.1 e.2.remain = true →
        queue t e.1 = queue s e.1 ∧ rd t (R.QUEUE_Q_DROP e.1) = sat32 ((rd s (R.QUEUE_Q_DROP e.1)).toNat + 1)) ∧
      (qValid s e.1 = true → overLimit s e.1 e.2.remain = false →
        (queue t e.1).frames = (queue s e.1).frames ++ [{ e.2 with tok := { e.2.tok with uid := s.serial } }] ∧ t.cistern = s.cistern ∧
        (queue t e.1).pages = (queue s e.1).pages ∧
        (queue t e.1).press = pressureNow (rd s (R.QUEUE_Q_WM e.1)) (frameBytes (queue t e.1).frames) (queue s e.1).press) := by
  have hn : qTract e.1 = n := by simpa using List.find?_some he
  have hT : Frame [.rings, .toQueue] s (takeToken e s) := takeToken_frame
  obtain ⟨t, hx, hF⟩ := viaCore_frame hr (enqueueEff n)
  rw [enqueueEff_found he, enqueueFrame, qValid_congr (hT.regs_eq rfl), overLimit_congr (hT.regs_eq rfl) (hT.queues_eq rfl)] at hF
  have hqT (q : Nat) := queue_congr (hT.queues_eq rfl) q
  have hrT (a : Nat) := rd_congr (hT.regs_eq rfl) a
  by_cases hv : qValid s e.1 = true
  · rw [if_neg (by simp [hv])] at hF
    by_cases hover : overLimit s e.1 e.2.remain = true
    · rw [if_pos hover] at hF
      have hqs (q : Nat) : queue t q = queue s q := by rw [queue_congr (hF.queues_eq rfl), queue_congr (dropLimit_frame'.queues_eq rfl), hqT]
      refine ⟨t, hx, ?_, fun q _ => hqs q, fun h => by simp [hv] at h, fun _ _ => ⟨hqs _, ?_⟩, fun _ h => by simp [hover] at h⟩
      · rw [hF.toQueue_eq rfl, dropLimit_frame'.toQueue_eq rfl, takeToken_toQueue]
      · rw [rd_congr (hF.regs_eq rfl), dropLimit_counts hq, hrT]
    · rw [if_neg hover] at hF
      have hser : (takeToken e s).serial = s.serial := hT.serial_eq rfl
      have hlink : queue t e.1 = { queue s e.1 with
          frames := (queue s e.1).frames ++ [{ e.2 with tok := { e.2.tok with uid := s.serial } }]
          press := pressureNow (rd s (R.QUEUE_Q_WM e.1))
            (frameBytes ((queue s e.1).frames ++ [{ e.2 with tok := { e.2.tok with uid := s.serial } }])) (queue s e.1).press } := by
        rw [queue_congr (hF.queues_eq rfl), linkFrame_queue hq, hqT, hrT, hser]
      refine ⟨t, hx, ?_, fun q hne => ?_, fun h => by simp [hv] at h, fun _ h => absurd h hover, fun _ _ => ?_⟩
      · rw [hF.toQueue_eq rfl, linkFrame_frame.toQueue_eq rfl, takeToken_toQueue]
      · rw [queue_congr (hF.queues_eq rfl), linkFrame_queue_ne hne, hqT]
      · rw [hlink]
        exact ⟨rfl, by rw [hF.cistern_eq rfl, linkFrame_frame.cistern_eq rfl, hT.cistern_eq rfl], rfl, rfl⟩
  · rw [if_pos (by simp [hv])] at hF
    have hqs (q : Nat) : queue t q = queue s q := by rw [queue_congr (hF.queues_eq rfl), queue_congr (dropInvalid_frame.queues_eq rfl), hqT]
    obtain ⟨⟨hcode, hvalid, hcount⟩, hinv⟩ := dropInvalid_records (q := e.1) e.2 (takeToken e s)
    refine ⟨t, hx, ?_, fun q _ => hqs q, fun _ => ⟨hqs _, recorded_congr (hF.regs_eq rfl) ?_, ?_⟩, fun h => absurd h hv, fun h => absurd h hv⟩
    · rw [hF.toQueue_eq rfl, dropInvalid_frame.toQueue_eq rfl, takeToken_toQueue]
    · rw [hn] at hcode hvalid hcount
      exact ⟨hcode, hvalid, by rw [hcount, hrT]⟩
    · rw [rd_congr (hF.regs_eq rfl), hinv, hrT]

end Sys2Proof.Machine

open Sys2Proof Sys2Proof.Machine

/-- Settles O44, from what becomes of a frame that leaves its cell, of a token at the fence, and of one that reaches the queue manager. -/
theorem dispatchAndEnqueue : Obligations.DispatchAndEnqueue := by
  unfold Obligations.DispatchAndEnqueue
  exact ⟨fun _ _ _ _ _ hr hf hx hl hfull hw ht => dispatchStage_ready hr hf hx hl hfull hw ht,
    fun _ _ _ hr hf hx hl ht => dispatchStage_recirc hr hf hx hl ht, fun _ _ _ _ hr hf hg ht => dispatchStage_ghost hr hf hg ht,
    fun _ _ _ hr he hq => enqueue_fates hr he hq⟩

end

section
/-!
The host unit's link: how a run of bytes is cut into requests (10 R537, R539), what an input of the link leaves the others that wait, what a
reply comes to, and what a ring that halts leaves.
-/
namespace Sys2Proof.Machine

/-! ### Requests (10 R537) -/

theorem sizeField_pos (s : State) (i top : Nat) (h : 0 < top) : 0 < sizeField s i top :=
  Nat.lt_min.2 ⟨h, Nat.mul_pos (by decide) (Nat.two_pow_pos _)⟩

/-- Every power of two up to 128 divides the size of a request. -/
theorem dvd_sizeField {d : Nat} (s : State) (i : Nat) {top : Nat} (hd : d ∣ 128) (ht : d ∣ top) : d ∣ sizeField s i top := by
  unfold sizeField
  rcases Nat.le_total top (128 * 2 ^ fld s.host.cfg.ctl i 3) with h | h
  · rw [show Nat.min top _ = top from Nat.min_eq_left h]; exact ht
  · rw [show Nat.min top _ = _ from Nat.min_eq_right h]; exact Dvd.dvd.mul_right hd _

/-- Where the next multiple of `m` lies. -/
theorem next_multiple {m : Nat} (hm : 0 < m) (a : Nat) : (a + (m - a % m)) % m = 0 := by
  have hlt := Nat.mod_lt a hm
  have hdiv := Nat.div_add_mod a m
  rw [show a + (m - a % m) = m * (a / m + 1) by rw [Nat.mul_add]; omega]
  exact Nat.mul_mod_right ..

/-- The pieces follow one another over the whole run. -/
theorem busPieces_tiles {m : Nat} (hm : 0 < m) (k a n : Nat) (h : n + a % m ≤ k * m) :
    Tiles a (busPieces m k a n) ∧ runsLen (busPieces m k a n) = n := by
  induction k generalizing a n with
  | zero => exact ⟨trivial, by simp only [busPieces, runsLen, List.map_nil, List.sum_nil]; omega⟩
  | succ k ih =>
    unfold busPieces
    have hlt := Nat.mod_lt a hm
    rw [Nat.succ_mul] at h
    split
    next hn => exact ⟨trivial, hn.symm⟩
    next hn =>
      dsimp only
      rcases Nat.le_total n (m - a % m) with hc | hc
      · rw [show Nat.min n (m - a % m) = n from Nat.min_eq_left hc, Nat.sub_self]
        have hrest : busPieces m k (a + n) 0 = [] := by cases k <;> rfl
        rw [hrest]
        exact ⟨⟨rfl, trivial⟩, by simp [runsLen]⟩
      · rw [show Nat.min n (m - a % m) = m - a % m from Nat.min_eq_right hc]
        have hal := next_multiple hm a
        obtain ⟨ht, hl⟩ := ih (a + (m - a % m)) (n - (m - a % m)) (by omega)
        refine ⟨⟨rfl, ht⟩, ?_⟩
        unfold runsLen at hl ⊢
        rw [List.map_cons, List.sum_cons, hl]
        dsimp only
        omega

/-- Pieces that begin at a multiple of `m` all do. -/
theorem busPieces_aligned {m : Nat} (hm : 0 < m) (k n : Nat) {a : Nat} (h : a % m = 0) : ∀ p ∈ busPieces m k a n, p.1 % m = 0 := by
  induction k generalizing a n with
  | zero => intro p hp; cases hp
  | succ k ih =>
    unfold busPieces
    split
    next => intro p hp; cases hp
    next hn =>
      refine List.forall_mem_cons.2 ⟨h, ?_⟩
      rcases Nat.le_total n (m - a % m) with hc | hc
      · rw [show Nat.min n (m - a % m) = n from Nat.min_eq_left hc, Nat.sub_self]
        intro p hp
        cases k <;> cases hp
      · rw [show Nat.min n (m - a % m) = m - a % m from Nat.min_eq_right hc]
        exact ih _ (next_multiple hm a)

/-- Each piece holds something and no more than `m` bytes, and all but the first begin at a multiple of `m`. -/
theorem busPieces_cut {m : Nat} (hm : 0 < m) (k a n : Nat) :
    ∀ p ∈ busPieces m k a n, 1 ≤ p.2 ∧ p.2 ≤ m ∧ ((busPieces m k a n).head? ≠ some p → p.1 % m = 0) := by
  have hsize : ∀ k a n, ∀ p ∈ busPieces m k a n, 1 ≤ p.2 ∧ p.2 ≤ m := by
    intro k
    induction k with
    | zero => intro a n p hp; cases hp
    | succ k ih =>
      intro a n
      unfold busPieces
      split
      next => intro p hp; cases hp
      next hn =>
        refine List.forall_mem_cons.2 ⟨?_, ih _ _⟩
        have hlt := Nat.mod_lt a hm
        rw [show Nat.min n (m - a % m) = min n (m - a % m) from rfl]
        dsimp only
        omega
  intro p hp
  refine ⟨(hsize k a n p hp).1, (hsize k a n p hp).2, fun hne => ?_⟩
  cases k with
  | zero => cases hp
  | succ k =>
    unfold busPieces at hp hne
    split at hp
    next => cases hp
    next hn =>
      rw [if_neg hn] at hne
      rcases List.mem_cons.1 hp with rfl | hp
      · exact absurd rfl hne
      · rcases Nat.le_total n (m - a % m) with hc | hc
        · rw [show Nat.min n (m - a % m) = n from Nat.min_eq_left hc, Nat.sub_self] at hp
          cases k <;> cases hp
        · rw [show Nat.min n (m - a % m) = m - a % m from Nat.min_eq_right hc] at hp
          exact busPieces_aligned hm k _ (next_multiple hm a) p hp

/-- The pieces that a run of requests is cut into. -/
def requests (m a n : Nat) : List (Nat × Nat) := busPieces m (n / m + 2) a n

theorem requests_tiles {m : Nat} (hm : 0 < m) (a n : Nat) : Tiles a (requests m a n) ∧ runsLen (requests m a n) = n := by
  refine busPieces_tiles hm _ a n ?_
  have hlt := Nat.mod_lt a hm
  have hn := Nat.lt_mul_div_succ n hm
  have hk : (n / m + 2) * m = m * (n / m + 1) + m := by ring
  omega

/-- A run that ends before the next multiple is one piece. -/
theorem requests_single {m a n : Nat} (hn : 0 < n) (h : n ≤ m - a % m) : requests m a n = [(a, n)] := by
  unfold requests busPieces
  rw [if_neg (by omega)]
  dsimp only
  rw [show Nat.min n (m - a % m) = n from Nat.min_eq_left h, Nat.sub_self]
  rfl

/-- Pieces without a gap cover the bytes from their beginning on. -/
theorem Tiles.bytes {a : Nat} {l : List (Nat × Nat)} (h : Tiles a l) :
    (l.flatMap fun p => (List.range p.2).map fun i => p.1 + i) = (List.range (runsLen l)).map fun i => a + i := by
  induction l generalizing a with
  | nil => rfl
  | cons r l ih =>
    obtain ⟨rfl, ht⟩ := h
    rw [List.flatMap_cons, ih ht, show runsLen (r :: l) = r.2 + runsLen l from rfl, List.range_add, List.map_append, List.map_map]
    simp only [Function.comp_def, Nat.add_assoc]

/-- The slices of pieces without a gap are the bytes one after the other. -/
theorem Tiles.slices {a c : Nat} {l : List (Nat × Nat)} {b : Bytes} (h : Tiles a l) (hc : c ≤ a) (hl : a - c + runsLen l = b.length) :
    (l.flatMap fun p => slice b (p.1 - c) p.2) = b.drop (a - c) := by
  induction l generalizing a with
  | nil =>
    have hnil : runsLen ([] : List (Nat × Nat)) = 0 := rfl
    rw [List.flatMap_nil, List.drop_eq_nil_of_le (by omega)]
  | cons r l ih =>
    obtain ⟨rfl, ht⟩ := h
    have hcons : runsLen (r :: l) = r.2 + runsLen l := rfl
    have hslice : slice b (r.1 - c) r.2 = (b.drop (r.1 - c)).take r.2 := by
      have hlen : ((b.drop (r.1 - c)).take r.2).length = r.2 := by simp; omega
      unfold slice
      dsimp only
      rw [hlen, Nat.sub_self]
      exact List.append_nil _
    rw [List.flatMap_cons, ih ht (by omega) (by omega), hslice, show r.1 + r.2 - c = r.1 - c + r.2 by omega, ← List.drop_drop,
      List.take_append_drop]

theorem length_slice (b : Bytes) (i n : Nat) : (slice b i n).length = n := by
  unfold slice
  simp

theorem hostRd_wire (s : State) (a : DWord) (n : Nat) :
    (hostRd s a n).wire = s.wire ++ (requests (sizeField s 12 4096) a.toNat n).map fun p => .hostRead 0 (BitVec.ofNat 64 p.1) p.2 := rfl

theorem hostWr_wire (s : State) (a : DWord) (b : Bytes) :
    (hostWr s a b).wire = s.wire ++ (requests (sizeField s 5 512) a.toNat b.length).map fun p =>
      .hostWrite 0 (BitVec.ofNat 64 p.1) (slice b (p.1 - a.toNat) p.2) := rfl

/-- The reads of a run of bytes: in order, without a gap, and cut at the multiples of the size (10 R537). -/
theorem hostRd_requests (s : State) (a : DWord) (n : Nat) :
    let top := Nat.min 4096 (128 * 2 ^ fld s.host.cfg.ctl 12 3)
    ∃ l : List (Nat × Nat), (hostRd s a n).wire = s.wire ++ l.map (fun p => Output.hostRead 0 (BitVec.ofNat 64 p.1) p.2) ∧
      (l.flatMap fun p => (List.range p.2).map fun i => p.1 + i) = (List.range n).map (fun i => a.toNat + i) ∧
      ∀ p ∈ l, 1 ≤ p.2 ∧ p.2 ≤ top ∧ (l.head? ≠ some p → p.1 % top = 0) := by
  have hm : 0 < sizeField s 12 4096 := sizeField_pos s 12 4096 (by decide)
  obtain ⟨ht, hl⟩ := requests_tiles hm a.toNat n
  exact ⟨_, hostRd_wire s a n, by rw [ht.bytes, hl], busPieces_cut hm _ _ _⟩

/-- The writes of a run of bytes. -/
theorem hostWr_requests (s : State) (a : DWord) (b : Bytes) :
    let top := Nat.min 512 (128 * 2 ^ fld s.host.cfg.ctl 5 3)
    ∃ l : List (Nat × Bytes), (hostWr s a b).wire = s.wire ++ l.map (fun p => Output.hostWrite 0 (BitVec.ofNat 64 p.1) p.2) ∧
      (l.flatMap fun p => p.2) = b ∧
      ∀ p ∈ l, p.2 ≠ [] ∧ p.2.length ≤ top ∧ (l.head? ≠ some p → p.1 % top = 0) := by
  intro top
  have hm : 0 < sizeField s 5 512 := sizeField_pos s 5 512 (by decide)
  obtain ⟨ht, hl⟩ := requests_tiles hm a.toNat b.length
  have hcut := busPieces_cut hm (b.length / sizeField s 5 512 + 2) a.toNat b.length
  refine ⟨(requests (sizeField s 5 512) a.toNat b.length).map fun p => (p.1, slice b (p.1 - a.toNat) p.2), ?_, ?_, fun p hp => ?_⟩
  · rw [hostWr_wire, List.map_map]
    rfl
  · rw [List.flatMap_map, ht.slices (Nat.le_refl _) (by omega), Nat.sub_self]
    rfl
  · obtain ⟨q, hq, rfl⟩ := List.mem_map.1 hp
    obtain ⟨hpos, hle, hal⟩ := hcut q hq
    refine ⟨fun h => ?_, by rw [length_slice]; exact hle, fun hne => hal fun hhead => hne ?_⟩
    · have := congrArg List.length h
      rw [length_slice] at this
      exact absurd this (by simp; omega)
    · rw [List.head?_map, requests, hhead]
      rfl

/-- What does not pass the next multiple of `d` does not pass that of a multiple of `d`. -/
theorem le_sub_mod_of_dvd {m d a n : Nat} (hm : 0 < m) (hdm : d ∣ m) (h : n ≤ d - a % d) : n ≤ m - a % m := by
  obtain ⟨k, hk⟩ := hdm
  have hlt := Nat.mod_lt a hm
  have hmod : a % m % d = a % d := Nat.mod_mod_of_dvd _ ⟨k, hk⟩
  generalize a % m = x at *
  have hx := Nat.div_add_mod x d
  have hle : x / d + 1 ≤ k := by
    by_contra hc
    have : d * k ≤ d * (x / d) := Nat.mul_le_mul_left d (by omega)
    omega
  have hmul : d * (x / d + 1) ≤ d * k := Nat.mul_le_mul_left d hle
  rw [Nat.mul_add, Nat.mul_one] at hmul
  omega

/-- Bytes up to the next multiple of a power of two, at most 128, are asked for in one request. -/
theorem hostRd_one (s : State) {a : DWord} {n d : Nat} (hd : d ∣ 128) (hn : 0 < n) (h : n ≤ d - a.toNat % d) :
    (hostRd s a n).wire = s.wire ++ [.hostRead 0 a n] := by
  have hm : 0 < sizeField s 12 4096 := sizeField_pos s 12 4096 (by decide)
  have hle := le_sub_mod_of_dvd hm (dvd_sizeField s 12 hd (Dvd.dvd.trans hd (by decide))) h
  rw [hostRd_wire, requests_single hn hle, List.map_singleton, BitVec.ofNat_toNat, BitVec.setWidth_eq]

/-! ### The link (01 R39 R40) -/

/-- Input `i` has the link: those that wait have lost to it. -/
def linked (i : Nat) (s : State) : State := granted .link i ((List.range 6).filter (linkWaits s)) s

theorem linked_frame {i : Nat} {s : State} : Frame [.turns] s (linked i s) := granted_frame

theorem onLink_barred {s : State} {i : Nat} (h : barred s .link i (linkWaits s) = true) (f : State → State) : onLink i f s = s := if_pos h

theorem onLink_open {s : State} {i : Nat} (h : barred s .link i (linkWaits s) = false) (f : State → State) : onLink i f s = f (linked i s) :=
  if_neg (by simp [h])

theorem linked_loses {i j : Nat} (s : State) (hj : j < 6) (hne : j ≠ i) (hw : linkWaits s j = true) :
    (⟨.link, i, j⟩ : Turn) ∈ (linked i s).turns :=
  mem_turns_granted s (List.mem_filter.2 ⟨List.mem_range.2 hj, hw⟩) hne

/-- A grant at another arbiter leaves what is owed at this one. -/
theorem mem_turns_granted_other {a b : Arbiter} {i w j : Nat} {l : List Nat} {s : State} (h : (⟨b, w, j⟩ : Turn) ∈ s.turns) (hne : b ≠ a) :
    (⟨b, w, j⟩ : Turn) ∈ (granted a i l s).turns := by
  unfold granted
  exact List.mem_append_left _ (List.mem_filter.2 ⟨h, by simp [hne]⟩)

theorem mem_turns_opsTake {b : Arbiter} {n w j : Nat} {s : State} (h : (⟨b, w, j⟩ : Turn) ∈ s.turns) (hne : b ≠ .ops) :
    (⟨b, w, j⟩ : Turn) ∈ (opsTake n s).turns := by
  unfold opsTake
  split
  · exact mem_turns_granted_other h hne
  · exact List.mem_filter.2 ⟨h, by simp [hne]⟩

/-! ### Replies (10 R540, R605) -/

section
variable {issue f held : State → State} (s : State)

theorem answered_ok (b : Bytes) : answered (.ok b) issue f held s = f (issue s) := rfl
theorem answered_failed : answered .failed issue f held s = f (issue s) := rfl
theorem answered_poisoned (b : Bytes) : answered (.poisoned b) issue f held s = f (noteError (issue s) 12) := rfl

theorem answered_timedOut (h : bit s.host.cfg.ctl2 4 = false) : answered .timedOut issue f held s = f (noteError (issue s) 14) :=
  if_neg (by simp [hangs, h])

theorem answered_hangs (h : bit s.host.cfg.ctl2 4 = true) : answered .timedOut issue f held s = held (issue s) :=
  if_pos (by simp [hangs, h])

end

theorem onReply_answer {r : Reply} (h : ∀ tag, r ≠ .stray tag) (f : State → State) (s : State) : onReply r f s = f s := by
  cases r
  case stray tag => exact absurd rfl (h tag)
  all_goals rfl

theorem noteError_aer (s : State) (i : Nat) : (noteError s i).host.cfg.aer = s.host.cfg.aer ||| oneHot i := rfl

/-- A completion that answers no read is only recorded (10 R605). -/
theorem viaCore_stray {s : State} (hr : running s = true) (hu : hostUp s = true) (tag : BitVec 10) (f : State → State) :
    ∃ t, viaCore s (onReply (.stray tag) f) = .next t ∧ Frame [.intc, .host, .regs] s t ∧ recorded s t .host 3 ∧
      t.host.cfg.aer = s.host.cfg.aer ||| oneHot 16 := by
  obtain ⟨t, ht, hF⟩ := viaCore_frame hr (onReply (.stray tag) f)
  have he : onReply (.stray tag) f s = fault (noteError s 16) .host 3 wholeBlock (tag.setWidth 64) := if_pos hu
  rw [he] at hF
  refine ⟨t, ht, ((noteError_frame.weaken rfl).trans (fault_frame.weaken rfl)).trans (hF.weaken rfl),
    recorded_fault_after (by decide) (rd_congr (noteError_frame.regs_eq rfl) _) (hF.regs_eq rfl), ?_⟩
  rw [hF.host_eq rfl, fault_frame.host_eq rfl, noteError_aer]

end Sys2Proof.Machine
end

section
/-!
What a descriptor ring that halts leaves (10 R580), and the fetch of descriptors (10 R568-R579).
-/
namespace Sys2Proof.Machine

/-! ### Registers that agree -/

theorem rd64_of_rd {s t : State} {a : Nat} (h : rd t a = rd s a) (h4 : rd t (a + 4) = rd s (a + 4)) : rd64 t a = rd64 s a := by
  unfold rd64; rw [h, h4]

theorem rbit_of_rd {s t : State} {a i : Nat} (h : rd t a = rd s a) : rbit t a i = rbit s a i := by
  unfold rbit; rw [h]

/-! ### Rings -/

/-! ### What the release of a ring leaves (10 R567, R580) -/

theorem rd_hemDrop_ne (c : Bool) (s : State) {a : Nat} (h : a ≠ R.LINE_CNT_HEM_DROP) : rd (hemDrop c s) a = rd s a := by
  unfold hemDrop
  split
  · rfl
  · exact rd_bump_ne _ h

theorem rd_dropOff_ne (r : Nat) (s : State) (i : RxItem) {a : Nat} (h : a ≠ R.LINE_CNT_HEM_DROP) (ho : a ≠ R.RING_CNT_OFF 1 r) :
    rd (dropOff r s i) a = rd s a := by
  unfold dropOff
  cases i with
  | frame f => exact (rd_bump_ne _ ho).trans (rd_freeChunks ..)
  | hem b t n c => exact (rd_hemDrop_ne _ _ h).trans (rd_bump_ne _ ho)

theorem rd_dropItem_ne (s : State) (i : RxItem) {a : Nat} (h : a ≠ R.LINE_CNT_HEM_DROP) : rd (dropItem s i) a = rd s a := by
  unfold dropItem
  cases i with
  | frame f => exact rd_congr (freeItem_frame.regs_eq rfl) a
  | hem b t n c => exact rd_hemDrop_ne _ _ h

theorem rd_releaseRing_ne (rx : Bool) (r : Nat) (s : State) {a : Nat} (h : a ≠ R.LINE_CNT_HEM_DROP) (ho : a ≠ R.RING_CNT_OFF 1 r)
    (he : a ≠ R.CLASS_EVENT) : rd (releaseRing rx r s) a = rd s a := by
  unfold releaseRing
  dsimp only
  rw [rd_congr (setRing_regs ..), rd_releaseStamp_ne _ _ he]
  have hbox : rd ((ring s rx r).inbox.foldl (dropOff r) s) a = rd s a := rd_foldl (fun s i _ => rd_dropOff_ne r s i h ho) s
  split
  · exact (rd_dropItem_ne _ _ h).trans hbox
  · exact hbox

theorem inbox_dropped_frame {r : Nat} {l : List RxItem} {s : State} : Frame [.cistern, .regs] s (l.foldl (dropOff r) s) :=
  Frame.foldl (fun _ _ h => h.trans dropOff_frame) Frame.refl

/-- What a released ring is. -/
def Ring.released (x : Ring) : Ring :=
  { x with descs := [], taken := [], part := [], got := 0, front := none, inbox := [], cur := none, hungFetch := false, hungRead := false }

theorem ring_releaseRing (rx : Bool) (r : Nat) (s : State) : ring (releaseRing rx r s) rx r = (ring s rx r).released := by
  unfold releaseRing
  exact ring_setRing_same ..

theorem rings_releaseRing_ne (rx : Bool) (r : Nat) (s : State) {n : Nat} (h : n ≠ b2n rx * 256 + r) :
    look {} (releaseRing rx r s).rings n = look {} s.rings n := by
  unfold releaseRing
  dsimp only
  rw [ring_setRing_ne _ _ _ _ h, releaseStamp_frame.rings_eq rfl]
  split
  · rw [dropItem_frame.rings_eq rfl, inbox_dropped_frame.rings_eq rfl]
  · rw [inbox_dropped_frame.rings_eq rfl]

/-! ### A ring that halts (10 R580, R602, R605) -/

/-- From `s`, where the ring was `x`, to `t` it has halted: its state, its address and event, its record and its count. -/
structure Halted (s t : State) (rx : Bool) (r : Nat) (x : Ring) (reason : Nat) (atBuf : Bool) (addr : DWord) : Prop where
  ring : ring t rx r = { x.released with st := .halted, reason := reason, atBuf := atBuf }
  addr : rd64 t (R.RING_HALT_ADDR (b2n rx) r) = addr
  event : rbit t (R.RING_EVENT (b2n rx) r) 1 = true
  count : rd t (R.RING_CNT_ABANDON (b2n rx) r) = sat32 ((rd s (R.RING_CNT_ABANDON (b2n rx) r)).toNat + b2n (atBuf || x.unfinished rx))
  record : recorded s t .ring reason

theorem haltRing_halted {s u t : State} {rx : Bool} {r reason : Nat} {atBuf : Bool} {addr : DWord} (hr : r < 256) (hc : reason < 32)
    (hu : u.regs = s.regs) (hF : Frame [.intc] (haltRing rx r reason atBuf addr u) t) :
    Halted s t rx r (ring u rx r) reason atBuf addr := by
  have h1 : b2n rx ≤ 1 := by cases rx <;> decide
  have hb : Block.ring.base = 0x300F00 := rfl
  have hab : b2n rx * 0x10000 + r * 0x40 < 0x20000 := by omega
  have hout (a : Nat) (ha : Block.ring.base + 0x20 ≤ a) (v : State) (n : Nat) : rd (fault v .ring reason n addr) a = rd v a :=
    rd_fault_out _ _ _ _ _ (Or.inr ha)
  unfold haltRing at hF
  dsimp only at hF
  generalize hn : b2n (atBuf || (ring u rx r).unfinished rx) = n at hF
  generalize h2 : setRing (releaseRing rx r u) rx r { ring (releaseRing rx r u) rx r with st := .halted, reason := reason, atBuf := atBuf } = v2
    at hF
  have hv2 (a : Nat) (h : a ≠ R.LINE_CNT_HEM_DROP) (ho : a ≠ R.RING_CNT_OFF 1 r) (he : a ≠ R.CLASS_EVENT) : rd v2 a = rd s a := by
    rw [← h2, rd_congr (setRing_regs ..), rd_releaseRing_ne rx r u h ho he, rd_congr hu]
  refine ⟨?_, ?_, ?_, ?_, ?_⟩
  · rw [ring_congr (hF.rings_eq rfl), ring_congr (fault_frame.rings_eq rfl), ring_congr (bumpBy_frame.rings_eq rfl),
      ring_congr (event_frame.rings_eq rfl), ring_congr (wr64_frame.rings_eq rfl), ← h2, ring_setRing_same, ring_releaseRing]
  · rw [rd64_congr (hF.regs_eq rfl)]
    have hlo : Block.ring.base + 0x20 ≤ R.RING_HALT_ADDR (b2n rx) r := by rw [hb]; unfold R.RING_HALT_ADDR; omega
    have hev : R.RING_HALT_ADDR (b2n rx) r ≠ R.RING_EVENT (b2n rx) r := by unfold R.RING_HALT_ADDR R.RING_EVENT; omega
    have hev4 : R.RING_HALT_ADDR (b2n rx) r + 4 ≠ R.RING_EVENT (b2n rx) r := by unfold R.RING_HALT_ADDR R.RING_EVENT; omega
    have hcnt : R.RING_HALT_ADDR (b2n rx) r ≠ R.RING_CNT_ABANDON (b2n rx) r := by unfold R.RING_HALT_ADDR R.RING_CNT_ABANDON; omega
    have hcnt4 : R.RING_HALT_ADDR (b2n rx) r + 4 ≠ R.RING_CNT_ABANDON (b2n rx) r := by unfold R.RING_HALT_ADDR R.RING_CNT_ABANDON; omega
    rw [rd64_of_rd (hout _ hlo _ _) (hout _ (by omega) _ _), rd64_of_rd (rd_bumpBy_ne _ _ hcnt) (rd_bumpBy_ne _ _ hcnt4),
      rd64_of_rd (rd_event_ne _ _ hev) (rd_event_ne _ _ hev4), rd64_wr64_same]
  · have hlo : Block.ring.base + 0x20 ≤ R.RING_EVENT (b2n rx) r := by rw [hb]; unfold R.RING_EVENT; omega
    have hcnt : R.RING_EVENT (b2n rx) r ≠ R.RING_CNT_ABANDON (b2n rx) r := by unfold R.RING_EVENT R.RING_CNT_ABANDON; omega
    rw [rbit_congr (hF.regs_eq rfl), rbit_of_rd (hout _ hlo _ _), rbit_of_rd (rd_bumpBy_ne _ _ hcnt)]
    exact rbit_event_self _ (by decide)
  · have hlo : Block.ring.base + 0x20 ≤ R.RING_CNT_ABANDON (b2n rx) r := by rw [hb]; unfold R.RING_CNT_ABANDON; omega
    have hev : R.RING_CNT_ABANDON (b2n rx) r ≠ R.RING_EVENT (b2n rx) r := by unfold R.RING_CNT_ABANDON R.RING_EVENT; omega
    have ha : R.RING_CNT_ABANDON (b2n rx) r ≠ R.RING_HALT_ADDR (b2n rx) r := by unfold R.RING_HALT_ADDR R.RING_CNT_ABANDON; omega
    have ha4 : R.RING_CNT_ABANDON (b2n rx) r ≠ R.RING_HALT_ADDR (b2n rx) r + 4 := by unfold R.RING_HALT_ADDR R.RING_CNT_ABANDON; omega
    rw [rd_congr (hF.regs_eq rfl), hout _ hlo, rd_bumpBy_same, rd_event_ne _ _ hev, rd_wr64_ne _ _ ha ha4, hv2, hn]
    · unfold R.RING_CNT_ABANDON R.LINE_CNT_HEM_DROP; omega
    · unfold R.RING_CNT_ABANDON R.RING_CNT_OFF; omega
    · unfold R.RING_CNT_ABANDON R.CLASS_EVENT; omega
  · refine recorded_fault_after hc ?_ (hF.regs_eq rfl)
    have hcnt : Block.ring.base + 4 ≠ R.RING_CNT_ABANDON (b2n rx) r := by rw [hb]; unfold R.RING_CNT_ABANDON; omega
    have hev : Block.ring.base + 4 ≠ R.RING_EVENT (b2n rx) r := by rw [hb]; unfold R.RING_EVENT; omega
    have ha : Block.ring.base + 4 ≠ R.RING_HALT_ADDR (b2n rx) r := by rw [hb]; unfold R.RING_HALT_ADDR; omega
    have ha4 : Block.ring.base + 4 ≠ R.RING_HALT_ADDR (b2n rx) r + 4 := by rw [hb]; unfold R.RING_HALT_ADDR; omega
    rw [rd_bumpBy_ne _ _ hcnt, rd_event_ne _ _ hev, rd_wr64_ne _ _ ha ha4, hv2]
    · decide
    · rw [hb]; unfold R.RING_CNT_OFF; omega
    · decide

theorem haltRing_others {rx : Bool} {r reason : Nat} {atBuf : Bool} {addr : DWord} {u : State} {n : Nat} (h : n ≠ b2n rx * 256 + r) :
    look {} (haltRing rx r reason atBuf addr u).rings n = look {} u.rings n := by
  unfold haltRing
  dsimp only
  rw [fault_frame.rings_eq rfl, bumpBy_frame.rings_eq rfl, event_frame.rings_eq rfl, wr64_frame.rings_eq rfl, ring_setRing_ne _ _ _ _ h,
    rings_releaseRing_ne _ _ _ h]

/-! ### The read of a descriptor (10 R568, R601) -/

theorem hostRd_wire_congr {s u : State} (hw : u.wire = s.wire) (hh : u.host = s.host) (a : DWord) (n : Nat) :
    (hostRd u a n).wire = (hostRd s a n).wire := by
  have hsize : sizeField u 12 4096 = sizeField s 12 4096 := by unfold sizeField; rw [hh]
  rw [hostRd_wire, hostRd_wire, hw, hsize]

/-- The ring has the link and an operation. -/
def fetchTurn (rx : Bool) (r : Nat) (s : State) : State := opsTake (ringNo rx r) (linked 1 s)

/-- The read of the ring's next descriptor has been put out. -/
def fetchIssued (rx : Bool) (r : Nat) (s : State) : State := hostRd (fetchTurn rx r s) (ring (fetchTurn rx r s) rx r).fetch 32

theorem fetchTurn_frame {rx : Bool} {r : Nat} {s : State} : Frame [.turns] s (fetchTurn rx r s) := linked_frame.trans opsTake_frame

theorem fetchIssued_frame {rx : Bool} {r : Nat} {s : State} : Frame [.wire, .turns] s (fetchIssued rx r s) :=
  (fetchTurn_frame.weaken rfl).trans (hostRd_frame.weaken rfl)

/-- What the read of a descriptor puts out, and who has lost to it. -/
def FetchIssued (s t : State) (x : Ring) : Prop :=
  t.wire = (hostRd s x.fetch 32).wire ∧ (x.fetch.toNat % 32 = 0 → t.wire = s.wire ++ [Output.hostRead 0 x.fetch 32]) ∧
    ∀ j, j < 6 → j ≠ 1 → linkWaits s j = true → (⟨.link, 1, j⟩ : Turn) ∈ t.turns

theorem fetchIssued_issues {s t : State} {rx : Bool} {r : Nat} (hw : t.wire = (fetchIssued rx r s).wire)
    (ht : t.turns = (fetchIssued rx r s).turns) : FetchIssued s t (ring s rx r) := by
  have hwire : t.wire = (hostRd s (ring s rx r).fetch 32).wire := by
    rw [hw, fetchIssued, ring_congr (fetchTurn_frame.rings_eq rfl), hostRd_wire_congr (fetchTurn_frame.wire_eq rfl) (fetchTurn_frame.host_eq rfl)]
  refine ⟨hwire, fun ha => ?_, fun j hj hne hwait => ?_⟩
  · rw [hwire, hostRd_one s (d := 32) (by decide) (by decide) (by rw [ha])]
  · rw [ht, fetchIssued, hostRd_frame.turns_eq rfl]
    exact mem_turns_opsTake (linked_loses s hj hne hwait) (by decide)

section
variable {s : State} {rx : Bool} {r : Nat}

theorem fetchReply_shut (h : canFetch s rx r = false) (reply : Reply) : fetchReply rx r reply s = s := by
  simp [fetchReply, h]

theorem fetchReply_spent (h : canFetch s rx r = true) (hw : walkSpent s rx r = true) (reply : Reply) :
    fetchReply rx r reply s = haltRing rx r 1 false (ring s rx r).fetch s := by
  simp [fetchReply, h, hw]

theorem fetchReply_link (h : canFetch s rx r = true) (hw : walkSpent s rx r = false) (reply : Reply) :
    fetchReply rx r reply s = onLink 1 (fun s => answered reply (fun s => hostRd s (ring s rx r).fetch 32) (fetchEff rx r reply)
      (fetchHangs rx r) (opsTake (ringNo rx r) s)) s := by
  simp [fetchReply, h, hw]

theorem fetchReply_open (h : canFetch s rx r = true) (hw : walkSpent s rx r = false) (hb : barred s .link 1 (linkWaits s) = false)
    (reply : Reply) :
    fetchReply rx r reply s =
      answered reply (fun s => hostRd s (ring s rx r).fetch 32) (fetchEff rx r reply) (fetchHangs rx r) (fetchTurn rx r s) :=
  (fetchReply_link h hw reply).trans (onLink_open hb _)

end

/-! ### What the bytes of a descriptor do (10 R569-R571) -/

section
variable {v : State} {rx : Bool} {r : Nat} {b : Bytes}

/-- The second dword pair of a descriptor. -/
def descAddr (b : Bytes) : DWord := BitVec.ofNat 64 (leAt b 0 8)

/-- Its dword 2. -/
def descTwo (b : Bytes) : Word := BitVec.ofNat 32 (leAt b 8 4)

/-- Its dword 3. -/
def descThree (b : Bytes) : Word := BitVec.ofNat 32 (leAt b 12 4)

/-- The device owns it. -/
def descOwned (b : Bytes) : Bool := decide (128 ≤ leAt b 31 1)

/-- The buffer descriptor read at `a`. -/
def bufferDesc (b : Bytes) (a : DWord) : Desc :=
  { addr := a, buf := descAddr b, len := fld (descTwo b) 0 14, int_ := bit (descThree b) 8, eop := bit (descThree b) 0
    l4 := bit (descThree b) 3, ip4 := bit (descThree b) 2, ts := bit (descThree b) 1 }

theorem takeDesc_link (hk : fld (descThree b) 28 4 = 1) (hl : badLink (ring v rx r) (descAddr b) (descTwo b) (descThree b) = false) :
    takeDesc rx r b v = setRing v rx r { ring v rx r with reads := (ring v rx r).reads + 1, fetch := descAddr b } := by
  unfold takeDesc
  dsimp only
  exact (if_pos hk).trans (if_neg (Bool.eq_false_iff.1 hl))

theorem takeDesc_badLink (hk : fld (descThree b) 28 4 = 1) (hl : badLink (ring v rx r) (descAddr b) (descTwo b) (descThree b) = true) :
    takeDesc rx r b v = haltRing rx r 3 false (ring v rx r).fetch v := by
  unfold takeDesc
  dsimp only
  exact (if_pos hk).trans (if_pos hl)

theorem takeDesc_reserved (hk : 1 < fld (descThree b) 28 4) : takeDesc rx r b v = haltRing rx r 3 false (ring v rx r).fetch v := by
  unfold takeDesc
  dsimp only
  exact (if_neg (fun h : fld (descThree b) 28 4 = 1 => by omega)).trans (if_pos (fun h : fld (descThree b) 28 4 = 0 => by omega))

theorem takeDesc_buffer (hk : fld (descThree b) 28 4 = 0) :
    takeDesc rx r b v =
      if badBuffer rx (descTwo b) (descThree b) && !descOwned b then
        haltRing rx r (if Config.pick v.free then 3 else 2) false (ring v rx r).fetch (draw1 v)
      else if badBuffer rx (descTwo b) (descThree b) then haltRing rx r 3 false (ring v rx r).fetch v
      else if !descOwned b then haltRing rx r 2 false (ring v rx r).fetch v
      else addDesc rx r (bufferDesc b (ring v rx r).fetch) v := by
  unfold takeDesc
  dsimp only
  exact (if_neg (fun h : fld (descThree b) 28 4 = 1 => by omega)).trans (if_neg (not_not.2 hk))

theorem takeDesc_good (hk : fld (descThree b) 28 4 = 0) (hb : badBuffer rx (descTwo b) (descThree b) = false) (ho : descOwned b = true) :
    takeDesc rx r b v = addDesc rx r (bufferDesc b (ring v rx r).fetch) v := by
  simp [takeDesc_buffer hk, hb, ho]

theorem takeDesc_notOwned (hk : fld (descThree b) 28 4 = 0) (hb : badBuffer rx (descTwo b) (descThree b) = false) (ho : descOwned b = false) :
    takeDesc rx r b v = haltRing rx r 2 false (ring v rx r).fetch v := by
  simp [takeDesc_buffer hk, hb, ho]

theorem takeDesc_badDesc (hk : fld (descThree b) 28 4 = 0) (hb : badBuffer rx (descTwo b) (descThree b) = true) (ho : descOwned b = true) :
    takeDesc rx r b v = haltRing rx r 3 false (ring v rx r).fetch v := by
  simp [takeDesc_buffer hk, hb, ho]

theorem takeDesc_badAndNotOwned (hk : fld (descThree b) 28 4 = 0) (hb : badBuffer rx (descTwo b) (descThree b) = true)
    (ho : descOwned b = false) :
    takeDesc rx r b v = haltRing rx r (if Config.pick v.free then 3 else 2) false (ring v rx r).fetch (draw1 v) := by
  simp [takeDesc_buffer hk, hb, ho]

theorem addDesc_others (d : Desc) {n : Nat} (h : n ≠ b2n rx * 256 + r) : look {} (addDesc rx r d v).rings n = look {} v.rings n := by
  unfold addDesc
  dsimp only
  rw [noteInflight_frame.rings_eq rfl, ring_setRing_ne _ _ _ _ h]

theorem takeDesc_others {n : Nat} (h : n ≠ b2n rx * 256 + r) : look {} (takeDesc rx r b v).rings n = look {} v.rings n := by
  rcases Nat.lt_trichotomy (fld (descThree b) 28 4) 1 with hk | hk | hk
  · rw [takeDesc_buffer (by omega)]
    split
    · rw [haltRing_others h, draw1_frame.rings_eq rfl]
    · split
      · exact haltRing_others h
      · split
        · exact haltRing_others h
        · exact addDesc_others _ h
  · cases hl : badLink (ring v rx r) (descAddr b) (descTwo b) (descThree b)
    · rw [takeDesc_link hk hl, ring_setRing_ne _ _ _ _ h]
    · rw [takeDesc_badLink hk hl, haltRing_others h]
  · rw [takeDesc_reserved hk, haltRing_others h]

end

theorem rd_noteInflight_ne (s : State) {a : Nat} (h : a ≠ R.RING_INFLIGHT_PEAK) : rd (noteInflight s) a = rd s a := by
  unfold noteInflight
  split
  · exact rd_wr_ne _ _ h
  · rfl

/-! ### The fetch as a whole -/

/-- A halt away from a buffer, spelled out. -/
theorem fetch_halts {s t : State} {rx : Bool} {r reason : Nat} {x : Ring} {addr : DWord} (h : Halted s t rx r x reason false addr) :
    (ring t rx r).st = .halted ∧ (ring t rx r).reason = reason ∧ (ring t rx r).atBuf = false ∧ (ring t rx r).descs = [] ∧
      (ring t rx r).done = x.done ∧ rd64 t (R.RING_HALT_ADDR (b2n rx) r) = addr ∧ rbit t (R.RING_EVENT (b2n rx) r) 1 = true ∧
      rd t (R.RING_CNT_ABANDON (b2n rx) r) = sat32 ((rd s (R.RING_CNT_ABANDON (b2n rx) r)).toNat + b2n (x.unfinished rx)) ∧
      recorded s t .ring reason := by
  obtain ⟨hring, haddr, hevent, hcount, hrecord⟩ := h
  rw [hring]
  exact ⟨rfl, rfl, rfl, rfl, rfl, haddr, hevent, hcount, hrecord⟩

theorem fetchEff_others {rx : Bool} {r : Nat} {reply : Reply} {v : State} {n : Nat} (h : n ≠ b2n rx * 256 + r) :
    look {} (fetchEff rx r reply v).rings n = look {} v.rings n := by
  unfold fetchEff
  split
  · exact takeDesc_others h
  · exact haltRing_others h

theorem fetchHangs_others {rx : Bool} {r : Nat} {v : State} {n : Nat} (h : n ≠ b2n rx * 256 + r) :
    look {} (fetchHangs rx r v).rings n = look {} v.rings n := by
  unfold fetchHangs
  rw [noteInflight_frame.rings_eq rfl, ring_setRing_ne _ _ _ _ h]

/-- An answered read leaves what its parts leave. -/
theorem answered_rings {reply : Reply} {issue f held : State → State} {u : State} {n : Nat}
    (hi : look {} (issue u).rings n = look {} u.rings n) (hf : ∀ v, look {} (f v).rings n = look {} v.rings n)
    (hh : ∀ v, look {} (held v).rings n = look {} v.rings n) : look {} (answered reply issue f held u).rings n = look {} u.rings n := by
  cases reply with
  | timedOut =>
    cases hb : bit u.host.cfg.ctl2 4
    · rw [answered_timedOut _ hb, hf, noteError_frame.rings_eq rfl, hi]
    · rw [answered_hangs _ hb, hh, hi]
  | poisoned b => rw [answered_poisoned, hf, noteError_frame.rings_eq rfl, hi]
  | ok b => rw [answered_ok, hf, hi]
  | failed => rw [answered_failed, hf, hi]
  | stray tag => rfl

theorem fetchReply_others {s : State} {rx : Bool} {r n : Nat} (reply : Reply) (h : n ≠ b2n rx * 256 + r) :
    look {} (fetchReply rx r reply s).rings n = look {} s.rings n := by
  cases hc : canFetch s rx r
  · rw [fetchReply_shut hc]
  cases hw : walkSpent s rx r
  · cases hb : barred s .link 1 (linkWaits s)
    · rw [fetchReply_open hc hw hb, answered_rings (by rw [hostRd_frame.rings_eq rfl]) (fun v => fetchEff_others h) (fun v => fetchHangs_others h),
        fetchTurn_frame.rings_eq rfl]
    · rw [fetchReply_link hc hw, onLink_barred hb]
  · rw [fetchReply_spent hc hw, haltRing_others h]

theorem walkSpent_true {s : State} {rx : Bool} {r : Nat}
    (h : Nat.max 4 (rfld s R.RING_WALK_LIMIT 0 16) ≤ (ring s rx r).reads - (ring s rx r).mark) : walkSpent s rx r = true := decide_eq_true h

theorem walkSpent_false {s : State} {rx : Bool} {r : Nat}
    (h : (ring s rx r).reads - (ring s rx r).mark < Nat.max 4 (rfld s R.RING_WALK_LIMIT 0 16)) : walkSpent s rx r = false :=
  decide_eq_false (Nat.not_le.2 h)

/-- The halt of a ring that stands as it stood. -/
theorem haltRing_halted_of_eq {s u t : State} {rx : Bool} {r : Fin 256} {reason : Nat} {x : Ring} (hc : reason < 32) (hx : ring u rx r = x)
    (hu : u.regs = s.regs) (hF : Frame [.intc] (haltRing rx r reason false x.fetch u) t) : Halted s t rx r x reason false x.fetch := by
  rw [← hx]
  exact haltRing_halted r.isLt hc hu (by rw [hx]; exact hF)

/-- A read that fails halts the ring with its reason, the read put out. -/
theorem fetch_failed {s u t : State} {rx : Bool} {r : Fin 256} {reply : Reply} (hn : ∀ b, reply ≠ .ok b)
    (hu : Frame [.host] (fetchIssued rx r s) u) (hF : Frame [.intc] (fetchEff rx r reply u) t) :
    Halted s t rx r (ring s rx r) (failReason reply) false (ring s rx r).fetch ∧ FetchIssued s t (ring s rx r) ∧ t.host = u.host := by
  have hring : ring u rx r = ring s rx r := ring_congr ((hu.rings_eq rfl).trans (fetchIssued_frame.rings_eq rfl)) ..
  have hregs : u.regs = s.regs := (hu.regs_eq rfl).trans (fetchIssued_frame.regs_eq rfl)
  have he : fetchEff rx r reply u = haltRing rx r (failReason reply) false (ring s rx r).fetch u := by
    rw [← hring]
    cases reply
    case ok b => exact absurd rfl (hn b)
    all_goals rfl
  have hreason : failReason reply < 32 := by cases reply <;> simp [failReason]
  rw [he] at hF
  refine ⟨haltRing_halted_of_eq hreason hring hregs hF, fetchIssued_issues ?_ ?_, ?_⟩
  · rw [hF.wire_eq rfl, haltRing_frame.wire_eq rfl, hu.wire_eq rfl]
  · rw [hF.turns_eq rfl, haltRing_frame.turns_eq rfl, hu.turns_eq rfl]
  · rw [hF.host_eq rfl, haltRing_frame.host_eq rfl]

/-- A read that is never answered is held. -/
theorem fetch_hung {s t : State} {rx : Bool} {r : Nat} (hF : Frame [.intc] (fetchHangs rx r (fetchIssued rx r s)) t) :
    FetchIssued s t (ring s rx r) ∧ ring t rx r = { ring s rx r with hungFetch := true } ∧ t.host = s.host := by
  have hring : ring (fetchHangs rx r (fetchIssued rx r s)) rx r = { ring s rx r with hungFetch := true } := by
    rw [fetchHangs, ring_congr (noteInflight_frame.rings_eq rfl), ring_setRing_same, ring_congr (fetchIssued_frame.rings_eq rfl)]
  refine ⟨fetchIssued_issues ?_ ?_, (ring_congr (hF.rings_eq rfl) ..).trans hring, ?_⟩
  · rw [hF.wire_eq rfl, fetchHangs_frame.wire_eq rfl]
  · rw [hF.turns_eq rfl, fetchHangs_frame.turns_eq rfl]
  · rw [hF.host_eq rfl, fetchHangs_frame.host_eq rfl, fetchIssued_frame.host_eq rfl]

/-- A buffer descriptor joins those fetched. -/
theorem addDesc_ring (rx : Bool) (r : Nat) (d : Desc) (v : State) :
    let x := ring v rx r
    let last := !x.chained && decide (x.slots ≤ x.idx + 1)
    ring (addDesc rx r d v) rx r = { x with
      descs := x.descs ++ [{ d with nth := x.reads + 1 }]
      reads := x.reads + 1
      mark := if !rx && d.eop then x.reads + 1 else x.mark
      fetched := (x.fetched + 1) % 65536
      idx := if last then 0 else x.idx + 1
      fetch := if last then x.base else x.fetch + 32 } := by
  unfold addDesc
  dsimp only
  rw [ring_congr (noteInflight_frame.rings_eq rfl), ring_setRing_same]

theorem rd_addDesc_ne (rx : Bool) (r : Nat) (d : Desc) (v : State) {a : Nat} (h : a ≠ R.RING_INFLIGHT_PEAK) :
    rd (addDesc rx r d v) a = rd v a := by
  unfold addDesc
  dsimp only
  rw [rd_noteInflight_ne _ h, rd_congr (setRing_regs ..)]

/-- The bytes of a descriptor put out nothing more and leave the host unit. -/
theorem fetch_took {s t : State} {rx : Bool} {r : Nat} {b : Bytes} (hF : Frame [.intc] (takeDesc rx r b (fetchIssued rx r s)) t) :
    FetchIssued s t (ring s rx r) ∧ t.host = s.host := by
  refine ⟨fetchIssued_issues ?_ ?_, ?_⟩
  · rw [hF.wire_eq rfl, takeDesc_frame.wire_eq rfl]
  · rw [hF.turns_eq rfl, takeDesc_frame.turns_eq rfl]
  · rw [hF.host_eq rfl, takeDesc_frame.host_eq rfl, fetchIssued_frame.host_eq rfl]

theorem ring_fetchIssued (rx : Bool) (r : Nat) (s : State) : ring (fetchIssued rx r s) rx r = ring s rx r :=
  ring_congr (fetchIssued_frame.rings_eq rfl) ..

end Sys2Proof.Machine

open Sys2Proof Sys2Proof.Machine

/-- Settles O48, by the ways a fetch can go: the walk limit, the link, the reply, and what the bytes of the descriptor are. -/
theorem descriptorFetchRules : Obligations.DescriptorFetchRules := by
  unfold Obligations.DescriptorFetchRules
  intro s rx r reply hr
  refine ⟨fun tag hstray hup => ?_, fun hns hc => ?_, fun hns hc => ?_⟩
  · obtain ⟨t, ht, hF, hrec, haer⟩ := viaCore_stray hr hup tag (fetchReply rx r (.stray tag))
    exact ⟨t, by rw [hstray]; exact ht, hF.rings_eq rfl, hF.wire_eq rfl, hrec, haer⟩
  · obtain ⟨t, ht, hF⟩ := viaCore_frame hr (onReply reply (fetchReply rx r reply))
    rw [onReply_answer hns, fetchReply_shut hc] at hF
    exact ⟨t, ht, hF.intcOnly⟩
  · intro x limit issued halts
    obtain ⟨t, ht, hF⟩ := viaCore_frame hr (onReply reply (fetchReply rx r reply))
    rw [onReply_answer hns] at hF
    refine ⟨t, ht, fun n hn => by rw [hF.rings_eq rfl, fetchReply_others reply hn], fun hl => ?_, fun hl hb => ?_, fun hl hb => ?_⟩
    · rw [fetchReply_spent hc (walkSpent_true hl)] at hF
      exact ⟨fetch_halts (haltRing_halted r.isLt (by decide) rfl hF), (hF.wire_eq rfl).trans (haltRing_frame.wire_eq rfl),
        (hF.host_eq rfl).trans (haltRing_frame.host_eq rfl)⟩
    · rw [fetchReply_link hc (walkSpent_false hl), onLink_barred hb] at hF
      exact hF.intcOnly
    · rw [fetchReply_open hc (walkSpent_false hl) hb] at hF
      have hx : ring (fetchIssued rx r s) rx r = x := ring_fetchIssued rx r s
      have hregs : (fetchIssued rx r s).regs = s.regs := fetchIssued_frame.regs_eq rfl
      have hhost : (fetchIssued rx r s).host = s.host := fetchIssued_frame.host_eq rfl
      have hctl : (fetchTurn rx r s).host = s.host := fetchTurn_frame.host_eq rfl
      have haer (i : Nat) : (noteError (fetchIssued rx r s) i).host.cfg.aer = s.host.cfg.aer ||| oneHot i := by rw [noteError_aer, hhost]
      refine ⟨?_, ?_, ?_, fun b hp => ?_, fun b hp => ?_⟩
      · rintro rfl hbit
        rw [answered_hangs _ (by rw [hctl]; exact hbit)] at hF
        exact fetch_hung hF
      · rintro rfl hbit
        rw [answered_timedOut _ (by rw [hctl]; exact hbit)] at hF
        obtain ⟨hh, hi, ht⟩ := fetch_failed (reply := .timedOut) (by rintro b ⟨⟩) noteError_frame hF
        exact ⟨fetch_halts hh, hi, by rw [ht, haer]⟩
      · rintro rfl
        rw [answered_failed] at hF
        obtain ⟨hh, hi, ht⟩ := fetch_failed (reply := .failed) (by rintro b ⟨⟩) Frame.refl hF
        exact ⟨fetch_halts hh, hi, ht.trans hhost⟩
      · subst hp
        rw [answered_poisoned] at hF
        obtain ⟨hh, hi, ht⟩ := fetch_failed (reply := .poisoned b) (by rintro b ⟨⟩) noteError_frame hF
        exact ⟨fetch_halts hh, hi, by rw [ht, haer]⟩
      · subst hp
        rw [answered_ok] at hF
        replace hF : Frame [.intc] (takeDesc rx r b (fetchIssued rx r s)) t := hF
        obtain ⟨hissued, ht⟩ := fetch_took hF
        refine ⟨hissued, ht, fun hk hl => ?_, fun hk hl => ?_, fun hk => ?_, fun hk hb ho => ?_, fun hk hb ho => ?_, fun hk hb ho => ?_,
          fun hk hb ho => ?_⟩
        · rw [takeDesc_link hk (hx ▸ hl), hx] at hF
          exact ⟨by rw [ring_congr (hF.rings_eq rfl), ring_setRing_same]; rfl, by rw [hF.regs_eq rfl, setRing_regs, hregs]⟩
        · rw [takeDesc_badLink hk (hx ▸ hl), hx] at hF
          exact fetch_halts (haltRing_halted_of_eq (by decide) hx hregs hF)
        · rw [takeDesc_reserved hk, hx] at hF
          exact fetch_halts (haltRing_halted_of_eq (by decide) hx hregs hF)
        · rw [takeDesc_badDesc hk hb ho, hx] at hF
          exact fetch_halts (haltRing_halted_of_eq (by decide) hx hregs hF)
        · rw [takeDesc_notOwned hk hb ho, hx] at hF
          exact fetch_halts (haltRing_halted_of_eq (by decide) hx hregs hF)
        · rw [takeDesc_badAndNotOwned hk hb ho, hx, fetchIssued_frame.free_eq rfl] at hF
          exact fetch_halts (haltRing_halted_of_eq (by split <;> decide) ((ring_congr (draw1_frame.rings_eq rfl) ..).trans hx)
            ((draw1_frame.regs_eq rfl).trans hregs) hF)
        · rw [takeDesc_good hk hb ho, hx] at hF
          have hring := (ring_congr (hF.rings_eq rfl) rx r).trans (addDesc_ring rx r _ _)
          rw [hx] at hring
          rw [hring]
          exact ⟨rfl, rfl, rfl, rfl, rfl, fun a ha => by rw [rd_congr (hF.regs_eq rfl), rd_addDesc_ne _ _ _ _ ha, rd_congr hregs]⟩
end

section
/-!
Transmit rings (10 R583-R593, R602): a read of a buffer put out and stamped, what its bytes complete, and what a failure leaves.
-/
namespace Sys2Proof.Machine

/-! ### Checksum insertion keeps a frame's length (10 R585) -/

theorem length_patch {b v : Bytes} {i : Nat} (h : i + v.length ≤ b.length) : (patch b i v).length = b.length := by
  unfold patch
  simp
  omega

theorem length_beBytes (n v : Nat) : (beBytes n v).length = n := by
  induction n generalizing v with
  | zero => rfl
  | succ n ih => simp [beBytes, ih]

theorem length_patch_twice {b : Bytes} {i v : Nat} (h : i + 2 ≤ b.length) : (patch (patch b i [0, 0]) i (beBytes 2 v)).length = b.length := by
  rw [length_patch, length_patch h]
  rw [length_patch h, length_beBytes]
  exact h

/-- The layer 4 part of a frame ends inside it. -/
theorem l4Part_inside {b : Bytes} {ip : IpAt} {i n : Nat} (h : l4Part b ip = some (i, n)) : i + n ≤ b.length := by
  unfold l4Part at h
  split at h
  next hc =>
    obtain ⟨_, _, htotal, hend⟩ := hc
    simp only [Option.some.injEq, Prod.mk.injEq] at h
    omega
  next => cases h

theorem length_insertSums (b : Bytes) (ip4 l4 : Bool) : (insertSums b ip4 l4).1.length = b.length := by
  unfold insertSums
  split
  · rfl
  next ip _ =>
    dsimp only
    generalize hb1 : (if ip4 && (decide (ip.at_ + ip.hlen ≤ b.length) && (ip.v6 || decide (20 ≤ ip.hlen)) && !ip.v6) then _ else b) = b1
    have hlen : b1.length = b.length := by
      rw [← hb1]
      split
      next hc =>
        simp only [Bool.and_eq_true, Bool.or_eq_true, decide_eq_true_eq, Bool.not_eq_true'] at hc
        obtain ⟨_, ⟨hin, h20⟩, hv6⟩ := hc
        have h20 : 20 ≤ ip.hlen := by simpa [hv6] using h20
        exact length_patch_twice (by omega)
      next => rfl
    split
    next i n hp =>
      generalize (if ip.proto = 17 then 6 else 16) = k
      split
      next hc =>
        simp only [Bool.and_eq_true, decide_eq_true_eq] at hc
        have hin := l4Part_inside (b := b1) (ip := ip) (i := i) (n := n) (by split at hp <;> [exact hp; cases hp])
        exact (length_patch (by rw [length_beBytes]; omega)).trans hlen
      next => exact hlen
    next => exact hlen

theorem length_padTo (b : Bytes) (n : Nat) : (padTo b n).length = Nat.max n b.length := by
  have hmax : Nat.max n b.length = max n b.length := rfl
  unfold padTo
  simp [hmax]
  omega

theorem fld_txWord {status ts : Nat} (skip : Bool) (hs : status < 3) (ht : ts < 4) : fld (txWord status ts skip) 27 3 = status := by
  have h : ∀ status < 3, ∀ ts < 4, ∀ skip, fld (txWord status ts skip) 27 3 = status := by decide
  exact h status hs ts ht skip

/-! ### A read of a buffer (10 R583) -/

/-- The read of `n` bytes at a place of a buffer has been put out. -/
def bufferIssued (a : DWord) (n : Nat) (s : State) : State := hostRd (linked 1 s) a n

theorem bufferIssued_frame {a : DWord} {n : Nat} {s : State} : Frame [.wire, .turns] s (bufferIssued a n s) :=
  (linked_frame.weaken rfl).trans (hostRd_frame.weaken rfl)

/-- The front stamps the frame that the read begins; terminal messages pass it by. -/
def bufferStamped (s : State) (r : Nat) (u : State) : State := if (ring s false r).begun || isTmRing s r then u else stampRing r u

/-- The stamp that the frame of the ring's next read has. -/
def frontOf (s : State) (r : Nat) : Option FrontStamp :=
  if (ring s false r).begun || isTmRing s r then (ring s false r).front else some (stampNow s)

/-- The ring with its frame's stamp. -/
def Ring.stamped (x : Ring) (y : Option FrontStamp) : Ring := { x with front := y }

theorem isTmRing_congr {s t : State} (h : t.regs = s.regs) (r : Nat) : isTmRing t r = isTmRing s r := by
  unfold isTmRing; rw [rbit_congr h, rfld_congr h]

theorem ownId_congr {s t : State} (h : t.regs = s.regs) : ownId t = ownId s := by
  unfold ownId; rw [rbit_congr h, rfld_congr h]

/-- A stamp does not depend on the host unit, the wire and the turns. -/
theorem stampNow_congr {s u : State} (h : Frame [.wire, .turns, .host] s u) : stampNow u = stampNow s := by
  rw [h.eq_of (u := { s with wire := u.wire, turns := u.turns, host := u.host }) fun f => by cases f <;> rfl]
  rfl

theorem stampRing_ring (r : Nat) (u : State) : ring (stampRing r u) false r = { ring u false r with front := some (stampNow u) } :=
  ring_setRing_same ..

section
variable {s u : State} {r : Nat} {a : DWord} {n : Nat} (hu : Frame [.host] (bufferIssued a n s) u) (ht : u.host.ringTurn = s.host.ringTurn)
include hu

theorem issued_frame : Frame [.wire, .turns, .host] s u := (bufferIssued_frame.weaken rfl).trans (hu.weaken rfl)

theorem bufferStamped_frame : Frame [.wire, .turns, .host, .cls, .rings] s (bufferStamped s r u) := by
  unfold bufferStamped
  split
  · exact (issued_frame hu).weaken rfl
  · exact ((issued_frame hu).weaken rfl).trans (stampRing_frame.weaken rfl)

theorem bufferStamped_ring : ring (bufferStamped s r u) false r = (ring s false r).stamped (frontOf s r) := by
  unfold bufferStamped frontOf
  have hring : ring u false r = ring s false r := ring_congr ((issued_frame hu).rings_eq rfl) ..
  split
  · exact hring
  · rw [stampRing_ring, hring, stampNow_congr (issued_frame hu)]
    rfl

theorem bufferStamped_wire : (bufferStamped s r u).wire = (hostRd s a n).wire := by
  have hwire : u.wire = (hostRd s a n).wire :=
    (hu.wire_eq rfl).trans (hostRd_wire_congr (linked_frame.wire_eq rfl) (linked_frame.host_eq rfl) a n)
  unfold bufferStamped
  split
  · exact hwire
  · exact (stampRing_frame.wire_eq rfl).trans hwire

theorem bufferStamped_turns {j : Nat} (hj : j < 6) (hne : j ≠ 1) (hw : linkWaits s j = true) :
    (⟨.link, 1, j⟩ : Turn) ∈ (bufferStamped s r u).turns := by
  have hturns : (bufferStamped s r u).turns = (linked 1 s).turns := by
    unfold bufferStamped
    split
    · exact (hu.turns_eq rfl).trans (hostRd_frame.turns_eq rfl)
    · exact ((stampRing_frame.turns_eq rfl).trans (hu.turns_eq rfl)).trans (hostRd_frame.turns_eq rfl)
  rw [hturns]
  exact linked_loses s hj hne hw

include ht in
omit hu in
theorem bufferStamped_turn : (bufferStamped s r u).host.ringTurn = if (ring s false r).begun || isTmRing s r then s.host.ringTurn else r := by
  unfold bufferStamped
  split
  · exact ht
  · rfl

end

/-- What the next read of a ring puts out, who has lost to it, and whose frame the front takes. -/
def BufferIssued (s t : State) (r : Nat) (a : DWord) (n : Nat) : Prop :=
  (t.wire = (hostRd s a n).wire ∧ ∀ j, j < 6 → j ≠ 1 → linkWaits s j = true → (⟨.link, 1, j⟩ : Turn) ∈ t.turns) ∧
    ((ring s false r).begun = false ∧ isTmRing s r = false → t.host.ringTurn = r) ∧
    (¬((ring s false r).begun = false ∧ isTmRing s r = false) → t.host.ringTurn = s.host.ringTurn)

theorem BufferIssued.of_frame {s v t : State} {r : Nat} {a : DWord} {n : Nat} {l : List Field} (h : BufferIssued s v r a n) (hF : Frame l v t)
    (hw : Field.wire.isIn l = false) (htu : Field.turns.isIn l = false) (hh : Field.host.isIn l = false) : BufferIssued s t r a n := by
  unfold BufferIssued
  rw [hF.wire_eq hw, hF.turns_eq htu, hF.host_eq hh]
  exact h

/-- From `s` to `v` the ring's next read has been put out, and the front has stamped the frame that it begins. -/
structure ReadOut (s v : State) (r : Nat) (a : DWord) (n : Nat) : Prop where
  frame : Frame [.wire, .turns, .host, .cls, .rings] s v
  atRing : ring v false r = (ring s false r).stamped (frontOf s r)
  issued : BufferIssued s v r a n

theorem bufferStamped_readOut {s u : State} {r : Nat} {a : DWord} {n : Nat} (hu : Frame [.host] (bufferIssued a n s) u)
    (ht : u.host.ringTurn = s.host.ringTurn) : ReadOut s (bufferStamped s r u) r a n := by
  have hturn := bufferStamped_turn (r := r) ht
  refine ⟨bufferStamped_frame hu, bufferStamped_ring hu, ⟨bufferStamped_wire hu, fun j hj hne hwait => bufferStamped_turns hu hj hne hwait⟩,
    fun hs => ?_, fun hs => ?_⟩
  · rw [hturn, hs.1, hs.2]
    rfl
  · rw [hturn, if_pos]
    by_contra hc
    simp only [Bool.or_eq_true, not_or, Bool.not_eq_true] at hc
    exact hs hc

/-! ### A reply and its read -/

section
variable {s : State} {r : Nat} {d : Desc} {rest : List Desc} {reply : Reply}

/-- How much a reply says was read. -/
def readLen (x : Ring) (d : Desc) (reply : Reply) : Nat :=
  match reply with
  | .ok b => b.length
  | _ => d.len - x.got

/-- Where the ring's next read is. -/
def Ring.readAt (x : Ring) (d : Desc) : DWord := d.buf + BitVec.ofNat 64 x.got

theorem ringReadReply_link (hd : (ring s false r).descs = d :: rest) (h : (txReady s r && frontTurn s r && readFits (ring s false r) d reply) = true) :
    ringReadReply r reply s =
      onLink 1 (answered reply (fun s' => hostRd s' ((ring s false r).readAt d) (readLen (ring s false r) d reply))
        (fun u => ringReadEff r d rest reply (if (ring s false r).begun || isTmRing u r then u else stampRing r u)) (readHangs r)) s := by
  unfold ringReadReply
  dsimp only
  rw [hd]
  exact if_pos h

theorem ringReadReply_shut (h : txReady s r = false ∨ frontTurn s r = false) : ringReadReply r reply s = s := by
  unfold ringReadReply
  dsimp only
  split
  · exact if_neg (by rcases h with h | h <;> simp [h])
  · rfl

theorem ringReadReply_barred (hb : barred s .link 1 (linkWaits s) = true) : ringReadReply r reply s = s := by
  unfold ringReadReply
  dsimp only
  split
  · split
    · exact onLink_barred hb _
    · rfl
  · rfl

theorem ringReadReply_open (hr : txReady s r = true) (hf : frontTurn s r = true) (hb : barred s .link 1 (linkWaits s) = false)
    (hd : (ring s false r).descs = d :: rest) (hfit : readFits (ring s false r) d reply = true) :
    ringReadReply r reply s =
      answered reply (fun s' => hostRd s' ((ring s false r).readAt d) (readLen (ring s false r) d reply))
        (fun u => ringReadEff r d rest reply (if (ring s false r).begun || isTmRing u r then u else stampRing r u)) (readHangs r)
        (linked 1 s) :=
  (ringReadReply_link hd (by rw [hr, hf, hfit]; rfl)).trans (onLink_open hb _)

theorem bufferStamped_of_regs {u : State} (h : u.regs = s.regs) :
    (if (ring s false r).begun || isTmRing u r then u else stampRing r u) = bufferStamped s r u := by
  rw [isTmRing_congr h]; rfl

end

/-! ### What the bytes complete (10 R583-R592) -/

section
variable {v : State} {r : Nat} {d : Desc} {rest : List Desc} {b : Bytes} {x : Ring}

theorem ringReadEff_more (hx : ring v false r = x) (h : x.got + b.length ≠ d.len) :
    ringReadEff r d rest (.ok b) v = setRing v false r { x with part := x.part ++ b, got := x.got + b.length } := by
  subst hx
  exact if_neg h

theorem ringReadEff_end (hx : ring v false r = x) (h : x.got + b.length = d.len) :
    ringReadEff r d rest (.ok b) v = endBuffer r d rest (x.part ++ b) v := by
  subst hx
  exact if_pos h

/-- The buffer in progress has been read to its end. -/
def bufferEnded (r : Nat) (d : Desc) (rest : List Desc) (b : Bytes) (v : State) : State :=
  setRing v false r { ring v false r with descs := rest, taken := (ring v false r).taken ++ [d], part := b, got := 0 }

theorem bufferEnded_frame : Frame [.rings] v (bufferEnded r d rest b v) := setRing_frame

theorem bufferEnded_ring : ring (bufferEnded r d rest b v) false r =
    { ring v false r with descs := rest, taken := (ring v false r).taken ++ [d], part := b, got := 0 } := ring_setRing_same ..

theorem endBuffer_next (he : d.eop = false) : endBuffer r d rest b v = bufferEnded r d rest b v := by
  unfold endBuffer
  dsimp only
  rw [he]
  rfl

theorem endBuffer_tm (he : d.eop = true) (ht : isTmRing v r = true) :
    endBuffer r d rest b v = sendTm r ((ring v false r).taken ++ [d]) (((ring v false r).taken ++ [d]).headD d).ts b (bufferEnded r d rest b v) := by
  unfold endBuffer
  dsimp only
  rw [he, ht]
  rfl

theorem endBuffer_frame_sent (he : d.eop = true) (ht : isTmRing v r = false) :
    endBuffer r d rest b v =
      sendRingFrame r ((ring v false r).taken ++ [d]) (((ring v false r).taken ++ [d]).headD d) b (bufferEnded r d rest b v) := by
  unfold endBuffer
  dsimp only
  rw [he, ht]
  rfl

end

section
variable (v : State) (r : Nat) (ts : Bool)

theorem takeSeq_fst : (takeSeq r ts v).1 = if ts then (ring v false r).seq else 0 := by
  unfold takeSeq; cases ts <;> rfl

theorem takeSeq_ring : ring (takeSeq r ts v).2 false r =
    { ring v false r with seq := if ts then ((ring v false r).seq + 1) % 65536 else (ring v false r).seq } := by
  unfold takeSeq
  cases ts
  · rfl
  · exact ring_setRing_same ..

theorem finishTx_ring (f : DoneFrame) : ring (finishTx r f v) false r =
    { ring v false r with taken := [], part := [], front := none, done := (ring v false r).done ++ [f] } := ring_setRing_same ..

end

section
variable {v : State} {r : Nat} {descs : List Desc} {d : Desc} {b : Bytes}

/-- The frame done that a refused frame leaves. -/
def refusedFrame (descs : List Desc) (d : Desc) (seq : Nat) : DoneFrame :=
  { descs := descs, w4 := BitVec.ofNat 32 seq, w7 := txWord 1 (if d.ts then 3 else 0) false }

theorem sendRingFrame_refused (h : b.length < 14 ∨ 16000 < b.length) :
    sendRingFrame r descs d b v =
      releaseStamp (ring v false r).front (finishTx r (refusedFrame descs d (takeSeq r d.ts v).1) (takeSeq r d.ts v).2) := by
  unfold sendRingFrame
  exact if_pos h

/-- The frame with its sums, and whether one was skipped. -/
def summed (d : Desc) (b : Bytes) : Bytes × Bool := insertSums (padTo b 60) d.ip4 d.l4

/-- The frame done that a frame sent leaves. -/
def sentFrame (descs : List Desc) (d : Desc) (b : Bytes) (seq serial : Nat) : DoneFrame :=
  { descs := descs, w4 := BitVec.ofNat 32 seq, w7 := txWord 0 0 (summed d b).2, wait := if d.ts then some serial else none }

/-- The token of a frame sent. -/
def sentToken (r : Nat) (d : Desc) (b : Bytes) (seq : Nat) : Token :=
  { len := (summed d b).1.length, src := .ring r, port := 16, csum := csumResults (summed d b).1
    hash := flowHash (beBytes 2 r ++ flowFields ((summed d b).1.take 256)), tsReq := if d.ts then some seq else none }

/-- The ring after a frame sent, and its version taken where it had no stamp. -/
def afterSent (r : Nat) (descs : List Desc) (d : Desc) (b : Bytes) (v : State) : State :=
  let u := finishTx r (sentFrame descs d b (takeSeq r d.ts v).1 (takeSeq r d.ts v).2.serial) (takeSeq r d.ts v).2
  if (ring v false r).front.isNone then takeVersion u else u

theorem sendRingFrame_sent (h : ¬(b.length < 14 ∨ 16000 < b.length)) :
    sendRingFrame r descs d b v =
      enterFront ((ring v false r).front.getD (stampNow v)) (sentToken r d b (takeSeq r d.ts v).1) (summed d b).1 false false 0
        (afterSent r descs d b v) := by
  unfold sendRingFrame
  exact if_neg h

theorem afterSent_frame : Frame [.cls, .rings] v (afterSent r descs d b v) := by
  unfold afterSent
  dsimp only
  split
  · exact ((takeSeq_frame.weaken rfl).trans (finishTx_frame.weaken rfl)).trans (takeVersion_frame.weaken rfl)
  · exact (takeSeq_frame.weaken rfl).trans (finishTx_frame.weaken rfl)

theorem afterSent_ring : ring (afterSent r descs d b v) false r = { ring v false r with
    taken := [], part := [], front := none, done := (ring v false r).done ++ [sentFrame descs d b (takeSeq r d.ts v).1 v.serial]
    seq := if d.ts then ((ring v false r).seq + 1) % 65536 else (ring v false r).seq } := by
  have hring : ring (afterSent r descs d b v) false r =
      ring (finishTx r (sentFrame descs d b (takeSeq r d.ts v).1 (takeSeq r d.ts v).2.serial) (takeSeq r d.ts v).2) false r := by
    unfold afterSent
    dsimp only
    split
    · exact ring_congr (takeVersion_frame.rings_eq rfl) ..
    · rfl
  rw [hring, finishTx_ring, takeSeq_ring, takeSeq_frame.serial_eq rfl]

end

/-! ### The ways a read goes -/

section
variable {s : State} {r : Fin 256} {d : Desc} {rest : List Desc} (hr : running s = true) (hx : txReady s r = true) (hf : frontTurn s r = true)
  (hb : barred s .link 1 (linkWaits s) = false) (hd : (ring s false r).descs = d :: rest)
include hr hx hf hb hd

omit hr hx hf hb hd in
theorem readFits_of_failed {reply : Reply} {x : Ring} (hfail : failReason reply ≠ 0) : readFits x d reply = true := by
  cases reply
  case ok b => exact absurd rfl hfail
  all_goals rfl

theorem transmit_open {reply : Reply} (hns : ∀ tag, reply ≠ .stray tag) (hfit : readFits (ring s false r) d reply = true) :
    ∃ t, exec (.transmitRingFrame r reply) s = .next t ∧
      Frame [.intc] (answered reply (fun s' => hostRd s' ((ring s false r).readAt d) (readLen (ring s false r) d reply))
        (fun u => ringReadEff r d rest reply (if (ring s false r).begun || isTmRing u r then u else stampRing r u)) (readHangs r)
        (linked 1 s)) t := by
  obtain ⟨t, ht, hF⟩ := viaCore_frame hr (onReply reply (ringReadReply r reply))
  rw [onReply_answer hns, ringReadReply_open hx hf hb hd hfit] at hF
  exact ⟨t, ht, hF⟩

theorem transmit_ok {b : Bytes} (hfit : (ring s false r).got + b.length ≤ d.len) (hne : b ≠ [] ∨ d.len = 0) :
    ∃ t v, exec (.transmitRingFrame r (.ok b)) s = .next t ∧ ReadOut s v r ((ring s false r).readAt d) b.length ∧
      Frame [.intc] (ringReadEff r d rest (.ok b) v) t := by
  have hfits : readFits (ring s false r) d (.ok b) = true := by
    have hsome : (!b.isEmpty || d.len == 0) = true := by simpa using hne
    exact Bool.and_eq_true_iff.2 ⟨decide_eq_true hfit, hsome⟩
  obtain ⟨t, ht, hF⟩ := transmit_open hr hx hf hb hd (reply := .ok b) (by rintro _ ⟨⟩) hfits
  rw [answered_ok, bufferStamped_of_regs ((hostRd_frame.regs_eq rfl).trans (linked_frame.regs_eq rfl))] at hF
  exact ⟨t, _, ht, bufferStamped_readOut Frame.refl (by rw [bufferIssued_frame.host_eq rfl]), hF⟩

theorem transmit_failed {reply : Reply} (hfail : failReason reply ≠ 0) (hh : ¬(reply = .timedOut ∧ bit s.host.cfg.ctl2 4 = true)) :
    ∃ t v, exec (.transmitRingFrame r reply) s = .next t ∧ ReadOut s v r ((ring s false r).readAt d) (d.len - (ring s false r).got) ∧
      Frame [.intc] (failRead r (failReason reply) d v) t := by
  have hctl : (linked 1 s).host = s.host := linked_frame.host_eq rfl
  have hturn : (bufferIssued ((ring s false r).readAt d) (d.len - (ring s false r).got) s).host.ringTurn = s.host.ringTurn := by
    rw [bufferIssued_frame.host_eq rfl]
  have hregs (a : DWord) (n : Nat) : (hostRd (linked 1 s) a n).regs = s.regs := bufferIssued_frame.regs_eq rfl
  obtain ⟨t, ht, hF⟩ := transmit_open hr hx hf hb hd (reply := reply) (by rintro _ rfl; exact hfail rfl) (readFits_of_failed hfail)
  cases reply with
  | stray tag => exact absurd rfl hfail
  | ok b => exact absurd rfl hfail
  | timedOut =>
    rw [answered_timedOut _ (by rw [hctl]; exact Bool.eq_false_iff.2 fun h => hh ⟨rfl, h⟩),
      bufferStamped_of_regs ((noteError_frame.regs_eq rfl).trans (hregs _ _))] at hF
    exact ⟨t, _, ht, bufferStamped_readOut noteError_frame hturn, hF⟩
  | failed =>
    rw [answered_failed, bufferStamped_of_regs (hregs _ _)] at hF
    exact ⟨t, _, ht, bufferStamped_readOut Frame.refl hturn, hF⟩
  | poisoned b =>
    rw [answered_poisoned, bufferStamped_of_regs ((noteError_frame.regs_eq rfl).trans (hregs _ _))] at hF
    exact ⟨t, _, ht, bufferStamped_readOut noteError_frame hturn, hF⟩

theorem transmit_hung (hh : bit s.host.cfg.ctl2 4 = true) :
    ∃ t, exec (.transmitRingFrame r .timedOut) s = .next t ∧
      Frame [.intc] (readHangs r (bufferIssued ((ring s false r).readAt d) (d.len - (ring s false r).got) s)) t := by
  obtain ⟨t, ht, hF⟩ := transmit_open hr hx hf hb hd (reply := .timedOut) (by rintro _ ⟨⟩) rfl
  rw [answered_hangs _ (by rw [linked_frame.host_eq rfl]; exact hh)] at hF
  exact ⟨t, ht, hF⟩

end

/-- A frame of a transmit ring is refused or sent: the flight and the frame done that it leaves. -/
theorem sendRingFrame_outcome {v : State} {r : Nat} {descs : List Desc} {d : Desc} {b : Bytes} {front : Option FrontStamp}
    (hfront : (ring v false r).front = front) :
    ∃ done, ring (sendRingFrame r descs d b v) false r = { ring v false r with
        taken := [], part := [], front := none, done := (ring v false r).done ++ [done]
        seq := if d.ts then ((ring v false r).seq + 1) % 65536 else (ring v false r).seq } ∧
      done.descs = descs ∧
      (b.length < 14 ∨ 16000 < b.length → (sendRingFrame r descs d b v).flights = v.flights ∧ fld done.w7 27 3 = 1 ∧ done.wait = none) ∧
      (14 ≤ b.length → b.length ≤ 16000 → fld done.w7 27 3 = 0 ∧ done.wait = (if d.ts then some v.serial else none) ∧
        ∃ g, (sendRingFrame r descs d b v).flights = v.flights ++ [g] ∧ g.tag = v.serial ∧ g.tok.port = 16 ∧ g.err = false ∧
          g.tok.len = Nat.max 60 b.length ∧ g.data = (insertSums (padTo b 60) d.ip4 d.l4).1 ∧ g.data.length = Nat.max 60 b.length ∧
          g.tok.tsReq = (if d.ts then some (ring v false r).seq else none) ∧
          ∀ y, front = some y → g.tok.stamp = y.stamp ∧ g.tok.ver = y.ver ∧ g.tok.slot = y.slot) := by
  by_cases hlen : b.length < 14 ∨ 16000 < b.length
  · rw [sendRingFrame_refused hlen]
    refine ⟨refusedFrame descs d (takeSeq r d.ts v).1, ?_, rfl, fun _ => ⟨?_, fld_txWord _ (by decide) (by split <;> decide), rfl⟩,
      fun h1 h2 => by omega⟩
    · rw [ring_congr (releaseStamp_frame.rings_eq rfl), finishTx_ring, takeSeq_ring]
    · rw [releaseStamp_frame.flights_eq rfl, finishTx_frame.flights_eq rfl, takeSeq_frame.flights_eq rfl]
  · rw [sendRingFrame_sent hlen]
    have hsum : (summed d b).1.length = Nat.max 60 b.length := (length_insertSums _ _ _).trans (length_padTo _ _)
    refine ⟨sentFrame descs d b (takeSeq r d.ts v).1 v.serial, ?_, rfl, fun h => absurd h hlen,
      fun _ _ => ⟨fld_txWord _ (by decide) (by decide), rfl, _, congrArg (· ++ _) (afterSent_frame.flights_eq rfl),
        afterSent_frame.serial_eq rfl, rfl, rfl, hsum, rfl, hsum, ?_, fun y hy => ?_⟩⟩
    · rw [ring_congr (enterFront_frame.rings_eq rfl), afterSent_ring]
    · show (if d.ts then some (takeSeq r d.ts v).1 else none) = _
      rw [takeSeq_fst]
      cases d.ts <;> rfl
    · rw [hfront, hy]
      exact ⟨rfl, rfl, rfl⟩

theorem queueMsg_msgs (b : Bytes) (own : Bool) (s : State) : (queueMsg b own s).msgs = s.msgs ++ [⟨s.serial, b, own⟩] := rfl

/-- The ring's front stamp released and its sequence number taken, for a terminal message. -/
def tmTaken (r : Nat) (ts : Bool) (v : State) : Nat × State := takeSeq r ts (releaseStamp (ring v false r).front v)

/-- The frame done that a terminal message leaves. -/
def tmDone (descs : List Desc) (ts : Bool) (seq status : Nat) : DoneFrame :=
  { descs := descs, w4 := BitVec.ofNat 32 seq, w7 := txWord status (if ts then 3 else 0) false }

section
variable {v : State} {r : Nat} {descs : List Desc} {ts : Bool} {b : Bytes}

theorem sendTm_good (h : tmGood b = true) :
    sendTm r descs ts b v =
      finishTx r (tmDone descs ts (tmTaken r ts v).1 0) (queueMsg (tmBytes ((ownId v).getD 0) b) true (tmTaken r ts v).2) := if_pos h

theorem sendTm_bad (h : tmGood b = false) :
    sendTm r descs ts b v = finishTx r (tmDone descs ts (tmTaken r ts v).1 2) (tmTaken r ts v).2 := if_neg (Bool.eq_false_iff.1 h)

theorem tmTaken_frame : Frame [.cls, .rings, .regs] v (tmTaken r ts v).2 := (releaseStamp_frame.weaken rfl).trans (takeSeq_frame.weaken rfl)

theorem tmTaken_done : (ring (tmTaken r ts v).2 false r).done = (ring v false r).done := by
  rw [tmTaken, takeSeq_ring, ring_congr (releaseStamp_frame.rings_eq rfl)]

/-- A frame of the terminal-message ring joins the pool or is refused. -/
theorem sendTm_outcome :
    ∃ done, (ring (sendTm r descs ts b v) false r).done = (ring v false r).done ++ [done] ∧ done.descs = descs ∧
      (tmGood b = true → fld done.w7 27 3 = 0 ∧
        (sendTm r descs ts b v).msgs = v.msgs ++ [⟨v.serial, tmBytes ((ownId v).getD 0) b, true⟩]) ∧
      (tmGood b = false → fld done.w7 27 3 = 2 ∧ (sendTm r descs ts b v).msgs = v.msgs) := by
  have hts : (if ts then 3 else 0) < 4 := by split <;> decide
  cases hg : tmGood b
  · rw [sendTm_bad hg]
    refine ⟨tmDone descs ts (tmTaken r ts v).1 2, by rw [finishTx_ring, tmTaken_done], rfl, nofun,
      fun _ => ⟨fld_txWord _ (by decide) hts, ?_⟩⟩
    rw [finishTx_frame.msgs_eq rfl, tmTaken_frame.msgs_eq rfl]
  · rw [sendTm_good hg]
    refine ⟨tmDone descs ts (tmTaken r ts v).1 0, by rw [finishTx_ring, ring_congr (queueMsg_frame.rings_eq rfl), tmTaken_done], rfl,
      fun _ => ⟨fld_txWord _ (by decide) hts, ?_⟩, nofun⟩
    rw [finishTx_frame.msgs_eq rfl, queueMsg_msgs, tmTaken_frame.msgs_eq rfl, tmTaken_frame.serial_eq rfl]

end

/-! ### A read that fails (10 R602) -/

/-- A head token already sent ends in error. -/
def headEnded (r : Nat) (v : State) : State :=
  let x := ring v false r
  let b := x.part.take 16000
  if x.headSent then
    enterFront (x.front.getD (stampNow v))
      { len := b.length, src := .ring r, port := 16, hash := flowHash (beBytes 2 r ++ flowFields (b.take 256)) } b true false 0
      (setRing v false r { x with front := none })
  else v

theorem failRead_eq (r reason : Nat) (d : Desc) (v : State) :
    failRead r reason d v = haltRing false r reason true ((ring v false r).readAt d) (headEnded r v) := rfl

section
variable {v : State} {r : Nat}

theorem headEnded_frame : Frame [.serial, .flights, .rings] v (headEnded r v) := by
  unfold headEnded
  dsimp only
  split
  · exact (setRing_frame.weaken rfl).trans (enterFront_frame.weaken rfl)
  · exact Frame.refl

theorem headEnded_done : (ring (headEnded r v) false r).done = (ring v false r).done := by
  unfold headEnded
  dsimp only
  split
  · rw [ring_congr (enterFront_frame.rings_eq rfl), ring_setRing_same]
  · rfl

theorem headEnded_none (h : (ring v false r).headSent = false) : headEnded r v = v := if_neg (Bool.eq_false_iff.1 h)

theorem headEnded_flight (h : (ring v false r).headSent = true) :
    ∃ g, (headEnded r v).flights = v.flights ++ [g] ∧ g.err = true ∧ g.tok.port = 16 := by
  unfold headEnded
  dsimp only
  rw [if_pos h]
  exact ⟨_, rfl, rfl, rfl⟩

end

theorem headSent_of_none {x : Ring} (h : x.part.length ≤ 256 ∨ x.front = none) : x.headSent = false := by
  unfold Ring.headSent
  rcases h with h | h
  · rw [decide_eq_false (by omega)]; rfl
  · rw [h]; simp

theorem headSent_of_some {x : Ring} (h : 256 < x.part.length) (hf : x.front ≠ none) : x.headSent = true := by
  unfold Ring.headSent
  rw [decide_eq_true h, Option.isSome_iff_ne_none.2 hf]
  rfl

/-- A ring set after a read changes nothing else. -/
theorem ReadOut.set {s v t : State} {r : Nat} {a : DWord} {n : Nat} {x : Ring} (hv : ReadOut s v r a n)
    (hF : Frame [.intc] (setRing v false r x) t) :
    BufferIssued s t r a n ∧
      t = { s with rings := t.rings, host := t.host, cls := t.cls, turns := t.turns, wire := t.wire, intc := t.intc } ∧ ring t false r = x := by
  have hvt : Frame [.rings, .intc] v t := (setRing_frame.weaken rfl).trans (hF.weaken rfl)
  refine ⟨hv.issued.of_frame hvt rfl rfl rfl, ?_, by rw [ring_congr (hF.rings_eq rfl), ring_setRing_same]⟩
  exact ((hv.frame.weaken (m := [.wire, .turns, .host, .cls, .rings, .intc]) rfl).trans (hvt.weaken rfl)).eq_of fun f => by cases f <;> rfl

end Sys2Proof.Machine

open Sys2Proof Sys2Proof.Machine

/-- Settles O49: the read that goes out (`bufferStamped`), then what its bytes complete, or what its failure leaves. -/
theorem transmitRingRules : Obligations.TransmitRingRules := by
  unfold Obligations.TransmitRingRules
  refine ⟨fun s r d rest hr hx hf hb hd => ?_, fun s r reply hr hns hshut => ?_, hostRd_requests⟩
  · intro x starts front descs first reads issued
    refine ⟨fun b hne hlt => ?_, fun b hne hlen he => ?_, fun b hne hlen he hnt => ?_, fun b hne hlen he ht => ?_, fun reply hfail hh => ?_,
      fun hh => ?_⟩
    · obtain ⟨t, v, ht, hv, hF⟩ := transmit_ok hr hx hf hb hd (b := b) (Nat.le_of_lt hlt) (Or.inl hne)
      rw [ringReadEff_more hv.atRing (Nat.ne_of_lt hlt)] at hF
      exact ⟨t, ht, hv.set hF⟩
    · obtain ⟨t, v, ht, hv, hF⟩ := transmit_ok hr hx hf hb hd (b := b) (Nat.le_of_eq hlen) hne
      rw [ringReadEff_end hv.atRing hlen, endBuffer_next he, bufferEnded, hv.atRing] at hF
      exact ⟨t, ht, hv.set hF⟩
    · obtain ⟨t, v, ht, hv, hF⟩ := transmit_ok hr hx hf hb hd (b := b) (Nat.le_of_eq hlen) hne
      have hntv : isTmRing v r = false := (isTmRing_congr (hv.frame.regs_eq rfl) r).trans hnt
      rw [ringReadEff_end hv.atRing hlen, endBuffer_frame_sent he hntv, hv.atRing] at hF
      have hend := bufferEnded_ring (r := r) (d := d) (rest := rest) (b := x.part ++ b) (v := v)
      rw [hv.atRing] at hend
      obtain ⟨done, hring, hdescs, hrefused, hsent⟩ := sendRingFrame_outcome (v := bufferEnded r d rest (x.part ++ b) v) (r := r) (descs := descs)
        (d := first) (b := x.part ++ b) (front := front) (by rw [hend]; rfl)
      have hvt : Frame [.serial, .cls, .flights, .rings, .regs, .intc] v t :=
        ((bufferEnded_frame.weaken rfl).trans (sendRingFrame_frame.weaken rfl)).trans (hF.weaken rfl)
      have hfl : (bufferEnded r d rest (x.part ++ b) v).flights = s.flights := (bufferEnded_frame.flights_eq rfl).trans (hv.frame.flights_eq rfl)
      have hserial : (bufferEnded r d rest (x.part ++ b) v).serial = s.serial :=
        (bufferEnded_frame.serial_eq rfl).trans (hv.frame.serial_eq rfl)
      have hringt : ring t false r = _ := (ring_congr (hF.rings_eq rfl) false r).trans hring
      have hflt : t.flights = _ := hF.flights_eq rfl
      rw [hend] at hringt hsent
      rw [hfl] at hrefused hsent
      rw [hserial] at hsent
      refine ⟨t, done, ht, hv.issued.of_frame hvt rfl rfl rfl, by rw [hringt]; rfl, hdescs, by rw [hringt], by rw [hringt], by rw [hringt],
        by rw [hringt], by rw [hringt]; rfl, fun hn => ?_, fun h1 h2 => ?_⟩
      · rw [hflt]
        exact hrefused hn
      · rw [hflt]
        exact hsent h1 h2
    · obtain ⟨t, v, ht', hv, hF⟩ := transmit_ok hr hx hf hb hd (b := b) (Nat.le_of_eq hlen) hne
      have htv : isTmRing v r = true := (isTmRing_congr (hv.frame.regs_eq rfl) r).trans ht
      rw [ringReadEff_end hv.atRing hlen, endBuffer_tm he htv, hv.atRing] at hF
      have hend := bufferEnded_ring (r := r) (d := d) (rest := rest) (b := x.part ++ b) (v := v)
      rw [hv.atRing] at hend
      obtain ⟨done, hdone, hdescs, hgood, hbad⟩ := sendTm_outcome (v := bufferEnded r d rest (x.part ++ b) v) (r := r) (descs := descs)
        (ts := first.ts) (b := x.part ++ b)
      have hended : Frame [.wire, .turns, .host, .cls, .rings] s (bufferEnded r d rest (x.part ++ b) v) :=
        hv.frame.trans (bufferEnded_frame.weaken rfl)
      have hvt : Frame [.serial, .msgs, .cls, .rings, .regs, .intc] v t :=
        ((bufferEnded_frame.weaken rfl).trans (sendTm_frame.weaken rfl)).trans (hF.weaken rfl)
      have hmsgt : t.msgs = _ := hF.msgs_eq rfl
      rw [hended.msgs_eq rfl] at hgood hbad
      rw [hended.serial_eq rfl, ownId_congr (hended.regs_eq rfl)] at hgood
      refine ⟨t, done, ht', hv.issued.of_frame hvt rfl rfl rfl, ?_, ?_, hdescs, fun h => ?_, fun h => ?_⟩
      · rw [ring_congr (hF.rings_eq rfl)]
        refine hdone.trans ?_
        rw [hend]
        rfl
      · rw [hvt.flights_eq rfl, hv.frame.flights_eq rfl]
      · rw [hmsgt]
        exact hgood h
      · rw [hmsgt]
        exact hbad h
    · obtain ⟨t, v, ht, hv, hF⟩ := transmit_failed hr hx hf hb hd hfail hh
      have hreason : failReason reply < 32 := by cases reply <;> simp [failReason]
      have hvt : Frame [.serial, .cistern, .cls, .flights, .rings, .regs, .intc] v t := (failRead_frame.weaken rfl).trans (hF.weaken rfl)
      rw [failRead_eq, hv.atRing] at hF
      have hhalt := haltRing_halted (s := s) r.isLt hreason ((headEnded_frame.regs_eq rfl).trans (hv.frame.regs_eq rfl)) hF
      have hfl : t.flights = (headEnded r v).flights := (hF.flights_eq rfl).trans (haltRing_frame.flights_eq rfl)
      obtain ⟨hring, haddr, hevent, hcount, hrecord⟩ := hhalt
      refine ⟨t, ht, hv.issued.of_frame hvt rfl rfl rfl, by rw [hring], by rw [hring], by rw [hring], ?_, haddr, hrecord, hcount, fun h => ?_,
        fun h hne => ?_⟩
      · rw [hring]
        refine headEnded_done.trans ?_
        rw [hv.atRing]
        rfl
      · rw [hfl, headEnded_none (headSent_of_none (by rw [hv.atRing]; exact h)), hv.frame.flights_eq rfl]
      · obtain ⟨g, hg, herr, hport⟩ := headEnded_flight (v := v) (r := r)
          (headSent_of_some (by rw [hv.atRing]; exact h) (by rw [hv.atRing]; exact hne))
        exact ⟨g, by rw [hfl, hg, hv.frame.flights_eq rfl], herr, hport⟩
    · obtain ⟨t, ht, hF⟩ := transmit_hung hr hx hf hb hd hh
      have hst := (bufferIssued_frame.weaken (m := [.rings, .turns, .wire, .intc]) rfl).trans
        ((readHangs_frame.weaken rfl).trans (hF.weaken rfl))
      refine ⟨t, ht, ⟨?_, fun j hj hne hwait => ?_⟩, hst.eq_of fun f => by cases f <;> rfl, ?_⟩
      · rw [hF.wire_eq rfl, readHangs_frame.wire_eq rfl]
        exact hostRd_wire_congr (linked_frame.wire_eq rfl) (linked_frame.host_eq rfl) _ _
      · rw [hF.turns_eq rfl, readHangs_frame.turns_eq rfl, bufferIssued, hostRd_frame.turns_eq rfl]
        exact linked_loses s hj hne hwait
      · rw [ring_congr (hF.rings_eq rfl), readHangs, ring_setRing_same, ring_congr (bufferIssued_frame.rings_eq rfl)]
  · obtain ⟨t, ht, hF⟩ := viaCore_frame hr (onReply reply (ringReadReply r reply))
    have hsame : ringReadReply r reply s = s := by
      rcases hshut with h | h | h
      · exact ringReadReply_shut (Or.inl h)
      · exact ringReadReply_shut (Or.inr h)
      · exact ringReadReply_barred h
    rw [onReply_answer hns, hsame] at hF
    exact ⟨t, ht, hF.intcOnly⟩
end

section
/-!
Receive rings and write-back (10 R581, R582, R594-R600): how bytes fill descriptors, what a receive item that goes on leaves, and the order of a
write-back.
-/
namespace Sys2Proof.Machine

/-! ### Bytes laid into descriptors (10 R594) -/

theorem fillDescs_empty (l : List Desc) : fillDescs l [] = ([], l, []) := by
  cases l <;> rfl

theorem fillDescs_cons (d : Desc) (l : List Desc) {b : Bytes} (h : b ≠ []) :
    fillDescs (d :: l) b = ({ d with used := Nat.min d.len b.length } :: (fillDescs l (b.drop d.len)).1, (fillDescs l (b.drop d.len)).2.1,
      (fillDescs l (b.drop d.len)).2.2) := by
  cases b with
  | nil => exact absurd rfl h
  | cons x b => rfl

/-- A descriptor as it was fetched. -/
def Desc.bare (d : Desc) : Desc := { d with used := 0 }

theorem fillDescs_bare (l : List Desc) (b : Bytes) : ((fillDescs l b).1 ++ (fillDescs l b).2.1).map Desc.bare = l.map Desc.bare := by
  induction l generalizing b with
  | nil => rfl
  | cons d l ih =>
    by_cases h : b = []
    · subst h; rfl
    · rw [fillDescs_cons d l h, List.cons_append, List.map_cons, ih]
      rfl

/-- The bytes that find no descriptor are the last ones. -/
theorem fillDescs_left (l : List Desc) (b : Bytes) : ∃ k ≤ b.length, (fillDescs l b).2.2 = b.drop k ∧ ((fillDescs l b).1.map Desc.used).sum = k := by
  induction l generalizing b with
  | nil => exact ⟨0, Nat.zero_le _, rfl, rfl⟩
  | cons d l ih =>
    by_cases h : b = []
    · subst h; exact ⟨0, Nat.zero_le _, rfl, rfl⟩
    · obtain ⟨k, hk, hleft, hsum⟩ := ih (b.drop d.len)
      rw [List.length_drop] at hk
      rw [fillDescs_cons d l h]
      refine ⟨min d.len b.length + k, by omega, ?_, by rw [List.map_cons, List.sum_cons, hsum]⟩
      rw [hleft, List.drop_drop]
      rcases Nat.le_total d.len b.length with hle | hle
      · rw [Nat.min_eq_left hle]
      · rw [Nat.min_eq_right hle, List.drop_eq_nil_of_le (Nat.le_add_right _ _)]
        exact List.drop_eq_nil_of_le (by omega)

theorem fillDescs_used_le (l : List Desc) (b : Bytes) : ∀ d ∈ (fillDescs l b).1, d.used ≤ d.len := by
  induction l generalizing b with
  | nil => exact nofun
  | cons d l ih =>
    by_cases h : b = []
    · subst h; exact nofun
    · rw [fillDescs_cons d l h]
      exact List.forall_mem_cons.2 ⟨Nat.min_le_left _ _, ih _⟩

/-- Where a descriptor follows, the one before has been filled. -/
theorem fillDescs_full (d : Desc) {b : Bytes} (l : List Desc) (h : (fillDescs l (b.drop d.len)).1 ≠ [] ∨ (fillDescs l (b.drop d.len)).2.2 ≠ []) :
    Nat.min d.len b.length = d.len := by
  refine Nat.min_eq_left (Nat.le_of_lt (Nat.lt_of_not_le fun hle => ?_))
  rw [List.drop_eq_nil_of_le hle, fillDescs_empty] at h
  rcases h with h | h <;> exact h rfl

theorem fillDescs_dropLast (l : List Desc) (b : Bytes) : ∀ d ∈ (fillDescs l b).1.dropLast, d.used = d.len := by
  induction l generalizing b with
  | nil => exact nofun
  | cons d l ih =>
    by_cases h : b = []
    · subst h; exact nofun
    · rw [fillDescs_cons d l h]
      by_cases hr : (fillDescs l (b.drop d.len)).1 = []
      · rw [hr]; exact nofun
      · rw [List.dropLast_cons_of_ne_nil hr]
        exact List.forall_mem_cons.2 ⟨fillDescs_full d l (Or.inl hr), ih _⟩

theorem fillDescs_short (l : List Desc) (b : Bytes) (h : (fillDescs l b).2.2 ≠ []) :
    (fillDescs l b).2.1 = [] ∧ ∀ d ∈ (fillDescs l b).1, d.used = d.len := by
  induction l generalizing b with
  | nil => exact ⟨rfl, nofun⟩
  | cons d l ih =>
    by_cases hb : b = []
    · subst hb; exact absurd rfl h
    · rw [fillDescs_cons d l hb] at h ⊢
      obtain ⟨hnone, hused⟩ := ih _ h
      exact ⟨hnone, List.forall_mem_cons.2 ⟨fillDescs_full d l (Or.inr h), hused⟩⟩

/-- Bytes fill the descriptors in order, each before the next. -/
theorem fillDescs_fills (l : List Desc) (b : Bytes) :
    let p := fillDescs l b
    let bare (d : Desc) : Desc := { d with used := 0 }
    (p.1 ++ p.2.1).map bare = l.map bare ∧ p.1.foldl (fun n d => n + d.used) 0 + p.2.2.length = b.length ∧
      p.2.2 = b.drop (b.length - p.2.2.length) ∧ (∀ d ∈ p.1, d.used ≤ d.len) ∧ (∀ d ∈ p.1.dropLast, d.used = d.len) ∧
      (p.2.2 ≠ [] → p.2.1 = [] ∧ ∀ d ∈ p.1, d.used = d.len) := by
  intro p bare
  obtain ⟨k, hk, hleft, hsum⟩ := fillDescs_left l b
  have hfold : p.1.foldl (fun n d => n + d.used) 0 = k := by
    rw [← hsum, List.sum_eq_foldl, List.foldl_map]
  have hlen : p.2.2.length = b.length - k := by rw [show p.2.2 = b.drop k from hleft, List.length_drop]
  refine ⟨fillDescs_bare l b, by omega, ?_, fillDescs_used_le l b, fillDescs_dropLast l b, fillDescs_short l b⟩
  rw [hlen, show b.length - (b.length - k) = k by omega]
  exact hleft

/-! ### Granules that return leave the bytes (08 R448, R920) -/

theorem toAreas_mem (n : Nat) (s : State) : (toAreas n s).cistern.mem = s.cistern.mem := foldl_mem (fun _ _ => toArea_mem ..) ..

theorem unhold_mem (s : State) (g : Nat) : (unhold s g).1.cistern.mem = s.cistern.mem := by
  unfold unhold
  dsimp only
  split <;> rfl

theorem letGo_mem (s : State) (g : Nat) : (letGo s g).cistern.mem = s.cistern.mem := by
  unfold letGo
  dsimp only
  split
  · rw [toAreas_mem, unhold_mem]
  · exact unhold_mem s g

theorem letGoAll_mem (l : List Nat) (s : State) : (letGoAll s l).cistern.mem = s.cistern.mem := by
  unfold letGoAll
  induction l generalizing s with
  | nil => rfl
  | cons g l ih => rw [List.foldl_cons, ih, letGo_mem]

theorem freeChunks_mem (s : State) (l : List Chunk) : (freeChunks s l).cistern.mem = s.cistern.mem := letGoAll_mem _ s

theorem upset_mem (s : State) (u : Upset) : (upset s u).cistern.mem = s.cistern.mem := by
  unfold upset
  rw [bumpBy_frame.cistern_eq rfl]

/-! ### Bytes read from the cistern -/

theorem chunkBytes_congr {s t : State} (hm : t.cistern.mem = s.cistern.mem) (hr : t.res = s.res) (c : Chunk) : chunkBytes t c = chunkBytes s c := by
  unfold chunkBytes
  cases c with
  | cis g k n =>
    show runBytes t _ = runBytes s _
    unfold runBytes cisBytes cisByte
    rw [hm]
  | res p k n => rw [hr]

theorem partsBytes_congr {s t : State} (hm : t.cistern.mem = s.cistern.mem) (hr : t.res = s.res) (l : List Chunk) :
    partsBytes t l = partsBytes s l := by
  unfold partsBytes
  rw [show chunkBytes t = chunkBytes s from funext (chunkBytes_congr hm hr)]

/-- A read is good where it meets no uncorrectable word (08 R443). -/
theorem cisRead_good (s : State) (acc : Access) (a n : Nat) : (cisRead s acc a n).2 = true ↔ ¬∃ w ∈ wordsOf a n, w ∈ s.cistern.poison := by
  unfold cisRead
  dsimp only
  split
  next w hw =>
    refine iff_of_false Bool.false_ne_true (not_not.2 ⟨w, List.mem_of_find?_eq_some hw, ?_⟩)
    simpa using List.find?_some hw
  next hw =>
    refine iff_of_true rfl ?_
    rintro ⟨w, hmem, hp⟩
    exact absurd (List.contains_iff_mem.2 hp) (List.find?_eq_none.1 hw w hmem)

/-- Pieces are read well where none meets an uncorrectable word. -/
theorem readRuns_good (acc : Access) (s : State) (l : List (Nat × Nat)) :
    (readRuns acc s l).2.isNone = true ↔ ¬∃ c ∈ l, ∃ w ∈ wordsOf c.1 c.2, w ∈ s.cistern.poison := by
  induction l generalizing s with
  | nil => exact iff_of_true rfl (by rintro ⟨c, hc, _⟩; cases hc)
  | cons c l ih =>
    have hc := cisRead_good s acc c.1 c.2
    have hl := ih (cisRead s acc c.1 c.2).1
    rw [cisRead_frame.cistern_eq rfl] at hl
    rw [List.exists_mem_cons_iff, not_or, ← hc, ← hl]
    show (if (cisRead s acc c.1 c.2).2 then (readRuns acc (cisRead s acc c.1 c.2).1 l).2 else some (c.1 / granuleSize)).isNone = true ↔ _
    cases (cisRead s acc c.1 c.2).2
    · exact iff_of_false Bool.false_ne_true fun h => Bool.false_ne_true h.1
    · exact ⟨fun h => ⟨rfl, h⟩, fun h => h.2⟩

/-! ### Writes to the host -/

theorem hostWr_wire_congr {s u : State} (hw : u.wire = s.wire) (hh : u.host = s.host) (a : DWord) (b : Bytes) :
    (hostWr u a b).wire = (hostWr s a b).wire := by
  have hsize : sizeField u 5 512 = sizeField s 5 512 := by unfold sizeField; rw [hh]
  rw [hostWr_wire, hostWr_wire, hw, hsize]

theorem writeData_wire_congr {s u : State} (hw : u.wire = s.wire) (hh : u.host = s.host) (l : List Desc) (b : Bytes) :
    (writeData l b u).wire = (writeData l b s).wire := by
  induction l generalizing s u b with
  | nil => exact hw
  | cons d l ih => exact ih (hostWr_wire_congr hw hh _ _) (by rw [hostWr_frame.host_eq rfl, hostWr_frame.host_eq rfl, hh]) _

/-! ### A receive item that goes on (10 R594-R600) -/

theorem sat32_toNat (w : Word) : sat32 (w.toNat + 0) = w := by
  have h := w.isLt
  unfold sat32
  split
  · apply BitVec.eq_of_toNat_eq
    simp
    omega
  · simp

theorem rd_hemDrop (copied : Bool) (s : State) : rd (hemDrop copied s) R.LINE_CNT_HEM_DROP =
    sat32 ((rd s R.LINE_CNT_HEM_DROP).toNat + b2n (!copied)) := by
  unfold hemDrop
  cases copied
  · exact rd_bump_same ..
  · exact (sat32_toNat _).symm

theorem freeItem_mem (s : State) (i : RxItem) : (freeItem s i).cistern.mem = s.cistern.mem := by
  cases i with
  | frame f => exact freeChunks_mem _ _
  | hem b a n c => rfl

theorem dropItem_mem (s : State) (i : RxItem) : (dropItem s i).cistern.mem = s.cistern.mem := by
  cases i with
  | frame f => exact freeChunks_mem _ _
  | hem b a n c => rw [dropItem, hemDrop_frame.cistern_eq rfl]

/-- What holds a message of the headend holds no granules. -/
theorem endRx_cistern_hem {r : Nat} {c : RxCur} {descs left : List Desc} {status : Nat} {s : State} {b : Bytes} {a : DWord} {n : Word}
    {copied : Bool} (h : c.item = .hem b a n copied) : (endRx r c descs left status s).cistern = s.cistern := by
  unfold endRx
  dsimp only
  rw [h, setRing_cistern]
  split
  · rw [dropItem, hemDrop_frame.cistern_eq rfl]
  · rfl

/-- An item's granules return, or its loss counts. -/
def itemEnded (c : RxCur) (status : Nat) (s : State) : State := if status = 1 then dropItem s c.item else freeItem s c.item

theorem itemEnded_frame {c : RxCur} {status : Nat} {s : State} : Frame [.cistern, .regs] s (itemEnded c status s) := by
  unfold itemEnded
  split
  · exact dropItem_frame
  · exact freeItem_frame.weaken rfl

theorem itemEnded_mem (c : RxCur) (status : Nat) (s : State) : (itemEnded c status s).cistern.mem = s.cistern.mem := by
  unfold itemEnded
  split
  · exact dropItem_mem s c.item
  · exact freeItem_mem s c.item

theorem endRx_eq (r : Nat) (c : RxCur) (descs left : List Desc) (status : Nat) (s : State) :
    endRx r c descs left status s = setRing (itemEnded c status s) true r { ring (itemEnded c status s) true r with
      cur := none, descs := left, done := (ring (itemEnded c status s) true r).done ++ [rxDone c descs status]
      mark := match descs.getLast? with | some d => d.nth | none => (ring (itemEnded c status s) true r).mark } := rfl

/-- The item has gone on from `v` to `t`, the ring having been `y`: it is done, abandoned, or waits for the next descriptor. -/
structure WentOn (v t : State) (r : Nat) (y : Ring) (c : RxCur) : Prop where
  wire : t.wire = (writeData (fillDescs y.descs (c.bytes.drop c.off)).1 (c.bytes.drop c.off) v).wire
  descs : (ring t true r).descs = (fillDescs y.descs (c.bytes.drop c.off)).2.1
  inbox : (ring t true r).inbox = y.inbox
  mem : t.cistern.mem = v.cistern.mem
  hem : ∀ b a n copied, c.item = .hem b a n copied → t.cistern = v.cistern
  ended : (fillDescs y.descs (c.bytes.drop c.off)).2.2 = [] → (ring t true r).cur = none ∧
    (ring t true r).done = y.done ++ [rxDone c (c.descs ++ (fillDescs y.descs (c.bytes.drop c.off)).1) (if c.good then 0 else 2)]
  abandoned : (fillDescs y.descs (c.bytes.drop c.off)).2.2 ≠ [] → y.unread = 0 → (ring t true r).cur = none ∧
    (ring t true r).done = y.done ++ [rxDone c (c.descs ++ (fillDescs y.descs (c.bytes.drop c.off)).1) 1] ∧
    ∀ b a n copied, c.item = .hem b a n copied →
      rd t R.LINE_CNT_HEM_DROP = sat32 ((rd v R.LINE_CNT_HEM_DROP).toNat + b2n (!copied))
  waits : (fillDescs y.descs (c.bytes.drop c.off)).2.2 ≠ [] → y.unread ≠ 0 → (ring t true r).done = y.done ∧
    (ring t true r).cur = some { c with
      off := c.off + ((c.bytes.drop c.off).length - (fillDescs y.descs (c.bytes.drop c.off)).2.2.length)
      descs := c.descs ++ (fillDescs y.descs (c.bytes.drop c.off)).1 }

section
variable {v : State} {r : Nat} {c : RxCur}

/-- What the item's bytes do to the ring's descriptors. -/
def rxFill (v : State) (r : Nat) (c : RxCur) : List Desc × List Desc × Bytes := fillDescs (ring v true r).descs (c.bytes.drop c.off)

/-- The item's data has been written. -/
def rxWritten (v : State) (r : Nat) (c : RxCur) : State := writeData (rxFill v r c).1 (c.bytes.drop c.off) v

theorem fillRx_ended (h : (rxFill v r c).2.2 = []) :
    fillRx r c v = endRx r c (c.descs ++ (rxFill v r c).1) (rxFill v r c).2.1 (if c.good then 0 else 2) (rxWritten v r c) :=
  if_pos (List.isEmpty_iff.2 h)

theorem fillRx_abandoned (h : (rxFill v r c).2.2 ≠ []) (hu : (ring v true r).unread = 0) :
    fillRx r c v = endRx r c (c.descs ++ (rxFill v r c).1) (rxFill v r c).2.1 1 (rxWritten v r c) :=
  (if_neg (mt List.isEmpty_iff.1 h)).trans (if_pos hu)

theorem fillRx_waits (h : (rxFill v r c).2.2 ≠ []) (hu : (ring v true r).unread ≠ 0) :
    fillRx r c v = setRing (rxWritten v r c) true r { ring (rxWritten v r c) true r with
      descs := (rxFill v r c).2.1
      cur := some { c with
        off := c.off + ((c.bytes.drop c.off).length - (rxFill v r c).2.2.length), descs := c.descs ++ (rxFill v r c).1 } } :=
  (if_neg (mt List.isEmpty_iff.1 h)).trans (if_neg hu)

theorem rxWritten_frame : Frame [.wire] v (rxWritten v r c) := writeData_frame

/-- An item that ends leaves its ring without it, and its descriptors done. -/
theorem endRx_ring (descs left : List Desc) (status : Nat) :
    ∃ k, ring (endRx r c descs left status (rxWritten v r c)) true r = { ring v true r with
      cur := none, descs := left, done := (ring v true r).done ++ [rxDone c descs status], mark := k } := by
  rw [endRx_eq, ring_setRing_same, ring_congr (itemEnded_frame.rings_eq rfl), ring_congr (rxWritten_frame.rings_eq rfl)]
  exact ⟨_, rfl⟩

theorem endRx_mem (descs left : List Desc) (status : Nat) : (endRx r c descs left status (rxWritten v r c)).cistern.mem = v.cistern.mem := by
  rw [endRx_eq, setRing_cistern, itemEnded_mem, rxWritten_frame.cistern_eq rfl]

theorem rd_endRx_lost {descs left : List Desc} {b : Bytes} {a : DWord} {n : Word} {copied : Bool} (h : c.item = .hem b a n copied) :
    rd (endRx r c descs left 1 (rxWritten v r c)) R.LINE_CNT_HEM_DROP = sat32 ((rd v R.LINE_CNT_HEM_DROP).toNat + b2n (!copied)) := by
  rw [endRx_eq, rd_congr (setRing_regs ..), itemEnded, if_pos rfl, h, dropItem, rd_hemDrop, rd_congr (rxWritten_frame.regs_eq rfl)]

end

theorem fillRx_wentOn {v t : State} {r : Nat} {y : Ring} {c : RxCur} (hy : ring v true r = y) (hF : Frame [.intc] (fillRx r c v) t) :
    WentOn v t r y c := by
  subst hy
  have hringt := ring_congr (hF.rings_eq rfl) true r
  by_cases hrest : (rxFill v r c).2.2 = []
  · rw [fillRx_ended hrest] at hF hringt
    obtain ⟨k, hk⟩ := endRx_ring (v := v) (r := r) (c := c) (c.descs ++ (rxFill v r c).1) (rxFill v r c).2.1 (if c.good then 0 else 2)
    rw [hk] at hringt
    exact {
      wire := (hF.wire_eq rfl).trans (endRx_frame.wire_eq rfl)
      descs := by rw [hringt]; rfl
      inbox := by rw [hringt]
      mem := by rw [hF.cistern_eq rfl]; exact endRx_mem ..
      hem := fun b a n copied h => by rw [hF.cistern_eq rfl, endRx_cistern_hem h, rxWritten_frame.cistern_eq rfl]
      ended := fun _ => by rw [hringt]; exact ⟨rfl, rfl⟩
      abandoned := fun h => absurd hrest h
      waits := fun h => absurd hrest h }
  · by_cases hun : (ring v true r).unread = 0
    · rw [fillRx_abandoned hrest hun] at hF hringt
      obtain ⟨k, hk⟩ := endRx_ring (v := v) (r := r) (c := c) (c.descs ++ (rxFill v r c).1) (rxFill v r c).2.1 1
      rw [hk] at hringt
      exact {
        wire := (hF.wire_eq rfl).trans (endRx_frame.wire_eq rfl)
        descs := by rw [hringt]; rfl
        inbox := by rw [hringt]
        mem := by rw [hF.cistern_eq rfl]; exact endRx_mem ..
        hem := fun b a n copied h => by rw [hF.cistern_eq rfl, endRx_cistern_hem h, rxWritten_frame.cistern_eq rfl]
        ended := fun h => absurd h hrest
        abandoned := fun _ _ => by
          rw [hringt, rd_congr (hF.regs_eq rfl)]
          exact ⟨rfl, rfl, fun b a n copied h => rd_endRx_lost h⟩
        waits := fun _ h => absurd hun h }
    · rw [fillRx_waits hrest hun] at hF hringt
      rw [ring_setRing_same, ring_congr (rxWritten_frame.rings_eq rfl)] at hringt
      have hcis : t.cistern = v.cistern := by rw [hF.cistern_eq rfl, setRing_cistern, rxWritten_frame.cistern_eq rfl]
      exact {
        wire := (hF.wire_eq rfl).trans (setRing_frame.wire_eq rfl)
        descs := by rw [hringt]; rfl
        inbox := by rw [hringt]
        mem := by rw [hcis]
        hem := fun _ _ _ _ _ => hcis
        ended := fun h => absurd h hrest
        abandoned := fun _ h => absurd h hun
        waits := fun _ _ => by rw [hringt]; exact ⟨rfl, rfl⟩ }

/-- What writing an item on leaves, as seen from the state in which its turn came. -/
def RxOutcome (s t : State) (r : Nat) (c : RxCur) : Prop :=
  let x := ring s true r
  let p := fillDescs x.descs (c.bytes.drop c.off)
  t.wire = (writeData p.1 (c.bytes.drop c.off) s).wire ∧ (ring t true r).descs = p.2.1 ∧ t.cistern.mem = s.cistern.mem ∧
    (p.2.2 = [] → (ring t true r).cur = none ∧ (ring t true r).done = x.done ++ [rxDone c (c.descs ++ p.1) (if c.good then 0 else 2)]) ∧
    (p.2.2 ≠ [] → x.unread = 0 → (ring t true r).cur = none ∧ (ring t true r).done = x.done ++ [rxDone c (c.descs ++ p.1) 1] ∧
      ∀ b at_ n copied, c.item = .hem b at_ n copied →
        rd t R.LINE_CNT_HEM_DROP = sat32 ((rd s R.LINE_CNT_HEM_DROP).toNat + b2n (!copied))) ∧
    (p.2.2 ≠ [] → x.unread ≠ 0 → (ring t true r).done = x.done ∧
      (ring t true r).cur = some { c with off := c.off + ((c.bytes.drop c.off).length - p.2.2.length), descs := c.descs ++ p.1 })

theorem WentOn.outcome {s v t : State} {r : Nat} {c : RxCur} {l : List RxItem} (h : WentOn v t r { ring s true r with inbox := l } c)
    (hw : v.wire = s.wire) (hh : v.host = s.host) (hm : v.cistern.mem = s.cistern.mem)
    (hr : ∀ b a n copied, c.item = .hem b a n copied → rd v R.LINE_CNT_HEM_DROP = rd s R.LINE_CNT_HEM_DROP) : RxOutcome s t r c :=
  ⟨h.wire.trans (writeData_wire_congr hw hh _ _), h.descs, h.mem.trans hm, h.ended,
    fun hne hu =>
      have ⟨hcur, hdone, hlost⟩ := h.abandoned hne hu
      ⟨hcur, hdone, fun b a n copied hi => by rw [hlost b a n copied hi, hr b a n copied hi]⟩,
    h.waits⟩

/-! ### The item whose turn has come -/

section
variable {v : State} {r : Nat} {u : Upset} {i : RxItem} {rest : List RxItem}

/-- The ring without the item that has left its inbox. -/
def itemTaken (r : Nat) (rest : List RxItem) (v : State) : State := setRing v true r { ring v true r with inbox := rest }

theorem itemTaken_frame : Frame [.rings] v (itemTaken r rest v) := setRing_frame

theorem ringRxEff_next (hc : (ring v true r).cur = none) (hi : (ring v true r).inbox = i :: rest) :
    ringRxEff r u v =
      if !ringOpen v r then dropOff r (itemTaken r rest v) i
      else if (ring v true r).descs.isEmpty && (ring v true r).unread == 0 then dropFull r i (itemTaken r rest v)
      else fillRx r (beginRx i u (itemTaken r rest v)).1 (beginRx i u (itemTaken r rest v)).2 := by
  unfold ringRxEff
  dsimp only
  split
  next _ hc' => rw [hc] at hc'; cases hc'
  next i' rest' _ hi' =>
    obtain ⟨rfl, rfl⟩ := List.cons.inj (hi.symm.trans hi')
    rfl
  next hi' => rw [hi] at hi'; cases hi'

theorem ringRxEff_closed (hc : (ring v true r).cur = none) (hi : (ring v true r).inbox = i :: rest) (ho : ringOpen v r = false) :
    ringRxEff r u v = dropOff r (itemTaken r rest v) i := by
  rw [ringRxEff_next hc hi, ho]
  exact if_pos rfl

theorem ringRxEff_full (hc : (ring v true r).cur = none) (hi : (ring v true r).inbox = i :: rest) (ho : ringOpen v r = true)
    (hd : (ring v true r).descs = []) (hu : (ring v true r).unread = 0) : ringRxEff r u v = dropFull r i (itemTaken r rest v) := by
  rw [ringRxEff_next hc hi, ho, hd, hu]
  exact (if_neg Bool.false_ne_true).trans (if_pos rfl)

theorem ringRxEff_begins (hc : (ring v true r).cur = none) (hi : (ring v true r).inbox = i :: rest) (ho : ringOpen v r = true)
    (hd : (ring v true r).descs ≠ [] ∨ (ring v true r).unread ≠ 0) :
    ringRxEff r u v = fillRx r (beginRx i u (itemTaken r rest v)).1 (beginRx i u (itemTaken r rest v)).2 := by
  rw [ringRxEff_next hc hi, ho]
  refine (if_neg Bool.false_ne_true).trans (if_neg ?_)
  rcases hd with h | h <;> simp [h]

theorem ringRxEff_goesOn {c : RxCur} (hc : (ring v true r).cur = some c) (hu : hostUp v = true) : ringRxEff r u v = fillRx r c v := by
  unfold ringRxEff
  dsimp only
  rw [hc]
  exact if_pos hu

theorem upset_cistern_congr {s : State} (h : v.cistern = s.cistern) : (upset v u).cistern = (upset s u).cistern := by
  unfold upset
  rw [bumpBy_frame.cistern_eq rfl, bumpBy_frame.cistern_eq rfl, h]

/-- A frame begins with its bytes, and good where no word of it is uncorrectable. -/
theorem beginRx_frame_item {s : State} (h : v.cistern = s.cistern) (hr : v.res = s.res) (f : QFrame) :
    ∃ good, (beginRx (.frame f) u v).1 = { item := .frame f, bytes := partsBytes s f.parts, good := good } ∧
      (good = true ↔ ¬∃ c ∈ chunkRuns f.parts, ∃ w ∈ wordsOf c.1 c.2, w ∈ (upset s u).cistern.poison) ∧
      (beginRx (.frame f) u v).2.cistern.mem = s.cistern.mem := by
  have hbytes : partsBytes (upset v u) f.parts = partsBytes s f.parts :=
    partsBytes_congr ((upset_mem v u).trans (by rw [h])) ((upset_frame.res_eq rfl).trans hr) _
  refine ⟨_, by rw [← hbytes]; rfl, ?_, ?_⟩
  · rw [← upset_cistern_congr h]
    exact readRuns_good _ _ _
  · show (readRuns _ (upset v u) _).1.cistern.mem = _
    rw [readRuns_frame.cistern_eq rfl, upset_mem, h]

end

theorem hostUp_congr {s t : State} (hp : t.power = s.power) (hm : t.mode = s.mode) (hh : t.host = s.host) : hostUp t = hostUp s := by
  unfold hostUp running
  rw [hp, hm, hh]

/-- The effect of the ring's turn: with the link where it has something to write. -/
theorem receive_turn {s : State} {r : Fin 256} {u : Upset} (hr : running s = true) (hb : barred s .link 1 (linkWaits s) = false) :
    ∃ t v, exec (.ringReceiveFrame r u) s = .next t ∧ Frame [.turns] s v ∧ Frame [.intc] (ringRxEff r u v) t := by
  obtain ⟨t, ht, hF⟩ := viaCore_frame hr (fun s => if rxReady s r then onLink 1 (ringRxEff r u) s else ringRxEff r u s)
  split at hF
  · rw [onLink_open hb] at hF
    exact ⟨t, _, ht, linked_frame, hF⟩
  · exact ⟨t, s, ht, Frame.refl, hF⟩

section
variable {s v : State} {r : Nat} {u : Upset} {i : RxItem} {rest : List RxItem} (hv : Frame [.turns] s v)
  (hc : (ring s true r).cur = none) (hi : (ring s true r).inbox = i :: rest)
include hv

theorem taken_frame : Frame [.turns, .rings] s (itemTaken r rest v) := (hv.weaken rfl).trans (itemTaken_frame.weaken rfl)

theorem taken_ring : ring (itemTaken r rest v) true r = { ring s true r with inbox := rest } := by
  rw [itemTaken, ring_setRing_same, ring_congr (hv.rings_eq rfl)]

theorem rd_taken (a : Nat) : rd (itemTaken r rest v) a = rd s a := rd_congr ((taken_frame hv).regs_eq rfl) a

theorem turn_queues {t : State} (hF : Frame [.intc] (ringRxEff r u v) t) : t.queues = s.queues := by
  rw [hF.queues_eq rfl, ringRxEff_frame.queues_eq rfl, hv.queues_eq rfl]

theorem turn_open : ringOpen v r = ringOpen s r := ringOpen_congr (hv.rings_eq rfl) (hv.host_eq rfl) (hv.mode_eq rfl) r

include hc hi

theorem turn_closed (ho : ringOpen s r = false) : ringRxEff r u v = dropOff r (itemTaken r rest v) i := by
  have hring := ring_congr (hv.rings_eq rfl) true r
  exact ringRxEff_closed (by rw [hring, hc]) (by rw [hring, hi]) ((turn_open hv).trans ho)

theorem turn_full (ho : ringOpen s r = true) (hd : (ring s true r).descs = []) (hu : (ring s true r).unread = 0) :
    ringRxEff r u v = dropFull r i (itemTaken r rest v) := by
  have hring := ring_congr (hv.rings_eq rfl) true r
  exact ringRxEff_full (by rw [hring, hc]) (by rw [hring, hi]) ((turn_open hv).trans ho) (by rw [hring, hd]) (by rw [hring, hu])

theorem turn_begins (ho : ringOpen s r = true) (hd : (ring s true r).descs ≠ [] ∨ (ring s true r).unread ≠ 0) :
    ringRxEff r u v = fillRx r (beginRx i u (itemTaken r rest v)).1 (beginRx i u (itemTaken r rest v)).2 := by
  have hring := ring_congr (hv.rings_eq rfl) true r
  exact ringRxEff_begins (by rw [hring, hc]) (by rw [hring, hi]) ((turn_open hv).trans ho) (by rw [hring]; exact hd)

end

theorem not_full_of {x : Ring} (h : x.descs ≠ [] ∨ x.unread ≠ 0) : ¬(x.descs = [] ∧ x.unread = 0) := by
  rwa [not_and_or]

/-! ### Write-back (10 R581, R582, R589) -/

/-- Bytes up to the next multiple of a power of two, at most 128, go out in one write. -/
theorem hostWr_one (s : State) {a : DWord} {b : Bytes} {d : Nat} (hd : d ∣ 128) (hb : b ≠ []) (h : b.length ≤ d - a.toNat % d) :
    (hostWr s a b).wire = s.wire ++ [.hostWrite 0 a b] := by
  have hm : 0 < sizeField s 5 512 := sizeField_pos s 5 512 (by decide)
  have hle := le_sub_mod_of_dvd hm (dvd_sizeField s 5 hd (Dvd.dvd.trans hd (by decide))) h
  have hslice : slice b (a.toNat - a.toNat) b.length = b := by
    unfold slice
    simp
  rw [hostWr_wire, requests_single (List.length_pos_of_ne_nil hb) hle, List.map_singleton, BitVec.ofNat_toNat, BitVec.setWidth_eq, hslice]

theorem length_leBytes (n v : Nat) : (leBytes n v).length = n := by
  induction n generalizing v with
  | zero => rfl
  | succ n ih => simp [leBytes, ih]

/-- Dwords of an aligned descriptor go out in one write. -/
theorem writeDwords_wire (s : State) {d : Desc} {i : Nat} {b : Bytes} {ws : List Word} (ha : d.addr.toNat % 32 = 0)
    (hb : (ws.flatMap fun w => leBytes 4 w.toNat) = b) (hne : b ≠ []) (hi : 4 * i + b.length ≤ 32) :
    (writeDwords d i ws s).wire = s.wire ++ [.hostWrite 0 (d.addr + BitVec.ofNat 64 (4 * i)) b] := by
  have hpos : 0 < b.length := List.length_pos_of_ne_nil hne
  have haddr : (d.addr + BitVec.ofNat 64 (4 * i)).toNat % 32 = 4 * i := by
    rw [BitVec.toNat_add, BitVec.toNat_ofNat]
    omega
  rw [writeDwords, hb]
  exact hostWr_one s (d := 32) (by decide) hne (by omega)

/-- The write of dwords 4 to 6. -/
def writeFour (f : DoneFrame) (d : Desc) : Output :=
  .hostWrite 0 (d.addr + 16) (leBytes 4 f.w4.toNat ++ leBytes 4 f.w5.toNat ++ leBytes 4 f.w6.toNat)

/-- The write of dword 7. -/
def writeSeven (f : DoneFrame) (d : Desc) (last : Bool) : Output :=
  .hostWrite 0 (d.addr + 28) (leBytes 4 (wordSeven f d last).toNat)

theorem writeDwords_four (f : DoneFrame) {d : Desc} (s : State) (ha : d.addr.toNat % 32 = 0) :
    (writeDwords d 4 [f.w4, f.w5, f.w6] s).wire = s.wire ++ [writeFour f d] := by
  refine writeDwords_wire s ha (b := leBytes 4 f.w4.toNat ++ leBytes 4 f.w5.toNat ++ leBytes 4 f.w6.toNat) ?_ ?_ ?_
  · simp
  · simp [leBytes]
  · simp [length_leBytes]

theorem writeDwords_seven (f : DoneFrame) {d : Desc} (last : Bool) (s : State) (ha : d.addr.toNat % 32 = 0) :
    (writeDwords d 7 [wordSeven f d last] s).wire = s.wire ++ [writeSeven f d last] := by
  refine writeDwords_wire s ha (b := leBytes 4 (wordSeven f d last).toNat) ?_ ?_ ?_
  · simp
  · simp [leBytes]
  · simp [length_leBytes]

theorem writeFours_wire (f : DoneFrame) (l : List Desc) (s : State) (ha : ∀ d ∈ l, d.addr.toNat % 32 = 0) :
    (l.foldl (fun s d => writeDwords d 4 [f.w4, f.w5, f.w6] s) s).wire = s.wire ++ l.map (writeFour f) := by
  induction l generalizing s with
  | nil => exact (List.append_nil _).symm
  | cons d l ih =>
    obtain ⟨hd, hl⟩ := List.forall_mem_cons.1 ha
    rw [List.foldl_cons, ih _ hl, writeDwords_four f s hd, List.map_cons, List.append_assoc]
    rfl

/-- The writes of dword 7 of the descriptors after the first. -/
def sevens (f : DoneFrame) : List Desc → List Output
  | [] => []
  | d :: l => writeSeven f d l.isEmpty :: sevens f l

theorem length_sevens (f : DoneFrame) (l : List Desc) : (sevens f l).length = l.length := by
  induction l with
  | nil => rfl
  | cons d l ih => exact congrArg (· + 1) ih

theorem getElem?_sevens (f : DoneFrame) (l : List Desc) (i : Nat) (h : i < l.length) :
    (sevens f l)[i]? = some (writeSeven f (l[i]'h) (decide (i + 1 = l.length))) := by
  induction l generalizing i with
  | nil => cases h
  | cons d l ih =>
    cases i with
    | zero =>
      have hlast : l.isEmpty = decide (0 + 1 = (d :: l).length) := by cases l <;> simp
      rw [← hlast]
      rfl
    | succ i =>
      have hi : i < l.length := by simpa using h
      refine (ih i hi).trans ?_
      simp

theorem writeSevens_wire (f : DoneFrame) (l : List Desc) (s : State) (ha : ∀ d ∈ l, d.addr.toNat % 32 = 0) :
    (writeSevens f l s).wire = s.wire ++ sevens f l := by
  induction l generalizing s with
  | nil => exact (List.append_nil _).symm
  | cons d l ih =>
    obtain ⟨hd, hl⟩ := List.forall_mem_cons.1 ha
    rw [writeSevens, ih _ hl, writeDwords_seven f _ s hd, sevens, List.append_assoc]
    rfl

/-- The order of a write-back: dwords 4 to 6 of each descriptor, then dword 7, that of the first last. -/
theorem writeFrame_wire {f : DoneFrame} {d : Desc} {ds : List Desc} (hf : f.descs = d :: ds) (s : State)
    (ha : ∀ e ∈ f.descs, e.addr.toNat % 32 = 0) :
    (writeFrame f s).wire = s.wire ++ f.descs.map (writeFour f) ++ sevens f ds ++ [writeSeven f d ds.isEmpty] := by
  unfold writeFrame
  dsimp only
  have ha' := ha
  rw [hf] at ha'
  obtain ⟨hd, hds⟩ := List.forall_mem_cons.1 ha'
  rw [← writeFours_wire f f.descs s ha]
  split
  next d' l' hl =>
    obtain ⟨rfl, rfl⟩ := List.cons.inj (hf.symm.trans hl)
    rw [writeDwords_seven f _ _ hd, writeSevens_wire f _ _ hds]
  next hl => rw [hf] at hl; cases hl

/-- States that put the same out for a write. -/
def SameLink (s u : State) : Prop := u.wire = s.wire ∧ u.host = s.host

theorem SameLink.hostWr {s u : State} (h : SameLink s u) (a : DWord) (b : Bytes) : SameLink (hostWr s a b) (hostWr u a b) :=
  ⟨hostWr_wire_congr h.1 h.2 a b, h.2⟩

theorem SameLink.writeFours (f : DoneFrame) (l : List Desc) {s u : State} (h : SameLink s u) :
    SameLink (l.foldl (fun s d => writeDwords d 4 [f.w4, f.w5, f.w6] s) s) (l.foldl (fun s d => writeDwords d 4 [f.w4, f.w5, f.w6] s) u) := by
  induction l generalizing s u with
  | nil => exact h
  | cons d l ih => exact ih (h.hostWr _ _)

theorem SameLink.writeSevens (f : DoneFrame) (l : List Desc) {s u : State} (h : SameLink s u) :
    SameLink (writeSevens f l s) (writeSevens f l u) := by
  induction l generalizing s u with
  | nil => exact h
  | cons d l ih => exact ih (h.hostWr _ _)

theorem SameLink.writeFrame (f : DoneFrame) {s u : State} (h : SameLink s u) : SameLink (writeFrame f s) (writeFrame f u) := by
  have hfour := h.writeFours f f.descs
  unfold Machine.writeFrame
  dsimp only
  split
  · exact (hfour.writeSevens f _).hostWr _ _
  · exact hfour

section
variable {v : State} {rx : Bool} {r : Nat} {f : DoneFrame} {rest : List DoneFrame}

/-- The oldest frame done has been written back, counted and taken out. -/
def writtenBack (rx : Bool) (r : Nat) (f : DoneFrame) (rest : List DoneFrame) (v : State) : State :=
  setRing (countDone rx r f (writeFrame f v)) rx r
    { ring v rx r with done := rest, head := ((ring v rx r).head + f.descs.length) % 65536 }

/-- CTL or a descriptor asks for the event. -/
def eventAsked (v : State) (rx : Bool) (r : Nat) (f : DoneFrame) : Bool := rbit v (R.RING_CTL (b2n rx) r) 29 || f.descs.any (·.int_)

/-- The event is set where it is asked for. -/
def eventIfAsked (v : State) (rx : Bool) (r : Nat) (f : DoneFrame) (u : State) : State :=
  if eventAsked v rx r f then event u (R.RING_EVENT (b2n rx) r) 0 else u

theorem eventIfAsked_frame {u : State} : Frame [.regs] u (eventIfAsked v rx r f u) := by
  unfold eventIfAsked
  split
  · exact event_frame
  · exact Frame.refl

theorem rd_eventIfAsked_ne (u : State) {a : Nat} (h : a ≠ R.RING_EVENT (b2n rx) r) : rd (eventIfAsked v rx r f u) a = rd u a := by
  unfold eventIfAsked
  split
  · exact rd_event_ne _ _ h
  · rfl

theorem rbit_eventIfAsked (u : State) (h : rbit v (R.RING_CTL (b2n rx) r) 29 = true ∨ ∃ d ∈ f.descs, d.int_ = true) :
    rbit (eventIfAsked v rx r f u) (R.RING_EVENT (b2n rx) r) 0 = true := by
  have hask : eventAsked v rx r f = true := by simpa [eventAsked] using h
  rw [eventIfAsked, if_pos hask]
  exact rbit_event_self _ (by decide)

theorem writeBack1_eq (hd : (ring v rx r).done = f :: rest) :
    writeBack1 rx r v = eventIfAsked v rx r f (writtenBack rx r f rest v) := by
  unfold writeBack1
  dsimp only
  split
  next f' rest' hd' =>
    obtain ⟨rfl, rfl⟩ := List.cons.inj (hd.symm.trans hd')
    rfl
  next hd' => rw [hd] at hd'; cases hd'

theorem writtenBack_frame : Frame [.wire, .rings, .regs] v (writtenBack rx r f rest v) :=
  ((writeFrame_frame.weaken rfl).trans (countDone_frame.weaken rfl)).trans (setRing_frame.weaken rfl)

theorem rd_writtenBack (a : Nat) : rd (writtenBack rx r f rest v) a = rd (countDone rx r f (writeFrame f v)) a := rd_congr (setRing_regs ..) a

theorem rd_writeFrame (a : Nat) : rd (writeFrame f v) a = rd v a := rd_congr (writeFrame_frame.regs_eq rfl) a

theorem rd_writtenBack_good (h : fld f.w7 27 3 = 0) :
    rd (writtenBack rx r f rest v) (R.RING_CNT_FRAMES (b2n rx) r) = sat32 ((rd v (R.RING_CNT_FRAMES (b2n rx) r)).toNat + 1) := by
  rw [rd_writtenBack, show countDone rx r f (writeFrame f v) = bump (writeFrame f v) (R.RING_CNT_FRAMES (b2n rx) r) from if_pos h, rd_bump_same,
    rd_writeFrame]

theorem rd_writtenBack_abandoned (h : fld f.w7 27 3 = 1) :
    rd (writtenBack true r f rest v) (R.RING_CNT_ABANDON 1 r) = sat32 ((rd v (R.RING_CNT_ABANDON 1 r)).toNat + 1) := by
  have hcount : countDone true r f (writeFrame f v) = bump (writeFrame f v) (R.RING_CNT_ABANDON 1 r) :=
    (if_neg (by rw [h]; decide)).trans ((if_neg (by decide)).trans (if_pos h))
  rw [rd_writtenBack, hcount, rd_bump_same, rd_writeFrame]

theorem rd_writtenBack_bad (h : fld f.w7 27 3 ≠ 0) :
    rd (writtenBack false r f rest v) (R.RING_CNT_BAD 0 r) = sat32 ((rd v (R.RING_CNT_BAD 0 r)).toNat + 1) := by
  have hcount : countDone false r f (writeFrame f v) = bump (writeFrame f v) (R.RING_CNT_BAD 0 r) := (if_neg h).trans (if_pos rfl)
  rw [rd_writtenBack, hcount, rd_bump_same, rd_writeFrame]

end

end Sys2Proof.Machine

open Sys2Proof Sys2Proof.Machine

/-- Settles O50: bytes laid into descriptors (`fillDescs_fills`), an item that begins or goes on (`WentOn`), and the order of a write-back
(`writeFrame_wire`). -/
theorem receiveRingAndWriteBack : Obligations.ReceiveRingAndWriteBack := by
  unfold Obligations.ReceiveRingAndWriteBack
  intro more outcome
  refine ⟨fillDescs_fills, fun s r u f rest hr hc hi hb => ?_, fun s r u b at_ n copied rest hr hc hi hb => ?_,
    fun s r u c hr hu hc hb => ?_, fun s rx r f rest hr hu hd => ?_⟩
  · intro x bad
    obtain ⟨t, v, ht, hv, hF⟩ := receive_turn (r := r) (u := u) hr hb
    have hqueues := turn_queues hv hF
    have hring := taken_ring (r := r) (rest := rest) hv
    have htaken := taken_frame (r := r) (rest := rest) hv
    cases ho : ringOpen s r
    case false =>
      rw [turn_closed hv hc hi ho] at hF
      refine ⟨t, ht, ?_, hqueues, ?_, fun _ => ⟨?_, ?_⟩, nofun, nofun⟩
      · rw [ring_congr (hF.rings_eq rfl), ring_congr (dropOff_frame.rings_eq rfl), hring]
      · rw [hF.cistern_eq rfl, dropOff, bump_frame.cistern_eq rfl, freeChunks_mem, htaken.cistern_eq rfl]
      · rw [hF.wire_eq rfl, dropOff_frame.wire_eq rfl, htaken.wire_eq rfl]
      · show rd t _ = _
        rw [rd_congr (hF.regs_eq rfl), dropOff, rd_bump_same, rd_freeChunks, rd_taken hv]
    by_cases hfull : x.descs = [] ∧ x.unread = 0
    · rw [turn_full hv hc hi ho hfull.1 hfull.2] at hF
      refine ⟨t, ht, ?_, hqueues, ?_, nofun, fun _ _ _ => ⟨?_, ?_⟩, fun _ h => absurd hfull (not_full_of h)⟩
      · rw [ring_congr (hF.rings_eq rfl), ring_congr (dropFull_frame.rings_eq rfl), hring]
      · rw [hF.cistern_eq rfl, dropFull, bump_frame.cistern_eq rfl, freeChunks_mem, htaken.cistern_eq rfl]
      · rw [hF.wire_eq rfl, dropFull_frame.wire_eq rfl, htaken.wire_eq rfl]
      · show rd t _ = _
        rw [rd_congr (hF.regs_eq rfl), dropFull, rd_bump_same, rd_freeChunks, rd_taken hv]
    · rw [turn_begins hv hc hi ho (not_and_or.1 hfull)] at hF
      obtain ⟨good, hcur, hgood, hmem⟩ := beginRx_frame_item (u := u) (htaken.cistern_eq rfl) (htaken.res_eq rfl) f
      have hbegan := beginRx_frame (i := .frame f) (u := u) (s := itemTaken r rest v)
      have hwent := fillRx_wentOn ((ring_congr (hbegan.rings_eq rfl) ..).trans hring) hF
      rw [hcur] at hwent
      refine ⟨t, ht, hwent.inbox, hqueues, hwent.mem.trans hmem, nofun, fun _ h h' => absurd ⟨h, h'⟩ hfull, fun _ _ => ⟨good, hgood, ?_⟩⟩
      exact hwent.outcome ((hbegan.wire_eq rfl).trans (htaken.wire_eq rfl)) ((hbegan.host_eq rfl).trans (htaken.host_eq rfl)) hmem nofun
  · intro x
    obtain ⟨t, v, ht, hv, hF⟩ := receive_turn (r := r) (u := u) hr hb
    have hqueues := turn_queues hv hF
    have hring := taken_ring (r := r) (rest := rest) hv
    have htaken := taken_frame (r := r) (rest := rest) hv
    cases ho : ringOpen s r
    case false =>
      rw [turn_closed hv hc hi ho] at hF
      have hoff : R.RING_CNT_OFF 1 r ≠ R.LINE_CNT_HEM_DROP := by unfold R.RING_CNT_OFF R.LINE_CNT_HEM_DROP; omega
      refine ⟨t, ht, ?_, hqueues, ?_, fun _ => ⟨?_, ?_, ?_⟩, nofun, nofun⟩
      · rw [ring_congr (hF.rings_eq rfl), ring_congr (dropOff_frame.rings_eq rfl), hring]
      · rw [hF.cistern_eq rfl, dropOff, hemDrop_frame.cistern_eq rfl, bump_frame.cistern_eq rfl, htaken.cistern_eq rfl]
      · rw [hF.wire_eq rfl, dropOff_frame.wire_eq rfl, htaken.wire_eq rfl]
      · show rd t _ = _
        rw [rd_congr (hF.regs_eq rfl), dropOff, rd_hemDrop_ne _ _ hoff, rd_bump_same, rd_taken hv]
      · show rd t _ = _
        rw [rd_congr (hF.regs_eq rfl), dropOff, rd_hemDrop, rd_bump_ne _ hoff.symm, rd_taken hv]
    by_cases hfull : x.descs = [] ∧ x.unread = 0
    · rw [turn_full hv hc hi ho hfull.1 hfull.2] at hF
      refine ⟨t, ht, ?_, hqueues, ?_, nofun, fun _ _ _ => ⟨?_, ?_⟩, fun _ h => absurd hfull (not_full_of h)⟩
      · rw [ring_congr (hF.rings_eq rfl), ring_congr (dropFull_frame.rings_eq rfl), hring]
      · rw [hF.cistern_eq rfl, dropFull, hemDrop_frame.cistern_eq rfl, htaken.cistern_eq rfl]
      · rw [hF.wire_eq rfl, dropFull_frame.wire_eq rfl, htaken.wire_eq rfl]
      · show rd t _ = _
        rw [rd_congr (hF.regs_eq rfl), dropFull, rd_hemDrop, rd_taken hv]
    · rw [turn_begins hv hc hi ho (not_and_or.1 hfull)] at hF
      have hwent := fillRx_wentOn (c := { item := .hem b at_ n copied, bytes := b, good := true }) hring hF
      refine ⟨t, ht, hwent.inbox, hqueues, (hwent.hem b at_ n copied rfl).trans (htaken.cistern_eq rfl), nofun,
        fun _ h h' => absurd ⟨h, h'⟩ hfull, fun _ _ => ?_⟩
      exact hwent.outcome (htaken.wire_eq rfl) (htaken.host_eq rfl) (by rw [htaken.cistern_eq rfl]) fun _ _ _ _ _ => rd_taken hv _
  · obtain ⟨t, v, ht, hv, hF⟩ := receive_turn (r := r) (u := u) hr hb
    have hring : ring v true r = { ring s true r with inbox := (ring s true r).inbox } := ring_congr (hv.rings_eq rfl) ..
    have hqueues := turn_queues hv hF
    rw [ringRxEff_goesOn (by rw [hring, hc]) ((hostUp_congr (hv.power_eq rfl) (hv.mode_eq rfl) (hv.host_eq rfl)).trans hu)] at hF
    have hwent := fillRx_wentOn hring hF
    exact ⟨t, ht, hwent.inbox, hqueues, hwent.outcome (hv.wire_eq rfl) (hv.host_eq rfl) (by rw [hv.cistern_eq rfl])
      fun _ _ _ _ _ => rd_congr (hv.regs_eq rfl) _⟩
  · obtain ⟨t, ht, hF⟩ := viaCore_frame hr (writeBackEff rx r)
    have hready : backReady s rx r = f.wait.isNone := by
      unfold backReady
      rw [hu, hd]
      rfl
    unfold writeBackEff at hF
    rw [hready] at hF
    refine ⟨t, ht, fun hshut => ?_, fun hw hb => ?_⟩
    · refine Frame.intcOnly ?_
      rcases hshut with h | h
      · rwa [if_neg (by rw [Option.isNone_iff_eq_none]; exact Option.isSome_iff_ne_none.1 h)] at hF
      · rw [onLink_barred h, ite_self] at hF
        exact hF
    · have hv : Frame [.turns] s (linked 1 s) := linked_frame
      have hring : ring (linked 1 s) rx r = ring s rx r := ring_congr (hv.rings_eq rfl) ..
      have hregs (a : Nat) : rd (linked 1 s) a = rd s a := rd_congr (hv.regs_eq rfl) a
      rw [if_pos (Option.isNone_iff_eq_none.2 hw), onLink_open hb, writeBack1_eq ((congrArg Ring.done hring).trans hd)] at hF
      have hwt : Frame [.regs, .intc] (writtenBack rx r f rest (linked 1 s)) t := (eventIfAsked_frame.weaken rfl).trans (hF.weaken rfl)
      have hst : Frame [.rings, .regs, .wire, .intc, .turns] s t :=
        ((hv.weaken rfl).trans (writtenBack_frame.weaken rfl)).trans (hwt.weaken rfl)
      have hwire : t.wire = (writeFrame f s).wire := by
        rw [hwt.wire_eq rfl, writtenBack, setRing_wire, countDone_frame.wire_eq rfl]
        exact (SameLink.writeFrame f ⟨hv.wire_eq rfl, hv.host_eq rfl⟩).1
      have hcount {a : Nat} (ha : a ≠ R.RING_EVENT (b2n rx) r)
          (h : rd (writtenBack rx r f rest (linked 1 s)) a = sat32 ((rd (linked 1 s) a).toNat + 1)) : more s t a 1 := by
        show rd t a = _
        rw [rd_congr (hF.regs_eq rfl), rd_eventIfAsked_ne _ ha, h, hregs]
      refine ⟨?_, hst.eq_of fun f => by cases f <;> rfl, hwire, fun d ds hf ha => ?_, fun h => ?_, fun h => ?_, fun hrx h => ?_, fun hrx h => ?_⟩
      · rw [ring_congr (hwt.rings_eq rfl), writtenBack, ring_setRing_same, hring]
      · exact ⟨sevens f ds, length_sevens f ds, fun i hi => getElem?_sevens f ds i hi, hwire.trans (writeFrame_wire hf s ha)⟩
      · rw [rbit_congr (hF.regs_eq rfl)]
        exact rbit_eventIfAsked _ (h.imp_left fun h => (rbit_of_rd (hregs _)).trans h)
      · exact hcount (by unfold R.RING_CNT_FRAMES R.RING_EVENT; omega) (rd_writtenBack_good h)
      · subst hrx
        exact hcount (by show R.RING_CNT_ABANDON 1 r ≠ R.RING_EVENT 1 r; unfold R.RING_CNT_ABANDON R.RING_EVENT; omega)
          (rd_writtenBack_abandoned h)
      · subst hrx
        exact hcount (by show R.RING_CNT_BAD 0 r ≠ R.RING_EVENT 0 r; unfold R.RING_CNT_BAD R.RING_EVENT; omega) (rd_writtenBack_bad h)
end

section
/-!
Block DMA (10 R547-R560): what a start leaves, how a beat's turn begins, what its read answers, and what its bytes do.
-/
namespace Sys2Proof.Machine

/-! ### Registers of the host unit's engines

Those of the scan engines and of block DMA, their fault records included, lie below 0x300000. -/

theorem rd_noteInflight_low (s : State) {a : Nat} (h : a < 0x300000) : rd (noteInflight s) a = rd s a :=
  rd_noteInflight_ne s (by unfold R.RING_INFLIGHT_PEAK; omega)

theorem rd_access_low (s : State) (x : Access) {a : Nat} (h : a < 0x300000) : rd (access s x) a = rd s a :=
  rd_access_out s x (Or.inl (by unfold R.PERF_EVENT; omega))

theorem rd_upset_low (s : State) (u : Upset) {a : Nat} (h : a < 0x300000) : rd (upset s u) a = rd s a := by
  have hne : a ≠ R.BUFFER_CIS_ECC_CORR := by unfold R.BUFFER_CIS_ECC_CORR; omega
  unfold upset
  rw [rd_bumpBy_ne _ _ hne]
  exact rd_congr rfl a

theorem rd_cisEcc_low (s : State) (g : Nat) {a : Nat} (h : a < 0x300000) : rd (cisEcc s g) a = rd s a := by
  have hb : Block.buffer.base = 0xA00F00 := rfl
  have hne : a ≠ R.BUFFER_CIS_ECC_UNCORR := by unfold R.BUFFER_CIS_ECC_UNCORR; omega
  rw [cisEcc, rd_fault_out _ _ _ _ _ (Or.inl (by omega)), rd_bump_ne _ hne]

theorem rd_cisRead_low (s : State) (acc : Access) (k n : Nat) {a : Nat} (h : a < 0x300000) : rd (cisRead s acc k n).1 a = rd s a := by
  unfold cisRead
  dsimp only
  split
  · exact (rd_cisEcc_low _ _ h).trans (rd_access_low _ _ h)
  · exact rd_access_low _ _ h

/-! ### Who may take an operation (10 R545) -/

theorem barred_granted_other {a b : Arbiter} (hne : b ≠ a) (i n : Nat) (l : List Nat) (s : State) (w : Nat → Bool) :
    barred (granted a i l s) b n w = barred s b n w := by
  have hnew : ((l.filter (· != i)).map fun j => (⟨a, i, j⟩ : Turn)).any (fun x => x.at_ == b && x.winner == n && w x.loser) = false := by
    rw [List.any_eq_false]
    intro x hx
    obtain ⟨j, _, rfl⟩ := List.mem_map.1 hx
    simp [hne.symm]
  unfold barred granted
  rw [List.any_append, hnew, Bool.or_false, List.any_filter]
  congr 1
  funext x
  by_cases hx : x.at_ = b
  · simp [hx, hne]
  · simp [hx]

theorem barred_takeBanks {b : Arbiter} (hne : ∀ n, b ≠ .bank n) (waits : Nat → Nat → Bool) (i n : Nat) (l : List Nat) (s : State) (w : Nat → Bool) :
    barred (takeBanks waits i l s) b n w = barred s b n w := by
  have hfold (u : State) : barred (l.foldl (fun s1 n => granted (.bank n) i ((List.range 76).filter (waits n)) s1) u) b n w = barred u b n w := by
    induction l generalizing u with
    | nil => rfl
    | cons m l ih => rw [List.foldl_cons, ih, barred_granted_other (hne m)]
  unfold takeBanks
  dsimp only
  rw [hfold]
  unfold barred
  rw [List.any_filter]
  congr 1
  funext x
  by_cases hx : x.at_ = b
  · subst hx
    split
    next m hm => exact absurd hm (hne m)
    next => rfl
  · simp [hx]

/-- States that agree in what the arbiter of operations sees. -/
structure SameOps (s t : State) : Prop where
  rings : t.rings = s.rings
  dmas : t.dmas = s.dmas
  mode : t.mode = s.mode
  msgs : t.msgs = s.msgs
  up : hostUp t = hostUp s
  hem : rd t R.LINE_HEM_CTL = rd s R.LINE_HEM_CTL
  tid : rd t R.LINE_TID = rd s R.LINE_TID
  turns : ∀ n w, barred t .ops n w = barred s .ops n w

theorem SameOps.opsWaits {s t : State} (h : SameOps s t) : opsWaits t = opsWaits s := by
  obtain ⟨hrings, hdmas, hmode, hmsgs, hup, hhem, htid, _⟩ := h
  funext n
  unfold Machine.opsWaits fetchAsks beginAsks isTmRing tmWaits ownId ring dma rbit rfld
  rw [hrings, hdmas, hmode, hmsgs, hup, hhem, htid]

theorem SameOps.opsOpen {s t : State} (h : SameOps s t) (n : Nat) : opsOpen t n = opsOpen s n := by
  unfold Machine.opsOpen inflight
  rw [h.rings, h.dmas, h.opsWaits, h.turns]

/-! ### A beat's turn begins (10 R545, R556) -/

theorem dma_congr {s t : State} (h : t.dmas = s.dmas) (c : Nat) : dma t c = dma s c := by
  unfold dma; rw [h]

theorem Dma.with_begun {x : Dma} {b : Bool} (h : x.begun = b) : { x with begun := b } = x := by
  subst h; rfl

theorem dmaBegin_dma (c : Nat) (s : State) : dma (dmaBegin c s) c = { dma s c with begun := (dma s c).begun || opsOpen s (512 + c) } := by
  unfold dmaBegin
  cases hb : (dma s c).begun
  · cases ho : opsOpen s (512 + c)
    · exact (Dma.with_begun hb).symm
    · show dma (noteInflight _) c = _
      rw [dma_congr (noteInflight_frame.dmas_eq rfl), dma_setDma_same]
      rfl
  · exact (Dma.with_begun hb).symm

theorem dmaBegin_others (c : Nat) (s : State) {j : Nat} (h : j ≠ c) : dma (dmaBegin c s) j = dma s j := by
  unfold dmaBegin
  split
  · rw [dma_congr (noteInflight_frame.dmas_eq rfl), dma_setDma_ne _ _ _ h, dma_congr (opsTake_frame.dmas_eq rfl)]
  · rfl

theorem rd_dmaBegin_low (c : Nat) (s : State) {a : Nat} (h : a < 0x300000) : rd (dmaBegin c s) a = rd s a := by
  unfold dmaBegin
  split
  · rw [rd_noteInflight_low _ h, rd_congr (setDma_frame.regs_eq rfl), rd_congr (opsTake_frame.regs_eq rfl)]
  · rfl

theorem mem_turns_dmaBegin {b : Arbiter} {w j c : Nat} {s : State} (h : (⟨b, w, j⟩ : Turn) ∈ s.turns) (hne : b ≠ .ops) :
    (⟨b, w, j⟩ : Turn) ∈ (dmaBegin c s).turns := by
  unfold dmaBegin
  split
  · rw [noteInflight_frame.turns_eq rfl, setDma_frame.turns_eq rfl]
    exact mem_turns_opsTake h hne
  · exact h

theorem mem_turns_takeBanks {b : Arbiter} {w j : Nat} {waits : Nat → Nat → Bool} {i : Nat} {l : List Nat} {s : State}
    (h : (⟨b, w, j⟩ : Turn) ∈ s.turns) (hne : ∀ n, b ≠ .bank n) : (⟨b, w, j⟩ : Turn) ∈ (takeBanks waits i l s).turns := by
  unfold takeBanks
  dsimp only
  have hfold (u : State) (hu : (⟨b, w, j⟩ : Turn) ∈ u.turns) :
      (⟨b, w, j⟩ : Turn) ∈ (l.foldl (fun s1 n => granted (.bank n) i ((List.range 76).filter (waits n)) s1) u).turns := by
    induction l generalizing u with
    | nil => exact hu
    | cons m l ih => exact ih _ (mem_turns_granted_other hu (hne m))
  refine hfold _ (List.mem_filter.2 ⟨h, ?_⟩)
  cases b with
  | bank n => exact absurd rfl (hne n)
  | _ => rfl

/-- The channel's turn has begun: the link, the turn among the channels, the banks, and an operation. -/
def beatTurn (c : Nat) (s : State) : State :=
  dmaBegin c (passTurn c (takeBanks (bankWaits (linked 0 s)) (8 + c) (dmaBanks (linked 0 s) c) (linked 0 s)))

/-- What has changed when a beat's read has been put out: `l` has gone to the wire. -/
structure BeatOut (s u : State) (c : Nat) (l : List Output) : Prop where
  frame : Frame [.wire, .host, .turns, .dmas, .regs] s u
  low : ∀ a, a < 0x300000 → rd u a = rd s a
  atDma : dma u c = { dma s c with begun := true }
  turn : u.host.dmaTurn = c
  turns : ∀ j, j < 6 → j ≠ 0 → linkWaits s j = true → (⟨.link, 0, j⟩ : Turn) ∈ u.turns
  ctl : u.host.cfg.ctl = s.host.cfg.ctl
  wire : u.wire = s.wire ++ l

section
variable {s : State} {c : Nat}

/-- Before the channel takes its operation nothing that the arbiter of operations sees has changed. -/
theorem sameOps_turn : SameOps s (passTurn c (takeBanks (bankWaits (linked 0 s)) (8 + c) (dmaBanks (linked 0 s) c) (linked 0 s))) := by
  have hF : Frame [.turns, .host] s (passTurn c (takeBanks (bankWaits (linked 0 s)) (8 + c) (dmaBanks (linked 0 s) c) (linked 0 s))) :=
    ((linked_frame.weaken rfl).trans (takeBanks_frame.weaken rfl)).trans (passTurn_frame.weaken rfl)
  have hT : Frame [.turns] s (takeBanks (bankWaits (linked 0 s)) (8 + c) (dmaBanks (linked 0 s) c) (linked 0 s)) :=
    linked_frame.trans takeBanks_frame
  refine ⟨hF.rings_eq rfl, hF.dmas_eq rfl, hF.mode_eq rfl, hF.msgs_eq rfl, ?_, rd_congr (hF.regs_eq rfl) _, rd_congr (hF.regs_eq rfl) _, fun n w => ?_⟩
  · exact Eq.trans (by rfl) (hostUp_congr (hT.power_eq rfl) (hT.mode_eq rfl) (hT.host_eq rfl))
  · exact (barred_takeBanks (b := .ops) nofun _ _ _ _ _ w).trans (barred_granted_other (by decide) _ _ _ _ w)

theorem beatTurn_out (h : dmaReady s c = true) : BeatOut s (beatTurn c s) c [] := by
  have hT : Frame [.turns] s (takeBanks (bankWaits (linked 0 s)) (8 + c) (dmaBanks (linked 0 s) c) (linked 0 s)) :=
    linked_frame.trans takeBanks_frame
  have hP : Frame [.turns, .host] s (passTurn c (takeBanks (bankWaits (linked 0 s)) (8 + c) (dmaBanks (linked 0 s) c) (linked 0 s))) :=
    (hT.weaken rfl).trans (passTurn_frame.weaken rfl)
  have hbegun : ((dma s c).begun || opsOpen s (512 + c)) = true := by
    unfold dmaReady at h
    exact (Bool.and_eq_true_iff.1 h).2
  have hhost : (beatTurn c s).host = { s.host with dmaTurn := c } := by
    rw [beatTurn, dmaBegin_frame.host_eq rfl, ← hT.host_eq rfl]
    rfl
  refine ⟨(hP.weaken rfl).trans (dmaBegin_frame.weaken rfl), fun a ha => ?_, ?_, by rw [hhost], fun j hj hne hw => ?_, by rw [hhost], ?_⟩
  · exact (rd_dmaBegin_low _ _ ha).trans (rd_congr (hP.regs_eq rfl) a)
  · rw [beatTurn, dmaBegin_dma, sameOps_turn.opsOpen, dma_congr (hP.dmas_eq rfl), hbegun]
  · exact mem_turns_dmaBegin (mem_turns_takeBanks (linked_loses s hj hne hw) nofun) (by decide)
  · rw [beatTurn, dmaBegin_frame.wire_eq rfl, hP.wire_eq rfl, List.append_nil]

end

/-! ### The settings of a channel -/

/-- `v` has the channel's registers as `s` has them, COUNT aside. -/
def SameChannel (s v : State) (c : Nat) : Prop := ∀ a, a < 0x300000 → a ≠ R.DMA_COUNT c → rd v a = rd s a

section
variable {s v : State} {c : Nat}

theorem SameChannel.trans {u : State} (h : SameChannel s v c) (h' : ∀ a, a < 0x300000 → rd u a = rd v a) : SameChannel s u c :=
  fun a ha hne => (h' a ha).trans (h a ha hne)

theorem SameChannel.counted (h : ∀ a, a < 0x300000 → rd v a = rd s a) (w : Word) : SameChannel s (wr v (R.DMA_COUNT c) w) c :=
  fun a ha hne => (rd_wr_ne _ _ hne).trans (h a ha)

variable (h : SameChannel s v c) (hc : c < 64)
include h hc

theorem SameChannel.ctl : rd v (R.DMA_CTL c) = rd s (R.DMA_CTL c) :=
  h _ (by unfold R.DMA_CTL; omega) (by unfold R.DMA_CTL R.DMA_COUNT; omega)

theorem SameChannel.src : rd64 v (R.DMA_SRC c) = rd64 s (R.DMA_SRC c) :=
  rd64_of_rd (h _ (by unfold R.DMA_SRC; omega) (by unfold R.DMA_SRC R.DMA_COUNT; omega))
    (h _ (by unfold R.DMA_SRC; omega) (by unfold R.DMA_SRC R.DMA_COUNT; omega))

theorem SameChannel.dst : rd64 v (R.DMA_DST c) = rd64 s (R.DMA_DST c) :=
  rd64_of_rd (h _ (by unfold R.DMA_DST; omega) (by unfold R.DMA_DST R.DMA_COUNT; omega))
    (h _ (by unfold R.DMA_DST; omega) (by unfold R.DMA_DST R.DMA_COUNT; omega))

theorem SameChannel.srcCis : dmaSrcCis v c = dmaSrcCis s c := rbit_of_rd (h.ctl hc)

theorem SameChannel.dstCis : dmaDstCis v c = dmaDstCis s c := rbit_of_rd (h.ctl hc)

theorem SameChannel.swap : dmaSwap v c = dmaSwap s c := by
  unfold dmaSwap rfld; rw [h.ctl hc]

theorem SameChannel.overlap (ht : (dma v c).total = (dma s c).total) : dmaOverlap v c = dmaOverlap s c := by
  unfold dmaOverlap; rw [h.src hc, h.dst hc, h.srcCis hc, h.dstCis hc, ht]

end

section
variable {s u : State} {c : Nat} {l : List Output}

theorem BeatOut.beatAt (h : BeatOut s u c l) (hc : c < 64) : beatAt u c = beatAt s c := by
  have hs : SameChannel s u c := fun a ha _ => h.low a ha
  unfold Machine.beatAt
  rw [hs.src hc, h.atDma]

theorem BeatOut.beatLen (h : BeatOut s u c l) (hc : c < 64) : beatLen u c = beatLen s c := by
  unfold Machine.beatLen
  rw [h.beatAt hc, h.atDma]

/-- The read of a beat goes out in one request, as it ends at or before a multiple of 64. -/
theorem BeatOut.hostRd (h : BeatOut s u c []) (hc : c < 64) (hn : 0 < Machine.beatLen s c) :
    BeatOut s (hostRd u (BitVec.ofNat 64 (Machine.beatAt u c)) (Machine.beatLen u c)) c
      [.hostRead 0 (BitVec.ofNat 64 (Machine.beatAt s c)) (Machine.beatLen s c)] := by
  have hle : Machine.beatLen s c ≤ 64 - (BitVec.ofNat 64 (Machine.beatAt s c)).toNat % 64 := by
    rw [BitVec.toNat_ofNat, Nat.mod_mod_of_dvd _ (by decide)]
    exact Nat.min_le_left _ _
  refine ⟨h.frame.trans (hostRd_frame.weaken rfl), fun a ha => (rd_congr (hostRd_frame.regs_eq rfl) a).trans (h.low a ha),
    (dma_congr (hostRd_frame.dmas_eq rfl) c).trans h.atDma, ?_, fun j hj hne hw => ?_, ?_, ?_⟩
  · rw [hostRd_frame.host_eq rfl, h.turn]
  · rw [hostRd_frame.turns_eq rfl]
    exact h.turns j hj hne hw
  · rw [hostRd_frame.host_eq rfl, h.ctl]
  · rw [h.beatAt hc, h.beatLen hc, hostRd_one u (d := 64) (by decide) hn hle, h.wire, List.append_nil]

theorem BeatOut.noteError (h : BeatOut s u c l) (i : Nat) : BeatOut s (noteError u i) c l :=
  ⟨h.frame.trans (noteError_frame.weaken rfl), fun a ha => (rd_congr (noteError_frame.regs_eq rfl) a).trans (h.low a ha),
    (dma_congr (noteError_frame.dmas_eq rfl) c).trans h.atDma, h.turn, h.turns, h.ctl, h.wire⟩

end

/-! ### What a read answers (10 R553, R560, 08 R443) -/

theorem mem_setIns {n k : Nat} {l : List Nat} : k ∈ setIns n l ↔ k = n ∨ k ∈ l := by
  induction l with
  | nil => simp [setIns]
  | cons m l ih =>
    unfold setIns
    split
    · simp
    · split
      next h => subst h; simp
      next => rw [List.mem_cons, ih, List.mem_cons]; tauto

/-- A read of the cistern meets an uncorrectable word, or brings one. -/
def beatPoisoned (r : Reply) (a n : Nat) (s : State) : Prop := (∃ b, r = .poisoned b) ∨ ∃ w ∈ wordsOf a n, w ∈ s.cistern.poison

/-- The words that a reply makes uncorrectable before a read at `a`. -/
def poisonedBy (r : Reply) (a : Nat) : List Nat :=
  match r with
  | .poisoned _ => [a / 8]
  | _ => []

theorem mem_wordsOf_first {a n : Nat} (hn : 0 < n) : a / 8 ∈ wordsOf a n := by
  unfold wordsOf
  rw [if_neg (by omega)]
  exact List.mem_map.2 ⟨0, List.mem_range.2 (by omega), rfl⟩

theorem upset_poisonedBy (r : Reply) (a n : Nat) (corr : Nat) (s : State) (hn : 0 < n) :
    (∃ w ∈ wordsOf a n, w ∈ (upset s { bad := poisonedBy r a, corr := corr }).cistern.poison) ↔ beatPoisoned r a n s := by
  have hcis : (upset s { bad := poisonedBy r a, corr := corr }).cistern.poison =
      (poisonedBy r a).foldl (fun l w => setIns w l) s.cistern.poison := by
    unfold upset
    rw [bumpBy_frame.cistern_eq rfl]
  rw [hcis]
  unfold beatPoisoned
  cases r with
  | poisoned b =>
    refine iff_of_true ⟨a / 8, mem_wordsOf_first hn, mem_setIns.2 (Or.inl rfl)⟩ (Or.inl ⟨b, rfl⟩)
  | _ => simp [poisonedBy]

section
variable {u : State} {c a n : Nat} {r : Reply} (corr : Nat)

/-- How block DMA counts its reads of the cistern. -/
def dmaAccess (c : Nat) : Access := { addr := 0, bytes := 0, master := 2, id := c, priv := true }

/-- The cistern after a beat has been read from it. -/
def beatRead (c a n : Nat) (r : Reply) (corr : Nat) (u : State) : State :=
  (cisRead (upset u { bad := poisonedBy r a, corr := corr }) (dmaAccess c) a n).1

theorem beatRead_frame : Frame [.intc, .cistern, .regs] u (beatRead c a n r corr u) := cisRead_frame.andThen (by decide) (upset_frame.weaken (by decide))

theorem beatRead_mem : (beatRead c a n r corr u).cistern.mem = u.cistern.mem := by
  rw [beatRead, cisRead_frame.cistern_eq rfl, upset_mem]

theorem rd_beatRead_low {k : Nat} (h : k < 0x300000) : rd (beatRead c a n r corr u) k = rd u k :=
  (rd_cisRead_low _ _ _ _ h).trans (rd_upset_low _ _ h)

theorem cisBytes_congr {s t : State} (h : t.cistern.mem = s.cistern.mem) (a n : Nat) : cisBytes t a n = cisBytes s a n := by
  unfold cisBytes cisByte; rw [h]

theorem dmaRead_cistern (hc : dmaSrcCis u c = true) :
    dmaRead c a n r corr u = some
      (if (cisRead (upset u { bad := poisonedBy r a, corr := corr }) (dmaAccess c) a n).2 then .ok (cisBytes (beatRead c a n r corr u) a n)
        else .error 4, beatRead c a n r corr u) := by
  unfold dmaRead
  rw [if_pos hc]
  rfl

theorem dmaRead_cistern_good (hc : dmaSrcCis u c = true) (hn : 0 < n) (hp : ¬beatPoisoned r a n u) :
    dmaRead c a n r corr u = some (.ok (cisBytes u a n), beatRead c a n r corr u) := by
  rw [dmaRead_cistern corr hc, if_pos ((cisRead_good _ _ _ _).2 (mt (upset_poisonedBy r a n corr u hn).1 hp)),
    cisBytes_congr (beatRead_mem corr)]

theorem dmaRead_cistern_bad (hc : dmaSrcCis u c = true) (hn : 0 < n) (hp : beatPoisoned r a n u) :
    dmaRead c a n r corr u = some (.error 4, beatRead c a n r corr u) := by
  rw [dmaRead_cistern corr hc, if_neg (mt (cisRead_good _ _ _ _).1 (not_not.2 ((upset_poisonedBy r a n corr u hn).2 hp)))]

theorem dmaRead_host_good (hc : dmaSrcCis u c = false) {b : Bytes} (hb : b.length = n) :
    dmaRead c a n (.ok b) corr u = some (.ok b, u) := by
  unfold dmaRead
  rw [if_neg (by rw [hc]; decide)]
  exact if_pos hb

end

/-! ### What is written (10 R555) -/

section
variable {v : State} {c off : Nat} {b : Bytes}

/-- Where bytes at an offset of the destination go. -/
def dstAt (v : State) (c off : Nat) : DWord := rd64 v (R.DMA_DST c) + BitVec.ofNat 64 off

/-- The bytes that are written: open ones where the ranges overlap. -/
def landed (v : State) (c : Nat) (b : Bytes) : Bytes × State :=
  if dmaOverlap v c then ((List.range b.length).map (Config.freeByte v.free), draw1 v) else (b, v)

/-- How block DMA counts a write to the cistern. -/
def dmaLandAccess (c : Nat) (a : DWord) (n : Nat) : Access := { addr := a.toNat, bytes := n, write := true, master := 2, id := c, priv := true }

theorem landed_frame : Frame [.free] v (landed v c b).2 := by
  unfold landed
  split
  · exact draw1_frame
  · exact Frame.refl

theorem length_landed : (landed v c b).1.length = b.length := by
  unfold landed
  split
  · simp
  · rfl

theorem landed_of_apart (h : dmaOverlap v c = false) : landed v c b = (b, v) := if_neg (by rw [h]; decide)

theorem dmaWrite_cistern (hb : b ≠ []) (hd : dmaDstCis v c = true) :
    dmaWrite c off b v =
      cisWrite (access (landed v c b).2 (dmaLandAccess c (dstAt v c off) b.length)) (dstAt v c off).toNat (landed v c b).1 := by
  unfold dmaWrite
  rw [if_neg (by rwa [List.isEmpty_iff])]
  exact if_pos hd

theorem dmaWrite_host (hb : b ≠ []) (hd : dmaDstCis v c = false) :
    dmaWrite c off b v = hostWr (landed v c b).2 (dstAt v c off) (landed v c b).1 := by
  unfold dmaWrite
  rw [if_neg (by rwa [List.isEmpty_iff])]
  exact if_neg (by rw [hd]; decide)

theorem rd_dmaWrite_low {a : Nat} (h : a < 0x300000) : rd (dmaWrite c off b v) a = rd v a := by
  by_cases hb : b = []
  · subst hb; rfl
  · cases hd : dmaDstCis v c
    · rw [dmaWrite_host hb hd, rd_congr (hostWr_frame.regs_eq rfl), rd_congr (landed_frame.regs_eq rfl)]
    · rw [dmaWrite_cistern hb hd, rd_congr (cisWrite_frame.regs_eq rfl), rd_access_low _ _ h, rd_congr (landed_frame.regs_eq rfl)]

/-- Bytes outside those written stay. -/
theorem cisByte_dmaWrite_out (hd : dmaDstCis v c = true) {a : Nat} (h : a < (dstAt v c off).toNat ∨ (dstAt v c off).toNat + b.length ≤ a) :
    cisByte (dmaWrite c off b v) a = cisByte v a := by
  by_cases hb : b = []
  · subst hb; rfl
  · rw [dmaWrite_cistern hb hd, cisByte_cisWrite, length_landed, if_neg (by omega), cisByte_congr (congrArg Cistern.mem (access_frame.cistern_eq rfl)),
      cisByte_congr (congrArg Cistern.mem (landed_frame.cistern_eq rfl))]

/-- Bytes written to the cistern read as written. -/
theorem cisBytes_cisWrite (s : State) (a : Nat) (b : Bytes) : cisBytes (cisWrite s a b) a b.length = b := by
  unfold cisBytes
  refine List.ext_getElem (by simp) fun i h1 h2 => ?_
  rw [List.getElem_map, List.getElem_range, cisByte_cisWrite, if_pos ⟨by omega, by omega⟩, Nat.add_sub_cancel_left]
  exact List.getD_eq_getElem _ _ h2

theorem cisBytes_dmaWrite (hd : dmaDstCis v c = true) (ho : dmaOverlap v c = false) :
    cisBytes (dmaWrite c off b v) (dstAt v c off).toNat b.length = b := by
  by_cases hb : b = []
  · subst hb; rfl
  · rw [dmaWrite_cistern hb hd, landed_of_apart ho]
    exact cisBytes_cisWrite _ _ _

theorem dmaWrite_mem (hd : dmaDstCis v c = false) : (dmaWrite c off b v).cistern.mem = v.cistern.mem := by
  by_cases hb : b = []
  · subst hb; rfl
  · rw [dmaWrite_host hb hd, hostWr_frame.cistern_eq rfl, landed_frame.cistern_eq rfl]

theorem hostWr_nil (s : State) (a : DWord) : (hostWr s a []).wire = s.wire := by
  rw [hostWr_wire]
  exact List.append_nil _

theorem dmaWrite_wire (hd : dmaDstCis v c = false) (ho : dmaOverlap v c = false) :
    (dmaWrite c off b v).wire = (hostWr v (dstAt v c off) b).wire := by
  by_cases hb : b = []
  · subst hb; rw [hostWr_nil]; rfl
  · rw [dmaWrite_host hb hd, landed_of_apart ho]

end

/-! ### The end of a transfer (10 R557, R558, R560) -/

section
variable (c : Nat) (code : Option Nat) (s : State)

/-- What STATE becomes at the end of a transfer. -/
def endState (st : Word) (code : Option Nat) : Word :=
  match code with
  | some k => (st &&& 0x40000000) ||| pack [(30, 1), (29, 1), (0, k)]
  | none => st ||| 0x40000000

theorem dmaEnd_dma : dma (dmaEnd c code s) c = {} := by
  unfold dmaEnd
  dsimp only
  rw [dma_congr (dmaRecord_frame.dmas_eq rfl), dma_congr (wr_frame.dmas_eq rfl), dma_setDma_same]

theorem dmaEnd_others {j : Nat} (h : j ≠ c) : dma (dmaEnd c code s) j = dma s j := by
  unfold dmaEnd
  dsimp only
  rw [dma_congr (dmaRecord_frame.dmas_eq rfl), dma_congr (wr_frame.dmas_eq rfl), dma_setDma_ne _ _ _ h]

theorem rd_dmaEnd_state : rd (dmaEnd c code s) (R.DMA_STATE c) = endState (rd s (R.DMA_STATE c)) code := by
  unfold dmaEnd
  dsimp only
  rw [rd_congr (dmaRecord_frame.regs_eq rfl), rd_wr_same]
  rfl

theorem rd_dmaEnd_ne {a : Nat} (h : a ≠ R.DMA_STATE c) : rd (dmaEnd c code s) a = rd s a := by
  unfold dmaEnd
  dsimp only
  rw [rd_congr (dmaRecord_frame.regs_eq rfl), rd_wr_ne _ _ h]
  exact rd_congr rfl a

theorem dmaRecord_wire : ∃ l, (dmaRecord c code s).wire = s.wire ++ l := by
  unfold dmaRecord
  split
  · dsimp only
    rw [hostWr_wire, hostWr_wire, List.append_assoc]
    exact ⟨_, rfl⟩
  · exact ⟨[], (List.append_nil _).symm⟩

theorem dmaEnd_eq : dmaEnd c code s = dmaRecord c code (wr (setDma s c {}) (R.DMA_STATE c) (endState (rd s (R.DMA_STATE c)) code)) := rfl

/-- The record of a transfer is appended to what the wire carries. -/
theorem dmaEnd_wire : ∃ l, (dmaEnd c code s).wire = s.wire ++ l := by
  obtain ⟨l, hl⟩ := dmaRecord_wire c code (wr (setDma s c {}) (R.DMA_STATE c) (endState (rd s (R.DMA_STATE c)) code))
  exact ⟨l, by rw [dmaEnd_eq, hl, wr_frame.wire_eq rfl, setDma_frame.wire_eq rfl]⟩

end

/-- The end of a failed transfer, but for what DONE already was. -/
theorem endState_some (st : Word) (k : Nat) : endState st (some k) = pack [(30, 1), (29, 1), (0, k)] := by
  have hpack : pack [(30, 1), (29, 1), (0, k)] = 0x40000000#32 ||| pack [(29, 1), (0, k)] := rfl
  have habsorb (x y m : Word) : (x &&& m) ||| (m ||| y) = m ||| y := by
    refine BitVec.eq_of_getLsbD_eq fun i _ => ?_
    simp only [BitVec.getLsbD_or, BitVec.getLsbD_and]
    cases x.getLsbD i <;> cases m.getLsbD i <;> rfl
  rw [hpack, ← habsorb st]
  rfl

theorem endState_failed (st : Word) {k : Nat} (hk : k < 6) :
    bit (endState st (some k)) 30 = true ∧ bit (endState st (some k)) 29 = true ∧ fld (endState st (some k)) 0 5 = k := by
  have h : ∀ k < 6, bit (pack [(30, 1), (29, 1), (0, k)]) 30 = true ∧ bit (pack [(30, 1), (29, 1), (0, k)]) 29 = true ∧
      fld (pack [(30, 1), (29, 1), (0, k)]) 0 5 = k := by decide
  rw [endState_some]
  exact h k hk

theorem endState_done (st : Word) : bit (endState st none) 30 = true := by
  have hone : bit (0x40000000 : Word) 30 = true := rfl
  unfold bit at *
  rw [endState, BitVec.getLsbD_or, hone, Bool.or_true]

/-! ### The bytes of a beat (10 R555) -/

/-- What has changed when a beat's answer is at hand: its read has been put out, and COUNT is `w`. -/
structure BeatIn (s v : State) (c : Nat) (l : List Output) (w : Word) : Prop where
  frame : Frame [.wire, .host, .turns, .dmas, .regs, .intc, .cistern] s v
  chan : SameChannel s v c
  count : rd v (R.DMA_COUNT c) = w
  atDma : dma v c = { dma s c with begun := true }
  turn : v.host.dmaTurn = c
  turns : ∀ j, j < 6 → j ≠ 0 → linkWaits s j = true → (⟨.link, 0, j⟩ : Turn) ∈ v.turns
  ctl : v.host.cfg.ctl = s.host.cfg.ctl
  wire : v.wire = s.wire ++ l
  mem : v.cistern.mem = s.cistern.mem

theorem BeatOut.read {s u v : State} {c : Nat} {l : List Output} (h : BeatOut s u c l) (hF : Frame [.intc, .cistern, .regs] u v)
    (hlow : ∀ a, a < 0x300000 → rd v a = rd u a) (hm : v.cistern.mem = u.cistern.mem) (w : Word) :
    BeatIn s (wr v (R.DMA_COUNT c) w) c l w := by
  have hV : Frame [.intc, .cistern, .regs] u (wr v (R.DMA_COUNT c) w) := hF.trans (wr_frame.weaken rfl)
  refine ⟨(h.frame.weaken rfl).trans (hV.weaken rfl), SameChannel.counted (fun a ha => (hlow a ha).trans (h.low a ha)) w, rd_wr_same _ _ _,
    (dma_congr (hV.dmas_eq rfl) c).trans h.atDma, ?_, fun j hj hne hw => ?_, ?_, (hV.wire_eq rfl).trans h.wire, ?_⟩
  · rw [hV.host_eq rfl, h.turn]
  · rw [hV.turns_eq rfl]
    exact h.turns j hj hne hw
  · rw [hV.host_eq rfl, h.ctl]
  · rw [wr_frame.cistern_eq rfl, hm, h.frame.cistern_eq rfl]

theorem hostWr_wire_ctl {s u : State} (hw : u.wire = s.wire) (hc : u.host.cfg.ctl = s.host.cfg.ctl) (a : DWord) (b : Bytes) :
    (hostWr u a b).wire = (hostWr s a b).wire := by
  have hsize : sizeField u 5 512 = sizeField s 5 512 := by unfold sizeField; rw [hc]
  rw [hostWr_wire, hostWr_wire, hw, hsize]

/-- The bytes that a beat of `n` bytes makes ready, and those that wait for the rest of their word. -/
def beatSwapped (s : State) (c n : Nat) (b : Bytes) : Bytes × Bytes :=
  swapped (dmaSwap s c) ((dma s c).off + n == (dma s c).total) ((dma s c).held ++ b)

/-- Where they go. -/
def beatDst (s : State) (c : Nat) : DWord := dstAt s c ((dma s c).off - (dma s c).held.length)

/-- They have been written. -/
def beatWritten (c n : Nat) (b : Bytes) (v : State) : State := dmaWrite c ((dma v c).off - (dma v c).held.length) (beatSwapped v c n b).1 v

section
variable {s v : State} {c n : Nat} {b : Bytes} {l : List Output} {w : Word}

theorem dmaLand_last (h : (dma v c).off + n = (dma v c).total) : dmaLand c n b v = dmaEnd c none (beatWritten c n b v) :=
  if_pos (beq_iff_eq.2 h)

theorem dmaLand_more (h : (dma v c).off + n ≠ (dma v c).total) :
    dmaLand c n b v =
      setDma (beatWritten c n b v) c { dma v c with off := (dma v c).off + n, held := (beatSwapped v c n b).2 } :=
  if_neg (mt beq_iff_eq.1 h)

variable (h : BeatIn s v c l w) (hc : c < 64)
include h hc

theorem BeatIn.beatSwapped : beatSwapped v c n b = Machine.beatSwapped s c n b := by
  unfold Machine.beatSwapped
  rw [h.chan.swap hc, h.atDma]

theorem BeatIn.overlap : dmaOverlap v c = dmaOverlap s c := h.chan.overlap hc (by rw [h.atDma])

theorem BeatIn.written : beatWritten c n b v = dmaWrite c ((dma s c).off - (dma s c).held.length) (Machine.beatSwapped s c n b).1 v := by
  rw [beatWritten, h.beatSwapped hc, h.atDma]

theorem BeatIn.dst : dstAt v c ((dma s c).off - (dma s c).held.length) = beatDst s c := by
  unfold beatDst dstAt
  rw [h.chan.dst hc]

/-- What the bytes of a beat leave, whether or not it is the last. -/
theorem BeatIn.land {t : State} (hF : Frame [.intc] (dmaLand c n b v) t) :
    t.host.dmaTurn = c ∧ (∀ j, j < 6 → j ≠ 0 → linkWaits s j = true → (⟨.link, 0, j⟩ : Turn) ∈ t.turns) ∧
      rd t (R.DMA_COUNT c) = w ∧
      ((dma s c).off + n ≠ (dma s c).total →
        dma t c = { dma s c with off := (dma s c).off + n, held := (Machine.beatSwapped s c n b).2, begun := true }) ∧
      ((dma s c).off + n = (dma s c).total → dma t c = {} ∧ rbit t (R.DMA_STATE c) 30 = true) ∧
      t.cistern = (beatWritten c n b v).cistern ∧
      ∃ l, t.wire = (beatWritten c n b v).wire ++ l ∧ ((dma s c).off + n ≠ (dma s c).total → l = []) := by
  have hne : R.DMA_COUNT c ≠ R.DMA_STATE c := by unfold R.DMA_COUNT R.DMA_STATE; omega
  have hcount : rd (beatWritten c n b v) (R.DMA_COUNT c) = w := by
    rw [beatWritten, rd_dmaWrite_low (by unfold R.DMA_COUNT; omega), h.count]
  have hx : (dma v c).off = (dma s c).off ∧ (dma v c).total = (dma s c).total := by rw [h.atDma]; exact ⟨rfl, rfl⟩
  have hturn : t.host.dmaTurn = c := by rw [hF.host_eq rfl, dmaLand_frame.host_eq rfl, h.turn]
  have hturns : t.turns = v.turns := (hF.turns_eq rfl).trans (dmaLand_frame.turns_eq rfl)
  refine ⟨hturn, fun j hj hne hw => by rw [hturns]; exact h.turns j hj hne hw, ?_⟩
  by_cases hlast : (dma s c).off + n = (dma s c).total
  · rw [dmaLand_last (by rw [hx.1, hx.2, hlast])] at hF
    obtain ⟨l, hl⟩ := dmaEnd_wire c none (beatWritten c n b v)
    refine ⟨?_, fun hn => absurd hlast hn, fun _ => ⟨?_, ?_⟩, ?_, l, (hF.wire_eq rfl).trans hl, fun hn => absurd hlast hn⟩
    · rw [rd_congr (hF.regs_eq rfl), rd_dmaEnd_ne _ _ _ hne, hcount]
    · rw [dma_congr (hF.dmas_eq rfl), dmaEnd_dma]
    · rw [rbit_congr (hF.regs_eq rfl)]
      unfold rbit
      rw [rd_dmaEnd_state]
      exact endState_done _
    · rw [hF.cistern_eq rfl, dmaEnd_frame.cistern_eq rfl]
  · rw [dmaLand_more (by rw [hx.1, hx.2]; exact hlast)] at hF
    refine ⟨?_, fun _ => ?_, fun hl => absurd hl hlast, ?_, [], ?_, fun _ => rfl⟩
    · rw [rd_congr (hF.regs_eq rfl), rd_congr (setDma_frame.regs_eq rfl), hcount]
    · rw [dma_congr (hF.dmas_eq rfl), dma_setDma_same, h.beatSwapped hc, h.atDma]
    · rw [hF.cistern_eq rfl, setDma_frame.cistern_eq rfl]
    · rw [hF.wire_eq rfl, setDma_frame.wire_eq rfl, List.append_nil]

end

/-! ### A beat that fails (10 R560) -/

section
variable {s v : State} {c : Nat} {l : List Output} {w : Word}

/-- A recorded fault stays recorded while the block's record stays. -/
theorem recorded_of_rd {u t : State} {b : Block} {code : Nat} (h0 : rd t b.base = rd u b.base) (h4 : rd t (b.base + 4) = rd u (b.base + 4))
    (hu : recorded s u b code) : recorded s t b code := by
  obtain ⟨hcode, hvalid, hcount⟩ := hu
  exact ⟨(rbit_of_rd h0).trans hcode, (rbit_of_rd h0).trans hvalid, h4.trans hcount⟩

theorem dmaFlush_none (h : (dma v c).held = []) : dmaFlush c v = v := by
  unfold dmaFlush
  dsimp only
  rw [h]
  rfl

theorem rd_dmaFlush_low {a : Nat} (ha : a < 0x300000) : rd (dmaFlush c v) a = rd v a := by
  unfold dmaFlush
  dsimp only
  split
  · rfl
  · exact (rd_dmaWrite_low ha).trans (rd_congr (draw1_frame.regs_eq rfl) a)

/-- A beat fails with a code: what was ready is written, and the transfer ends. -/
def beatFailed (c code off : Nat) (a : Nat) (v : State) : State :=
  dmaEnd c (some code) (fault (wr (dmaFlush c v) (R.DMA_ERR_OFFSET c) (BitVec.ofNat 32 off)) .dma code c (BitVec.ofNat 64 a))

theorem BeatIn.failed {t : State} {code off a : Nat} (h : BeatIn s v c l w) (hc : c < 64) (hk : code < 6)
    (hF : Frame [.intc] (beatFailed c code off a v) t) :
    dma t c = {} ∧ rbit t (R.DMA_STATE c) 30 = true ∧ rbit t (R.DMA_STATE c) 29 = true ∧ fld (rd t (R.DMA_STATE c)) 0 5 = code ∧
      rd t (R.DMA_ERR_OFFSET c) = BitVec.ofNat 32 off ∧ recorded s t .dma code ∧ ((dma s c).held = [] → t.cistern.mem = s.cistern.mem) := by
  have hb : Block.dma.base = 0x200F00 := rfl
  have hs0 : Block.dma.base ≠ R.DMA_STATE c := by rw [hb]; unfold R.DMA_STATE; omega
  have hs4 : Block.dma.base + 4 ≠ R.DMA_STATE c := by rw [hb]; unfold R.DMA_STATE; omega
  have ho4 : Block.dma.base + 4 ≠ R.DMA_ERR_OFFSET c := by rw [hb]; unfold R.DMA_ERR_OFFSET; omega
  have hos : R.DMA_ERR_OFFSET c ≠ R.DMA_STATE c := by unfold R.DMA_ERR_OFFSET R.DMA_STATE; omega
  have hout : Block.dma.base + 0x20 ≤ R.DMA_ERR_OFFSET c := by rw [hb]; unfold R.DMA_ERR_OFFSET; omega
  have hst : rd t (R.DMA_STATE c) = _ := (rd_congr (hF.regs_eq rfl) _).trans (rd_dmaEnd_state c (some code) _)
  obtain ⟨h30, h29, hcode⟩ := endState_failed (rd (fault (wr (dmaFlush c v) (R.DMA_ERR_OFFSET c) (BitVec.ofNat 32 off)) .dma code c
    (BitVec.ofNat 64 a)) (R.DMA_STATE c)) hk
  have hrd {k : Nat} (hne : k ≠ R.DMA_STATE c) := (rd_congr (hF.regs_eq rfl) k).trans (rd_dmaEnd_ne c (some code)
    (fault (wr (dmaFlush c v) (R.DMA_ERR_OFFSET c) (BitVec.ofNat 32 off)) .dma code c (BitVec.ofNat 64 a)) hne)
  refine ⟨?_, ?_, ?_, by rw [hst, hcode], ?_, ?_, fun hheld => ?_⟩
  · rw [dma_congr (hF.dmas_eq rfl), beatFailed, dmaEnd_dma]
  · unfold rbit; rw [hst, h30]
  · unfold rbit; rw [hst, h29]
  · rw [hrd hos, rd_fault_out _ _ _ _ _ (Or.inr hout), rd_wr_same]
  · refine recorded_of_rd (hrd hs0) (hrd hs4) (recorded_fault_after (by omega) ?_ rfl)
    rw [rd_wr_ne _ _ ho4, rd_dmaFlush_low (by rw [hb]; omega)]
    exact h.chan _ (by rw [hb]; omega) (by rw [hb]; unfold R.DMA_COUNT; omega)
  · rw [hF.cistern_eq rfl, beatFailed, dmaEnd_frame.cistern_eq rfl, fault_frame.cistern_eq rfl, wr_frame.cistern_eq rfl,
      dmaFlush_none (by rw [h.atDma]; exact hheld), h.mem]

end

section
variable {u s1 : State} {c : Nat} {r : Reply} {corr : Nat}

/-- COUNT after a beat. -/
def countLeft (u : State) (c : Nat) : Word := BitVec.ofNat 32 ((dma u c).total - (dma u c).off - beatLen u c)

theorem dmaBeat1_ok {b : Bytes} (h : dmaRead c (beatAt u c) (beatLen u c) r corr u = some (.ok b, s1)) :
    dmaBeat1 c r corr u = dmaLand c (beatLen u c) b (wr s1 (R.DMA_COUNT c) (countLeft u c)) := by
  unfold dmaBeat1
  dsimp only
  rw [h]
  rfl

theorem dmaBeat1_failed {code : Nat} (h : dmaRead c (beatAt u c) (beatLen u c) r corr u = some (.error code, s1)) :
    dmaBeat1 c r corr u = beatFailed c code (dma u c).off (beatAt u c) (wr s1 (R.DMA_COUNT c) (countLeft u c)) := by
  unfold dmaBeat1
  dsimp only
  rw [h]
  rfl

end

/-! ### The beat as a whole -/

section
variable {s : State} {c : Nat} {r : Reply} {corr : Nat}

theorem dmaReady_of_next (h : nextAfter s.host.dmaTurn 64 (dmaFree s) = some c) : dmaReady s c = true := by
  have hfree : dmaFree s c = true := List.find?_some h
  exact (Bool.and_eq_true_iff.1 hfree).1

theorem dmaBeatEff_shut (h : nextAfter s.host.dmaTurn 64 (dmaFree s) ≠ some c ∨ barred s .link 0 (linkWaits s) = true) :
    dmaBeatEff c r corr s = s := by
  unfold dmaBeatEff
  split
  next hn =>
    rcases h with h | h
    · exact absurd hn.1 h
    · exact onLink_barred h _
  next => rfl

theorem dmaBeatEff_open (hn : nextAfter s.host.dmaTurn 64 (dmaFree s) = some c) (hb : barred s .link 0 (linkWaits s) = false)
    (hf : beatFits s c r = true) : dmaBeatEff c r corr s = dmaIssue c r corr (linked 0 s) :=
  (if_pos ⟨hn, hf⟩).trans (onLink_open hb _)

theorem dmaIssue_cistern (h : dmaSrcCis s c = true) : dmaIssue c r corr (linked 0 s) = dmaBeat1 c r corr (beatTurn c s) :=
  if_pos ((rbit_congr (linked_frame.regs_eq rfl) _ _).trans h)

theorem dmaIssue_host (h : dmaSrcCis s c = false) :
    dmaIssue c r corr (linked 0 s) =
      answered r (fun u => hostRd u (BitVec.ofNat 64 (beatAt u c)) (beatLen u c)) (dmaBeat1 c r corr) (dmaHangs c) (beatTurn c s) :=
  if_neg (by rw [show dmaSrcCis (linked 0 s) c = false from (rbit_congr (linked_frame.regs_eq rfl) _ _).trans h]; decide)

theorem beatFits_cistern (h : dmaSrcCis s c = true) (r : Reply) : beatFits s c r = true := by
  unfold beatFits
  split
  · rw [h]; rfl
  · rfl

theorem beatFits_of_not_ok (h : ∀ b, r ≠ .ok b) : beatFits s c r = true := by
  unfold beatFits
  split
  next b => exact absurd rfl (h b)
  next => rfl

theorem beatFits_ok {b : Bytes} (h : b.length = beatLen s c) : beatFits s c (.ok b) = true := by
  show (dmaSrcCis s c || b.length == beatLen s c) = true
  rw [h]
  simp

/-- The read of the host has been put out. -/
def hostBeat (c : Nat) (s : State) : State := hostRd (beatTurn c s) (BitVec.ofNat 64 (beatAt (beatTurn c s) c)) (beatLen (beatTurn c s) c)

/-- The beat's read: to the host, or to the cistern. -/
def beatOutputs (s : State) (c : Nat) : List Output :=
  if dmaSrcCis s c then [] else [.hostRead 0 (BitVec.ofNat 64 (beatAt s c)) (beatLen s c)]

theorem beatTurn_ctl2 : (beatTurn c s).host.cfg.ctl2 = s.host.cfg.ctl2 := by
  have hT : Frame [.turns] s (takeBanks (bankWaits (linked 0 s)) (8 + c) (dmaBanks (linked 0 s) c) (linked 0 s)) :=
    linked_frame.trans takeBanks_frame
  rw [beatTurn, dmaBegin_frame.host_eq rfl, ← hT.host_eq rfl]
  rfl

theorem countLeft_eq {u : State} {l : List Output} (h : BeatOut s u c l) (hc : c < 64) :
    countLeft u c = BitVec.ofNat 32 ((dma s c).total - (dma s c).off - beatLen s c) := by
  rw [countLeft, h.beatLen hc, h.atDma]

/-- A read that fails ends the beat with its code. -/
theorem beat_fails {u s1 : State} {l : List Output} {code : Nat} (h : BeatOut s u c l) (hc : c < 64)
    (hread : dmaRead c (beatAt u c) (beatLen u c) r corr u = some (.error code, s1)) (hF : Frame [.intc, .cistern, .regs] u s1)
    (hlow : ∀ a, a < 0x300000 → rd s1 a = rd u a) (hm : s1.cistern.mem = u.cistern.mem) :
    ∃ v, dmaBeat1 c r corr u = beatFailed c code (dma s c).off (beatAt s c) v ∧
      BeatIn s v c l (BitVec.ofNat 32 ((dma s c).total - (dma s c).off - beatLen s c)) := by
  refine ⟨_, ?_, h.read hF hlow hm _⟩
  rw [dmaBeat1_failed hread, countLeft_eq h hc, h.beatAt hc, h.atDma]

/-- The codes of a read of the host that fails. -/
theorem dmaRead_host_bad {u : State} (h : dmaSrcCis u c = false) (a n : Nat) :
    dmaRead c a n .timedOut corr u = some (.error 1, u) ∧ dmaRead c a n .failed corr u = some (.error 2, u) ∧
      ∀ b, dmaRead c a n (.poisoned b) corr u = some (.error 3, u) := by
  unfold dmaRead
  simp only [h]
  exact ⟨rfl, rfl, fun _ => rfl⟩

section
variable (hr : dmaReady s c = true) (hc : c < 64) (hn : 0 < beatLen s c)
include hr hc hn

theorem hostBeat_out (h : dmaSrcCis s c = false) : BeatOut s (hostBeat c s) c (beatOutputs s c) := by
  have hout := (beatTurn_out hr).hostRd hc hn
  rwa [show beatOutputs s c = [.hostRead 0 (BitVec.ofNat 64 (beatAt s c)) (beatLen s c)] from if_neg (by rw [h]; decide)]

omit hc hn in
theorem cisBeat_out (h : dmaSrcCis s c = true) : BeatOut s (beatTurn c s) c (beatOutputs s c) := by
  have hout := beatTurn_out hr
  rwa [show beatOutputs s c = [] from if_pos h]

/-- A beat whose bytes have come. -/
theorem beat_good {b : Bytes} (hhost : dmaSrcCis s c = false → r = .ok b ∧ b.length = beatLen s c)
    (hcis : dmaSrcCis s c = true → ¬beatPoisoned r (beatAt s c) (beatLen s c) s ∧ b = cisBytes s (beatAt s c) (beatLen s c)) :
    ∃ v, beatFits s c r = true ∧ dmaIssue c r corr (linked 0 s) = dmaLand c (beatLen s c) b v ∧
      BeatIn s v c (beatOutputs s c) (BitVec.ofNat 32 ((dma s c).total - (dma s c).off - beatLen s c)) := by
  cases h : dmaSrcCis s c
  case false =>
    obtain ⟨rfl, hlen⟩ := hhost h
    have hout := hostBeat_out hr hc hn h
    have hsrc : dmaSrcCis (hostBeat c s) c = false := (SameChannel.srcCis (fun a ha _ => hout.low a ha) hc).trans h
    refine ⟨_, beatFits_ok hlen, ?_, hout.read Frame.refl (fun _ _ => rfl) rfl _⟩
    rw [dmaIssue_host h, answered_ok, ← countLeft_eq hout hc, ← hout.beatLen hc]
    exact dmaBeat1_ok (dmaRead_host_good corr hsrc (hlen.trans (hout.beatLen hc).symm))
  case true =>
    obtain ⟨hclean, rfl⟩ := hcis h
    have hout := cisBeat_out hr h
    have hsrc : dmaSrcCis (beatTurn c s) c = true := (SameChannel.srcCis (fun a ha _ => hout.low a ha) hc).trans h
    have hcis' : (beatTurn c s).cistern = s.cistern := hout.frame.cistern_eq rfl
    refine ⟨_, beatFits_cistern h r, ?_, hout.read (beatRead_frame (c := c) (a := beatAt s c) (n := beatLen s c) (r := r) corr)
      (fun a ha => rd_beatRead_low corr ha) (beatRead_mem corr) _⟩
    rw [dmaIssue_cistern h, ← countLeft_eq hout hc, ← hout.beatLen hc, ← hout.beatAt hc, ← cisBytes_congr (congrArg Cistern.mem hcis')]
    refine dmaBeat1_ok (dmaRead_cistern_good corr hsrc (by rw [hout.beatLen hc]; exact hn) ?_)
    unfold beatPoisoned
    rw [hcis', hout.beatAt hc, hout.beatLen hc]
    exact hclean

/-- A beat that fails, with its code. -/
theorem beat_bad {code : Nat}
    (h : (dmaSrcCis s c = false ∧ r = .timedOut ∧ bit s.host.cfg.ctl2 4 = false ∧ code = 1) ∨ (dmaSrcCis s c = false ∧ r = .failed ∧ code = 2) ∨
      (dmaSrcCis s c = false ∧ (∃ b, r = .poisoned b) ∧ code = 3) ∨
      (dmaSrcCis s c = true ∧ beatPoisoned r (beatAt s c) (beatLen s c) s ∧ code = 4)) :
    beatFits s c r = true ∧ ∃ v, dmaIssue c r corr (linked 0 s) = beatFailed c code (dma s c).off (beatAt s c) v ∧
      BeatIn s v c (beatOutputs s c) (BitVec.ofNat 32 ((dma s c).total - (dma s c).off - beatLen s c)) := by
  have hsrc {u : State} {l : List Output} (hout : BeatOut s u c l) : dmaSrcCis u c = dmaSrcCis s c :=
    SameChannel.srcCis (fun a ha _ => hout.low a ha) hc
  have hlow (u : State) (a : Nat) (_ : a < 0x300000) : rd u a = rd u a := rfl
  rcases h with ⟨h, rfl, hbit, rfl⟩ | ⟨h, rfl, rfl⟩ | ⟨h, ⟨b, rfl⟩, rfl⟩ | ⟨h, hp, rfl⟩
  · have hout := (hostBeat_out hr hc hn h).noteError 14
    refine ⟨beatFits_of_not_ok nofun, ?_⟩
    rw [dmaIssue_host h, answered_timedOut _ (by rw [beatTurn_ctl2]; exact hbit)]
    exact beat_fails hout hc (dmaRead_host_bad ((hsrc hout).trans h) _ _).1 Frame.refl (hlow _) rfl
  · have hout := hostBeat_out hr hc hn h
    refine ⟨beatFits_of_not_ok nofun, ?_⟩
    rw [dmaIssue_host h, answered_failed]
    exact beat_fails hout hc (dmaRead_host_bad ((hsrc hout).trans h) _ _).2.1 Frame.refl (hlow _) rfl
  · have hout := (hostBeat_out hr hc hn h).noteError 12
    refine ⟨beatFits_of_not_ok nofun, ?_⟩
    rw [dmaIssue_host h, answered_poisoned]
    exact beat_fails hout hc ((dmaRead_host_bad ((hsrc hout).trans h) _ _).2.2 b) Frame.refl (hlow _) rfl
  · have hout := cisBeat_out hr h
    refine ⟨beatFits_cistern h r, ?_⟩
    rw [dmaIssue_cistern h]
    refine beat_fails hout hc (dmaRead_cistern_bad corr ((hsrc hout).trans h) (by rw [hout.beatLen hc]; exact hn) ?_) (beatRead_frame corr)
      (fun a ha => rd_beatRead_low corr ha) (beatRead_mem corr)
    unfold beatPoisoned
    rw [hout.frame.cistern_eq rfl, hout.beatAt hc, hout.beatLen hc]
    exact hp

end

/-- A read that is never answered holds the transfer. -/
theorem beat_hung (hs : dmaSrcCis s c = false) (hbit : bit s.host.cfg.ctl2 4 = true) :
    dmaIssue c .timedOut corr (linked 0 s) = dmaHangs c (hostBeat c s) := by
  rw [dmaIssue_host hs, answered_hangs _ (by rw [beatTurn_ctl2]; exact hbit)]
  rfl

end

/-! ### A start (10 R550, R551) -/

section
variable {s : State} {c : Nat} {v : Word}

theorem bit_start (v : Word) : bit (v ||| 0x80000000) 31 = true := by
  have hone : bit (0x80000000 : Word) 31 = true := rfl
  unfold bit at *
  rw [BitVec.getLsbD_or, hone, Bool.or_true]

/-- CTL has taken a start. -/
def dmaWritten (s : State) (c : Nat) (v : Word) : State := wrField s (R.DMA_CTL c) (v ||| 0x80000000) 0x63110000 0

theorem dmaStart_busy (h : (dma s c).busy = true) : dmaCtlEff c (v ||| 0x80000000) s = fault s .dma 6 c 0 :=
  (if_pos h).trans (if_pos (bit_start v))

theorem dmaStart_idle (h : (dma s c).busy = false) : dmaCtlEff c (v ||| 0x80000000) s = dmaGo c (dmaWritten s c v) :=
  (if_neg (by rw [h]; decide)).trans (if_pos (bit_start v))

theorem dmaWritten_frame : Frame [.regs] s (dmaWritten s c v) := wrField_frame

theorem rd_dmaWritten_ne {a : Nat} (h : a ≠ R.DMA_CTL c) : rd (dmaWritten s c v) a = rd s a := rd_wrField_ne _ _ _ _ h

theorem dmaGo_bad (h : dmaBadParam s c = true) :
    dmaGo c s = dmaEnd c (some 5) (fault s .dma 5 c (BitVec.ofNat 64 (rd s (R.DMA_COUNT c)).toNat)) := if_pos h

theorem dmaGo_empty (h : dmaBadParam s c = false) (hn : rd s (R.DMA_COUNT c) = 0) : dmaGo c s = dmaEnd c none s :=
  (if_neg (by rw [h]; decide)).trans (if_pos (by rw [hn]; rfl))

/-- The transfer that a start begins. -/
def freshDma (s : State) (c : Nat) : Dma := { busy := true, total := (rd s (R.DMA_COUNT c)).toNat }

theorem dmaGo_begins (h : dmaBadParam s c = false) (hn : rd s (R.DMA_COUNT c) ≠ 0) :
    dmaGo c s = dmaBegin c (setDma (wr s (R.DMA_STATE c) 0) c (freshDma s c)) :=
  (if_neg (by rw [h]; decide)).trans (if_neg fun h0 => hn (BitVec.eq_of_toNat_eq h0))

theorem dmaGo_others {j : Nat} (h : j ≠ c) : dma (dmaGo c s) j = dma s j := by
  unfold dmaGo
  dsimp only
  split
  · rw [dmaEnd_others _ _ _ h, dma_congr (fault_frame.dmas_eq rfl)]
  · split
    · exact dmaEnd_others _ _ _ h
    · rw [dmaBegin_others _ _ h, dma_setDma_ne _ _ _ h, dma_congr (wr_frame.dmas_eq rfl)]

theorem dmaCtlEff_others {j : Nat} (h : j ≠ c) (w : Word) : dma (dmaCtlEff c w s) j = dma s j := by
  unfold dmaCtlEff
  dsimp only
  split
  · split
    · exact dma_congr (fault_frame.dmas_eq rfl) j
    · rfl
  · split
    · rw [dmaGo_others h, dma_congr (wrField_frame.dmas_eq rfl)]
    · exact dma_congr (wrField_frame.dmas_eq rfl) j

/-- A start that begins: what the arbiter of operations sees is the transfer added. -/
theorem sameOps_start (hc : c < 64) :
    SameOps { s with dmas := put {} s.dmas c (freshDma s c) }
      (setDma (wr (dmaWritten s c v) (R.DMA_STATE c) 0) c (freshDma (dmaWritten s c v) c)) := by
  have hcount : rd (dmaWritten s c v) (R.DMA_COUNT c) = rd s (R.DMA_COUNT c) := rd_dmaWritten_ne (by unfold R.DMA_COUNT R.DMA_CTL; omega)
  have hfresh : freshDma (dmaWritten s c v) c = freshDma s c := by unfold freshDma; rw [hcount]
  have hF : Frame [.regs] s (wr (dmaWritten s c v) (R.DMA_STATE c) 0) := dmaWritten_frame.trans wr_frame
  have hrd {a : Nat} (h : 0x300000 ≤ a) : rd (wr (dmaWritten s c v) (R.DMA_STATE c) 0) a = rd s a := by
    rw [rd_wr_ne _ _ (by unfold R.DMA_STATE; omega), rd_dmaWritten_ne (by unfold R.DMA_CTL; omega)]
  rw [hfresh]
  generalize wr (dmaWritten s c v) (R.DMA_STATE c) 0 = u at *
  exact {
    rings := hF.rings_eq rfl
    dmas := by
      show (setDma u c (freshDma s c)).dmas = (setDma s c (freshDma s c)).dmas
      unfold setDma
      rw [hF.dmas_eq rfl]
    mode := hF.mode_eq rfl
    msgs := hF.msgs_eq rfl
    up := hostUp_congr (hF.power_eq rfl) (hF.mode_eq rfl) (hF.host_eq rfl)
    hem := hrd (a := R.LINE_HEM_CTL) (by unfold R.LINE_HEM_CTL; omega)
    tid := hrd (a := R.LINE_TID) (by unfold R.LINE_TID; omega)
    turns := fun n w => by
      unfold barred
      rw [setDma_turns, hF.turns_eq rfl] }

end

end Sys2Proof.Machine

open Sys2Proof Sys2Proof.Machine

/-- Settles O51: a start by the state of its channel and its parameters, a beat by the answer of its read. -/
theorem dmaTransfers : Obligations.DmaTransfers := by
  unfold Obligations.DmaTransfers
  refine ⟨fun s c v hb => ?_, fun a b c d => ⟨rfl, rfl, rfl, rfl⟩, fun s c reply corr hr hns => ⟨fun hshut => ?_, fun hn hb hlt => ?_⟩,
    hostWr_requests⟩
  · intro s1 fresh
    obtain ⟨t, ht, hF⟩ := viaBar_frame hb (dmaCtlEff c (v ||| 0x80000000))
    have hbase : Block.dma.base = 0x200F00 := rfl
    refine ⟨t, ht, ?_, fun n hne => ?_, fun hbusy => ?_, fun hidle hgood hcount => ?_, fun hidle hgood hcount => ?_, fun hidle hbad => ?_⟩
    · rw [hF.cistern_eq rfl, dmaCtlEff_frame.cistern_eq rfl]
    · rw [dma_congr (hF.dmas_eq rfl), dmaCtlEff_others hne]
    · rw [dmaStart_busy hbusy] at hF
      exact ⟨(dma_congr (hF.dmas_eq rfl) c).trans (dma_congr (fault_frame.dmas_eq rfl) c), recorded_fault_after (by decide) rfl (hF.regs_eq rfl),
        (regsOnly_fault _ _ _ _ _).andIntc hF⟩
    · rw [dmaStart_idle hidle, dmaGo_begins (s := dmaWritten s c v) hgood (by rw [rd_dmaWritten_ne (by unfold R.DMA_COUNT R.DMA_CTL; omega)]; exact hcount)] at hF
      have hops := (sameOps_start (s := s) (v := v) c.isLt).opsOpen (512 + c)
      have hfresh : freshDma (dmaWritten s c v) c = fresh := by
        unfold freshDma
        rw [rd_dmaWritten_ne (by unfold R.DMA_COUNT R.DMA_CTL; omega)]
      refine ⟨?_, ?_, ?_⟩
      · rw [dma_congr (hF.dmas_eq rfl), dmaBegin_dma, dma_setDma_same, hops, hfresh]
        rfl
      · rw [rd_congr (hF.regs_eq rfl), rd_dmaBegin_low _ _ (by unfold R.DMA_STATE; omega), rd_congr (setDma_regs ..), rd_wr_same]
      · rw [hF.wire_eq rfl, dmaBegin_frame.wire_eq rfl, setDma_frame.wire_eq rfl, wr_frame.wire_eq rfl, dmaWritten_frame.wire_eq rfl]
    · rw [dmaStart_idle hidle, dmaGo_empty (s := dmaWritten s c v) hgood (by rw [rd_dmaWritten_ne (by unfold R.DMA_COUNT R.DMA_CTL; omega)]; exact hcount)] at hF
      refine ⟨by rw [dma_congr (hF.dmas_eq rfl), dmaEnd_dma], ?_⟩
      rw [rbit_congr (hF.regs_eq rfl)]
      unfold rbit
      rw [rd_dmaEnd_state]
      exact endState_done _
    · rw [dmaStart_idle hidle, dmaGo_bad (s := dmaWritten s c v) hbad] at hF
      have hs0 : Block.dma.base ≠ R.DMA_STATE c := by rw [hbase]; unfold R.DMA_STATE; omega
      have hs4 : Block.dma.base + 4 ≠ R.DMA_STATE c := by rw [hbase]; unfold R.DMA_STATE; omega
      have hc4 : Block.dma.base + 4 ≠ R.DMA_CTL c := by rw [hbase]; unfold R.DMA_CTL; omega
      have hout : Block.dma.base + 0x20 ≤ R.DMA_STATE c := by rw [hbase]; unfold R.DMA_STATE; omega
      have hsc : R.DMA_STATE c ≠ R.DMA_CTL c := by unfold R.DMA_STATE R.DMA_CTL; omega
      refine ⟨by rw [dma_congr (hF.dmas_eq rfl), dmaEnd_dma], ?_, ?_⟩
      · rw [rd_congr (hF.regs_eq rfl), rd_dmaEnd_state, rd_fault_out _ _ _ _ _ (Or.inr hout), rd_dmaWritten_ne hsc]
        rfl
      · refine recorded_of_rd ((rd_congr (hF.regs_eq rfl) _).trans (rd_dmaEnd_ne _ _ _ hs0))
          ((rd_congr (hF.regs_eq rfl) _).trans (rd_dmaEnd_ne _ _ _ hs4)) (recorded_fault_after (by decide) (rd_dmaWritten_ne hc4) rfl)
  · obtain ⟨t, ht, hF⟩ := viaCore_frame hr (onReply reply (dmaBeatEff c reply corr))
    rw [onReply_answer hns, dmaBeatEff_shut hshut] at hF
    exact ⟨t, ht, hF.intcOnly⟩
  · intro x host src n dst read poisoned passes
    have hready := dmaReady_of_next hn
    have hpos : 0 < beatLen s c := Nat.lt_min.2 ⟨Nat.sub_pos_of_lt (Nat.mod_lt _ (by decide)), Nat.sub_pos_of_lt hlt⟩
    refine ⟨fun b hhost hcis => ?_, fun code hcode => ?_, fun hhost hto hbit => ?_⟩
    · intro now later
      obtain ⟨v, hfits, hissue, hin⟩ := beat_good (corr := corr) hready c.isLt hpos (r := reply) (b := b) hhost hcis
      obtain ⟨t, ht, hF⟩ := viaCore_frame hr (onReply reply (dmaBeatEff c reply corr))
      rw [onReply_answer hns, dmaBeatEff_open hn hb hfits, hissue] at hF
      obtain ⟨hturn, hturns, hcount, hmore, hlast, hcistern, l, hwire, hl⟩ := hin.land c.isLt hF
      have hmem : t.cistern.mem = (beatWritten c n b v).cistern.mem := congrArg Cistern.mem hcistern
      have hdst : dstAt v c (x.off - x.held.length) = dst := hin.dst c.isLt
      have hdstCis : dmaDstCis v c = dmaDstCis s c := hin.chan.dstCis c.isLt
      have hover : dmaOverlap v c = dmaOverlap s c := hin.overlap c.isLt
      rw [hin.written c.isLt] at hmem hwire
      refine ⟨t, ht, ⟨hturn, hturns⟩, hcount, fun hm => hmore (Nat.ne_of_lt hm), hlast, fun hd ho => ?_, fun hd a ha => ?_, fun hd => ⟨?_, fun ho => ?_⟩⟩
      · rw [cisBytes_congr hmem, ← hdst]
        exact cisBytes_dmaWrite (hdstCis.trans hd) (hover.trans ho)
      · rw [cisByte_congr hmem, cisByte_dmaWrite_out (hdstCis.trans hd) (by rw [hdst]; exact ha), cisByte_congr hin.mem]
      · rw [hmem, dmaWrite_mem (hdstCis.trans hd), hin.mem]
      · refine ⟨l, ?_, fun hm => hl (Nat.ne_of_lt hm)⟩
        rw [hwire, dmaWrite_wire (hdstCis.trans hd) (hover.trans ho), hdst]
        exact congrArg (· ++ l) (hostWr_wire_ctl (s := { s with wire := s.wire ++ read }) hin.wire hin.ctl _ _)
    · obtain ⟨hfits, v, hissue, hin⟩ := beat_bad (corr := corr) hready c.isLt hpos (r := reply) hcode
      obtain ⟨t, ht, hF⟩ := viaCore_frame hr (onReply reply (dmaBeatEff c reply corr))
      rw [onReply_answer hns, dmaBeatEff_open hn hb hfits, hissue] at hF
      have hk : code < 6 := by
        rcases hcode with ⟨_, _, _, h⟩ | ⟨_, _, h⟩ | ⟨_, _, h⟩ | ⟨_, _, h⟩ <;> omega
      exact ⟨t, ht, hin.failed c.isLt hk hF⟩
    · subst hto
      obtain ⟨t, ht, hF⟩ := viaCore_frame hr (onReply .timedOut (dmaBeatEff c .timedOut corr))
      rw [onReply_answer hns, dmaBeatEff_open hn hb (beatFits_of_not_ok (r := .timedOut) nofun), beat_hung hhost hbit] at hF
      have hout := hostBeat_out hready c.isLt hpos hhost
      refine ⟨t, ht, ⟨?_, fun j hj hne hw => ?_⟩, ?_, ?_, ?_, ?_⟩
      · rw [hF.host_eq rfl, dmaHangs_frame.host_eq rfl, hout.turn]
      · rw [hF.turns_eq rfl, dmaHangs_frame.turns_eq rfl]
        exact hout.turns j hj hne hw
      · rw [hF.cistern_eq rfl, dmaHangs_frame.cistern_eq rfl, hout.frame.cistern_eq rfl]
      · rw [hF.wire_eq rfl, dmaHangs_frame.wire_eq rfl]
        exact hout.wire
      · rw [dma_congr (hF.dmas_eq rfl), dmaHangs, dma_setDma_same, hout.atDma]
      · rw [rd_congr (hF.regs_eq rfl), dmaHangs, rd_congr (setDma_regs ..), rd_wr_same, hout.beatLen c.isLt, hout.atDma]
        rfl
end

section
/-!
Scan engines (chapter 13): a start, an abort, the ends of a scan, and what the read of a beat answers.
-/
namespace Sys2Proof.Machine

/-! ### Fields of a word that has been written -/

theorem testBit_fld {w : Nat} (x : BitVec w) (lo len i : Nat) : (fld x lo len).testBit i = (decide (i < len) && bit x (lo + i)) := by
  unfold fld bit
  rw [Nat.testBit_mod_two_pow, Nat.testBit_shiftRight, BitVec.getLsbD]

theorem fld_eq_of_bits {w : Nat} {x y : BitVec w} {lo len : Nat} (h : ∀ i < len, bit x (lo + i) = bit y (lo + i)) : fld x lo len = fld y lo len := by
  refine Nat.eq_of_testBit_eq fun i => ?_
  rw [testBit_fld, testBit_fld]
  by_cases hi : i < len
  · rw [h i hi]
  · rw [decide_eq_false hi, Bool.false_and, Bool.false_and]

/-- A bit that can be written is what was written. -/
theorem bit_merge (old v rw_ : Word) {i : Nat} (h : bit rw_ i = true) : bit (merge old v rw_ 0) i = bit v i := by
  have hkept : merge old v rw_ 0 = (old &&& ~~~rw_) ||| (v &&& rw_) := by
    unfold merge
    rw [show v &&& (0 : Word) = 0 from BitVec.and_zero, show ~~~(0 : Word) = BitVec.allOnes 32 from rfl, BitVec.and_allOnes]
  unfold bit at *
  rw [hkept, BitVec.getLsbD_or, BitVec.getLsbD_and, BitVec.getLsbD_and, BitVec.getLsbD_not, h]
  simp

theorem bit_or_of_false {v m : Word} {i : Nat} (h : bit m i = false) : bit (v ||| m) i = bit v i := by
  unfold bit at *
  rw [BitVec.getLsbD_or, h, Bool.or_false]

theorem fld_lt {w : Nat} (x : BitVec w) (lo len : Nat) : fld x lo len < 2 ^ len := Nat.mod_lt _ (Nat.two_pow_pos _)

/-! ### Registers of two halves -/

theorem rd64_wr64_ne (s : State) {a b : Nat} (v : DWord) (h : a + 8 ≤ b ∨ b + 8 ≤ a) : rd64 (wr64 s a v) b = rd64 s b :=
  rd64_of_rd (rd_wr64_ne _ _ (by omega) (by omega)) (rd_wr64_ne _ _ (by omega) (by omega))

theorem rd64_wr_ne (s : State) {a b : Nat} (v : Word) (h : a + 4 ≤ b ∨ b + 8 ≤ a) : rd64 (wr s a v) b = rd64 s b :=
  rd64_of_rd (rd_wr_ne _ _ (by omega)) (rd_wr_ne _ _ (by omega))

/-! ### The running value of a scan (13 R703, R704) -/

/-- No octets leave the initial value. -/
theorem polyRun_init_nil {p : Nat} (h : p < 4) : polyRun p (polyInit p) [] = polyInit p := by
  have hall : ∀ p < 4, polyRun p (polyInit p) [] = polyInit p := by decide
  exact hall p h

/-! ### The ends of a scan (13 R709-R713) -/

theorem scan_congr {s t : State} (h : t.scans = s.scans) (e : Nat) : scan t e = scan s e := by
  unfold scan; rw [h]

section
variable (e : Nat) (s : State)

/-- The word that a failed scan leaves in STATE. -/
theorem rd_checkFail_state (code : Nat) :
    rd (checkFail e code s) (R.CHECK_STATE e) = (rd s (R.CHECK_STATE e) &&& 0x40000000) ||| pack [(30, 1), (29, 1), (0, code)] := by
  unfold checkFail
  dsimp only
  rw [rd_wr_same]

theorem rd_checkFail_ne (code : Nat) {a : Nat} (h : a ≠ R.CHECK_STATE e) : rd (checkFail e code s) a = rd s a := by
  unfold checkFail
  dsimp only
  rw [rd_wr_ne _ _ h]
  exact rd_congr (setScan_regs ..) a

theorem scan_checkFail (code : Nat) : scan (checkFail e code s) e = {} := by
  unfold checkFail
  dsimp only
  rw [scan_congr (wr_frame.scans_eq rfl), scan_setScan_same]

theorem scan_checkFail_ne (code : Nat) {j : Nat} (h : j ≠ e) : scan (checkFail e code s) j = scan s j := by
  unfold checkFail
  dsimp only
  rw [scan_congr (wr_frame.scans_eq rfl), scan_setScan_ne _ _ _ h]

/-- The result of a comparison. -/
def scanResult (s : State) (e : Nat) (stored : DWord) : Nat :=
  if checkCmp s e = 0 then 0 else if stored = polyOut (checkPoly s e) (scan s e).crc then 1 else 2

variable (stored : DWord)

theorem scan_checkDone : scan (checkDone e stored s) e = {} := by
  unfold checkDone
  dsimp only
  rw [scan_congr (wr_frame.scans_eq rfl), scan_setScan_same]

theorem scan_checkDone_ne {j : Nat} (h : j ≠ e) : scan (checkDone e stored s) j = scan s j := by
  unfold checkDone
  dsimp only
  rw [scan_congr (wr_frame.scans_eq rfl), scan_setScan_ne _ _ _ h, scan_congr (wr64_frame.scans_eq rfl), scan_congr (wr64_frame.scans_eq rfl)]

theorem rd_checkDone_state : rd (checkDone e stored s) (R.CHECK_STATE e) = pack [(30, 1), (26, scanResult s e stored)] := by
  unfold checkDone
  dsimp only
  rw [rd_wr_same]
  rfl

theorem rd64_checkDone_computed : rd64 (checkDone e stored s) (R.CHECK_COMPUTED e) = polyOut (checkPoly s e) (scan s e).crc := by
  have h1 : R.CHECK_STATE e + 4 ≤ R.CHECK_COMPUTED e := by unfold R.CHECK_COMPUTED R.CHECK_STATE; omega
  have h2 : R.CHECK_COMPUTED e + 8 ≤ R.CHECK_STORED e := by unfold R.CHECK_COMPUTED R.CHECK_STORED; omega
  unfold checkDone
  dsimp only
  rw [rd64_wr_ne _ _ (Or.inl h1), rd64_congr (setScan_regs ..), rd64_wr64_ne _ _ (Or.inr h2), rd64_wr64_same]

theorem rd64_checkDone_stored : rd64 (checkDone e stored s) (R.CHECK_STORED e) = stored := by
  have h1 : R.CHECK_STATE e + 4 ≤ R.CHECK_STORED e := by unfold R.CHECK_STORED R.CHECK_STATE; omega
  unfold checkDone
  dsimp only
  rw [rd64_wr_ne _ _ (Or.inl h1), rd64_congr (setScan_regs ..), rd64_wr64_same]

end

/-- A compared scan ends with its values and what their comparison says. -/
theorem checkDone_compared {s t : State} {e : Nat} {stored : DWord} (hc : checkCmp s e ≠ 0) (hF : Frame [.intc] (checkDone e stored s) t) :
    scan t e = {} ∧ rd64 t (R.CHECK_COMPUTED e) = polyOut (checkPoly s e) (scan s e).crc ∧ rd64 t (R.CHECK_STORED e) = stored ∧
      rfld t (R.CHECK_STATE e) 26 2 = if rd64 t (R.CHECK_STORED e) = rd64 t (R.CHECK_COMPUTED e) then 1 else 2 := by
  have hcomp := (rd64_congr (hF.regs_eq rfl) _).trans (rd64_checkDone_computed e s stored)
  have hst := (rd64_congr (hF.regs_eq rfl) _).trans (rd64_checkDone_stored e s stored)
  have hfld : ∀ k < 3, fld (pack [(30, 1), (26, k)]) 26 2 = k := by decide
  refine ⟨(scan_congr (hF.scans_eq rfl) e).trans (scan_checkDone ..), hcomp, hst, ?_⟩
  unfold rfld
  rw [rd_congr (hF.regs_eq rfl), rd_checkDone_state, hcomp, hst, scanResult, if_neg hc, hfld _ (by split <;> decide)]

/-- A scan that is not compared ends with its value. -/
theorem checkDone_computed {s t : State} {e : Nat} {stored : DWord} (hc : checkCmp s e = 0) (hF : Frame [.intc] (checkDone e stored s) t) :
    scan t e = {} ∧ rd t (R.CHECK_STATE e) = 0x40000000 ∧ rd64 t (R.CHECK_COMPUTED e) = polyOut (checkPoly s e) (scan s e).crc := by
  refine ⟨(scan_congr (hF.scans_eq rfl) e).trans (scan_checkDone ..), ?_,
    (rd64_congr (hF.regs_eq rfl) _).trans (rd64_checkDone_computed e s stored)⟩
  rw [rd_congr (hF.regs_eq rfl), rd_checkDone_state, scanResult, if_pos hc]
  rfl

section
variable {s : State} {e : Nat}

theorem checkRangeEnd_plain (h : checkCmp s e = 0) : checkRangeEnd e s = checkDone e 0 s := by
  unfold checkRangeEnd; rw [h]; rfl

/-- The value that a scan is compared with. -/
def expected (s : State) (e : Nat) : DWord := rd64 s (R.CHECK_EXPECT e) &&& BitVec.ofNat 64 (2 ^ polyWidth (checkPoly s e) - 1)

theorem checkRangeEnd_expect (h : checkCmp s e = 1) : checkRangeEnd e s = checkDone e (expected s e) s := by
  unfold checkRangeEnd; rw [h]; rfl

theorem checkRangeEnd_waits (h : 2 ≤ checkCmp s e) : checkRangeEnd e s = s := by
  unfold checkRangeEnd
  split
  · omega
  · omega
  · rfl

theorem scan_checkRangeEnd_ne {j : Nat} (h : j ≠ e) : scan (checkRangeEnd e s) j = scan s j := by
  unfold checkRangeEnd
  split
  · exact scan_checkDone_ne _ _ _ h
  · exact scan_checkDone_ne _ _ _ h
  · rfl

end

/-! ### A start and an abort (13 R707, R708, R713) -/

section
variable {s : State} {e : Nat} {v : Word}

/-- CTL has taken a start. -/
def checkWritten (s : State) (e : Nat) (v : Word) : State := wrField s (R.CHECK_CTL e) (v ||| 0x80000000) 0x23371310 0

theorem rd_checkWritten_ne {a : Nat} (h : a ≠ R.CHECK_CTL e) : rd (checkWritten s e v) a = rd s a := rd_wrField_ne _ _ _ _ h

/-- The settings of a start are what was written. -/
theorem bit_checkWritten {i : Nat} (hm : bit (0x23371310 : Word) i = true) (hs : bit (0x80000000 : Word) i = false) :
    rbit (checkWritten s e v) (R.CHECK_CTL e) i = bit v i := by
  unfold rbit checkWritten
  rw [rd_wrField_same, bit_merge _ _ _ hm, bit_or_of_false hs]

theorem fld_checkWritten {lo len : Nat} (hm : ∀ i < len, bit (0x23371310 : Word) (lo + i) = true)
    (hs : ∀ i < len, bit (0x80000000 : Word) (lo + i) = false) : rfld (checkWritten s e v) (R.CHECK_CTL e) lo len = fld v lo len := by
  unfold rfld checkWritten
  rw [rd_wrField_same]
  exact fld_eq_of_bits fun i hi => by rw [bit_merge _ _ _ (hm i hi), bit_or_of_false (hs i hi)]

theorem checkStart_busy (h : (scan s e).busy = true) :
    checkCtlEff e (v ||| 0x80000000) s = fault s .check 7 e ((v ||| 0x80000000).setWidth 64) :=
  (if_pos h).trans (if_pos (bit_start v))

theorem checkStart_idle (h : (scan s e).busy = false) :
    checkCtlEff e (v ||| 0x80000000) s =
      if checkBadParam (checkWritten s e v) e then checkFail e 6 (fault (checkWritten s e v) .check 6 e ((v ||| 0x80000000).setWidth 64))
      else checkGo e (checkWritten s e v) := by
  refine (if_neg (by rw [h]; decide)).trans ((if_neg (by rw [bit_start]; simp)).trans ?_)
  exact if_neg (by rw [bit_start]; decide)

theorem bits_abort (v : Word) : bit ((v ||| 0x40000000) &&& 0x7FFFFFFF) 31 = false ∧ bit ((v ||| 0x40000000) &&& 0x7FFFFFFF) 30 = true := by
  have h31 : bit (0x7FFFFFFF : Word) 31 = false := rfl
  have h30 : bit (0x7FFFFFFF : Word) 30 = true := rfl
  have hone : bit (0x40000000 : Word) 30 = true := rfl
  unfold bit at *
  constructor
  · rw [BitVec.getLsbD_and, h31, Bool.and_false]
  · rw [BitVec.getLsbD_and, h30, BitVec.getLsbD_or, hone, Bool.or_true, Bool.true_and]

theorem checkAbort_busy (h : (scan s e).busy = true) (hh : (scan s e).hung = false) :
    checkCtlEff e ((v ||| 0x40000000) &&& 0x7FFFFFFF) s = checkFail e 8 s := by
  obtain ⟨h31, h30⟩ := bits_abort v
  exact (if_pos h).trans ((if_neg (by rw [h31]; decide)).trans (if_pos (by rw [h30, hh]; rfl)))

theorem checkAbort_waits (h : (scan s e).busy = false ∨ (scan s e).hung = true) : checkCtlEff e ((v ||| 0x40000000) &&& 0x7FFFFFFF) s = s := by
  obtain ⟨h31, h30⟩ := bits_abort v
  cases hb : (scan s e).busy
  · exact (if_neg (by rw [hb]; decide)).trans (if_pos (by rw [h30, h31]; rfl))
  · have hh : (scan s e).hung = true := by
      rcases h with h | h
      · rw [hb] at h; cases h
      · exact h
    exact (if_pos hb).trans ((if_neg (by rw [h31]; decide)).trans (if_neg (by rw [h30, hh]; decide)))

/-- The results are cleared for a scan. -/
def scanCleared (s : State) (e : Nat) : State :=
  wr64 (wr64 (wr64 (wr s (R.CHECK_STATE e) 0) (R.CHECK_COMPUTED e) 0) (R.CHECK_STORED e) 0) (R.CHECK_ERR_OFFSET e) 0

/-- The fold tag of a scan. -/
def scanTag (s : State) (e : Nat) : Bytes := if rbit s (R.CHECK_CTL e) 12 then beBytes 8 (rd64 s (R.CHECK_FOLD e)).toNat else []

/-- The scan that a start begins. -/
def freshScan (s : State) (e : Nat) : Scan := { busy := true, crc := polyRun (checkPoly s e) (polyInit (checkPoly s e)) (scanTag s e) }

theorem checkGo_runs (h : checkLen s e ≠ 0) : checkGo e s = setScan (scanCleared s e) e (freshScan s e) := if_neg h

theorem checkGo_empty (h : checkLen s e = 0) : checkGo e s = checkRangeEnd e (setScan (scanCleared s e) e (freshScan s e)) := if_pos h

theorem scanCleared_frame : Frame [.regs] s (scanCleared s e) := ((wr_frame.trans wr64_frame).trans wr64_frame).trans wr64_frame

theorem check_offsets (e : Nat) :
    R.CHECK_CTL e + 4 ≤ R.CHECK_STATE e ∧ R.CHECK_STATE e + 4 ≤ R.CHECK_COMPUTED e ∧ R.CHECK_COMPUTED e + 8 ≤ R.CHECK_STORED e ∧
      R.CHECK_STORED e + 8 ≤ R.CHECK_ERR_OFFSET e := by
  unfold R.CHECK_CTL R.CHECK_STATE R.CHECK_COMPUTED R.CHECK_STORED R.CHECK_ERR_OFFSET
  omega

theorem rd_scanCleared_low {a : Nat} (h : a < R.CHECK_STATE e) : rd (scanCleared s e) a = rd s a := by
  obtain ⟨_, h1, h2, h3⟩ := check_offsets e
  unfold scanCleared
  rw [rd_wr64_ne _ _ (by omega) (by omega), rd_wr64_ne _ _ (by omega) (by omega), rd_wr64_ne _ _ (by omega) (by omega), rd_wr_ne _ _ (by omega)]

theorem rd_scanCleared_state : rd (scanCleared s e) (R.CHECK_STATE e) = 0 := by
  obtain ⟨_, h1, h2, h3⟩ := check_offsets e
  unfold scanCleared
  rw [rd_wr64_ne _ _ (by omega) (by omega), rd_wr64_ne _ _ (by omega) (by omega), rd_wr64_ne _ _ (by omega) (by omega), rd_wr_same]

theorem rd64_scanCleared : rd64 (scanCleared s e) (R.CHECK_COMPUTED e) = 0 ∧ rd64 (scanCleared s e) (R.CHECK_STORED e) = 0 ∧
    rd64 (scanCleared s e) (R.CHECK_ERR_OFFSET e) = 0 := by
  obtain ⟨_, h1, h2, h3⟩ := check_offsets e
  unfold scanCleared
  refine ⟨?_, ?_, rd64_wr64_same _ _ _⟩
  · rw [rd64_wr64_ne _ _ (Or.inr (by omega)), rd64_wr64_ne _ _ (Or.inr h2), rd64_wr64_same]
  · rw [rd64_wr64_ne _ _ (Or.inr h3), rd64_wr64_same]

end

section
variable {s : State} {e : Nat} {v : Word}

/-- The value that a start begins with. -/
def startValue (s : State) (e : Nat) (v : Word) : DWord :=
  let p := fld v 24 2
  if bit v 12 then polyRun p (polyInit p) (beBytes 8 (rd64 s (R.CHECK_FOLD e)).toNat) else polyInit p

/-- A start begins with the initial value of the function written, over the fold tag where it is asked for. -/
theorem freshScan_written :
    freshScan (checkWritten s e v) e = { busy := true, crc := startValue s e v } := by
  have hpoly : checkPoly (checkWritten s e v) e = fld v 24 2 := fld_checkWritten (by decide) (by decide)
  have hbit : rbit (checkWritten s e v) (R.CHECK_CTL e) 12 = bit v 12 := bit_checkWritten rfl rfl
  have hfold : rd64 (checkWritten s e v) (R.CHECK_FOLD e) = rd64 s (R.CHECK_FOLD e) :=
    rd64_of_rd (rd_checkWritten_ne (by unfold R.CHECK_FOLD R.CHECK_CTL; omega)) (rd_checkWritten_ne (by unfold R.CHECK_FOLD R.CHECK_CTL; omega))
  unfold freshScan scanTag startValue
  dsimp only
  rw [hpoly, hbit, hfold]
  cases bit v 12
  · rw [if_neg (by decide), if_neg (by decide), polyRun_init_nil (fld_lt v 24 2)]
  · rfl

end

/-! ### What a read answers (13 R711, R712) -/

/-- The next read of a scan has been put out: whoever waits for the link has lost to it. -/
def ScanIssued (s t : State) (e : Nat) : Prop :=
  (checkSpace s e = 0 → t.wire = (hostRd s (BitVec.ofNat 64 (scanAt s e)) (scanLen s e)).wire ∧
    ∀ j, j < 6 → j ≠ 2 + e → linkWaits s j = true → (⟨.link, 2 + e, j⟩ : Turn) ∈ t.turns) ∧
  (checkSpace s e ≠ 0 → t.wire = s.wire)

/-- The state in which a scan's read is answered. -/
structure ScanOut (s u : State) (e : Nat) : Prop where
  frame : Frame [.wire, .turns, .host] s u
  issued : ScanIssued s u e

/-- What has changed when the answer is at hand. -/
structure ScanIn (s v : State) (e : Nat) : Prop where
  frame : Frame [.wire, .turns, .host, .intc, .cistern, .regs] s v
  low : ∀ a, a < 0x300000 → rd v a = rd s a
  issued : ScanIssued s v e

/-- What a read must be to be answered with bytes. -/
def ScanGood (s : State) (e : Nat) (r : Reply) (b : Bytes) : Prop :=
  (checkSpace s e = 0 ∧ r = .ok b ∧ b.length = scanLen s e) ∨
    (checkSpace s e = 1 ∧ ¬beatPoisoned r (scanAt s e) (scanLen s e) s ∧ b = cisBytes s (scanAt s e) (scanLen s e)) ∨
    (2 ≤ checkSpace s e ∧ resPoison s (checkChan s e) (scanAt s e) (scanLen s e) = false ∧
      ∃ c, r = .ok c ∧ c.length = scanLen s e ∧ b = resBytes s (checkChan s e) (scanAt s e) c)

/-- What a read must be to fail with a code. -/
def ScanBad (s : State) (e : Nat) (r : Reply) (code : Nat) : Prop :=
  (checkSpace s e = 0 ∧ ((r = .timedOut ∧ bit s.host.cfg.ctl2 4 = false ∧ code = 1) ∨ (r = .failed ∧ code = 2) ∨
      ((∃ b, r = .poisoned b) ∧ code = 3))) ∨
    (checkSpace s e = 1 ∧ beatPoisoned r (scanAt s e) (scanLen s e) s ∧ scanLen s e ≠ 0 ∧ code = 4) ∨
    (2 ≤ checkSpace s e ∧ (resPoison s (checkChan s e) (scanAt s e) (scanLen s e) = true ∨ ∀ b, r ≠ .ok b) ∧ code = 5)

section
variable {s u : State} {e : Nat}

theorem checkSpace_congr (h : u.regs = s.regs) : checkSpace u e = checkSpace s e := rfld_congr h ..

theorem scanAt_congr (h : u.regs = s.regs) (hs : u.scans = s.scans) : scanAt u e = scanAt s e := by
  unfold scanAt checkLen
  rw [rd64_congr h, rd64_congr h, rd64_congr h, scan_congr hs]

theorem scanLen_congr (h : u.regs = s.regs) (hs : u.scans = s.scans) : scanLen u e = scanLen s e := by
  unfold scanLen checkLen checkPoly
  rw [scanAt_congr h hs, rfld_congr h, rd64_congr h, scan_congr hs]

end

theorem scanLen_pos (s : State) (e : Nat) : 0 < scanLen s e := by
  unfold scanLen polyWidth
  split
  · split
    · decide
    · split <;> decide
  · exact Nat.lt_min.2 ⟨Nat.sub_pos_of_lt (Nat.mod_lt _ (by decide)), by omega⟩

section
variable {u : State} {e a n : Nat} {r : Reply} {corr : Nat}

theorem checkRead_host_good (h : checkSpace u e = 0) {b : Bytes} (hb : b.length = n) : checkRead e a n (.ok b) corr u = some (.ok b, u) := by
  unfold checkRead
  rw [h]
  exact if_pos hb

theorem checkRead_host_bad (h : checkSpace u e = 0) :
    checkRead e a n .timedOut corr u = some (.error (1, a), u) ∧ checkRead e a n .failed corr u = some (.error (2, a), u) ∧
      ∀ b, checkRead e a n (.poisoned b) corr u = some (.error (3, a), u) := by
  unfold checkRead
  rw [h]
  exact ⟨rfl, rfl, fun _ => rfl⟩

/-- How a scan counts its reads of the cistern. -/
def scanAccess : Access := { addr := 0, bytes := 0 }

/-- The cistern after a scan has read from it. -/
def scanReadCis (a n : Nat) (r : Reply) (corr : Nat) (u : State) : State :=
  (cisRead (upset u { bad := poisonedBy r a, corr := corr }) scanAccess a n).1

theorem checkRead_cistern (h : checkSpace u e = 1) :
    ∃ k, checkRead e a n r corr u = some
      (if (cisRead (upset u { bad := poisonedBy r a, corr := corr }) scanAccess a n).2 then .ok (cisBytes (scanReadCis a n r corr u) a n)
        else .error (4, k), scanReadCis a n r corr u) := by
  unfold checkRead
  rw [h]
  exact ⟨_, rfl⟩

theorem scanReadCis_frame : Frame [.intc, .cistern, .regs] u (scanReadCis a n r corr u) :=
  cisRead_frame.andThen (by decide) (upset_frame.weaken (by decide))

theorem rd_scanReadCis_low {k : Nat} (h : k < 0x300000) : rd (scanReadCis a n r corr u) k = rd u k :=
  (rd_cisRead_low _ _ _ _ h).trans (rd_upset_low _ _ h)

/-- A read that brings no uncorrectable word leaves the cistern. -/
theorem scanReadCis_cistern (h : ∀ b, r ≠ .poisoned b) : (scanReadCis a n r corr u).cistern = u.cistern := by
  have hbad : poisonedBy r a = [] := by
    cases r with
    | poisoned b => exact absurd rfl (h b)
    | _ => rfl
  rw [scanReadCis, cisRead_frame.cistern_eq rfl, hbad]
  unfold upset
  rw [bumpBy_frame.cistern_eq rfl]
  rfl

theorem checkRead_cistern_good (h : checkSpace u e = 1) (hn : 0 < n) (hp : ¬beatPoisoned r a n u) :
    checkRead e a n r corr u = some (.ok (cisBytes u a n), scanReadCis a n r corr u) := by
  obtain ⟨k, hk⟩ := checkRead_cistern (a := a) (n := n) (r := r) (corr := corr) h
  have hcis : (scanReadCis a n r corr u).cistern = u.cistern := scanReadCis_cistern fun b hb => hp (Or.inl ⟨b, hb⟩)
  rw [hk, if_pos ((cisRead_good _ _ _ _).2 (mt (upset_poisonedBy r a n corr u hn).1 hp)), cisBytes_congr (congrArg Cistern.mem hcis)]

theorem checkRead_cistern_bad (h : checkSpace u e = 1) (hn : 0 < n) (hp : beatPoisoned r a n u) :
    ∃ k, checkRead e a n r corr u = some (.error (4, k), scanReadCis a n r corr u) := by
  obtain ⟨k, hk⟩ := checkRead_cistern (a := a) (n := n) (r := r) (corr := corr) h
  exact ⟨k, by rw [hk, if_neg (mt (cisRead_good _ _ _ _).1 (not_not.2 ((upset_poisonedBy r a n corr u hn).2 hp)))]⟩

/-- The channel after a scan has asked for a read of it. -/
def scanReadRes (e a n corr : Nat) (u : State) : State :=
  bumpBy (access u { res := true, addr := checkChan u e * 2 ^ 35 + a, bytes := n }) (R.BUFFER_RES_CH_CORR (checkChan u e)) corr

theorem scanReadRes_frame : Frame [.regs] u (scanReadRes e a n corr u) := access_frame.trans bumpBy_frame

theorem rd_scanReadRes_low {k : Nat} (h : k < 0x300000) : rd (scanReadRes e a n corr u) k = rd u k := by
  have hne : k ≠ R.BUFFER_RES_CH_CORR (checkChan u e) := by unfold R.BUFFER_RES_CH_CORR; omega
  rw [scanReadRes, rd_bumpBy_ne _ _ hne, rd_access_low _ _ h]

theorem checkRead_res_good (h : 2 ≤ checkSpace u e) (hp : resPoison u (checkChan u e) a n = false) {c : Bytes} (hc : c.length = n) :
    checkRead e a n (.ok c) corr u = some (.ok (resBytes u (checkChan u e) a c), scanReadRes e a n corr u) := by
  unfold checkRead
  split
  next h0 => omega
  next h1 => omega
  next =>
    dsimp only
    rw [hp]
    exact (if_neg (by decide)).trans (if_pos hc)

theorem checkRead_res_bad (h : 2 ≤ checkSpace u e) (hp : resPoison u (checkChan u e) a n = true ∨ ∀ b, r ≠ .ok b) :
    ∃ k, checkRead e a n r corr u = some (.error (5, k), bump (scanReadRes e a n corr u) (R.BUFFER_RES_CH_UNCORR (checkChan u e))) := by
  unfold checkRead
  split
  next h0 => omega
  next h1 => omega
  next =>
    refine ⟨_, if_pos ?_⟩
    cases r with
    | ok b =>
      rcases hp with hp | hp
      · dsimp only
        rw [hp]
        rfl
      · exact absurd rfl (hp b)
    | _ => rfl

end

/-! ### A beat that has come back -/

/-- What the bytes of a read do: the stored value is compared, or the beat is folded in. -/
def scanTaken (s : State) (e : Nat) (b : Bytes) (v : State) : State :=
  if checkLen s e ≤ (scan s e).off then checkDone e (BitVec.ofNat 64 (if rbit s (R.CHECK_CTL e) 4 then leNat b else beNat b)) v
  else checkFold e b v

/-- The offset that a failure records. -/
def scanErrAt (s : State) (e : Nat) : Nat := if checkLen s e ≤ (scan s e).off then checkLen s e else (scan s e).off

section
variable {s u v : State} {e : Nat} {r : Reply} {corr : Nat}

theorem checkBeat1_ok {b : Bytes} (h : checkRead e (scanAt u e) (scanLen u e) r corr u = some (.ok b, v)) :
    checkBeat1 e r corr u = scanTaken u e b v := by
  unfold checkBeat1 scanTaken
  dsimp only
  rw [h]
  simp only [decide_eq_true_eq]

theorem checkBeat1_failed {f : Nat × Nat} (h : checkRead e (scanAt u e) (scanLen u e) r corr u = some (.error f, v)) :
    checkBeat1 e r corr u = checkReadFail e (scanErrAt u e) f v := by
  unfold checkBeat1 scanErrAt
  dsimp only
  rw [h]
  simp only [decide_eq_true_eq]

theorem scanTaken_congr (h : u.regs = s.regs) (hs : u.scans = s.scans) (b : Bytes) : scanTaken u e b v = scanTaken s e b v := by
  unfold scanTaken checkLen
  rw [rd64_congr h, scan_congr hs, rbit_congr h]

theorem scanErrAt_congr (h : u.regs = s.regs) (hs : u.scans = s.scans) : scanErrAt u e = scanErrAt s e := by
  unfold scanErrAt checkLen
  rw [rd64_congr h, scan_congr hs]

variable (ho : ScanOut s u e)
include ho

theorem ScanOut.read (hF : Frame [.intc, .cistern, .regs] u v) (hlow : ∀ a, a < 0x300000 → rd v a = rd u a) : ScanIn s v e := by
  refine ⟨(ho.frame.weaken rfl).trans (hF.weaken rfl), fun a ha => (hlow a ha).trans (rd_congr (ho.frame.regs_eq rfl) a), ?_⟩
  unfold ScanIssued
  rw [hF.wire_eq rfl, hF.turns_eq rfl]
  exact ho.issued

/-- Bytes have come. -/
theorem ScanOut.good {b : Bytes} (h : ScanGood s e r b) :
    ∃ v, checkBeat1 e r corr u = scanTaken s e b v ∧ ScanIn s v e ∧ v.cistern = s.cistern := by
  have hregs : u.regs = s.regs := ho.frame.regs_eq rfl
  have hscans : u.scans = s.scans := ho.frame.scans_eq rfl
  have hcis : u.cistern = s.cistern := ho.frame.cistern_eq rfl
  have hsp : checkSpace u e = checkSpace s e := checkSpace_congr hregs
  have hat : scanAt u e = scanAt s e := scanAt_congr hregs hscans
  have hlen : scanLen u e = scanLen s e := scanLen_congr hregs hscans
  have hch : checkChan u e = checkChan s e := rfld_congr hregs ..
  rcases h with ⟨h0, rfl, hb⟩ | ⟨h1, hp, rfl⟩ | ⟨h2, hp, c, rfl, hc, rfl⟩
  · refine ⟨u, ?_, ho.read Frame.refl fun _ _ => rfl, hcis⟩
    rw [checkBeat1_ok (checkRead_host_good (hsp.trans h0) (hb.trans hlen.symm)), scanTaken_congr hregs hscans]
  · have hp' : ¬beatPoisoned r (scanAt u e) (scanLen u e) u := by
      unfold beatPoisoned
      rw [hcis, hat, hlen]
      exact hp
    refine ⟨_, ?_, ho.read scanReadCis_frame fun a ha => rd_scanReadCis_low ha,
      (scanReadCis_cistern (corr := corr) (a := scanAt u e) (n := scanLen u e) fun b hb => hp (Or.inl ⟨b, hb⟩)).trans hcis⟩
    rw [checkBeat1_ok (checkRead_cistern_good (hsp.trans h1) (by rw [hlen]; exact scanLen_pos s e) hp'), scanTaken_congr hregs hscans, hat, hlen,
      cisBytes_congr (congrArg Cistern.mem hcis)]
  · have hres : u.res = s.res := ho.frame.res_eq rfl
    have hp' : resPoison u (checkChan u e) (scanAt u e) (scanLen u e) = false := by
      unfold resPoison
      rw [hres, hch, hat, hlen]
      exact hp
    have hbytes : resBytes u (checkChan u e) (scanAt u e) c = resBytes s (checkChan s e) (scanAt s e) c := by
      unfold resBytes
      rw [hres, hch, hat]
    refine ⟨scanReadRes e (scanAt u e) (scanLen u e) corr u, ?_, ho.read (scanReadRes_frame.weaken rfl) fun a ha => rd_scanReadRes_low ha,
      (scanReadRes_frame.cistern_eq rfl).trans hcis⟩
    rw [checkBeat1_ok (checkRead_res_good (by rw [hsp]; exact h2) hp' (hc.trans hlen.symm)), scanTaken_congr hregs hscans, hbytes]

/-- The read has failed. -/
theorem ScanOut.bad {code : Nat} (h : ScanBad s e r code) :
    ∃ v k, checkBeat1 e r corr u = checkReadFail e (scanErrAt s e) (code, k) v ∧ ScanIn s v e := by
  have hregs : u.regs = s.regs := ho.frame.regs_eq rfl
  have hscans : u.scans = s.scans := ho.frame.scans_eq rfl
  have hcis : u.cistern = s.cistern := ho.frame.cistern_eq rfl
  have hsp : checkSpace u e = checkSpace s e := checkSpace_congr hregs
  have hat : scanAt u e = scanAt s e := scanAt_congr hregs hscans
  have hlen : scanLen u e = scanLen s e := scanLen_congr hregs hscans
  have hch : checkChan u e = checkChan s e := rfld_congr hregs ..
  rw [← scanErrAt_congr hregs hscans]
  have hsame : ScanIn s u e := ho.read Frame.refl fun _ _ => rfl
  rcases h with ⟨h0, h⟩ | ⟨h1, hp, hn, rfl⟩ | ⟨h2, hp, rfl⟩
  · obtain ⟨hto, hfailed, hpois⟩ := checkRead_host_bad (a := scanAt u e) (n := scanLen u e) (corr := corr) (hsp.trans h0)
    rcases h with ⟨rfl, _, rfl⟩ | ⟨rfl, rfl⟩ | ⟨⟨b, rfl⟩, rfl⟩
    · exact ⟨u, _, checkBeat1_failed hto, hsame⟩
    · exact ⟨u, _, checkBeat1_failed hfailed, hsame⟩
    · exact ⟨u, _, checkBeat1_failed (hpois b), hsame⟩
  · have hp' : beatPoisoned r (scanAt u e) (scanLen u e) u := by
      unfold beatPoisoned
      rw [hcis, hat, hlen]
      exact hp
    obtain ⟨k, hk⟩ := checkRead_cistern_bad (corr := corr) (hsp.trans h1) (scanLen_pos u e) hp'
    exact ⟨_, k, checkBeat1_failed hk, ho.read scanReadCis_frame fun a ha => rd_scanReadCis_low ha⟩
  · have hres : u.res = s.res := ho.frame.res_eq rfl
    have hp' : resPoison u (checkChan u e) (scanAt u e) (scanLen u e) = true ∨ ∀ b, r ≠ .ok b := by
      unfold resPoison
      rw [hres, hch, hat, hlen]
      exact hp
    obtain ⟨k, hk⟩ := checkRead_res_bad (corr := corr) (by rw [hsp]; exact h2) hp'
    refine ⟨_, k, checkBeat1_failed hk, ho.read ((scanReadRes_frame.trans bump_frame).weaken rfl) fun a ha => ?_⟩
    have hne : a ≠ R.BUFFER_RES_CH_UNCORR (checkChan u e) := by unfold R.BUFFER_RES_CH_UNCORR; omega
    rw [rd_bump_ne _ hne, rd_scanReadRes_low ha]

end

/-! ### The settings of an engine -/

section
variable {s v : State} {e : Nat} (h : ∀ a, a < 0x300000 → rd v a = rd s a) (he : e < 4)
include h he

theorem low_checkCtl : rd v (R.CHECK_CTL e) = rd s (R.CHECK_CTL e) := h _ (by unfold R.CHECK_CTL; omega)

theorem low_checkPoly : checkPoly v e = checkPoly s e := by
  unfold checkPoly rfld; rw [low_checkCtl h he]

theorem low_checkCmp : checkCmp v e = checkCmp s e := by
  unfold checkCmp rfld; rw [low_checkCtl h he]

theorem low_checkLen : checkLen v e = checkLen s e := by
  unfold checkLen
  rw [rd64_of_rd (h _ (by unfold R.CHECK_LEN; omega)) (h _ (by unfold R.CHECK_LEN; omega))]

end

/-! ### The issue of a read (13 R717, 01 R39) -/

section
variable {s : State} {e : Nat} {r : Reply} {corr : Nat}

/-- What keeps a scan from reading. -/
def ScanShut (s : State) (e : Nat) : Prop :=
  (checkSpace s e = 0 ∧ (scanReady s e = false ∨ barred s .link (2 + e) (linkWaits s) = true)) ∨
    (checkSpace s e = 1 ∧ barredAt s (72 + e) (scanBanks s e) = true) ∨ (2 ≤ checkSpace s e ∧ chanShut s (checkChan s e) = true)

theorem checkBeatEff_shut (h : ScanShut s e) : checkBeatEff e r corr s = s := by
  unfold checkBeatEff
  split
  · rfl
  next hc =>
    unfold checkIssue
    rcases h with ⟨h0, h⟩ | ⟨h1, h⟩ | ⟨h2, h⟩
    · rw [h0]
      rcases h with h | h
      · exact if_neg (by rw [h]; simp)
      · refine Eq.trans (b := if scanReady s e && scanFits s e r then onLink (2 + e) _ s else s) rfl ?_
        rw [onLink_barred h, ite_self]
    · rw [h1]
      exact if_pos h
    · exact absurd (by rw [decide_eq_true h2, h]; simp) hc

/-- The read of the host has been put out. -/
def scanAsked (e : Nat) (s : State) : State :=
  hostRd (linked (2 + e) s) (BitVec.ofNat 64 (scanAt (linked (2 + e) s) e)) (scanLen (linked (2 + e) s) e)

theorem scanAsked_out (h : checkSpace s e = 0) : ScanOut s (scanAsked e s) e := by
  have hl : Frame [.turns] s (linked (2 + e) s) := linked_frame
  refine ⟨(hl.weaken rfl).trans (hostRd_frame.weaken rfl), fun _ => ⟨?_, fun j hj hne hw => ?_⟩, fun h' => absurd h h'⟩
  · rw [scanAsked, hostRd_wire_congr (hl.wire_eq rfl) (hl.host_eq rfl), scanAt_congr (hl.regs_eq rfl) (hl.scans_eq rfl),
      scanLen_congr (hl.regs_eq rfl) (hl.scans_eq rfl)]
  · rw [scanAsked, hostRd_frame.turns_eq rfl]
    exact linked_loses s hj hne hw

theorem ScanOut.noteError {u : State} (h : ScanOut s u e) (i : Nat) : ScanOut s (noteError u i) e :=
  ⟨h.frame.trans (noteError_frame.weaken rfl), h.issued⟩

theorem checkBeatEff_host (hb : (scan s e).busy = true) (h0 : checkSpace s e = 0) (hs : ¬ScanShut s e) (hf : scanFits s e r = true) :
    checkBeatEff e r corr s =
      answered r (fun u => hostRd u (BitVec.ofNat 64 (scanAt u e)) (scanLen u e)) (checkBeat1 e r corr) (scanHangs e) (linked (2 + e) s) := by
  have hready : scanReady s e = true := by
    by_contra hn
    exact hs (Or.inl ⟨h0, Or.inl (Bool.not_eq_true _ ▸ hn)⟩)
  have hbar : barred s .link (2 + e) (linkWaits s) = false := by
    by_contra hn
    exact hs (Or.inl ⟨h0, Or.inr (Bool.not_eq_false _ ▸ hn)⟩)
  refine (if_neg (by rw [hb, h0]; simp)).trans ?_
  unfold checkIssue
  rw [h0]
  exact (if_pos (by rw [hready, hf]; rfl)).trans (onLink_open hbar _)

/-- Of the cistern or a channel the read is answered at once. -/
theorem checkBeatEff_near (hb : (scan s e).busy = true) (h0 : checkSpace s e ≠ 0) (hs : ¬ScanShut s e) :
    ∃ u, checkBeatEff e r corr s = checkBeat1 e r corr u ∧ ScanOut s u e := by
  have hopen : ¬(!(scan s e).busy || (decide (2 ≤ checkSpace s e) && chanShut s (checkChan s e))) = true := by
    rw [hb]
    intro hc
    have hc : 2 ≤ checkSpace s e ∧ chanShut s (checkChan s e) = true := by simpa using hc
    exact hs (Or.inr (Or.inr hc))
  have heff : checkBeatEff e r corr s = checkIssue e r corr s := if_neg hopen
  rw [heff]
  unfold checkIssue
  split
  next h => exact absurd h h0
  next h1 =>
    have hbar : ¬barredAt s (72 + e) (scanBanks s e) = true := fun h => hs (Or.inr (Or.inl ⟨h1, h⟩))
    exact ⟨_, if_neg hbar, takeBanks_frame.weaken rfl, fun h => absurd h h0, fun _ => takeBanks_frame.wire_eq rfl⟩
  next => exact ⟨s, rfl, Frame.refl, fun h => absurd h h0, fun _ => rfl⟩

/-- A scan whose read brings bytes. -/
theorem scan_good {b : Bytes} (hb : (scan s e).busy = true) (hs : ¬ScanShut s e) (h : ScanGood s e r b) :
    ∃ v, checkBeatEff e r corr s = scanTaken s e b v ∧ ScanIn s v e ∧ v.cistern = s.cistern := by
  by_cases h0 : checkSpace s e = 0
  · have hr : r = .ok b ∧ b.length = scanLen s e := by
      rcases h with ⟨_, h⟩ | ⟨h1, _⟩ | ⟨h2, _⟩
      · exact h
      · omega
      · omega
    have hfit : scanFits s e r = true := by
      rw [hr.1]
      exact beq_iff_eq.2 hr.2
    obtain ⟨v, hv⟩ := (scanAsked_out h0).good (corr := corr) h
    refine ⟨v, ?_, hv.2⟩
    rw [checkBeatEff_host hb h0 hs hfit, hr.1, answered_ok, ← hr.1]
    exact hv.1
  · obtain ⟨u, hu, hout⟩ := checkBeatEff_near (r := r) (corr := corr) hb h0 hs
    rw [hu]
    exact hout.good h

/-- A scan whose read fails. -/
theorem scan_bad {code : Nat} (hb : (scan s e).busy = true) (hs : ¬ScanShut s e) (h : ScanBad s e r code) :
    ∃ v k, checkBeatEff e r corr s = checkReadFail e (scanErrAt s e) (code, k) v ∧ ScanIn s v e := by
  by_cases h0 : checkSpace s e = 0
  · have hr : (r = .timedOut ∧ bit s.host.cfg.ctl2 4 = false) ∨ r = .failed ∨ ∃ b, r = .poisoned b := by
      rcases h with ⟨_, h⟩ | ⟨h1, _⟩ | ⟨h2, _⟩
      · rcases h with ⟨h, h', _⟩ | ⟨h, _⟩ | ⟨h, _⟩
        · exact Or.inl ⟨h, h'⟩
        · exact Or.inr (Or.inl h)
        · exact Or.inr (Or.inr h)
      · omega
      · omega
    have hout := scanAsked_out h0
    rcases hr with ⟨rfl, hbit⟩ | rfl | ⟨b, rfl⟩
    · rw [checkBeatEff_host hb h0 hs rfl, answered_timedOut _ (by rw [linked_frame.host_eq rfl]; exact hbit)]
      exact (hout.noteError 14).bad h
    · rw [checkBeatEff_host hb h0 hs rfl, answered_failed]
      exact hout.bad h
    · rw [checkBeatEff_host hb h0 hs rfl, answered_poisoned]
      exact (hout.noteError 12).bad h
  · obtain ⟨u, hu, hout⟩ := checkBeatEff_near (r := r) (corr := corr) hb h0 hs
    rw [hu]
    exact hout.bad h

end

/-! ### The other engines -/

section
variable {s : State} {e j : Nat}

theorem scan_checkGo_ne (h : j ≠ e) : scan (checkGo e s) j = scan s j := by
  have hset : scan (setScan (scanCleared s e) e (freshScan s e)) j = scan s j := by
    rw [scan_setScan_ne _ _ _ h, scan_congr (scanCleared_frame.scans_eq rfl)]
  by_cases hl : checkLen s e = 0
  · rw [checkGo_empty hl, scan_checkRangeEnd_ne h, hset]
  · rw [checkGo_runs hl, hset]

theorem scan_checkCtlEff_ne (h : j ≠ e) (v : Word) : scan (checkCtlEff e v s) j = scan s j := by
  unfold checkCtlEff
  split
  · split
    · exact scan_congr (fault_frame.scans_eq rfl) j
    · split
      · exact scan_checkFail_ne _ _ _ h
      · rfl
  · split
    · rfl
    · dsimp only
      split
      · exact scan_congr (wrField_frame.scans_eq rfl) j
      · split
        · rw [scan_checkFail_ne _ _ _ h, scan_congr (fault_frame.scans_eq rfl), scan_congr (wrField_frame.scans_eq rfl)]
        · rw [scan_checkGo_ne h, scan_congr (wrField_frame.scans_eq rfl)]

end

/-! ### What the bytes of a beat leave (13 R703, R706, R709, R710) -/

section
variable {s v t : State} {e : Nat} {b : Bytes} (hin : ScanIn s v e) (he : e < 4)

theorem ScanIn.scan (hin : ScanIn s v e) : scan v e = scan s e := scan_congr (hin.frame.scans_eq rfl) e

/-- The scan after a beat of the range. -/
def foldedScan (s : State) (e : Nat) (b : Bytes) : Scan :=
  { Machine.scan s e with crc := polyRun (checkPoly s e) (Machine.scan s e).crc b, off := (Machine.scan s e).off + b.length }

/-- The beat has been folded in. -/
def folded (e : Nat) (b : Bytes) (v : State) : State := setScan v e (foldedScan v e b)

theorem checkFold_more (h : (Machine.scan v e).off + b.length ≠ checkLen v e) : checkFold e b v = folded e b v := if_neg h

theorem checkFold_last (h : (Machine.scan v e).off + b.length = checkLen v e) : checkFold e b v = checkRangeEnd e (folded e b v) := if_pos h

theorem scan_folded : Machine.scan (folded e b v) e = foldedScan v e b := scan_setScan_same ..

include hin he in
theorem foldedScan_in : foldedScan v e b = foldedScan s e b := by
  unfold foldedScan
  rw [hin.scan, low_checkPoly hin.low he]

include hin in
theorem folded_low : ∀ a, a < 0x300000 → rd (folded e b v) a = rd s a := fun a ha => (rd_congr (setScan_regs ..) a).trans (hin.low a ha)

/-- The outputs and turns of a read stay while the engine works on its bytes. -/
theorem ScanIn.issued_of {l : List Field} (hin : ScanIn s v e) (hF : Frame l v t) (hw : Field.wire.isIn l = false)
    (ht : Field.turns.isIn l = false) : ScanIssued s t e := by
  unfold ScanIssued
  rw [hF.wire_eq hw, hF.turns_eq ht]
  exact hin.issued

theorem ScanOut.issued_of {u : State} {l : List Field} (ho : ScanOut s u e) (hF : Frame l u t) (hw : Field.wire.isIn l = false)
    (ht : Field.turns.isIn l = false) : ScanIssued s t e := by
  unfold ScanIssued
  rw [hF.wire_eq hw, hF.turns_eq ht]
  exact ho.issued

/-- What a failed scan leaves in STATE. -/
theorem failed_state (st : Word) {k : Nat} (hk : k < 9) :
    fld ((st &&& 0x40000000) ||| pack [(30, 1), (29, 1), (0, k)]) 0 5 = k ∧
      bit ((st &&& 0x40000000) ||| pack [(30, 1), (29, 1), (0, k)]) 29 = true := by
  have h : ∀ k < 9, fld (pack [(30, 1), (29, 1), (0, k)]) 0 5 = k ∧ bit (pack [(30, 1), (29, 1), (0, k)]) 29 = true := by decide
  rw [show (st &&& 0x40000000) ||| pack [(30, 1), (29, 1), (0, k)] = pack [(30, 1), (29, 1), (0, k)] from endState_some st k]
  exact h k hk

include hin he in
/-- A failed read ends the scan with its code, its offset and a record. -/
theorem ScanIn.failed {code k off : Nat} (hk : code < 9) (hF : Frame [.intc] (checkReadFail e off (code, k) v) t) :
    Machine.scan t e = {} ∧ fld (rd t (R.CHECK_STATE e)) 0 5 = code ∧ rbit t (R.CHECK_STATE e) 29 = true ∧
      rd64 t (R.CHECK_ERR_OFFSET e) = BitVec.ofNat 64 off ∧ recorded s t .check code := by
  have hb : Block.check.base = 0x180F00 := rfl
  have hs0 : Block.check.base ≠ R.CHECK_STATE e := by rw [hb]; unfold R.CHECK_STATE; omega
  have hs4 : Block.check.base + 4 ≠ R.CHECK_STATE e := by rw [hb]; unfold R.CHECK_STATE; omega
  have ho0 : R.CHECK_ERR_OFFSET e ≠ R.CHECK_STATE e := by unfold R.CHECK_ERR_OFFSET R.CHECK_STATE; omega
  have ho4 : R.CHECK_ERR_OFFSET e + 4 ≠ R.CHECK_STATE e := by unfold R.CHECK_ERR_OFFSET R.CHECK_STATE; omega
  have hout : R.CHECK_ERR_OFFSET e + 4 < Block.check.base := by rw [hb]; unfold R.CHECK_ERR_OFFSET; omega
  have hr0 : Block.check.base + 4 ≠ R.CHECK_ERR_OFFSET e := by omega
  have hr4 : Block.check.base + 4 ≠ R.CHECK_ERR_OFFSET e + 4 := by omega
  unfold checkReadFail at hF
  dsimp only at hF
  generalize hw : fault (wr64 v (R.CHECK_ERR_OFFSET e) (BitVec.ofNat 64 off)) .check code e (BitVec.ofNat 64 k) = w at hF
  have hstate := (rd_congr (hF.regs_eq rfl) (R.CHECK_STATE e)).trans (rd_checkFail_state e w code)
  obtain ⟨hcode, h29⟩ := failed_state (rd w (R.CHECK_STATE e)) hk
  have hrd {a : Nat} (hne : a ≠ R.CHECK_STATE e) : rd t a = rd w a := (rd_congr (hF.regs_eq rfl) a).trans (rd_checkFail_ne e w code hne)
  refine ⟨(scan_congr (hF.scans_eq rfl) e).trans (scan_checkFail e w code), by rw [hstate, hcode], ?_, ?_, ?_⟩
  · unfold rbit
    rw [hstate, h29]
  · rw [rd64_of_rd (hrd ho0) (hrd ho4), ← hw, rd64_of_rd (rd_fault_out _ _ _ _ _ (Or.inl (by omega))) (rd_fault_out _ _ _ _ _ (Or.inl hout)),
      rd64_wr64_same]
  · refine recorded_of_rd (hrd hs0) (hrd hs4) (recorded_fault_after (by omega) ?_ (congrArg State.regs hw.symm))
    rw [rd_wr64_ne _ _ hr0 hr4]
    exact hin.low _ (by rw [hb]; omega)

theorem scanTaken_frame : Frame [.scans, .regs] v (scanTaken s e b v) := by
  unfold scanTaken
  split
  · exact checkDone_frame
  · exact checkFold_frame

end

end Sys2Proof.Machine

open Sys2Proof Sys2Proof.Machine

/-- Settles O52: a start and an abort by the state of the engine, a beat by the answer of its read. -/
theorem scanRules : Obligations.ScanRules := by
  unfold Obligations.ScanRules
  refine ⟨fun s e v hb => ?_, fun s e reply corr hr hbusy hns => ?_⟩
  · intro w s1 p begin_
    have hbase : Block.check.base = 0x180F00 := rfl
    have he : e.val < 4 := e.isLt
    refine ⟨?_, ?_⟩
    · obtain ⟨t, ht, hF⟩ := viaBar_frame hb (checkCtlEff e (v ||| 0x80000000))
      have hall : Frame [.intc, .scans, .regs] s t := checkCtlEff_frame.trans (hF.weaken rfl)
      have hs4 : Block.check.base + 4 ≠ R.CHECK_STATE e := by rw [hbase]; unfold R.CHECK_STATE; omega
      have hs0 : Block.check.base ≠ R.CHECK_STATE e := by rw [hbase]; unfold R.CHECK_STATE; omega
      have hc4 : Block.check.base + 4 ≠ R.CHECK_CTL e := by rw [hbase]; unfold R.CHECK_CTL; omega
      have hlen : checkLen (checkWritten s e v) e = checkLen s e := by
        unfold checkLen
        rw [rd64_of_rd (rd_checkWritten_ne (by unfold R.CHECK_LEN R.CHECK_CTL; omega)) (rd_checkWritten_ne (by unfold R.CHECK_LEN R.CHECK_CTL; omega))]
      have hpoly : checkPoly (checkWritten s e v) e = p := fld_checkWritten (by decide) (by decide)
      have hcmp : checkCmp (checkWritten s e v) e = fld v 8 2 := fld_checkWritten (by decide) (by decide)
      have hfresh : freshScan (checkWritten s e v) e = { busy := true, crc := begin_ } := freshScan_written
      refine ⟨t, ht, hall.eq_of fun f => by cases f <;> rfl, fun n hn => ?_, fun hbusy => ?_, fun hidle hbad => ?_, fun hidle hgood hl => ?_,
        fun hidle hgood hl hc => ?_⟩
      · rw [scan_congr (hF.scans_eq rfl), scan_checkCtlEff_ne hn]
      · rw [checkStart_busy hbusy] at hF
        exact ⟨(scan_congr (hF.scans_eq rfl) e).trans (scan_congr (fault_frame.scans_eq rfl) e), recorded_fault_after (by decide) rfl (hF.regs_eq rfl),
          (regsOnly_fault _ _ _ _ _).andIntc hF⟩
      · rw [checkStart_idle hidle, if_pos (show checkBadParam (checkWritten s e v) e = true from hbad)] at hF
        have hrd {a : Nat} (hne : a ≠ R.CHECK_STATE e) := (rd_congr (hF.regs_eq rfl) a).trans (rd_checkFail_ne _ _ 6 hne)
        refine ⟨(scan_congr (hF.scans_eq rfl) e).trans (scan_checkFail ..), ?_,
          recorded_of_rd (hrd hs0) (hrd hs4) (recorded_fault_after (by decide) (rd_checkWritten_ne hc4) rfl)⟩
        rw [rd_congr (hF.regs_eq rfl), rd_checkFail_state]
        exact (failed_state _ (by decide)).1
      · rw [checkStart_idle hidle, if_neg (Bool.eq_false_iff.1 (show checkBadParam (checkWritten s e v) e = false from hgood)), checkGo_runs (by rw [← hlen] at hl; exact hl)] at hF
        obtain ⟨h1, h2, h3⟩ := rd64_scanCleared (s := (checkWritten s e v)) (e := e)
        have hregs : t.regs = (scanCleared (checkWritten s e v) e).regs := (hF.regs_eq rfl).trans (setScan_regs ..)
        refine ⟨(rd_congr hregs _).trans rd_scanCleared_state, (rd64_congr hregs _).trans h1, (rd64_congr hregs _).trans h2,
          (rd64_congr hregs _).trans h3, ?_⟩
        rw [scan_congr (hF.scans_eq rfl), scan_setScan_same]
        exact hfresh
      · have hlow {a : Nat} (ha : a < R.CHECK_STATE e) : rd (setScan (scanCleared (checkWritten s e v) e) e (freshScan (checkWritten s e v) e)) a = rd (checkWritten s e v) a :=
          (rd_congr (setScan_regs ..) a).trans (rd_scanCleared_low ha)
        have hctl : rd (setScan (scanCleared (checkWritten s e v) e) e (freshScan (checkWritten s e v) e)) (R.CHECK_CTL e) = rd (checkWritten s e v) (R.CHECK_CTL e) :=
          hlow (by unfold R.CHECK_CTL R.CHECK_STATE; omega)
        have hcmp' : checkCmp (setScan (scanCleared (checkWritten s e v) e) e (freshScan (checkWritten s e v) e)) e = 0 := by
          unfold checkCmp rfld
          rw [hctl]
          exact hcmp.trans hc
        have hpoly' : checkPoly (setScan (scanCleared (checkWritten s e v) e) e (freshScan (checkWritten s e v) e)) e = p := by
          unfold checkPoly rfld
          rw [hctl]
          exact hpoly
        rw [checkStart_idle hidle, if_neg (Bool.eq_false_iff.1 (show checkBadParam (checkWritten s e v) e = false from hgood)), checkGo_empty (hlen.trans hl)] at hF
        replace hF : Frame [.intc] (checkRangeEnd e (setScan (scanCleared (checkWritten s e v) e) e (freshScan (checkWritten s e v) e))) t := hF
        rw [checkRangeEnd_plain hcmp'] at hF
        obtain ⟨hscan, hstate, hcomp⟩ := checkDone_computed hcmp' hF
        exact ⟨hscan, hstate, by rw [hcomp, hpoly', scan_setScan_same, hfresh]⟩
    · obtain ⟨t, ht, hF⟩ := viaBar_frame hb (checkCtlEff e ((v ||| 0x40000000) &&& 0x7FFFFFFF))
      have hall : Frame [.intc, .scans, .regs] s t := checkCtlEff_frame.trans (hF.weaken rfl)
      refine ⟨t, ht, hall.eq_of fun f => by cases f <;> rfl, fun n hn => ?_, fun hbusy hh => ?_, fun h => ?_⟩
      · rw [scan_congr (hF.scans_eq rfl), scan_checkCtlEff_ne hn]
      · rw [checkAbort_busy hbusy hh] at hF
        refine ⟨(scan_congr (hF.scans_eq rfl) e).trans (scan_checkFail ..), ?_, fun a ha => ?_⟩
        · rw [rd_congr (hF.regs_eq rfl), rd_checkFail_state]
          rfl
        · rw [rd_congr (hF.regs_eq rfl), rd_checkFail_ne _ _ _ ha]
      · rw [checkAbort_waits h] at hF
        exact hF.intcOnly
  · intro shut x p len stored src n poisoned reads issued
    have he : e.val < 4 := e.isLt
    refine ⟨fun hshut => ?_, fun hopen => ⟨fun b hreads => ?_, fun code hcode => ?_, fun h0 hto hbit => ?_⟩⟩
    · obtain ⟨t, ht, hF⟩ := viaCore_frame hr (onReply reply (checkBeatEff e reply corr))
      rw [onReply_answer hns, checkBeatEff_shut hshut] at hF
      exact ⟨t, ht, hF.intcOnly⟩
    · obtain ⟨v, heff, hin, hcis⟩ := scan_good (corr := corr) hbusy hopen (r := reply) (b := b) hreads
      obtain ⟨t, ht, hF⟩ := viaCore_frame hr (onReply reply (checkBeatEff e reply corr))
      rw [onReply_answer hns, heff] at hF
      have hvt : Frame [.scans, .regs, .intc] v t := (scanTaken_frame.weaken rfl).trans (hF.weaken rfl)
      have hx : scan v e = x := hin.scan
      have hlen : checkLen v e = len := low_checkLen hin.low he
      have hfold : foldedScan v e b = { x with crc := polyRun p x.crc b, off := x.off + b.length } := foldedScan_in hin he
      have hlow := folded_low (b := b) hin
      have hcmpF : checkCmp (folded e b v) e = checkCmp s e := low_checkCmp hlow he
      have hpolyF : checkPoly (folded e b v) e = p := low_checkPoly hlow he
      refine ⟨t, ht, (hvt.cistern_eq rfl).trans hcis, hin.issued_of hvt rfl rfl, fun hst hlt => ?_, fun hst hend hcmp => ?_,
        fun hst hend hcmp => ?_, fun hst hend hcmp => ?_, fun hst hcmp => ?_⟩
      · rw [scanTaken, if_neg hst, checkFold_more (by rw [hx, hlen]; exact Nat.ne_of_lt hlt)] at hF
        rw [scan_congr (hF.scans_eq rfl), scan_folded, hfold]
      · rw [scanTaken, if_neg hst, checkFold_last (by rw [hx, hlen]; exact hend), checkRangeEnd_plain (hcmpF.trans hcmp)] at hF
        obtain ⟨hscan, hstate, hcomp⟩ := checkDone_computed (hcmpF.trans hcmp) hF
        exact ⟨hscan, hstate, by rw [hcomp, hpolyF, scan_folded, hfold]⟩
      · rw [scanTaken, if_neg hst, checkFold_last (by rw [hx, hlen]; exact hend), checkRangeEnd_expect (hcmpF.trans hcmp)] at hF
        obtain ⟨hscan, hcomp, _, hresult⟩ := checkDone_compared (by rw [hcmpF, hcmp]; decide) hF
        exact ⟨hscan, by rw [hcomp, hpolyF, scan_folded, hfold], hresult⟩
      · rw [scanTaken, if_neg hst, checkFold_last (by rw [hx, hlen]; exact hend), checkRangeEnd_waits (by rw [hcmpF]; exact hcmp)] at hF
        rw [scan_congr (hF.scans_eq rfl), scan_folded, hfold, hend]
      · rw [scanTaken, if_pos hst] at hF
        have hcmpV : checkCmp v e = checkCmp s e := low_checkCmp hin.low he
        obtain ⟨hscan, hcomp, hstored, hresult⟩ := checkDone_compared (by rw [hcmpV, hcmp]; decide) hF
        exact ⟨hscan, by rw [hcomp, low_checkPoly hin.low he, hx], hstored, hresult⟩
    · obtain ⟨v, k, heff, hin⟩ := scan_bad (corr := corr) hbusy hopen (r := reply) (code := code) hcode
      obtain ⟨t, ht, hF⟩ := viaCore_frame hr (onReply reply (checkBeatEff e reply corr))
      rw [onReply_answer hns, heff] at hF
      have hk : code < 9 := by
        rcases hcode with ⟨_, ⟨_, _, h⟩ | ⟨_, h⟩ | ⟨_, h⟩⟩ | ⟨_, _, _, h⟩ | ⟨_, _, h⟩ <;> omega
      exact ⟨t, ht, hin.failed he hk hF⟩
    · subst hto
      obtain ⟨t, ht, hF⟩ := viaCore_frame hr (onReply .timedOut (checkBeatEff e .timedOut corr))
      rw [onReply_answer hns, checkBeatEff_host hbusy h0 hopen rfl, answered_hangs _ (by rw [linked_frame.host_eq rfl]; exact hbit)] at hF
      replace hF : Frame [.intc] (scanHangs e (scanAsked e s)) t := hF
      have hasked : Frame [.wire, .turns] s (scanAsked e s) := (linked_frame.weaken rfl).trans (hostRd_frame.weaken rfl)
      have hut : Frame [.scans, .intc] (scanAsked e s) t := (setScan_frame.weaken rfl).trans (hF.weaken rfl)
      refine ⟨t, ht, (scanAsked_out h0).issued_of hut rfl rfl, ?_,
        ((hasked.weaken (m := [.scans, .turns, .wire, .intc]) rfl).trans (hut.weaken rfl)).eq_of fun f => by cases f <;> rfl⟩
      rw [scan_congr (hF.scans_eq rfl), scanHangs, scan_setScan_same, scan_congr (hasked.scans_eq rfl)]
end

section
/-!
A lane codeword (chapter 03): the lane's lock and place, the FEC counters, the FIFO's overrun, and what the lane then holds.
-/
namespace Sys2Proof.Machine

/-! ### The fault record of the line unit -/

/-- Only the fault record of the line unit may have changed, and no bit of its event register has cleared. -/
structure LineRecords (s t : State) : Prop where
  rd_out : ∀ {a : Nat}, a < Block.line.base ∨ Block.line.base + 0x20 ≤ a → rd t a = rd s a
  bits : ∀ {i : Nat}, i < 32 → rbit s Block.line.base i = true → rbit t Block.line.base i = true

theorem LineRecords.of_regs {s t : State} (h : t.regs = s.regs) : LineRecords s t :=
  ⟨fun _ => rd_congr h _, fun _ hb => (rbit_congr h _ _).trans hb⟩

theorem LineRecords.trans {s t u : State} (h : LineRecords s t) (h' : LineRecords t u) : LineRecords s u :=
  ⟨fun ha => (h'.rd_out ha).trans (h.rd_out ha), fun hi hb => h'.bits hi (h.bits hi hb)⟩

theorem rbit_faultAt_base (s : State) (b : Block) (code inst : Nat) (ident time : DWord) {i : Nat} (hi : i < 32) :
    rbit (faultAt s b code inst ident time) b.base i = (rbit s b.base i || decide (code = i) || decide (31 = i)) := by
  unfold faultAt
  dsimp only
  rw [rbit_capture_base _ _ hi]
  refine congrArg (fun v => (v || _) || _) ?_
  unfold rbit
  rw [rd_bump_ne _ (show b.base ≠ b.base + 4 by omega)]
  rfl

theorem lineRecords_faultAt (s : State) (code inst : Nat) (ident time : DWord) :
    LineRecords s (faultAt s .line code inst ident time) := by
  refine ⟨fun ha => ?_, fun hi hb => ?_⟩
  · unfold faultAt
    dsimp only
    rw [rd_capture_out _ _ ha, rd_bump_ne _ (by omega)]
    rfl
  · rw [rbit_faultAt_base _ _ _ _ _ _ hi, hb]
    rfl

theorem lineRecords_fault (s : State) (code inst : Nat) (ident : DWord) : LineRecords s (fault s .line code inst ident) :=
  lineRecords_faultAt s code inst ident _

theorem rbit_fault_line (s : State) (code inst : Nat) (ident time : DWord) (hc : code < 32) :
    rbit (faultAt s .line code inst ident time) Block.line.base code = true := by
  rw [rbit_faultAt_base _ _ _ _ _ _ hc]
  simp

/-! ### Lock -/

theorem laneLock_gains {x : Lane} {ok : Bool} {pos : Nat} (h : x.locked = false) :
    (laneLock x ok pos).locked = true ↔ ok = true ∧ pos = x.pos ∧ 3 ≤ x.good := by
  unfold laneLock
  dsimp only
  rw [h, if_neg Bool.false_ne_true, decide_eq_true_iff]
  cases ok
  · simp
  · by_cases hp : x.good ≠ 0 ∧ pos = x.pos
    · rw [if_pos rfl, if_pos hp]
      simp only [hp, true_and]
      omega
    · rw [if_pos rfl, if_neg hp]
      refine iff_of_false (by decide) fun ⟨_, he, hg⟩ => hp ⟨by omega, he⟩

theorem laneLock_loses {x : Lane} {ok : Bool} {pos : Nat} (h : x.locked = true) :
    (laneLock x ok pos).locked = false ↔ ok = false ∧ 7 ≤ x.bad := by
  unfold laneLock
  dsimp only
  rw [h, if_pos rfl, decide_eq_false_iff_not]
  cases ok
  · rw [if_neg Bool.false_ne_true]
    simp only [true_and]
    omega
  · rw [if_pos rfl]
    simp

/-! ### The lane's part of a codeword -/

theorem fault_line (s : State) (b : Block) (code inst : Nat) (ident : DWord) : (fault s b code inst ident).line = s.line :=
  fault_frame.line_eq rfl

theorem lineRecords_skewCheck (s : State) : LineRecords s (skewCheck s) := by
  unfold skewCheck
  dsimp only
  split
  · exact (lineRecords_fault s 3 _ _).trans (.of_regs rfl)
  · exact .of_regs rfl

theorem skewCheck_line (s : State) : ∃ k, (skewCheck s).line = { s.line with skewed := k } := by
  unfold skewCheck
  dsimp only
  split
  · exact ⟨_, by rw [fault_line]⟩
  · exact ⟨_, rfl⟩

theorem lineRecords_truncateConvoy (s : State) : LineRecords s (truncateConvoy s) := by
  unfold truncateConvoy
  split
  · have hset : LineRecords s { s with line := { s.line with trunc := true } } := .of_regs rfl
    exact hset.trans (lineRecords_fault _ 5 _ _)
  · exact .of_regs rfl

theorem truncateConvoy_line (s : State) : ∃ c, (truncateConvoy s).line = { s.line with trunc := c } := by
  unfold truncateConvoy
  split
  · exact ⟨true, fault_line ..⟩
  · exact ⟨s.line.trunc, rfl⟩

/-- The lane set to `y`, and a lock that it has lost recorded. -/
def relocked (s : State) (l : Nat) (y : Lane) (x : Lane) : State :=
  if x.locked && !y.locked then fault (setLane s l y) .line 2 l 0 else setLane s l y

theorem relocked_line (s : State) (l : Nat) (y x : Lane) : (relocked s l y x).line = { s.line with lanes := put {} s.line.lanes l y } := by
  unfold relocked
  split
  · exact fault_line ..
  · rfl

theorem lineRecords_relocked (s : State) (l : Nat) (y x : Lane) : LineRecords s (relocked s l y x) := by
  have hset : LineRecords s (setLane s l y) := .of_regs rfl
  unfold relocked
  split
  · exact hset.trans (lineRecords_fault _ 2 _ _)
  · exact hset

theorem relocked_lost (s : State) (l : Nat) {y x : Lane} (hx : x.locked = true) (hy : y.locked = false) :
    rbit (relocked s l y x) Block.line.base 2 = true := by
  unfold relocked
  rw [hx, hy]
  exact rbit_fault_line _ 2 _ _ _ (by decide)

section LaneTake

variable (l : Nat) (b : BitVec 5600) (pos age : Nat) (d : Option Decoded) (s : State)

/-- A codeword counts, moves its lane, and has the skew judged; the convoy in progress may be cut off. -/
theorem laneTake_cases :
    let u := skewCheck (relocked (fecCount d s) l (laneNext (lane s l) b pos (arrival s age) d) (lane s l))
    laneTake l b pos age d s = truncateConvoy u ∨ laneTake l b pos age d s = u :=
  ite_eq_or_eq _ _ _

/-- The lane of the codeword is the next one, and of the rest of the line unit only skew and truncation change. -/
theorem laneTake_line :
    ∃ k c, (laneTake l b pos age d s).line =
      { s.line with lanes := put {} s.line.lanes l (laneNext (lane s l) b pos (arrival s age) d), skewed := k, trunc := c } := by
  obtain ⟨k, hk⟩ := skewCheck_line (relocked (fecCount d s) l (laneNext (lane s l) b pos (arrival s age) d) (lane s l))
  rw [relocked_line, fecCount_frame.line_eq rfl] at hk
  rcases laneTake_cases l b pos age d s with e | e
  · obtain ⟨c, hc⟩ := truncateConvoy_line (skewCheck (relocked (fecCount d s) l (laneNext (lane s l) b pos (arrival s age) d) (lane s l)))
    exact ⟨k, c, by rw [e, hc, hk]⟩
  · exact ⟨k, _, by rw [e, hk]⟩

theorem relocked_laneTake :
    LineRecords (relocked (fecCount d s) l (laneNext (lane s l) b pos (arrival s age) d) (lane s l)) (laneTake l b pos age d s) := by
  rcases laneTake_cases l b pos age d s with e | e
  · rw [e]
    exact (lineRecords_skewCheck _).trans (lineRecords_truncateConvoy _)
  · rw [e]
    exact lineRecords_skewCheck _

end LaneTake

/-! ### What a codeword of a locked lane does -/

theorem dropEnds_drops (l p : Nat) (s : State) :
    (dropEnds l p s).line.drops =
      s.line.drops.map fun d => (d.1, if p % periodCws = 0 ∧ p ≠ d.1 then d.2.filter (· != l) else d.2) := rfl

theorem lineRecords_fifoTake (l p age : Nat) (s : State) : LineRecords s (fifoTake l p age s) := by
  unfold fifoTake
  split
  · exact .of_regs rfl
  · split
    · exact .of_regs rfl
    · split
      · have hset : LineRecords s { s with line := { s.line with drops := some (p / periodCws * periodCws, pins) } } := .of_regs rfl
        exact hset.trans (lineRecords_faultAt ..)
      · exact .of_regs rfl

/-- Of the line unit the FIFO's count and its overrun may change. -/
theorem fifoTake_line (l p age : Nat) (s : State) : ∃ n o, (fifoTake l p age s).line = { s.line with fill := n, drops := o } := by
  unfold fifoTake
  split
  · exact ⟨0, _, rfl⟩
  · split
    · exact ⟨_, _, rfl⟩
    · split
      · exact ⟨_, some (p / periodCws * periodCws, pins), faultAt_frame.line_eq rfl⟩
      · exact ⟨_, _, rfl⟩

theorem fifoTake_free {l p age : Nat} {s : State} (h : lineHeld s = false) : (fifoTake l p age s).line.drops = s.line.drops := by
  unfold fifoTake
  rw [h]
  rfl

theorem fifoTake_overruns {l p age : Nat} {s : State} (hh : lineHeld s = true) (hd : discards s l p = false) (hf : 32768 < s.line.fill + 640) :
    (fifoTake l p age s).line.drops = some (p / periodCws * periodCws, pins) ∧ rbit (fifoTake l p age s) Block.line.base 1 = true := by
  unfold fifoTake
  rw [hh, hd, if_neg (by decide), if_neg (by decide), if_pos hf]
  exact ⟨congrArg Line.drops (faultAt_frame.line_eq rfl), rbit_fault_line _ 1 _ _ _ (by decide)⟩

theorem sampleTc_line (l p age : Nat) (s : State) :
    ∃ a r x y, (sampleTc l p age s).line = { s.line with tcAt := a, tcReach := r, tcA := x, tcB := y } := by
  unfold sampleTc
  dsimp only
  split
  · exact ⟨_, _, _, _, rfl⟩
  · exact ⟨_, _, _, _, rfl⟩

theorem periodChange_line (p : Nat) (s : State) : ∃ f v, (periodChange p s).line = { s.line with found := f, live := v } := by
  unfold periodChange
  dsimp only
  split <;> split
  · exact ⟨_, _, rfl⟩
  · exact ⟨_, _, rfl⟩
  · exact ⟨_, _, rfl⟩
  · exact ⟨_, _, rfl⟩

theorem lineRecords_takeCw (l p age : Nat) (blocks : List (Option Bytes)) (s : State) : LineRecords s (takeCw l p age blocks s) := by
  have hdrop : LineRecords s (dropEnds l p s) := .of_regs rfl
  refine (hdrop.trans (lineRecords_fifoTake l p age _)).trans (.of_regs ?_)
  calc (takeCw l p age blocks s).regs = _ := periodChange_frame.regs_eq rfl
    _ = _ := sampleTc_frame.regs_eq rfl
    _ = (fifoTake l p age (dropEnds l p s)).regs := storeCw_frame.regs_eq rfl

/-- The states of a codeword of a locked lane, before and after it is held. -/
def beforeHold (l p age : Nat) (s : State) : State := fifoTake l p age (dropEnds l p s)

/-- What the line unit notes once the codeword is held changes no lane and none of what is discarded. -/
theorem takeCw_line (l p age : Nat) (blocks : List (Option Bytes)) (s : State) :
    (∀ k, lane (takeCw l p age blocks s) k = lane (storeCw l p age blocks (beforeHold l p age s)) k) ∧
    (takeCw l p age blocks s).line.drops = (storeCw l p age blocks (beforeHold l p age s)).line.drops ∧
    (takeCw l p age blocks s).line.trunc = (storeCw l p age blocks (beforeHold l p age s)).line.trunc ∧
    (takeCw l p age blocks s).line.skewed = (storeCw l p age blocks (beforeHold l p age s)).line.skewed := by
  obtain ⟨a, r, x, y, hs⟩ := sampleTc_line l p age (storeCw l p age blocks (beforeHold l p age s))
  obtain ⟨f, v, hp⟩ := periodChange_line p (sampleTc l p age (storeCw l p age blocks (beforeHold l p age s)))
  have e : (takeCw l p age blocks s).line = _ := hp.trans (by rw [hs])
  unfold lane
  rw [e]
  exact ⟨fun _ => rfl, rfl, rfl, rfl⟩

theorem holdCw_eq (x : Lane) (p : Nat) (v : Held) : ∃ h z, holdCw x p v = { x with held := h, zero := z } :=
  ⟨(holdCw x p v).held, (holdCw x p v).zero, rfl⟩

/-- Holding a codeword changes its lane's held codewords and its place of CW_INDEX 0. -/
theorem storeCw_line (l p age : Nat) (blocks : List (Option Bytes)) (s : State) :
    ∃ m h z, (storeCw l p age blocks s).line = { s.line with lanes := m } ∧
      (∀ k, k ≠ l → lane (storeCw l p age blocks s) k = lane s k) ∧
      lane (storeCw l p age blocks s) l = { lane s l with held := h, zero := z } := by
  unfold storeCw
  split
  · exact ⟨_, _, _, rfl, fun _ _ => rfl, rfl⟩
  · obtain ⟨h, z, e⟩ := holdCw_eq (lane s l) p
      ⟨arrival s age, outAgo s age, stepsAgo s age, if s.line.skewed then blocks.map fun _ => none else blocks⟩
    exact ⟨_, h, z, rfl, fun k hk => lane_setLane_ne _ _ _ hk, (lane_setLane_same ..).trans e⟩

theorem storeCw_discards {l p age : Nat} {blocks : List (Option Bytes)} {s : State} (h : discards s l p = true) :
    storeCw l p age blocks s = s := if_pos h

theorem storeCw_holds {l p age : Nat} {blocks : List (Option Bytes)} {s : State} (h : discards s l p = false) :
    ∃ x, (p, x) ∈ (lane (storeCw l p age blocks s) l).held ∧ x.blocks = if s.line.skewed then blocks.map fun _ => none else blocks := by
  unfold storeCw
  rw [h, if_neg Bool.false_ne_true, lane_setLane_same]
  exact ⟨_, List.mem_cons_self, rfl⟩

/-! ### The codeword -/

section Codeword

variable (l : Nat) (bits : BitVec 5600) (pos age : Nat) (s : State)

/-- The lane that a received codeword makes of its lane, before it is held. -/
def codewordLane : Lane := laneNext (lane s l) (rxBits s l bits) pos (arrival s age) (decodeCodeword (rxBits s l bits))

/-- The state with the codeword counted and its lane moved, before it is held. -/
def codewordTaken : State := laneTake l (rxBits s l bits) pos age (decodeCodeword (rxBits s l bits)) s

/-- The blocks of a received codeword. -/
def codewordBlocks : List (Option Bytes) := (cwBlocks (lane s l) (rxBits s l bits) (decodeCodeword (rxBits s l bits))).1

theorem codewordTaken_line :
    ∃ k c, (codewordTaken l bits pos age s).line =
      { s.line with lanes := put {} s.line.lanes l (codewordLane l bits pos age s), skewed := k, trunc := c } := laneTake_line ..

theorem lane_codewordTaken_same : lane (codewordTaken l bits pos age s) l = codewordLane l bits pos age s := by
  obtain ⟨k, c, h⟩ := codewordTaken_line l bits pos age s
  unfold lane
  rw [h]
  exact look_put_same ..

theorem lane_codewordTaken_ne {k : Nat} (hk : k ≠ l) : lane (codewordTaken l bits pos age s) k = lane s k := by
  obtain ⟨_, c, h⟩ := codewordTaken_line l bits pos age s
  unfold lane
  rw [h]
  exact look_put_ne _ _ _ hk

/-- A codeword goes to the line unit while its lane has a place. -/
theorem codewordEff_eq : codewordEff l bits pos age s = match (lane (codewordTaken l bits pos age s) l).last with
    | some p => takeCw l p.1 age (codewordBlocks l bits s) (codewordTaken l bits pos age s)
    | none => codewordTaken l bits pos age s := by
  unfold codewordEff codewordTaken codewordBlocks
  rfl

theorem codewordEff_placed {p a : Nat} (h : (codewordLane l bits pos age s).last = some (p, a)) :
    codewordEff l bits pos age s = takeCw l p age (codewordBlocks l bits s) (codewordTaken l bits pos age s) := by
  rw [codewordEff_eq, lane_codewordTaken_same, h]

theorem codewordEff_unplaced (h : (codewordLane l bits pos age s).last = none) :
    codewordEff l bits pos age s = codewordTaken l bits pos age s := by
  rw [codewordEff_eq, lane_codewordTaken_same, h]

theorem Lane.with_held_zero (x : Lane) : ∃ h z, x = { x with held := h, zero := z } := ⟨x.held, x.zero, rfl⟩

theorem Lane.same_of_eq {x y : Lane} {h : List (Nat × Held)} {z : Option Nat} (e : x = { y with held := h, zero := z }) :
    x.pos = y.pos ∧ x.locked = y.locked ∧ x.last = y.last := by
  rw [e]
  exact ⟨rfl, rfl, rfl⟩

theorem codewordLane_locked : (codewordLane l bits pos age s).locked =
    (laneLock (lane s l) (lockGood (decodeCodeword (rxBits s l bits))) pos).locked := by
  unfold codewordLane laneNext
  rfl

theorem codewordLane_pos : (codewordLane l bits pos age s).pos = pos := by
  unfold codewordLane laneNext laneLock
  rfl

theorem beforeHold_lane (p k : Nat) (u : State) : lane (beforeHold l p age u) k = lane u k := by
  obtain ⟨n, o, h⟩ := fifoTake_line l p age (dropEnds l p u)
  unfold lane beforeHold
  rw [h]
  rfl

/-- Only the codeword's lane changes, and it is the next one but for what it holds. -/
theorem codewordEff_lanes :
    (∀ k, k ≠ l → lane (codewordEff l bits pos age s) k = lane s k) ∧
    ∃ h z, lane (codewordEff l bits pos age s) l = { codewordLane l bits pos age s with held := h, zero := z } := by
  cases hy : (codewordLane l bits pos age s).last with
  | none =>
    rw [codewordEff_unplaced _ _ _ _ _ hy]
    rw [lane_codewordTaken_same]
    exact ⟨fun k hk => lane_codewordTaken_ne _ _ _ _ _ hk, Lane.with_held_zero _⟩
  | some q =>
    rw [codewordEff_placed _ _ _ _ _ hy]
    obtain ⟨hlane, -⟩ := takeCw_line l q.1 age (codewordBlocks l bits s) (codewordTaken l bits pos age s)
    obtain ⟨_, h, z, -, hne, hl⟩ := storeCw_line l q.1 age (codewordBlocks l bits s) (beforeHold l q.1 age (codewordTaken l bits pos age s))
    refine ⟨fun k hk => (hlane k).trans ((hne k hk).trans ?_), h, z, (hlane l).trans (hl.trans ?_)⟩
    · rw [beforeHold_lane, lane_codewordTaken_ne _ _ _ _ _ hk]
    · rw [beforeHold_lane, lane_codewordTaken_same]

theorem relocked_codewordEff :
    LineRecords (relocked (fecCount (decodeCodeword (rxBits s l bits)) s) l (codewordLane l bits pos age s) (lane s l))
      (codewordEff l bits pos age s) := by
  cases hy : (codewordLane l bits pos age s).last with
  | none =>
    rw [codewordEff_unplaced _ _ _ _ _ hy]
    exact relocked_laneTake ..
  | some q =>
    rw [codewordEff_placed _ _ _ _ _ hy]
    exact (relocked_laneTake ..).trans (lineRecords_takeCw ..)

theorem lineRecords_codewordEff :
    LineRecords (fecCount (decodeCodeword (rxBits s l bits)) s) (codewordEff l bits pos age s) :=
  (lineRecords_relocked ..).trans (relocked_codewordEff ..)

end Codeword

section CodewordPlaced

variable {l : Nat} {bits : BitVec 5600} {pos age p a : Nat} {s : State} (h : (codewordLane l bits pos age s).last = some (p, a))
include h

/-- While nothing is discarded the codeword's blocks are held, and erased where the lanes are skewed. -/
theorem codewordEff_holds (hd : (codewordEff l bits pos age s).line.drops = none) (ht : (codewordEff l bits pos age s).line.trunc = false) :
    ∃ x, (p, x) ∈ (lane (codewordEff l bits pos age s) l).held ∧
      x.blocks = if (codewordEff l bits pos age s).line.skewed then (codewordBlocks l bits s).map fun _ => none else codewordBlocks l bits s := by
  rw [codewordEff_placed _ _ _ _ _ h] at hd ht ⊢
  obtain ⟨hlane, hdrops, htrunc, hskew⟩ := takeCw_line l p age (codewordBlocks l bits s) (codewordTaken l bits pos age s)
  obtain ⟨_, _, _, hline, -⟩ := storeCw_line l p age (codewordBlocks l bits s) (beforeHold l p age (codewordTaken l bits pos age s))
  rw [hline] at hdrops htrunc hskew
  have hopen : discards (beforeHold l p age (codewordTaken l bits pos age s)) l p = false := by
    unfold discards
    rw [← hdrops, hd, ← htrunc, ht]
    simp
  rw [hlane, hskew]
  exact storeCw_holds hopen

theorem codewordEff_drops :
    (codewordEff l bits pos age s).line.drops = (beforeHold l p age (codewordTaken l bits pos age s)).line.drops := by
  rw [codewordEff_placed _ _ _ _ _ h]
  obtain ⟨-, hdrops, -⟩ := takeCw_line l p age (codewordBlocks l bits s) (codewordTaken l bits pos age s)
  obtain ⟨_, _, _, hline, -⟩ := storeCw_line l p age (codewordBlocks l bits s) (beforeHold l p age (codewordTaken l bits pos age s))
  rw [hline] at hdrops
  exact hdrops

/-- A codeword that the held line unit's FIFO has no room for begins an overrun. -/
theorem codewordEff_overruns (hh : lineHeld s = true) (hd : s.line.drops = none) (hl : s.line.live = false) (hf : 32768 < s.line.fill + 640) :
    (codewordEff l bits pos age s).line.drops = some (p / 2500 * 2500, pins) ∧
      rbit (codewordEff l bits pos age s) Block.line.base 1 = true := by
  obtain ⟨_, _, hline⟩ := codewordTaken_line l bits pos age s
  have hheld : lineHeld (dropEnds l p (codewordTaken l bits pos age s)) = true := by
    unfold lineHeld at hh ⊢
    rwa [dropEnds_frame.flights_eq rfl, show (codewordTaken l bits pos age s).flights = s.flights from laneTake_frame.flights_eq rfl]
  have hopen : discards (dropEnds l p (codewordTaken l bits pos age s)) l p = false := by
    unfold discards
    rw [dropEnds_drops, show (dropEnds l p (codewordTaken l bits pos age s)).line.live = (codewordTaken l bits pos age s).line.live from rfl,
      hline]
    simp only [hd, hl]
    rfl
  have hfill : 32768 < (dropEnds l p (codewordTaken l bits pos age s)).line.fill + 640 := by
    rwa [show (dropEnds l p (codewordTaken l bits pos age s)).line.fill = (codewordTaken l bits pos age s).line.fill from rfl, hline]
  obtain ⟨hdrops, hbit⟩ := fifoTake_overruns (age := age) hheld hopen hfill
  refine ⟨(codewordEff_drops h).trans hdrops, ?_⟩
  rw [codewordEff_placed _ _ _ _ _ h]
  refine (rbit_congr ?_ _ _).trans hbit
  calc (takeCw l p age (codewordBlocks l bits s) (codewordTaken l bits pos age s)).regs = _ := periodChange_frame.regs_eq rfl
    _ = _ := sampleTc_frame.regs_eq rfl
    _ = _ := storeCw_frame.regs_eq rfl

section Overrun

variable {q : Nat} {ls : List Nat} (hh : lineHeld s = false) (hd : s.line.drops = some (q, ls))
include hh hd

/-- With the line unit free again a lane leaves an overrun at its next convoy start. -/
theorem codewordEff_drops_free :
    (codewordEff l bits pos age s).line.drops = some (q, if p % periodCws = 0 ∧ p ≠ q then ls.filter (· != l) else ls) := by
  obtain ⟨_, _, hline⟩ := codewordTaken_line l bits pos age s
  have hheld : lineHeld (dropEnds l p (codewordTaken l bits pos age s)) = false := by
    unfold lineHeld at hh ⊢
    rwa [dropEnds_frame.flights_eq rfl, show (codewordTaken l bits pos age s).flights = s.flights from laneTake_frame.flights_eq rfl]
  rw [codewordEff_drops h, beforeHold, fifoTake_free hheld, dropEnds_drops, hline]
  simp only [hd, Option.map_some]

/-- Until then the lane holds nothing more. -/
theorem codewordEff_held_dropped (hl : l ∈ ls) (hp : ¬(p % periodCws = 0 ∧ p ≠ q)) :
    (lane (codewordEff l bits pos age s) l).held = (lane s l).held := by
  have hdrops := codewordEff_drops_free h hh hd
  rw [if_neg hp, codewordEff_drops h] at hdrops
  have hshut : discards (beforeHold l p age (codewordTaken l bits pos age s)) l p = true := by
    unfold discards
    rw [hdrops]
    simp [hl]
  obtain ⟨hlane, -⟩ := takeCw_line l p age (codewordBlocks l bits s) (codewordTaken l bits pos age s)
  rw [codewordEff_placed _ _ _ _ _ h, hlane, storeCw_discards hshut, beforeHold_lane, lane_codewordTaken_same]
  rfl

end Overrun

end CodewordPlaced

theorem rd_fecCount (d : Option Decoded) (s : State) :
    (d = none → rd (fecCount d s) R.LINE_CNT_FEC_UNCORR = sat32 ((rd s R.LINE_CNT_FEC_UNCORR).toNat + 1) ∧
      rd (fecCount d s) R.LINE_CNT_FEC_CORR = rd s R.LINE_CNT_FEC_CORR) ∧
    (∀ x, d = some x → rd (fecCount d s) R.LINE_CNT_FEC_UNCORR = rd s R.LINE_CNT_FEC_UNCORR ∧
      rd (fecCount d s) R.LINE_CNT_FEC_CORR =
        if x.fixed = 0 then rd s R.LINE_CNT_FEC_CORR else sat32 ((rd s R.LINE_CNT_FEC_CORR).toNat + 1)) := by
  refine ⟨?_, ?_⟩
  · rintro rfl
    exact ⟨rd_bump_same .., rd_bump_ne _ (by decide)⟩
  · rintro x rfl
    unfold fecCount
    dsimp only
    split
    · exact ⟨rfl, rfl⟩
    · exact ⟨rd_bump_ne _ (by decide), rd_bump_same ..⟩

theorem cwBlocks_failed (x : Lane) (bits : BitVec 5600) : (cwBlocks x bits none).1.all (· == none) = true := by
  simp [cwBlocks]

theorem codewordBlocks_failed {l : Nat} {bits : BitVec 5600} {s : State} (h : decodeCodeword (rxBits s l bits) = none) :
    (codewordBlocks l bits s).all (· == none) = true :=
  (congrArg (fun d => (cwBlocks (lane s l) (rxBits s l bits) d).1.all (· == none)) h).trans (cwBlocks_failed ..)

theorem codewordBlocks_decoded {l : Nat} {bits : BitVec 5600} {s : State} {d : Decoded} (h : decodeCodeword (rxBits s l bits) = some d) :
    codewordBlocks l bits s = (laneBlocks 20 d.body (lane s l).descr).1 :=
  congrArg (fun d => (cwBlocks (lane s l) (rxBits s l bits) d).1) h

theorem all_none_map (l : List (Option Bytes)) : (l.map fun _ => (none : Option Bytes)).all (· == none) = true := by
  simp

end Sys2Proof.Machine

open Sys2Proof Sys2Proof.Machine

/-- Settles O24: the lane of a codeword is `codewordLane` but for what it holds, the rest of the registers is what the FEC counter left, and
the codeword is held unless the FIFO's overrun takes it. -/
theorem codewordLaneRules : Obligations.CodewordLaneRules := by
  unfold Obligations.CodewordLaneRules
  intro s l bits pos age hr hon b x good
  obtain ⟨t, ht, hF⟩ := viaCore_frame hr fun s => if s.mode.lineOn then codewordEff l bits pos age s else s
  rw [if_pos hon] at hF
  have hline : t.line = (codewordEff l bits pos age s).line := hF.line_eq rfl
  have hregs : t.regs = (codewordEff l bits pos age s).regs := hF.regs_eq rfl
  have hlane (k : Nat) : lane t k = lane (codewordEff l bits pos age s) k := by
    unfold lane
    rw [hline]
  obtain ⟨hne, h, z, hl⟩ := codewordEff_lanes l bits pos age s
  rw [← hlane] at hl
  obtain ⟨hpos, hlock, hplace⟩ := Lane.same_of_eq hl
  have hlocked : (lane t l).locked = (laneLock x (lockGood (decodeCodeword b)) pos).locked :=
    hlock.trans (codewordLane_locked ..)
  have hlast {p a : Nat} (e : (lane t l).last = some (p, a)) : (codewordLane l bits pos age s).last = some (p, a) :=
    hplace.symm.trans e
  have hcount {a : Nat} (ha : a < Block.line.base ∨ Block.line.base + 0x20 ≤ a) : rd t a = rd (fecCount (decodeCodeword b) s) a :=
    (rd_congr hregs a).trans ((lineRecords_codewordEff l bits pos age s).rd_out ha)
  have hbase : Block.line.base = 0x500F00 := rfl
  have huncorr : rd t R.LINE_CNT_FEC_UNCORR = _ := hcount (by unfold R.LINE_CNT_FEC_UNCORR; omega)
  have hcorr : rd t R.LINE_CNT_FEC_CORR = _ := hcount (by unfold R.LINE_CNT_FEC_CORR; omega)
  obtain ⟨hfailed, hdecoded⟩ := rd_fecCount (decodeCodeword b) s
  have hgood : good = lockGood (decodeCodeword b) := by
    dsimp only [good]
    cases decodeCodeword b <;> rfl
  refine ⟨t, ht, ?_, fun k hk => ?_, ?_, fun hx => ?_, fun hx => ?_, fun hx hy => ?_,
    fun hd => ?_, fun d hd => ?_, fun p a e hd htr => ?_, fun p a e hh hd hlive hf => ?_, fun p a q ls e hh hd hin => ⟨fun hp => ?_, fun hp => ?_⟩⟩
  · exact ((hF.weaken (m := [.line, .intc, .regs]) rfl).andThen rfl codewordEff_frame).eq_of fun f => by cases f <;> rfl
  · rw [hlane, hne k hk]
  · rw [hpos]
    exact codewordLane_pos ..
  · rw [hlocked, hgood]
    exact laneLock_gains hx
  · rw [hlocked, hgood]
    exact laneLock_loses hx
  · have hlost := relocked_lost (fecCount (decodeCodeword b) s) l (y := codewordLane l bits pos age s) hx 
      (hlock.symm.trans hy)
    exact (rbit_congr hregs _ _).trans ((relocked_codewordEff l bits pos age s).bits (by decide) hlost)
  · rw [huncorr, hcorr]
    exact hfailed hd
  · rw [huncorr, hcorr]
    exact hdecoded d hd
  · rw [hline] at hd htr
    obtain ⟨w, hw, hblocks⟩ := codewordEff_holds (hlast e) hd htr
    rw [hline, hlane]
    refine ⟨w, hw, fun hbad => ?_, fun d hd hs => ?_⟩
    · rw [hblocks]
      split
      · exact all_none_map _
      next hs => exact codewordBlocks_failed (hbad.resolve_right hs)
    · rw [hblocks, hs, if_neg Bool.false_ne_true]
      exact codewordBlocks_decoded hd
  · rw [hline, rbit_congr hregs]
    exact codewordEff_overruns (hlast e) hh hd hlive hf
  · rw [hline, codewordEff_drops_free (hlast e) hh hd, if_pos hp]
  · rw [hline, codewordEff_drops_free (hlast e) hh hd, if_neg hp, hlane]
    exact ⟨rfl, codewordEff_held_dropped (hlast e) hh hd hin hp⟩
end

section
/-!
The parser and the judgement of a pass (chapter 07): how a walk stops and what it leaves, and what becomes of a frame whose walk is complete.
-/
namespace Sys2Proof.Machine

/-! ### The walk -/

/-- A walk has stopped: after at most 12 headers, by one of the five flags, SHORT only where the length is known, with a key of 64 bytes. -/
structure Stopped (known : Bool) (w : Walk) : Prop where
  stop : ∃ c f, c ≤ 12 ∧ f ∈ [1, 2, 4, 8, 16] ∧ (f = 8 → known = true) ∧ w.flags = c * 4096 + f
  key : w.key.length = 64

theorem Stopped.count {known : Bool} {w : Walk} (h : Stopped known w) : w.flags / 4096 ≤ 12 := by
  obtain ⟨c, f, hc, hf, -, e⟩ := h.stop
  simp only [List.mem_cons, List.not_mem_nil, or_false] at hf
  omega

theorem Stopped.flag {known : Bool} {w : Walk} (h : Stopped known w) : w.flags % 4096 ∈ [1, 2, 4, 8, 16] := by
  obtain ⟨c, f, -, hf, -, e⟩ := h.stop
  have hsmall : f < 4096 := by
    simp only [List.mem_cons, List.not_mem_nil, or_false] at hf
    omega
  rwa [e, Nat.mul_add_mod_self_right, Nat.mod_eq_of_lt hsmall]

theorem Stopped.not_short {w : Walk} (h : Stopped false w) : w.flags % 4096 ≠ 8 := by
  obtain ⟨c, f, -, hf, hk, e⟩ := h.stop
  have hne : f ≠ 8 := fun h8 => Bool.false_ne_true (hk h8)
  simp only [List.mem_cons, List.not_mem_nil, or_false] at hf
  omega

/-- The walk so far can stop: it has passed at most 12 headers, and its key has 64 bytes. -/
structure Walking.Sound (x : Walking) : Prop where
  count : x.count ≤ 12
  key : x.out.key.length = 64

theorem stopWalk_stopped {known : Bool} {x : Walking} {f : Nat} {bad : Option Nat} (hx : x.Sound) (hf : f ∈ [1, 2, 4, 8, 16])
    (hk : f = 8 → known = true) : Stopped known (stopWalk x f bad).1 :=
  ⟨⟨x.count, f, hx.count, hf, hk, rfl⟩, hx.key⟩

/-- A walk whose offset runs out of the head bytes is SHORT where the length is known, and too deep where it is not. -/
theorem stopWalk_overrun {known : Bool} {x : Walking} (hx : x.Sound) :
    Stopped known (stopWalk x (if known then pfShort else pfDepth)).1 := by
  cases known
  · exact stopWalk_stopped hx (by decide) nofun
  · exact stopWalk_stopped hx (by decide) fun _ => rfl

theorem length_take_patch {b : Bytes} {m : Nat} (h : b.length = m) (i : Nat) (v : Bytes) : ((patch b i v).take m).length = m := by
  unfold patch
  rw [List.length_take, List.length_append, List.length_append, List.length_take, List.length_drop]
  omega

theorem length_extractInto (n head : Bytes) (off : Nat) {key : Bytes} (i : Nat) (h : key.length = 64) :
    (extractInto n head off key i).length = 64 := length_take_patch h _ _

theorem length_extractions (n head : Bytes) (off : Nat) (l : List Nat) {key : Bytes} (h : key.length = 64) :
    (l.foldl (extractInto n head off) key).length = 64 := by
  induction l generalizing key with
  | nil => exact h
  | cons i l ih => exact ih (length_extractInto n head off i h)

theorem walkFrom_stopped (s : State) (head : Bytes) (known : Bool) (bad : Nat → Bool) (fuel : Nat) {x : Walking} (hx : x.Sound) :
    Stopped known (walkFrom s head known bad fuel x).1 := by
  induction fuel generalizing x with
  | zero => exact stopWalk_stopped hx (by decide) nofun
  | succ fuel ih =>
    have stops {c : Prop} [Decidable c] {a b : Walk × Option Nat} (ha : Stopped known a.1) (hb : ¬c → Stopped known b.1) :
        Stopped known (if c then a else b).1 := iteInduction (motive := fun r : Walk × Option Nat => Stopped known r.1) (fun _ => ha) hb
    rw [walkFrom]
    refine stops (stopWalk_stopped hx (by decide) nofun) fun _ => stops (stopWalk_stopped hx (by decide) nofun) fun _ =>
      stops (stopWalk_stopped hx (by decide) nofun) fun hcount => stops (stopWalk_stopped hx (by decide) nofun) fun _ =>
      stops (stopWalk_overrun hx) fun _ => stops (stopWalk_stopped hx (by decide) nofun) fun _ =>
      stops (stopWalk_overrun hx) fun _ => stops (stopWalk_stopped hx (by decide) nofun) fun _ =>
      stops (stopWalk_stopped hx (by decide) nofun) fun _ => ih ⟨?_, length_extractions _ _ _ _ hx.key⟩
    exact Nat.lt_of_le_of_ne hx.count hcount

section FirstStep

variable (s : State) (head : Bytes) (known : Bool) (bad : Nat → Bool) (fuel : Nat) {x : Walking}

theorem walkFrom_done (h : x.node = 0x40) : walkFrom s head known bad (fuel + 1) x = stopWalk x pfDone := by
  rw [walkFrom]
  exact if_pos h

theorem walkFrom_unknown (h : 0x40 < x.node) : walkFrom s head known bad (fuel + 1) x = stopWalk x pfUnknown := by
  rw [walkFrom]
  exact (if_neg (Nat.ne_of_gt h)).trans (if_pos h)

theorem walkFrom_bad {bad : Nat → Bool} (h : x.node < 0x40) (hc : x.count < 12) (hb : bad x.node = true) :
    walkFrom s head known bad (fuel + 1) x = stopWalk x pfUnknown (some x.node) := by
  rw [walkFrom]
  exact (if_neg (Nat.ne_of_lt h)).trans ((if_neg (Nat.not_lt_of_gt h)).trans ((if_neg (Nat.ne_of_lt hc)).trans (if_pos hb)))

end FirstStep

section ParsePass

variable (s : State) (n : Nat) (head : Bytes) (len node off : Nat)

/-- Where a pass begins. -/
def passStart : Walking := { off := off, node := node, bound := if decide (len ≤ 256) then some len else none }

theorem passStart_flags (f : Nat) (bad : Option Nat) : (stopWalk (passStart len node off) f bad).1.flags = f := by
  rw [show (stopWalk (passStart len node off) f bad).1.flags = (passStart len node off).count * 4096 + f from rfl,
    show (passStart len node off).count = 0 from rfl, Nat.zero_mul, Nat.zero_add]

theorem parsePass_eq : parsePass s n head len node off =
    walkFrom s head (decide (len ≤ 256)) (fun m => s.cls.badNodes.contains (n * 16384 + m)) (13 + 1) (passStart len node off) := rfl

theorem parsePass_stopped : Stopped (decide (len ≤ 256)) (parsePass s n head len node off).1 :=
  walkFrom_stopped _ _ _ _ _ ⟨Nat.zero_le _, List.length_replicate ..⟩

theorem parsePass_done (h : node = 0x40) : (parsePass s n head len node off).1.flags = 1 := by
  rw [parsePass_eq, walkFrom_done (x := passStart len node off) _ _ _ _ 13 h]
  exact passStart_flags ..

theorem parsePass_unknown (h : 0x40 < node) : (parsePass s n head len node off).1.flags = 16 := by
  rw [parsePass_eq, walkFrom_unknown (x := passStart len node off) _ _ _ _ 13 h]
  exact passStart_flags ..

theorem parsePass_bad (h : node < 0x40) (hb : s.cls.badNodes.contains (n * 16384 + node) = true) :
    (parsePass s n head len node off).2 = some node ∧ (parsePass s n head len node off).1.flags = 16 := by
  rw [parsePass_eq, walkFrom_bad (x := passStart len node off) _ _ _ 13 h (Nat.zero_lt_succ 11) hb]
  exact ⟨rfl, passStart_flags ..⟩

end ParsePass

/-- A walk reads the parser's nodes and knows the bad ones; nothing else of the state matters to it. -/
theorem walkFrom_congr {s t : State} (hp : t.parser = s.parser) (head : Bytes) (known : Bool) (bad : Nat → Bool) (fuel : Nat) (x : Walking) :
    walkFrom t head known bad fuel x = walkFrom s head known bad fuel x := by
  have hnode (n : Nat) : parserNode t n = parserNode s n := by unfold parserNode; rw [hp]
  induction fuel generalizing x with
  | zero => rfl
  | succ fuel ih =>
    unfold walkFrom
    simp only [hnode, ih]

theorem parsePass_congr {s t : State} (hp : t.parser = s.parser) (hc : t.cls.badNodes = s.cls.badNodes) (n : Nat) (head : Bytes) (len node off : Nat) :
    parsePass t n head len node off = parsePass s n head len node off := by
  unfold parsePass
  dsimp only
  rw [walkFrom_congr hp, hc]

/-! ### Pending bounds -/

theorem concludePass_judged (g : Flight) {w : Walk} (x : State) (h : w.pending ≤ g.tok.len ∨ w.flags % 32 / 4 ≠ 0) :
    concludePass g w x = judge g w x := by
  unfold concludePass
  rw [if_neg (by omega)]

theorem concludePass_conflict (g : Flight) {w : Walk} (x : State) (hp : g.tok.len < w.pending) (hf : w.flags % 32 / 4 = 0) :
    concludePass g w x = judge g { w with flags := w.flags + 4 } x := by
  unfold concludePass
  rw [if_pos ⟨hp, hf⟩]

/-! ### Class counters -/

/-- Counter `k` of the classifier counts one more. -/
def Counted (x y : State) (k : Nat) : Prop := rd y (R.CLASS_CNT k) = sat32 ((rd x (R.CLASS_CNT k)).toNat + 1)

theorem rd_classCount_same (k : Nat) (s : State) : rd (classCount k s) (R.CLASS_CNT k) = sat32 ((rd s (R.CLASS_CNT k)).toNat + 1) :=
  rd_bump_same ..

theorem rd_classCount_ne {j k : Nat} (s : State) (h : j ≠ k) : rd (classCount k s) (R.CLASS_CNT j) = rd s (R.CLASS_CNT j) :=
  rd_bump_ne _ (by unfold R.CLASS_CNT; omega)

theorem rd_cellEvent_classCnt (s : State) (t c : Nat) (ev : CellEv) (n : Nat) {j : Nat} (h : j < 16) :
    rd (cellEvent s t c ev n) (R.CLASS_CNT j) = rd s (R.CLASS_CNT j) :=
  rd_cellEvent_below _ _ (by unfold R.CLASS_CNT; omega) (by unfold R.CLASS_CNT R.PERF_EVENT; omega)

theorem look_classCount_setBucket (j n l : Nat) (s : State) :
    look {} (classCount j (setBucket s n l)).cls.buckets n = ⟨l, s.now⟩ := look_put_same ..

/-! ### Exceptions -/

/-- What exception `k` of a pass gives, of port `port` under version slot `slot`: the default action of the port, or the exception path of a
privileged one, which takes a token. -/
structure Excepted (port slot : Nat) (w : Walk) (marks k : Nat) (x : State) (r : Flight × State) : Prop where
  counted : Counted x r.2 k
  default : privEntry x port = none → r.1.fate = some (actFate (defaultAct x slot port) w.pcp) ∧
    r.1.count = actCnt (defaultAct x slot port) ∧ r.1.tok.flags = marks + 0x200 ∧ Counted x r.2 5
  privileged : ∀ n, privEntry x port = some n → tokenUnit ≤ bucketLevel x n → r.1.fate = some (.ring (rfld x (R.CLASS_PRIV n) 0 8)) ∧
    r.1.tok.flags = marks + 0x100 ∧ r.1.count = 0 ∧ Counted x r.2 6 ∧ look {} r.2.cls.buckets n = ⟨bucketLevel x n - tokenUnit, x.now⟩
  lost : ∀ n, privEntry x port = some n → bucketLevel x n < tokenUnit → r.1.fate = some .lost ∧ r.1.tok.flags = marks ∧ r.1.count = 0 ∧
    Counted x r.2 7 ∧ rbit r.2 R.CLASS_EVENT 3 = true

/-- An exception counts, and the cell sees it. -/
def excepting (f : Flight) (k : Nat) (s : State) : State := cellEvent (classCount k s) f.tract f.cell .exc 1

theorem rd_excepting_same (f : Flight) {k : Nat} (s : State) (h : k < 5) :
    rd (excepting f k s) (R.CLASS_CNT k) = sat32 ((rd s (R.CLASS_CNT k)).toNat + 1) :=
  (rd_cellEvent_classCnt _ _ _ _ _ (by omega)).trans (rd_classCount_same k s)

theorem rd_excepting_ne (f : Flight) {j k : Nat} (s : State) (hj : j < 16) (h : j ≠ k) :
    rd (excepting f k s) (R.CLASS_CNT j) = rd s (R.CLASS_CNT j) :=
  (rd_cellEvent_classCnt _ _ _ _ _ hj).trans (rd_classCount_ne s h)

section Exception

variable (f : Flight) (w : Walk) (marks k : Nat) (s : State)

theorem exception_default (h : privEntry s f.tok.port = none) : exception f w marks k s =
    (settleFate f (actFate (defaultAct s f.tok.slot f.tok.port) w.pcp) (marks + 0x200) (actCnt (defaultAct s f.tok.slot f.tok.port)),
      classCount 5 (excepting f k s)) := by
  unfold exception
  dsimp only
  rw [h]
  rfl

theorem exception_privileged {n : Nat} (h : privEntry s f.tok.port = some n) (hl : tokenUnit ≤ bucketLevel s n) : exception f w marks k s =
    (settleFate f (.ring (rfld s (R.CLASS_PRIV n) 0 8)) (marks + 0x100) 0,
      classCount 6 (setBucket (excepting f k s) n (bucketLevel s n - tokenUnit))) := by
  unfold exception
  dsimp only
  rw [h]
  exact if_pos hl

theorem exception_lost {n : Nat} (h : privEntry s f.tok.port = some n) (hl : bucketLevel s n < tokenUnit) : exception f w marks k s =
    (settleFate f .lost marks 0, event (classCount 7 (excepting f k s)) R.CLASS_EVENT 3) := by
  unfold exception
  dsimp only
  rw [h]
  exact if_neg (Nat.not_le_of_lt hl)

variable {k}

theorem excepting_counts {j : Nat} (hk : k < 5) (hj : 5 ≤ j) (hj' : j < 16) {u : State} (hu : u.regs = (excepting f k s).regs) :
    Counted s (classCount j u) k ∧ Counted s (classCount j u) j := by
  unfold Counted
  rw [rd_classCount_ne _ (by omega), rd_classCount_same, rd_congr hu, rd_congr hu, rd_excepting_same _ _ hk,
    rd_excepting_ne _ _ hj' (by omega)]
  exact ⟨rfl, rfl⟩

theorem counted_event {x y : State} {j i : Nat} (hj : j < 16) (h : Counted x y j) : Counted x (event y R.CLASS_EVENT i) j := by
  unfold Counted at h ⊢
  rwa [rd_event_ne _ _ (by unfold R.CLASS_CNT R.CLASS_EVENT; omega)]

theorem exception_excepted (hk : k < 5) : Excepted f.tok.port f.tok.slot w marks k s (exception f w marks k s) := by
  cases hp : privEntry s f.tok.port with
  | none =>
    obtain ⟨hself, h5⟩ := excepting_counts (j := 5) f s hk (by omega) (by omega) rfl
    rw [exception_default f w marks k s hp]
    exact ⟨hself, fun _ => ⟨rfl, rfl, rfl, h5⟩, fun n hq => (nomatch hp.symm.trans hq), fun n hq => (nomatch hp.symm.trans hq)⟩
  | some n =>
    by_cases hl : tokenUnit ≤ bucketLevel s n
    · have hregs : (setBucket (excepting f k s) n (bucketLevel s n - tokenUnit)).regs = (excepting f k s).regs := setBucket_frame.regs_eq rfl
      obtain ⟨hself, h6⟩ := excepting_counts (j := 6) f s hk (by omega) (by omega) hregs
      have hnow : (excepting f k s).now = s.now := (cellEvent_frame.now_eq rfl).trans (bump_frame.now_eq rfl)
      rw [exception_privileged f w marks k s hp hl]
      refine ⟨hself, fun hq => (nomatch hp.symm.trans hq), fun m hm _ => ?_, fun m hm hlow => ?_⟩
      · obtain rfl : n = m := Option.some.inj (hp.symm.trans hm)
        exact ⟨rfl, rfl, rfl, h6, by rw [look_classCount_setBucket, hnow]⟩
      · obtain rfl : n = m := Option.some.inj (hp.symm.trans hm)
        exact absurd hlow (Nat.not_lt_of_le hl)
    · obtain ⟨hself, h7⟩ := excepting_counts (j := 7) f s hk (by omega) (by omega) rfl
      rw [exception_lost f w marks k s hp (Nat.lt_of_not_le hl)]
      refine ⟨counted_event (by omega) hself, fun hq => (nomatch hp.symm.trans hq), fun m hm hhigh => ?_, fun m hm _ => ?_⟩
      · obtain rfl : n = m := Option.some.inj (hp.symm.trans hm)
        exact absurd hhigh hl
      · exact ⟨rfl, rfl, rfl, counted_event (by omega) h7, rbit_event_self _ (by decide)⟩

theorem exception_csum : (exception f w marks k s).1.tok.csum = f.tok.csum := by
  unfold exception
  dsimp only
  split
  · split <;> rfl
  · rfl

end Exception

/-! ### A bad rule entry is recorded -/

/-- The fault of a bad rule entry leaves what an exception reads. -/
theorem rd_fault_cls (s : State) (code inst : Nat) (ident : DWord) {a : Nat} (h : a < 0x800F00 ∨ 0x800F20 ≤ a) :
    rd (fault s .cls code inst ident) a = rd s a := rd_fault_out _ .cls _ _ _ h

section ReplicaFault

variable {x y : State} (hpriv : ∀ n < 4, rd y (R.CLASS_PRIV n) = rd x (R.CLASS_PRIV n) ∧ rd y (R.CLASS_PRIV_RATE n) = rd x (R.CLASS_PRIV_RATE n))
  (hcls : y.cls = x.cls) (hnow : y.now = x.now)

theorem privEntry_lt {s : State} {p n : Nat} (h : privEntry s p = some n) : n < 4 := List.mem_range.1 (List.mem_of_find?_eq_some h)

include hpriv

theorem privEntry_congr (p : Nat) : privEntry y p = privEntry x p := by
  have hsame {n : Nat} (h : n < 4) : (rbit y (R.CLASS_PRIV n) 31 && rfld y (R.CLASS_PRIV n) 16 5 == p) =
      (rbit x (R.CLASS_PRIV n) 31 && rfld x (R.CLASS_PRIV n) 16 5 == p) := by
    unfold rbit rfld
    rw [(hpriv n h).1]
  unfold privEntry
  rw [show List.range 4 = [0, 1, 2, 3] from rfl]
  simp only [List.find?_cons, hsame (show 0 < 4 by omega), hsame (show 1 < 4 by omega), hsame (show 2 < 4 by omega), hsame (show 3 < 4 by omega),
    List.find?_nil]

include hcls hnow

theorem bucketLevel_congr {n : Nat} (h : n < 4) : bucketLevel y n = bucketLevel x n := by
  unfold bucketLevel bucketCap rfld
  rw [(hpriv n h).2, hcls, hnow]

/-- An exception in a state with the same privileged ports, actions and counters. -/
theorem Excepted.congr {port slot : Nat} {w : Walk} {marks k : Nat} {r : Flight × State}
    (hcnt : ∀ j < 16, rd y (R.CLASS_CNT j) = rd x (R.CLASS_CNT j)) (hk : k < 5) (h : Excepted port slot w marks k y r) :
    Excepted port slot w marks k x r := by
  obtain ⟨hself, hdefault, hprivileged, hlost⟩ := h
  have hdef : defaultAct y slot port = defaultAct x slot port := by
    unfold defaultAct ruleSlot
    rw [hcls]
  have counts {j : Nat} (hj : j < 16) (h : Counted y r.2 j) : Counted x r.2 j := by
    unfold Counted at h ⊢
    rwa [hcnt j hj] at h
  have hentry := privEntry_congr hpriv port
  rw [hentry, hdef] at hdefault
  rw [hentry] at hprivileged hlost
  refine ⟨counts (by omega) hself, fun hp => ?_, fun n hp hl => ?_, fun n hp hl => ?_⟩
  · obtain ⟨hfate, hcount, hflags, h5⟩ := hdefault hp
    exact ⟨hfate, hcount, hflags, counts (by omega) h5⟩
  · have hn := privEntry_lt hp
    have hlevel := bucketLevel_congr hpriv hcls hnow hn
    obtain ⟨hfate, hflags, hcount, h6, hbucket⟩ := hprivileged n hp (le_of_le_of_eq hl hlevel.symm)
    refine ⟨?_, hflags, hcount, counts (by omega) h6, by rw [hbucket, hlevel, hnow]⟩
    rw [hfate]
    unfold rfld
    rw [(hpriv n hn).1]
  · have hn := privEntry_lt hp
    obtain ⟨hfate, hflags, hcount, h7, hbit⟩ := hlost n hp (lt_of_eq_of_lt (bucketLevel_congr hpriv hcls hnow hn) hl)
    exact ⟨hfate, hflags, hcount, counts (by omega) h7, hbit⟩

end ReplicaFault

theorem excepted_of_fault {x : State} {t : Nat} {e : DWord} {port slot : Nat} {w : Walk} {marks k : Nat} {r : Flight × State} (hk : k < 5)
    (h : Excepted port slot w marks k (fault x .cls 1 t e) r) : Excepted port slot w marks k x r := by
  refine h.congr (fun n hn => ⟨rd_fault_cls _ _ _ _ ?_, rd_fault_cls _ _ _ _ ?_⟩) (fault_frame.cls_eq rfl) (fault_frame.now_eq rfl)
    (fun j hj => rd_fault_cls _ _ _ _ ?_) hk
  · unfold R.CLASS_PRIV; omega
  · unfold R.CLASS_PRIV_RATE; omega
  · unfold R.CLASS_CNT; omega

/-! ### The judgement -/

section Judge

variable (g : Flight) (w : Walk) (x : State)

/-- The walk is SHORT or met an unknown header. -/
def Walk.stuck (w : Walk) : Bool := w.flags.testBit 3 || w.flags.testBit 4

/-- The parse flags of a pass. -/
def passFlags : Nat := w.flags + (g.pass - 1) * 64

/-- What the lookup of a pass finds. -/
def passFound : Found := lookup x g.tract (keyOf w g.tok.port g.pass) (ruleSlot x g.tok.slot).pos

/-- The exception of a pass: the first condition of R426 that applies, from what its lookup found. -/
def passCond : Option Nat :=
  if w.stuck then some 0 else if w.flags.testBit 2 then some 1 else
  match passFound g w x with
  | .bad _ => some 2
  | .miss => some 3
  | .hit a => if actKind a = 5 then some 3 else if w.flags.testBit 1 && !actPartial a then some 4 else none

/-- The flag that an exception adds. -/
def condMark (c : Option Nat) : Nat := match c with | some 2 => 0x400 | some 3 => 0x20 | _ => 0

theorem flags_stuck : w.flags % 32 / 8 ≠ 0 ↔ w.stuck = true := by
  unfold Walk.stuck
  rw [Bool.or_eq_true, Nat.testBit_eq_decide_div_mod_eq, Nat.testBit_eq_decide_div_mod_eq, decide_eq_true_iff, decide_eq_true_iff]
  omega

theorem flags_conflict : w.flags % 8 / 4 = 1 ↔ w.flags.testBit 2 = true := by
  rw [Nat.testBit_eq_decide_div_mod_eq, decide_eq_true_iff]
  omega

theorem flags_depth : w.flags % 4 / 2 = 1 ↔ w.flags.testBit 1 = true := by
  rw [Nat.testBit_eq_decide_div_mod_eq, decide_eq_true_iff]
  omega

variable {g w x}

theorem judge_stuck (h : w.stuck = true) : judge g w x = exception g w (passFlags g w) 0 x := if_pos (flags_stuck w |>.2 h)

theorem judge_conflict (h : w.stuck = false) (hc : w.flags.testBit 2 = true) :
    judge g w x = exception { g with tok := { g.tok with csum := 0 } } w (passFlags g w) 1 x :=
  (if_neg fun h' => Bool.false_ne_true (h.symm.trans (flags_stuck w |>.1 h'))).trans (if_pos (flags_conflict w |>.2 hc))

section Looked

variable (h : w.stuck = false) (hc : w.flags.testBit 2 = false)
include h hc

/-- A pass with neither looks its key up. -/
theorem judge_looked : judge g w x = match passFound g w x with
    | .bad e => exception g w (passFlags g w + 0x400) 2 (fault x .cls 1 g.tract (BitVec.ofNat 64 e))
    | .miss => exception g w (passFlags g w + 0x20) 3 x
    | .hit a => followAction g w a (passFlags g w) x := by
  refine (if_neg fun h' => Bool.false_ne_true (h.symm.trans (flags_stuck w |>.1 h'))).trans
    ((if_neg fun h' => Bool.false_ne_true (hc.symm.trans (flags_conflict w |>.1 h'))).trans ?_)
  unfold passFound
  cases lookup x g.tract (keyOf w g.tok.port g.pass) (ruleSlot x g.tok.slot).pos <;> rfl

end Looked

end Judge

/-! ### What the judgement comes to -/

/-- A pass of `g` that is judged to `r` where its exception, if any, is `cond`, adding to the flags `marks`: an exception, the fate of the
matching rule's action, or another pass. -/
structure Judged (g : Flight) (w : Walk) (x : State) (cond : Option Nat) (r : Flight × State) : Prop where
  excepted : ∀ k, cond = some k → Excepted g.tok.port g.tok.slot w (passFlags g w + condMark cond) k x r
  csum : ∀ k, cond = some k → (k = 1 → r.1.tok.csum = 0) ∧ (k ≠ 1 → r.1.tok.csum = g.tok.csum)
  settled : ∀ a, cond = none → passFound g w x = .hit a → actKind a ≠ 4 → r.2 = x ∧ r.1.fate = some (actFate a w.pcp) ∧ r.1.count = actCnt a ∧
    r.1.tok.flags = passFlags g w
  ended : ∀ a, cond = none → passFound g w x = .hit a → actKind a = 4 → 4 ≤ g.pass → r.1.fate = some .lost ∧ r.1.count = 0 ∧ Counted x r.2 9
  again : ∀ a, cond = none → passFound g w x = .hit a → actKind a = 4 → g.pass < 4 → r.1.loc = .recirc ∧ r.1.pass = g.pass + 1 ∧
    r.1.node = actNode a ∧ r.1.off = actOff a ∧ r.1.walk = none ∧ r.1.fate = g.fate ∧ Counted x r.2 8 ∧
    (actCnt a ≠ 0 → rd r.2 (R.CLASS_ACT_CNT (actCnt a)) = sat32 ((rd x (R.CLASS_ACT_CNT (actCnt a))).toNat + 1))

section Judged

variable {g : Flight} {w : Walk} {x : State}

/-- A pass that ends in exception `k`. -/
theorem judged_exception {k m : Nat} (hm : condMark (some k) = m) (hk : k < 5) (hne : k ≠ 1) (u : State)
    (hu : Excepted g.tok.port g.tok.slot w (passFlags g w + m) k u (exception g w (passFlags g w + m) k u) →
      Excepted g.tok.port g.tok.slot w (passFlags g w + m) k x (exception g w (passFlags g w + m) k u)) :
    Judged g w x (some k) (exception g w (passFlags g w + m) k u) := by
  refine ⟨fun j hj => ?_, fun j hj => ?_, nofun, nofun, nofun⟩
  · obtain rfl := Option.some.inj hj
    rw [hm]
    exact hu (exception_excepted g w _ u hk)
  · obtain rfl := Option.some.inj hj
    exact ⟨fun h => absurd h hne, fun _ => exception_csum ..⟩

theorem judged_conflict : Judged g w x (some 1) (exception { g with tok := { g.tok with csum := 0 } } w (passFlags g w) 1 x) := by
  refine ⟨fun j hj => ?_, fun j hj => ?_, nofun, nofun, nofun⟩
  · obtain rfl := Option.some.inj hj
    exact exception_excepted { g with tok := { g.tok with csum := 0 } } w _ x (by decide)
  · obtain rfl := Option.some.inj hj
    exact ⟨fun _ => exception_csum .., fun h => absurd rfl h⟩

theorem actCnt_lt (a : DWord) : actCnt a < 1024 := fld_lt a 48 10

theorem rd_recirculated (g : Flight) (a : DWord) (x : State) :
    Counted x (cellEvent (classCount 8 (actCount x (actCnt a))) g.tract g.cell .recirc 1) 8 ∧
    (actCnt a ≠ 0 → rd (cellEvent (classCount 8 (actCount x (actCnt a))) g.tract g.cell .recirc 1) (R.CLASS_ACT_CNT (actCnt a)) =
      sat32 ((rd x (R.CLASS_ACT_CNT (actCnt a))).toNat + 1)) := by
  have hlt := actCnt_lt a
  refine ⟨?_, fun h => ?_⟩
  · unfold Counted
    rw [rd_cellEvent_classCnt _ _ _ _ _ (by omega), rd_classCount_same]
    unfold actCount
    split
    · rfl
    · rw [rd_bump_ne _ (by unfold R.CLASS_CNT R.CLASS_ACT_CNT; omega)]
  · rw [rd_cellEvent_below _ _ (by unfold R.CLASS_ACT_CNT; omega) (by unfold R.CLASS_ACT_CNT R.PERF_EVENT; omega)]
    unfold classCount actCount
    rw [rd_bump_ne _ (by unfold R.CLASS_CNT R.CLASS_ACT_CNT; omega), if_neg h, rd_bump_same]

/-- A pass whose matching rule's action is followed. -/
theorem judged_hit {a : DWord} (hf : passFound g w x = .hit a) (h5 : actKind a ≠ 5)
    (hp : ¬(w.flags % 4 / 2 = 1 ∧ (!actPartial a) = true)) : Judged g w x none (followAction g w a (passFlags g w) x) := by
  have hsame {b : DWord} (hb : passFound g w x = .hit b) : a = b := Found.hit.inj (hf.symm.trans hb)
  unfold followAction
  rw [if_neg h5, if_neg hp]
  refine ⟨nofun, nofun, fun b _ hb hk => ?_, fun b _ hb hk hpass => ?_, fun b _ hb hk hpass => ?_⟩
  · obtain rfl := hsame hb
    rw [if_neg hk]
    exact ⟨rfl, rfl, rfl, rfl⟩
  · obtain rfl := hsame hb
    rw [if_pos hk, recirculate, if_pos hpass]
    exact ⟨rfl, rfl, rd_classCount_same ..⟩
  · obtain rfl := hsame hb
    rw [if_pos hk, recirculate, if_neg (Nat.not_le_of_lt hpass)]
    obtain ⟨h8, hcnt⟩ := rd_recirculated g a x
    exact ⟨rfl, rfl, rfl, rfl, rfl, rfl, h8, hcnt⟩

theorem judged (g : Flight) (w : Walk) (x : State) : Judged g w x (passCond g w x) (judge g w x) := by
  unfold passCond
  cases hs : w.stuck with
  | true =>
    rw [judge_stuck hs]
    exact judged_exception (m := 0) rfl (by decide) (by decide) x id
  | false =>
  cases hc : w.flags.testBit 2 with
  | true =>
    rw [judge_conflict hs hc]
    exact judged_conflict
  | false =>
  rw [judge_looked hs hc, if_neg Bool.false_ne_true, if_neg Bool.false_ne_true]
  cases hf : passFound g w x with
  | bad e => exact judged_exception (m := 0x400) rfl (by decide) (by decide) _ (excepted_of_fault (by decide))
  | miss => exact judged_exception (m := 0x20) rfl (by decide) (by decide) x id
  | hit a =>
    dsimp only
    by_cases h5 : actKind a = 5
    · rw [if_pos h5, followAction, if_pos h5]
      exact judged_exception (m := 0x20) rfl (by decide) (by decide) x id
    · by_cases hp : w.flags % 4 / 2 = 1 ∧ (!actPartial a) = true
      · have hdepth : (w.flags.testBit 1 && !actPartial a) = true := by rw [(flags_depth w).1 hp.1, hp.2]; rfl
        rw [if_neg h5, if_pos hdepth, followAction, if_neg h5, if_pos hp]
        exact judged_exception (m := 0) rfl (by decide) (by decide) x id
      · have hshallow : (w.flags.testBit 1 && !actPartial a) ≠ true := fun h => by
          obtain ⟨hb, ha⟩ := Bool.and_eq_true_iff.1 h
          exact hp ⟨(flags_depth w).2 hb, ha⟩
        rw [if_neg h5, if_neg hshallow]
        exact judged_hit hf h5 hp

end Judged

end Sys2Proof.Machine
end

section
/-!
Head tokens (chapters 01 and 07): the admission of a frame by its cell, its refusal, and the pass that begins.
-/
namespace Sys2Proof.Machine

/-! ### What a pass keeps of its frame -/

/-- The frame is in the same place, with the same bytes and granules. -/
structure SameFrame (f g : Flight) : Prop where
  tag : g.tag = f.tag
  tract : g.tract = f.tract
  role : g.role = f.role
  cell : g.cell = f.cell
  data : g.data = f.data
  full : g.full = f.full
  credit : g.credit = f.credit
  parts : g.parts = f.parts
  loc : f.loc ≠ .front → g.loc ≠ .front

theorem SameFrame.refl (f : Flight) : SameFrame f f := ⟨rfl, rfl, rfl, rfl, rfl, rfl, rfl, rfl, id⟩

theorem settleFate_sameFrame (f : Flight) (x : Fate) (flags count : Nat) : SameFrame f (settleFate f x flags count) :=
  ⟨rfl, rfl, rfl, rfl, rfl, rfl, rfl, rfl, id⟩

theorem exception_sameFrame (f : Flight) (w : Walk) (flags k : Nat) (s : State) : SameFrame f (exception f w flags k s).1 := by
  unfold exception
  dsimp only
  split
  · split
    · exact settleFate_sameFrame ..
    · exact settleFate_sameFrame ..
  · exact settleFate_sameFrame ..

theorem recirculate_sameFrame (f : Flight) (a : DWord) (flags : Nat) (s : State) : SameFrame f (recirculate f a flags s).1 := by
  unfold recirculate
  split
  · exact settleFate_sameFrame ..
  · exact ⟨rfl, rfl, rfl, rfl, rfl, rfl, rfl, rfl, fun _ => nofun⟩

theorem followAction_sameFrame (f : Flight) (w : Walk) (a : DWord) (flags : Nat) (s : State) : SameFrame f (followAction f w a flags s).1 := by
  unfold followAction
  split
  · exact exception_sameFrame ..
  split
  · exact exception_sameFrame ..
  split
  · exact recirculate_sameFrame ..
  · exact settleFate_sameFrame ..

theorem judge_sameFrame (f : Flight) (w : Walk) (s : State) : SameFrame f (judge f w s).1 := by
  unfold judge
  dsimp only
  split
  · exact exception_sameFrame ..
  split
  · obtain ⟨htag, htract, hrole, hcell, hdata, hfull, hcredit, hparts, hloc⟩ :=
      exception_sameFrame { f with tok := { f.tok with csum := 0 } } w (w.flags + (f.pass - 1) * 64) 1 s
    exact ⟨htag, htract, hrole, hcell, hdata, hfull, hcredit, hparts, hloc⟩
  split
  · exact exception_sameFrame ..
  · exact exception_sameFrame ..
  · exact followAction_sameFrame ..

theorem concludePass_sameFrame (f : Flight) (w : Walk) (s : State) : SameFrame f (concludePass f w s).1 := judge_sameFrame ..

/-! ### A flight that has been changed -/

theorem flight_setFlight {s : State} {f g : Flight} {tag : Nat} (h : flight s tag = some f) (hg : g.tag = tag) :
    flight (setFlight s g) tag = some g := by
  subst hg
  have hsame (x : Flight) : ((if x.tag = g.tag then g else x).tag == g.tag) = (x.tag == g.tag) := by
    split
    next hx => rw [hx]
    next => rfl
  unfold flight setFlight at *
  rw [List.find?_map, show ((fun x : Flight => x.tag == g.tag) ∘ fun x => if x.tag = g.tag then g else x) = fun x => x.tag == g.tag from
    funext hsame, h, Option.map_some, if_pos (by simpa using List.find?_some h)]

theorem flight_congr {s t : State} (h : t.flights = s.flights) (tag : Nat) : flight t tag = flight s tag := by
  unfold flight
  rw [h]

/-! ### A pass begins -/

section BeginPass

variable (f : Flight) (s : State)

/-- The walk of the pass that begins. -/
def firstWalk : Walk := (parsePass s f.tract f.head f.tok.len f.node f.off).1

/-- The flight as its walk leaves it. -/
def walked : Flight := { f with walk := some (firstWalk f s), loc := .cell, since := s.now }

/-- The cell's count of the pass and its headers. -/
def passSeen : State := cellEvent (cellEvent s f.tract f.cell .pass 1) f.tract f.cell .headers ((firstWalk f s).flags / 4096)

/-- The state as the walk leaves it: an uncorrectable node is recorded. -/
def parsed : State :=
  match (parsePass s f.tract f.head f.tok.len f.node f.off).2 with
  | some n => fault (passSeen f s) .cls 2 f.tract (BitVec.ofNat 64 n)
  | none => passSeen f s

theorem beginPass_eq : beginPass f s =
    if (firstWalk f s).pending = 0 ∨ f.full then
      setFlight (concludePass (walked f s) (firstWalk f s) (parsed f s)).2 (concludePass (walked f s) (firstWalk f s) (parsed f s)).1
    else setFlight (parsed f s) (walked f s) := rfl

theorem parsed_frame : Frame [.intc, .perf, .regs] s (parsed f s) := by
  have hseen : Frame [.perf, .regs] s (passSeen f s) := cellEvent_frame.trans cellEvent_frame
  unfold parsed
  split
  · exact fault_frame.andThen rfl (hseen.weaken rfl)
  · exact hseen.weaken rfl

theorem rd_parsed {a : Nat} (h : a < 0x2100100) (hp : a ≠ R.PERF_EVENT) (hc : a < 0x800F00 ∨ 0x800F20 ≤ a) : rd (parsed f s) a = rd s a := by
  have hseen : rd (passSeen f s) a = rd s a := (rd_cellEvent_below _ _ (by omega) hp).trans (rd_cellEvent_below _ _ (by omega) hp)
  unfold parsed
  split
  · exact (rd_fault_cls _ _ _ _ hc).trans hseen
  · exact hseen

variable {f s} {f0 : Flight} (hf : flight s f.tag = some f0)
include hf

theorem flight_beginPass_waits (hw : (firstWalk f s).pending ≠ 0) (hfull : f.full = false) : flight (beginPass f s) f.tag = some (walked f s) := by
  rw [beginPass_eq, if_neg (by rintro (h | h); exact hw h; exact Bool.false_ne_true (hfull.symm.trans h))]
  exact flight_setFlight ((flight_congr ((parsed_frame f s).flights_eq rfl) _).trans hf) rfl

theorem flight_beginPass_concluded (hw : (firstWalk f s).pending = 0 ∨ f.full = true) :
    flight (beginPass f s) f.tag = some (concludePass (walked f s) (firstWalk f s) (parsed f s)).1 := by
  rw [beginPass_eq, if_pos hw]
  refine flight_setFlight (f := f0) ?_ (concludePass_sameFrame ..).tag
  rw [flight_congr (concludePass_frame.flights_eq rfl), flight_congr ((parsed_frame f s).flights_eq rfl), hf]

/-- Whether the pass waits or is judged, its frame has come to its cell. -/
theorem flight_beginPass : ∃ g, flight (beginPass f s) f.tag = some g ∧ SameFrame (walked f s) g ∧
    ((firstWalk f s).pending ≠ 0 → f.full = false → g = walked f s) ∧
    ((firstWalk f s).pending = 0 ∨ f.full = true → g = (concludePass (walked f s) (firstWalk f s) (parsed f s)).1) := by
  by_cases hw : (firstWalk f s).pending = 0 ∨ f.full = true
  · refine ⟨_, flight_beginPass_concluded hf hw, concludePass_sameFrame .., fun hp hfull => ?_, fun _ => rfl⟩
    exact (hw.elim hp fun h => Bool.false_ne_true (hfull.symm.trans h)).elim
  · obtain ⟨hp, hfull⟩ := not_or.1 hw
    exact ⟨_, flight_beginPass_waits hf hp (Bool.eq_false_iff.2 hfull), .refl _, fun _ _ => rfl, fun h => absurd h hw⟩

end BeginPass

/-! ### A head token reaches its cell -/

section Entered

variable (t c : Nat) (role : Nat) (u : ReplicaUpset) (s : State)

/-- A head token has entered its role. -/
def entered : State := replicaUpset t c u (roleToken t role s)

theorem entered_frame : Frame [.paces, .perf, .cls, .regs] s (entered t c role u s) :=
  replicaUpset_frame.andThen rfl (roleToken_frame.weaken rfl)

/-- Whatever else the state holds, the replica's entries have become uncorrectable. -/
theorem replicaUpset_cls {x y : State} (h : y.cls = x.cls) : (replicaUpset t c u y).cls = (replicaUpset t c u x).cls := by
  unfold replicaUpset
  rw [cellEvent_frame.cls_eq rfl, cellEvent_frame.cls_eq rfl, h]

theorem entered_cls : (entered t c role u s).cls = (replicaUpset t c u s).cls := replicaUpset_cls _ _ _ (roleToken_frame.cls_eq rfl)

theorem rd_entered {a : Nat} (h : a < 0x2100100) (hp : a ≠ R.PERF_EVENT) : rd (entered t c role u s) a = rd s a :=
  calc rd (entered t c role u s) a = rd (roleToken t role s) a := rd_cellEvent_below _ _ (by omega) hp
    _ = rd s a := rd_congr (roleToken_frame.regs_eq rfl) a

end Entered

section Admit

variable (f : Flight) (u : ReplicaUpset) (s : State)

/-- The cell that the head token of a front goes to. -/
def headCell : Nat := cellOf s (routeOf s f.tok).1 (routeOf s f.tok).2

/-- The state as the head token of a front has come to its cell. -/
def headEntered : State := entered (routeOf s f.tok).1 (headCell f s) (routeOf s f.tok).2 u s

/-- The frame in its cell, before its credit is granted. -/
def placed : Flight :=
  { f with tract := (routeOf s f.tok).1, role := (routeOf s f.tok).2, cell := headCell f s, loc := .cell
           node := s.parser.starts.getD f.tok.port 0 }

/-- The frame with its credit, and the state in which its pass begins. -/
def accepted : Flight × State :=
  let x := grant (placed f s) (headEntered f u s)
  (x.1, cellEvent (setFlight x.2 x.1) (routeOf s f.tok).1 (headCell f s) .admitted 1)

theorem admitHead_eq : admitHead f u s =
    if f.runt then
      refuseHead f (routeOf s f.tok).1 (headCell f s) (runtEff f.tok.port f.tok.len f.tok.stamp (headEntered f u s))
    else if cisFree (headEntered f u s) < creditOf f then
      refuseHead f (routeOf s f.tok).1 (headCell f s) (noBuf f.tok.port (headEntered f u s))
    else beginPass (accepted f u s).1 (accepted f u s).2 := rfl

theorem headEntered_frame : Frame [.paces, .perf, .cls, .regs] s (headEntered f u s) := entered_frame ..

theorem rd_headEntered {a : Nat} (h : a < 0x2100100) (hp : a ≠ R.PERF_EVENT) : rd (headEntered f u s) a = rd s a := rd_entered _ _ _ _ _ h hp

theorem cisFree_headEntered : cisFree (headEntered f u s) = cisFree s := by
  unfold cisFree
  rw [(headEntered_frame f u s).cistern_eq rfl]

variable {u s}

theorem admitHead_runt (h : f.runt = true) : admitHead f u s =
    refuseHead f (routeOf s f.tok).1 (headCell f s) (runtEff f.tok.port f.tok.len f.tok.stamp (headEntered f u s)) :=
  (admitHead_eq f u s).trans (if_pos h)

theorem admitHead_noBuf (h : f.runt = false) (hc : cisFree s < creditOf f) : admitHead f u s =
    refuseHead f (routeOf s f.tok).1 (headCell f s) (noBuf f.tok.port (headEntered f u s)) := by
  rw [← cisFree_headEntered f u s] at hc
  exact (admitHead_eq f u s).trans ((if_neg fun hr => Bool.false_ne_true (h.symm.trans hr)).trans (if_pos hc))

theorem admitHead_accepted (h : f.runt = false) (hc : creditOf f ≤ cisFree s) : admitHead f u s =
    beginPass (accepted f u s).1 (accepted f u s).2 := by
  rw [← cisFree_headEntered f u s] at hc
  exact (admitHead_eq f u s).trans ((if_neg fun hr => Bool.false_ne_true (h.symm.trans hr)).trans (if_neg (Nat.not_lt_of_le hc)))

/-! ### Refusal -/

variable (u s)

theorem refuseHead_flight (t c : Nat) {tag : Nat} (hf : f.tag = tag) : flight (refuseHead f t c s) tag = none :=
  flight_eq_none_of_filter hf ((cellEvent_frame.flights_eq rfl).trans (dropFlight_flights f s))

theorem rd_refuseHead (t c : Nat) {a : Nat} (h : a < 0x2100100) (hp : a ≠ R.PERF_EVENT) (hc : a ≠ R.CLASS_EVENT) :
    rd (refuseHead f t c s) a = rd s a :=
  (rd_cellEvent_below _ _ (by omega) hp).trans (rd_dropFlight_ne f s hc)

theorem rd64_portStat_same (s : State) (p k n : Nat) :
    (rd64 (portStat s p k n) (R.CP_STAT p k)).toNat = Nat.min ((rd64 s (R.CP_STAT p k)).toNat + n) (2 ^ 64 - 1) := by
  unfold portStat
  rw [rd64_wr64_same, BitVec.toNat_ofNat, Nat.mod_eq_of_lt]
  exact Nat.lt_of_le_of_lt (Nat.min_le_right _ _) (by decide)

/-- A runt counts in its port's statistic, and in SERVICE and FALLOW it may be captured too. -/
theorem rd64_runtEff (p : Nat) (len : Nat) (stamp : DWord) (s : State) :
    (rd64 (runtEff p len stamp s) (R.CP_STAT p (if s.mode.mode = .service ∨ s.mode.mode = .fallow then 7 else 8))).toNat =
      Nat.min ((rd64 s (R.CP_STAT p (if s.mode.mode = .service ∨ s.mode.mode = .fallow then 7 else 8))).toNat + 1) (2 ^ 64 - 1) := by
  unfold runtEff
  by_cases hm : s.mode.mode = .service ∨ s.mode.mode = .fallow
  · rw [if_pos hm, if_pos hm, ← rd64_portStat_same]
    have hevent (x : State) : rd64 (event x (R.CLIENT_EVENT p) 0) (R.CP_STAT p 7) = rd64 x (R.CP_STAT p 7) :=
      rd64_wr_ne _ _ (by unfold R.CLIENT_EVENT R.CP_STAT; omega)
    have hcap (x : State) (v : Word) : rd64 (wr64 (wr x (R.CLIENT_RUNT_CAP p) v) (R.CLIENT_RUNT_TIME p) stamp) (R.CP_STAT p 7) = rd64 x (R.CP_STAT p 7) :=
      (rd64_wr64_ne _ _ (by unfold R.CLIENT_RUNT_TIME R.CP_STAT; omega)).trans (rd64_wr_ne _ _ (by unfold R.CLIENT_RUNT_CAP R.CP_STAT; omega))
    dsimp only
    split <;> split
    · rw [hevent]
    · rfl
    · rw [hcap, hevent]
    · rw [hcap]
  · rw [if_neg hm, if_neg hm, rd64_portStat_same]

theorem rd_noBuf {p : Nat} (s : State) (hp : p < 18) :
    rd (noBuf p s) (R.BUFFER_CNT_NOBUF p) = sat32 ((rd s (R.BUFFER_CNT_NOBUF p)).toNat + 1) ∧ rbit (noBuf p s) R.BUFFER_EVENT 0 = true := by
  refine ⟨?_, rbit_event_self _ (by decide)⟩
  unfold noBuf
  rw [rd_event_ne _ _ (by unfold R.BUFFER_CNT_NOBUF R.BUFFER_EVENT; omega), rd_bump_same]

end Admit

/-! ### Acceptance -/

theorem grant_fst (f : Flight) (s : State) : (grant f s).1 = { f with credit := if isLine f.tok then f.credit else 63 } := by
  unfold grant
  split <;> rfl

/-- A client port or the host takes a credit of 63 granules. -/
theorem grant_cistern {f : Flight} (s : State) (h : isLine f.tok = false) :
    (grant f s).2.cistern = { s.cistern with credits := s.cistern.credits + 63 } := by
  unfold grant
  rw [h]
  rfl

/-- A reassembled frame's granules leave the pool, which draws as many from the general area as that has free. -/
theorem grant_cistern_line {f : Flight} (s : State) (h : isLine f.tok = true) :
    (grant f s).2.cistern = { s.cistern with
      gen := s.cistern.gen - Nat.min f.pool (cisFree s), pool := s.cistern.pool - f.pool + Nat.min f.pool (cisFree s)
      short := s.cistern.short + (f.pool - Nat.min f.pool (cisFree s)) } := by
  unfold grant
  rw [h]
  rfl

section Accepted

variable (f : Flight) (u : ReplicaUpset) (s : State)

/-- The frame with its credit. -/
def credited : Flight := { placed f s with credit := if isLine f.tok then f.credit else 63 }

theorem accepted_fst : (accepted f u s).1 = credited f s := grant_fst ..

theorem accepted_frame : Frame [.cistern, .perf, .flights, .regs] (headEntered f u s) (accepted f u s).2 :=
  cellEvent_frame.andThen rfl (setFlight_frame.andThen rfl (grant_frame.weaken rfl))

theorem accepted_cistern : (accepted f u s).2.cistern = (grant (placed f s) (headEntered f u s)).2.cistern := by
  unfold accepted
  exact (cellEvent_frame.cistern_eq rfl).trans (setFlight_frame.cistern_eq rfl)

theorem rd_accepted {a : Nat} (h : a < 0x2100100) (hp : a ≠ R.PERF_EVENT) : rd (accepted f u s).2 a = rd s a := by
  unfold accepted
  dsimp only
  rw [rd_cellEvent_below _ _ (by omega) hp, rd_congr (setFlight_frame.regs_eq rfl), rd_congr (grant_frame.regs_eq rfl), rd_headEntered f u s h hp]

theorem accepted_cls : (accepted f u s).2.cls = (replicaUpset (routeOf s f.tok).1 (headCell f s) u s).cls :=
  ((accepted_frame f u s).cls_eq rfl).trans (entered_cls ..)

theorem accepted_now : (accepted f u s).2.now = s.now := ((accepted_frame f u s).now_eq rfl).trans ((headEntered_frame f u s).now_eq rfl)

/-- The walk of the first pass, which sees what the replica's upset made uncorrectable. -/
theorem firstWalk_accepted : firstWalk (credited f s) (accepted f u s).2 =
    (parsePass (replicaUpset (routeOf s f.tok).1 (headCell f s) u s) (routeOf s f.tok).1 f.head f.tok.len (s.parser.starts.getD f.tok.port 0) f.off).1 := by
  unfold firstWalk
  rw [parsePass_congr (s := replicaUpset (routeOf s f.tok).1 (headCell f s) u s) _ (by rw [accepted_cls])]
  · rfl
  · rw [(accepted_frame f u s).parser_eq rfl, (headEntered_frame f u s).parser_eq rfl, replicaUpset_frame.parser_eq rfl]

variable {f u s} {tag : Nat} (hf : flight s tag = some f)
include hf

theorem flight_accepted : flight (accepted f u s).2 (credited f s).tag = some (credited f s) := by
  have htag : (credited f s).tag = f.tag := rfl
  rw [← accepted_fst f u s]
  unfold accepted
  dsimp only
  rw [flight_congr (cellEvent_frame.flights_eq rfl)]
  refine flight_setFlight (f := f) ?_ rfl
  rw [flight_congr (grant_frame.flights_eq rfl), flight_congr ((headEntered_frame f u s).flights_eq rfl), grant_fst]
  exact (congrArg (flight s) (flight_tag hf)).trans hf

end Accepted

/-! ### The command -/

section HeadToken

variable {s : State} {tag : Nat} {f : Flight} (hf : flight s tag = some f) (u : ReplicaUpset)
include hf

theorem headTokenEff_cell (h : f.loc = .cell) : headTokenEff tag u s = s := by
  unfold headTokenEff
  rw [hf]
  dsimp only
  rw [h]

theorem headTokenEff_front (h : f.loc = .front) : headTokenEff tag u s = if canSend s f then admitHead f u (grantRole f s) else s := by
  unfold headTokenEff
  rw [hf]
  dsimp only
  rw [h]

theorem headTokenEff_recirc (h : f.loc = .recirc) : headTokenEff tag u s =
    beginPass { f with cell := cellOf s f.tract f.role } (entered f.tract (cellOf s f.tract f.role) f.role u s) := by
  unfold headTokenEff
  rw [hf]
  dsimp only
  rw [h]
  rfl

end HeadToken

/-- A front that asked for the role has lost to this one. -/
theorem mem_turns_admitHead {s : State} {f : Flight} (u : ReplicaUpset) {p : Nat} (hp : p < 18) (hne : p ≠ f.tok.port)
    (ha : frontAsks s (routeOf s f.tok).1 (routeOf s f.tok).2 p = true) :
    (⟨.role (routeOf s f.tok).1 (routeOf s f.tok).2, f.tok.port, p⟩ : Turn) ∈ (admitHead f u (grantRole f s)).turns := by
  rw [admitHead_frame.turns_eq rfl]
  exact mem_turns_granted s (List.mem_filter.2 ⟨List.mem_range.2 hp, ha⟩) hne

/-! ### What the admission of a frame comes to -/

section Admission

variable (f : Flight) (u : ReplicaUpset) (s : State)

/-- The frame `g` in its cell: the pass waits for the length where a bound is pending, and has been judged where none is. -/
structure Admitted (w : Walk) (g : Flight) : Prop where
  loc : g.loc ≠ .front
  role : (g.tract, g.role) = routeOf s f.tok
  cell : g.cell = headCell f s
  data : g.data = f.data
  credit : isLine f.tok = false → g.credit = 63
  waits : w.pending ≠ 0 → f.full = false → g.walk = some w ∧ g.loc = .cell ∧ g.fate = f.fate
  judged : w.pending = 0 ∨ f.full = true → ∃ g0 sx, g = (concludePass g0 w sx).1 ∧ g0.tok = f.tok ∧ g0.pass = f.pass ∧ g0.fate = f.fate ∧
    (g0.tract, g0.role) = routeOf s f.tok ∧ g0.loc = .cell ∧ sx.cls = (replicaUpset (routeOf s f.tok).1 (headCell f s) u s).cls ∧
    sx.now = s.now ∧ ∀ n < 4, rd sx (R.CLASS_PRIV n) = rd s (R.CLASS_PRIV n)

/-- The walk of a front's head token at its first node. -/
def headWalk : Walk :=
  (parsePass (replicaUpset (routeOf s f.tok).1 (headCell f s) u s) (routeOf s f.tok).1 f.head f.tok.len (s.parser.starts.getD f.tok.port 0) f.off).1

variable {f s} {tag : Nat} (hf : flight s tag = some f) (hr : f.runt = false) (hc : creditOf f ≤ cisFree s)
include hr hc

theorem admitHead_beginPass : admitHead f u s = beginPass (credited f s) (accepted f u s).2 := by
  rw [admitHead_accepted f hr hc, accepted_fst]

theorem admitHead_cistern (h : isLine f.tok = false) : (admitHead f u s).cistern = { s.cistern with credits := s.cistern.credits + 63 } := by
  have hp : isLine (placed f s).tok = false := h
  rw [admitHead_beginPass u hr hc, beginPass_frame.cistern_eq rfl, accepted_cistern, grant_cistern _ hp, (headEntered_frame f u s).cistern_eq rfl]

theorem admitHead_cistern_line (h : isLine f.tok = true) : (admitHead f u s).cistern = { s.cistern with
    gen := s.cistern.gen - Nat.min f.pool (cisFree s), pool := s.cistern.pool - f.pool + Nat.min f.pool (cisFree s)
    short := s.cistern.short + (f.pool - Nat.min f.pool (cisFree s)) } := by
  have hp : isLine (placed f s).tok = true := h
  rw [admitHead_beginPass u hr hc, beginPass_frame.cistern_eq rfl, accepted_cistern, grant_cistern_line _ hp, (headEntered_frame f u s).cistern_eq rfl,
    cisFree_headEntered]
  rfl

include hf

theorem flight_admitHead : ∃ g, flight (admitHead f u s) tag = some g ∧ Admitted f u s (headWalk f u s) g := by
  obtain ⟨g, hg, hsame, hwaits, hjudged⟩ := flight_beginPass (flight_accepted (u := u) hf)
  rw [show (credited f s).tag = tag from (flight_tag hf : f.tag = tag)] at hg
  rw [firstWalk_accepted] at hwaits hjudged
  have hwalk := firstWalk_accepted f u s
  refine ⟨g, (admitHead_beginPass u hr hc).symm ▸ hg, hsame.loc nofun, ?_, hsame.cell, hsame.data, fun h => ?_, fun hp hfull => ?_, fun hp => ?_⟩
  · rw [hsame.tract, hsame.role]
    rfl
  · rw [hsame.credit]
    show (if isLine f.tok then f.credit else 63) = 63
    rw [h]
    rfl
  · rw [hwaits hp hfull]
    exact ⟨congrArg some hwalk, rfl, rfl⟩
  · refine ⟨_, _, hjudged hp, rfl, rfl, rfl, rfl, rfl, ?_, ?_, fun n hn => ?_⟩
    · exact ((parsed_frame _ _).cls_eq rfl).trans (accepted_cls f u s)
    · exact ((parsed_frame _ _).now_eq rfl).trans (accepted_now f u s)
    · rw [rd_parsed _ _ (by unfold R.CLASS_PRIV; omega) (by unfold R.CLASS_PRIV R.PERF_EVENT; omega) (by unfold R.CLASS_PRIV; omega),
        rd_accepted f u s (by unfold R.CLASS_PRIV; omega) (by unfold R.CLASS_PRIV R.PERF_EVENT; omega)]

end Admission

section Recirculated

variable {s : State} {tag : Nat} {f : Flight} (hf : flight s tag = some f) (hl : f.loc = .recirc) (u : ReplicaUpset)
include hf hl

/-- A recirculated head token goes to the cell that its role has now. -/
theorem flight_recirculated : ∃ g, flight (headTokenEff tag u s) tag = some g ∧ g.cell = cellOf s f.tract f.role ∧ g.credit = f.credit ∧
    (headTokenEff tag u s).cistern = s.cistern ∧
    ∀ w, w = (parsePass (replicaUpset f.tract g.cell u s) f.tract f.head f.tok.len f.node f.off).1 → w.pending ≠ 0 → f.full = false →
      g.walk = some w ∧ g.loc = .cell ∧ g.fate = f.fate := by
  have he := entered_frame f.tract (cellOf s f.tract f.role) f.role u s
  have hin : flight (entered f.tract (cellOf s f.tract f.role) f.role u s) ({ f with cell := cellOf s f.tract f.role } : Flight).tag = some f :=
    (flight_congr (he.flights_eq rfl) _).trans ((congrArg (flight s) (flight_tag hf)).trans hf)
  obtain ⟨g, hg, hsame, hwaits, -⟩ := flight_beginPass hin
  rw [headTokenEff_recirc hf u hl]
  refine ⟨g, (congrArg (flight _) (flight_tag hf)).symm.trans hg, hsame.cell, hsame.credit, (beginPass_frame.cistern_eq rfl).trans (he.cistern_eq rfl), fun w hw hp hfull => ?_⟩
  have hwalk : firstWalk { f with cell := cellOf s f.tract f.role } (entered f.tract (cellOf s f.tract f.role) f.role u s) = w := by
    rw [hw, hsame.cell]
    unfold firstWalk
    refine congrArg Prod.fst (parsePass_congr ?_ ?_ _ _ _ _ _)
    · rw [he.parser_eq rfl, replicaUpset_frame.parser_eq rfl]
    · rw [entered_cls]
      rfl
  rw [hwaits (hwalk ▸ hp) hfull]
  exact ⟨congrArg some hwalk, rfl, rfl⟩

end Recirculated

end Sys2Proof.Machine
end

section
/-!
The end of a frame (chapter 08): its bytes land in its granules, what of the credit was not used returns, and a pass that waited is judged.
-/
namespace Sys2Proof.Machine

/-! ### Bytes written over pieces that do not overlap -/

/-- Two pieces have no byte in common. -/
def apart (p q : Nat × Nat) : Prop := p.1 + p.2 ≤ q.1 ∨ q.1 + q.2 ≤ p.1

theorem access_mem (s : State) (a : Access) : (access s a).cistern.mem = s.cistern.mem := congrArg Cistern.mem (access_frame.cistern_eq rfl)

theorem cisByte_writeRuns_out (acc : Access) {l : List (Nat × Nat)} (b : Bytes) (s : State) {k : Nat}
    (h : ∀ r ∈ l, k < r.1 ∨ r.1 + r.2 ≤ k) : cisByte (writeRuns acc s l b) k = cisByte s k := by
  induction l generalizing b s with
  | nil => rfl
  | cons r l ih =>
    obtain ⟨hr, hl⟩ := List.forall_mem_cons.1 h
    have hlen : (b.take r.2).length ≤ r.2 := by rw [List.length_take]; exact Nat.min_le_left _ _
    rw [writeRuns, ih _ _ hl, cisByte_cisWrite, if_neg (by omega), cisByte_congr (access_mem ..)]

/-- They read back as written. -/
theorem runBytes_writeRuns (acc : Access) {l : List (Nat × Nat)} (b : Bytes) (s : State) (hl : l.Pairwise apart) (hb : runsLen l = b.length) :
    runBytes (writeRuns acc s l b) l = b := by
  induction l generalizing b s with
  | nil => exact (List.eq_nil_of_length_eq_zero hb.symm).symm
  | cons r l ih =>
    obtain ⟨hr, hl⟩ := List.pairwise_cons.1 hl
    have hlen : r.2 + runsLen l = b.length := hb
    have htake : (b.take r.2).length = r.2 := by rw [List.length_take]; omega
    have hrest : runsLen l = (b.drop r.2).length := by rw [List.length_drop]; omega
    have hfirst (t : State) : cisBytes (writeRuns acc (cisWrite t r.1 (b.take r.2)) l (b.drop r.2)) r.1 r.2 = b.take r.2 := by
      calc cisBytes (writeRuns acc (cisWrite t r.1 (b.take r.2)) l (b.drop r.2)) r.1 r.2
          = cisBytes (cisWrite t r.1 (b.take r.2)) r.1 r.2 := by
            unfold cisBytes
            refine List.map_congr_left fun i hi => cisByte_writeRuns_out _ _ _ fun q hq => ?_
            have hi := List.mem_range.1 hi
            rcases hr q hq with h | h
            · left; omega
            · right; omega
        _ = cisBytes (cisWrite t r.1 (b.take r.2)) r.1 (b.take r.2).length := by rw [htake]
        _ = b.take r.2 := cisBytes_cisWrite ..
    unfold runBytes at ih ⊢
    rw [writeRuns, List.flatMap_cons, ih _ _ hl hrest, hfirst, List.take_append_drop]

/-! ### The pieces of granules -/

theorem runs_cons (g : Nat) (gs : List Nat) {len : Nat} (h : len ≠ 0) :
    runs (g :: gs) 0 len = (g * granuleSize, Nat.min len granuleSize) :: runs gs 0 (len - Nat.min len granuleSize) := by
  rw [runs, if_neg h, if_neg (by decide), Nat.add_zero, Nat.sub_zero]

theorem runs_zero (gs : List Nat) : runs gs 0 0 = [] := by
  cases gs with
  | nil => rfl
  | cons g gs => exact if_pos rfl

/-- Each piece begins with a granule and lies within it. -/
theorem mem_runs {gs : List Nat} {len : Nat} {r : Nat × Nat} (h : r ∈ runs gs 0 len) : ∃ g ∈ gs, r.1 = g * 256 ∧ r.2 ≤ 256 := by
  induction gs generalizing len with
  | nil => cases h
  | cons g gs ih =>
    by_cases h0 : len = 0
    · rw [h0, runs_zero] at h
      cases h
    · rw [runs_cons g gs h0] at h
      rcases List.mem_cons.1 h with rfl | h
      · exact ⟨g, List.mem_cons_self, rfl, Nat.min_le_right _ _⟩
      · obtain ⟨x, hx, hr⟩ := ih h
        exact ⟨x, List.mem_cons_of_mem _ hx, hr⟩

theorem runs_apart {gs : List Nat} (h : gs.Nodup) (len : Nat) : (runs gs 0 len).Pairwise apart := by
  induction gs generalizing len with
  | nil => exact .nil
  | cons g gs ih =>
    obtain ⟨hg, hgs⟩ := List.nodup_cons.1 h
    by_cases h0 : len = 0
    · rw [h0, runs_zero]
      exact .nil
    · rw [runs_cons g gs h0]
      refine List.pairwise_cons.2 ⟨fun r hr => ?_, ih hgs _⟩
      obtain ⟨x, hx, h1, h2⟩ := mem_runs hr
      have hne : g ≠ x := fun e => hg (e ▸ hx)
      have hmin : Nat.min len granuleSize ≤ 256 := Nat.min_le_right _ _
      show g * 256 + Nat.min len granuleSize ≤ r.1 ∨ r.1 + r.2 ≤ g * 256
      omega

theorem runsLen_runs {gs : List Nat} {len : Nat} (h : len ≤ 256 * gs.length) : runsLen (runs gs 0 len) = len := by
  induction gs generalizing len with
  | nil =>
    have h0 : len = 0 := Nat.le_zero.1 h
    rw [h0]
    rfl
  | cons g gs ih =>
    rw [List.length_cons] at h
    by_cases h0 : len = 0
    · rw [h0, runs_zero]
      rfl
    · have hmin : Nat.min len granuleSize = if len ≤ 256 then len else 256 := Nat.min_def
      have hrest : runsLen (runs gs 0 (len - Nat.min len granuleSize)) = len - Nat.min len granuleSize := ih (by rw [hmin]; split <;> omega)
      rw [runs_cons g gs h0, show runsLen ((g * granuleSize, Nat.min len granuleSize) :: runs gs 0 (len - Nat.min len granuleSize)) =
        Nat.min len granuleSize + runsLen (runs gs 0 (len - Nat.min len granuleSize)) from List.sum_cons, hrest, hmin]
      split <;> omega

/-- A byte in none of the granules is in none of their pieces. -/
theorem runs_out {gs : List Nat} {len a : Nat} (h : a / 256 ∉ gs) : ∀ r ∈ runs gs 0 len, a < r.1 ∨ r.1 + r.2 ≤ a := by
  intro r hr
  obtain ⟨g, hg, h1, h2⟩ := mem_runs hr
  have hne : a / 256 ≠ g := fun e => h (e ▸ hg)
  omega

/-! ### Granules that return -/

/-- Granules go to the draw reserve while it is short, then to the reassembly pool while it is short, and then to the general area. -/
theorem foldl_toArea (size : Nat) (c : Cistern) (n : Nat) :
    let d := (List.range n).foldl (fun c _ => toArea c size) c
    let k1 := Nat.min n (size - c.reserve)
    let k2 := Nat.min (n - k1) c.short
    d.credits = c.credits ∧ d.reserve = c.reserve + k1 ∧ d.pool = c.pool + k2 ∧ d.short = c.short - k2 ∧ d.gen = c.gen + (n - k1 - k2) := by
  dsimp only
  rw [show Nat.min n (size - c.reserve) = min n (size - c.reserve) from rfl,
    show Nat.min (n - min n (size - c.reserve)) c.short = min (n - min n (size - c.reserve)) c.short from rfl]
  induction n with
  | zero => simp
  | succ n ih =>
    rw [List.range_succ, List.foldl_append, List.foldl_cons, List.foldl_nil]
    generalize (List.range n).foldl (fun c _ => toArea c size) c = d at ih ⊢
    obtain ⟨hcredits, hreserve, hpool, hshort, hgen⟩ := ih
    unfold toArea
    split
    · exact ⟨hcredits, by show d.reserve + 1 = _; omega, by show d.pool = _; omega, by show d.short = _; omega, by show d.gen = _; omega⟩
    · split
      · exact ⟨hcredits, by show d.reserve = _; omega, by show d.pool + 1 = _; omega, by show d.short - 1 = _; omega, by show d.gen = _; omega⟩
      · exact ⟨hcredits, by show d.reserve = _; omega, by show d.pool = _; omega, by show d.short = _; omega, by show d.gen + 1 = _; omega⟩

/-! ### The payload in its granules -/

section Payload

variable (f : Flight) (gs : List Nat) (s : State)

/-- The frame whose payload lies in its granules. -/
def payloadIn : Flight := { f with full := true, credit := 0, pool := 0, data := [], parts := [.cis gs 0 f.tok.len] }

/-- A reassembled frame's granules left the pool as it was admitted. -/
theorem landPayload_line (h : isLine f.tok = true) : (landPayload f gs s).2 = holdAll s gs := by
  unfold landPayload
  dsimp only
  rw [if_pos h]

theorem landPayload_credit (h : isLine f.tok = false) : (landPayload f gs s).2 = holdAll (returnCredit (f.credit - gs.length)
    { s with cistern := { s.cistern with gen := s.cistern.gen - gs.length, credits := s.cistern.credits - gs.length } }) gs := by
  unfold landPayload
  dsimp only
  rw [if_neg (Bool.eq_false_iff.1 h)]

/-- To hold granules changes only who holds them. -/
theorem holdAll_cistern : ∃ r, (holdAll s gs).cistern = { s.cistern with refs := r } := by
  induction gs generalizing s with
  | nil => exact ⟨_, rfl⟩
  | cons g gs ih =>
    obtain ⟨r, hr⟩ := ih (hold s g)
    exact ⟨r, hr⟩

theorem holdAll_mem : (holdAll s gs).cistern.mem = s.cistern.mem := by
  obtain ⟨r, hr⟩ := holdAll_cistern gs s
  rw [hr]

theorem landPayload_mem : (landPayload f gs s).2.cistern.mem = s.cistern.mem := by
  cases h : isLine f.tok with
  | true => rw [landPayload_line f gs s h, holdAll_mem]
  | false =>
    rw [landPayload_credit f gs s h, holdAll_mem]
    exact toAreas_mem ..

/-- Writing changes the bytes and what is uncorrectable, and no granule's place. -/
theorem writeRuns_cistern (acc : Access) (l : List (Nat × Nat)) (b : Bytes) (s : State) :
    ∃ m p, (writeRuns acc s l b).cistern = { s.cistern with mem := m, poison := p } := by
  induction l generalizing b s with
  | nil => exact ⟨_, _, rfl⟩
  | cons r l ih =>
    obtain ⟨m, p, h⟩ := ih (b.drop r.2) (cisWrite (access s { acc with addr := r.1, bytes := r.2, write := true, res := false }) r.1 (b.take r.2))
    refine ⟨m, p, h.trans ?_⟩
    unfold cisWrite
    rw [access_frame.cistern_eq rfl]

theorem writePayload_cistern (h : Flight) (data : Bytes) :
    ∃ m p, (writePayload h gs data s).cistern = { s.cistern with mem := m, poison := p } := writeRuns_cistern ..

/-- The payload reads back, and every byte outside its granules is as it was. -/
theorem writePayload_reads (h : Flight) {data : Bytes} (hn : gs.Nodup) (hl : data.length ≤ 256 * gs.length) :
    partsBytes (writePayload h gs data s) [.cis gs 0 data.length] = data ∧
    ∀ a, a / 256 ∉ gs → cisByte (writePayload h gs data s) a = cisByte s a := by
  refine ⟨?_, fun a ha => cisByte_writeRuns_out _ _ _ (runs_out ha)⟩
  calc partsBytes (writePayload h gs data s) [.cis gs 0 data.length]
      = runBytes (writePayload h gs data s) (runs gs 0 data.length) := List.append_nil _
    _ = data := runBytes_writeRuns _ _ _ (runs_apart hn _) (runsLen_runs hl)

end Payload

/-! ### The command -/

/-- The end of a frame is reported: the payload is landed, and then written by the frame `h` in the state `s2` that the judgement of a waiting
pass has made of it. -/
structure Completes (f : Flight) (gs : List Nat) (s : State) (h : Flight) (s2 t : State) : Prop where
  state : t = setFlight (writePayload h gs f.data s2) h
  same : SameFrame (payloadIn f gs) h
  frame : Frame [.intc, .perf, .cls, .regs] (landPayload f gs s).2 s2
  judged : ∀ w, f.walk = some w → f.fate = none → h = (concludePass (payloadIn f gs) w (landPayload f gs s).2).1

section Complete

variable {s : State} {tag : Nat} {gs : List Nat} {f : Flight} (hf : flight s tag = some f) (hloc : f.loc ≠ .front) (hfull : f.full = false)
  (hg : canGive s gs = true) (hn : gs.length = granulesOf f.tok.len)
include hf hloc hfull hg hn

theorem payloadCompleteEff_completes : ∃ h s2, Completes f gs s h s2 (payloadCompleteEff tag gs s) := by
  have hopen : ¬(f.loc = .front ∨ f.full = true ∨ (!canGive s gs) = true ∨ gs.length ≠ granulesOf f.tok.len) := by
    rintro (h | h | h | h)
    · exact hloc h
    · exact Bool.false_ne_true (hfull.symm.trans h)
    · rw [hg] at h
      exact Bool.false_ne_true h
    · exact h hn
  have htaken : payloadCompleteEff tag gs s = match f.walk, f.fate with
      | some w, none => setFlight (writePayload (concludePass (payloadIn f gs) w (landPayload f gs s).2).1 gs f.data
          (concludePass (payloadIn f gs) w (landPayload f gs s).2).2) (concludePass (payloadIn f gs) w (landPayload f gs s).2).1
      | _, _ => setFlight (writePayload (payloadIn f gs) gs f.data (landPayload f gs s).2) (payloadIn f gs) := by
    unfold payloadCompleteEff
    rw [hf]
    exact if_neg hopen
  rw [htaken]
  cases hw : f.walk with
  | none => exact ⟨payloadIn f gs, _, rfl, .refl _, .refl, fun w h _ => by rw [hw] at h; cases h⟩
  | some w =>
    cases hx : f.fate with
    | some x => exact ⟨payloadIn f gs, _, rfl, .refl _, .refl, fun w _ h => by rw [hx] at h; cases h⟩
    | none =>
      refine ⟨_, _, rfl, concludePass_sameFrame .., concludePass_frame, fun v h _ => ?_⟩
      obtain rfl : w = v := Option.some.inj (hw.symm.trans h)
      rfl

end Complete

/-! ### A conflict found at the end of the frame -/

/-- A bound beyond the length ends the pass with LENGTH_CONFLICT. -/
theorem concludePass_lengthConflict (g : Flight) {w : Walk} (x : State) (hp : g.tok.len < w.pending) (hf : w.flags % 32 / 4 = 0) :
    (concludePass g w x).1.fate.isSome = true ∧ (concludePass g w x).1.tok.flags.testBit 2 = true := by
  have hstuck : Walk.stuck { w with flags := w.flags + 4 } = false := by
    refine Bool.eq_false_iff.2 fun h => (flags_stuck _).2 h ?_
    show (w.flags + 4) % 32 / 8 = 0
    omega
  have hconflict : (w.flags + 4).testBit 2 = true := (flags_conflict { w with flags := w.flags + 4 }).1 (by show (w.flags + 4) % 8 / 4 = 1; omega)
  have hcond : passCond g { w with flags := w.flags + 4 } x = some 1 := by
    unfold passCond
    rw [hstuck, if_neg Bool.false_ne_true]
    exact if_pos hconflict
  have hbit {m : Nat} (hm : m % 8 = 0) : (passFlags g { w with flags := w.flags + 4 } + m).testBit 2 = true := by
    rw [Nat.testBit_eq_decide_div_mod_eq, decide_eq_true_iff]
    show (w.flags + 4 + (g.pass - 1) * 64 + m) / 2 ^ 2 % 2 = 1
    omega
  rw [concludePass_conflict g x hp hf]
  obtain ⟨-, hdefault, hprivileged, hlost⟩ := (judged g { w with flags := w.flags + 4 } x).excepted 1 hcond
  rw [hcond] at hdefault hprivileged hlost
  cases hentry : privEntry x g.tok.port with
  | none =>
    obtain ⟨hfate, -, hflags, -⟩ := hdefault hentry
    rw [hfate, hflags]
    exact ⟨rfl, hbit (m := 0x200) (by decide)⟩
  | some n =>
    by_cases hl : tokenUnit ≤ bucketLevel x n
    · obtain ⟨hfate, hflags, -⟩ := hprivileged n hentry hl
      rw [hfate, hflags]
      exact ⟨rfl, hbit (m := 0x100) (by decide)⟩
    · obtain ⟨hfate, hflags, -⟩ := hlost n hentry (Nat.lt_of_not_le hl)
      rw [hfate, hflags]
      exact ⟨rfl, hbit (m := 0) (by decide)⟩

/-! ### What the end of a frame comes to -/

/-- What of the credit was not used returns to the areas that are short. -/
theorem landPayload_accounts (f : Flight) (gs : List Nat) (s : State) (h : isLine f.tok = false) :
    let c := (landPayload f gs s).2.cistern
    let unused := f.credit - gs.length
    let k1 := Nat.min unused (rfld s R.BUFFER_CIS_RESERVE 0 20 - s.cistern.reserve)
    let k2 := Nat.min (unused - k1) s.cistern.short
    c.credits = s.cistern.credits - gs.length - unused ∧ c.reserve = s.cistern.reserve + k1 ∧ c.pool = s.cistern.pool + k2 ∧
      c.short = s.cistern.short - k2 ∧ c.gen = s.cistern.gen - gs.length - unused + (unused - k1 - k2) := by
  have hareas := foldl_toArea (rfld s R.BUFFER_CIS_RESERVE 0 20) { s.cistern with
    gen := s.cistern.gen - gs.length - (f.credit - gs.length), credits := s.cistern.credits - gs.length - (f.credit - gs.length) } (f.credit - gs.length)
  obtain ⟨r, hr⟩ := holdAll_cistern gs (returnCredit (f.credit - gs.length)
    { s with cistern := { s.cistern with gen := s.cistern.gen - gs.length, credits := s.cistern.credits - gs.length } })
  rw [landPayload_credit f gs s h, hr]
  exact hareas

/-- A reassembled frame's granules were given as it was admitted. -/
theorem landPayload_accounts_line (f : Flight) (gs : List Nat) (s : State) (h : isLine f.tok = true) :
    (landPayload f gs s).2.cistern.credits = s.cistern.credits ∧ (landPayload f gs s).2.cistern.gen = s.cistern.gen ∧
      (landPayload f gs s).2.cistern.pool = s.cistern.pool := by
  obtain ⟨r, hr⟩ := holdAll_cistern gs s
  rw [landPayload_line f gs s h, hr]
  exact ⟨rfl, rfl, rfl⟩

section Completed

variable {f : Flight} {gs : List Nat} {s s2 u : State} {h : Flight} (hu : Completes f gs s h s2 u)
include hu

/-- But for its bytes the cistern is as the landing left it. -/
theorem Completes.cistern_eq : ∃ m p, u.cistern = { (landPayload f gs s).2.cistern with mem := m, poison := p } := by
  obtain ⟨m, p, hm⟩ := writePayload_cistern gs s2 h f.data
  refine ⟨m, p, ?_⟩
  rw [hu.state, setFlight_cistern, hm, hu.frame.cistern_eq rfl]

theorem Completes.flight_eq {tag : Nat} (hf : flight s tag = some f) : flight u tag = some h := by
  rw [hu.state]
  refine flight_setFlight (f := f) ?_ (hu.same.tag.trans (flight_tag hf : f.tag = tag))
  rw [flight_congr (writePayload_frame.flights_eq rfl), flight_congr (hu.frame.flights_eq rfl), flight_congr (landPayload_frame.flights_eq rfl), hf]

theorem Completes.reads (hn : gs.Nodup) (hl : f.data.length ≤ 256 * gs.length) (hd : f.data.length = f.tok.len) :
    partsBytes u h.parts = f.data ∧ ∀ a, a / 256 ∉ gs → cisByte u a = cisByte s a := by
  obtain ⟨hin, hout⟩ := writePayload_reads gs s2 h hn hl
  have hmem : u.cistern.mem = (writePayload h gs f.data s2).cistern.mem := by rw [hu.state, setFlight_cistern]
  refine ⟨?_, fun a ha => ?_⟩
  · rw [hu.same.parts, show (payloadIn f gs).parts = [.cis gs 0 f.tok.len] from rfl, ← hd,
      partsBytes_congr hmem (by rw [hu.state, setFlight_res]), hin]
  · rw [cisByte_congr hmem, hout a ha, cisByte_congr (congrArg Cistern.mem (hu.frame.cistern_eq rfl)), cisByte_congr (landPayload_mem f gs s)]

end Completed

/-! ### The parts of the obligation -/

theorem rd64_refuseHead_portStat (f : Flight) (t c : Nat) (s : State) {p k : Nat} (hp : p < 16) (hk : k ≤ 8) :
    rd64 (refuseHead f t c s) (R.CP_STAT p k) = rd64 s (R.CP_STAT p k) := by
  have hlow : R.CP_STAT p k + 4 < 0x700000 := by unfold R.CP_STAT; omega
  refine rd64_of_rd (rd_refuseHead f s t c (by omega) ?_ ?_) (rd_refuseHead f s t c (by omega) ?_ ?_)
  · unfold R.PERF_EVENT; omega
  · unfold R.CLASS_EVENT; omega
  · unfold R.PERF_EVENT; omega
  · unfold R.CLASS_EVENT; omega

theorem rd64_headEntered_portStat (f : Flight) (u : ReplicaUpset) (s : State) {p k : Nat} (hp : p < 16) (hk : k ≤ 8) :
    rd64 (headEntered f u s) (R.CP_STAT p k) = rd64 s (R.CP_STAT p k) := by
  have hlow : R.CP_STAT p k + 4 < 0x700000 := by unfold R.CP_STAT; omega
  refine rd64_of_rd (rd_headEntered f u s (by omega) ?_) (rd_headEntered f u s (by omega) ?_)
  · unfold R.PERF_EVENT; omega
  · unfold R.PERF_EVENT; omega

theorem headWalk_grantRole (f : Flight) (u : ReplicaUpset) (s : State) : headWalk f u (grantRole f s) = headWalk f u s := by
  refine congrArg Prod.fst (parsePass_congr ?_ ?_ _ _ _ _ _)
  · rw [replicaUpset_frame.parser_eq rfl, replicaUpset_frame.parser_eq rfl, grantRole_frame.parser_eq rfl]
  · exact congrArg Classifier.badNodes (replicaUpset_cls _ _ _ (grantRole_frame.cls_eq rfl))

/-- The grant of the role changes nothing that the admission reads. -/
theorem Admitted.of_granted {f : Flight} {u : ReplicaUpset} {s : State} {g : Flight}
    (h : Admitted f u (grantRole f s) (headWalk f u (grantRole f s)) g) : Admitted f u s (headWalk f u s) g := by
  rw [headWalk_grantRole] at h
  obtain ⟨hloc, hrole, hcell, hdata, hcredit, hwaits, hjudged⟩ := h
  refine ⟨hloc, hrole, hcell, hdata, hcredit, hwaits, fun hp => ?_⟩
  obtain ⟨g0, sx, hg, htok, hpass, hfate, hr, hl, hcls, hnow, hpriv⟩ := hjudged hp
  exact ⟨g0, sx, hg, htok, hpass, hfate, hr, hl, hcls.trans (replicaUpset_cls _ _ _ (grantRole_frame.cls_eq rfl)), hnow, hpriv⟩

/-- The refusal, and the admission, of a frame by its cell. -/
theorem headTokens (s : State) (tag : Nat) (u : ReplicaUpset) (f : Flight) (hr : running s = true) (hf : flight s tag = some f)
    (hport : f.tok.port < 18) :
    let r := routeOf s f.tok
    let k := Nat.min f.pool (cisFree s)
    let runts := if s.mode.mode = .service ∨ s.mode.mode = .fallow then 7 else 8
    ∃ t, exec (.headToken tag u) s = .next t ∧ t.queues = s.queues ∧ t.wire = s.wire ∧
      (f.loc = .cell ∨ (f.loc = .front ∧ canSend s f = false) → intcOnly s t) ∧
      (f.loc = .front → canSend s f = true → ∀ p, p < 18 → p ≠ f.tok.port → frontAsks s r.1 r.2 p = true →
        (⟨.role r.1 r.2, f.tok.port, p⟩ : Turn) ∈ t.turns) ∧
      (f.loc = .front → canSend s f = true → f.runt = true → flight t tag = none ∧
        (f.tok.port < 16 → (rd64 t (R.CP_STAT f.tok.port runts)).toNat =
          Nat.min ((rd64 s (R.CP_STAT f.tok.port runts)).toNat + 1) (2 ^ 64 - 1))) ∧
      (f.loc = .front → canSend s f = true → f.runt = false → cisFree s < creditOf f →
        flight t tag = none ∧ rd t (R.BUFFER_CNT_NOBUF f.tok.port) = sat32 ((rd s (R.BUFFER_CNT_NOBUF f.tok.port)).toNat + 1) ∧
        rbit t R.BUFFER_EVENT 0 = true) ∧
      (f.loc = .front → canSend s f = true → f.runt = false → creditOf f ≤ cisFree s →
        ∃ g, flight t tag = some g ∧ Admitted f u s (headWalk f u s) g ∧
          (isLine f.tok = false → t.cistern = { s.cistern with credits := s.cistern.credits + 63 }) ∧
          (isLine f.tok = true → t.cistern = { s.cistern with
            gen := s.cistern.gen - k, pool := s.cistern.pool - f.pool + k, short := s.cistern.short + (f.pool - k) })) ∧
      (f.loc = .recirc → ∃ g, flight t tag = some g ∧ g.cell = cellOf s f.tract f.role ∧ g.credit = f.credit ∧ t.cistern = s.cistern ∧
        ∀ w, w = (parsePass (replicaUpset f.tract g.cell u s) f.tract f.head f.tok.len f.node f.off).1 → w.pending ≠ 0 → f.full = false →
          g.walk = some w ∧ g.loc = .cell ∧ g.fate = f.fate) := by
  intro r k runts
  obtain ⟨t, ht, hF⟩ := viaCore_frame hr (headTokenEff tag u)
  have hflight : flight t tag = flight (headTokenEff tag u s) tag := flight_congr (hF.flights_eq rfl) tag
  have hsent (hl : f.loc = .front) (hs : canSend s f = true) : headTokenEff tag u s = admitHead f u (grantRole f s) :=
    (headTokenEff_front hf u hl).trans (if_pos hs)
  refine ⟨t, ht, (hF.queues_eq rfl).trans (headTokenEff_frame.queues_eq rfl), (hF.wire_eq rfl).trans (headTokenEff_frame.wire_eq rfl), ?_,
    fun hl hs p hp hne ha => ?_, fun hl hs hrunt => ?_, fun hl hs hrunt hc => ?_, fun hl hs hrunt hc => ?_, fun hl => ?_⟩
  · have hsame : headTokenEff tag u s = s → intcOnly s t := fun h => (h ▸ hF).intcOnly
    rintro (hl | ⟨hl, hs⟩)
    · exact hsame (headTokenEff_cell hf u hl)
    · exact hsame ((headTokenEff_front hf u hl).trans (if_neg (Bool.eq_false_iff.1 hs)))
  · rw [hF.turns_eq rfl, hsent hl hs]
    exact mem_turns_admitHead u hp hne ha
  · rw [hsent hl hs, admitHead_runt f hrunt] at hF hflight
    refine ⟨hflight.trans (refuseHead_flight f _ _ _ (flight_tag hf)), fun hp => ?_⟩
    have hmode : (headEntered f u (grantRole f s)).mode = s.mode := (headEntered_frame f u _).mode_eq rfl
    have hcount := rd64_runtEff f.tok.port f.tok.len f.tok.stamp (headEntered f u (grantRole f s))
    rw [hmode, rd64_headEntered_portStat f u _ hp (by split <;> omega)] at hcount
    rw [rd64_congr (hF.regs_eq rfl), rd64_refuseHead_portStat f _ _ _ hp (by dsimp only [runts]; split <;> omega)]
    exact hcount
  · rw [hsent hl hs, admitHead_noBuf (s := grantRole f s) f hrunt hc] at hF hflight
    refine ⟨hflight.trans (refuseHead_flight f _ _ _ (flight_tag hf)), ?_⟩
    obtain ⟨hcount, hbit⟩ := rd_noBuf (headEntered f u (grantRole f s)) hport
    rw [rd_headEntered f u _ (by unfold R.BUFFER_CNT_NOBUF; omega) (by unfold R.BUFFER_CNT_NOBUF R.PERF_EVENT; omega)] at hcount
    rw [rd_congr (hF.regs_eq rfl), rbit_congr (hF.regs_eq rfl)]
    exact ⟨(rd_refuseHead f _ _ _ (by unfold R.BUFFER_CNT_NOBUF; omega) (by unfold R.BUFFER_CNT_NOBUF R.PERF_EVENT; omega)
      (by unfold R.BUFFER_CNT_NOBUF R.CLASS_EVENT; omega)).trans hcount,
      (rbit_of_rd (rd_refuseHead f _ _ _ (a := R.BUFFER_EVENT) (by decide) (by decide) (by decide))).trans hbit⟩
  · obtain ⟨g, hg, hadmitted⟩ := flight_admitHead (s := grantRole f s) u hf hrunt hc
    rw [hsent hl hs] at hflight
    refine ⟨g, hflight.trans hg, hadmitted.of_granted, fun hline => ?_, fun hline => ?_⟩
    · rw [hF.cistern_eq rfl, hsent hl hs]
      exact admitHead_cistern (s := grantRole f s) u hrunt hc hline
    · rw [hF.cistern_eq rfl, hsent hl hs]
      exact admitHead_cistern_line (s := grantRole f s) u hrunt hc hline
  · obtain ⟨g, hg, hrest⟩ := flight_recirculated hf hl u
    rw [hF.cistern_eq rfl]
    exact ⟨g, hflight.trans hg, hrest⟩

/-- The end of a frame that has come to its cell. -/
theorem payloadCompletes (s : State) (tag : Nat) (gs : List Nat) (f : Flight) (hr : running s = true) (hf : flight s tag = some f)
    (hloc : f.loc ≠ .front) (hfull : f.full = false) (hg : canGive s gs = true) (hn : gs.length = granulesOf f.tok.len)
    (hd : f.data.length = f.tok.len) :
    let n := gs.length
    let unused := f.credit - n
    let k1 := Nat.min unused (rfld s R.BUFFER_CIS_RESERVE 0 20 - s.cistern.reserve)
    let k2 := Nat.min (unused - k1) s.cistern.short
    ∃ t g, exec (.payloadComplete tag gs) s = .next t ∧ flight t tag = some g ∧ g.full = true ∧ g.credit = 0 ∧ g.parts = [.cis gs 0 f.tok.len] ∧
      partsBytes t g.parts = f.data ∧ (∀ a, a / 256 ∉ gs → cisByte t a = cisByte s a) ∧
      (isLine f.tok = false → t.cistern.credits = s.cistern.credits - n - unused ∧ t.cistern.reserve = s.cistern.reserve + k1 ∧
        t.cistern.pool = s.cistern.pool + k2 ∧ t.cistern.short = s.cistern.short - k2 ∧
        t.cistern.gen = s.cistern.gen - n - unused + (unused - k1 - k2)) ∧
      (isLine f.tok = true → t.cistern.credits = s.cistern.credits ∧ t.cistern.gen = s.cistern.gen ∧ t.cistern.pool = s.cistern.pool) ∧
      (∀ w, f.walk = some w → f.fate = none → f.tok.len < w.pending → w.flags % 32 / 4 = 0 → g.fate.isSome = true ∧ g.tok.flags.testBit 2 = true) ∧
      t.queues = s.queues ∧ t.wire = s.wire := by
  intro n unused k1 k2
  obtain ⟨t, ht, hF⟩ := viaCore_frame hr (payloadCompleteEff tag gs)
  obtain ⟨h, s2, hu⟩ := payloadCompleteEff_completes hf hloc hfull hg hn
  have hnodup : gs.Nodup := of_decide_eq_true (Bool.and_eq_true_iff.1 hg).1
  have hroom : f.data.length ≤ 256 * gs.length := by
    rw [hd, hn]
    unfold granulesOf
    omega
  obtain ⟨hbytes, hout⟩ := hu.reads hnodup hroom hd
  obtain ⟨m, p, hc⟩ := hu.cistern_eq
  have hcis : t.cistern = (payloadCompleteEff tag gs s).cistern := hF.cistern_eq rfl
  refine ⟨t, h, ht, (flight_congr (hF.flights_eq rfl) tag).trans (hu.flight_eq hf), hu.same.full, hu.same.credit, hu.same.parts, ?_, fun a ha => ?_,
    fun hline => ?_, fun hline => ?_, fun w hw hx hp hflags => ?_, (hF.queues_eq rfl).trans (payloadCompleteEff_frame.queues_eq rfl),
    (hF.wire_eq rfl).trans (payloadCompleteEff_frame.wire_eq rfl)⟩
  · exact (partsBytes_congr (congrArg Cistern.mem hcis) (hF.res_eq rfl) _).trans hbytes
  · exact (cisByte_congr (congrArg Cistern.mem hcis) a).trans (hout a ha)
  · rw [hcis, hc]
    exact landPayload_accounts f gs s hline
  · rw [hcis, hc]
    exact landPayload_accounts_line f gs s hline
  · rw [hu.judged w hw hx]
    exact concludePass_lengthConflict (payloadIn f gs) _ hp hflags

end Sys2Proof.Machine

open Sys2Proof Sys2Proof.Machine

/-- Settles O43: the head tokens by what `headTokenEff` does at a front and after a pass, the walk by what it keeps at each header, the
judgement by the first condition that applies, and the end of a frame by the pieces of its granules, which do not overlap. -/
theorem cellAdmission : Obligations.CellAdmission := by
  unfold Obligations.CellAdmission
  refine ⟨⟨fun s tag u f hr hf hport => ?_, fun s n head len node off => ?_, fun g w x => ?_, fun g w x _ => ?_⟩,
    fun s tag gs f => payloadCompletes s tag gs f⟩
  · obtain ⟨t, ht, hqueues, hwire, hsame, hturns, hrunt, hnobuf, hadmitted, hrecirc⟩ := headTokens s tag u f hr hf hport
    refine ⟨t, ht, hqueues, hwire, hsame, hturns, hrunt, hnobuf, fun hl hs hrunt hc => ?_, fun hl => ?_⟩
    · obtain ⟨g, hg, hin, hcredit, hline⟩ := hadmitted hl hs hrunt hc
      exact ⟨g, hg, hin.loc, hin.role, hin.cell, hin.data, hin.waits, hin.judged, fun h => ⟨hin.credit h, hcredit h⟩, hline⟩
    · exact hrecirc hl
  · have hstop := parsePass_stopped s n head len node off
    refine ⟨hstop.count, hstop.flag, hstop.key, fun hlen => ?_, fun h => parsePass_done _ _ _ _ _ _ h, fun h => parsePass_unknown _ _ _ _ _ _ h,
      fun h hb => ?_⟩
    · rw [decide_eq_false (Nat.not_le_of_lt hlen)] at hstop
      exact hstop.not_short
    · obtain ⟨hbad, hflags⟩ := parsePass_bad s n head len node off h hb
      exact ⟨Prod.ext rfl hbad, hflags⟩
  · exact ⟨concludePass_judged g x, concludePass_conflict g x⟩
  · obtain ⟨hexcepted, hcsum, hsettled, hended, hagain⟩ := judged g w x
    exact ⟨fun k hk => ⟨(hexcepted k hk).counted, (hcsum k hk).1, (hcsum k hk).2, (hexcepted k hk).default, (hexcepted k hk).privileged,
      (hexcepted k hk).lost⟩, hsettled, hended, hagain⟩
end

section
/-!
The cistern's memory (O60): an outcome keeps it canonical where the effect behind it does, which the frame of each effect says.
-/
namespace Sys2Proof.Machine

/-! ### Outcomes that keep the memory canonical -/

/-- Where the outcome of a command from `s` is a next state, a canonical memory is canonical in it. -/
def MemKept (s : State) (o : Out) : Prop := ∀ t, o = .next t → MemOk s → MemOk t

theorem done_memKept {s u : State} (h : MemOk s → MemOk u) : MemKept s (done u) := by
  rintro t ht hs
  cases ht
  exact settle_frame.2 (h hs)

theorem viaBar_memKept {s : State} {f : State → State} (h : ∀ s, MemOk s → MemOk (f s)) : MemKept s (viaBar s f) := by
  intro t ht hs
  obtain rfl | rfl := viaBar_cases ht
  · exact accessed_frame.2 (settle_frame.2 (h s hs))
  · exact settle_frame.2 hs

theorem viaCore_memKept {s : State} {f : State → State} (h : ∀ s, MemOk s → MemOk (f s)) : MemKept s (viaCore s f) := by
  intro t ht hs
  obtain rfl | rfl := viaCore_cases ht
  · exact settle_frame.2 (h s hs)
  · exact settle_frame.2 hs

theorem viaMgt_memKept {addr : BitVec 7} {s : State} {f : State → State} (h : ∀ s, MemOk s → MemOk (f s)) : MemKept s (viaMgt addr s f) := by
  unfold viaMgt
  split
  · exact viaBar_memKept h
  · exact done_memKept emit_frame.2

theorem fault_memKept {s : State} {r : Fault} : MemKept s (.fault r) := by
  intro t ht
  cases ht

theorem MemKept.ite {p : Prop} [Decidable p] {s : State} {a b : Out} (ha : MemKept s a) (hb : MemKept s b) : MemKept s (if p then a else b) := by
  split
  · exact ha
  · exact hb

theorem hostRead_memKept {off len : Nat} {s : State} : MemKept s (hostRead off len s) :=
  .ite fault_memKept (viaBar_memKept fun _ => hostReadEff_frame.2)

/-- An effect that depends on a condition keeps the memory canonical where both of its branches do. -/
theorem memOk_ite {p : Prop} [Decidable p] {s a b : State} (ha : MemOk s → MemOk a) (hb : MemOk s → MemOk b) :
    MemOk s → MemOk (if p then a else b) := by
  split
  · exact ha
  · exact hb

/-- The same, for an effect that does nothing where its condition does not hold. -/
theorem memOk_when {p : Prop} [Decidable p] {s a : State} (ha : MemOk s → MemOk a) : MemOk s → MemOk (if p then a else s) := memOk_ite ha id

/-- A signal shown after an effect. -/
theorem memOk_showSignal {s u : State} {p : Nat} (h : MemOk s → MemOk u) : MemOk s → MemOk (showSignal u p) := fun hs => showSignal_frame.2 (h hs)

/-- A value answered after a read. -/
theorem memOk_answer {s u : State} {v : Word} (h : MemOk s → MemOk u) : MemOk s → MemOk (answer u v) := fun hs => answer_frame.2 (h hs)

/-! ### Effects written out in their commands -/

theorem execKeyInstall_memKept {s : State} : MemKept s (execKeyInstall s) :=
  viaCore_memKept fun _ => (Frame.foldl (m := [.keys]) (fun _ _ h => keyEffect_frame.andThen rfl h) (.with_keys rfl .refl)).2

theorem execKeySlotsEmptied_memKept {s : State} : MemKept s (execKeySlotsEmptied s) :=
  viaCore_memKept fun s hs => by
    split
    · exact memOk_when emptySlots_frame.2 hs
    · exact hs

theorem execReassemblyTimeout_memKept {tid : BitVec 12} {flow : BitVec 16} {s : State} : MemKept s (execReassemblyTimeout tid flow s) :=
  viaCore_memKept fun s hs => by
    split
    · exact memOk_when (fun hs => reasmDrop_frame.2 (closeCtx_frame.2 hs)) hs
    · exact hs

theorem execHoldOffTimerEnd_memKept {g : Fin 128} {s : State} : MemKept s (execHoldOffTimerEnd g s) :=
  viaCore_memKept fun s hs => by
    split
    · exact memOk_when id hs
    · exact hs

theorem execTempUpdate_memKept {readings : List (BitVec 16)} {s : State} : MemKept s (execTempUpdate readings s) :=
  viaCore_memKept fun s hs => by
    split
    · exact hs
    · exact hs

theorem execCorePgLow_memKept {s : State} : MemKept s (execCorePgLow s) := by
  have hreset : MemOk s → MemOk (if powered s then coreReset 2 s else s) := memOk_when coreReset_frame.2
  exact done_memKept (memOk_ite hreset hreset)

theorem memOk_deviceEnd {s : State} : MemOk s → MemOk (deviceEnd s) := deviceEnd_frame.2

theorem execDeviceApplyingEnd_memKept {s : State} : MemKept s (execDeviceApplyingEnd s) := viaCore_memKept fun _ => memOk_when memOk_deviceEnd

theorem execBootImageLoaded_memKept {s : State} : MemKept s (execBootImageLoaded s) := viaCore_memKept fun _ => memOk_when memOk_deviceEnd

theorem execCodeword_memKept {l : Fin 16} {bits : BitVec 5600} {pos age : Nat} {s : State} : MemKept s (execCodeword l bits pos age s) :=
  viaCore_memKept fun _ => memOk_when codewordEff_frame.2

theorem execRouteParamsTakeEffect_memKept {s : State} : MemKept s (execRouteParamsTakeEffect s) :=
  viaCore_memKept fun _ => memOk_when rangeEffects_frame.2

theorem execEqdLoad_memKept {s : State} : MemKept s (execEqdLoad s) :=
  viaCore_memKept fun _ => memOk_when rangeEffects_frame.2

theorem execServoNoInput_memKept {d : Bool} {s : State} : MemKept s (execServoNoInput d s) :=
  viaCore_memKept fun _ => memOk_when enterHoldover_frame.2

theorem execLinkDown_memKept {p : Fin 16} {lf rf : Bool} {s : State} : MemKept s (execLinkDown p lf rf s) :=
  viaCore_memKept fun _ => memOk_showSignal linkDownEff_frame.2

theorem execLinkUp_memKept {p : Fin 16} {s : State} : MemKept s (execLinkUp p s) :=
  viaCore_memKept fun _ => memOk_showSignal linkUpEff_frame.2

theorem execLocalOrRemoteFault_memKept {p : Fin 16} {lf rf : Bool} {s : State} : MemKept s (execLocalOrRemoteFault p lf rf s) :=
  viaCore_memKept fun _ => memOk_showSignal faultChangeEff_frame.2

theorem execSpeedTry_memKept {s : State} : MemKept s (execSpeedTry s) :=
  viaCore_memKept fun _ => memOk_showSignal speedTryEff_frame.2

theorem execDetecting_memKept {s : State} : MemKept s (execDetecting s) :=
  viaCore_memKept fun _ => memOk_showSignal detectingEff_frame.2

theorem execPfcGeneration_memKept {p : Fin 16} {s : State} : MemKept s (execPfcGeneration p s) :=
  viaCore_memKept fun _ => memOk_when sendPfc_frame.2

theorem execPauseGeneration_memKept {p : Fin 16} {s : State} : MemKept s (execPauseGeneration p s) :=
  viaCore_memKept fun _ => memOk_when sendPause_frame.2

theorem execRefresh_memKept {p : Fin 16} {s : State} : MemKept s (execRefresh p s) :=
  viaCore_memKept fun _ => memOk_when (memOk_ite sendPfc_frame.2 sendPause_frame.2)

theorem execResHalt_memKept {ch : Fin 8} {cause : Fin 3} {s : State} : MemKept s (execResHalt ch cause s) :=
  viaCore_memKept fun _ => memOk_when haltChan_frame.2

theorem execRingReceiveFrame_memKept {r : Fin 256} {u : Upset} {s : State} : MemKept s (execRingReceiveFrame r u s) :=
  viaCore_memKept fun _ => memOk_ite (onLink_frame (l := [.turns, .wire, .intc, .cistern, .rings, .regs]) (fun _ => ringRxEff_frame.weaken rfl) rfl).2
      ringRxEff_frame.2

theorem execDeliveryCommit_memKept {n : Fin 32} {s : State} : MemKept s (execDeliveryCommit n s) :=
  viaCore_memKept fun _ => memOk_when fun hs => deliver_frame.2 (granted_frame.2 hs)

theorem execIntcHtSummary_memKept {n : Fin 32} {s : State} : MemKept s (execIntcHtSummary n s) :=
  viaBar_memKept fun _ => memOk_answer summaryRead_frame.2

theorem execPerfSampleW0_memKept {s : State} : MemKept s (execPerfSampleW0 s) :=
  viaBar_memKept fun _ => memOk_answer sampleRead_frame.2

theorem execTimeTxqW0_memKept {s : State} : MemKept s (execTimeTxqW0 s) :=
  viaBar_memKept fun _ => memOk_answer txqRead_frame.2

theorem execTimeTodRead_memKept {d : Bool} {s : State} : MemKept s (execTimeTodRead d s) :=
  viaBar_memKept fun _ => memOk_answer todRead_frame.2

theorem execStranded_memKept {n : Fin 32} {s : State} : MemKept s (execStranded n s) :=
  viaCore_memKept fun _ => memOk_when strandEnds_frame.2

theorem execSwitchDone_memKept {s : State} : MemKept s (execSwitchDone s) :=
  viaCore_memKept fun _ => memOk_when fun hs => event_frame.2 hs

theorem execWinDone_memKept {n : Fin 8} {s : State} : MemKept s (execWinDone n s) :=
  viaCore_memKept fun _ => memOk_when fun hs => event_frame.2 (wr_frame.2 hs)

theorem execSidebandDone_memKept {rdata : Option (BitVec 16)} {s : State} : MemKept s (execSidebandDone rdata s) :=
  viaCore_memKept fun _ => memOk_when wr_frame.2

theorem execBar2Access_memKept {off len : Nat} {write : Option Bytes} {u : Upset} {s : State} : MemKept s (execBar2Access off write len u s) :=
  .ite fault_memKept (viaBar_memKept fun _ => by
    cases write with
    | none => exact bar2Read_frame.2
    | some b => exact bar2Write_frame.2)

/-! ### Every command and every tick -/

theorem exec_memKept (c : Instr) (s : State) : MemKept s (exec c s) := by
  cases c with
  | globalSoftReset => exact viaBar_memKept fun _ => softResetEff_frame.2
  | resetSequenceComplete => exact viaCore_memKept fun _ => sequenceEff_frame.2
  | channelTraining => exact viaCore_memKept fun _ => trainingEff_frame.2
  | modeRequest => exact viaBar_memKept fun _ => modeCtlEff_frame.2
  | modeCommit => exact viaCore_memKept fun _ => modeCommitEff_frame.2
  | frontRoutingDrainEnd => exact viaCore_memKept fun _ => drainEndEff_frame.2
  | convoyHeader => exact viaCore_memKept fun _ => convoyHeaderEff_frame.2
  | assignIdTakesEffect => exact viaCore_memKept fun _ => assignIdEff_frame.2
  | mapEntry => exact viaCore_memKept fun _ => mapEntryEff_frame.2
  | hem | assignId | assignEqd | routeParams | wake | timeEpoch | offer | activate | group | retire | keyMsg =>
    exact viaCore_memKept fun _ => messageEff_frame.2
  | segment => exact viaCore_memKept fun _ => segmentEff_frame.2
  | allotmentDue => exact viaCore_memKept fun _ => allotmentDueEff_frame.2
  | launchInstantRemoval => exact viaCore_memKept fun _ => launchRemovalEff_frame.2
  | launchCommit => exact viaCore_memKept fun _ => launchCommitEff_frame.2
  | windowEnd => exact viaCore_memKept fun _ => windowEndEff_frame.2
  | registerWaitEnd => exact viaCore_memKept fun _ => registerWaitEff_frame.2
  | handoffDeadline => exact viaCore_memKept fun _ => handoffEff_frame.2
  | entryVector => exact viaCore_memKept fun _ => entryVectorEff_frame.2
  | next | branch | call | ret | dispatch | idle => exact viaCore_memKept fun _ => seqEff_frame.2
  | aluNop | mov | add | sub | and | or | xor | shl | shr | min | max | cmp | test => exact viaCore_memKept fun _ => aluEff_frame.2
  | droverRestart => exact viaBar_memKept fun _ => droverRestartEff_frame.2
  | lineHgPreamble => exact viaBar_memKept fun _ => preambleEff_frame.2
  | preambleTransfer => exact viaCore_memKept fun _ => preambleTransferEff_frame.2
  | lineGaspCtl => exact viaBar_memKept fun _ => gaspCtlEff_frame.2
  | lineHgLead => exact viaBar_memKept fun _ => lineHgLeadEff_frame.2
  | linePm => exact viaBar_memKept fun _ => linePmEff_frame.2
  | receivedFrame => exact viaCore_memKept fun _ => receivedEff_frame.2
  | pauseTimerEnd => exact viaCore_memKept fun _ => timerEndEff_frame.2
  | transmitQueue => exact viaCore_memKept fun _ => transmitQueueEff_frame.2
  | transmitFrame => exact viaCore_memKept fun _ => transmitEff_frame.2
  | clientFcCtl => exact viaBar_memKept fun _ => fcCtlEff_frame.2
  | clientStatPreset => exact viaBar_memKept fun _ => statPresetEff_frame.2
  | headToken => exact viaCore_memKept fun _ => headTokenEff_frame.2
  | payloadComplete => exact viaCore_memKept fun _ => payloadCompleteEff_frame.2
  | dispatchStage => exact viaCore_memKept fun _ => dispatchEff_frame.2
  | cellStall => exact viaCore_memKept fun _ => cellStallEff_frame.2
  | tractCellMap => exact viaBar_memKept fun _ => cellMapEff_frame.2
  | tractCellReset => exact viaBar_memKept fun _ => cellResetEff_frame.2
  | cellResetDone => exact viaCore_memKept fun _ => cellResetDoneEff_frame.2
  | enqueue => exact viaCore_memKept fun _ => enqueueEff_frame.2
  | queueQWm => exact viaBar_memKept fun _ => queueWmEff_frame.2
  | spill => exact viaCore_memKept fun _ => spillEff_frame.2
  | spillPageAccepted => exact viaCore_memKept fun _ => spillAcceptedEff_frame.2
  | draw => exact viaCore_memKept fun _ => drawEff_frame.2
  | drawPageArrived => exact viaCore_memKept fun _ => drawArrivedEff_frame.2
  | bufferQRecover => exact viaBar_memKept fun _ => qRecoverEff_frame.2
  | dmaStart => exact viaBar_memKept fun _ => dmaCtlEff_frame.2
  | ringEnable | ringDisable => exact viaBar_memKept fun _ => ringCtlEff_frame.2
  | ringStopped => exact viaCore_memKept fun _ => ringStoppedEff_frame.2
  | ringDbTail => exact viaBar_memKept fun _ => dbTailEff_frame.2
  | writeBack => exact viaCore_memKept fun _ => writeBackEff_frame.2
  | intcCompletion => exact viaBar_memKept fun _ => intcCompletionEff_frame.2
  | intcRetarget => exact viaBar_memKept fun _ => intcRetargetEff_frame.2
  | intcSrcCfg => exact viaBar_memKept fun _ => intcSrcCfgEff_frame.2
  | intcSwi => exact viaBar_memKept fun _ => intcSwiEff_frame.2
  | intcHtIdle => exact viaBar_memKept fun _ => intcHtIdleEff_frame.2
  | intcHtState => exact viaBar_memKept fun _ => intcHtStateEff_frame.2
  | intcWatcher => exact viaBar_memKept fun _ => intcWatcherEff_frame.2
  | checkStart | checkAbort => exact viaBar_memKept fun _ => checkCtlEff_frame.2
  | tallyEnable | tallyDisable => exact viaBar_memKept fun _ => tallyCtlEff_frame.2
  | tallyDump => exact viaCore_memKept fun _ => tallyDumpEff_frame.2
  | tractCellPreset => exact viaBar_memKept fun _ => cellPresetEff_frame.2
  | tractPerfPreset => exact viaBar_memKept fun _ => tractPresetEff_frame.2
  | perfAccPreset => exact viaBar_memKept fun _ => accPresetEff_frame.2
  | snap => exact viaBar_memKept fun _ => snapEff_frame.2
  | timeServoEnable | resume => exact viaBar_memKept fun _ => servoCtlEff_frame.2
  | incrWrite => exact viaBar_memKept fun _ => incrEff_frame.2
  | switch => exact viaBar_memKept fun _ => switchEff_frame.2
  | schedArm => exact viaBar_memKept fun _ => schedArmEff_frame.2
  | sched => exact viaCore_memKept fun _ => schedEff_frame.2
  | pps => exact viaCore_memKept fun _ => ppsEff_frame.2
  | todMessage => exact viaCore_memKept fun _ => todSend_frame.2
  | keeperScCtl => exact viaBar_memKept fun _ => keeperScCtlEff_frame.2
  | keeperAlarmCtl => exact viaBar_memKept fun _ => keeperAlarmCtlEff_frame.2
  | keeperLogSel => exact viaBar_memKept fun _ => keeperLogSelEff_frame.2
  | paceWindowEnd => exact viaCore_memKept fun _ => paceWindowEff_frame.2
  | paceRestart => exact viaBar_memKept fun _ => paceCtlEff_frame.2
  | mdioAddress | mdioWrite | mdioReadInc | mdioRead | i2cWrite | i2cRead => exact viaBar_memKept fun _ => sbCmdEff_frame.2
  | put | remove | putDefault | discard => exact viaBar_memKept fun _ => stageEff_frame.2
  | classCommit => exact viaBar_memKept fun _ => classGoEff_frame.2
  | cancel => exact viaBar_memKept fun _ => classCancelEff_frame.2
  | applying => exact viaCore_memKept fun _ => applyingEff_frame.2
  | commitInstant => exact viaCore_memKept fun _ => instantEff_frame.2
  | entriesReturned => exact viaCore_memKept fun _ => entriesReturnedEff_frame.2
  | classPriv => exact viaBar_memKept fun _ => classPrivEff_frame.2
  | verify | commitDevice | commitTract | commitRules | rollback | floor | badCmd => exact viaBar_memKept fun _ => imageCmdEff_frame.2
  | imageChecked => exact viaCore_memKept fun _ => checkedEff_frame.2
  | reloadCommit => exact viaCore_memKept fun _ => reloadCommitEff_frame.2
  | flashDone => exact viaCore_memKept fun _ => flashDoneEff_frame.2
  | floorDone => exact viaCore_memKept fun _ => floorDoneEff_frame.2
  | badOp => exact viaBar_memKept fun _ => stageCmdEff_frame.2
  | vkeepPowerUp => exact done_memKept fun hs => driveCoreEn_frame.2 (driveCoreEn_frame.2 (keeperReset_frame.2 hs))
  | vkeepLow => exact done_memKept fun hs => driveCoreEn_frame.2 (keeperReset_frame.2 hs)
  | corePgLow => exact execCorePgLow_memKept
  | coreLeavesReset => exact done_memKept (memOk_when leaveReset_frame.2)
  | resetN => exact done_memKept (memOk_when coreReset_frame.2)
  | perstN => exact done_memKept hostReset_frame.2
  | perstNRelease => exact done_memKept id
  | functionLevelReset | d3hotToD0 => exact done_memKept (memOk_when hostReset_frame.2)
  | d3hotEntry => exact done_memKept (memOk_when id)
  | deviceApplyingEnd => exact execDeviceApplyingEnd_memKept
  | bootImageLoaded => exact execBootImageLoaded_memKept
  | keeperWake => exact done_memKept keeperWakeEff_frame.2
  | pgTimeout => exact done_memKept (memOk_when pgTimeoutEff_frame.2)
  | codeword => exact execCodeword_memKept
  | routeParamsTakeEffect => exact execRouteParamsTakeEffect_memKept
  | eqdLoad => exact execEqdLoad_memKept
  | keyInstall => exact execKeyInstall_memKept
  | keySlotsEmptied => exact execKeySlotsEmptied_memKept
  | reassemblyTimeout => exact execReassemblyTimeout_memKept
  | servoNoInput => exact execServoNoInput_memKept
  | deregister => exact .ite (done_memKept messageEff_frame.2) (done_memKept id)
  | ioNop => exact viaCore_memKept fun _ => (ioEff_frame (l := [.paces, .drovers]) (fun _ _ _ e => (ioNop_frame e).weaken rfl) rfl).2
  | head => exact viaCore_memKept fun _ => (ioEff_frame (l := [.paces, .robins, .drovers]) (fun _ _ _ e => (ioHead_frame e).weaken rfl) rfl).2
  | takeRun => exact viaCore_memKept fun _ => (ioEff_frame (l := [.paces, .robins, .drovers]) (fun _ _ _ e => (ioTakeRun_frame e).weaken rfl) rfl).2
  | takePart => exact viaCore_memKept fun _ => (ioEff_frame (l := [.paces, .drovers]) (fun _ _ _ e => (ioTakePart_frame e).weaken rfl) rfl).2
  | msg => exact viaCore_memKept fun _ => (ioEff_frame (l := [.paces, .drovers, .msgs]) (fun _ _ _ e => (ioMsg_frame e).weaken rfl) rfl).2
  | commit =>
    exact viaCore_memKept fun _ => (ioEff_frame (l := [.paces, .intc, .perf, .turns, .cistern, .res, .queues, .robins, .marks, .drovers, .gate, .msgs, .regs])
      (fun _ _ _ e => (ioCommit_frame e).weaken rfl) rfl).2
  | abandon =>
    exact viaCore_memKept fun _ => (ioEff_frame (l := [.paces, .robins, .marks, .drovers, .msgs]) (fun _ _ _ e => (ioAbandon_frame e).weaken rfl) rfl).2
  | linkDown => exact execLinkDown_memKept
  | linkUp => exact execLinkUp_memKept
  | localOrRemoteFault => exact execLocalOrRemoteFault_memKept
  | speedTry => exact execSpeedTry_memKept
  | detecting => exact execDetecting_memKept
  | pfcGeneration => exact execPfcGeneration_memKept
  | pauseGeneration => exact execPauseGeneration_memKept
  | refresh => exact execRefresh_memKept
  | resHalt => exact execResHalt_memKept
  | dmaBeat => exact viaCore_memKept fun _ => (onReply_frame (fun _ => dmaBeatEff_frame) rfl).2
  | descriptorFetch => exact viaCore_memKept fun _ => (onReply_frame (fun _ => fetchReply_frame) rfl).2
  | transmitRingFrame => exact viaCore_memKept fun _ => (onReply_frame (fun _ => ringReadReply_frame) rfl).2
  | checkBeat => exact viaCore_memKept fun _ => (onReply_frame (fun _ => checkBeatEff_frame) rfl).2
  | imageStaged => exact viaCore_memKept fun _ => (onReply_frame (fun _ => stagedReply_frame) rfl).2
  | ringReceiveFrame => exact execRingReceiveFrame_memKept
  | registerWrite => exact .ite fault_memKept (viaBar_memKept fun _ => hostWriteEff_frame.2)
  | rcRead | loRead => exact hostRead_memKept
  | mgtWrite => exact viaMgt_memKept fun _ => (mgtOffset_frame (fun _ => writeReg_frame) rfl).2
  | mgtSetOffset => exact viaMgt_memKept fun _ => (mgtOffset_frame (l := [.wire, .host]) (fun _ => .with_host rfl .refl) rfl).2
  | mgtRead => exact viaMgt_memKept fun _ => mgtReadEff_frame.2
  | deliveryCommit => exact execDeliveryCommit_memKept
  | intcHtSummary => exact execIntcHtSummary_memKept
  | perfSampleW0 => exact execPerfSampleW0_memKept
  | timeTxqW0 => exact execTimeTxqW0_memKept
  | timeTodRead => exact execTimeTodRead_memKept
  | holdOffTimerEnd => exact execHoldOffTimerEnd_memKept
  | stranded => exact execStranded_memKept
  | switchDone => exact execSwitchDone_memKept
  | winDone => exact execWinDone_memKept
  | scStateChange => exact done_memKept (memOk_when supplyInputs_frame.2)
  | alarm => exact done_memKept (memOk_when alarmFires_frame.2)
  | rtcSet => exact done_memKept (memOk_when rtcLoad_frame.2)
  | todHoldover => exact done_memKept (memOk_when todHoldover_frame.2)
  | xtalStop => exact done_memKept (memOk_when quietDue_frame.2)
  | raiseCredited => exact viaCore_memKept fun _ => creditRaise_frame.2
  | tempUpdate => exact execTempUpdate_memKept
  | sidebandDone => exact execSidebandDone_memKept
  | bar2Access => exact execBar2Access_memKept
  | msiXMask => exact .ite (done_memKept functionEff_frame.2) (done_memKept id)

theorem step_memKept (s : State) : MemKept s (step s) := by
  unfold step
  split
  · intro t ht
    cases ht
    exact tick_frame.2
  · exact exec_memKept _ _

end Sys2Proof.Machine

open Sys2Proof.Machine

/-- Settles O60, from the frame of every command's effect and of the tick. -/
theorem stepKeepsMemoryCanonical : Obligations.StepKeepsMemoryCanonical := by
  unfold Obligations.StepKeepsMemoryCanonical
  exact fun s t hs h => step_memKept s t h hs

end

section
/-!
Fault records (O4): what a fault captures, two faults of one instant, and a write of 1 to FIRST_VALID at the instant of a fault (02 R117).
-/
namespace Sys2Proof.Machine

/-! ### What a record shows -/

/-- The record at `a` shows a fault's tag, identification and reach time. -/
def recordShows (t : State) (a : Nat) (tag : Word) (ident time : DWord) : Prop :=
  rd t (a + 8) = tag ∧ rd64 t (a + 0x10) = ident ∧ rd64 t (a + 0x18) = time

theorem recordShows_congr {t u : State} {a : Nat} {tag : Word} {ident time : DWord} (h : t.regs = u.regs) (hu : recordShows u a tag ident time) :
    recordShows t a tag ident time := by
  unfold recordShows
  rwa [rd_congr h, rd64_congr h, rd64_congr h]

/-- While FIRST_VALID is 0 a fault is captured. -/
theorem capture_shows {s : State} {x : FaultNote} (h : rbit s x.base 31 = false) :
    recordShows (capture s x) x.base x.tag x.ident x.time := by
  unfold rbit at h
  unfold capture
  dsimp only
  rw [h, if_neg Bool.false_ne_true]
  refine ⟨?_, ?_, rd64_wr64_same ..⟩
  · rw [rd_wr64_ne _ _ (by omega) (by omega), rd_wr64_ne _ _ (by omega) (by omega), rd_wr_same]
  · rw [rd64_wr64_ne _ _ (by omega), rd64_wr64_same]

/-- While it is 1 the record goes on showing what it shows. -/
theorem capture_keeps {s : State} {x : FaultNote} {tag : Word} {ident time : DWord} (h : rbit s x.base 31 = true)
    (hs : recordShows s x.base tag ident time) : recordShows (capture s x) x.base tag ident time := by
  unfold rbit at h
  obtain ⟨htag, hident, htime⟩ := hs
  unfold capture
  dsimp only
  rw [h, if_pos rfl]
  exact ⟨by rw [rd_wr_ne _ _ (by omega), htag], by rw [rd64_wr_ne _ _ (by omega), hident], by rw [rd64_wr_ne _ _ (by omega), htime]⟩

theorem rbit_capture_firstValid (s : State) (x : FaultNote) : rbit (capture s x) x.base 31 = true := by
  rw [rbit_capture_base _ _ (by decide)]; simp

theorem foldl_capture_keeps {a : Nat} {l : List FaultNote} (hl : ∀ x ∈ l, x.base = a) {s : State} {tag : Word} {ident time : DWord}
    (h : rbit s a 31 = true) (hs : recordShows s a tag ident time) : recordShows (l.foldl capture s) a tag ident time := by
  induction l generalizing s with
  | nil => exact hs
  | cons x l ih =>
    obtain ⟨rfl, hl⟩ := List.forall_mem_cons.1 hl
    exact ih hl (rbit_capture_firstValid s x) (capture_keeps h hs)

/-- Of faults captured one after the other the first is shown. -/
theorem foldl_capture_shows {a : Nat} {x : FaultNote} {l : List FaultNote} (hl : ∀ y ∈ x :: l, y.base = a) {s : State}
    (h : rbit s a 31 = false) : recordShows ((x :: l).foldl capture s) a x.tag x.ident x.time := by
  obtain ⟨rfl, hl⟩ := List.forall_mem_cons.1 hl
  exact foldl_capture_keeps hl (rbit_capture_firstValid s x) (capture_shows h)

/-! ### One fault, and a second of the same block -/

/-- The note that a fault leaves with the controller. -/
def noteOf (s : State) (b : Block) (code inst : Nat) (ident : DWord) : FaultNote :=
  ⟨s.now, b.base, code, pack [(24, b.id), (16, code), (0, inst)], ident, reachNow s⟩

/-- The state whose record a fault is captured in: the fault is noted and counted. -/
def noted (s : State) (b : Block) (x : FaultNote) : State := bump { s with intc := { s.intc with faults := faultsNow s ++ [x] } } (b.base + 4)

section
variable (s : State) (b : Block) (code inst : Nat) (ident : DWord)

theorem fault_eq : fault s b code inst ident = capture (noted s b (noteOf s b code inst ident)) (noteOf s b code inst ident) := rfl

theorem rd_noted_ne {x : FaultNote} {a : Nat} (h : a ≠ b.base + 4) : rd (noted s b x) a = rd s a := rd_bump_ne _ h

theorem rd64_noted_ne {x : FaultNote} {a : Nat} (h : b.base + 4 < a) : rd64 (noted s b x) a = rd64 s a := by
  unfold rd64
  rw [rd_noted_ne _ _ (by omega), rd_noted_ne _ _ (by omega)]

theorem rbit_noted {x : FaultNote} (i : Nat) : rbit (noted s b x) b.base i = rbit s b.base i := by
  unfold rbit
  rw [rd_noted_ne _ _ (by omega)]

theorem fault_shows (h : rbit s b.base 31 = false) :
    recordShows (fault s b code inst ident) b.base (pack [(24, b.id), (16, code), (0, inst)]) ident (reachNow s) :=
  capture_shows (x := noteOf s b code inst ident) ((rbit_noted s b 31).trans h)

theorem fault_keeps (h : rbit s b.base 31 = true) {tag : Word} {id time : DWord} (hs : recordShows s b.base tag id time) :
    recordShows (fault s b code inst ident) b.base tag id time := by
  obtain ⟨htag, hident, htime⟩ := hs
  exact capture_keeps (x := noteOf s b code inst ident) ((rbit_noted s b 31).trans h)
    ⟨(rd_noted_ne s b (a := b.base + 8) (by omega)).trans htag, (rd64_noted_ne s b (a := b.base + 0x10) (by omega)).trans hident,
      (rd64_noted_ne s b (a := b.base + 0x18) (by omega)).trans htime⟩

/-- CODE bits that are set stay set. -/
theorem rbit_fault_of_rbit {i : Nat} (hi : i < 32) (h : rbit s b.base i = true) : rbit (fault s b code inst ident) b.base i = true := by
  have hstays : rbit (noted s b (noteOf s b code inst ident)) b.base i = true := (rbit_noted s b i).trans h
  refine (rbit_capture_base _ (noteOf s b code inst ident) hi).trans ?_
  rw [Bool.or_assoc]
  exact Bool.or_eq_true_iff.2 (.inl hstays)

theorem capture_intc (t : State) (x : FaultNote) : (capture t x).intc = t.intc := capture_frame.intc_eq rfl

theorem fault_intc : (fault s b code inst ident).intc = { s.intc with faults := faultsNow s ++ [noteOf s b code inst ident] } :=
  capture_intc _ _

theorem noteOf_mem_faultsNow : noteOf s b code inst ident ∈ faultsNow (fault s b code inst ident) := by
  have hnow : (fault s b code inst ident).now = s.now := fault_frame.now_eq rfl
  unfold faultsNow
  rw [hnow, fault_intc]
  simp [noteOf]

end

theorem sat32_sat32_succ (w : Word) : sat32 ((sat32 (w.toNat + 1)).toNat + 1) = sat32 (w.toNat + 2) := by
  unfold sat32
  have := w.isLt
  split
  · rw [if_pos (by decide), if_pos (by omega)]
  · rw [BitVec.toNat_ofNat, Nat.mod_eq_of_lt (by omega)]

/-- Of two faults of a block both set their CODE bits and count, and the first is shown. -/
theorem fault_fault (s : State) (b : Block) {code code2 : Nat} (inst inst2 : Nat) (ident ident2 : DWord) (hc : code < 32) (hc2 : code2 < 32) :
    let v := fault (fault s b code inst ident) b code2 inst2 ident2
    rbit v b.base code = true ∧ rbit v b.base code2 = true ∧ rbit v b.base 31 = true ∧
      rd v (b.base + 4) = sat32 ((rd s (b.base + 4)).toNat + 2) ∧
      (rbit s b.base 31 = false → recordShows v b.base (pack [(24, b.id), (16, code), (0, inst)]) ident (reachNow s)) := by
  obtain ⟨hcode, hvalid, hcount⟩ := recorded_fault s b inst ident hc
  obtain ⟨hcode2, hvalid2, hcount2⟩ := recorded_fault (fault s b code inst ident) b inst2 ident2 hc2
  refine ⟨rbit_fault_of_rbit _ _ _ _ _ hc hcode, hcode2, hvalid2, ?_, fun h => fault_keeps _ _ _ _ _ hvalid (fault_shows _ _ _ _ _ h)⟩
  rw [hcount2, hcount, sat32_sat32_succ]

/-! ### A write of 1 to FIRST_VALID -/

/-- The block is one of the map: there are 16 client ports and 8 tracts. -/
def Block.inMap (b : Block) : Prop := (∀ p, b = .client p → p < 16) ∧ ∀ t, b = .tract t → t < 8

/-- The register at `a` is an error status of the map: a plain word whose FIRST_VALID clears on a 1. -/
def errorStatusRow (a : Nat) : Bool :=
  match decodeReg a with
  | some h => h.row.kind == .word && (entryAt (writeTable ++ writeTable2 ++ writeTable3 ++ writeTable4) h.row.base).isNone &&
      bit (BitVec.ofNat 32 h.row.w1c : Word) 31
  | none => false

theorem errorStatusRow_base {b : Block} (hb : b.inMap) :
    errorStatusRow b.base = true ∧ (errSource b.base).isSome = true ∧ b.base % 4 = 0 ∧ b.base < bar0End := by
  have hclient : ∀ p < 16, errorStatusRow (Block.client p).base = true ∧ (errSource (Block.client p).base).isSome = true ∧
      (Block.client p).base % 4 = 0 ∧ (Block.client p).base < bar0End := by decide +kernel
  have htract : ∀ t < 8, errorStatusRow (Block.tract t).base = true ∧ (errSource (Block.tract t).base).isSome = true ∧
      (Block.tract t).base % 4 = 0 ∧ (Block.tract t).base < bar0End := by decide +kernel
  obtain ⟨hp, ht⟩ := hb
  cases b with
  | client p => exact hclient p (hp p rfl)
  | tract t => exact htract t (ht t rfl)
  | _ => decide +kernel

theorem errorStatusRow_eq_true {a : Nat} (h : errorStatusRow a = true) : ∃ x, decodeReg a = some x ∧ x.row.kind = .word ∧
    entryAt (writeTable ++ writeTable2 ++ writeTable3 ++ writeTable4) x.row.base = none ∧ bit (BitVec.ofNat 32 x.row.w1c : Word) 31 = true := by
  unfold errorStatusRow at h
  split at h
  next x hx =>
    simp only [Bool.and_eq_true, beq_iff_eq, Option.isNone_iff_eq_none] at h
    obtain ⟨⟨hk, he⟩, hw⟩ := h
    exact ⟨x, hx, hk, he, hw⟩
  · cases h

theorem bit_merge_w1c {old v rw w1c : Word} {i : Nat} (hv : bit v i = true) (hw : bit w1c i = true) : bit (merge old v rw w1c) i = false := by
  unfold bit at hv hw
  unfold merge bit
  have hi : i < 32 := BitVec.lt_of_getLsbD hv
  simp [hv, hw, hi]

theorem keeperOwed_faultsNow (s : State) (a : Nat) : faultsNow (keeperOwed s a) = faultsNow s := by
  unfold keeperOwed
  split
  · unfold faultsNow
    rw [keeperDue_frame.intc_eq rfl, keeperDue_frame.now_eq rfl]
  · rfl

/-- A write of 1 to FIRST_VALID at the instant of a fault of the block leaves a fault of that instant captured. -/
theorem firstValid_recaptures {s : State} {b : Block} {v : Word} {x : FaultNote} (hb : b.inMap) (hv : bit v 31 = true) (ho : barOpen s = true)
    (ha : absentAt s b.base = false) (hx : x ∈ faultsNow s) (hbase : x.base = b.base) (hcode : x.code < 31) :
    ∃ t, exec (.registerWrite b.base 0xF v) s = .next t ∧ rbit t b.base x.code = true ∧ rbit t b.base 31 = true ∧
      rd t (b.base + 4) = rd (keeperOwed s b.base) (b.base + 4) ∧
      ∃ y ∈ faultsNow (keeperOwed s b.base), y.base = b.base ∧ recordShows t b.base y.tag y.ident y.time := by
  obtain ⟨hrow, hsrc, hal, hlt⟩ := errorStatusRow_base hb
  obtain ⟨h, hd, hk, he, hw⟩ := errorStatusRow_eq_true hrow
  have hx : x ∈ faultsNow (keeperOwed s b.base) := by rwa [keeperOwed_faultsNow]
  obtain ⟨t, ht, hregs, hvalid, hcodes⟩ := registerWrite_firstValid hlt hal ho hd ha he hk hsrc hv ⟨x, hx, hbase⟩
  refine ⟨t, ht, hcodes x hx hbase hcode, hvalid, hregs.2 _ (by simp [captured]), ?_⟩
  let u := wrField (keeperOwed s b.base) b.base v (BitVec.ofNat 32 h.row.rw) (BitVec.ofNat 32 h.row.w1c)
  have hclear : rbit u b.base 31 = false := by
    unfold rbit
    rw [rd_wrField_same]
    exact bit_merge_w1c hv hw
  have heff : writeReg b.base v s = ((faultsNow (keeperOwed s b.base)).filter fun y => y.base == b.base).foldl capture u := by
    rw [writeReg_plain hd ha he, plainWrite_word hk, faultsAfter_eq_foldl hsrc hv]
    rfl
  have hbases : ∀ y ∈ (faultsNow (keeperOwed s b.base)).filter fun y => y.base == b.base, y.base = b.base :=
    fun y hy => by simpa using (List.mem_filter.1 hy).2
  have ht_regs : t.regs = (writeReg b.base v s).regs := by
    obtain ⟨t', ht', hf⟩ := viaBar_frame ho (writeReg b.base v)
    rw [exec_registerWrite_whole hlt hal, ht'] at ht
    cases ht
    exact hf.regs_eq rfl
  have hmem : x ∈ (faultsNow (keeperOwed s b.base)).filter fun y => y.base == b.base := List.mem_filter.2 ⟨hx, beq_iff_eq.2 hbase⟩
  rw [heff] at ht_regs
  cases hl : (faultsNow (keeperOwed s b.base)).filter fun y => y.base == b.base with
  | nil =>
    rw [hl] at hmem
    cases hmem
  | cons y l =>
    rw [hl] at hbases ht_regs
    have hy : y ∈ faultsNow (keeperOwed s b.base) := (List.mem_filter.1 (hl ▸ List.mem_cons_self)).1
    exact ⟨y, hy, hbases y List.mem_cons_self, recordShows_congr ht_regs (foldl_capture_shows hbases hclear)⟩

end Sys2Proof.Machine

open Sys2Proof.Machine

/-- Settles O4: a fault by `capture`, two by `fault_fault`, and the write of FIRST_VALID by the faults that are captured again after it. -/
theorem faultRecordCaptures : Obligations.FaultRecordCaptures := by
  unfold Obligations.FaultRecordCaptures
  intro shows s b code inst ident h1 h30 hp ht
  refine ⟨recorded_fault s b inst ident (by omega), fault_shows s b code inst ident, fun h => fault_keeps s b code inst ident h ⟨rfl, rfl, rfl⟩,
    (regsOnly_fault s b code inst ident).2, (regsOnly_fault s b code inst ident).1, ?_, ?_, ?_⟩
  · rw [fault_intc]
  · intro code2 inst2 ident2 _ hc2
    obtain ⟨hcode, hcode2, hvalid, hcount, hshown⟩ := fault_fault s b inst inst2 ident ident2 (code := code) (code2 := code2) (by omega) (by omega)
    exact ⟨hcode, hcode2, hvalid, hcount, fun h => .inl (hshown h)⟩
  · intro v hv ho ha
    exact firstValid_recaptures (x := noteOf s b code inst ident) ⟨hp, ht⟩ hv ho ha (noteOf_mem_faultsNow s b code inst ident) rfl (by
      change code < 31; omega)

end

section
/-!
Resets (O9, O12): what a reset of the core and a reset of the host unit clear, and what they leave (02 R101-R103, 10 R542, R543, 17 R877, R893).
-/
namespace Sys2Proof.Machine

/-- Of sparse data filtered by number the numbers kept read as before, the others as unlisted. -/
theorem look_filter {α : Type} (d : α) (m : Sparse α) (p : Nat → Bool) (n : Nat) :
    look d (m.filter fun e => p e.1) n = if p n then look d m n else d := by
  induction m with
  | nil => simp [look]
  | cons e m ih =>
    rw [List.filter_cons]
    by_cases hn : n = e.1
    · subst hn
      cases hp : p e.1 <;> simp [look, ih, hp]
    · cases hp : p e.1 <;> simp [look, ih, hn]

/-- A command that is not held to a path answers its effect, but for what the interrupt controller samples. -/
theorem done_frame (s : State) : ∃ t, done s = .next t ∧ Frame [.intc] s t := ⟨_, rfl, settle_frame⟩

/-- One that has no effect changes only what the interrupt controller samples. -/
theorem done_intcOnly (s : State) : ∃ t, done s = .next t ∧ intcOnly s t := ⟨_, rfl, settle_eq s⟩

/-! ### Resets of the core -/

/-- The core is in reset with `cause` to be shown: the Keeper, the fuses, the flash and the commands stay, and the rest is at reset. -/
def coreCleared (s t : State) (cause : Nat) : Prop :=
  t.power.coreUp = false ∧ t.power.nextCause = cause ∧ t.mode = {} ∧ t.keeper = s.keeper ∧ t.fuses = s.fuses ∧ t.flash = s.flash ∧
  t.pending = s.pending ∧ t.cistern = {} ∧ t.queues = [] ∧ t.rings = [] ∧ t.table = [] ∧ t.flights = [] ∧
  (∀ a, inKeeper a = true → rd t a = rd s a) ∧ (∀ a, inKeeper a = false → rd t a = regReset a)

theorem rd_coreReset (cause : Nat) (s : State) (a : Nat) : rd (coreReset cause s) a = if inKeeper a then rd s a else regReset a :=
  look_filter ..

theorem coreReset_clears {cause : Nat} {s t : State} (h : Frame [.intc, .power] (coreReset cause s) t) (hup : t.power.coreUp = false)
    (hcause : t.power.nextCause = cause) : coreCleared s t cause := by
  have hrd (a : Nat) : rd t a = if inKeeper a then rd s a else regReset a := (rd_congr (h.regs_eq rfl) a).trans (rd_coreReset cause s a)
  exact ⟨hup, hcause, h.mode_eq rfl, h.keeper_eq rfl, h.fuses_eq rfl, h.flash_eq rfl, h.pending_eq rfl, h.cistern_eq rfl, h.queues_eq rfl,
    h.rings_eq rfl, h.table_eq rfl, h.flights_eq rfl, fun a ha => by rw [hrd, if_pos ha], fun a ha => by rw [hrd, if_neg (by simp [ha])]⟩

/-- The same after a reset whose power is as `coreReset` leaves it. -/
theorem coreReset_clears_of_intc {cause : Nat} {s t : State} (h : Frame [.intc] (coreReset cause s) t) : coreCleared s t cause :=
  coreReset_clears (h.weaken rfl) (by rw [h.power_eq rfl]; rfl) (by rw [h.power_eq rfl]; rfl)

theorem resetN_acts {s : State} {ns : Nat} {acts : Bool} (hp : powered s = true) (h : 10000 ≤ ns ∨ 1000 ≤ ns ∧ acts = true) :
    ∃ t, exec (.resetN ns acts) s = .next t ∧ coreCleared s t 2 := by
  have he : exec (.resetN ns acts) s = done (coreReset 2 s) := by
    change done (if _ then _ else _) = _
    rw [if_pos (by simpa [hp] using h)]
  obtain ⟨t, ht, hf⟩ := done_frame (coreReset 2 s)
  exact ⟨t, he.trans ht, coreReset_clears_of_intc hf⟩

theorem resetN_ignored {s : State} {ns : Nat} {acts : Bool} (h : ns < 1000 ∨ (ns < 10000 ∧ acts = false) ∨ powered s = false) :
    ∃ t, exec (.resetN ns acts) s = .next t ∧ intcOnly s t := by
  have hn : ¬ (powered s && (decide (10000 ≤ ns) || (decide (1000 ≤ ns) && acts))) = true := by
    simp only [Bool.and_eq_true, Bool.or_eq_true, decide_eq_true_eq, not_and, not_or]
    intro hp
    rcases h with h | ⟨h, rfl⟩ | h
    · exact ⟨by omega, by omega⟩
    · exact ⟨by omega, by simp⟩
    · simp [h] at hp
  have he : exec (.resetN ns acts) s = done s := by
    change done (if _ then _ else _) = _
    rw [if_neg hn]
  rw [he]
  exact done_intcOnly s

/-- CORE_PG low on a powered core: it is reset, and CORE_PG is waited for from now on where CORE_EN is high. -/
theorem corePgLow_clears {s : State} (hp : powered s = true) : ∃ t, exec .corePgLow s = .next t ∧ coreCleared s t 2 := by
  let u : State := if s.power.coreEn then { coreReset 2 s with power := { (coreReset 2 s).power with pgFrom := some s.now } } else coreReset 2 s
  have he : exec .corePgLow s = done u := by
    change done _ = done u
    simp only [hp, if_true, u]
  have hu : Frame [.power] (coreReset 2 s) u ∧ u.power.coreUp = false ∧ u.power.nextCause = 2 := by
    unfold u
    split
    · exact ⟨.with_power rfl .refl, rfl, rfl⟩
    · exact ⟨.refl, rfl, rfl⟩
  obtain ⟨hframe, hup, hcause⟩ := hu
  obtain ⟨t, ht, hf⟩ := done_frame u
  refine ⟨t, he.trans ht, coreReset_clears ((hframe.weaken rfl).trans (hf.weaken rfl)) ?_ ?_⟩
  · rw [hf.power_eq rfl, hup]
  · rw [hf.power_eq rfl, hcause]

theorem softReset_key {s : State} (ho : barOpen s = true) : ∃ t, exec (.globalSoftReset 0xA5A5) s = .next t ∧ coreCleared s t 4 := by
  obtain ⟨t, ht, hf⟩ := viaBar_frame ho (softResetEff 0xA5A5)
  rw [show softResetEff 0xA5A5 s = coreReset 4 s from if_pos rfl] at hf
  exact ⟨t, ht, coreReset_clears_of_intc hf⟩

theorem softReset_other {s : State} {v : Word} (hv : v ≠ 0xA5A5) (ho : barOpen s = true) :
    ∃ t, exec (.globalSoftReset v) s = .next t ∧ regsOnly s t (recordOf .global) ∧ recorded s t .global 2 ∧
      (rbit s Block.global.base 31 = false → rd64 t (Block.global.base + 0x10) = v.setWidth 64) := by
  have he : softResetEff v s = fault s .global 2 wholeBlock (v.setWidth 64) := if_neg hv
  obtain ⟨t, ht, hr, hregs⟩ := viaBar_regsOnly (f := softResetEff v) ho (by rw [he]; exact regsOnly_fault ..)
  rw [he] at hregs
  refine ⟨t, ht, hr, recorded_congr hregs (recorded_fault _ _ _ _ (by decide)), fun h => ?_⟩
  obtain ⟨-, hident, -⟩ := recordShows_congr hregs (fault_shows s .global 2 wholeBlock (v.setWidth 64) h)
  exact hident

/-! ### Resets of the host unit -/

/-- The host unit is reset: its rings, channels and registers and the function's configuration, and nothing of the line, the queues, the modes or
the Keeper. -/
def hostCleared (s t : State) : Prop :=
  t.rings = [] ∧ t.dmas = [] ∧ t.host.cfg = {} ∧ t.host.d3 = false ∧ t.host.msixOn = false ∧ t.host.fmask = false ∧ t.host.vectors = [] ∧
  t.mode = s.mode ∧ t.queues = s.queues ∧ t.ports = s.ports ∧ t.line = s.line ∧ t.keys = s.keys ∧ t.table = s.table ∧ t.gate = s.gate ∧
  t.keeper = s.keeper ∧ t.time = s.time ∧ t.power = s.power ∧ t.wire = s.wire ∧
  (∀ a, inHostUnit a = true → rd t a = regReset a) ∧ ∀ a, a < 0x4000000 → getLatch t hostPath a = 0

theorem rd_hostReset_of_inHostUnit (s : State) {a : Nat} (h : inHostUnit a = true) : rd (hostReset s) a = regReset a :=
  (look_filter _ _ (fun a => !inHostUnit a) a).trans (if_neg (by simp [h]))

theorem getLatch_hostReset (s : State) {a : Nat} (h : a < 0x4000000) : getLatch (hostReset s) hostPath a = 0 :=
  (look_filter _ _ (fun n => decide (0x4000000 ≤ n)) _).trans (if_neg (by simpa [hostPath] using h))

/-- A state with the fields of a reset host unit, but for what the interrupt controller samples and for PERST_N. -/
theorem hostReset_clears {s t : State} (h : Frame [.intc, .host] (hostReset s) t) (hhost : t.host = { (hostReset s).host with perst := t.host.perst }) :
    hostCleared s t := by
  have hf : Frame [.intc, .host, .cistern, .cls, .rings, .dmas, .scans, .regs] s t := hostReset_frame.trans (h.weaken rfl)
  have hlatch (a : Nat) (ha : a < 0x4000000) : getLatch t hostPath a = 0 := by
    rw [← getLatch_hostReset s ha, getLatch, hhost]
    rfl
  exact ⟨h.rings_eq rfl, h.dmas_eq rfl, by rw [hhost]; rfl, by rw [hhost]; rfl, by rw [hhost]; rfl, by rw [hhost]; rfl, by rw [hhost]; rfl,
    hf.mode_eq rfl, hf.queues_eq rfl, hf.ports_eq rfl, hf.line_eq rfl, hf.keys_eq rfl, hf.table_eq rfl, hf.gate_eq rfl, hf.keeper_eq rfl,
    hf.time_eq rfl, hf.power_eq rfl, hf.wire_eq rfl, fun a ha => (rd_congr (h.regs_eq rfl) a).trans (rd_hostReset_of_inHostUnit s ha), hlatch⟩

theorem hostReset_perst (s : State) : (hostReset s).host.perst = s.host.perst := by
  have hloop : Frame [.cistern, .cls, .regs] s (s.rings.foldl (fun s e => ringLost s e.2) s) :=
    Frame.foldl (fun _ _ h => h.trans ringLost_frame) .refl
  calc (hostReset s).host.perst = (endScans 0 2 (s.rings.foldl (fun s e => ringLost s e.2) s)).host.perst := rfl
    _ = (s.rings.foldl (fun s e => ringLost s e.2) s).host.perst := by rw [endScans_frame.host_eq rfl]
    _ = s.host.perst := by rw [hloop.host_eq rfl]

/-- Where a reset of the host unit acts, it clears the host unit and leaves PERST_N as it stands. -/
theorem hostReset_done {s : State} {c : Prop} [Decidable c] (hc : c) :
    ∃ t, done (if c then hostReset s else s) = .next t ∧ hostCleared s t ∧ t.host.perst = s.host.perst := by
  rw [if_pos hc]
  obtain ⟨t, ht, hf⟩ := done_frame (hostReset s)
  exact ⟨t, ht, hostReset_clears (hf.weaken rfl) (by rw [hf.host_eq rfl]), by rw [hf.host_eq rfl, hostReset_perst]⟩

theorem perstN_clears (s : State) : ∃ t, exec .perstN s = .next t ∧ hostCleared s t ∧ t.host.perst = true := by
  obtain ⟨t, ht, hf⟩ := done_frame { hostReset s with host := { (hostReset s).host with perst := true } }
  have hhost : t.host = { (hostReset s).host with perst := true } := hf.host_eq rfl
  exact ⟨t, ht, hostReset_clears (Frame.trans (.with_host rfl .refl) (hf.weaken rfl)) (by rw [hhost]), by rw [hhost]⟩

end Sys2Proof.Machine

open Sys2Proof Sys2Proof.Machine

/-- Settles O9, by what `coreReset` leaves, for the resets whose conditions hold. -/
theorem coreResetKeepsKeeper : Obligations.CoreResetKeepsKeeper := by
  unfold Obligations.CoreResetKeepsKeeper
  intro cleared s
  refine ⟨fun ns acts hp h => ?_, fun ns hp h => ?_, fun ns acts h => ?_, fun hp => ?_, fun ho => ?_, fun v hv ho => ?_⟩
  · exact resetN_acts hp (.inl h)
  · exact resetN_acts hp (.inr ⟨h, rfl⟩)
  · exact resetN_ignored h
  · exact corePgLow_clears hp
  · exact softReset_key ho
  · exact softReset_other hv ho

/-- Settles O12, by what `hostReset` clears. -/
theorem hostResetScope : Obligations.HostResetScope := by
  unfold Obligations.HostResetScope
  intro scope
  refine ⟨fun s => ?_, fun s hr hp => ?_, fun s hr hp hd => ?_, fun s hu => ?_, fun s => ?_⟩
  · exact perstN_clears s
  · obtain ⟨t, ht, hs, hperst⟩ := hostReset_done (s := s) (c := (running s && !s.host.perst) = true) (by simp [hr, hp])
    exact ⟨t, ht, hs, hperst.trans hp⟩
  · obtain ⟨t, ht, hs, hperst⟩ := hostReset_done (s := s) (c := (running s && !s.host.perst && s.host.d3) = true) (by simp [hr, hp, hd])
    exact ⟨t, ht, hs, hperst.trans hp⟩
  · have he : exec .d3hotEntry s = done { s with host := { s.host with d3 := true } } := by
      change done (if _ then _ else _) = _
      rw [if_pos hu]
    exact ⟨_, he, settle_eq _⟩
  · exact ⟨_, rfl, settle_eq _⟩

end

section
/-!
Power-up and boot (O11): the core leaves reset, the sequence ends and the boot load starts, and the Keeper drives CORE_EN (02 R104-R108,
15 R804, R805, 16 R845, R846).
-/
namespace Sys2Proof.Machine

/-! ### The core leaves reset -/

/-- The state with the straps sampled and the flash identified, before BOOT_SEL is judged. -/
def leftReset (b : BitVec 2) (a : Bool) (x : FlashId) (s : State) : State :=
  { s with
    mode := {}
    flash := { s.flash with ok := flashGood x }
    power := { s.power with
      coreUp := true, cause := s.power.nextCause, straps := b.toNat + 4 * b2n a, strapped := true, pgWait := false, pgFrom := none } }

theorem leaveReset_invalid (a : Bool) (x : FlashId) (s : State) :
    leaveReset 3 a x s = fault (leftReset 3 a x s) .global 1 wholeBlock 0 := by
  unfold leaveReset
  exact if_pos rfl

theorem leaveReset_valid {b : BitVec 2} (hb : b ≠ 3) (a : Bool) (x : FlashId) (s : State) : leaveReset b a x s = leftReset b a x s := if_neg hb

theorem leaveReset_leftReset_frame (b : BitVec 2) (a : Bool) (x : FlashId) (s : State) : Frame [.intc, .regs] (leftReset b a x s) (leaveReset b a x s) := by
  by_cases hb : b = 3
  · subst hb
    rw [leaveReset_invalid]
    exact fault_frame
  · rw [leaveReset_valid hb]
    exact .refl

theorem flashGood_iff (x : FlashId) : flashGood x = true ↔ x.jedec = true ∧ x.sfdp = true ∧ 16 * 2 ^ 20 ≤ x.bytes := by
  unfold flashGood
  simp [and_assoc]

theorem pgReady_of_forall {s : State} (h : ∀ n, s.power.pgFrom = some n → n + 625000 ≤ s.now) : pgReady s = true := by
  unfold pgReady
  cases hp : s.power.pgFrom with
  | none => rfl
  | some n => rw [Option.all_some]; exact decide_eq_true (h n hp)

theorem pgReady_early {s : State} {n : Nat} (hp : s.power.pgFrom = some n) (h : s.now < n + 625000) : pgReady s = false := by
  unfold pgReady
  rw [hp, Option.all_some]
  exact decide_eq_false (Nat.not_le.2 h)

theorem coreLeavesReset_next {s : State} (b : BitVec 2) (a : Bool) (x : FlashId) (hv : s.power.vkeep = true) (he : s.power.coreEn = true)
    (hu : s.power.coreUp = false) (hp : pgReady s = true) :
    ∃ t, exec (.coreLeavesReset b a x) s = .next t ∧ Frame [.intc] (leaveReset b a x s) t := by
  have heq : exec (.coreLeavesReset b a x) s = done (leaveReset b a x s) := by
    change done (if _ then _ else _) = _
    rw [if_pos (by simp [hv, he, hu, hp])]
  rw [heq]
  exact done_frame _

theorem coreLeavesReset_early {s : State} (b : BitVec 2) (a : Bool) (x : FlashId) (hp : pgReady s = false) :
    ∃ t, exec (.coreLeavesReset b a x) s = .next t ∧ intcOnly s t := by
  have heq : exec (.coreLeavesReset b a x) s = done s := by
    change done (if _ then _ else _) = _
    rw [if_neg (by simp [hp])]
  rw [heq]
  exact done_intcOnly s

/-! ### The boot load starts -/

theorem loadStructure_mode (x : Bytes) (s : State) : (loadStructure x s).mode = { s.mode with lineOn := true } := by
  let s1 := loadSpread x ((List.range 16).foldl (loadPort x) s)
  let s2 := divideCistern (strPool x) (strReserve x) ((maskTracts (strTracts x)).foldl (loadCellMap x) s1)
  let s3 := wr ((List.range 8).foldl (loadChannel x) s2) R.BUFFER_RES_PAGES_LOST 0
  let s4 : State := { s3 with
    mode := { s3.mode with lineOn := true }
    loader := { s3.loader with tractEn := strTracts x, lineLanes := slice x 144 16, clientLanes := slice x 160 16 } }
  have h1 : Frame [.wire, .cistern, .ports, .regs] s s1 := (Frame.foldl (fun _ _ h => h.trans loadPort_frame) .refl).trans (loadSpread_frame.weaken rfl)
  have h2 : Frame [.cistern, .cls, .flights, .ghosts, .rings, .regs] s1 s2 :=
    (Frame.foldl (fun _ _ h => h.trans loadCellMap_frame) .refl).trans (divideCistern_frame.weaken rfl)
  have h3 : Frame [.res, .regs] s2 s3 := (Frame.foldl (fun _ _ h => h.trans loadChannel_frame) .refl).trans (wr_frame.weaken rfl)
  have h4 : Frame [.wire, .ports] s4 (loadStructure x s) := (sendIdle_frame.weaken rfl).trans ((showLanes_frame.weaken rfl).trans showSignals_frame)
  calc (loadStructure x s).mode = { s3.mode with lineOn := true } := h4.mode_eq rfl
    _ = { s.mode with lineOn := true } := by rw [h3.mode_eq rfl, h2.mode_eq rfl, h1.mode_eq rfl]

theorem enterLoading_mode (s : State) : (enterLoading s).mode.mode = .loading := by
  unfold enterLoading
  split
  · assumption
  · rfl

/-- At device scope MODE is LOADING from the start of APPLYING. -/
theorem deviceStart_mode (s : State) : (deviceStart s).mode.mode = .loading := by
  have hmode : (deviceStart s).mode = { (enterLoading (stopTraffic (endScans 2 8 s))).mode with lineOn := true } :=
    (loadSections_frame.mode_eq rfl).trans (loadStructure_mode _ _)
  generalize stopTraffic (endScans 2 8 s) = u at hmode
  rw [hmode]
  exact enterLoading_mode u

/-- A command that fails while a boot load is in hand is recorded in IMAGE. -/
theorem commandFails_boot {s : State} (hb : s.loader.boot = true) (r d at_ : Nat) :
    commandFails r d at_ s = fault { setLoader .idle s with loader := { (setLoader .idle s).loader with boot := false, stuck := true } } .image r d
      (BitVec.ofNat 64 at_) := if_pos hb

theorem commandFails_commit {s : State} (hb : s.loader.boot = false) (r d at_ : Nat) :
    commandFails r d at_ s = imageRefuse r d at_ (setLoader .idle s) := if_neg (by simp [hb])

/-- A command that fails is recorded in IMAGE, also where the state has changed outside its fault record. -/
theorem commandFails_recorded {s u : State} (hu : rd u (Block.image.base + 4) = rd s (Block.image.base + 4)) {r : Nat} (hr : r < 32) (d at_ : Nat) :
    recorded s (commandFails r d at_ u) .image r := by
  cases hb : u.loader.boot with
  | true =>
    rw [commandFails_boot hb]
    exact recorded_fault_after
      (u := { setLoader .idle u with loader := { (setLoader .idle u).loader with boot := false, stuck := true } }) hr hu rfl
  | false =>
    rw [commandFails_commit hb]
    refine recorded_fault_after
      (u := event { setLoader .idle u with loader := { (setLoader .idle u).loader with reason := r, detail := d } } R.IMAGE_EVENT 1) hr ?_ rfl
    rw [rd_event_ne _ _ (by decide)]
    exact hu

/-- The factory image's load, by what its check finds: MODE stays LOADING and a failure is recorded. -/
theorem factoryBoot_spec {s u : State} (rom : RomCheck) (hm : u.mode.mode = .loading) (hregs : u.regs = s.regs) :
    (factoryBoot rom u).mode.mode = .loading ∧ (rom = .header → recorded s (factoryBoot rom u) .image 5) ∧
      ∀ k, rom = .section_ k → recorded s (factoryBoot rom u) .image 6 := by
  have hfails (r d at_ : Nat) (hr : r < 32) :
      (commandFails r d at_ (draw1 u)).mode.mode = .loading ∧ recorded s (commandFails r d at_ (draw1 u)) .image r := by
    refine ⟨?_, commandFails_recorded (u := draw1 u) (rd_congr hregs _) hr d at_⟩
    rw [commandFails_frame.mode_eq rfl]
    exact hm
  cases rom with
  | good => exact ⟨deviceStart_mode u, nofun, nofun⟩
  | header =>
    obtain ⟨hmode, hrecorded⟩ := hfails 5 0 (freeWord u 0).toNat (by decide)
    exact ⟨hmode, fun _ => hrecorded, nofun⟩
  | section_ k =>
    obtain ⟨hmode, hrecorded⟩ := hfails 6 k (freeWord u 0).toNat (by decide)
    exact ⟨hmode, nofun, fun _ _ => hrecorded⟩

/-- BAR0 is open, before the straps are looked at. -/
def barOpened (s : State) : State := { s with power := { s.power with barOpen := true } }

/-- The boot load begins with MODE LOADING, from RESETTING. -/
def bootLoading (s : State) : State :=
  { barOpened s with mode := { s.mode with mode := .loading, back := .provision, backSub := .listen, boot := true } }

section
variable {s : State} (hm : s.mode.mode = .resetting) (hb : s.power.barOpen = false) (hs : s.power.strapped = true)
include hm hb hs

theorem sequenceEff_none (rom : RomCheck) (h : s.power.straps % 4 = 3) : sequenceEff rom s = barOpened s := by
  unfold sequenceEff
  rw [if_pos (by simp [hm, hb, hs])]
  exact if_pos h

theorem sequenceEff_boot (rom : RomCheck) (h : s.power.straps % 4 ≠ 3) : sequenceEff rom s = startBoot rom (bootLoading s) := by
  unfold sequenceEff
  rw [if_pos (by simp [hm, hb, hs])]
  exact if_neg h

end

theorem startBoot_factory (rom : RomCheck) {s : State} (h : s.power.straps % 4 = 0) :
    startBoot rom s = factoryBoot rom { s with loader := { s.loader with boot := true } } := if_pos h

theorem startBoot_flash (rom : RomCheck) {s : State} (h : s.power.straps % 4 = 1) :
    startBoot rom s = if (directory s).isSome then setLoader .reading { s with loader := { s.loader with boot := true } }
      else commandFails 22 0 0 { s with loader := { s.loader with boot := true } } := by
  unfold startBoot
  rw [if_neg (by omega), if_pos h]

theorem startBoot_host (rom : RomCheck) {s : State} (h : s.power.straps % 4 = 2) :
    startBoot rom s = { s with loader := { s.loader with stuck := true } } := by
  unfold startBoot
  rw [if_neg (by omega), if_neg (by omega)]

/-- Once the boot load has started MODE is LOADING. -/
theorem startBoot_loading (rom : RomCheck) {s : State} (hm : s.mode.mode = .loading) : (startBoot rom s).mode.mode = .loading := by
  have h4 : s.power.straps % 4 = 0 ∨ s.power.straps % 4 = 1 ∨ 2 ≤ s.power.straps % 4 := by omega
  rcases h4 with h | h | h
  · rw [startBoot_factory rom h]
    exact (factoryBoot_spec (s := s) (u := { s with loader := { s.loader with boot := true } }) rom hm rfl).1
  · rw [startBoot_flash rom h]
    split
    · exact hm
    · rw [commandFails_frame.mode_eq rfl]
      exact hm
  · unfold startBoot
    rw [if_neg (by omega), if_neg (by omega)]
    exact hm

theorem barOpen_of {t : State} (hu : t.power.coreUp = true) (hb : t.power.barOpen = true) (hm : t.mode.mode ≠ .dormant) : barOpen t = true := by
  unfold barOpen
  simp [hu, hb, hm]

theorem running_coreUp {s : State} (h : running s = true) : s.power.coreUp = true := by
  unfold running at h
  exact (Bool.and_eq_true_iff.1 h).1

/-- After the sequence BAR0 is open. -/
theorem sequenceEff_barOpen (rom : RomCheck) {s : State} (hr : running s = true) (hm : s.mode.mode = .resetting) (hb : s.power.barOpen = false)
    (hs : s.power.strapped = true) : barOpen (sequenceEff rom s) = true := by
  by_cases h : s.power.straps % 4 = 3
  · rw [sequenceEff_none hm hb hs rom h]
    exact barOpen_of (running_coreUp hr) rfl (by simp [barOpened, hm])
  · rw [sequenceEff_boot hm hb hs rom h]
    have hpower : (startBoot rom (bootLoading s)).power = (bootLoading s).power := startBoot_frame.power_eq rfl
    exact barOpen_of (by rw [hpower]; exact running_coreUp (s := s) hr) (by rw [hpower]; rfl) (by simp [startBoot_loading rom (s := bootLoading s) rfl])

theorem barOpen_congr {s t : State} (h : Frame [.intc] s t) : barOpen t = barOpen s := by
  unfold barOpen
  rw [h.power_eq rfl, h.mode_eq rfl]

/-! ### The Keeper drives CORE_EN -/

theorem keeperWakeEff_raises {s : State} (hv : s.power.vkeep = true) (hm : s.mode.mode = .dormant) (he : s.power.coreEn = false)
    (hw : keeperWakeHolds s = true) (ht : tenMs ≤ s.power.enTicks) :
    keeperWakeEff s = driveCoreEn true { s with power := { s.power with nextCause := 8 } } := by
  unfold keeperWakeEff
  rw [if_pos (by simp [hv, hm, he, hw]; exact ht)]

theorem rd_pgTimeoutEff_wakeCause (s : State) : rd (pgTimeoutEff s) R.KEEPER_WAKE_CAUSE = 0 := by
  unfold pgTimeoutEff
  dsimp only
  rw [rd_fault_out _ _ _ _ _ (by decide), rd_wr_same]

theorem pgTimeoutEff_recorded (s : State) : recorded s (pgTimeoutEff s) .keeper 1 := 
  recorded_fault_after (u := wr { driveCoreEn false s with mode := { mode := .dormant } } R.KEEPER_WAKE_CAUSE 0) (by decide)
    (rd_wr_ne { driveCoreEn false s with mode := { mode := .dormant } } 0 (by decide)) rfl

theorem rd_pgTimeoutEff_ne (s : State) {a : Nat} (h : a ∉ R.KEEPER_WAKE_CAUSE :: recordOf .keeper) : rd (pgTimeoutEff s) a = rd s a := by
  obtain ⟨hcause, hrecord⟩ := not_or.1 (mt List.mem_cons.2 h)
  unfold pgTimeoutEff
  dsimp only
  rw [(regsOnly_fault _ _ _ _ _).2 a hrecord, rd_wr_ne _ _ hcause]
  rfl

/-- A PG_TIMEOUT lowers CORE_EN and leaves the device in DORMANT. -/
theorem pgTimeoutEff_frame_driven (s : State) : Frame [.intc, .regs] { driveCoreEn false s with mode := { mode := .dormant } } (pgTimeoutEff s) :=
  (wr_frame.weaken rfl).trans fault_frame

/-! ### The commands -/

theorem coreLeavesReset_leaves {s : State} (b : BitVec 2) (a : Bool) (x : FlashId) (hv : s.power.vkeep = true) (he : s.power.coreEn = true)
    (hu : s.power.coreUp = false) (hp : pgReady s = true) :
    ∃ t, exec (.coreLeavesReset b a x) s = .next t ∧ t.power.coreUp = true ∧ t.power.cause = s.power.nextCause ∧
      t.power.straps = b.toNat + 4 * b2n a ∧ t.power.strapped = true ∧ t.mode = {} ∧ t.keeper = s.keeper ∧
      (t.flash.ok = true ↔ x.jedec = true ∧ x.sfdp = true ∧ 16 * 2 ^ 20 ≤ x.bytes) ∧ t.flash = { s.flash with ok := t.flash.ok } ∧
      (b = 3 → recorded s t .global 1) ∧ (b ≠ 3 → t.regs = s.regs) := by
  obtain ⟨t, ht, hf⟩ := coreLeavesReset_next b a x hv he hu hp
  have hleft : Frame [.intc, .regs] (leftReset b a x s) t := (leaveReset_leftReset_frame b a x s).trans (hf.weaken rfl)
  have hpower : t.power = (leftReset b a x s).power := hleft.power_eq rfl
  have hflash : t.flash = { s.flash with ok := flashGood x } := hleft.flash_eq rfl
  refine ⟨t, ht, by rw [hpower]; rfl, by rw [hpower]; rfl, by rw [hpower]; rfl, by rw [hpower]; rfl, hleft.mode_eq rfl, hleft.keeper_eq rfl,
    by rw [hflash]; exact flashGood_iff x, by rw [hflash], ?_, fun hb => ?_⟩
  · rintro rfl
    rw [leaveReset_invalid] at hf
    exact recorded_fault_after (u := leftReset 3 a x s) (by decide) rfl (hf.regs_eq rfl)
  · rw [leaveReset_valid hb] at hf
    exact hf.regs_eq rfl

section
variable {s t : State} (rom : RomCheck) (hm : s.mode.mode = .resetting) (hb : s.power.barOpen = false) (hs : s.power.strapped = true)
  (hf : Frame [.intc] (sequenceEff rom s) t)
include hm hb hs hf

/-- With BOOT_SEL 0b10 the load waits for the host. -/
theorem sequence_host (h : s.power.straps % 4 = 2) :
    t.mode.mode = .loading ∧ t.regs = s.regs ∧ t.loader.stuck = true ∧ t.queues = s.queues := by
  rw [sequenceEff_boot hm hb hs rom (by omega), startBoot_host rom (s := bootLoading s) h] at hf
  exact ⟨by rw [hf.mode_eq rfl]; rfl, hf.regs_eq rfl, by rw [hf.loader_eq rfl], hf.queues_eq rfl⟩

/-- With BOOT_SEL 0b01 it reads the image of the flash, or records that there is none. -/
theorem sequence_flash (h : s.power.straps % 4 = 1) :
    t.mode.mode = .loading ∧ ((directory s).isSome = true → t.loader.st = .reading ∧ t.loader.boot = true ∧ t.regs = s.regs) ∧
      ((directory s).isSome = false → recorded s t .image 22 ∧ t.queues = s.queues) := by
  have hdir : directory (bootLoading s) = directory s := rfl
  rw [sequenceEff_boot hm hb hs rom (by omega), startBoot_flash rom (s := bootLoading s) h, hdir] at hf
  by_cases hd : (directory s).isSome = true
  · rw [if_pos hd] at hf
    have hloader := hf.loader_eq rfl
    exact ⟨by rw [hf.mode_eq rfl]; rfl, fun _ => ⟨by rw [hloader]; rfl, by rw [hloader]; rfl, hf.regs_eq rfl⟩,
      fun hn => absurd hd (by simp [hn])⟩
  · rw [if_neg hd] at hf
    have hfails : Frame [.intc, .loader, .regs] { bootLoading s with loader := { s.loader with boot := true } } t :=
      commandFails_frame.trans (hf.weaken rfl)
    have hrecorded := commandFails_recorded (s := s) (u := { bootLoading s with loader := { s.loader with boot := true } }) (r := 22)
      rfl (by decide) 0 0
    have hregs := hf.regs_eq rfl
    exact ⟨by rw [hfails.mode_eq rfl]; rfl, fun hn => absurd hn hd, fun _ => ⟨recorded_congr hregs hrecorded, hfails.queues_eq rfl⟩⟩

/-- With BOOT_SEL 0b00 it takes the FACTORY image, or records what its check finds. -/
theorem sequence_factory (h : s.power.straps % 4 = 0) :
    t.mode.mode = .loading ∧ (rom = .header → recorded s t .image 5) ∧ ∀ k, rom = .section_ k → recorded s t .image 6 := by
  obtain ⟨hmode, hheader, hsection⟩ :=
    factoryBoot_spec (s := s) (u := { bootLoading s with loader := { s.loader with boot := true } }) rom rfl rfl
  rw [sequenceEff_boot hm hb hs rom (by omega), startBoot_factory rom (s := bootLoading s) h] at hf
  have hregs := hf.regs_eq rfl
  exact ⟨(congrArg ModeState.mode (hf.mode_eq rfl)).trans hmode, fun hk => recorded_congr hregs (hheader hk),
    fun k hk => recorded_congr hregs (hsection k hk)⟩

end

theorem keeperWake_raises {s : State} (hv : s.power.vkeep = true) (hm : s.mode.mode = .dormant) (he : s.power.coreEn = false)
    (hw : keeperWakeHolds s = true) (ht : tenMs ≤ s.power.enTicks) :
    ∃ t, exec .keeperWake s = .next t ∧ t.power.coreEn = true ∧ t.power.nextCause = 8 ∧ t.wire = s.wire ++ [.coreEn true] ∧
      t = { s with power := t.power, wire := t.wire, intc := t.intc } := by
  obtain ⟨t, ht', hf⟩ := done_frame (keeperWakeEff s)
  rw [keeperWakeEff_raises hv hm he hw ht] at hf
  have hall : Frame [.power, .wire, .intc] s t := Frame.trans (.with_power rfl (driveCoreEn_frame.weaken rfl)) (hf.weaken rfl)
  exact ⟨t, ht', by rw [hf.power_eq rfl]; rfl, by rw [hf.power_eq rfl]; rfl, hf.wire_eq rfl, hall.eq_of fun f => by cases f <;> rfl⟩

theorem pgTimeout_lowers {s : State} (hv : s.power.vkeep = true) (he : s.power.coreEn = true) (hw : s.power.pgWait = true)
    (hu : s.power.coreUp = false) (ht : 32768 * zeroAsOne (rfld s R.KEEPER_PWR_CTL 0 16) < 1000 * s.power.enTicks) :
    ∃ t, exec .pgTimeout s = .next t ∧ t.power.coreEn = false ∧ t.wire = s.wire ++ [.coreEn false] ∧ t.mode.mode = .dormant ∧
      rd t R.KEEPER_WAKE_CAUSE = 0 ∧ recorded s t .keeper 1 ∧ ∀ a, a ∉ R.KEEPER_WAKE_CAUSE :: recordOf .keeper → rd t a = rd s a := by
  have heq : exec .pgTimeout s = done (pgTimeoutEff s) := by
    change done (if _ then _ else _) = _
    rw [if_pos (by simp only [hv, he, hw, hu, ht, decide_true, Bool.not_false, Bool.and_self])]
  obtain ⟨t, ht', hf⟩ := done_frame (pgTimeoutEff s)
  have hdriven := (pgTimeoutEff_frame_driven s).trans (hf.weaken rfl)
  have hregs := hf.regs_eq rfl
  refine ⟨t, heq.trans ht', by rw [hdriven.power_eq rfl]; rfl, hdriven.wire_eq rfl, by rw [hdriven.mode_eq rfl],
    (rd_congr hregs _).trans (rd_pgTimeoutEff_wakeCause s), recorded_congr hregs (pgTimeoutEff_recorded s), fun a ha => ?_⟩
  rw [rd_congr hregs, rd_pgTimeoutEff_ne s ha]

end Sys2Proof.Machine

open Sys2Proof Sys2Proof.Machine

/-- Settles O11: the way out of reset, the ends of the sequence by the straps, and the Keeper's changes of CORE_EN. -/
theorem corePowersUpAndLeavesReset : Obligations.CorePowersUpAndLeavesReset := by
  unfold Obligations.CorePowersUpAndLeavesReset
  refine ⟨⟨fun s b a x hv he hu hp => ?_, fun s b a x n hp h => ?_, fun s rom hr hm hb hs => ?_⟩,
    fun s hv hm he hw ht => ?_, fun s hv he hw hu ht => ?_⟩
  · exact coreLeavesReset_leaves b a x hv he hu (pgReady_of_forall hp)
  · exact coreLeavesReset_early b a x (pgReady_early hp h)
  · obtain ⟨t, ht, hf⟩ := viaCore_frame hr (sequenceEff rom)
    refine ⟨t, ht, (barOpen_congr hf).trans (sequenceEff_barOpen rom hr hm hb hs), fun h => ?_, sequence_host rom hm hb hs hf,
      sequence_flash rom hm hb hs hf, sequence_factory rom hm hb hs hf⟩
    rw [sequenceEff_none hm hb hs rom h] at hf
    exact hf.intcOnly
  · exact keeperWake_raises hv hm he hw ht
  · exact pgTimeout_lowers hv he hw hu ht

end

section
/-!
Mode requests (O13): the result of a request with GO = 1 by what is pending, the mode held and the target (02 R83-R93).
-/
namespace Sys2Proof.Machine

/-! ### The write of GLOBAL_MODE_CTL -/

theorem refusal_congr {s t : State} (hmode : t.mode = s.mode) (hranged : ranged t = ranged s) (m : Mode) : refusal t m = refusal s m := by
  unfold refusal
  rw [hmode, hranged]

/-- The result of a request depends on the mode control, the time and whether the terminal is ranged. -/
theorem requestEff_mode_congr {s t : State} (hmode : t.mode = s.mode) (hnow : t.now = s.now) (hranged : ranged t = ranged s) (n : Nat) :
    (requestEff n t).mode = (requestEff n s).mode := by
  unfold requestEff
  dsimp only
  rw [hmode]
  split
  · rfl
  · split
    · rfl
    next m _ =>
      rw [refusal_congr hmode hranged m, hnow]
      split
      · rfl
      · split <;> rfl

theorem requestEff_regs (n : Nat) (s : State) : (requestEff n s).regs = s.regs := requestEff_frame.regs_eq rfl

theorem fld_or_go (v : Word) : fld (v ||| 0x10000) 0 3 = fld v 0 3 := by
  unfold fld
  have h : ((v ||| 0x10000).extractLsb' 0 3).toNat = (v.extractLsb' 0 3).toNat := by
    congr 1
    ext i hi
    have : i = 0 ∨ i = 1 ∨ i = 2 := by omega
    rcases this with rfl | rfl | rfl <;> simp
  simpa [BitVec.extractLsb'_toNat] using h

theorem bit_or_go (v : Word) : bit (v ||| 0x10000) 16 = true := by
  unfold bit; simp

/-- The bits that can be written read as written where none of them clears on a 1. -/
theorem merge_and_rw (old v rw_ : Word) : merge old v rw_ 0 &&& rw_ = v &&& rw_ := by
  have hall : ~~~(v &&& (0 : Word)) = BitVec.allOnes 32 := by rw [show v &&& (0 : Word) = 0#32 from BitVec.and_zero, BitVec.not_zero]
  unfold merge
  rw [hall, BitVec.and_allOnes]
  ext i hi
  cases h : rw_[i] <;> simp [h]

/-- Bits set outside a mask do not show in it. -/
theorem or_and_of_and_eq_zero (v : Word) {w mask : Word} (h : w &&& mask = 0) : (v ||| w) &&& mask = v &&& mask := by
  ext i hi
  have hi0 : (w[i] && mask[i]) = false := by
    rw [← BitVec.getElem_and, h]
    exact BitVec.getElem_zero hi
  rw [BitVec.getElem_and, BitVec.getElem_or, Bool.and_or_distrib_right, hi0, Bool.or_false, BitVec.getElem_and]

/-- A write of GLOBAL_MODE_CTL with GO = 1 changes the register and the mode control, which becomes what the request makes of it. -/
theorem modeRequest_next {s : State} (v : Word) (ho : barOpen s = true) :
    ∃ t, exec (.modeRequest v) s = .next t ∧ t = { s with regs := t.regs, mode := t.mode, intc := t.intc } ∧
      (∀ a, a ≠ R.GLOBAL_MODE_CTL → rd t a = rd s a) ∧ rd t R.GLOBAL_MODE_CTL &&& 0x20007 = v &&& 0x20007 ∧
      t.mode = (requestEff (fld v 0 3) s).mode := by
  let u := wrField s R.GLOBAL_MODE_CTL (v ||| 0x10000) 0x20007 0
  have heff : modeCtlEff (v ||| 0x10000) s = requestEff (fld v 0 3) u := by
    unfold modeCtlEff
    dsimp only
    rw [if_pos (bit_or_go v), fld_or_go]
  obtain ⟨t, ht, hf⟩ := viaBar_frame ho (modeCtlEff (v ||| 0x10000))
  have hall : Frame [.mode, .intc, .regs] s t := (modeCtlEff_frame.weaken rfl).trans (hf.weaken rfl)
  have hregs : t.regs = u.regs := by rw [hf.regs_eq rfl, heff, requestEff_regs]
  refine ⟨t, ht, hall.eq_of fun f => by cases f <;> rfl, fun a ha => ?_, ?_, ?_⟩
  · rw [rd_congr hregs, rd_wrField_ne _ _ _ _ ha]
  · rw [rd_congr hregs, rd_wrField_same, merge_and_rw, or_and_of_and_eq_zero v rfl]
  · have hranged : ranged u = ranged s := by
      unfold ranged rbit
      rw [rd_wrField_ne _ _ _ _ (by decide)]
    rw [hf.mode_eq rfl, heff]
    exact requestEff_mode_congr (s := s) (t := u) rfl rfl hranged _

/-! ### What a request makes of the mode control -/

theorem requestEff_busy {s : State} (n : Nat) (h : s.mode.request.isSome ∨ s.mode.mode = .loading ∨ s.mode.mode = .resetting) :
    (requestEff n s).mode = { s.mode with refuse := 2 } := by
  unfold requestEff
  rw [if_pos h]

/-- No request is pending, in a mode that takes one. -/
def RequestFree (s : State) : Prop := s.mode.request = none ∧ s.mode.mode ≠ .loading ∧ s.mode.mode ≠ .resetting

section
variable {s : State} (hfree : RequestFree s)
include hfree

theorem requestFree_not_busy : ¬ (s.mode.request.isSome ∨ s.mode.mode = .loading ∨ s.mode.mode = .resetting) := by
  obtain ⟨hrequest, hloading, hresetting⟩ := hfree
  simp [hrequest, hloading, hresetting]

theorem requestEff_badTarget {n : Nat} (h : targetMode n = none) : (requestEff n s).mode = { s.mode with refuse := 5 } := by
  unfold requestEff
  rw [if_neg (requestFree_not_busy hfree), h]

theorem requestEff_held {n : Nat} (h : targetMode n = some s.mode.mode) : (requestEff n s).mode = { s.mode with refuse := 0 } := by
  unfold requestEff
  rw [if_neg (requestFree_not_busy hfree), h]
  exact congrArg State.mode (if_pos rfl)

theorem requestEff_refused {n r : Nat} {m : Mode} (h : targetMode n = some m) (hm : m ≠ s.mode.mode) (hr : refusal s m = r) (hr0 : r ≠ 0) :
    (requestEff n s).mode = { s.mode with refuse := r } := by
  unfold requestEff
  rw [if_neg (requestFree_not_busy hfree), h]
  dsimp only
  rw [if_neg hm, hr, if_neg hr0]

theorem requestEff_accepted {n : Nat} {m : Mode} (h : targetMode n = some m) (hm : m ≠ s.mode.mode) (hr : refusal s m = 0) :
    (requestEff n s).mode = { s.mode with refuse := 0, request := some m, auto := false, met := false, since := s.now } := by
  unfold requestEff
  rw [if_neg (requestFree_not_busy hfree), h]
  dsimp only
  rw [if_neg hm, if_pos hr]

end

/-- A request leaves the mode and the substate. -/
theorem requestEff_mode_kept (n : Nat) (s : State) : (requestEff n s).mode.mode = s.mode.mode ∧ (requestEff n s).mode.sub = s.mode.sub := by
  unfold requestEff
  dsimp only
  split
  · exact ⟨rfl, rfl⟩
  · split
    · exact ⟨rfl, rfl⟩
    · split
      · exact ⟨rfl, rfl⟩
      · split <;> exact ⟨rfl, rfl⟩

theorem targetMode_code {m : Mode} (h : m ≠ .loading) (h' : m ≠ .resetting) : targetMode m.code = some m := by
  cases m with
  | loading => exact absurd rfl h
  | resetting => exact absurd rfl h'
  | dormant | fallow | provision | service | hold | test => rfl

theorem targetMode_of_ge {n : Nat} (h : 6 ≤ n) : targetMode n = none := by
  match n with
  | n + 6 => rfl

/-! ### The table of transitions -/

theorem refusal_dormant (s : State) : refusal s .dormant = 0 := by
  unfold refusal
  cases s.mode.mode <;> rfl

section
variable {s : State}

theorem refusal_of_provision_silent (hm : s.mode.mode = .provision) (hs : s.mode.sub = .silent) : refusal s .service = 4 ∧ refusal s .hold = 4 := by
  unfold refusal
  simp only [hm, hs, if_true, and_self]

theorem refusal_of_provision_unranged (hm : s.mode.mode = .provision) (hs : s.mode.sub ≠ .silent) (hr : ranged s = false) :
    refusal s .service = 3 := by
  unfold refusal
  simp [hm, hs, hr]

theorem refusal_of_provision_ranged (hm : s.mode.mode = .provision) (hs : s.mode.sub = .registered ∨ s.mode.sub = .ranging)
    (hr : ranged s = true) : refusal s .service = 0 := by
  have hn : s.mode.sub ≠ .silent := by rcases hs with h | h <;> simp [h]
  unfold refusal
  simp [hm, hn, hs, hr]

theorem refusal_of_provision_hold (hm : s.mode.mode = .provision) (hs : s.mode.sub ≠ .silent) : refusal s .hold = 1 := by
  unfold refusal
  simp [hm, hs]

theorem refusal_of_hold (hm : s.mode.mode = .hold) : refusal s .service = if ranged s then 0 else 3 := by
  unfold refusal
  simp only [hm]

/-- The transitions listed without a condition: the mode held, the TARGET and the mode requested. -/
def plainTransitions : List (Mode × Nat × Mode) :=
  [(.provision, 5, .test), (.test, 2, .provision), (.service, 4, .hold), (.service, 1, .fallow), (.fallow, 3, .service), (.service, 2, .provision),
    (.hold, 2, .provision)]

/-- The transitions that the table does not list: the mode held and the TARGET. -/
def missingTransitions : List (Mode × Nat) :=
  [(.provision, 1), (.service, 5), (.hold, 1), (.hold, 5), (.fallow, 2), (.fallow, 4), (.fallow, 5), (.test, 1), (.test, 3), (.test, 4)]

theorem refusal_plain {e : Mode × Nat × Mode} (he : e ∈ plainTransitions) (hm : s.mode.mode = e.1) :
    targetMode e.2.1 = some e.2.2 ∧ e.2.2 ≠ s.mode.mode ∧ refusal s e.2.2 = 0 := by
  simp only [plainTransitions, List.mem_cons, List.not_mem_nil, or_false] at he
  rcases he with rfl | rfl | rfl | rfl | rfl | rfl | rfl <;> simp [refusal, hm, targetMode]

theorem refusal_missing {e : Mode × Nat} (he : e ∈ missingTransitions) (hm : s.mode.mode = e.1) :
    ∃ m, targetMode e.2 = some m ∧ m ≠ s.mode.mode ∧ refusal s m = 1 := by
  simp only [missingTransitions, List.mem_cons, List.not_mem_nil, or_false] at he
  rcases he with rfl | rfl | rfl | rfl | rfl | rfl | rfl | rfl | rfl | rfl <;> simp [refusal, hm, targetMode]

end

end Sys2Proof.Machine

open Sys2Proof Sys2Proof.Machine

/-- Settles O13: the mode control becomes what `requestEff` makes of it, by its five results and the table of transitions. -/
theorem modeRequestRules : Obligations.ModeRequestRules := by
  unfold Obligations.ModeRequestRules
  intro s v ho
  obtain ⟨t, ht, hframe, hregs, hctl, hmode⟩ := modeRequest_next v ho
  obtain ⟨hkept, hsub⟩ := requestEff_mode_kept (fld v 0 3) s
  refine ⟨t, ht, hframe, hregs, hctl, by rw [hmode, hkept], by rw [hmode, hsub], ?_⟩
  dsimp only
  rw [hmode]
  refine ⟨fun hbusy _ => ?_, fun hfree h => ?_, fun hfree h => ?_, fun hfree hm h => ?_, fun hfree hm hs h => ?_, fun hfree hm hs hr h => ?_,
    fun hfree hm hs hr h => ?_, fun hfree hm hr h => ?_, fun hfree hm hr h => ?_, fun e he hfree hm h => ?_, fun hfree hm hs h => ?_,
    fun e he hfree hm h => ?_⟩
  · exact requestEff_busy _ (hbusy.imp_left fun h => h.1)
  · exact requestEff_badTarget hfree (targetMode_of_ge h)
  · obtain ⟨-, hloading, hresetting⟩ := id hfree
    exact requestEff_held hfree (by rw [← h, targetMode_code hloading hresetting])
  · exact requestEff_accepted hfree (by rw [h]; rfl) hm.symm (refusal_dormant s)
  · obtain ⟨hservice, hhold⟩ := refusal_of_provision_silent hm hs
    rcases h with h | h
    · exact requestEff_refused hfree (by rw [h]; rfl) (by simp [hm]) hservice (by decide)
    · exact requestEff_refused hfree (by rw [h]; rfl) (by simp [hm]) hhold (by decide)
  · exact requestEff_refused hfree (by rw [h]; rfl) (by simp [hm]) (refusal_of_provision_unranged hm hs hr) (by decide)
  · exact requestEff_accepted hfree (by rw [h]; rfl) (by simp [hm]) (refusal_of_provision_ranged hm hs hr)
  · exact requestEff_refused hfree (by rw [h]; rfl) (by simp [hm]) ((refusal_of_hold hm).trans (by rw [hr]; rfl)) (by decide)
  · exact requestEff_accepted hfree (by rw [h]; rfl) (by simp [hm]) ((refusal_of_hold hm).trans (by rw [hr]; rfl))
  · obtain ⟨htarget, hne, hzero⟩ := refusal_plain he hm
    exact requestEff_accepted hfree (h ▸ htarget) hne hzero
  · exact requestEff_refused hfree (by rw [h]; rfl) (by simp [hm]) (refusal_of_provision_hold hm hs) (by decide)
  · obtain ⟨m, htarget, hne, hone⟩ := refusal_missing he hm
    exact requestEff_refused hfree (h ▸ htarget) hne hone (by decide)

end

section
/-!
The state after reset (O58).
-/
namespace Sys2Proof.Machine

theorem reset_strandRuns : ∀ n < 32, (look none State.reset.intc.strand n).isSome = strandRuns State.reset n := by decide +kernel

theorem reset_sampled : State.reset.sampled :=
  ⟨by decide +kernel, by decide +kernel, reset_strandRuns, fun _ h => nomatch h⟩

end Sys2Proof.Machine

open Sys2Proof Sys2Proof.Machine

/-- Settles O58: a fixed state, evaluated. -/
theorem resetMeetsInvariants : Obligations.ResetMeetsInvariants := by
  unfold Obligations.ResetMeetsInvariants
  exact ⟨rfl, rfl, fun _ => rfl, rfl, rfl, reset_sampled⟩

end

section
/-!
Mode commits (O14): a pending request is refused after all, waits for the rails it moves, or commits (02 R94-R100, 16 R857-R859).
-/
namespace Sys2Proof.Machine

/-! ### The cases of a commit -/

section
variable {avs : List (Nat × Ack)} {s : State} {m : Mode}

theorem modeCommitEff_none (h : s.mode.request = none) : modeCommitEff avs s = s := by
  unfold modeCommitEff
  rw [h]

theorem modeCommitEff_met (h : s.mode.request = some m) (hmet : s.mode.met = true) : modeCommitEff avs s = refuseRequest 4 s := by
  unfold modeCommitEff
  simp only [h, hmet, if_true]

theorem modeCommitEff_refused (h : s.mode.request = some m) (hmet : s.mode.met = false) (hr : refusal s m ≠ 0) :
    modeCommitEff avs s = refuseRequest (refusal s m) s := by
  unfold modeCommitEff
  simp only [h, hmet, Bool.false_eq_true, if_false, if_pos hr]

theorem modeCommitEff_allowed (h : s.mode.request = some m) (hmet : s.mode.met = false) (hr : refusal s m = 0) :
    modeCommitEff avs s =
      if movesRails s m then
        let u := if s.mode.rails then s else railsMove m avs s
        if railsReady u then commitMode m (endRequest u) else u
      else commitMode m (endRequest s) := by
  unfold modeCommitEff
  simp only [h, hmet, Bool.false_eq_true, if_false, if_neg (not_not_intro hr)]

end

/-! ### A request that is refused after all -/

/-- Governors that go on leave the mode control as it is, except what holds and drains rails and fronts. -/
theorem leaveFallow_mode (s : State) :
    ∃ drain wake rails, (leaveFallow s).mode = { s.mode with drain := drain, wake := wake, rails := rails } := by
  unfold leaveFallow
  dsimp only
  split
  · rw [(railsFree_frame).mode_eq rfl]
    split
    · exact ⟨_, _, _, rfl⟩
    · exact ⟨_, _, _, rfl⟩
  · exact ⟨_, _, _, rfl⟩

theorem refuseRequest_eq_of_not_rails {s : State} (h : s.mode.rails = false) (r : Nat) :
    refuseRequest r s = { s with mode := (refuseRequest r s).mode } := by
  unfold refuseRequest
  simp only [h, Bool.false_eq_true, false_and, if_false]
  rfl

/-- The request ends, the mode stays, and a request of software's shows its reason. -/
structure RequestRefused (r : Nat) (s t : State) : Prop where
  only_mode : s.mode.rails = false → t = { s with mode := t.mode, intc := t.intc }
  mode_kept : t.mode.mode = s.mode.mode
  ended : t.mode.request = none
  rails_free : t.mode.rails = false
  reason : s.mode.auto = false → t.mode.refuse = r

theorem refuseRequest_mode (r : Nat) (s : State) :
    ∃ u : State, u.mode.mode = s.mode.mode ∧ (refuseRequest r s).mode =
      { u.mode with refuse := if s.mode.auto then s.mode.refuse else r, request := none, auto := false, met := false, rails := false } := by
  unfold refuseRequest endRequest
  dsimp only
  obtain ⟨drain, wake, rails, h⟩ := leaveFallow_mode s
  split
  · exact ⟨leaveFallow s, by rw [h], rfl⟩
  · exact ⟨s, rfl, rfl⟩

theorem requestRefused_of_frame {r : Nat} {s t : State} (h : Frame [.intc] (refuseRequest r s) t) : RequestRefused r s t := by
  obtain ⟨u, hkept, hmode⟩ := refuseRequest_mode r s
  have hm := (h.mode_eq rfl).trans hmode
  refine ⟨fun hrails => ?_, by rw [hm, ← hkept], by rw [hm], by rw [hm], fun hauto => by rw [hm]; simp [hauto]⟩
  rw [h.mode_eq rfl]
  refine h.intcOnly.trans ?_
  rw [refuseRequest_eq_of_not_rails hrails r]

/-! ### The rails that a change of mode moves (16 R857-R859) -/

/-- What the change of mode to `m` does to the rail of tract `t`. -/
def moveRail (m : Mode) (avs : List (Nat × Ack)) (s : State) (t : Nat) : State :=
  if (pace s t).st = .stopped then s
  else writeRail (setPace s t { pace s t with st := .fallow, raising := none, low := 0 }) t (railTarget s m t) (ackOf avs t)

theorem railsMove_eq (m : Mode) (avs : List (Nat × Ack)) (s : State) :
    railsMove m avs s = (tracts s).foldl (moveRail m avs) { s with mode := { s.mode with rails := true } } := rfl

theorem moveRail_frame {m : Mode} {avs : List (Nat × Ack)} {s : State} {t : Nat} :
    Frame [.wire, .intc, .paces, .regs] s (moveRail m avs s t) := by
  unfold moveRail
  split
  · exact .refl
  · exact writeRail_frame.andThen rfl (setPace_frame.weaken rfl)

theorem railsMove_mode (m : Mode) (avs : List (Nat × Ack)) (s : State) : (railsMove m avs s).mode = { s.mode with rails := true } := by
  rw [railsMove_eq]
  exact (Frame.foldl (fun _ _ h => moveRail_frame.andThen rfl h) .refl :
    Frame [.wire, .intc, .paces, .regs] { s with mode := { s.mode with rails := true } } _).mode_eq rfl

section
variable (s : State) (t mv : Nat) (a : Ack)

theorem writeRail_acked (h : ackTaken a = true) :
    ∃ p : Pace, p.st = (pace s t).st ∧ p.setpoint = mv ∧ writeRail s t mv a = setPace (emit s (.avs t (avsFrame t (some mv)))) t p := by
  unfold writeRail
  simp only [h, if_true]
  refine ⟨_, ?_, ?_, rfl⟩ <;> rfl

theorem writeRail_failed (h : ackTaken a = false) :
    writeRail s t mv a = avsFail (emit s (.avs t (avsFrame t (some mv)))) t (avsFrame t (some mv)) a := by
  unfold writeRail
  simp only [h, Bool.false_eq_true, if_false]

theorem pace_avsFail_same (f : Word) : (pace (avsFail s t f a) t).st = .stopped := by
  unfold avsFail
  rw [pace, fault_frame.paces_eq rfl, ← pace, pace_setPace_same]

theorem pace_avsFail_ne (f : Word) {n : Nat} (hn : n ≠ t) : pace (avsFail s t f a) n = pace s n := by
  unfold avsFail
  rw [pace, fault_frame.paces_eq rfl, ← pace, pace_setPace_ne _ _ _ hn]

theorem pace_writeRail_ne {n : Nat} (hn : n ≠ t) : pace (writeRail s t mv a) n = pace s n := by
  by_cases h : ackTaken a = true
  · obtain ⟨p, -, -, he⟩ := writeRail_acked s t mv a h
    rw [he, pace_setPace_ne _ _ _ hn]
    rfl
  · rw [writeRail_failed s t mv a (by simpa using h), pace_avsFail_ne _ _ _ _ hn]
    rfl

theorem writeRail_wire : (writeRail s t mv a).wire = s.wire ++ [.avs t (avsFrame t (some mv))] := by
  by_cases h : ackTaken a = true
  · obtain ⟨p, -, -, he⟩ := writeRail_acked s t mv a h
    rw [he, setPace_frame.wire_eq rfl]
    rfl
  · rw [writeRail_failed s t mv a (by simpa using h), avsFail_frame.wire_eq rfl]
    rfl

/-- A write of a rail changes no register outside the fault record of its tract. -/
theorem rd_writeRail_out {b : Nat} (h : b < (Block.tract t).base ∨ (Block.tract t).base + 0x20 ≤ b) : rd (writeRail s t mv a) b = rd s b := by
  by_cases ha : ackTaken a = true
  · obtain ⟨p, -, -, he⟩ := writeRail_acked s t mv a ha
    rw [he, rd_congr (setPace_frame.regs_eq rfl)]
    rfl
  · rw [writeRail_failed s t mv a (by simpa using ha), avsFail, rd_fault_out _ _ _ _ _ h, rd_congr (setPace_frame.regs_eq rfl)]
    rfl

end

theorem railTarget_congr {s t : State} {n : Nat} (m : Mode) (hctl : rd t (R.TRACT_PACE_CTL n) = rd s (R.TRACT_PACE_CTL n))
    (hlimit : rd t (R.TRACT_PACE_LIMIT n) = rd s (R.TRACT_PACE_LIMIT n)) (hfixed : rd t (R.TRACT_PACE_FIXED n) = rd s (R.TRACT_PACE_FIXED n)) :
    railTarget t m n = railTarget s m n := by
  unfold railTarget paceFloor paceCeiling paceFixed paceFloor rfld rbit
  rw [hctl, hlimit, hfixed]

section
variable {m : Mode} {avs : List (Nat × Ack)} {s : State} {n t : Nat}

theorem pace_moveRail_ne (hn : n ≠ t) : pace (moveRail m avs s t) n = pace s n := by
  unfold moveRail
  split
  · rfl
  · rw [pace_writeRail_ne _ _ _ _ hn, pace_setPace_ne _ _ _ hn]

theorem wire_moveRail_of_mem {o : Output} (ho : o ∈ s.wire) : o ∈ (moveRail m avs s t).wire := by
  unfold moveRail
  split
  · exact ho
  · rw [writeRail_wire, setPace_frame.wire_eq rfl]
    exact List.mem_append_left _ ho

theorem rd_moveRail_of_lt {b : Nat} (hb : b % 0x200000 < 0xF00) : rd (moveRail m avs s t) b = rd s b := by
  unfold moveRail
  split
  · rfl
  · rw [rd_writeRail_out _ _ _ _ (by unfold Block.base; dsimp only; omega), rd_congr (setPace_frame.regs_eq rfl)]

theorem railTarget_moveRail : railTarget (moveRail m avs s t) m n = railTarget s m n := by
  refine railTarget_congr m (rd_moveRail_of_lt ?_) (rd_moveRail_of_lt ?_) (rd_moveRail_of_lt ?_)
  · unfold R.TRACT_PACE_CTL; omega
  · unfold R.TRACT_PACE_LIMIT; omega
  · unfold R.TRACT_PACE_FIXED; omega

end

/-- The rail of tract `n` was written to `target`: the frame has left, and its answer has left the governor held or stopped. -/
structure RailWritten (avs : List (Nat × Ack)) (n target : Nat) (t : State) : Prop where
  sent : Output.avs n (avsFrame n (some target)) ∈ t.wire
  held : ackTaken (ackOf avs n) = true → (pace t n).st = .fallow ∧ (pace t n).setpoint = target
  stopped : ackTaken (ackOf avs n) = false → (pace t n).st = .stopped

theorem railWritten_moveRail {m : Mode} {avs : List (Nat × Ack)} {s : State} {n : Nat} (h : (pace s n).st ≠ .stopped) :
    RailWritten avs n (railTarget s m n) (moveRail m avs s n) := by
  unfold moveRail
  rw [if_neg h]
  generalize hu : setPace s n { pace s n with st := .fallow, raising := none, low := 0 } = u
  have hst : (pace u n).st = .fallow := by rw [← hu, pace_setPace_same]
  refine ⟨by rw [writeRail_wire]; simp, fun ha => ?_, fun ha => ?_⟩
  · obtain ⟨p, hp, hset, he⟩ := writeRail_acked u n (railTarget s m n) _ ha
    rw [he, pace_setPace_same]
    exact ⟨hp.trans hst, hset⟩
  · rw [writeRail_failed _ _ _ _ ha, pace_avsFail_same]

theorem RailWritten.moveRail {m : Mode} {avs : List (Nat × Ack)} {s : State} {n t target : Nat} (h : RailWritten avs n target s) (hn : n ≠ t) :
    RailWritten avs n target (moveRail m avs s t) := by
  obtain ⟨sent, held, stopped⟩ := h
  refine ⟨wire_moveRail_of_mem sent, ?_, ?_⟩ <;> rwa [pace_moveRail_ne hn]

theorem RailWritten.foldl {m : Mode} {avs : List (Nat × Ack)} {n target : Nat} {l : List Nat} {s : State} (hn : n ∉ l)
    (h : RailWritten avs n target s) : RailWritten avs n target (l.foldl (Machine.moveRail m avs) s) := by
  induction l generalizing s with
  | nil => exact h
  | cons t l ih =>
    obtain ⟨hne, hl⟩ := not_or.mp (mt List.mem_cons.mpr hn)
    exact ih hl (h.moveRail hne)

/-- Each tract of the list that is not in STOPPED has its rail written to the target of the state before the first. -/
theorem railWritten_foldl {m : Mode} {avs : List (Nat × Ack)} {n : Nat} {l : List Nat} {s : State} (hl : l.Nodup) (hn : n ∈ l)
    (hst : (pace s n).st ≠ .stopped) : RailWritten avs n (railTarget s m n) (l.foldl (moveRail m avs) s) := by
  induction l generalizing s with
  | nil => exact absurd hn List.not_mem_nil
  | cons t l ih =>
    obtain ⟨ht, hl⟩ := List.nodup_cons.mp hl
    by_cases hnt : n = t
    · subst hnt
      exact RailWritten.foldl (l := l) ht (railWritten_moveRail hst)
    · have := ih (s := moveRail m avs s t) hl (List.mem_of_ne_of_mem hnt hn) (by rwa [pace_moveRail_ne hnt])
      rwa [railTarget_moveRail] at this

theorem nodup_tracts (s : State) : (tracts s).Nodup := List.nodup_range.filter _

theorem railsMove_writes {m : Mode} {avs : List (Nat × Ack)} {s : State} {n : Nat} (hn : n ∈ tracts s) (hst : (pace s n).st ≠ .stopped) :
    RailWritten avs n (railTarget s m n) (railsMove m avs s) := by
  rw [railsMove_eq]
  exact railWritten_foldl (s := { s with mode := { s.mode with rails := true } }) (nodup_tracts s) hn hst

/-! ### A request that commits -/

theorem fallowChange_request (m : Mode) (s : State) : (fallowChange m s).mode.request = s.mode.request := by
  unfold fallowChange
  split
  · rfl
  · obtain ⟨_, _, _, h⟩ := leaveFallow_mode s
    rw [h]

theorem keeperWakeCheck_mode_kept (s : State) : (keeperWakeCheck s).mode.mode = s.mode.mode := by
  unfold keeperWakeCheck wakeCondition
  split
  · split <;> rfl
  · rfl

/-- An entry's effects leave the mode control alone; only in FALLOW may a wake condition start a request. -/
theorem modeEffects_mode {m : Mode} (hm : m ≠ .fallow) (old s : State) : (modeEffects old m s).mode = s.mode := by
  cases m with
  | hold => exact (stopKinds_frame.mode_eq rfl).trans (abortDrovers_frame.mode_eq rfl)
  | service => exact retakeHeld_frame.mode_eq rfl
  | fallow => exact absurd rfl hm
  | test =>
    exact (emptySlots_frame.mode_eq rfl).trans <| (discardIdentity_frame.mode_eq rfl).trans <| (stopKinds_frame.mode_eq rfl).trans <|
      (abortDrovers_frame.mode_eq rfl).trans (purgeRegister_frame.mode_eq rfl)
  | provision =>
    refine (enterListen_frame.mode_eq rfl).trans ?_
    have h : (purgeOwn (abortDrovers .silent s)).mode = s.mode := (purgeOwn_frame.mode_eq rfl).trans (abortDrovers_frame.mode_eq rfl)
    split
    · exact (flushQueues_frame.mode_eq rfl).trans h
    · exact h
  | dormant | loading | resetting => rfl

theorem modeEffects_mode_kept (m : Mode) (old s : State) : (modeEffects old m s).mode.mode = s.mode.mode := by
  by_cases hm : m = .fallow
  · subst hm
    exact (keeperWakeCheck_mode_kept _).trans (by rw [retakeHeld_frame.mode_eq rfl])
  · rw [modeEffects_mode hm]

theorem modeEffects_keys {m : Mode} (ht : m ≠ .test) (hp : m ≠ .provision) (old s : State) : (modeEffects old m s).keys = s.keys := by
  cases m with
  | hold => exact (stopKinds_frame.keys_eq rfl).trans (abortDrovers_frame.keys_eq rfl)
  | service => exact retakeHeld_frame.keys_eq rfl
  | fallow => exact (keeperWakeCheck_frame.keys_eq rfl).trans (retakeHeld_frame.keys_eq rfl)
  | test => exact absurd rfl ht
  | provision => exact absurd rfl hp
  | dormant | loading | resetting => rfl

theorem stopKinds_ids (s : State) : (stopKinds s).table.map (·.id) = s.table.map (·.id) := by
  unfold stopKinds
  dsimp only
  rw [List.map_map, withdrawBursts_frame.table_eq rfl]
  refine List.map_congr_left fun e _ => ?_
  dsimp only [Function.comp]
  split <;> rfl

theorem modeEffects_hold_ids (old s : State) : (modeEffects old .hold s).table.map (·.id) = s.table.map (·.id) :=
  (stopKinds_ids _).trans (by rw [abortDrovers_frame.table_eq rfl])

/-- `m` is the mode, and what its entry keeps is as it was before; `u` is the state whose request has ended. -/
structure Committed (m : Mode) (u t : State) : Prop where
  mode_eq : t.mode.mode = m
  keeper_eq : t.keeper = u.keeper
  fuses_eq : t.fuses = u.fuses
  flash_eq : t.flash = u.flash
  request_eq : m ≠ .fallow → t.mode.request = u.mode.request
  keys_eq : m ≠ .test → m ≠ .provision → t.keys = u.keys
  ids_eq : m = .hold → t.table.map (·.id) = u.table.map (·.id)

theorem commitMode_committed (m : Mode) (u : State) : Committed m u (commitMode m u) := by
  have hframe := commitMode_frame (m := m) (s := u)
  refine ⟨?_, hframe.keeper_eq rfl, hframe.fuses_eq rfl, hframe.flash_eq rfl, fun hm => ?_, fun ht hp => ?_, fun hm => ?_⟩
    <;> unfold commitMode <;> dsimp only
  · split
    · rfl
    · rw [modeEffects_mode_kept]
      rfl
  · split
    · rfl
    · rw [modeEffects_mode hm]
      exact fallowChange_request m (noteLeft u)
  · split
    · rfl
    · rw [modeEffects_keys ht hp, setMode_keys, fallowChange_frame.keys_eq rfl, noteLeft_keys]
  · subst hm
    rw [if_neg (by decide), modeEffects_hold_ids, setMode_table, fallowChange_frame.table_eq rfl, noteLeft_table]

theorem Committed.of_frame {m : Mode} {s u t : State} (h : Committed m (endRequest u) t) (hu : Frame [.wire, .mode, .intc, .paces, .regs] s u) :
    t.mode.mode = m ∧ t.keeper = s.keeper ∧ t.fuses = s.fuses ∧ t.flash = s.flash ∧ (m ≠ .fallow → t.mode.request = none) ∧
      (m ≠ .test → m ≠ .provision → t.keys = s.keys) ∧ (m = .hold → t.table.map (·.id) = s.table.map (·.id)) := by
  obtain ⟨hmode, hkeeper, hfuses, hflash, hrequest, hkeys, hids⟩ := h
  exact ⟨hmode, hkeeper.trans (hu.keeper_eq rfl), hfuses.trans (hu.fuses_eq rfl), hflash.trans (hu.flash_eq rfl), hrequest,
    fun ht hp => (hkeys ht hp).trans (hu.keys_eq rfl), fun hm => (hids hm).trans (by rw [show (endRequest u).table = s.table from hu.table_eq rfl])⟩

theorem Committed.congr {m : Mode} {u t t' : State} (h : Committed m u t) (ht : Frame [.intc] t t') : Committed m u t' := by
  obtain ⟨hmode, hkeeper, hfuses, hflash, hrequest, hkeys, hids⟩ := h
  refine ⟨?_, (ht.keeper_eq rfl).trans hkeeper, (ht.fuses_eq rfl).trans hfuses, (ht.flash_eq rfl).trans hflash, ?_, ?_, ?_⟩
  · rw [ht.mode_eq rfl, hmode]
  · rwa [ht.mode_eq rfl]
  · rwa [ht.keys_eq rfl]
  · rwa [ht.table_eq rfl]

/-- The state whose rails have been written for the change of mode to `m`. -/
def railsWritten (m : Mode) (avs : List (Nat × Ack)) (s : State) : State := if s.mode.rails = true then s else railsMove m avs s

theorem railsWritten_frame {m : Mode} {avs : List (Nat × Ack)} {s : State} :
    Frame [.wire, .mode, .intc, .paces, .regs] s (railsWritten m avs s) := by
  unfold railsWritten
  split
  · exact .refl
  · exact railsMove_frame

theorem railsWritten_mode (m : Mode) (avs : List (Nat × Ack)) (s : State) : (railsWritten m avs s).mode = { s.mode with rails := true } := by
  unfold railsWritten
  split
  next h => rw [← h]
  · exact railsMove_mode m avs s

theorem modeCommitEff_waits {m : Mode} {avs : List (Nat × Ack)} {s : State} (h : s.mode.request = some m) (hmet : s.mode.met = false)
    (hr : refusal s m = 0) (hmoves : movesRails s m = true) (hready : railsReady (railsWritten m avs s) = false) :
    modeCommitEff avs s = railsWritten m avs s := by
  rw [modeCommitEff_allowed h hmet hr, if_pos hmoves]
  exact if_neg (by simpa [railsWritten] using hready)

theorem modeCommitEff_commits {m : Mode} {avs : List (Nat × Ack)} {s : State} (h : s.mode.request = some m) (hmet : s.mode.met = false)
    (hr : refusal s m = 0) (hready : movesRails s m = true → railsReady (railsWritten m avs s) = true) :
    ∃ u, Frame [.wire, .mode, .intc, .paces, .regs] s u ∧ modeCommitEff avs s = commitMode m (endRequest u) := by
  rw [modeCommitEff_allowed h hmet hr]
  split
  next hmoves => exact ⟨railsWritten m avs s, railsWritten_frame, if_pos (hready hmoves)⟩
  · exact ⟨s, .refl, rfl⟩

/-- A request for DORMANT commits at once, and only the mode control changes. -/
theorem modeCommitEff_dormant {avs : List (Nat × Ack)} {s : State} (h : s.mode.request = some .dormant) (hmet : s.mode.met = false) :
    modeCommitEff avs s = setMode .dormant (noteLeft (endRequest s)) := by
  have hmoves : movesRails s .dormant = false := by simp [movesRails]
  rw [modeCommitEff_allowed h hmet rfl, if_neg (by simp [hmoves])]
  rfl

end Sys2Proof.Machine

open Sys2Proof Sys2Proof.Machine

/-- Settles O14: the commit is one of its cases, and each leaves the state the lemmas above describe. -/
theorem modeCommits : Obligations.ModeCommits := by
  unfold Obligations.ModeCommits
  intro s avs hrun
  dsimp only
  obtain ⟨t, ht, hframe⟩ := viaCore_frame hrun (modeCommitEff avs)
  refine ⟨t, ht, fun hnone => ?_, fun m hreq hmet => ?_, fun m hreq hmet hr => ?_, fun m hreq hmet hr hmoves hready => ?_,
    fun m hreq hmet hr hready => ?_, fun hreq hmet => ?_⟩
  · rw [modeCommitEff_none hnone] at hframe
    exact hframe.intcOnly
  · rw [modeCommitEff_met hreq hmet] at hframe
    obtain ⟨honly, hmode, hended, hfree, hreason⟩ := requestRefused_of_frame hframe
    exact ⟨honly, hmode, hended, hfree, hreason⟩
  · rw [modeCommitEff_refused hreq hmet hr] at hframe
    obtain ⟨honly, hmode, hended, hfree, hreason⟩ := requestRefused_of_frame hframe
    exact ⟨honly, hmode, hended, hfree, hreason⟩
  · rw [modeCommitEff_waits hreq hmet hr hmoves hready] at hframe
    refine ⟨hframe.intcOnly, (hframe.mode_eq rfl).trans (railsWritten_mode m avs s), fun hrails n hn hst => ?_⟩
    obtain ⟨hsent, hheld, hstopped⟩ := railsMove_writes (m := m) (avs := avs) hn hst
    rw [show railsWritten m avs s = railsMove m avs s from if_neg (by simp [hrails])] at hframe
    rw [hframe.wire_eq rfl, pace, hframe.paces_eq rfl, ← pace]
    exact ⟨hsent, hheld, hstopped⟩
  · obtain ⟨u, hu, he⟩ := modeCommitEff_commits hreq hmet hr hready
    rw [he] at hframe
    exact ((commitMode_committed m _).congr hframe).of_frame hu
  · rw [modeCommitEff_dormant hreq hmet] at hframe
    have hup := running_coreUp hrun
    have hmode : t.mode.mode = .dormant := by rw [hframe.mode_eq rfl]; rfl
    have hpower : t.power = s.power := hframe.power_eq rfl
    exact ⟨by simp [running, hmode], by simp [falling, hmode, hpower, hup], hframe.regs_eq rfl, hframe.wire_eq rfl⟩

end

section
/-!
Storing a committed image (O57): the octets of a directory record, the directory in force after one is written, the steps of R802 and their
failure, and the swap of a ROLLBACK (15 R760-R762, R802, R803, R806).
-/
namespace Sys2Proof.Machine

/-! ### Octets of a string made of parts -/

theorem beNat_append_singleton (b : Bytes) (x : Byte) : beNat (b ++ [x]) = beNat b * 256 + x.toNat := by
  unfold beNat
  rw [List.foldl_append]
  rfl

theorem beNat_beBytes (n v : Nat) : beNat (beBytes n v) = v % 256 ^ n := by
  induction n generalizing v with
  | zero => simp [beBytes, beNat, Nat.mod_one]
  | succ n ih =>
    have hx : (BitVec.ofNat 8 v).toNat = v % 256 := BitVec.toNat_ofNat ..
    rw [beBytes, beNat_append_singleton, ih, hx, pow_succ', Nat.mod_mul]
    omega

theorem beNat_lt (b : Bytes) : beNat b < 256 ^ b.length := by
  induction b using List.reverseRecOn with
  | nil => decide
  | append_singleton b x ih =>
    rw [beNat_append_singleton, List.length_append, List.length_singleton, pow_succ]
    have := x.isLt
    omega

theorem beAt_lt (b : Bytes) (i n : Nat) : beAt b i n < 256 ^ n := by
  have hlen : (slice b i n).length = n := by
    unfold slice
    dsimp only
    rw [List.length_append, List.length_replicate, List.length_take]
    omega
  have := beNat_lt (slice b i n)
  rwa [hlen] at this

theorem slice_head {a b : Bytes} {n : Nat} (h : a.length = n) : slice (a ++ b) 0 n = a := by
  subst h
  simp [slice]

theorem beAt_head {a b : Bytes} {n : Nat} (h : a.length = n) : beAt (a ++ b) 0 n = beNat a := by rw [beAt, slice_head h]

theorem beAt_skip {a b : Bytes} {i n : Nat} (h : a.length ≤ i) : beAt (a ++ b) i n = beAt b (i - a.length) n := by
  unfold beAt slice
  rw [List.drop_append, List.drop_eq_nil_of_le h, List.nil_append]

/-! ### A directory record (15 R760) -/

/-- The octets of a directory record that its check covers. -/
def dirHead (seq area prevValid cur prev : Nat) : Bytes :=
  beBytes 4 0x444C4244 ++ beBytes 4 seq ++ [BitVec.ofNat 8 area, BitVec.ofNat 8 prevValid, 0, 0] ++ beBytes 4 cur ++ beBytes 4 prev ++
    List.replicate 8 0

theorem dirBytes_eq (seq area prevValid cur prev : Nat) :
    dirBytes seq area prevValid cur prev =
      dirHead seq area prevValid cur prev ++ beBytes 4 (crc32c (dirHead seq area prevValid cur prev)).toNat := rfl

/-- The sector of a directory copy that holds a record. -/
def dirSector (seq area prevValid cur prev : Nat) : Bytes :=
  dirBytes seq area prevValid cur prev ++ List.replicate (4096 - (dirBytes seq area prevValid cur prev).length) 0xFF

theorem putDir_eq (k seq area prevValid cur prev : Nat) (f : Flash) :
    putDir k (dirBytes seq area prevValid cur prev) f = { f with dirs := put [] f.dirs k (dirSector seq area prevValid cur prev) } := rfl

section
variable (seq area prevValid cur prev : Nat)

theorem length_dirHead : (dirHead seq area prevValid cur prev).length = 28 := by simp [dirHead, length_beBytes]

/-- The sector as its fields one after the other. -/
theorem dirSector_fields : ∃ tail : Bytes, dirSector seq area prevValid cur prev =
    beBytes 4 0x444C4244 ++ (beBytes 4 seq ++ ([BitVec.ofNat 8 area] ++ ([BitVec.ofNat 8 prevValid] ++ ([0, 0] ++
      (beBytes 4 cur ++ (beBytes 4 prev ++ (List.replicate 8 0 ++
        (beBytes 4 (crc32c (dirHead seq area prevValid cur prev)).toNat ++ tail)))))))) := by
  refine ⟨List.replicate (4096 - (dirBytes seq area prevValid cur prev).length) 0xFF, ?_⟩
  unfold dirSector
  rw [dirBytes_eq]
  generalize beBytes 4 (crc32c (dirHead seq area prevValid cur prev)).toNat = check
  simp only [dirHead, List.append_assoc, List.cons_append, List.nil_append]

theorem dirSector_values :
    beAt (dirSector seq area prevValid cur prev) 0 4 = 0x444C4244 ∧ beAt (dirSector seq area prevValid cur prev) 4 4 = seq % 2 ^ 32 ∧
      beAt (dirSector seq area prevValid cur prev) 8 1 = area % 256 ∧ beAt (dirSector seq area prevValid cur prev) 9 1 = prevValid % 256 ∧
      beAt (dirSector seq area prevValid cur prev) 12 4 = cur % 2 ^ 32 ∧ beAt (dirSector seq area prevValid cur prev) 16 4 = prev % 2 ^ 32 ∧
      beAt (dirSector seq area prevValid cur prev) 28 4 = (crc32c (dirHead seq area prevValid cur prev)).toNat := by
  obtain ⟨tail, h⟩ := dirSector_fields seq area prevValid cur prev
  have hcheck := (crc32c (dirHead seq area prevValid cur prev)).isLt
  have hbyte (v : Nat) : beNat [BitVec.ofNat 8 v] = v % 256 := by simp [beNat]
  rw [h]
  refine ⟨?_, ?_, ?_, ?_, ?_, ?_, ?_⟩ <;>
    simp only [beAt_skip, beAt_head, length_beBytes, List.length_cons, List.length_nil, List.length_replicate, Nat.reduceAdd, Nat.reduceSub,
      Nat.reduceLeDiff, beNat_beBytes, hbyte, Nat.reducePow, Nat.reduceMod]
  exact Nat.mod_eq_of_lt hcheck

end

/-- The directory in force holds a record with these fields. -/
structure DirectoryShows (s : State) (area prevValid cur prev : Nat) : Prop where
  area_eq : dirArea s = area % 256 % 2
  prevValid_eq : dirPrevValid s = (prevValid % 256 == 1)
  cur_eq : dirCur s = cur % 2 ^ 32
  prev_eq : dirPrev s = prev % 2 ^ 32

theorem directoryShows_of_eq {s : State} {k seq area prevValid cur prev : Nat}
    (h : directory s = some (k, dirSector seq area prevValid cur prev)) : DirectoryShows s area prevValid cur prev := by
  obtain ⟨-, -, harea, hvalid, hcur, hprev, -⟩ := dirSector_values seq area prevValid cur prev
  constructor
  · simp only [dirArea, h, Option.map_some, Option.getD_some, harea]
  · simp only [dirPrevValid, h, Option.map_some, Option.getD_some, hvalid]
  · simp only [dirCur, h, Option.map_some, Option.getD_some, hcur]
  · simp only [dirPrev, h, Option.map_some, Option.getD_some, hprev]

/-! ### The directory in force after one is written (15 R761) -/

theorem dirCopy_of_look {s : State} {k seq area prevValid cur prev : Nat} (h : look [] s.flash.dirs k = dirSector seq area prevValid cur prev) :
    dirCopy s k = some (dirSector seq area prevValid cur prev) := by
  obtain ⟨hmagic, -, -, -, -, -, hcheck⟩ := dirSector_values seq area prevValid cur prev
  have hhead : slice (dirSector seq area prevValid cur prev) 0 28 = dirHead seq area prevValid cur prev := by
    rw [dirSector, dirBytes_eq, List.append_assoc, slice_head (length_dirHead ..)]
  unfold dirCopy
  dsimp only
  rw [h, if_pos ⟨hmagic, by rw [hcheck, hhead]⟩]

theorem dirCopy_congr {s t : State} {k : Nat} (h : look [] t.flash.dirs k = look [] s.flash.dirs k) : dirCopy t k = dirCopy s k := by
  unfold dirCopy
  rw [h]

theorem directory_congr {s t : State} (hok : t.flash.ok = s.flash.ok) (hdirs : t.flash.dirs = s.flash.dirs) : directory t = directory s := by
  unfold directory
  rw [hok, dirCopy_congr (congrArg (look [] · 0) hdirs), dirCopy_congr (congrArg (look [] · 1) hdirs)]

theorem directory_some {s : State} {k : Nat} {d : Bytes} (h : directory s = some (k, d)) :
    s.flash.ok = true ∧ dirCopy s k = some d ∧ (k = 0 ∨ k = 1) := by
  unfold directory at h
  split at h
  · exact nomatch h
  next hok =>
    refine ⟨by simpa using hok, ?_⟩
    split at h
    next h0 h1 =>
      split at h <;> obtain ⟨rfl, rfl⟩ := Prod.mk.inj (Option.some.inj h)
      · exact ⟨h0, .inl rfl⟩
      · exact ⟨h1, .inr rfl⟩
    next h0 _ =>
      obtain ⟨rfl, rfl⟩ := Prod.mk.inj (Option.some.inj h)
      exact ⟨h0, .inl rfl⟩
    next h1 =>
      obtain ⟨rfl, rfl⟩ := Prod.mk.inj (Option.some.inj h)
      exact ⟨h1, .inr rfl⟩
    · exact nomatch h

/-- Without a directory in force on a flash that is there, neither copy is valid. -/
theorem dirCopy_of_directory_none {s : State} (hok : s.flash.ok = true) (h : directory s = none) : dirCopy s 0 = none ∧ dirCopy s 1 = none := by
  unfold directory at h
  rw [hok] at h
  cases h0 : dirCopy s 0 <;> cases h1 : dirCopy s 1 <;> simp only [h0, h1, Bool.not_true, Bool.false_eq_true, if_false] at h
  · exact ⟨rfl, rfl⟩
  · exact nomatch h
  · exact nomatch h
  · split at h <;> exact nomatch h

/-- A record with the next SEQ in the other copy is in force. -/
theorem directory_of_next {s t : State} {k : Nat} {d : Bytes} {area prevValid cur prev : Nat} (h : directory s = some (k, d))
    (hok : t.flash.ok = s.flash.ok)
    (hdirs : t.flash.dirs = put [] s.flash.dirs (1 - k) (dirSector ((beAt d 4 4 + 1) % 2 ^ 32) area prevValid cur prev)) :
    directory t = some (1 - k, dirSector ((beAt d 4 4 + 1) % 2 ^ 32) area prevValid cur prev) := by
  obtain ⟨hsok, hcopy, hk⟩ := directory_some h
  have hold : dirCopy t k = some d := (dirCopy_congr (by rw [hdirs, look_put_ne _ _ _ (by omega)])).trans hcopy
  have hnew := dirCopy_of_look (s := t) (by rw [hdirs, look_put_same] : look [] t.flash.dirs (1 - k) = _)
  obtain ⟨-, hseq, -⟩ := dirSector_values ((beAt d 4 4 + 1) % 2 ^ 32) area prevValid cur prev
  have hlt : beAt d 4 4 < 2 ^ 32 := beAt_lt d 4 4
  unfold directory
  rw [hok, hsok]
  rcases hk with rfl | rfl
  · rw [hold, hnew]
    have : seqNewer (beAt d 4 4) (beAt (dirSector ((beAt d 4 4 + 1) % 2 ^ 32) area prevValid cur prev) 4 4) = false := by
      rw [hseq, seqNewer, decide_eq_false_iff_not]
      omega
    simp only [this, Bool.not_true, Bool.false_eq_true, if_false]
  · rw [hold, hnew]
    have : seqNewer (beAt (dirSector ((beAt d 4 4 + 1) % 2 ^ 32) area prevValid cur prev) 4 4) (beAt d 4 4) = true := by
      rw [hseq, seqNewer, decide_eq_true_eq]
      omega
    simp only [this, Bool.not_true, Bool.false_eq_true, if_false, if_true]

/-- The first record of a flash without a directory is in force. -/
theorem directory_of_first {s t : State} {seq area prevValid cur prev : Nat} (hsok : s.flash.ok = true) (h : directory s = none)
    (hok : t.flash.ok = s.flash.ok) (hdirs : t.flash.dirs = put [] s.flash.dirs 0 (dirSector seq area prevValid cur prev)) :
    directory t = some (0, dirSector seq area prevValid cur prev) := by
  obtain ⟨-, hother⟩ := dirCopy_of_directory_none hsok h
  have hold : dirCopy t 1 = none := (dirCopy_congr (by rw [hdirs, look_put_ne _ _ _ (by decide)])).trans hother
  have hnew := dirCopy_of_look (s := t) (by rw [hdirs, look_put_same] : look [] t.flash.dirs 0 = _)
  unfold directory
  rw [hok, hsok, hold, hnew]
  rfl

theorem dirArea_le_one (s : State) : dirArea s ≤ 1 := by
  unfold dirArea
  cases directory s with
  | none => exact Nat.le_refl 1
  | some d => exact Nat.le_of_lt_succ (Nat.mod_lt _ (by decide))

theorem dirCur_lt (s : State) : dirCur s < 2 ^ 32 := by
  unfold dirCur
  cases directory s with
  | none => decide
  | some d => exact beAt_lt _ 12 4

theorem dirPrev_lt (s : State) : dirPrev s < 2 ^ 32 := by
  unfold dirPrev
  cases directory s with
  | none => decide
  | some d => exact beAt_lt _ 16 4

theorem directory_isSome_iff {s : State} : (directory s).isSome = true ↔ ∃ k d, directory s = some (k, d) :=
  Option.isSome_iff_exists.trans ⟨fun ⟨(k, d), h⟩ => ⟨k, d, h⟩, fun ⟨k, d, h⟩ => ⟨(k, d), h⟩⟩

section
variable {s : State} {k : Nat} {d : Bytes}

theorem dirArea_of (h : directory s = some (k, d)) : dirArea s = beAt d 8 1 % 2 := by rw [dirArea, h]; rfl

theorem dirCur_of (h : directory s = some (k, d)) : dirCur s = beAt d 12 4 := by rw [dirCur, h]; rfl

theorem dirPrev_of (h : directory s = some (k, d)) : dirPrev s = beAt d 16 4 := by rw [dirPrev, h]; rfl

end

/-! ### What the records of R802 and R806 show -/

theorem stepOne_areas (s : State) (f : Flash) : (stepOne s f).areas = f.areas ∧ (stepOne s f).ok = f.ok := by
  unfold stepOne
  split <;> exact ⟨rfl, rfl⟩

/-- After step 1 CURRENT is what it was, and there is no PREVIOUS. -/
theorem stepOne_shows {s t : State} (hf : t.flash = stepOne s s.flash) :
    dirArea t = dirArea s ∧ dirCur t = dirCur s ∧ dirPrevValid t = false := by
  unfold stepOne at hf
  cases hd : directory s with
  | none =>
    rw [hd] at hf
    have hnone : directory t = none := (directory_congr (by rw [hf]) (by rw [hf])).trans hd
    simp only [dirArea, dirCur, dirPrevValid, hnone, hd, Option.map_none, Option.getD_none, and_self]
  | some kd =>
    obtain ⟨k, d⟩ := kd
    simp only [hd, putDir_eq] at hf
    obtain ⟨harea, hvalid, hcur, -⟩ := directoryShows_of_eq (directory_of_next (t := t) hd (by rw [hf]) (by rw [hf]))
    have hlt : beAt d 8 1 < 256 := beAt_lt d 8 1
    have hcurlt := dirCur_lt s
    rw [dirCur_of hd] at hcurlt ⊢
    rw [dirArea_of hd]
    exact ⟨by omega, by omega, hvalid⟩

theorem stepThree_areas (s : State) (f : Flash) : (stepThree s f).areas = f.areas := by
  unfold stepThree
  split <;> rfl

/-- After step 3 the other area is CURRENT with the version committed, and the former CURRENT is PREVIOUS. -/
theorem stepThree_shows {s t : State} (hok : s.flash.ok = true) (hf : t.flash = stepThree s s.flash) :
    dirArea t = 1 - dirArea s ∧ dirCur t = s.loader.version.toNat ∧ dirPrevValid t = (directory s).isSome ∧
      ((directory s).isSome = true → dirPrev t = dirCur s) := by
  have hversion := s.loader.version.isLt
  have harea' := dirArea_le_one s
  have hcurlt := dirCur_lt s
  unfold stepThree at hf
  cases hd : directory s with
  | none =>
    simp only [hd, putDir_eq] at hf
    obtain ⟨harea, hvalid, hcur, -⟩ := directoryShows_of_eq (directory_of_first (t := t) hok hd (by rw [hf]) (by rw [hf]))
    exact ⟨by omega, by omega, hvalid, nofun⟩
  | some kd =>
    obtain ⟨k, d⟩ := kd
    simp only [hd, putDir_eq] at hf
    obtain ⟨harea, hvalid, hcur, hprev⟩ := directoryShows_of_eq (directory_of_next (t := t) hd (by rw [hf]) (by rw [hf]))
    rw [dirCur_of hd] at hcurlt ⊢
    exact ⟨by omega, by omega, hvalid, fun _ => by omega⟩

theorem swapDir_areas (s : State) (f : Flash) : (swapDir s f).areas = f.areas := by
  unfold swapDir
  split <;> rfl

/-- After the swap of a ROLLBACK CURRENT and PREVIOUS have changed places. -/
theorem swapDir_shows {s t : State} (h : (directory s).isSome = true) (hf : t.flash = swapDir s s.flash) :
    dirArea t = 1 - dirArea s ∧ dirCur t = dirPrev s ∧ dirPrev t = dirCur s ∧ dirPrevValid t = true := by
  obtain ⟨k, d, hd⟩ := directory_isSome_iff.1 h
  have harea' := dirArea_le_one s
  have hcurlt := dirCur_lt s
  have hprevlt := dirPrev_lt s
  unfold swapDir at hf
  simp only [hd, putDir_eq] at hf
  obtain ⟨harea, hvalid, hcur, hprev⟩ := directoryShows_of_eq (directory_of_next (t := t) hd (by rw [hf]) (by rw [hf]))
  rw [dirCur_of hd] at hcurlt ⊢
  rw [dirPrev_of hd] at hprevlt ⊢
  exact ⟨by omega, by omega, by omega, hvalid⟩

/-! ### The steps of R802 -/

theorem areas_putArea_same (k : Nat) (b : Bytes) (f : Flash) : look [] (putArea k b f).areas k = b := look_put_same _ f.areas k b

theorem areas_putArea_ne {j k : Nat} (h : j ≠ k) (b : Bytes) (f : Flash) : look [] (putArea k b f).areas j = look [] f.areas j :=
  look_put_ne _ f.areas b h

theorem foldl_storeStep_loader (l : List Nat) (s : State) :
    (l.foldl (fun s _ => storeStep s) s).loader = { s.loader with wrote := s.loader.wrote + l.length } := by
  induction l generalizing s with
  | nil => rfl
  | cons x l ih =>
    rw [List.foldl_cons, ih, List.length_cons, Nat.add_comm l.length, ← Nat.add_assoc]
    rfl

theorem storeSteps_loader (n : Nat) (s : State) : (storeSteps n s).loader = { s.loader with wrote := Nat.max s.loader.wrote n } := by
  have h : s.loader.wrote + (n - s.loader.wrote) = Nat.max s.loader.wrote n := by
    change _ = max s.loader.wrote n
    omega
  rw [storeSteps, foldl_storeStep_loader, List.length_range, h]

theorem storeSteps_none {n : Nat} {s : State} (h : n ≤ s.loader.wrote) : storeSteps n s = s := by
  rw [storeSteps, Nat.sub_eq_zero_of_le h]
  rfl

theorem storeSteps_one {n : Nat} {s : State} (h : n = s.loader.wrote + 1) : storeSteps n s = storeStep s := by
  rw [storeSteps, h, Nat.add_sub_cancel_left]
  rfl

section
variable {s : State} {step : Nat}

theorem flashDoneEff_swap (hst : s.loader.st = .writing) (hop : imageOp s = 3) (ok : Bool) :
    flashDoneEff ok step s = if ok then flashStored (swapDir s s.flash) s else flashFails s.flash s := by
  unfold flashDoneEff
  rw [if_neg (not_not_intro hst), if_pos hop]

theorem flashDoneEff_fails (hst : s.loader.st = .writing) (hop : imageOp s ≠ 3) :
    flashDoneEff false step s = storeFails (storeSteps (step - 1) s) := by
  unfold flashDoneEff
  rw [if_neg (not_not_intro hst), if_neg hop]
  rfl

theorem flashDoneEff_goes_on (hst : s.loader.st = .writing) (hop : imageOp s ≠ 3) (hn : Nat.max s.loader.wrote step < 3) :
    flashDoneEff true step s = storeSteps step s := by
  have hwrote : (storeSteps step s).loader.wrote < 3 := by rwa [storeSteps_loader]
  unfold flashDoneEff
  rw [if_neg (not_not_intro hst), if_neg hop]
  exact if_pos hwrote

theorem flashDoneEff_ends (hst : s.loader.st = .writing) (hop : imageOp s ≠ 3) (hn : 3 ≤ Nat.max s.loader.wrote step) :
    flashDoneEff true step s = event (flashStored (storeSteps step s).flash (storeSteps step s)) R.IMAGE_EVENT 2 := by
  have hwrote : ¬(storeSteps step s).loader.wrote < 3 := by
    rw [storeSteps_loader]
    exact Nat.not_lt.mpr hn
  unfold flashDoneEff
  rw [if_neg (not_not_intro hst), if_neg hop]
  exact if_neg hwrote

end

theorem flashFails_recorded {s u : State} (h : u.regs = s.regs) (f : Flash) : recorded s (flashFails f u) .image 21 :=
  recorded_fault_after (u := { setLoader .idle u with flash := f, loader := { (setLoader .idle u).loader with stale := true, source := 2 } })
    (by decide) (rd_congr h _) rfl

theorem flashFails_loader (f : Flash) (s : State) : (flashFails f s).loader = { s.loader with st := .idle, stale := true, source := 2 } :=
  fault_frame.loader_eq rfl

theorem flashStored_loader (f : Flash) (s : State) :
    (flashStored f s).loader = { s.loader with st := .idle, stale := false, source := 1 } := rfl

theorem flashFails_flash (f : Flash) (s : State) : (flashFails f s).flash = f := fault_frame.flash_eq rfl

/-! ### FLASH_DONE -/

section
variable {s : State} (hrun : running s = true) (hst : s.loader.st = .writing)
include hrun hst

theorem flashDone_goes_on (hop : imageOp s ≠ 3) {step : Nat} (hn : Nat.max s.loader.wrote step < 3) :
    ∃ t, exec (.flashDone true step) s = .next t ∧
      t = { s with flash := t.flash, loader := { s.loader with wrote := Nat.max s.loader.wrote step }, intc := t.intc } := by
  obtain ⟨t, ht, hframe⟩ := viaCore_frame hrun (flashDoneEff true step)
  refine ⟨t, ht, ?_⟩
  rw [flashDoneEff_goes_on hst hop hn] at hframe
  have hloader : t.loader = { s.loader with wrote := Nat.max s.loader.wrote step } := (hframe.loader_eq rfl).trans (storeSteps_loader step s)
  have hall : Frame [.flash, .loader, .intc] s t := (hframe.weaken rfl : Frame [.flash, .loader, .intc] _ t).andThen rfl
    (storeSteps_frame.weaken rfl)
  rw [← hloader]
  exact hall.eq_of fun f => by cases f <;> rfl

theorem flashDone_ends (hop : imageOp s ≠ 3) {step : Nat} (hn : 3 ≤ Nat.max s.loader.wrote step) :
    ∃ t, exec (.flashDone true step) s = .next t ∧ t.flash = (storeSteps step s).flash ∧
      t.loader = { s.loader with st := .idle, stale := false, source := 1, wrote := Nat.max s.loader.wrote step } ∧
      rbit t R.IMAGE_EVENT 2 = true := by
  obtain ⟨t, ht, hframe⟩ := viaCore_frame hrun (flashDoneEff true step)
  rw [flashDoneEff_ends hst hop hn] at hframe
  refine ⟨t, ht, (hframe.flash_eq rfl).trans (event_frame.flash_eq rfl), ?_, ?_⟩
  · rw [hframe.loader_eq rfl, event_frame.loader_eq rfl, flashStored_loader, storeSteps_loader]
  · rw [rbit_congr (hframe.regs_eq rfl), rbit_event_self _ (by decide)]

theorem flashDone_fails (hop : imageOp s ≠ 3) (step : Nat) :
    ∃ t, exec (.flashDone false step) s = .next t ∧ t.flash = (storeFails (storeSteps (step - 1) s)).flash ∧ recorded s t .image 21 ∧
      t.loader = { s.loader with st := .idle, stale := true, source := 2, wrote := Nat.max s.loader.wrote (step - 1) } := by
  obtain ⟨t, ht, hframe⟩ := viaCore_frame hrun (flashDoneEff false step)
  rw [flashDoneEff_fails hst hop] at hframe
  refine ⟨t, ht, hframe.flash_eq rfl, recorded_congr (hframe.regs_eq rfl) (flashFails_recorded (storeSteps_frame.regs_eq rfl) _), ?_⟩
  rw [hframe.loader_eq rfl, storeFails, flashFails_loader, storeSteps_loader]

theorem flashDone_swaps (hop : imageOp s = 3) (step : Nat) :
    ∃ t, exec (.flashDone true step) s = .next t ∧ t.loader = { s.loader with st := .idle, stale := false, source := 1 } ∧
      t.flash.areas = s.flash.areas ∧ t.regs = s.regs ∧
      ((directory s).isSome = true → dirArea t = 1 - dirArea s ∧ dirCur t = dirPrev s ∧ dirPrev t = dirCur s ∧ dirPrevValid t = true) := by
  obtain ⟨t, ht, hframe⟩ := viaCore_frame hrun (flashDoneEff true step)
  rw [flashDoneEff_swap hst hop, if_pos rfl] at hframe
  have hflash : t.flash = swapDir s s.flash := hframe.flash_eq rfl
  exact ⟨t, ht, hframe.loader_eq rfl, by rw [hflash, swapDir_areas], (hframe.regs_eq rfl).trans (flashStored_frame.regs_eq rfl),
    fun h => swapDir_shows h hflash⟩

theorem flashDone_swap_fails (hop : imageOp s = 3) (step : Nat) :
    ∃ t, exec (.flashDone false step) s = .next t ∧ t.flash = s.flash ∧ recorded s t .image 21 ∧
      t.loader = { s.loader with st := .idle, stale := true, source := 2 } := by
  obtain ⟨t, ht, hframe⟩ := viaCore_frame hrun (flashDoneEff false step)
  rw [flashDoneEff_swap hst hop, if_neg Bool.false_ne_true] at hframe
  exact ⟨t, ht, (hframe.flash_eq rfl).trans (flashFails_flash ..), recorded_congr (hframe.regs_eq rfl) (flashFails_recorded rfl _),
    (hframe.loader_eq rfl).trans (flashFails_loader ..)⟩

theorem flashDone_step_one (hop : imageOp s ≠ 3) (hw : s.loader.wrote = 0) :
    ∃ t, exec (.flashDone true 1) s = .next t ∧ t.flash.areas = s.flash.areas ∧ dirArea t = dirArea s ∧ dirCur t = dirCur s ∧
      dirPrevValid t = false := by
  obtain ⟨t, ht, hframe⟩ := viaCore_frame hrun (flashDoneEff true 1)
  rw [flashDoneEff_goes_on hst hop (by rw [hw]; decide), storeSteps_one (by rw [hw])] at hframe
  have hflash : t.flash = stepOne s s.flash := (hframe.flash_eq rfl).trans (by simp only [storeStep, hw])
  exact ⟨t, ht, by rw [hflash, (stepOne_areas s _).1], stepOne_shows hflash⟩

theorem flashDone_step_two (hop : imageOp s ≠ 3) (hw : s.loader.wrote = 1) :
    ∃ t, exec (.flashDone true 2) s = .next t ∧ t.flash.dirs = s.flash.dirs ∧ look [] t.flash.areas (1 - dirArea s) = s.loader.staged ∧
      look [] t.flash.areas (dirArea s) = look [] s.flash.areas (dirArea s) := by
  obtain ⟨t, ht, hframe⟩ := viaCore_frame hrun (flashDoneEff true 2)
  rw [flashDoneEff_goes_on hst hop (by rw [hw]; decide), storeSteps_one (by rw [hw])] at hframe
  have hflash : t.flash = putArea (1 - dirArea s) s.loader.staged s.flash := (hframe.flash_eq rfl).trans (by simp only [storeStep, hw])
  have hle := dirArea_le_one s
  refine ⟨t, ht, ?_⟩
  rw [hflash]
  exact ⟨rfl, areas_putArea_same .., areas_putArea_ne (by omega) ..⟩

theorem flashDone_step_two_fails (hop : imageOp s ≠ 3) (hw : s.loader.wrote = 1) :
    ∃ t, exec (.flashDone false 2) s = .next t ∧ look [] t.flash.areas (1 - dirArea s) = [] := by
  obtain ⟨t, ht, hflash, -, -⟩ := flashDone_fails hrun hst hop 2
  refine ⟨t, ht, ?_⟩
  rw [hflash, storeSteps_none (by rw [hw]), storeFails, flashFails_flash, if_pos hw, areas_putArea_same]

theorem flashDone_step_three (hop : imageOp s ≠ 3) (hok : s.flash.ok = true) (hw : s.loader.wrote = 2) :
    ∃ t, exec (.flashDone true 3) s = .next t ∧ t.flash.areas = s.flash.areas ∧ dirArea t = 1 - dirArea s ∧
      dirCur t = s.loader.version.toNat ∧ dirPrevValid t = (directory s).isSome ∧ ((directory s).isSome = true → dirPrev t = dirCur s) := by
  obtain ⟨t, ht, hflash, -, -⟩ := flashDone_ends hrun hst hop (step := 3) (by rw [hw]; decide)
  rw [storeSteps_one (by rw [hw])] at hflash
  have hflash : t.flash = stepThree s s.flash := hflash.trans (by simp only [storeStep, hw])
  exact ⟨t, ht, by rw [hflash, stepThree_areas], stepThree_shows hok hflash⟩

end

end Sys2Proof.Machine
end

section
/-!
Loads and their ends (O57): training, the end of device scope and of the boot load, the reload commit and the floor (02 R105-R107, 15 R788,
R792, R793, R804, R805, R807, R919).
-/
namespace Sys2Proof.Machine

/-! ### A command that fails (15 R780, R804) -/

theorem rd_commandFails_out {s : State} {a : Nat} (ha : a < 0x20F00 ∨ 0x20F20 ≤ a) (he : a ≠ R.IMAGE_EVENT) (r d at_ : Nat) :
    rd (commandFails r d at_ s) a = rd s a := by
  cases hb : s.loader.boot with
  | true =>
    rw [commandFails_boot hb, rd_fault_out _ .image _ _ _ ha]
    rfl
  | false =>
    rw [commandFails_commit hb, imageRefuse, rd_fault_out _ .image _ _ _ ha, rd_event_ne _ _ he]
    exact rd_congr (setLoader_regs s .idle) a

/-- The loader is IDLE after a failure, and a load that has stopped stays stopped. -/
theorem commandFails_loader (r d at_ : Nat) (s : State) :
    (commandFails r d at_ s).loader.st = .idle ∧ (s.loader.stuck = true → (commandFails r d at_ s).loader.stuck = true) := by
  cases hb : s.loader.boot with
  | true =>
    rw [commandFails_boot hb, fault_frame.loader_eq rfl]
    exact ⟨rfl, fun _ => rfl⟩
  | false =>
    rw [commandFails_commit hb, imageRefuse, fault_frame.loader_eq rfl, event_frame.loader_eq rfl]
    exact ⟨rfl, id⟩

/-! ### Training (02 R106, R107, 08 R461, R919) -/

theorem geometryPasses_iff {fitted : Nat} {trains : List Nat} {g : Geometry} :
    geometryPasses fitted trains g = true ↔ g.gib ≤ fitted ∧ geometries.idxOf g ∈ trains := by
  unfold geometryPasses
  rw [Bool.and_eq_true, decide_eq_true_eq, List.contains_iff_mem]

section
variable {s : State} {ch fitted : Nat} {trains : List Nat}

theorem trainedAs_some {g : Geometry} (h : trainedAs s ch fitted trains = some g) :
    geometryPasses fitted trains g = true ∧ ∀ w, (chan s ch).want = some w → g = w := by
  unfold trainedAs at h
  split at h
  next w hw =>
    split at h
    next hpass =>
      obtain rfl := Option.some.inj h
      exact ⟨hpass, fun w' hw' => Option.some.inj (hw.symm.trans hw')⟩
    · exact nomatch h
  next hw => exact ⟨List.find?_some h, fun w hw' => nomatch hw.symm.trans hw'⟩

theorem trainedAs_none (h : trainedAs s ch fitted trains = none) :
    (∀ w, (chan s ch).want = some w → geometryPasses fitted trains w = false) ∧
      ((chan s ch).want = none → ∀ w ∈ geometries, geometryPasses fitted trains w = false) := by
  unfold trainedAs at h
  split at h
  next w hw =>
    refine ⟨fun w' hw' => ?_, fun hnone => nomatch hw.symm.trans hnone⟩
    obtain rfl := Option.some.inj (hw.symm.trans hw')
    split at h
    · exact nomatch h
    next hfails => simpa using hfails
  next hw =>
    refine ⟨fun w hw' => (nomatch hw.symm.trans hw'), fun _ w hw => ?_⟩
    simpa using List.find?_eq_none.mp h w hw

variable (happlying : loaderAt s .applying 0 = true) (hon : rbit s (R.BUFFER_RES_CH_CFG ch) 31 = true) (hresult : (chan s ch).result = none)
include happlying hon hresult

theorem trainingEff_trained {g : Geometry} (h : trainedAs s ch fitted trains = some g) :
    trainingEff ch fitted trains s =
      setChan (wr s (R.BUFFER_RES_CH_CFG ch) (rd s (R.BUFFER_RES_CH_CFG ch) ||| pack [(29, 1), (0, g.gib)])) ch
        { chan s ch with result := some g.gib, geom := some g } := by
  unfold rbit at hon
  unfold trainingEff
  simp only [happlying, hon, hresult, h, Option.isSome_none, Bool.not_true, Bool.or_false, Bool.false_eq_true, if_false]

theorem trainingEff_fails (h : trainedAs s ch fitted trains = none) :
    trainingEff ch fitted trains s =
      if rbit s (R.BUFFER_RES_CH_CFG ch) 30 then
        setChan (wr (fault s .buffer 6 ch 0) (R.BUFFER_RES_CH_CFG ch) (setBit (rd s (R.BUFFER_RES_CH_CFG ch)) 31 false)) ch
          { chan s ch with result := some 0 }
      else commandFails 20 ch 0 { fault s .buffer 6 ch 0 with loader := { (fault s .buffer 6 ch 0).loader with stuck := true } } := by
  unfold rbit at hon
  unfold trainingEff rbit
  simp only [happlying, hon, hresult, h, Option.isSome_none, Bool.not_true, Bool.or_false, Bool.false_eq_true, if_false]

theorem channelTraining_trained (hrun : running s = true) {g : Geometry} (h : trainedAs s ch fitted trains = some g) :
    ∃ t, viaCore s (trainingEff ch fitted trains) = .next t ∧ regsOnly { s with res := t.res } t [R.BUFFER_RES_CH_CFG ch] ∧
      chan t ch = { chan s ch with result := some g.gib, geom := some g } ∧
      rd t (R.BUFFER_RES_CH_CFG ch) = rd s (R.BUFFER_RES_CH_CFG ch) ||| pack [(29, 1), (0, g.gib)] := by
  obtain ⟨t, ht, hframe⟩ := viaCore_frame hrun (trainingEff ch fitted trains)
  rw [trainingEff_trained happlying hon hresult h] at hframe
  refine ⟨t, ht, ?_, ?_, ?_⟩
  · refine regsOnly.andIntc ?_ hframe
    rw [hframe.res_eq rfl]
    exact regsOnly_wr { s with res := (setChan s ch { chan s ch with result := some g.gib, geom := some g }).res } _ _
  · rw [chan, hframe.res_eq rfl, ← chan, chan_setChan_same]
  · rw [rd_congr (hframe.regs_eq rfl), rd_congr (setChan_regs ..), rd_wr_same]

/-- A failure of training is recorded as TRAIN_FAIL; a channel that is OPTIONAL is left disabled, and any other ends the load. -/
theorem channelTraining_fails (hrun : running s = true) (hch : ch < 8) (h : trainedAs s ch fitted trains = none) :
    ∃ t, viaCore s (trainingEff ch fitted trains) = .next t ∧ recorded s t .buffer 6 ∧
      (rbit s (R.BUFFER_RES_CH_CFG ch) 30 = true → rbit t (R.BUFFER_RES_CH_CFG ch) 31 = false ∧ t.loader = s.loader) ∧
      (rbit s (R.BUFFER_RES_CH_CFG ch) 30 = false → t.loader.st = .idle ∧ t.loader.stuck = true ∧ t.mode = s.mode ∧ recorded s t .image 20) := by
  obtain ⟨t, ht, hframe⟩ := viaCore_frame hrun (trainingEff ch fitted trains)
  rw [trainingEff_fails happlying hon hresult h] at hframe
  refine ⟨t, ht, ?_⟩
  have hfault : recorded s (fault s .buffer 6 ch 0) .buffer 6 := recorded_fault s .buffer ch 0 (by decide)
  have hcfg : R.BUFFER_RES_CH_CFG ch < Block.buffer.base := by
    unfold R.BUFFER_RES_CH_CFG Block.base
    dsimp only
    omega
  cases hopt : rbit s (R.BUFFER_RES_CH_CFG ch) 30 with
  | true =>
    rw [hopt, if_pos rfl] at hframe
    refine ⟨?_, fun _ => ⟨?_, ?_⟩, nofun⟩
    · refine recorded_of_rd ?_ ?_ hfault <;> rw [rd_congr (hframe.regs_eq rfl), rd_congr (setChan_regs ..), rd_wr_ne _ _ (by omega)]
    · rw [rbit_congr (hframe.regs_eq rfl), rbit_congr (setChan_regs ..), rbit, rd_wr_same, bit_setBit _ _ _ _ (by decide), if_pos rfl]
    · rw [hframe.loader_eq rfl, setChan_loader, wr_frame.loader_eq rfl, fault_frame.loader_eq rfl]
  | false =>
    rw [hopt, if_neg Bool.false_ne_true] at hframe
    generalize hu : fault s .buffer 6 ch 0 = u at hframe hfault
    obtain ⟨hidle, hstuck⟩ := commandFails_loader 20 ch 0 { u with loader := { u.loader with stuck := true } }
    refine ⟨?_, nofun, fun _ => ⟨?_, ?_, ?_, ?_⟩⟩
    · refine recorded_of_rd ?_ ?_ hfault <;>
        rw [rd_congr (hframe.regs_eq rfl), rd_commandFails_out (by decide) (by decide)] <;> rfl
    · rw [hframe.loader_eq rfl, hidle]
    · rw [hframe.loader_eq rfl, hstuck rfl]
    · rw [hframe.mode_eq rfl, commandFails_frame.mode_eq rfl, ← hu]
      exact fault_frame.mode_eq rfl
    · refine recorded_congr (hframe.regs_eq rfl) (commandFails_recorded ?_ (by decide) ch 0)
      rw [← hu]
      exact rd_fault_out s .buffer 6 ch 0 (.inl (by decide))

end

/-! ### Presets leave the straps as sampled (02 R105) -/

theorem Frame.straps {l : List Field} {s t : State} (h : Frame l s t) (hl : Field.isIn .power l = false) :
    t.power.straps = s.power.straps := by rw [h.power_eq hl]

theorem softResetEff_straps (v : Word) (s : State) : (softResetEff v s).power.straps = s.power.straps := by
  unfold softResetEff
  split
  · rfl
  · exact fault_frame.straps rfl

/-- No entry of a table of register writes changes the straps. -/
def TableKeepsStraps (l : List (Nat × (RegHit → Nat → Word → State → State))) : Prop :=
  ∀ p ∈ l, ∀ h a v s, (p.2 h a v s).power.straps = s.power.straps

theorem stateWrite_straps_of_idle (busy : Bool) (a : Nat) (v : Word) (s : State) :
    (if busy then s else stateWrite a v s).power.straps = s.power.straps := by
  split
  · rfl
  · exact stateWrite_frame.straps rfl

theorem writeTable_straps : TableKeepsStraps writeTable := by
  simp only [TableKeepsStraps, writeTable, List.forall_mem_cons]
  exact ⟨fun _ _ _ _ => modeCtlEff_frame.straps rfl, fun _ _ v s => softResetEff_straps v s,
    fun _ _ _ _ => rtcCtlEff_frame.straps rfl, fun _ _ _ _ => keeperAlarmCtlEff_frame.straps rfl,
    fun _ _ _ _ => keeperScCtlEff_frame.straps rfl, fun _ _ _ _ => keeperScCtlEff_frame.straps rfl,
    fun _ _ _ _ => keeperLogSelEff_frame.straps rfl, fun _ _ _ _ => imageCmdEff_frame.straps rfl,
    fun _ _ _ _ => plainUnless_frame.straps rfl, fun _ _ _ _ => plainUnless_frame.straps rfl,
    fun _ _ _ _ => intcHtStateEff_frame.straps rfl, fun _ _ _ _ => intcHtIdleEff_frame.straps rfl,
    fun _ _ _ _ => intcWatcherEff_frame.straps rfl, fun _ _ _ _ => intcRetargetEff_frame.straps rfl,
    fun _ _ _ _ => intcSwiEff_frame.straps rfl, fun _ _ _ _ => intcSrcCfgEff_frame.straps rfl,
    fun _ _ _ _ => intcCompletionEff_frame.straps rfl, fun _ _ _ _ => intcCompletionEff_frame.straps rfl,
    List.forall_mem_nil _⟩

theorem writeTable2_straps : TableKeepsStraps writeTable2 := by
  simp only [TableKeepsStraps, writeTable2, List.forall_mem_cons]
  exact ⟨fun _ _ _ _ => plainUnless_frame.straps rfl, fun _ _ _ _ => plainUnless_frame.straps rfl,
    fun _ _ _ _ => plainUnless_frame.straps rfl, fun _ _ _ _ => plainUnless_frame.straps rfl,
    fun _ _ _ _ => plainUnless_frame.straps rfl, fun _ _ _ _ => checkCtlEff_frame.straps rfl, fun _ _ _ _ => stateWrite_straps_of_idle ..,
    fun _ _ _ _ => plainUnless_frame.straps rfl, fun _ _ _ _ => plainUnless_frame.straps rfl,
    fun _ _ _ _ => plainUnless_frame.straps rfl, fun _ _ _ _ => plainUnless_frame.straps rfl,
    fun _ _ _ _ => dmaCtlEff_frame.straps rfl, fun _ _ _ _ => stateWrite_frame.straps rfl, fun _ _ _ _ => ringCtlEff_frame.straps rfl,
    fun _ _ _ _ => dbTailEff_frame.straps rfl, fun _ _ _ _ => wrField_frame.straps rfl, fun _ _ _ _ => servoCtlEff_frame.straps rfl,
    fun _ _ _ _ => incrEff_frame.straps rfl, fun _ _ _ _ => switchEff_frame.straps rfl, fun _ _ _ _ => schedArmEff_frame.straps rfl,
    List.forall_mem_nil _⟩

theorem writeTable3_straps : TableKeepsStraps writeTable3 := by
  simp only [TableKeepsStraps, writeTable3, List.forall_mem_cons]
  exact ⟨fun _ _ _ _ => linePmEff_frame.straps rfl, fun _ _ _ _ => lineHgLeadEff_frame.straps rfl,
    fun _ _ _ _ => gaspCtlEff_frame.straps rfl, fun _ _ _ _ => preambleEff_frame.straps rfl, fun _ _ _ _ => sbCmdEff_frame.straps rfl,
    fun _ _ _ _ => txeqWrite_frame.straps rfl, fun _ _ _ _ => datedWrite_frame.straps rfl, fun _ _ _ _ => datedWrite_frame.straps rfl,
    fun _ _ _ _ => datedWrite_frame.straps rfl, fun _ _ _ _ => datedWrite_frame.straps rfl,
    fun _ _ _ _ => datedWrite_frame.straps rfl, fun _ _ _ _ => datedWrite_frame.straps rfl, fun _ _ _ _ => fcCtlEff_frame.straps rfl,
    fun _ _ _ _ => statPresetEff_frame.straps rfl, fun _ _ _ _ => txeqWrite_frame.straps rfl,
    fun _ _ _ _ => commitCtlEff_frame.straps rfl, fun _ _ _ _ => stageCmdEff_frame.straps rfl,
    fun _ _ _ _ => classPrivEff_frame.straps rfl, fun _ _ _ _ => classPrivEff_frame.straps rfl,
    fun _ _ _ _ => qRecoverEff_frame.straps rfl, fun _ _ _ _ => tallyCtlEff_frame.straps rfl,
    fun _ _ _ _ => plainUnless_frame.straps rfl, fun _ _ _ _ => plainUnless_frame.straps rfl,
    fun _ _ _ _ => accPresetEff_frame.straps rfl, fun _ _ _ _ => queueWmEff_frame.straps rfl,
    List.forall_mem_nil _⟩

theorem writeTable4_straps : TableKeepsStraps writeTable4 := by
  simp only [TableKeepsStraps, writeTable4, List.forall_mem_cons]
  exact ⟨fun _ _ _ _ => cellMapEff_frame.straps rfl, fun _ _ _ _ => cellResetEff_frame.straps rfl,
    fun _ _ _ _ => paceCtlEff_frame.straps (s := draw1 _) rfl, fun _ _ _ _ => paceFixedEff_frame.straps (s := draw1 _) rfl,
    fun _ _ _ _ => droverRestartEff_frame.straps rfl, fun _ _ _ _ => perfSelEff_frame.straps rfl,
    fun _ _ _ _ => tractPresetEff_frame.straps rfl, fun _ _ _ _ => snapEff_frame.straps rfl,
    fun _ _ _ _ => cellPresetEff_frame.straps rfl,
    List.forall_mem_nil _⟩

theorem writeReg_straps (a : Nat) (v : Word) (s : State) : (writeReg a v s).power.straps = s.power.straps := by
  unfold writeReg
  split
  · exact unmapped_frame.straps rfl
  · split
    · rfl
    · split
      next f hf =>
        obtain ⟨p, hp, rfl⟩ := entryAt_of_some hf
        simp only [List.mem_append] at hp
        obtain ((hp | hp) | hp) | hp := hp
        · exact writeTable_straps p hp _ a v s
        · exact writeTable2_straps p hp _ a v s
        · exact writeTable3_straps p hp _ a v s
        · exact writeTable4_straps p hp _ a v s
      · rw [plainWrite_frame.straps rfl]
        split
        · exact keeperDue_frame.straps rfl
        · rfl

theorem foldl_writeReg_straps {α : Type} (addr : α → Nat) (value : α → Word) (l : List α) (s : State) :
    (l.foldl (fun s e => writeReg (addr e) (value e) s) s).power.straps = s.power.straps := by
  induction l generalizing s with
  | nil => rfl
  | cons e l ih => exact (ih _).trans (writeReg_straps ..)

theorem loadPresets_straps (d : ImageData) (s : State) : (loadPresets d s).power.straps = s.power.straps :=
  (foldl_writeReg_straps ..).trans (foldl_writeReg_straps ..)

/-! ### The end of a load (15 R788, R804, R805) -/

theorem openChannels_frame {s : State} : Frame [.res] s ((List.range 8).foldl openChannel s) :=
  Frame.foldl (fun _ _ h => openChannel_frame.andThen rfl h) .refl

theorem loadEnd_straps (d : ImageData) (s : State) : (loadEnd d s).power.straps = s.power.straps := by
  rw [loadEnd, loadHash_frame.straps rfl, loadPresets_straps, openChannels_frame.straps rfl]

theorem loadEnd_mode {d : ImageData} (hpresets : d.presets = []) (hkeeper : d.keeper = []) (s : State) : (loadEnd d s).mode = s.mode := by
  rw [loadEnd, loadHash_frame.mode_eq rfl, loadPresets, hpresets, hkeeper, List.foldl_nil, List.foldl_nil,
    openChannels_frame.mode_eq rfl]

theorem enterSilent_mode (s : State) : (enterSilent s).mode.mode = .provision := by
  unfold enterSilent
  dsimp only
  rw [emptyNext_frame.mode_eq rfl, event_frame.mode_eq rfl]
  change (clearEqd _).mode.mode = _
  rw [clearEqd_frame.mode_eq rfl]
  rfl

theorem leaveLoading_mode (s : State) : (leaveLoading s).mode.mode = if s.mode.dereg then .provision else s.mode.back := by
  unfold leaveLoading
  dsimp only
  split
  · exact enterSilent_mode _
  · rw [paceResume_frame.mode_eq rfl]

/-- The image is loaded and in force; MODE has not returned yet. -/
def imageInForce (s : State) : State :=
  let d := imageInHand s
  let s1 := loadEnd d s
  let s2 := if s.loader.boot then bootForce d s1 else appliedEff d.version false s1
  { s2 with loader := { s2.loader with stuck := false } }

theorem deviceEnd_eq (s : State) : deviceEnd s = showSignals (leaveLoading (imageInForce s)) := rfl

theorem deviceEnd_loader (s : State) : (deviceEnd s).loader = (imageInForce s).loader := by
  rw [deviceEnd_eq, showSignals_frame.loader_eq rfl, leaveLoading_frame.loader_eq rfl]

theorem appliedEff_loader (version : Word) (part_ : Bool) (s : State) :
    (appliedEff version part_ s).loader =
      { s.loader with st := if s.flash.ok then .writing else .idle, version := version, partial_ := part_, source := 2, wrote := 0 } :=
  event_frame.loader_eq rfl

theorem bootForce_loader (d : ImageData) (s : State) :
    (bootForce d s).loader = { s.loader with
      st := .idle, boot := false, version := d.version, partial_ := false, source := if s.power.straps % 4 == 0 then 0 else 1 } := by
  unfold bootForce
  dsimp only
  split <;> rfl

theorem imageInForce_loader_boot {s : State} (hb : s.loader.boot = true) :
    (imageInForce s).loader.st = .idle ∧ (imageInForce s).loader.boot = false ∧ (imageInForce s).loader.stuck = false ∧
      (imageInForce s).loader.version = (imageInHand s).version ∧
      (imageInForce s).loader.source = if s.power.straps % 4 = 0 then 0 else 1 := by
  unfold imageInForce
  dsimp only
  rw [hb, if_pos rfl, bootForce_loader, loadEnd_straps]
  exact ⟨rfl, rfl, rfl, rfl, by simp only [beq_iff_eq]⟩

theorem imageInHand_commit {s : State} (hb : s.loader.boot = false) : imageInHand s = imageOf s.loader.staged := if_neg (by simp [hb])

theorem imageInForce_loader_commit {s : State} (hb : s.loader.boot = false) :
    (imageInForce s).loader.st = (if s.flash.ok then .writing else .idle) ∧ (imageInForce s).loader.stuck = false ∧
      (imageInForce s).loader.version = (imageOf s.loader.staged).version ∧ (imageInForce s).loader.source = 2 := by
  unfold imageInForce
  dsimp only
  rw [hb, if_neg Bool.false_ne_true, appliedEff_loader, imageInHand_commit hb, loadEnd_frame.flash_eq rfl]
  exact ⟨rfl, rfl, rfl, rfl⟩

theorem imageInForce_mode {s : State} (hpresets : (imageInHand s).presets = []) (hkeeper : (imageInHand s).keeper = []) :
    (imageInForce s).mode = s.mode := by
  unfold imageInForce
  dsimp only
  split
  · rw [bootForce_frame.mode_eq rfl, loadEnd_mode hpresets hkeeper]
  · rw [appliedEff_frame.mode_eq rfl, loadEnd_mode hpresets hkeeper]

/-- MODE returns to the mode before the load, or is PROVISION after a DEREGISTER, where no preset has touched it. -/
theorem deviceEnd_mode {s : State} (hpresets : (imageInHand s).presets = []) (hkeeper : (imageInHand s).keeper = []) :
    (deviceEnd s).mode.mode = if s.mode.dereg then .provision else s.mode.back := by
  rw [deviceEnd_eq, showSignals_frame.mode_eq rfl, leaveLoading_mode, imageInForce_mode hpresets hkeeper]

section
variable {s : State} (hrun : running s = true) (hready : deviceReady s = true)
include hrun hready

theorem deviceApplyingEnd_next (hb : s.loader.boot = false) :
    ∃ t, exec .deviceApplyingEnd s = .next t ∧ Frame [.intc] (deviceEnd s) t := by
  obtain ⟨t, ht, hframe⟩ := viaCore_frame hrun fun s => if deviceReady s && !s.loader.boot then deviceEnd s else s
  rw [hready, hb, if_pos (by decide)] at hframe
  exact ⟨t, ht, hframe⟩

theorem bootImageLoaded_next (h : s.loader.boot = true ∨ s.loader.stuck = true) :
    ∃ t, exec .bootImageLoaded s = .next t ∧ Frame [.intc] (deviceEnd s) t := by
  obtain ⟨t, ht, hframe⟩ := viaCore_frame hrun fun s => if deviceReady s && (s.loader.boot || s.loader.stuck) then deviceEnd s else s
  rw [hready, Bool.true_and, Bool.or_eq_true_iff.2 h, if_pos rfl] at hframe
  exact ⟨t, ht, hframe⟩

end

theorem deviceEnd_commit {s t : State} (hb : s.loader.boot = false) (ht : Frame [.intc] (deviceEnd s) t) :
    t.loader.st = (if t.flash.ok then .writing else .idle) ∧ t.loader.stuck = false ∧
      t.loader.version = (imageOf s.loader.staged).version ∧ t.loader.source = 2 := by
  have hloader : t.loader = (imageInForce s).loader := (ht.loader_eq rfl).trans (deviceEnd_loader s)
  have hflash : t.flash = s.flash := (ht.flash_eq rfl).trans (deviceEnd_frame.flash_eq rfl)
  rw [hloader, hflash]
  exact imageInForce_loader_commit hb

/-! ### The reload commit (15 R792, R793, 06 R378) -/

theorem drover_loadStore (d : ImageData) (t : Nat) (s : State) :
    (drover (loadStore d t s) t).st = .idle ∧ (drover (loadStore d t s) t).stack = [] := by
  unfold loadStore
  dsimp only
  rw [drover_setDrover_same]
  exact ⟨rfl, rfl⟩

/-- The reload commit applies the image to a state whose queues and AIDs have been changed. -/
theorem reloadCommitEff_applies {s : State} (hat : loaderAt s .applying 1 = true) (hst : (drover s (imageTract s)).st = .reloading) :
    ∃ u, Frame [.cistern, .res, .queues, .regs] s u ∧
      reloadCommitEff s = appliedEff (imageOf s.loader.staged).version true (loadStore (imageOf s.loader.staged) (imageTract s) u) := by
  unfold reloadCommitEff
  dsimp only
  rw [hat, hst, if_pos (by decide)]
  exact ⟨_, Frame.foldl (fun _ _ h => derivePrio_frame.andThen rfl h) (Frame.foldl (fun _ _ h => reloadQueue_frame.andThen rfl h) .refl), rfl⟩

theorem reloadCommit_next {s : State} (hrun : running s = true) (hat : loaderAt s .applying 1 = true)
    (hst : (drover s (imageTract s)).st = .reloading) :
    ∃ t, exec .reloadCommit s = .next t ∧ (drover t (imageTract s)).st = .idle ∧ (drover t (imageTract s)).stack = [] ∧
      t.loader.st = (if s.flash.ok then .writing else .idle) ∧ t.loader.version = (imageOf s.loader.staged).version ∧ t.loader.partial_ = true ∧
      rbit t R.IMAGE_EVENT 0 = true := by
  obtain ⟨t, ht, hframe⟩ := viaCore_frame hrun reloadCommitEff
  obtain ⟨u, hu, he⟩ := reloadCommitEff_applies hat hst
  rw [he] at hframe
  have hdrover : drover t (imageTract s) = drover (loadStore (imageOf s.loader.staged) (imageTract s) u) (imageTract s) := by
    rw [drover, hframe.drovers_eq rfl, appliedEff_frame.drovers_eq rfl, ← drover]
  have hflash : (loadStore (imageOf s.loader.staged) (imageTract s) u).flash = s.flash :=
    (loadStore_frame.flash_eq rfl).trans (hu.flash_eq rfl)
  obtain ⟨hidle, hstack⟩ := drover_loadStore (imageOf s.loader.staged) (imageTract s) u
  refine ⟨t, ht, hdrover ▸ hidle, hdrover ▸ hstack, ?_, ?_, ?_, ?_⟩
  · rw [hframe.loader_eq rfl, appliedEff_loader, hflash]
  · rw [hframe.loader_eq rfl, appliedEff_loader]
  · rw [hframe.loader_eq rfl, appliedEff_loader]
  · rw [rbit_congr (hframe.regs_eq rfl)]
    exact rbit_event_self _ (by decide)

/-! ### The floor (15 R807) -/

theorem floorDone_next {s : State} (hrun : running s = true) (hst : s.loader.st = .applying) (hb : s.loader.boot = false) (hop : imageOp s = 4) :
    ∃ t, exec .floorDone s = .next t ∧ t.fuses = { s.fuses with floor := rd s R.IMAGE_FLOOR_SET, floorLeft := s.fuses.floorLeft - 1 } ∧
      t.loader = { s.loader with st := .idle } ∧ rbit t R.IMAGE_EVENT 0 = true := by
  obtain ⟨t, ht, hframe⟩ := viaCore_frame hrun floorDoneEff
  have he : floorDoneEff s = commandDone .idle { s with fuses := { s.fuses with
      floor := rd s R.IMAGE_FLOOR_SET, floorLeft := s.fuses.floorLeft - 1 } } := if_pos ⟨hst, by simp [hb], hop⟩
  rw [he] at hframe
  refine ⟨t, ht, ?_, ?_, ?_⟩
  · rw [hframe.fuses_eq rfl, commandDone_frame.fuses_eq rfl]
  · rw [hframe.loader_eq rfl, commandDone, event_frame.loader_eq rfl]
    rfl
  · rw [rbit_congr (hframe.regs_eq rfl), commandDone, rbit_event_self _ (by decide)]

end Sys2Proof.Machine

open Sys2Proof Sys2Proof.Machine

/-- Settles O57: each end of a load by the lemma of its command. -/
theorem imageLoadsComplete : Obligations.ImageLoadsComplete := by
  unfold Obligations.ImageLoadsComplete
  refine ⟨fun s ch fitted trains hrun hat hon hresult => ?_, fun s hrun hready hb => ?_,
    fun s hrun hready => ⟨fun hb => ?_, fun hb hstuck => ?_⟩, fun s hrun hat _ hst => reloadCommit_next hrun hat hst,
    fun s step hrun hst => ?_, fun s hrun hst hop hok => ?_, fun s hrun hst hb hop => floorDone_next hrun hst hb hop⟩
  · dsimp only
    cases h : trainedAs s ch fitted trains with
    | some g =>
      obtain ⟨t, ht, hregs, hchan, hcfg⟩ := channelTraining_trained hat hon hresult hrun h
      obtain ⟨hpass, hwant⟩ := trainedAs_some h
      refine ⟨t, ht, fun g' hg => ?_, nofun⟩
      obtain rfl := Option.some.inj hg
      exact ⟨hregs, hchan, geometryPasses_iff.1 hpass, hwant, hcfg⟩
    | none =>
      obtain ⟨t, ht, hrecorded, hoptional, hneeded⟩ := channelTraining_fails hat hon hresult hrun ch.isLt h
      obtain ⟨hwant, hdetect⟩ := trainedAs_none h
      have hfails {w : Geometry} (hw : geometryPasses fitted trains w = false) : ¬(w.gib ≤ fitted ∧ geometries.idxOf w ∈ trains) :=
        fun hpass => Bool.false_ne_true (hw.symm.trans (geometryPasses_iff.2 hpass))
      exact ⟨t, ht, nofun, fun _ => ⟨hrecorded, fun w hw => hfails (hwant w hw), fun hnone w hw => hfails (hdetect hnone w hw), hoptional, hneeded⟩⟩
  · obtain ⟨t, ht, hframe⟩ := deviceApplyingEnd_next hrun hready hb
    obtain ⟨hloader, hstuck, hversion, hsource⟩ := deviceEnd_commit hb hframe
    exact ⟨t, ht, hloader, hstuck, hversion, hsource, fun hpresets hkeeper => by rw [hframe.mode_eq rfl, deviceEnd_mode hpresets hkeeper]⟩
  · obtain ⟨t, ht, hframe⟩ := bootImageLoaded_next hrun hready (.inl hb)
    refine ⟨t, ht, ?_⟩
    rw [hframe.loader_eq rfl, deviceEnd_loader]
    obtain ⟨hidle, hboot, hstuck, hversion, hsource⟩ := imageInForce_loader_boot hb
    exact ⟨hidle, hboot, hstuck, hversion, hsource, fun hpresets hkeeper => by rw [hframe.mode_eq rfl, deviceEnd_mode hpresets hkeeper]⟩
  · obtain ⟨t, ht, hframe⟩ := bootImageLoaded_next hrun hready (.inr hstuck)
    exact ⟨t, ht, deviceEnd_commit hb hframe⟩
  · dsimp only
    refine ⟨fun hop hn => flashDone_goes_on hrun hst hop hn, fun hop hn => ?_, fun hop => ?_,
      fun hop => ⟨flashDone_swaps hrun hst hop step, flashDone_swap_fails hrun hst hop step⟩⟩
    · obtain ⟨t, ht, -, hloader, hevent⟩ := flashDone_ends hrun hst hop hn
      exact ⟨t, ht, hloader, hevent⟩
    · obtain ⟨t, ht, -, hrecorded, hloader⟩ := flashDone_fails hrun hst hop step
      exact ⟨t, ht, hrecorded, hloader⟩
  · exact ⟨flashDone_step_one hrun hst hop, flashDone_step_two hrun hst hop, flashDone_step_two_fails hrun hst hop,
      flashDone_step_three hrun hst hop hok⟩

end

section
/-!
What the commands of the line share: an effect on registers and on a fault record, and folds that a view of the state sees the last of.
-/
namespace Sys2Proof.Machine

/-! ### Registers and a fault record -/

/-- From `s` to `t` no register outside `l` and the record of block `b` has changed, and no bit of that record's event register has cleared. -/
structure Records (b : Block) (l : List Nat) (s t : State) : Prop where
  rd_out : ∀ {a : Nat}, a ∉ l → a ∉ recordOf b → rd t a = rd s a
  bits : ∀ {i : Nat}, i < 32 → rbit s b.base i = true → rbit t b.base i = true

section
variable {b : Block} {l m : List Nat} {s t u : State}

theorem Records.of_regs (h : t.regs = s.regs) : Records b l s t :=
  ⟨fun _ _ => rd_congr h _, fun _ hb => (rbit_congr h _ _).trans hb⟩

theorem Records.trans (h : Records b l s t) (h' : Records b l t u) : Records b l s u :=
  ⟨fun ha hr => (h'.rd_out ha hr).trans (h.rd_out ha hr), fun hi hb => h'.bits hi (h.bits hi hb)⟩

theorem Records.mono (h : Records b l s t) (hs : l ⊆ m) : Records b m s t :=
  ⟨fun ha hr => h.rd_out (fun hl => ha (hs hl)) hr, h.bits⟩

theorem Records.of_rd (h : ∀ a, a ∉ l → rd t a = rd s a) (hb : b.base ∉ l) : Records b l s t :=
  ⟨fun ha _ => h _ ha, fun _ hbit => (rbit_of_rd (h _ hb)).trans hbit⟩

theorem records_wr (s : State) {a : Nat} (v : Word) (hb : b.base ≠ a) : Records b [a] s (wr s a v) :=
  .of_rd (fun _ hc => rd_wr_ne s v (List.ne_of_not_mem_cons hc)) (by simpa using hb)

theorem records_bump (s : State) {a : Nat} (hb : b.base ≠ a) : Records b [a] s (bump s a) := records_wr s _ hb

theorem records_fault (s : State) (b : Block) (code inst : Nat) (ident : DWord) : Records b l s (fault s b code inst ident) :=
  ⟨fun _ hr => (regsOnly_fault s b code inst ident).2 _ hr, fun hi hb => rbit_fault_of_rbit s b code inst ident hi hb⟩

theorem Records.foldl {α : Type} {g : State → α → State} {k : List α} (hg : ∀ s x, Records b l s (g s x)) (s : State) :
    Records b l s (k.foldl g s) := by
  induction k generalizing s with
  | nil => exact .of_regs rfl
  | cons x k ih => exact (hg s x).trans (ih _)

theorem rbit_fault_self (s : State) (b : Block) {code : Nat} (inst : Nat) (ident : DWord) (hc : code < 32) :
    rbit (fault s b code inst ident) b.base code = true :=
  (recorded_fault s b inst ident hc).1

end

/-! ### Views of a fold -/

section
variable {α β : Type} {g : State → α → State} {view : State → β}

/-- What no step of a fold changes is as it was. -/
theorem foldl_view {l : List α} (h : ∀ s, ∀ x ∈ l, view (g s x) = view s) (s : State) : view (l.foldl g s) = view s := by
  induction l generalizing s with
  | nil => rfl
  | cons x l ih => exact (ih (fun s y hy => h s y (List.mem_cons_of_mem _ hy)) _).trans (h s x List.mem_cons_self)

/-- What some steps of a fold set and no other one changes is as the last of them has set it. -/
theorem foldl_view_last {p : α → Bool} {val : α → β} (hset : ∀ s x, p x = true → view (g s x) = val x)
    (hkeep : ∀ s x, p x = false → view (g s x) = view s) {l : List α} {x : α} (hx : (l.filter p).getLast? = some x) (s : State) :
    view (l.foldl g s) = val x := by
  induction l using List.reverseRecOn with
  | nil => cases hx
  | append_singleton l y ih =>
    rw [List.foldl_append, List.foldl_cons, List.foldl_nil]
    rw [List.filter_append] at hx
    cases hp : p y with
    | true =>
      rw [List.filter_cons_of_pos hp, List.filter_nil, List.getLast?_concat] at hx
      cases hx
      exact hset _ _ hp
    | false =>
      rw [List.filter_cons_of_neg (by simp [hp]), List.filter_nil, List.append_nil] at hx
      rw [hkeep _ _ hp, ih hx]

end

end Sys2Proof.Machine

end

section
/-!
What waits for a convoy start (O28): key changes and emptied slots (04 R257, R261, R264), the reassembly timeout (03 R182, R183) and the end of
the wait after a REGISTER burst (04 R230, R231).
-/
namespace Sys2Proof.Machine

/-! ### One key change -/

section
variable (s : State) (w : KeyWait) (n : Nat)

theorem keyEffect_down : look none (keyEffect s w).keys.down n = if w.slot = n then w.key else look none s.keys.down n := by
  unfold keyEffect
  dsimp only
  split
  next h => rw [h, look_put_same]
  next h => exact look_put_ne _ _ _ (Ne.symm h)

theorem keyEffect_up_none {w : KeyWait} (h : w.slot = n → n < 4 → w.up = none) :
    look none (keyEffect s w).keys.up n = look none s.keys.up n := by
  unfold keyEffect
  dsimp only
  split
  next u hu =>
    split
    next h4 =>
      refine look_put_ne _ _ _ fun he => ?_
      have hslot : w.slot = n := by omega
      rw [h hslot (by omega)] at hu
      cases hu
    · rfl
  · rfl

theorem keyEffect_up_some {w : KeyWait} {u : Option UpKey} (hn : n < 4) (hs : w.slot = n) (h : w.up = some u) :
    look none (keyEffect s w).keys.up n = u := by
  unfold keyEffect
  simp only [h, hs, Nat.div_eq_of_lt hn, Nat.mod_eq_of_lt hn, if_true]
  exact look_put_same ..

theorem keyEffect_upSlot :
    (keyEffect s w).keys.upSlot = if w.slot < 4 ∧ w.key = none ∧ s.keys.upSlot = w.slot then 0 else s.keys.upSlot := by
  unfold keyEffect
  simp only [Bool.and_eq_true, decide_eq_true_eq, Option.isNone_iff_eq_none, beq_iff_eq]
  refine if_congr ⟨fun ⟨⟨h4, hk⟩, hu⟩ => ⟨by omega, hk, by omega⟩, fun ⟨h4, hk, hu⟩ => ⟨⟨by omega, hk⟩, by omega⟩⟩ rfl rfl

end

/-! ### The key changes of a convoy start -/

section
variable {l : List KeyWait} {s : State}

theorem foldl_keyEffect_upSlot_kept (h : ∀ w ∈ l, w.key = none → w.slot ≠ s.keys.upSlot) :
    (l.foldl keyEffect s).keys.upSlot = s.keys.upSlot := by
  induction l generalizing s with
  | nil => rfl
  | cons w l ih =>
    have hw : (keyEffect s w).keys.upSlot = s.keys.upSlot := by
      rw [keyEffect_upSlot, if_neg fun ⟨_, hk, hu⟩ => h w List.mem_cons_self hk hu.symm]
    rw [List.foldl_cons, ih, hw]
    intro x hx
    rw [hw]
    exact h x (List.mem_cons_of_mem _ hx)

theorem foldl_keyEffect_upSlot_zero (h : s.keys.upSlot = 0) : (l.foldl keyEffect s).keys.upSlot = 0 := by
  induction l generalizing s with
  | nil => exact h
  | cons w l ih => exact ih (by rw [keyEffect_upSlot]; split <;> [rfl; exact h])

theorem foldl_keyEffect_upSlot_emptied (h4 : s.keys.upSlot < 4) (h : ∃ w ∈ l, w.key = none ∧ w.slot = s.keys.upSlot) :
    (l.foldl keyEffect s).keys.upSlot = 0 := by
  induction l generalizing s with
  | nil => obtain ⟨w, hw, -⟩ := h; cases hw
  | cons w l ih =>
    rw [List.foldl_cons]
    by_cases hw : w.slot < 4 ∧ w.key = none ∧ s.keys.upSlot = w.slot
    · exact foldl_keyEffect_upSlot_zero (by rw [keyEffect_upSlot, if_pos hw])
    · have hkept : (keyEffect s w).keys.upSlot = s.keys.upSlot := by rw [keyEffect_upSlot, if_neg hw]
      refine ih (by rwa [hkept]) ?_
      obtain ⟨x, hx, hk, hslot⟩ := h
      rcases List.mem_cons.mp hx with rfl | hx
      · exact absurd ⟨hslot ▸ h4, hk, hslot.symm⟩ hw
      · exact ⟨x, hx, hk, by rw [hkept, hslot]⟩

end

/-- The key changes whose convoy start has come. -/
def keysDue (s : State) : List KeyWait := s.keys.waiting.filter fun w => decide (w.since < s.line.convoys)

/-- The state in which they no longer wait. -/
def keysTaken (s : State) : State :=
  { s with keys := { s.keys with waiting := s.keys.waiting.filter fun w => !decide (w.since < s.line.convoys) } }

theorem exec_keyInstall (s : State) : exec .keyInstall s = viaCore s fun s => (keysDue s).foldl keyEffect (keysTaken s) := by
  change execKeyInstall s = _
  unfold execKeyInstall
  simp only [List.partition_eq_filter_filter]
  rfl

/-- The changes that are due take effect, the last of a slot deciding it. -/
theorem keyInstall_next {s : State} (hrun : running s = true) :
    ∃ t, exec .keyInstall s = .next t ∧ t = { s with keys := t.keys, intc := t.intc } ∧
      t.keys = ((keysDue s).foldl keyEffect (keysTaken s)).keys := by
  obtain ⟨t, ht, hframe⟩ := viaCore_frame hrun fun s => (keysDue s).foldl keyEffect (keysTaken s)
  have hkeys : Frame [.keys] s ((keysDue s).foldl keyEffect (keysTaken s)) :=
    .foldl (fun _ _ h => keyEffect_frame.andThen rfl h) (.with_keys rfl .refl)
  refine ⟨t, by rw [exec_keyInstall, ht], ?_, hframe.keys_eq rfl⟩
  exact (hframe.andThen (m := [.keys, .intc]) rfl (hkeys.weaken rfl)).eq_of fun f => by cases f <;> rfl

/-! ### The other waits -/

theorem findCtx_key {s : State} {tid flow : Nat} {c : Context} (h : findCtx s tid flow = some c) : c.tid = tid ∧ c.flow = flow := by
  simpa using List.find?_some h

theorem findCtx_congr {s t : State} (h : t.reasm = s.reasm) (tid flow : Nat) : findCtx t tid flow = findCtx s tid flow := by
  unfold findCtx
  rw [h]

theorem findCtx_closeCtx (s : State) (tid flow : Nat) : findCtx (closeCtx s tid flow) tid flow = none := by
  refine List.find?_eq_none.mpr fun c hc => ?_
  simpa only [Bool.not_eq_true', Bool.not_eq_true] using (List.mem_filter.mp hc).2

/-- A frame under reassembly that is abandoned counts, and is recorded as REASM_DROP. -/
theorem reasmDrop_counts (s : State) (tid flow reason : Nat) :
    rd (reasmDrop s tid flow reason) R.LINE_CNT_REASM_DROP = sat32 ((rd s R.LINE_CNT_REASM_DROP).toNat + 1) ∧
      recorded s (reasmDrop s tid flow reason) .line 10 := by
  unfold reasmDrop
  refine ⟨?_, recorded_fault_after (by decide) (rd_bump_ne _ (by decide)) rfl⟩
  rw [rd_fault_out _ _ _ _ _ (by decide), rd_bump_same]

theorem reassemblyTimeout_next {s : State} {tid : BitVec 12} {flow : BitVec 16} {c : Context} (hrun : running s = true)
    (hc : findCtx s tid.toNat flow.toNat = some c) (h : c.seen + zeroAsOne (rfld s R.LINE_REASM_CTL 16 8) < s.line.convoys) :
    ∃ t, exec (.reassemblyTimeout tid flow) s = .next t ∧ Frame [.intc] (reasmDrop (closeCtx s tid.toNat flow.toNat) tid.toNat flow.toNat 4) t := by
  obtain ⟨htid, hflow⟩ := findCtx_key hc
  obtain ⟨t, ht, hframe⟩ := viaCore_frame hrun fun s =>
    match findCtx s tid.toNat flow.toNat with
    | some c =>
      if c.seen + zeroAsOne (rfld s R.LINE_REASM_CTL 16 8) < s.line.convoys
      then reasmDrop (closeCtx s c.tid c.flow) c.tid c.flow 4 else s
    | none => s
  refine ⟨t, ht, ?_⟩
  simpa only [hc, if_pos h, htid, hflow] using hframe

end Sys2Proof.Machine

open Sys2Proof Sys2Proof.Machine

/-- Settles O28: the key changes as a fold of one effect each, and one effect for each of the other waits. -/
theorem convoyTimersRun : Obligations.ConvoyTimersRun := by
  unfold Obligations.ConvoyTimersRun
  refine ⟨fun s hrun => ?_, fun s n hrun hn hlt => ?_, fun s tid flow c hrun hc hlt => ?_, fun s n hrun hn hle => ?_⟩
  · obtain ⟨t, ht, honly, hkeys⟩ := keyInstall_next hrun
    refine ⟨t, ht, honly, ?_⟩
    rw [hkeys]
    refine ⟨foldl_view (g := keyEffect) (view := fun s => s.keys.waiting) (fun _ _ _ => rfl) _, fun n w hw => ?_, fun n hn => ?_, fun n w hn hw => ?_,
      fun n hn => ?_, foldl_keyEffect_upSlot_kept (s := keysTaken s), foldl_keyEffect_upSlot_emptied (s := keysTaken s)⟩
    · exact foldl_view_last (view := fun s => look none s.keys.down n) (val := fun w => w.key)
        (fun s x hx => by rw [keyEffect_down, if_pos (by simpa using hx)])
        (fun s x hx => by rw [keyEffect_down, if_neg (by simpa using hx)]) hw _
    · exact foldl_view (view := fun s => look none s.keys.down n) (fun s x hx => by rw [keyEffect_down, if_neg (hn x hx)]) _
    · refine foldl_view_last (view := fun s => some (look none s.keys.up n)) (val := fun w => w.up) (fun s x hx => ?_) (fun s x hx => ?_) hw _
      · obtain ⟨hslot, hsome⟩ := by simpa only [Bool.and_eq_true, beq_iff_eq] using hx
        obtain ⟨u, hu⟩ := Option.isSome_iff_exists.mp hsome
        rw [keyEffect_up_some s n hn hslot hu, hu]
      · refine congrArg some (keyEffect_up_none s n fun hslot _ => ?_)
        simpa [hslot] using hx
    · exact foldl_view (view := fun s => look none s.keys.up n) (fun s x hx => keyEffect_up_none s n (hn x hx)) _
  · obtain ⟨t, ht, he⟩ := viaCore_next hrun fun s =>
      match s.keys.emptyAt with
      | some n => if n < s.line.convoys then emptySlots s else s
      | none => s
    simp only [hn, if_pos hlt] at he
    have hkeys : t.keys = (emptySlots s).keys := by rw [he]
    refine ⟨t, ht, ?_, ?_⟩
    · rw [hkeys]
      exact he
    · rw [hkeys]
      exact ⟨fun k => ⟨rfl, rfl⟩, rfl, rfl⟩
  · obtain ⟨t, ht, hframe⟩ := reassemblyTimeout_next hrun hc hlt
    obtain ⟨hcount, hrecorded⟩ := reasmDrop_counts (closeCtx s tid.toNat flow.toNat) tid.toNat flow.toNat 4
    have hreasm : t.reasm = (closeCtx s tid.toNat flow.toNat).reasm := by rw [hframe.reasm_eq rfl, reasmDrop_frame.reasm_eq rfl]
    refine ⟨t, ht, ?_, ?_, recorded_congr (hframe.regs_eq rfl) hrecorded, fun x hx hne => ?_⟩
    · rw [findCtx_congr hreasm, findCtx_closeCtx]
    · rw [rd_congr (hframe.regs_eq rfl), hcount]
      rfl
    · rw [hreasm]
      exact List.mem_filter.mpr ⟨hx, by simpa [imp_iff_not_or] using hne⟩
  · obtain ⟨t, ht, he⟩ := viaCore_next hrun registerWaitEff
    simp only [registerWaitEff, hn, if_pos hle] at he
    refine ⟨t, ht, ?_⟩
    rw [he]
    exact ⟨rfl, rfl, rfl⟩

end

section
/-!
The entries of the map (O31): what is counted bad or ignored, the entries that the table's read finds uncorrectable, and admission with its
checks in the order of 05 R303.
-/
namespace Sys2Proof.Machine

/-! ### Counted and recorded -/

/-- The device counts at `a` and records `code` in the line unit; else only the registers `l` have changed. -/
structure Refused (a code : Nat) (l : List Nat) (s t : State) : Prop where
  only : regsOnly s t (a :: l)
  record : recorded s t .line code
  count : rd t a = sat32 ((rd s a).toNat + 1)

theorem Refused.andIntc {a code : Nat} {l : List Nat} {s u t : State} (h : Refused a code l s u) (ht : Frame [.intc] u t) :
    Refused a code l s t :=
  ⟨h.only.andIntc ht, recorded_congr (ht.regs_eq rfl) h.record, (rd_congr (ht.regs_eq rfl) a).trans h.count⟩

theorem regsOnly_bump (s : State) (a : Nat) : regsOnly s (bump s a) [a] := regsOnly_wr s a _

theorem refused_fault {a code : Nat} (s : State) (inst : Nat) (ident : DWord) (ha : a ∉ recordOf .line) (hc : code < 32) :
    Refused a code (recordOf .line) s (fault (bump s a) .line code inst ident) := by
  have hne : (Block.line).base + 4 ≠ a := fun h => ha (h ▸ by decide)
  refine ⟨((regsOnly_bump s a).mono (by simp)).trans ((regsOnly_fault ..).mono (List.subset_cons_self ..)), ?_, ?_⟩
  · exact recorded_fault_after hc (rd_bump_ne _ hne) rfl
  · rw [(regsOnly_fault ..).2 a ha, rd_bump_same]

theorem refused_refuseEntry {a code : Nat} (s : State) (e : Entry) (ha : a ∉ recordOf .line) (hc : code < 32) :
    Refused a code (recordOf .line) s (refuseEntry s a code e) := refused_fault s _ _ ha hc

/-! ### The table as it is read (05 R298) -/

/-- An entry of `f`'s number is among those that the read finds uncorrectable. -/
def lostEntry (ecc : List Nat) (s : State) (f : Entry) : Bool := s.table.any fun g => g.id == f.id && ecc.contains (tableIndex s g)

/-- The entries that the read leaves. -/
def keptEntries (ecc : List Nat) (s : State) : List Entry := s.table.filter fun f => !lostEntry ecc s f

theorem foldl_tableFault_table (l : List (Nat × Entry)) (s : State) :
    (l.foldl tableFault s).table = s.table.filter fun f => !l.any fun x => x.2.id == f.id := by
  induction l generalizing s with
  | nil => simp
  | cons x l ih =>
    have hx : (tableFault s x).table = s.table.filter fun f => f.id != x.2.id := by
      rw [tableFault, fault_frame.table_eq rfl]
      rfl
    rw [List.foldl_cons, ih, hx, List.filter_filter]
    refine List.filter_congr fun f _ => ?_
    rw [List.any_cons, Bool.not_or, Bool.and_comm, bne, show (x.2.id == f.id) = (f.id == x.2.id) from BEq.comm]

theorem tableFaults_table (ecc : List Nat) (s : State) : (tableFaults ecc s).table = keptEntries ecc s := by
  rw [tableFaults, foldl_tableFault_table]
  refine List.filter_congr fun f _ => congrArg not ?_
  rw [List.any_filter, List.any_map]
  exact congrArg (List.any _) (funext fun g => Bool.and_comm ..)

theorem rd_tableFaults (ecc : List Nat) (s : State) {a : Nat} (h : a ∉ recordOf .queue) : rd (tableFaults ecc s) a = rd s a :=
  rd_foldl (fun s x _ => (regsOnly_fault (removeEntry s x.2.id) .queue 1 wholeBlock _).2 a h) s

theorem tableFaults_only (ecc : List Nat) (s : State) :
    regsOnly { s with table := keptEntries ecc s } (tableFaults ecc s) (recordOf .queue) := by
  refine ⟨?_, fun a ha => rd_tableFaults ecc s ha⟩
  rw [← tableFaults_table]
  exact tableFaults_frame.eq_of fun f => by cases f <;> rfl

/-- An entry that is lost is recorded as TABLE_ECC. -/
theorem tableFaults_records {ecc : List Nat} {s : State} (h : ∃ f ∈ s.table, lostEntry ecc s f = true) :
    rbit (tableFaults ecc s) Block.queue.base 1 = true := by
  obtain ⟨f, -, hf⟩ := h
  obtain ⟨g, hg, hlost⟩ := List.any_eq_true.mp hf
  have hmem : (tableIndex s g, g) ∈ (s.table.map fun e => (tableIndex s e, e)).filter fun e => ecc.contains e.1 :=
    List.mem_filter.mpr ⟨List.mem_map.mpr ⟨g, hg, rfl⟩, (Bool.and_eq_true _ _ ▸ hlost).2⟩
  obtain ⟨l, m, he⟩ := List.append_of_mem hmem
  rw [tableFaults, he, List.foldl_append, List.foldl_cons]
  refine (Records.foldl (b := .queue) (l := []) (fun s x => ?_) _).bits (by decide) (rbit_fault_self _ .queue _ _ (by decide))
  exact (Records.of_regs rfl : Records .queue [] s (removeEntry s x.2.id)).trans (records_fault ..)

/-! ### Admission, check by check (05 R303) -/

section
variable (ecc : List Nat) {e : Entry} {s : State}

/-- The checks that do not read the table. -/
structure Timely (s : State) (e : Entry) : Prop where
  long : rfld s R.LINE_BURST_P 0 16 + 160 ≤ e.len
  known : e.kind ≠ .data ∨ aidDefined s e.aid = true
  soon : (hgLead s : Int) ≤ lead (launchAt s e) (reachNow s)
  near : rfld s R.LINE_ADMIT_HORIZON 0 16 = 0 ∨ lead (launchAt s e) (reachNow s) ≤ (rfld s R.LINE_ADMIT_HORIZON 0 16 * (100000 * 65536) : Int)

theorem admission_short (h : ¬rfld s R.LINE_BURST_P 0 16 + 160 ≤ e.len) : admission ecc e s = refuseEntry s R.LINE_CNT_ALLOT_SHORT 18 e :=
  if_pos (Nat.lt_of_not_le h)

theorem admission_undefined (hl : rfld s R.LINE_BURST_P 0 16 + 160 ≤ e.len) (h : ¬(e.kind ≠ .data ∨ aidDefined s e.aid = true)) :
    admission ecc e s = refuseEntry s R.LINE_CNT_ALLOT_UNDEF 17 e := by
  rw [not_or, not_not, Bool.not_eq_true] at h
  unfold admission
  rw [if_neg (Nat.not_lt.2 hl), if_pos (by simp [h])]

theorem admission_late (hl : rfld s R.LINE_BURST_P 0 16 + 160 ≤ e.len) (hk : e.kind ≠ .data ∨ aidDefined s e.aid = true)
    (h : ¬(hgLead s : Int) ≤ lead (launchAt s e) (reachNow s)) : admission ecc e s = refuseEntry s R.LINE_ALLOT_EXPIRED 14 e := by
  unfold admission
  rw [if_neg (Nat.not_lt.2 hl), if_neg (by rcases hk with hk | hk <;> simp [hk]), if_pos (Int.lt_of_not_ge h)]

theorem admission_far (hl : rfld s R.LINE_BURST_P 0 16 + 160 ≤ e.len) (hk : e.kind ≠ .data ∨ aidDefined s e.aid = true)
    (hs : (hgLead s : Int) ≤ lead (launchAt s e) (reachNow s))
    (h : ¬(rfld s R.LINE_ADMIT_HORIZON 0 16 = 0 ∨ lead (launchAt s e) (reachNow s) ≤ (rfld s R.LINE_ADMIT_HORIZON 0 16 * (100000 * 65536) : Int))) :
    admission ecc e s = refuseEntry s R.LINE_CNT_ALLOT_FAR 19 e := by
  rw [not_or] at h
  unfold admission
  rw [if_neg (Nat.not_lt.2 hl), if_neg (by rcases hk with hk | hk <;> simp [hk]), if_neg (Int.not_lt.2 hs),
    if_pos ⟨h.1, Int.lt_of_not_ge h.2⟩]

/-- The table's read comes after the checks of the entry by itself. -/
theorem admission_timely (h : Timely s e) :
    admission ecc e s =
      if (tableFaults ecc s).table.any fun f => overlaps (launchAt s e) e.len (launchAt (tableFaults ecc s) f) f.len then
        refuseEntry (tableFaults ecc s) R.LINE_CNT_ALLOT_OVERLAP 16 e
      else if 65536 ≤ (tableFaults ecc s).table.length then refuseEntry (tableFaults ecc s) R.LINE_CNT_ALLOT_FULL 20 e
      else admitEntry (tableFaults ecc s) e := by
  obtain ⟨hl, hk, hs, hn⟩ := h
  unfold admission
  rw [if_neg (Nat.not_lt.2 hl), if_neg (by rcases hk with hk | hk <;> simp [hk]), if_neg (Int.not_lt.2 hs),
    if_neg fun ⟨h0, hf⟩ => hn.elim h0 (Int.not_le.2 hf)]

theorem launchAt_congr {s t : State} (hl : rd t R.LINE_LOGICAL_REACH = rd s R.LINE_LOGICAL_REACH) (hq : rd t R.LINE_EQD = rd s R.LINE_EQD)
    (e : Entry) : launchAt t e = launchAt s e := by
  unfold launchAt launchNow logicalReach eqdNow rfld
  rw [hl, hq]

/-- The entry overlaps none of those that the read leaves. -/
def Alone (ecc : List Nat) (s : State) (e : Entry) : Prop := ∀ f ∈ keptEntries ecc s, overlaps (launchAt s e) e.len (launchAt s f) f.len = false

theorem tableFaults_overlaps (e : Entry) (s : State) :
    ((tableFaults ecc s).table.any fun f => overlaps (launchAt s e) e.len (launchAt (tableFaults ecc s) f) f.len) = true ↔ ¬Alone ecc s e := by
  have hlaunch := launchAt_congr (rd_tableFaults ecc s (a := R.LINE_LOGICAL_REACH) (by decide)) (rd_tableFaults ecc s (a := R.LINE_EQD) (by decide))
  simp only [hlaunch, tableFaults_table, Alone, List.any_eq_true, not_forall, Bool.not_eq_false]
  exact ⟨fun ⟨f, hf, ho⟩ => ⟨f, hf, ho⟩, fun ⟨f, hf, ho⟩ => ⟨f, hf, ho⟩⟩

theorem admission_overlaps (h : Timely s e) (ho : ¬Alone ecc s e) :
    admission ecc e s = refuseEntry (tableFaults ecc s) R.LINE_CNT_ALLOT_OVERLAP 16 e := by
  rw [admission_timely ecc h, if_pos ((tableFaults_overlaps ecc e s).mpr ho)]

theorem admission_full (h : Timely s e) (ho : Alone ecc s e) (hf : 65536 ≤ (keptEntries ecc s).length) :
    admission ecc e s = refuseEntry (tableFaults ecc s) R.LINE_CNT_ALLOT_FULL 20 e := by
  rw [admission_timely ecc h, if_neg (mt (tableFaults_overlaps ecc e s).mp (not_not_intro ho)), tableFaults_table, if_pos hf]

theorem admission_admits (h : Timely s e) (ho : Alone ecc s e) (hf : (keptEntries ecc s).length < 65536) :
    admission ecc e s = admitEntry (tableFaults ecc s) e := by
  rw [admission_timely ecc h, if_neg (mt (tableFaults_overlaps ecc e s).mp (not_not_intro ho)), tableFaults_table, if_neg (Nat.not_le.2 hf)]

/-- A refusal after the table's read keeps the entries that the read leaves. -/
theorem refused_after_read {a code : Nat} (s : State) (e : Entry) (ha : a ∉ recordOf .line) (hq : a ∉ recordOf .queue) (hc : code < 32) :
    Refused a code (recordOf .line ++ recordOf .queue) { s with table := keptEntries ecc s } (refuseEntry (tableFaults ecc s) a code e) := by
  obtain ⟨honly, hrecord, hcount⟩ := refused_refuseEntry (tableFaults ecc s) e ha hc
  refine ⟨((tableFaults_only ecc s).mono (by simp)).trans (honly.mono (by simp)), ⟨hrecord.1, hrecord.2.1, ?_⟩, ?_⟩
  · rw [hrecord.2.2, rd_tableFaults ecc s (by decide)]
    rfl
  · rw [hcount, rd_tableFaults ecc s hq]
    rfl

/-- The entry joins the table, waiting, with the next number, and is counted. -/
theorem admitEntry_joins (s : State) (e : Entry) :
    (admitEntry s e).table = s.table ++ [{ e with id := s.serial }] ∧ (admitEntry s e).serial = s.serial + 1 ∧
      rd (admitEntry s e) R.LINE_CNT_ALLOT_ADMITTED = sat32 ((rd s R.LINE_CNT_ALLOT_ADMITTED).toNat + 1) ∧
      rd (admitEntry s e) Block.queue.base = rd s Block.queue.base := by
  have hbump : ∀ u : State, u.regs = s.regs →
      rd (bump u R.LINE_CNT_ALLOT_ADMITTED) R.LINE_CNT_ALLOT_ADMITTED = sat32 ((rd s R.LINE_CNT_ALLOT_ADMITTED).toNat + 1) ∧
        rd (bump u R.LINE_CNT_ALLOT_ADMITTED) Block.queue.base = rd s Block.queue.base := fun u hu =>
    ⟨by rw [rd_bump_same, rd_congr hu], by rw [rd_bump_ne _ (by decide), rd_congr hu]⟩
  obtain ⟨hcount, hbase⟩ := hbump { s with table := s.table ++ [{ e with id := s.serial }], serial := s.serial + 1 } rfl
  unfold admitEntry
  dsimp only
  split
  · exact ⟨rfl, rfl, (rd_wr_ne _ _ (by decide)).trans hcount, (rd_wr_ne _ _ (by decide)).trans hbase⟩
  · exact ⟨rfl, rfl, hcount, hbase⟩

/-- A lost entry shows in the queue manager's record whatever admission then answers. -/
theorem admission_records (h : Timely s e) (hl : ∃ f ∈ s.table, lostEntry ecc s f = true) :
    rbit (admission ecc e s) Block.queue.base 1 = true := by
  have hbit := tableFaults_records hl
  have hrefused : ∀ {a code : Nat}, Block.queue.base ≠ a → rbit (refuseEntry (tableFaults ecc s) a code e) Block.queue.base 1 = true := by
    intro a code ha
    rw [refuseEntry, allotFault, rbit_of_rd ((regsOnly_fault ..).2 _ (by decide)), rbit_of_rd (rd_bump_ne _ ha)]
    exact hbit
  rw [admission_timely ecc h]
  split
  · exact hrefused (by decide)
  · split
    · exact hrefused (by decide)
    · rw [rbit_of_rd (admitEntry_joins _ e).2.2.2]
      exact hbit

end

/-! ### The octets of an entry (03 R156-R158) -/

section
variable {ecc : List Nat} {idx : Nat} {o : Octets} {s : State}

theorem mapTake_loading (h : s.mode.mode = .loading) : mapTake ecc idx o s = s := if_pos (by simp [h])

theorem mapTake_erased (h : s.mode.mode ≠ .loading) (ho : whole o = none) :
    Refused R.LINE_CNT_MAP_BAD 7 (recordOf .line) s (mapTake ecc idx o s) := by
  unfold mapTake
  rw [if_neg (by simpa using h), ho]
  exact refused_fault s _ _ (by decide) (by decide)

theorem mapTake_bad {b : Bytes} (h : s.mode.mode ≠ .loading) (ho : whole o = some b) (hb : beAt b 12 2 ≠ (crc16 (slice b 0 12)).toNat) :
    Refused R.LINE_CNT_MAP_BAD 7 (recordOf .line) s (mapTake ecc idx o s) := by
  unfold mapTake
  rw [if_neg (by simpa using h), ho]
  dsimp only
  rw [if_neg hb]
  exact refused_fault s _ _ (by decide) (by decide)

theorem mapTake_good {b : Bytes} (h : s.mode.mode ≠ .loading) (ho : whole o = some b) (hb : beAt b 12 2 = (crc16 (slice b 0 12)).toNat) :
    mapTake ecc idx o s = if mapWanted s (mapFields b).1 (mapFields b).2 then admission ecc (mapFields b).2 s else s := by
  unfold mapTake
  rw [if_neg (by simpa using h), ho]
  exact if_pos hb

/-- The next entry of the map has been taken. -/
def mapNext (s : State) : State := { s with line := { s.line with mapsDone := s.line.mapsDone + 1 } }

theorem mapEntryEff_idle (h : mapTurn s = false) : mapEntryEff ecc s = s := if_pos (by simp [h])

theorem mapEntryEff_turn (h : mapTurn s = true) :
    mapEntryEff ecc s = match bodyOctets s s.line.start (48 + 16 * s.line.mapsDone) 16 with
      | .wait => s
      | .cut => endConvoy s
      | .octets o => mapTake ecc s.line.mapsDone o (mapNext s) := by
  unfold mapEntryEff
  rw [if_neg (by simp [h])]
  rfl

end

/-- Admission of an entry that the substate takes: it is refused by the first check that it fails, or joins the table. -/
theorem admission_cases (ecc : List Nat) (e : Entry) (s u t : State) (hu : u = admission ecc e s) (ht : Frame [.intc] u t) :
    let long := rfld s R.LINE_BURST_P 0 16 + 160 ≤ e.len
    let known := e.kind ≠ .data ∨ aidDefined s e.aid = true
    let soon := (hgLead s : Int) ≤ lead (launchAt s e) (reachNow s)
    let near := rfld s R.LINE_ADMIT_HORIZON 0 16 = 0 ∨ lead (launchAt s e) (reachNow s) ≤ (rfld s R.LINE_ADMIT_HORIZON 0 16 * (100000 * 65536) : Int)
    let read := recordOf .line ++ recordOf .queue
    let kept := { s with table := keptEntries ecc s }
    (¬long → Refused R.LINE_CNT_ALLOT_SHORT 18 (recordOf .line) s t) ∧
    (long → ¬known → Refused R.LINE_CNT_ALLOT_UNDEF 17 (recordOf .line) s t) ∧
    (long → known → ¬soon → Refused R.LINE_ALLOT_EXPIRED 14 (recordOf .line) s t) ∧
    (long → known → soon → ¬near → Refused R.LINE_CNT_ALLOT_FAR 19 (recordOf .line) s t) ∧
    (long → known → soon → near → (∃ f ∈ s.table, lostEntry ecc s f = true) → rbit t Block.queue.base 1 = true) ∧
    (long → known → soon → near → ¬Alone ecc s e → Refused R.LINE_CNT_ALLOT_OVERLAP 16 read kept t) ∧
    (long → known → soon → near → Alone ecc s e → 65536 ≤ (keptEntries ecc s).length → Refused R.LINE_CNT_ALLOT_FULL 20 read kept t) ∧
    (long → known → soon → near → Alone ecc s e → (keptEntries ecc s).length < 65536 →
      t.table = keptEntries ecc s ++ [{ e with id := s.serial }] ∧ t.serial = s.serial + 1 ∧
        rd t R.LINE_CNT_ALLOT_ADMITTED = sat32 ((rd s R.LINE_CNT_ALLOT_ADMITTED).toNat + 1)) := by
  subst hu
  dsimp only
  refine ⟨fun hl => ?_, fun hl hk => ?_, fun hl hk hs => ?_, fun hl hk hs hn => ?_, fun hl hk hs hn hlost => ?_, fun hl hk hs hn ha => ?_,
    fun hl hk hs hn ha hf => ?_, fun hl hk hs hn ha hf => ?_⟩
  · rw [admission_short ecc hl] at ht
    exact (refused_refuseEntry s e (by decide) (by decide)).andIntc ht
  · rw [admission_undefined ecc hl hk] at ht
    exact (refused_refuseEntry s e (by decide) (by decide)).andIntc ht
  · rw [admission_late ecc hl hk hs] at ht
    exact (refused_refuseEntry s e (by decide) (by decide)).andIntc ht
  · rw [admission_far ecc hl hk hs hn] at ht
    exact (refused_refuseEntry s e (by decide) (by decide)).andIntc ht
  · rw [rbit_congr (ht.regs_eq rfl)]
    exact admission_records ecc ⟨hl, hk, hs, hn⟩ hlost
  · rw [admission_overlaps ecc ⟨hl, hk, hs, hn⟩ ha] at ht
    exact (refused_after_read ecc s e (by decide) (by decide) (by decide)).andIntc ht
  · rw [admission_full ecc ⟨hl, hk, hs, hn⟩ ha hf] at ht
    exact (refused_after_read ecc s e (by decide) (by decide) (by decide)).andIntc ht
  · rw [admission_admits ecc ⟨hl, hk, hs, hn⟩ ha hf] at ht
    obtain ⟨htable, hserial, hcount, -⟩ := admitEntry_joins (tableFaults ecc s) e
    have hsame : (tableFaults ecc s).serial = s.serial := tableFaults_frame.serial_eq rfl
    refine ⟨?_, ?_, ?_⟩
    · rw [ht.table_eq rfl, htable, tableFaults_table, hsame]
    · rw [ht.serial_eq rfl, hserial, hsame]
    · rw [rd_congr (ht.regs_eq rfl), hcount, rd_tableFaults ecc s (by decide)]

end Sys2Proof.Machine

open Sys2Proof Sys2Proof.Machine

/-- Settles O31: the turn and the octets of the entry, then admission check by check. -/
theorem mapEntryAdmission : Obligations.MapEntryAdmission := by
  unfold Obligations.MapEntryAdmission
  intro s ecc hrun
  obtain ⟨t, ht, hframe⟩ := viaCore_frame hrun (mapEntryEff ecc)
  refine ⟨t, ht, fun hturn => ?_, fun hturn hgot => ?_, fun hturn hgot => ?_, fun o hturn hgot => ?_⟩
  · rw [mapEntryEff_idle hturn] at hframe
    exact hframe.intcOnly
  · rw [mapEntryEff_turn hturn, hgot] at hframe
    exact hframe.intcOnly
  · rw [mapEntryEff_turn hturn, hgot] at hframe
    exact hframe.intcOnly
  · rw [mapEntryEff_turn hturn, hgot] at hframe
    replace hframe : Frame [.intc] (mapTake ecc s.line.mapsDone o (mapNext s)) t := hframe
    refine ⟨?_, fun hload => ?_, fun hload ho => ?_, fun b hload ho hb => ?_, fun b hload ho hb => ?_⟩
    · exact (hframe.andThen (m := [.intc, .serial, .table, .regs]) rfl mapTake_frame).eq_of fun f => by cases f <;> rfl
    · rw [mapTake_loading (show (mapNext s).mode.mode = .loading from hload)] at hframe
      exact hframe.intcOnly
    · obtain ⟨honly, hrecord, hcount⟩ := (mapTake_erased (show (mapNext s).mode.mode ≠ .loading from hload) ho).andIntc hframe
      exact ⟨honly, hrecord, hcount⟩
    · obtain ⟨honly, hrecord, -⟩ := (mapTake_bad (show (mapNext s).mode.mode ≠ .loading from hload) ho hb).andIntc hframe
      exact ⟨honly, hrecord⟩
    · rw [mapTake_good (show (mapNext s).mode.mode ≠ .loading from hload) ho hb] at hframe
      have hcases (hwant : mapWanted s (mapFields b).1 (mapFields b).2 = true) :=
        admission_cases ecc (mapFields b).2 (mapNext s) _ t rfl (by rwa [if_pos (show mapWanted (mapNext s) _ _ = true from hwant)] at hframe)
      dsimp only at hcases ⊢
      refine ⟨fun hwant => ?_, fun hwant hl => ?_, fun hwant hl hk => ?_, fun hwant hl hk hs => ?_, fun hwant hl hk hs hn => ?_,
        fun hwant hl hk hs hn => ?_, fun hwant hl hk hs hn ha => ?_, fun hwant hl hk hs hn ha hf => ?_, fun hwant => ?_⟩
      · rw [if_neg (ne_true_of_eq_false (show mapWanted (mapNext s) _ _ = false from hwant))] at hframe
        exact hframe.intcOnly
      all_goals obtain ⟨hshort, hundef, hlate, hfar, hlost, hoverlap, hfull, hadmit⟩ := hcases hwant
      · obtain ⟨honly, hrecord, hcount⟩ := hshort hl
        exact ⟨honly, hrecord, hcount⟩
      · obtain ⟨honly, hrecord, hcount⟩ := hundef hl hk
        exact ⟨honly, hrecord, hcount⟩
      · obtain ⟨honly, hrecord, hcount⟩ := hlate hl hk hs
        exact ⟨honly, hrecord, hcount⟩
      · obtain ⟨honly, hrecord, hcount⟩ := hfar hl hk hs hn
        exact ⟨honly, hrecord, hcount⟩
      · exact hlost hl hk hs hn
      · obtain ⟨honly, hrecord, hcount⟩ := hoverlap hl hk hs hn ha
        exact ⟨honly, hrecord, hcount⟩
      · obtain ⟨honly, hrecord, hcount⟩ := hfull hl hk hs hn ha hf
        exact ⟨honly, hrecord, hcount⟩
      · exact hadmit

end

section
/-!
The headgate's registers (O34): the preamble and its transfer (06 R364-R366, 17 R891), the perfect-match table (03 R172), the gasp register (06
R370, R371), and the hand-off deadline (06 R353).
-/
namespace Sys2Proof.Machine

/-! ### Register writes -/

theorem preambleEff_only (n : Fin 16) (v : Word) (s : State) :
    regsOnly { s with gate := { s.gate with pre := s.gate.pre || decide (n.val = 15) } } (preambleEff n v s) [R.LINE_HG_PREAMBLE n] := by
  unfold preambleEff
  dsimp only
  split
  next h => simp only [h, decide_true, Bool.or_true]; exact regsOnly_wr _ _ v
  next h => simp only [h, decide_false, Bool.or_false]; exact regsOnly_wr _ _ v

theorem rd_preambleEff (n : Fin 16) (v : Word) (s : State) : rd (preambleEff n v s) (R.LINE_HG_PREAMBLE n) = v := by
  unfold preambleEff
  dsimp only
  split <;> exact rd_wr_same ..

theorem linePmEff_zero (v : Word) (s : State) : linePmEff 0 v s = s := rfl

theorem linePmEff_only (n : Nat) (v : Word) (s : State) : regsOnly s (linePmEff n v s) [R.LINE_PM n] := by
  unfold linePmEff
  split
  · exact regsOnly_refl ..
  · exact regsOnly_wr ..

theorem rd_linePmEff {n : Nat} (h : n ≠ 0) (v : Word) (s : State) : rd (linePmEff n v s) (R.LINE_PM n) &&& 0x80000FFF = v &&& 0x80000FFF := by
  unfold linePmEff
  rw [if_neg h, rd_wrField_same, merge_and_rw]

/-- Matching goes by the table in force and the own ID. -/
theorem pmIndex_congr {s t : State} (hline : t.line.pmLive = s.line.pmLive) (htid : rd t R.LINE_TID = rd s R.LINE_TID) (tid : Nat) :
    pmIndex t tid = pmIndex s tid := by
  unfold pmIndex pmHits pmEntry ownId rbit rfld
  rw [hline, htid]

theorem gaspCtlEff_only (v : Word) (s : State) : regsOnly s (gaspCtlEff v s) [R.LINE_GASP_CTL] := by
  unfold gaspCtlEff
  dsimp only
  split
  · exact regsOnly_wr ..
  · exact (regsOnly_wr ..).trans (regsOnly_wr ..)

/-- A write takes ARM, and leaves PENDING where ARM is 1. -/
theorem rbit_gaspCtlEff (v : Word) (s : State) :
    rbit (gaspCtlEff v s) R.LINE_GASP_CTL 31 = bit v 31 ∧ rbit (gaspCtlEff v s) R.LINE_GASP_CTL 30 = (bit v 31 && rbit s R.LINE_GASP_CTL 30) := by
  have h31 : bit (merge (rd s R.LINE_GASP_CTL) v 0x80000000 0x20000000) 31 = bit v 31 := by simp [merge, bit]
  have h30 : bit (merge (rd s R.LINE_GASP_CTL) v 0x80000000 0x20000000) 30 = bit (rd s R.LINE_GASP_CTL) 30 := by simp [merge, bit]
  unfold gaspCtlEff rbit
  dsimp only
  cases hv : bit v 31
  · rw [if_neg (by simp), rd_wr_same, rd_wrField_same, bit_setBit _ _ _ _ (by decide), bit_setBit _ _ _ _ (by decide), h31, hv]
    exact ⟨rfl, rfl⟩
  · rw [if_pos rfl, rd_wrField_same, h31, h30, hv, Bool.true_and]
    exact ⟨rfl, rfl⟩

/-! ### The preamble transfer -/

theorem preambleTransferEff_runs {s : State} (hp : s.gate.pre = true) (hh : burstHigh s = false) (hn : launchNear s = false) :
    preambleTransferEff s = emit { s with gate := { s.gate with pre := false } } (.preamble (preambleEdges s)) :=
  if_pos (by simp [hp, hh, hn])

/-- No launch instant falls within 2 us, neither of a burst nor of an entry that has not been launched. -/
theorem launchNear_eq_false {s : State} (hb : ∀ b ∈ s.gate.bursts, 2000 * 65536 < lead b.launch (reachNow s))
    (he : ∀ e ∈ s.table, e.stage = .launched ∨ lead (launchAt s e) (reachNow s) < 0 ∨ 2000 * 65536 < lead (launchAt s e) (reachNow s)) :
    launchNear s = false := by
  unfold launchNear
  rw [Bool.or_eq_false_iff, List.any_eq_false, List.any_eq_false]
  refine ⟨fun b hmem => by simpa using hb b hmem, fun e hmem => ?_⟩
  simp only [Bool.and_eq_true, bne_iff_ne, decide_eq_true_eq, not_and, not_le, and_imp]
  intro hs h0
  rcases he e hmem with h | h | h
  · exact absurd h hs
  · exact absurd h (Int.not_lt.2 h0)
  · exact h

theorem preambleEdges_spec (s : State) :
    (preambleEdges s).length = 256 ∧ ∀ k, k < 256 → (preambleEdges s)[k]? = some
      (rbit s (R.LINE_HG_PREAMBLE (2 * k / 32)) (31 - 2 * k % 32), rbit s (R.LINE_HG_PREAMBLE ((2 * k + 1) / 32)) (31 - (2 * k + 1) % 32)) := by
  unfold preambleEdges
  refine ⟨by simp, fun k hk => ?_⟩
  rw [List.getElem?_map, List.getElem?_range hk]
  rfl

/-! ### The hand-off deadline -/

/-- An entry's burst that the headgate builds, with the reports of this instant. -/
def fallbackBurst (s : State) (e : Entry) : Burst :=
  { entry := e, launch := launchAt s e, kind := .fallback, tract := aidTract s e.aid, reports := reportsOf s e.aid }

theorem gateBurst_fallback (e : Entry) (s : State) : gateBurst .fallback e s = addBurst s (fallbackBurst s e) := rfl

/-- An abort of tract `t` adds bursts to the headgate, takes none away, and leaves the tract's fault record as it is. -/
structure AbortKept (t : Nat) (s u : State) : Prop where
  bursts : s.gate.bursts ⊆ u.gate.bursts
  record : rd u (Block.tract t).base = rd s (Block.tract t).base

section
variable {t : Nat} {s u v : State}

theorem AbortKept.of_gate (hg : u.gate = s.gate) (hr : rd u (Block.tract t).base = rd s (Block.tract t).base) : AbortKept t s u :=
  ⟨by rw [hg]; exact List.Subset.refl _, hr⟩

theorem AbortKept.of_eq (hg : u.gate = s.gate) (hr : u.regs = s.regs) : AbortKept t s u := .of_gate hg (rd_congr hr _)

theorem AbortKept.trans (h : AbortKept t s u) (h' : AbortKept t u v) : AbortKept t s v :=
  ⟨List.Subset.trans h.bursts h'.bursts, h'.record.trans h.record⟩

theorem AbortKept.foldl {α : Type} {g : State → α → State} (hg : ∀ s x, AbortKept t s (g s x)) (l : List α) (s : State) :
    AbortKept t s (l.foldl g s) := by
  induction l generalizing s with
  | nil => exact .of_eq rfl rfl
  | cons x l ih => exact (hg s x).trans (ih _)

theorem abortKept_setDrover (s : State) (n : Nat) (d : Drover) : AbortKept t s (setDrover s n d) :=
  .of_eq (setDrover_frame.gate_eq rfl) (setDrover_frame.regs_eq rfl)

theorem abortKept_gateBurst (k : BurstKind) (e : Entry) (s : State) : AbortKept t s (gateBurst k e s) :=
  ⟨List.subset_append_left .., rd_congr (gateBurst_frame.regs_eq rfl) _⟩

theorem abortKept_enterReloading (n : Nat) (s : State) : AbortKept t s (enterReloading n s) :=
  (abortKept_setDrover s n _).trans (.foldl (fun s e => abortKept_gateBurst .held e s) _ _)

theorem abortKept_toIdle (n : Nat) (s : State) : AbortKept t s (toIdle n s) := by
  unfold toIdle
  dsimp only
  split
  · exact (abortKept_setDrover s n _).trans (abortKept_enterReloading ..)
  · exact abortKept_setDrover ..

theorem rd_ledgerAdd_ne (s : State) (t k n : Nat) {a : Nat} (ho : a ≠ R.TRACT_LEDGER_OVF t) (hp : a ≠ R.PERF_EVENT) :
    rd (ledgerAdd s t k n) a = rd s a := by
  have hset (d : Drover) : rd (setDrover s t d) a = rd s a := rd_congr (setDrover_frame.regs_eq rfl) a
  unfold ledgerAdd
  dsimp only
  split
  · exact hset _
  · rw [wrapped, rd_event_ne _ _ hp, rd_event_ne _ _ ho, hset]

theorem rd_chargeOpen_ne (s : State) (t k : Nat) {a : Nat} (ho : a ≠ R.TRACT_LEDGER_OVF t) (hp : a ≠ R.PERF_EVENT) :
    rd (chargeOpen s t k) a = rd s a := by
  rw [chargeOpen, rd_ledgerAdd_ne _ _ _ _ ho hp]
  exact rd_congr (setDrover_frame.regs_eq rfl) a

theorem rd_addSample_ne (t aid : Nat) (carried : Bool) (s : State) (g : Tag) {a : Nat} (hl : a ≠ R.PERF_SAMPLE_LOST) (hp : a ≠ R.PERF_EVENT) :
    rd (addSample t aid carried s g) a = rd s a := by
  unfold addSample
  split
  · rfl
  · rw [rd_event_ne _ _ hp, rd_bump_ne _ hl]

theorem rd_closeAccount_ne (s : State) (t : Nat) (carried : Bool) {a : Nat} (ho : a ≠ R.TRACT_LEDGER_OVF t) (hl : a ≠ R.PERF_SAMPLE_LOST)
    (hp : a ≠ R.PERF_EVENT) : rd (closeAccount s t carried) a = rd s a := by
  rw [closeAccount, rd_chargeOpen_ne _ _ _ ho hp, flushTags, rd_foldl fun s g _ => rd_addSample_ne _ _ _ s g hl hp]
  exact rd_congr (setDrover_frame.regs_eq rfl) a

/-- The record of a tract is none of its counters' overflow registers and none of the registers of PERF. -/
theorem tract_base_ne (t : Nat) : (Block.tract t).base ≠ R.TRACT_LEDGER_OVF t ∧ (Block.tract t).base ≠ R.PERF_SAMPLE_LOST ∧
    (Block.tract t).base ≠ R.PERF_EVENT ∧ (Block.tract t).base < 0x2010000 + t * 0x200000 := by
  unfold Block.base R.TRACT_LEDGER_OVF R.PERF_SAMPLE_LOST R.PERF_EVENT
  dsimp only
  omega

theorem abortKept_closeAccount (s : State) (carried : Bool) : AbortKept t s (closeAccount s t carried) := by
  obtain ⟨hovf, hlost, hevent, -⟩ := tract_base_ne t
  exact .of_gate (closeAccount_frame.gate_eq rfl) (rd_closeAccount_ne s t carried hovf hlost hevent)

theorem abortKept_chargeOpen (s : State) (k : Nat) : AbortKept t s (chargeOpen s t k) := by
  obtain ⟨hovf, -, hevent, -⟩ := tract_base_ne t
  exact .of_gate (chargeOpen_frame.gate_eq rfl) (rd_chargeOpen_ne s t k hovf hevent)

theorem abortKept_abortEvent (s : State) : AbortKept t s (tractEvent s t .abort 1) := by
  obtain ⟨-, -, hevent, hbelow⟩ := tract_base_ne t
  exact .of_gate (tractEvent_frame.gate_eq rfl) (rd_tractEvent_below s .abort hbelow hevent)

theorem abortKept_takeAbort (s : State) : AbortKept t s (takeAbort t s) := by
  have hstart := (abortKept_abortEvent s).trans (t := t)
    (.of_eq (cancelReservations_frame.gate_eq rfl) (cancelReservations_frame.regs_eq rfl) : AbortKept t _ (cancelReservations t _))
  unfold takeAbort
  dsimp only
  refine hstart.trans (.trans ?_ (abortKept_toIdle ..))
  generalize cancelReservations t (tractEvent s t .abort 1) = s1
  cases (drover s1 t).settled with
  | none =>
    split
    · exact (abortKept_closeAccount s1 false).trans (abortKept_gateBurst ..)
    · exact abortKept_closeAccount s1 false
  | some ok =>
    split
    · exact abortKept_chargeOpen s1 _
    · exact abortKept_chargeOpen s1 _

theorem abortKept_sendAbort (a : Abort) (s : State) : AbortKept t s (sendAbort a t s) := by
  unfold sendAbort
  dsimp only
  split
  · split
    · exact (abortKept_setDrover s t _).trans (abortKept_takeAbort _)
    · exact abortKept_setDrover ..
  · exact .of_eq rfl rfl

end

/-! ### The three cases of the deadline -/

/-- The hand-off deadline is missed: it is recorded for the tract, and the governor is told. -/
theorem droverLate_records (t inst : Nat) (e : Entry) {s u : State} (h : u.regs = s.regs) :
    recorded s (droverLate t inst e u) (.tract t) 13 :=
  recorded_fault_after (by decide) (rd_congr ((setPace_frame.regs_eq rfl).trans h) _) rfl

section
variable {t : Nat} {e : Entry} {s : State}

/-- The entry in assembly whose deadline has come, its assembly not settled and not given up but for a reload. -/
structure Overdue (t : Nat) (e : Entry) (s : State) : Prop where
  entry : (drover s t).entry = some e
  runs : (drover s t).st = .running
  abort : (drover s t).abort = none ∨ (drover s t).abort = some .reload
  unsettled : (drover s t).settled = none
  past : pastHandoff s e = true

theorem handoffEff_assembly (h : Overdue t e s) :
    handoffEff t s = sendAbort .deadline t (droverLate t (drover s t).pc e (gateBurst .fallback e
      (setDrover s t { drover s t with abort := none }))) := by
  obtain ⟨he, hst, ha, hset, hp⟩ := h
  unfold handoffEff
  rcases ha with ha | ha <;> simp [he, hst, ha, hset, hp, Option.filter]

theorem handoffEff_faulted (he : (drover s t).entry = none) (h : (drover s t).faulted.find? (pastHandoff s) = some e) :
    handoffEff t s = setDrover (gateBurst .fallback e s) t
      { drover s t with faulted := (drover s t).faulted.filter fun x => x.id != e.id } := by
  unfold handoffEff
  simp [he, h, Option.filter]

theorem handoffEff_waiting (he : (drover s t).entry = none) (hf : (drover s t).faulted = [])
    (h : earliest s ((drover s t).waiting.filter (pastHandoff s)) = some e) :
    handoffEff t s = droverLate t wholeBlock e (setDrover (gateBurst .fallback e s) t
      { drover s t with waiting := (drover s t).waiting.filter fun x => x.id != e.id }) := by
  unfold handoffEff
  simp [he, hf, h, Option.filter]

/-- The entry's fallback burst joins the headgate and DROVER_LATE is recorded, before the assembly is given up. -/
theorem handoffEff_assembly_late (h : Overdue t e s) :
    ∃ b ∈ (handoffEff t s).gate.bursts, b.kind = .fallback ∧ b.entry = e ∧ b.launch = launchAt s e ∧
      rbit (handoffEff t s) (Block.tract t).base 13 = true := by
  rw [handoffEff_assembly h]
  obtain ⟨hbursts, hrecord⟩ := abortKept_sendAbort (t := t) .deadline
    (droverLate t (drover s t).pc e (gateBurst .fallback e (setDrover s t { drover s t with abort := none })))
  refine ⟨fallbackBurst (setDrover s t { drover s t with abort := none }) e, hbursts ?_, rfl, rfl, rfl, ?_⟩
  · rw [droverLate_frame.gate_eq rfl, gateBurst_fallback]
    exact List.mem_append_right _ List.mem_cons_self
  · rw [rbit_of_rd hrecord]
    exact (droverLate_records _ _ _ rfl).1

end

end Sys2Proof.Machine

open Sys2Proof Sys2Proof.Machine

/-- Settles O34: each register by its effect, the transfer by its guard, the deadline by its three cases. -/
theorem headgateRegisters : Obligations.HeadgateRegisters := by
  unfold Obligations.HeadgateRegisters
  refine ⟨fun s n v ho => ⟨?_, ?_, ?_⟩, fun s hrun hp hh hb he => ?_, fun s t e hrun he hst ha hset hp => ?_, fun s t e hrun he hf => ?_,
    fun s t e hrun he hf hw => ?_⟩
  · obtain ⟨t, ht, honly, hregs⟩ := viaBar_regsOnly ho (preambleEff_only n v s)
    exact ⟨t, ht, by rw [rd_congr hregs, rd_preambleEff], honly⟩
  · obtain ⟨t, ht, honly, hregs⟩ := viaBar_regsOnly ho (linePmEff_only n v s)
    have hline : t.line = s.line := by rw [honly.1]
    refine ⟨t, ht, honly, pmIndex_congr (by rw [hline]) (honly.2 _ ?_), fun hn => ?_, fun hn => ?_⟩
    · have := n.isLt
      simp only [List.mem_singleton, R.LINE_TID, R.LINE_PM]
      omega
    · rw [rd_congr hregs, hn, linePmEff_zero]
    · rw [rd_congr hregs, rd_linePmEff hn]
  · obtain ⟨t, ht, honly, hregs⟩ := viaBar_regsOnly ho (gaspCtlEff_only v s)
    obtain ⟨harm, hpending⟩ := rbit_gaspCtlEff v s
    refine ⟨t, ht, honly, by rw [rbit_congr hregs, harm], fun hv => ?_, fun hv => ?_⟩
    · rw [gaspPending, rbit_congr hregs, hpending, hv, Bool.false_and]
    · rw [gaspPending, rbit_congr hregs, hpending, hv, Bool.true_and]
      rfl
  · obtain ⟨t, ht, hsame⟩ := viaCore_next hrun preambleTransferEff
    rw [preambleTransferEff_runs hp hh (launchNear_eq_false hb he)] at hsame
    have hwire : t.wire = s.wire ++ [.preamble (preambleEdges s)] := by rw [hsame]; rfl
    refine ⟨t, ht, ?_, preambleEdges s, hwire, preambleEdges_spec s⟩
    rw [hwire]
    exact hsame
  · obtain ⟨u, hu, hframe⟩ := viaCore_frame hrun (handoffEff t)
    obtain ⟨b, hb, hkind, hentry, hlaunch, hbit⟩ := handoffEff_assembly_late ⟨he, hst, ha, hset, hp⟩
    exact ⟨u, b, hu, hframe.gate_eq rfl ▸ hb, hkind, hentry, hlaunch, (rbit_congr (hframe.regs_eq rfl) ..).trans hbit,
      (hframe.queues_eq rfl).trans (handoffEff_frame.queues_eq rfl), (hframe.table_eq rfl).trans (handoffEff_frame.table_eq rfl)⟩
  · obtain ⟨u, hu, hframe⟩ := viaCore_frame hrun (handoffEff t)
    rw [handoffEff_faulted he hf] at hframe
    refine ⟨u, fallbackBurst s e, hu, ?_, rfl, rfl, ?_, ?_⟩
    · rw [hframe.gate_eq rfl, setDrover_frame.gate_eq rfl]
      rfl
    · rw [drover, hframe.drovers_eq rfl, setDrover, look_put_same]
    · exact (hframe.regs_eq rfl).trans ((setDrover_frame.regs_eq rfl).trans (gateBurst_frame.regs_eq rfl))
  · obtain ⟨u, hu, hframe⟩ := viaCore_frame hrun (handoffEff t)
    rw [handoffEff_waiting he hf hw] at hframe
    refine ⟨u, fallbackBurst s e, hu, ?_, rfl, rfl, recorded_congr (hframe.regs_eq rfl) ?_, ?_⟩
    · rw [hframe.gate_eq rfl, droverLate_frame.gate_eq rfl, setDrover_frame.gate_eq rfl]
      rfl
    · exact droverLate_records _ _ _ ((setDrover_frame.regs_eq rfl).trans (gateBurst_frame.regs_eq rfl))
    · rw [drover, hframe.drovers_eq rfl, droverLate_frame.drovers_eq rfl, setDrover, look_put_same]

end

section
/-!
The convoy header (O25): frames under reassembly that are abandoned (03 R183), what a measurement of a time domain reads and changes (11 R616-R618),
the LINE_RTT of a convoy start (04 R219-R223), and the header accepted or not (03 R148-R155).
-/
namespace Sys2Proof.Machine

/-! ### Abandoned frames -/

theorem records_reasmDrop (s : State) (tid flow reason : Nat) : Records .line [R.LINE_CNT_REASM_DROP] s (reasmDrop s tid flow reason) := by
  unfold reasmDrop
  exact (records_bump s (by decide)).trans (records_fault ..)

theorem records_abandonAll (s : State) : Records .line [R.LINE_CNT_REASM_DROP] s (abandonAll s) := by
  have hclear : Records .line [R.LINE_CNT_REASM_DROP] s { s with reasm := { s.reasm with ctxs := [] } } := .of_regs rfl
  unfold abandonAll
  exact hclear.trans (.foldl (g := fun s (c : Context) => reasmDrop s c.tid c.flow 5) (fun s c => records_reasmDrop s c.tid c.flow 5) _)

theorem abandonAll_reasm (s : State) : (abandonAll s).reasm = { s.reasm with ctxs := [] } := by
  unfold abandonAll
  exact foldl_view (view := State.reasm) (fun _ _ _ => reasmDrop_frame.reasm_eq rfl) _

/-! ### What a measurement reads of its domain -/

/-- The states agree in domain `d`: its count and servo, and its registers. -/
structure SameServo (d : Bool) (s u : State) : Prop where
  dom_eq : dom u d = dom s d
  rd_eq : ∀ {a : Nat}, R.TIME_CNT (b2n d) ≤ a → a < R.TIME_CNT (b2n d) + 0x100 → rd u a = rd s a

section
variable {d : Bool} {s u v : State}

theorem SameServo.refl (s : State) : SameServo d s s := ⟨rfl, fun _ _ => rfl⟩

theorem SameServo.symm (h : SameServo d s u) : SameServo d u s := ⟨h.dom_eq.symm, fun hl hu => (h.rd_eq hl hu).symm⟩

theorem SameServo.trans (h : SameServo d s u) (h' : SameServo d u v) : SameServo d s v :=
  ⟨h'.dom_eq.trans h.dom_eq, fun hl hu => (h'.rd_eq hl hu).trans (h.rd_eq hl hu)⟩

theorem SameServo.of_eq (ht : u.time = s.time) (hr : u.regs = s.regs) : SameServo d s u :=
  ⟨by unfold dom; rw [ht], fun _ _ => rd_congr hr _⟩

theorem SameServo.incr (h : SameServo d s u) : domIncr u d = domIncr s d := by
  unfold domIncr rd64
  rw [h.rd_eq (by simp only [R.TIME_CNT, R.TIME_INCR]; omega) (by simp only [R.TIME_CNT, R.TIME_INCR]; omega),
    h.rd_eq (by simp only [R.TIME_CNT, R.TIME_INCR]; omega) (by simp only [R.TIME_CNT, R.TIME_INCR]; omega)]

theorem SameServo.asym (h : SameServo d s u) : rd u (R.TIME_ASYM (b2n d)) = rd s (R.TIME_ASYM (b2n d)) :=
  h.rd_eq (by simp only [R.TIME_CNT, R.TIME_ASYM]; omega) (by simp only [R.TIME_CNT, R.TIME_ASYM]; omega)

theorem SameServo.resid (h : SameServo d s u) : rd u (R.TIME_RESID (b2n d)) = rd s (R.TIME_RESID (b2n d)) :=
  h.rd_eq (by simp only [R.TIME_CNT, R.TIME_RESID]; omega) (by simp only [R.TIME_CNT, R.TIME_RESID]; omega)

theorem SameServo.rfld_ctl (h : SameServo d s u) (lo len : Nat) : rfld u (R.TIME_SERVO_CTL (b2n d)) lo len = rfld s (R.TIME_SERVO_CTL (b2n d)) lo len := by
  unfold rfld
  rw [h.rd_eq (by simp only [R.TIME_CNT, R.TIME_SERVO_CTL]; omega) (by simp only [R.TIME_CNT, R.TIME_SERVO_CTL]; omega)]

theorem SameServo.rfld_thresh (h : SameServo d s u) (lo len : Nat) : rfld u (R.TIME_THRESH (b2n d)) lo len = rfld s (R.TIME_THRESH (b2n d)) lo len := by
  unfold rfld
  rw [h.rd_eq (by simp only [R.TIME_CNT, R.TIME_THRESH]; omega) (by simp only [R.TIME_CNT, R.TIME_THRESH]; omega)]

theorem SameServo.rfld_lock (h : SameServo d s u) (lo len : Nat) : rfld u (R.TIME_LOCK (b2n d)) lo len = rfld s (R.TIME_LOCK (b2n d)) lo len := by
  unfold rfld
  rw [h.rd_eq (by simp only [R.TIME_CNT, R.TIME_LOCK]; omega) (by simp only [R.TIME_CNT, R.TIME_LOCK]; omega)]

theorem SameServo.setDom (h : SameServo d s u) (x : Domain) : SameServo d (setDom s d x) (setDom u d x) :=
  ⟨by rw [dom_setDom_same, dom_setDom_same], fun hl hu => h.rd_eq hl hu⟩

theorem SameServo.wr (h : SameServo d s u) (a : Nat) (w : Word) : SameServo d (wr s a w) (wr u a w) :=
  ⟨h.dom_eq, fun hl hu => by rw [rd_wr, rd_wr, h.rd_eq hl hu]⟩

theorem SameServo.setIncr (h : SameServo d s u) (w : BitVec 48) : SameServo d (setIncr s d w) (setIncr u d w) := (h.wr _ _).wr _ _

end

/-! ### What a measurement changes -/

/-- Only domains of `ds`, the increments of those, events, steps and scheduled actions of the time unit differ. -/
structure ServoMoves (ds : List Bool) (s t : State) : Prop where
  servos : ∀ d, d ∉ ds → SameServo d s t
  resid : ∀ d, rd t (R.TIME_RESID (b2n d)) = rd s (R.TIME_RESID (b2n d))
  rd_out : ∀ {a : Nat}, a < 0x400000 ∨ 0x500000 ≤ a → rd t a = rd s a
  reach : t.time.reach = s.time.reach
  reachSet : t.time.reachSet = s.time.reachSet

section
variable {ds : List Bool} {d : Bool} {s t u : State}

theorem ServoMoves.refl (s : State) : ServoMoves ds s s := ⟨fun _ _ => .refl s, fun _ => rfl, fun _ => rfl, rfl, rfl⟩

theorem ServoMoves.trans (h : ServoMoves ds s t) (h' : ServoMoves ds t u) : ServoMoves ds s u :=
  ⟨fun d hd => (h.servos d hd).trans (h'.servos d hd), fun d => (h'.resid d).trans (h.resid d), fun ha => (h'.rd_out ha).trans (h.rd_out ha),
    h'.reach.trans h.reach, h'.reachSet.trans h.reachSet⟩

theorem b2n_le_one (d : Bool) : b2n d ≤ 1 := by cases d <;> decide

theorem b2n_ne {c d : Bool} (h : c ≠ d) : b2n c ≠ b2n d := by
  have hall : ∀ c d : Bool, c ≠ d → b2n c ≠ b2n d := by decide
  exact hall c d h

theorem servoMoves_setDom (s : State) (x : Domain) : ServoMoves [d] s (setDom s d x) :=
  ⟨fun _ hc => ⟨Bool.eq_not_of_ne (List.ne_of_not_mem_cons hc) ▸ dom_setDom_other s d x, fun _ _ => rfl⟩, fun _ => rfl, fun _ => rfl, rfl, rfl⟩

theorem servoMoves_setIncr (s : State) (v : BitVec 48) : ServoMoves [d] s (setIncr s d v) := by
  have hd := b2n_le_one d
  refine ⟨fun c hc => ⟨rfl, fun hl hu => ?_⟩, fun c => ?_, fun ha => ?_, rfl, rfl⟩
  · have hne := b2n_ne (List.ne_of_not_mem_cons hc)
    have hcle := b2n_le_one c
    simp only [R.TIME_CNT] at hl hu
    refine rd_wr64_ne _ _ ?_ ?_ <;> simp only [R.TIME_INCR] <;> omega
  · have hcle := b2n_le_one c
    refine rd_wr64_ne _ _ ?_ ?_ <;> simp only [R.TIME_INCR, R.TIME_RESID] <;> omega
  · refine rd_wr64_ne _ _ ?_ ?_ <;> simp only [R.TIME_INCR] <;> omega

/-- A register of the time unit that is not a domain's. -/
theorem servoMoves_wr (s : State) {a : Nat} (v : Word) (h : 0x400000 ≤ a ∧ a < 0x400100 ∨ 0x400300 ≤ a ∧ a < 0x500000) :
    ServoMoves ds s (wr s a v) := by
  refine ⟨fun c _ => ⟨rfl, fun hl hu => ?_⟩, fun c => ?_, fun ha => ?_, rfl, rfl⟩
  · have hcle := b2n_le_one c
    simp only [R.TIME_CNT] at hl hu
    exact rd_wr_ne _ _ (by omega)
  · have hcle := b2n_le_one c
    exact rd_wr_ne _ _ (by simp only [R.TIME_RESID]; omega)
  · exact rd_wr_ne _ _ (by omega)

theorem servoMoves_event (s : State) (i : Nat) : ServoMoves ds s (event s R.TIME_EVENT i) := servoMoves_wr s _ (by decide)

theorem ServoMoves.of_time (ht : t.time.doms = s.time.doms) (hr : t.regs = s.regs) (h : t.time.reach = s.time.reach)
    (hs : t.time.reachSet = s.time.reachSet) : ServoMoves ds s t :=
  ⟨fun d _ => ⟨by unfold dom; rw [ht], fun _ _ => rd_congr hr _⟩, fun _ => rd_congr hr _, fun _ => rd_congr hr _, h, hs⟩

theorem servoMoves_outStep (s : State) (e : Int) : ServoMoves ds s (outStep s e) :=
  (ServoMoves.of_time rfl rfl rfl rfl : ServoMoves ds s { s with time := { s.time with
    steps := s.time.steps + 1
    stepLog := (s.now, e) :: s.time.stepLog.filter fun x => decide (s.now < x.1 + 312500) } }).trans (servoMoves_event ..)

theorem servoMoves_schedLate (s : State) {n : Nat} (hn : n < 16) : ServoMoves ds s (schedLate s n) := by
  have hset : ServoMoves ds s (setSched s n .late) := .of_time rfl rfl rfl rfl
  exact (hset.trans (servoMoves_wr _ _ (by simp only [R.TIME_SCHED_CTL]; omega))).trans (servoMoves_event ..)

theorem servoMoves_lateCheck (old s : State) : ServoMoves ds s (lateCheck old s) := by
  unfold lateCheck
  have hall : ∀ n ∈ List.range 16, n < 16 := fun n hn => List.mem_range.1 hn
  generalize List.range 16 = l at hall
  induction l generalizing s with
  | nil => exact .refl s
  | cons n l ih =>
    refine ServoMoves.trans ?_ (ih _ fun m hm => hall m (List.mem_cons_of_mem _ hm))
    dsimp only
    split
    · exact servoMoves_schedLate s (hall n List.mem_cons_self)
    · exact .refl s

theorem servoMoves_enterHoldover (s : State) (c : Nat) : ServoMoves [d] s (enterHoldover s d c) :=
  ((servoMoves_setIncr s _).trans (servoMoves_setDom _ _)).trans (servoMoves_event ..)

theorem servoMoves_tune (s : State) (e : Int) : ServoMoves [d] s (tune s d e) := (servoMoves_setIncr s _).trans (servoMoves_setDom _ _)

theorem servoMoves_enterLock (s : State) : ServoMoves [d] s (enterLock s d) := (servoMoves_setDom s _).trans (servoMoves_event ..)

theorem servoMoves_stepCount (s : State) (e : Int) : ServoMoves [d] s (stepCount s d e) := by
  have hstep : ServoMoves [d] s (event (setDom s d { dom s d with
      cnt := clockAdd (dom s d).cnt e, lockRun := 0, hist := (domIncr s d :: (dom s d).hist).take 1024 }) R.TIME_EVENT (1 + b2n d)) :=
    (servoMoves_setDom s _).trans (servoMoves_event ..)
  unfold stepCount
  refine .trans ?_ (servoMoves_lateCheck ..)
  split
  · exact hstep.trans (servoMoves_outStep ..)
  · exact hstep

theorem servoMoves_measureAcquire (s : State) (e : Int) : ServoMoves [d] s (measureAcquire s d e) := by
  have htune (x : Domain) : ServoMoves [d] s (tune (setDom s d x) d e) := (servoMoves_setDom s x).trans (servoMoves_tune ..)
  unfold measureAcquire
  split
  · exact servoMoves_stepCount s e
  · dsimp only
    generalize (if decide (mag e ≤ nsUnits (rfld s (R.TIME_LOCK (b2n d)) 16 16)) = true then (dom s d).lockRun + 1 else 0) = run
    split
    · exact (htune _).trans (servoMoves_enterLock _)
    · exact htune _

theorem servoMoves_measureNoInput (s : State) (e : Int) : ServoMoves [d] s (measureNoInput s d e) := by
  unfold measureNoInput
  split
  · exact ((servoMoves_setDom s _).trans (servoMoves_tune ..)).trans (servoMoves_enterLock _)
  · exact servoMoves_setDom s _

/-- A measurement shows its residual and moves its own domain alone. -/
theorem servoMoves_measure (s : State) (e : Int) (h : (dom s d).st ≠ .off) :
    ServoMoves [d] (wr s (R.TIME_RESID (b2n d)) (sixteenths e)) (measure s d e) := by
  have hset := servoMoves_setDom (d := d) (wr s (R.TIME_RESID (b2n d)) (sixteenths e))
    { dom s d with meas := Nat.min ((dom s d).meas + 1) 65535, idle := 0 }
  unfold measure
  dsimp only
  split
  next hoff => exact absurd hoff h
  · exact hset.trans (servoMoves_measureAcquire ..)
  · split
    · exact hset.trans (servoMoves_enterHoldover ..)
    · exact hset.trans (servoMoves_tune ..)
  · split
    · exact hset.trans (servoMoves_measureNoInput ..)
    · exact hset

end

/-! ### A measurement depends on its domain alone -/

section
variable {d : Bool} {s u : State}

theorem SameServo.event (h : SameServo d s u) (i : Nat) : SameServo d (event s R.TIME_EVENT i) (event u R.TIME_EVENT i) :=
  ((servoMoves_event (ds := []) s i).servos d List.not_mem_nil).symm.trans (h.trans ((servoMoves_event (ds := []) u i).servos d List.not_mem_nil))

theorem SameServo.lateCheck (h : SameServo d s u) (s0 u0 : State) : SameServo d (lateCheck s0 s) (lateCheck u0 u) :=
  ((servoMoves_lateCheck (ds := []) s0 s).servos d List.not_mem_nil).symm.trans
    (h.trans ((servoMoves_lateCheck (ds := []) u0 u).servos d List.not_mem_nil))

theorem sameServo_outStepIf (p : Prop) [Decidable p] (s : State) (e : Int) : SameServo d s (if p then outStep s e else s) := by
  split
  · exact (servoMoves_outStep (ds := []) s e).servos d List.not_mem_nil
  · exact .refl s

theorem SameServo.enterHoldover (h : SameServo d s u) (c : Nat) : SameServo d (enterHoldover s d c) (enterHoldover u d c) := by
  have hincr : heldIncr u d = heldIncr s d := by unfold heldIncr; rw [h.dom_eq, h.incr]
  unfold Machine.enterHoldover
  rw [hincr, h.dom_eq]
  exact ((h.setIncr _).setDom _).event _

theorem SameServo.tune (h : SameServo d s u) (e : Int) : SameServo d (tune s d e) (tune u d e) := by
  unfold Machine.tune
  simp only [h.dom_eq, h.rfld_ctl]
  exact (h.setIncr _).setDom _

theorem SameServo.enterLock (h : SameServo d s u) : SameServo d (enterLock s d) (enterLock u d) := by
  unfold Machine.enterLock
  rw [h.dom_eq]
  exact (h.setDom _).event _

theorem SameServo.stepCount (h : SameServo d s u) (e : Int) : SameServo d (stepCount s d e) (stepCount u d e) := by
  unfold Machine.stepCount
  simp only [h.dom_eq, h.incr]
  exact ((sameServo_outStepIf _ _ e).symm.trans (((h.setDom _).event _).trans (sameServo_outStepIf _ _ e))).lateCheck _ _

theorem SameServo.measureAcquire (h : SameServo d s u) (e : Int) : SameServo d (measureAcquire s d e) (measureAcquire u d e) := by
  unfold Machine.measureAcquire
  simp only [h.dom_eq, h.rfld_thresh, h.rfld_lock]
  split
  · exact h.stepCount e
  · have htune (x : Domain) := (h.setDom x).tune e
    generalize (if decide (mag e ≤ nsUnits (rfld s (R.TIME_LOCK (b2n d)) 16 16)) = true then (dom s d).lockRun + 1 else 0) = run
    split
    · exact (htune _).enterLock
    · exact htune _

theorem SameServo.measureNoInput (h : SameServo d s u) (e : Int) : SameServo d (measureNoInput s d e) (measureNoInput u d e) := by
  unfold Machine.measureNoInput
  simp only [h.dom_eq, h.incr, h.rfld_thresh]
  split
  · exact ((h.setDom _).tune e).enterLock
  · exact h.setDom _

theorem SameServo.measure (h : SameServo d s u) (e : Int) : SameServo d (measure s d e) (measure u d e) := by
  have hset (x : Domain) := (h.wr (R.TIME_RESID (b2n d)) (sixteenths e)).setDom x
  unfold Machine.measure
  simp only [h.dom_eq, h.rfld_thresh]
  split
  · exact h
  · exact (hset _).measureAcquire e
  · split
    · exact (hset _).enterHoldover 2
    · exact (hset _).tune e
  · split
    · exact (hset _).measureNoInput e
    · exact hset _

theorem rd_measure_resid (e : Int) (h : (dom s d).st ≠ .off) : rd (measure s d e) (R.TIME_RESID (b2n d)) = sixteenths e := by
  rw [(servoMoves_measure s e h).resid d, rd_wr_same]

end

end Sys2Proof.Machine

end

section
/-!
The header of a found convoy (O25): the LINE_RTT in force at its start (04 R219-R223), what an accepted header changes (03 R150, 11 R610, R616), and
the convoy whose header is not accepted (03 R153).
-/
namespace Sys2Proof.Machine

/-! ### LINE_RTT at a convoy start -/

/-- The states agree in what L and EQD come from. -/
structure SameRange (s u : State) : Prop where
  line : u.line = s.line
  reach : rd u R.LINE_LOGICAL_REACH = rd s R.LINE_LOGICAL_REACH
  eqd : rd u R.LINE_EQD = rd s R.LINE_EQD

section
variable {s u v : State}

theorem SameRange.of_eq (hl : u.line = s.line) (hr : u.regs = s.regs) : SameRange s u := ⟨hl, rd_congr hr _, rd_congr hr _⟩

theorem SameRange.symm (h : SameRange s u) : SameRange u s := ⟨h.line.symm, h.reach.symm, h.eqd.symm⟩

theorem SameRange.trans (h : SameRange s u) (h' : SameRange u v) : SameRange s v :=
  ⟨h'.line.trans h.line, h'.reach.trans h.reach, h'.eqd.trans h.eqd⟩

theorem SameRange.wr (h : SameRange s u) (a : Nat) (w : Word) : SameRange (wr s a w) (wr u a w) :=
  ⟨h.line, by rw [rd_wr, rd_wr, h.reach], by rw [rd_wr, rd_wr, h.eqd]⟩

/-- A register that is neither L's nor the EQD's. -/
theorem sameRange_wr (s : State) {a : Nat} (w : Word) (hl : a ≠ R.LINE_LOGICAL_REACH) (he : a ≠ R.LINE_EQD) : SameRange s (wr s a w) :=
  ⟨rfl, rd_wr_ne _ _ hl.symm, rd_wr_ne _ _ he.symm⟩

theorem sameRange_fault (s : State) (code inst : Nat) (ident : DWord) : SameRange s (fault s .line code inst ident) :=
  ⟨fault_frame.line_eq rfl, rd_fault_out _ _ _ _ _ (by decide), rd_fault_out _ _ _ _ _ (by decide)⟩

theorem SameRange.logicalReach (h : SameRange s u) : logicalReach u = logicalReach s := by
  unfold Machine.logicalReach rfld
  rw [h.reach]

theorem SameRange.eqdNow (h : SameRange s u) : eqdNow u = eqdNow s := by
  unfold Machine.eqdNow rfld
  rw [h.eqd]

theorem SameRange.lineRtt (h : SameRange s u) : lineRtt u = lineRtt s := by
  unfold Machine.lineRtt ranged rbit
  rw [h.logicalReach, h.eqdNow, h.reach, h.eqd]

theorem isDue_congr {α : Type} (h : u.line = s.line) (w : Option (Waiting α)) : isDue u w = isDue s w := by
  unfold isDue
  rw [h]

theorem SameRange.loadRoute (h : SameRange s u) : SameRange (loadRoute s) (loadRoute u) := by
  unfold Machine.loadRoute
  rw [h.line, isDue_congr h.line]
  split
  next l p hdue =>
    have hset : SameRange { s with line := { s.line with route := none } } { u with line := { s.line with route := none } } :=
      ⟨rfl, h.reach, h.eqd⟩
    have hwr := (hset.wr R.LINE_LOGICAL_REACH (setBit (l.setWidth 32) 31 true)).wr R.LINE_BURST_P p
    have hevent (t : State) : SameRange t (event t R.LINE_RANGE_EVENT 4) := sameRange_wr _ _ (by decide) (by decide)
    dsimp only
    split <;> split
    · exact (hevent _).symm.trans (hwr.trans (hevent _))
    · exact (hevent _).symm.trans hwr
    · exact hwr.trans (hevent _)
    · exact hwr
  · exact h

theorem SameRange.loadEqd (h : SameRange s u) : SameRange (loadEqd s) (loadEqd u) := by
  unfold Machine.loadEqd
  rw [h.line, isDue_congr h.line, h.logicalReach]
  split
  next e r hdue =>
    have hset : SameRange { s with line := { s.line with eqd := none } } { u with line := { s.line with eqd := none } } :=
      ⟨rfl, h.reach, h.eqd⟩
    dsimp only
    split
    · exact (sameRange_fault _ ..).symm.trans (hset.trans (sameRange_fault _ ..))
    · have hwr := hset.wr R.LINE_EQD (setBit (setBit (e.setWidth 32) 30 true) 31 r)
      have hload (t : State) : SameRange t (autoService (event t R.LINE_RANGE_EVENT 1)) :=
        (sameRange_wr _ _ (by decide) (by decide)).trans (.of_eq (autoService_frame.line_eq rfl) (autoService_frame.regs_eq rfl))
      split
      · exact (hload _).symm.trans (hwr.trans (hload _))
      · exact hwr
  · exact h

theorem SameRange.checkEqd {s0 u0 : State} (h0 : SameRange s0 u0) (h : SameRange s u) : SameRange (checkEqd s0 s) (checkEqd u0 u) := by
  unfold Machine.checkEqd
  rw [isDue_congr h0.line, h0.line, h.logicalReach, h.eqdNow, show rbit u R.LINE_EQD 30 = rbit s R.LINE_EQD 30 from rbit_of_rd h.eqd]
  split
  · have hclear : SameRange (clearEqd s) (clearEqd u) := by
      unfold clearEqd
      rw [h.eqd]
      exact h.wr _ _
    exact (sameRange_fault _ ..).symm.trans (hclear.trans (sameRange_fault _ ..))
  · exact h

theorem servoMoves_rttStepDomain (s : State) (d : Bool) : ServoMoves [d] s (rttStepDomain s d) := by
  unfold rttStepDomain
  split
  · split
    · exact .refl s
    · exact servoMoves_enterHoldover s 3
    · exact servoMoves_enterHoldover s 3
    · exact servoMoves_setDom s _
  · exact .refl s

theorem lineRtt_reportStep (old s : State) : lineRtt (reportStep old s) = lineRtt s := by
  refine SameRange.lineRtt ?_
  have hstep (t : State) : SameRange t (rttStepServos t) := by
    have hdom (t : State) (d : Bool) : SameRange t (rttStepDomain t d) :=
      ⟨rttStepDomain_frame.line_eq rfl, (servoMoves_rttStepDomain t d).rd_out (by decide), (servoMoves_rttStepDomain t d).rd_out (by decide)⟩
    exact (hdom _ _).trans (hdom _ _)
  unfold reportStep
  split
  · have hwr (w : Word) : SameRange s (wr s R.LINE_RTT_STEP w) := sameRange_wr _ _ (by decide) (by decide)
    dsimp only
    split
    · exact ((hwr _).trans (sameRange_wr _ _ (by decide) (by decide))).trans (hstep _)
    · exact hwr _
  · exact .of_eq rfl rfl

/-- LINE_RTT of a convoy start comes from L, the EQD and what waits for the start. -/
theorem SameRange.lineRtt_rangeEffects (h : SameRange s u) : Machine.lineRtt (rangeEffects u) = Machine.lineRtt (rangeEffects s) := by
  rw [rangeEffects, rangeEffects, lineRtt_reportStep, lineRtt_reportStep]
  exact (h.checkEqd h.loadRoute.loadEqd).lineRtt

end

/-! ### The reach counter and the domains at an accepted header -/

/-- The reach counter has taken reach time `rt`: no domain, and no register outside the time unit, changes. -/
structure ReachTaken (rt : DWord) (s t : State) : Prop where
  servos : ∀ d, SameServo d s t
  rd_out : ∀ {a : Nat}, a < 0x400000 ∨ 0x500000 ≤ a → rd t a = rd s a
  reachSet : t.time.reachSet = true
  moved : s.time.reachSet = true → t.time.reach = s.time.reach + (toClock rt - s.line.tcReach)

theorem clockAdd_clockDiff (c a b : Clock) : clockAdd c (clockDiff a b) = c + (a - b) := by
  unfold clockAdd clockDiff
  rw [BitVec.ofInt_toInt]

/-- The reach counter moved by a header's residual, with the frequency lock's count. -/
def reachAdvanced (rho : Int) (flock : Nat) (s : State) : State :=
  draw1 { s with time := { s.time with reach := clockAdd s.time.reach rho, flock := flock } }

theorem sameServo_of_doms (d : Bool) {s u : State} (hd : u.time.doms = s.time.doms) (hr : u.regs = s.regs) : SameServo d s u :=
  ⟨by unfold dom; rw [hd], fun _ _ => rd_congr hr _⟩

theorem sameServo_reachAdvanced (d : Bool) (rho : Int) (n : Nat) (s : State) : SameServo d s (reachAdvanced rho n s) :=
  sameServo_of_doms d rfl rfl

theorem reachAdvanced_time (rho : Int) (n : Nat) (s : State) :
    (reachAdvanced rho n s).time = { s.time with reach := clockAdd s.time.reach rho, flock := n } := rfl

theorem rd_reachAdvanced (rho : Int) (n : Nat) (s : State) (a : Nat) : rd (reachAdvanced rho n s) a = rd s a := rfl

/-- The free increment and the residual in their registers. -/
def reachReported (rho : Int) (s : State) (v : DWord) : State := wr (wr64 s R.TIME_REACH_INCR v) R.TIME_REACH_RESID (sixteenths rho)

theorem servoMoves_reachReported (rho : Int) (s : State) (v : DWord) : ServoMoves [] s (reachReported rho s v) :=
  ((servoMoves_wr s _ (by decide)).trans (servoMoves_wr _ _ (by decide))).trans (servoMoves_wr _ _ (by decide))

theorem reachConvoy_of_set (rt : DWord) {s : State} (h : s.time.reachSet = true) :
    ∃ n v, reachConvoy rt s =
      if nsUnits 1000 < mag (clockDiff (toClock rt) s.line.tcReach)
      then event (reachReported (clockDiff (toClock rt) s.line.tcReach) (reachAdvanced (clockDiff (toClock rt) s.line.tcReach) n s) v) R.TIME_EVENT 0
      else reachReported (clockDiff (toClock rt) s.line.tcReach) (reachAdvanced (clockDiff (toClock rt) s.line.tcReach) n s) v := by
  unfold reachConvoy
  rw [if_pos h]
  exact ⟨_, _, rfl⟩

theorem ReachTaken.of_advanced {rt : DWord} {n : Nat} {s t : State} (hset : s.time.reachSet = true)
    (ht : ServoMoves [] (reachAdvanced (clockDiff (toClock rt) s.line.tcReach) n s) t) : ReachTaken rt s t := by
  refine ⟨fun d => (sameServo_reachAdvanced d _ n s).trans (ht.servos d List.not_mem_nil), fun ha => ?_, ?_, fun _ => ?_⟩
  · rw [ht.rd_out ha, rd_reachAdvanced]
  · rw [ht.reachSet, reachAdvanced_time, hset]
  · rw [ht.reach, reachAdvanced_time, ← clockAdd_clockDiff]

/-- The reach counter set for the first time. -/
def reachFirst (c : Clock) (s : State) : State := { s with time := { s.time with reach := c, reachSet := true } }

theorem ReachTaken.of_first {rt : DWord} (c : Clock) {s : State} (h : s.time.reachSet = false) : ReachTaken rt s (reachFirst c s) :=
  ⟨fun d => sameServo_of_doms d rfl rfl, fun _ => rd_congr rfl _, rfl, fun hset => absurd (h.symm.trans hset) (by decide)⟩

theorem reachConvoy_of_unset (rt : DWord) {s : State} (h : s.time.reachSet = false) : reachConvoy rt s = reachFirst (toClock rt + sinceTc s) s := by
  unfold reachConvoy
  rw [h, if_neg Bool.false_ne_true, reachFirst]

theorem reachConvoy_takes (rt : DWord) (s : State) : ReachTaken rt s (reachConvoy rt s) := by
  cases hset : s.time.reachSet with
  | false =>
    rw [reachConvoy_of_unset rt hset]
    exact .of_first _ hset
  | true =>
    obtain ⟨n, v, he⟩ := reachConvoy_of_set rt hset
    rw [he]
    split
    · exact .of_advanced hset ((servoMoves_reachReported ..).trans (servoMoves_event ..))
    · exact .of_advanced hset (servoMoves_reachReported ..)

/-- The residual of a domain's measurement at an accepted header (11 R616). -/
def convoyResidual (s : State) (d : Bool) (rtt : Nat) (t : DWord) : Int :=
  clockDiff (clockAdd (toClock t) (((rtt : Int) + (rd s (R.TIME_ASYM (b2n d))).toInt) * 2 ^ 35)) (if d then s.line.tcB else s.line.tcA)

/-- The domain takes a measurement: it is present, valid and not OFF, and LINE_RTT is not 0. -/
def Measures (s : State) (d valid : Bool) (rtt : Nat) : Prop := hasDomain s d = true ∧ valid = true ∧ (dom s d).st ≠ .off ∧ rtt ≠ 0

section
variable {d valid : Bool} {t : DWord} {s u : State}

theorem measureConvoy_of_measures (h : Measures s d valid (lineRtt (rangeEffects s))) :
    measureConvoy d valid t s = measure s d (convoyResidual s d (lineRtt (rangeEffects s)) t) := by
  obtain ⟨hd, hv, hst, hr⟩ := h
  exact if_pos (by simp [hd, hv, hst, hr])

theorem measureConvoy_of_not (h : ¬Measures s d valid (lineRtt (rangeEffects s))) : measureConvoy d valid t s = s := by
  refine if_neg fun hc => h ?_
  simpa [Measures, and_assoc] using hc

theorem servoMoves_wrResid (s : State) (w : Word) {c : Bool} (hc : c ≠ d) : SameServo c s (wr s (R.TIME_RESID (b2n d)) w) := by
  have hne := b2n_ne hc
  have hcle := b2n_le_one c
  have hdle := b2n_le_one d
  refine ⟨rfl, fun hl hu => rd_wr_ne _ _ ?_⟩
  simp only [R.TIME_CNT, R.TIME_RESID] at hl hu ⊢
  omega

/-- A measurement leaves the other domain, the reach counter and every register outside the time unit as they are. -/
structure MeasureKept (d : Bool) (s t : State) : Prop where
  servo : SameServo (!d) s t
  rd_out : ∀ {a : Nat}, a < 0x400000 ∨ 0x500000 ≤ a → rd t a = rd s a
  reach : t.time.reach = s.time.reach
  reachSet : t.time.reachSet = s.time.reachSet

theorem measureConvoy_kept : MeasureKept d s (measureConvoy d valid t s) := by
  by_cases h : Measures s d valid (lineRtt (rangeEffects s))
  · obtain ⟨hservos, -, hout, hreach, hset⟩ := servoMoves_measure s (convoyResidual s d (lineRtt (rangeEffects s)) t) h.2.2.1
    rw [measureConvoy_of_measures h]
    have hne : (!d) ≠ d := by cases d <;> decide
    refine ⟨(servoMoves_wrResid s _ hne).trans (hservos _ (by simp)), fun ha => (hout ha).trans (rd_wr_ne _ _ ?_), hreach, hset⟩
    have hdle := b2n_le_one d
    simp only [R.TIME_RESID]
    omega
  · rw [measureConvoy_of_not h]
    exact ⟨.refl s, fun _ => rfl, rfl, rfl⟩

theorem measureConvoy_line : (measureConvoy d valid t s).line = s.line := by
  by_cases h : Measures s d valid (lineRtt (rangeEffects s))
  · rw [measureConvoy_of_measures h, measure_frame.line_eq rfl]
  · rw [measureConvoy_of_not h]

theorem measureConvoy_mode : (measureConvoy d valid t s).mode = s.mode := by
  by_cases h : Measures s d valid (lineRtt (rangeEffects s))
  · rw [measureConvoy_of_measures h, measure_frame.mode_eq rfl]
  · rw [measureConvoy_of_not h]

theorem measureConvoy_fuses : (measureConvoy d valid t s).fuses = s.fuses := measureConvoy_frame.fuses_eq rfl

/-- What a domain takes from a header depends on the domain and on L and EQD alone. -/
structure SameMeasure (d : Bool) (s u : State) : Prop where
  servo : SameServo d s u
  range : SameRange s u
  fuses : u.fuses = s.fuses

theorem SameMeasure.residual (h : SameMeasure d s u) (rtt : Nat) (t : DWord) : convoyResidual u d rtt t = convoyResidual s d rtt t := by
  unfold convoyResidual
  rw [h.servo.asym, h.range.line]

theorem SameMeasure.measures (h : SameMeasure d s u) (valid : Bool) (rtt : Nat) : Measures u d valid rtt ↔ Measures s d valid rtt := by
  unfold Measures hasDomain hasB unitPresent
  rw [h.servo.dom_eq, h.fuses]

theorem SameMeasure.measureConvoy (h : SameMeasure d s u) (valid : Bool) (t : DWord) :
    (Measures s d valid (lineRtt (rangeEffects s)) →
      SameServo d (measure s d (convoyResidual s d (lineRtt (rangeEffects s)) t)) (measureConvoy d valid t u)) ∧
    (¬Measures s d valid (lineRtt (rangeEffects s)) → SameServo d s (measureConvoy d valid t u)) := by
  have hrtt := h.range.lineRtt_rangeEffects
  have hiff := h.measures valid (lineRtt (rangeEffects s))
  refine ⟨fun hm => ?_, fun hm => ?_⟩
  · rw [measureConvoy_of_measures (by rw [hrtt]; exact hiff.mpr hm), hrtt, h.residual]
    exact h.servo.measure _
  · rw [measureConvoy_of_not (by rw [hrtt]; exact mt hiff.mp hm)]
    exact h.servo

end

/-! ### An accepted header -/

/-- A found convoy whose header is not accepted. -/
theorem convoyHeaderEff_bad {s : State} {p : Nat} (hf : s.line.found = some p)
    (h : ∀ o, bodyOctets (convoyStart p s) p 0 36 = .octets o → headerAccepted o = none) :
    ∃ o, convoyHeaderEff s = convoyBad o (convoyStart p s) := by
  unfold convoyHeaderEff
  rw [hf]
  dsimp only
  split
  next o ho =>
    rw [h o ho]
    exact ⟨o, rfl⟩
  · exact ⟨[], rfl⟩

theorem convoyHeaderEff_good {s : State} {p : Nat} {o : Octets} {b : Bytes} (hf : s.line.found = some p)
    (ho : bodyOctets (convoyStart p s) p 0 36 = .octets o) (hb : headerAccepted o = some b) :
    convoyHeaderEff s = convoyGood b (convoyStart p s) := by
  unfold convoyHeaderEff
  rw [hf]
  dsimp only
  rw [ho]
  dsimp only
  rw [hb]

/-- A gap in the numbers is counted and recorded, and abandons what is under reassembly. -/
theorem records_convoyGap (number : Word) (s : State) :
    Records .line [R.LINE_CNT_REASM_DROP, R.LINE_CNT_CONVOY_GAP] s (convoyGap number s) := by
  unfold convoyGap
  dsimp only
  split
  · refine ((records_abandonAll s).mono (by simp)).trans (.trans ?_ (records_fault ..))
    exact (records_bump _ (by decide)).mono (by simp)
  · exact .of_regs rfl

/-- The convoy is counted and its number kept. -/
def convoyCounted (number : Word) (s : State) : State := wr (bump (convoyGap number s) R.LINE_CNT_CONVOY) R.LINE_CONVOY_LAST number

theorem convoyCounted_frame {number : Word} {s : State} : Frame [.reasm, .intc, .regs] s (convoyCounted number s) :=
  wr_frame.andThen rfl (bump_frame.andThen rfl convoyGap_frame)

theorem rd_convoyCounted_ne (number : Word) (s : State) {a : Nat} (h : a ∉ [R.LINE_CNT_REASM_DROP, R.LINE_CNT_CONVOY_GAP])
    (hr : a ∉ recordOf .line) (hc : a ≠ R.LINE_CNT_CONVOY) (hl : a ≠ R.LINE_CONVOY_LAST) : rd (convoyCounted number s) a = rd s a := by
  rw [convoyCounted, rd_wr_ne _ _ hl, rd_bump_ne _ hc, (records_convoyGap number s).rd_out h hr]

theorem rd_convoyCounted (number : Word) (s : State) : rd (convoyCounted number s) R.LINE_CONVOY_LAST = number ∧
    rd (convoyCounted number s) R.LINE_CNT_CONVOY = sat32 ((rd s R.LINE_CNT_CONVOY).toNat + 1) := by
  refine ⟨rd_wr_same .., ?_⟩
  rw [convoyCounted, rd_wr_ne _ _ (by decide), rd_bump_same, (records_convoyGap number s).rd_out (by decide) (by decide)]

theorem convoyCounted_low (number : Word) (s : State) {a : Nat} (h : a < 0x500000) : rd (convoyCounted number s) a = rd s a := by
  refine rd_convoyCounted_ne number s ?_ ?_ ?_ ?_ <;>
    simp [recordOf, Block.base, R.LINE_CNT_REASM_DROP, R.LINE_CNT_CONVOY_GAP, R.LINE_CNT_CONVOY, R.LINE_CONVOY_LAST] <;> omega

/-- The state when the domains take their measurements. -/
def convoyReached (b : Bytes) (s : State) : State :=
  reachConvoy (BitVec.ofNat 64 (beAt b 4 8)) (convoyCounted (BitVec.ofNat 32 (beAt b 0 4)) s)

/-- Whether the header calls the domain valid, and the domain's time in it. -/
def headerValid (b : Bytes) (d : Bool) : Bool := (b.getD 31 0).getLsbD (if d then 6 else 7)

def headerTime (b : Bytes) (d : Bool) : DWord := BitVec.ofNat 64 (beAt b (if d then 20 else 12) 8)

/-- The state after both domains have taken theirs. -/
def convoyMeasured (b : Bytes) (s : State) : State :=
  measureConvoy true (headerValid b true) (headerTime b true)
    (measureConvoy false (headerValid b false) (headerTime b false) (convoyReached b s))

theorem convoyGood_eq (b : Bytes) (s : State) :
    convoyGood b s = if aligned (convoyLayout b (convoyMeasured b s)) || periodIn (convoyLayout b (convoyMeasured b s))
      then convoyLayout b (convoyMeasured b s) else truncateConvoy (convoyLayout b (convoyMeasured b s)) := rfl

section
variable (b : Bytes) (s : State)

theorem convoyReached_takes : ReachTaken (BitVec.ofNat 64 (beAt b 4 8)) (convoyCounted (BitVec.ofNat 32 (beAt b 0 4)) s) (convoyReached b s) :=
  reachConvoy_takes ..

theorem convoyReached_frame : Frame [.free, .time, .reasm, .intc, .regs] s (convoyReached b s) :=
  reachConvoy_frame.andThen rfl (convoyCounted_frame.weaken rfl)

theorem sameMeasure_convoyReached (d : Bool) : SameMeasure d s (convoyReached b s) := by
  have ht := convoyReached_takes b s
  have hcounted : SameServo d s (convoyCounted (BitVec.ofNat 32 (beAt b 0 4)) s) := by
    refine ⟨by unfold dom; rw [convoyCounted_frame.time_eq rfl], fun hl hu => convoyCounted_low _ s ?_⟩
    have hd := b2n_le_one d
    simp only [R.TIME_CNT] at hu
    omega
  refine ⟨hcounted.trans (ht.servos d), ⟨(convoyReached_frame b s).line_eq rfl, ?_, ?_⟩, (convoyReached_frame b s).fuses_eq rfl⟩
  · rw [ht.rd_out (by decide), rd_convoyCounted_ne _ _ (by decide) (by decide) (by decide) (by decide)]
  · rw [ht.rd_out (by decide), rd_convoyCounted_ne _ _ (by decide) (by decide) (by decide) (by decide)]

theorem SameMeasure.after {d : Bool} {s u : State} (h : SameMeasure d s u) (v : Bool) (t : DWord) :
    SameMeasure d s (Machine.measureConvoy (!d) v t u) := by
  have hk : MeasureKept (!d) u (Machine.measureConvoy (!d) v t u) := measureConvoy_kept
  have hservo : SameServo d u (Machine.measureConvoy (!d) v t u) := by
    have hs := hk.servo
    rwa [Bool.not_not] at hs
  refine ⟨h.servo.trans hservo, h.range.trans ⟨measureConvoy_line, hk.rd_out (by decide), hk.rd_out (by decide)⟩,
    measureConvoy_fuses.trans h.fuses⟩

/-- Each domain takes what the header says of it, and not the other's. -/
theorem convoyMeasured_servo (d : Bool) :
    (Measures s d (headerValid b d) (lineRtt (rangeEffects s)) →
      SameServo d (measure s d (convoyResidual s d (lineRtt (rangeEffects s)) (headerTime b d))) (convoyMeasured b s)) ∧
    (¬Measures s d (headerValid b d) (lineRtt (rangeEffects s)) → SameServo d s (convoyMeasured b s)) := by
  have hreached := sameMeasure_convoyReached b s d
  cases d with
  | true => exact (hreached.after (headerValid b false) (headerTime b false)).measureConvoy _ _
  | false =>
    obtain ⟨hyes, hno⟩ := hreached.measureConvoy (headerValid b false) (headerTime b false)
    have hkept : MeasureKept true _ (convoyMeasured b s) := measureConvoy_kept
    exact ⟨fun hm => (hyes hm).trans hkept.servo, fun hm => (hno hm).trans hkept.servo⟩

/-- Outside the time unit only the count, the number and a gap show. -/
theorem rd_convoyMeasured {a : Nat} (h : a < 0x400000 ∨ 0x500000 ≤ a) :
    rd (convoyMeasured b s) a = rd (convoyCounted (BitVec.ofNat 32 (beAt b 0 4)) s) a :=
  ((measureConvoy_kept (d := true)).rd_out h).trans (((measureConvoy_kept (d := false)).rd_out h).trans ((convoyReached_takes b s).rd_out h))

theorem convoyMeasured_reach : (convoyMeasured b s).time.reach = (convoyReached b s).time.reach ∧ (convoyMeasured b s).time.reachSet = true :=
  ⟨(measureConvoy_kept (d := true)).reach.trans (measureConvoy_kept (d := false)).reach,
    ((measureConvoy_kept (d := true)).reachSet.trans (measureConvoy_kept (d := false)).reachSet).trans (convoyReached_takes b s).reachSet⟩

theorem convoyMeasured_frame : Frame [.free, .mode, .time, .line, .reasm, .intc, .regs] s (convoyMeasured b s) :=
  measureConvoy_frame.andThen rfl (measureConvoy_frame.andThen rfl ((convoyReached_frame b s).weaken rfl))

theorem convoyMeasured_line : (convoyMeasured b s).line = s.line :=
  measureConvoy_line.trans (measureConvoy_line.trans ((convoyReached_frame b s).line_eq rfl))

theorem convoyMeasured_mode : (convoyMeasured b s).mode = s.mode :=
  measureConvoy_mode.trans (measureConvoy_mode.trans ((convoyReached_frame b s).mode_eq rfl))

/-- The convoy is laid out, and truncated where what is still to come of it is cut off. -/
theorem convoyGood_laid : Frame [.line, .intc, .regs] (convoyMeasured b s) (convoyGood b s) ∧
    LineRecords (convoyMeasured b s) (convoyGood b s) ∧
    ∃ c, (convoyGood b s).line = { (convoyLayout b (convoyMeasured b s)).line with trunc := c } := by
  have hlayout : LineRecords (convoyMeasured b s) (convoyLayout b (convoyMeasured b s)) := .of_regs (convoyLayout_frame.regs_eq rfl)
  rw [convoyGood_eq]
  split
  · exact ⟨convoyLayout_frame.weaken rfl, hlayout, _, rfl⟩
  · exact ⟨truncateConvoy_frame.andThen rfl (convoyLayout_frame.weaken rfl), hlayout.trans (lineRecords_truncateConvoy _), truncateConvoy_line _⟩

end

/-! ### A header that is not accepted -/

theorem convoyBad_spec (o : Octets) (s : State) :
    (convoyBad o s).line = { s.line with lock := false } ∧ (convoyBad o s).reasm.ctxs = [] ∧ (convoyBad o s).time = s.time ∧
      rd (convoyBad o s) R.LINE_CNT_CONVOY_BAD = sat32 ((rd s R.LINE_CNT_CONVOY_BAD).toNat + 1) ∧
      rbit (convoyBad o s) Block.line.base 4 = true := by
  have hline : (fault (bump (abandonAll s) R.LINE_CNT_CONVOY_BAD) .line 4 wholeBlock (BitVec.ofNat 64 (beAt (blanked o) 0 4))).line = s.line := by
    rw [fault_frame.line_eq rfl, bump_frame.line_eq rfl, abandonAll_frame.line_eq rfl]
  refine ⟨?_, ?_, convoyBad_frame.time_eq rfl, ?_, ?_⟩
  · unfold convoyBad
    dsimp only
    rw [hline]
  · change (fault (bump (abandonAll s) R.LINE_CNT_CONVOY_BAD) .line 4 wholeBlock _).reasm.ctxs = []
    rw [fault_frame.reasm_eq rfl, bump_frame.reasm_eq rfl, abandonAll_reasm]
  · change rd (fault (bump (abandonAll s) R.LINE_CNT_CONVOY_BAD) .line 4 wholeBlock _) R.LINE_CNT_CONVOY_BAD = _
    rw [rd_fault_out _ _ _ _ _ (by decide), rd_bump_same, (records_abandonAll s).rd_out (by decide) (by decide)]
  · exact rbit_fault_self _ .line _ _ (by decide)

/-- No entry, message or segment is taken while no convoy is in progress. -/
theorem convoy_parts_idle {t : State} (hrun : running t = true) (h : t.line.live = false) (ecc : List Nat) :
    exec (.mapEntry ecc) t = .next (settle t) ∧ exec .hem t = .next (settle t) ∧ exec .segment t = .next (settle t) := by
  have hmap : mapEntryEff ecc t = t := mapEntryEff_idle (by simp [mapTurn, h])
  have hhem : messageEff isSite t = t := if_pos (by simp [hemTurn, h])
  have hseg : segmentEff t = t := if_pos (by simp [segTurn, h])
  refine ⟨(viaCore_running hrun _).trans ?_, (viaCore_running hrun _).trans ?_, (viaCore_running hrun _).trans ?_⟩
  · rw [hmap]
  · rw [hhem]
  · rw [hseg]

theorem running_congr {s t : State} (hp : t.power = s.power) (hm : t.mode = s.mode) : running t = running s := by
  unfold running
  rw [hp, hm]

end Sys2Proof.Machine

open Sys2Proof Sys2Proof.Machine

/-- Settles O25: no convoy found, a header that is accepted, and one that is not. -/
theorem convoyHeaderJudged : Obligations.ConvoyHeaderJudged := by
  unfold Obligations.ConvoyHeaderJudged
  refine ⟨fun s hrun hf => ?_, fun s p o b hrun hf ho hb => ?_, fun s p hrun hf hnone => ?_⟩
  · obtain ⟨t, ht, hframe⟩ := viaCore_frame hrun convoyHeaderEff
    have he : convoyHeaderEff s = s := by unfold convoyHeaderEff; rw [hf]
    rw [he] at hframe
    exact ⟨t, ht, hframe.intcOnly⟩
  · obtain ⟨t, ht, hframe⟩ := viaCore_frame hrun convoyHeaderEff
    rw [convoyHeaderEff_good hf ho hb] at hframe
    obtain ⟨hlaid, hrecords, c, hline⟩ := convoyGood_laid b (convoyStart p s)
    have htime : t.time = (convoyMeasured b (convoyStart p s)).time := (hframe.time_eq rfl).trans (hlaid.time_eq rfl)
    have hreg {a : Nat} (h : a < Block.line.base ∨ Block.line.base + 0x20 ≤ a) : rd t a = rd (convoyMeasured b (convoyStart p s)) a :=
      (rd_congr (hframe.regs_eq rfl) a).trans (hrecords.rd_out h)
    have hline' : t.line = { (convoyLayout b (convoyMeasured b (convoyStart p s))).line with trunc := c } := (hframe.line_eq rfl).trans hline
    rw [convoyLayout, convoyMeasured_line] at hline'
    obtain ⟨hlast, hcount⟩ := rd_convoyCounted (BitVec.ofNat 32 (beAt b 0 4)) (convoyStart p s)
    obtain ⟨hreach, hset⟩ := convoyMeasured_reach b (convoyStart p s)
    have hsame (d : Bool) : SameServo d (convoyMeasured b (convoyStart p s)) t := by
      refine ⟨by unfold dom; rw [htime], fun _ hu => hreg (.inl ?_)⟩
      have hd := b2n_le_one d
      simp only [R.TIME_CNT, Block.base] at hu ⊢
      omega
    refine ⟨t, ht, by rw [hline']; rfl, by rw [hline']; rfl, by rw [hline'], by rw [hline'], by rw [hline']; rfl, by rw [hline'], by rw [hline'],
      by rw [hline'], by rw [hline'], by rw [hline'], by rw [hline'], by rw [hline']; rfl, ?_, ?_, by rw [htime, hset], fun h => ?_, fun d => ?_, ?_, ?_, ?_⟩
    · rw [hreg (.inl (by decide)), rd_convoyMeasured _ _ (.inr (by decide)), hlast]
    · rw [hreg (.inl (by decide)), rd_convoyMeasured _ _ (.inr (by decide)), hcount]
      rfl
    · rw [htime, hreach, (convoyReached_takes b (convoyStart p s)).moved ?_, convoyCounted_frame.time_eq rfl, convoyCounted_frame.line_eq rfl]
      · rfl
      · rw [convoyCounted_frame.time_eq rfl]
        exact h
    · have hstart : SameServo d s (convoyStart p s) := .of_eq rfl rfl
      obtain ⟨hyes, hno⟩ := convoyMeasured_servo b (convoyStart p s) d
      refine ⟨fun hd hv hst hr => ?_, fun hm => ?_⟩
      · have hm : SameServo d (measure s d (convoyResidual s d (lineRtt (rangeEffects (convoyStart p s))) (headerTime b d))) t :=
          ((hstart.measure _).trans (hyes ⟨hd, hv, hst, hr⟩)).trans (hsame d)
        exact ⟨hm.dom_eq, hm.incr, hm.resid.trans (rd_measure_resid _ hst)⟩
      · have hm' : SameServo d s t := (hstart.trans (hno hm)).trans (hsame d)
        exact ⟨hm'.dom_eq, hm'.incr⟩
    · rw [hframe.mode_eq rfl, hlaid.mode_eq rfl, convoyMeasured_mode]
      rfl
    · rw [hframe.table_eq rfl, hlaid.table_eq rfl, (convoyMeasured_frame ..).table_eq rfl]
      rfl
    · rw [hframe.queues_eq rfl, hlaid.queues_eq rfl, (convoyMeasured_frame ..).queues_eq rfl]
      rfl
  · obtain ⟨t, ht, hframe⟩ := viaCore_frame hrun convoyHeaderEff
    obtain ⟨o, he⟩ := convoyHeaderEff_bad hf hnone
    rw [he] at hframe
    obtain ⟨hline, hctxs, htime, hcount, hbit⟩ := convoyBad_spec o (convoyStart p s)
    have hline' := (hframe.line_eq rfl).trans hline
    have hlive : t.line.live = false := by rw [hline']; rfl
    have hall : Frame [.line, .reasm, .intc, .regs] s t := hframe.andThen rfl (convoyBad_frame.andThen rfl (convoyStart_frame.weaken rfl))
    refine ⟨t, ht, by rw [hline']; rfl, by rw [hline']; rfl, hlive, by rw [hline'], by rw [hframe.reasm_eq rfl, hctxs], hall.time_eq rfl, ?_, ?_,
      hall.table_eq rfl, hall.queues_eq rfl, fun ecc => ?_⟩
    · rw [rd_congr (hframe.regs_eq rfl), hcount]
      rfl
    · rw [rbit_congr (hframe.regs_eq rfl), hbit]
    · exact convoy_parts_idle (by rw [running_congr (hall.power_eq rfl) (hall.mode_eq rfl), hrun]) hlive ecc

end

section
/-!
A head-end message that is taken (03 R160-R167): what its delivery leaves to the row that acts on it.
-/
namespace Sys2Proof.Machine

/-! ### Delivery -/

/-- The state in which a good message of `n` octets is acted on: the next message is next, and this one has been delivered. -/
def delivered (h : Hem) (n : Nat) (s : State) : State := hemDeliver h (hemNext n s)

/-- Of the terminal's registers delivery changes at most the count of dropped messages. -/
theorem rd_hemDeliver (h : Hem) (s : State) {a : Nat} (ha : 0x400000 ≤ a) (hne : a ≠ R.LINE_CNT_HEM_DROP) : rd (hemDeliver h s) a = rd s a := by
  unfold hemDeliver
  dsimp only
  split
  · split
    · rfl
    · rw [rd_hemDrop_ne _ _ hne, rd_bump_ne]
      have hr : rfld s R.LINE_HEM_CTL 0 8 < 256 := Nat.mod_lt _ (by decide)
      unfold R.RING_CNT_OFF
      omega
  · exact rd_hemDrop_ne _ _ hne

section
variable (h : Hem) (n : Nat) (s : State)

theorem rd_delivered {a : Nat} (ha : 0x400000 ≤ a) (hne : a ≠ R.LINE_CNT_HEM_DROP) : rd (delivered h n s) a = rd s a :=
  (rd_hemDeliver h (hemNext n s) ha hne).trans (rd_congr rfl a)

theorem delivered_frame : Frame [.line, .rings, .regs] s (delivered h n s) :=
  hemDeliver_frame.andThen rfl (.with_line rfl .refl)

theorem delivered_line : (delivered h n s).line = { s.line with hemsDone := s.line.hemsDone + 1, cursor := s.line.cursor + n } :=
  hemDeliver_frame.line_eq rfl

theorem ownId_of_rd {s t : State} (h : rd t R.LINE_TID = rd s R.LINE_TID) : ownId t = ownId s := by
  unfold ownId rbit rfld
  rw [h]

theorem ownId_delivered : ownId (delivered h n s) = ownId s := ownId_of_rd (rd_delivered h n s (by decide) (by decide))

theorem hemMine_delivered (g : Hem) : hemMine (delivered h n s) g = hemMine s g := by
  unfold hemMine
  rw [ownId_delivered]

end

/-! ### The next message -/

section
variable {s : State} {o : Octets} {h : Hem} {mine : HemCheck → Bool}

theorem messageEff_octets (ht : hemTurn s = true) (ho : hemOctets s s.line.cursor = .octets o) :
    messageEff mine s = if mine (checkHem o) then takeHem s.line.hemsDone o (hemNext o.length s) else s := by
  unfold messageEff
  rw [ht, ho]
  rfl

/-- An addressed message that meets no DORMANT commit of its instant is delivered and acted on. -/
theorem messageEff_good (ht : hemTurn s = true) (ho : hemOctets s s.line.cursor = .octets o) (hc : checkHem o = .good h)
    (hm : mine (.good h) = true) (hl : meetsLeft s h = false) (ha : hemAddressed s h.tid = true) :
    messageEff mine s = hemAct h (delivered h o.length s) := by
  have hl' : meetsLeft (hemNext o.length s) h = false := hl
  have ha' : hemAddressed (hemNext o.length s) h.tid = true := ha
  rw [messageEff_octets ht ho, hc, if_pos hm, takeHem, hc]
  simp [hl', ha', delivered]

theorem meetsLeft_of_type (h4 : h.type ≠ 0x04) : meetsLeft s h = false := by
  have h4' : (h.type == 0x04) = false := beq_false_of_ne h4
  unfold meetsLeft
  simp [h4']

/-- What an accepted message of type `ty` does. -/
def hemEffect (ty : Nat) (h : Hem) (s : State) : State :=
  match ty with
  | 0x01 => assignIdMsg h.body s
  | 0x02 => assignEqdMsg h.body s
  | 0x03 => routeParamsMsg h.body s
  | 0x04 => deregisterMsg h.body s
  | 0x10 => keyMessage h s
  | 0x20 => wakeCondition s
  | 0x21 => timeEpochMsg h.body s
  | _ => s

theorem hemAct_mine (hm : hemMine s h = true) : hemAct h s = hemEffect h.type h s := if_neg (by simp [hm])

end

end Sys2Proof.Machine
end

section
/-!
The assigned ID at a convoy start (04 R232), and what the key messages do (04 R258-R268, R915).
-/
namespace Sys2Proof.Machine

/-! ### The assigned ID -/

/-- The own ID and perfect-match entry 0 of an assignment. -/
def ownTid (tid : BitVec 12) : Word := BitVec.ofNat 32 tid.toNat ||| oneHot 31

theorem bit31_ownTid (tid : BitVec 12) : bit (ownTid tid) 31 = true := by
  unfold ownTid
  rw [bit_or_oneHot _ _ _ (by decide)]
  simp

theorem fld_ownTid (tid : BitVec 12) : fld (ownTid tid) 0 12 = tid.toNat := by
  have htid := tid.isLt
  unfold ownTid fld
  rw [Nat.shiftRight_zero, BitVec.toNat_or, Nat.or_mod_two_pow, BitVec.toNat_ofNat]
  have hhot : (oneHot 31).toNat % 2 ^ 12 = 0 := by decide
  rw [hhot, Nat.or_zero]
  omega

theorem rd_setSub (s : State) (x : Sub) (a : Nat) : rd (setSub s x) a = rd s a := rd_congr (setSub_frame.regs_eq rfl) a

theorem rd_setPm0_ne (s : State) (v : Word) {a : Nat} (h : a ≠ R.LINE_PM 0) : rd (setPm0 s v) a = rd s a := rd_wr_ne _ _ h

theorem rd_clearEqd_ne (s : State) {a : Nat} (h : a ≠ R.LINE_EQD) : rd (clearEqd s) a = rd s a := rd_wr_ne _ _ h

/-- LOADED and VALID are clear after it. -/
theorem rbit_clearEqd (s : State) {i : Nat} (h : i = 30 ∨ i = 31) : rbit (clearEqd s) R.LINE_EQD i = false := by
  unfold rbit clearEqd
  rw [rd_wr_same]
  unfold bit
  rw [BitVec.getLsbD_and]
  rcases h with rfl | rfl
  · exact Bool.and_false _
  · exact Bool.and_false _

theorem setSub_mode_ne {s : State} {x : Sub} (h : s.mode.mode ≠ .loading) : (setSub s x).mode = { s.mode with sub := x } := by
  unfold setSub
  rw [if_neg h]

theorem setSub_mode_loading {s : State} {x : Sub} (h : s.mode.mode = .loading) : (setSub s x).mode = { s.mode with backSub := x } := by
  unfold setSub
  rw [if_pos h]

/-- What the own ID's assignment does to the registers, before its event. -/
structure Assigned (tid : BitVec 12) (s t : State) : Prop where
  own : rd t R.LINE_TID = ownTid tid
  pm : rd t (R.LINE_PM 0) = ownTid tid
  live : pmEntry t 0 = ownTid tid
  seq : t.line.seq = some 0
  ident : t.line.ident = s.line.ident
  eqd : ∀ {i : Nat}, i = 30 ∨ i = 31 → rbit t R.LINE_EQD i = false
  keys : t.keys = { s.keys with down := [], up := [], upSlot := 0, waiting := [], emptyAt := none }
  mode : t.mode = (setSub s .registered).mode
  ev : rbit t R.LINE_RANGE_EVENT 0 = true

theorem setSub_mode_congr {s t : State} (h : t.mode = s.mode) (x : Sub) : (setSub t x).mode = (setSub s x).mode := by
  by_cases hl : s.mode.mode = .loading
  · rw [setSub_mode_loading hl, setSub_mode_loading (by rw [h, hl]), h]
  · rw [setSub_mode_ne hl, setSub_mode_ne (by rw [h]; exact hl), h]

/-- The registers and the slots after an assignment, before the substate and the event. -/
def assignedSlots (v : Word) (s : State) : State := emptySlots (clearEqd (setPm0 (wr s R.LINE_TID v) v))

/-- BURST_SEQ restarts and no registration waits. -/
def assignedLine (s : State) : State := { s with line := { s.line with seq := some 0, wait := none, skip := 0 } }

theorem assignedLine_frame {v : Word} {s : State} : Frame [.line, .keys, .regs] s (assignedLine (assignedSlots v s)) :=
  .with_line rfl (emptySlots_frame.andThen rfl (clearEqd_frame.andThen rfl (setPm0_frame.andThen rfl (wr_frame.weaken rfl))))

theorem assignEffect_eq (tid : BitVec 12) (s : State) : assignEffect tid.toNat s =
    event (setSub (assignedLine (assignedSlots (ownTid tid) s)) .registered) R.LINE_RANGE_EVENT 0 := rfl

theorem rd_assignedSlots (v : Word) (s : State) (a : Nat) :
    rd (assignedSlots v s) a = rd (clearEqd (setPm0 (wr s R.LINE_TID v) v)) a := rd_congr (emptySlots_frame.regs_eq rfl) a

theorem assignEffect_assigned (tid : BitVec 12) (s : State) : Assigned tid s (assignEffect tid.toNat s) := by
  rw [assignEffect_eq]
  have hrd {a : Nat} (ha : a ≠ R.LINE_RANGE_EVENT) :
      rd (event (setSub (assignedLine (assignedSlots (ownTid tid) s)) .registered) R.LINE_RANGE_EVENT 0) a =
        rd (clearEqd (setPm0 (wr s R.LINE_TID (ownTid tid)) (ownTid tid))) a := by
    rw [rd_event_ne _ _ ha, rd_setSub, ← rd_assignedSlots]
    rfl
  have hline : (event (setSub (assignedLine (assignedSlots (ownTid tid) s)) .registered) R.LINE_RANGE_EVENT 0).line =
      (assignedLine (assignedSlots (ownTid tid) s)).line := by rw [event_frame.line_eq rfl, setSub_frame.line_eq rfl]
  refine ⟨?_, ?_, ?_, by rw [hline]; rfl, by rw [hline]; rfl, fun hi => ?_, ?_, ?_, rbit_event_self _ (by decide)⟩
  · rw [hrd (by decide), rd_clearEqd_ne _ (by decide), rd_setPm0_ne _ _ (by decide), rd_wr_same]
  · rw [hrd (by decide), rd_clearEqd_ne _ (by decide)]
    exact rd_wr_same ..
  · unfold pmEntry
    rw [hline]
    exact look_put_same ..
  · rw [rbit_of_rd (hrd (by decide)), rbit_clearEqd _ hi]
  · rw [event_frame.keys_eq rfl, setSub_frame.keys_eq rfl]
    rfl
  · rw [event_frame.mode_eq rfl]
    exact setSub_mode_congr (assignedLine_frame.mode_eq rfl) _

theorem ownId_assigned {tid : BitVec 12} {s t : State} (h : Assigned tid s t) : ownId t = some tid.toNat := by
  unfold ownId rbit rfld
  rw [h.own, bit31_ownTid, if_pos rfl, fld_ownTid]

/-- What waited for the convoy start is gone. -/
def identGone (s : State) : State := { s with line := { s.line with ident := none } }

theorem assignIdEff_due {s : State} {tid : BitVec 12} (h : isDue s s.line.ident = some tid) :
    assignIdEff s = if unregistered s then assignEffect tid.toNat (purgeRegister (identGone s)) else identGone s := by
  unfold assignIdEff
  rw [h]
  rfl

/-! ### Key messages: what they go by -/

theorem keyForm_congr {s t : State} (h : t.keys = s.keys) (b : Bytes) : keyForm t b = keyForm s b := by
  unfold keyForm
  rw [h]

theorem hasCipher_congr {s t : State} (h : t.fuses = s.fuses) : hasCipher t = hasCipher s := by
  unfold hasCipher unitPresent
  rw [h]

theorem offerGood_delivered (h : Hem) (n : Nat) (s : State) (b : Bytes) : offerGood (delivered h n s) b = offerGood s b := by
  have hhash : heHash (delivered h n s) = heHash s := by
    unfold heHash
    congr 1
    funext i
    rw [rd_delivered h n s (by simp only [R.CIPHER_HE_KEYHASH]; omega) (by simp only [R.CIPHER_HE_KEYHASH, R.LINE_CNT_HEM_DROP]; omega)]
  unfold offerGood
  rw [hhash]

/-! ### The reply -/

theorem slice_middle {a b c : Bytes} {i n : Nat} (ha : a.length = i) (hb : b.length = n) : slice (a ++ (b ++ c)) i n = b := by
  subst ha hb
  simp [slice]

/-- A reply to the message `h` with the OP `op` has joined the pool's messages. -/
def Replied (h : Hem) (op : Byte) (s t : State) : Prop :=
  ∃ m, t.msgs = s.msgs ++ [m] ∧ m.ring = false ∧ slice m.bytes 4 2 = beBytes 2 h.seq ∧ slice m.bytes 8 4 = op :: slice h.body 1 3

theorem keyReply_replied (op : Nat) (h : Hem) (rest : Bytes) (s : State) : Replied h (BitVec.ofNat 8 op) s (keyReply op h rest s) := by
  refine ⟨_, queueMsg_msgs _ _ _, rfl, ?_, ?_⟩
  · dsimp only
    simp only [List.append_assoc]
    rw [← List.append_assoc (beBytes 2 (h.tid * 16))]
    exact slice_middle (by simp [length_beBytes]) (length_beBytes ..)
  · dsimp only
    exact slice_middle (by simp [length_beBytes]) (by simp [length_slice])

theorem Replied.congr {h : Hem} {op : Byte} {s u v t : State} (hr : Replied h op u v) (hs : u.msgs = s.msgs) (ht : t.msgs = v.msgs) :
    Replied h op s t := by
  unfold Replied at hr ⊢
  rwa [ht, ← hs]

/-! ### The rows -/

section
variable {h : Hem} {s : State}

theorem keyMessage_noCipher (hc : hasCipher s = false) : keyMessage h s = keyReply 0x06 h [] s := if_pos (by simp [hc])

theorem keyMessage_badForm (hc : hasCipher s = true) (hf : keyForm s h.body = false) :
    keyMessage h s = fault s .cipher 6 wholeBlock (BitVec.ofNat 64 (beAt h.body 0 4)) := by
  unfold keyMessage
  rw [hc, hf]
  rfl

theorem keyMessage_inForm (hc : hasCipher s = true) (hf : keyForm s h.body = true) :
    keyMessage h s = match beAt h.body 0 1 with
      | 1 => offerMsg h s
      | 3 => activateMsg h s
      | 4 => groupMsg h s
      | _ => retireMsg h s := by
  unfold keyMessage
  rw [hc, hf]
  rfl

/-- The slot that a KEY_MSG names. -/
def keySlot (h : Hem) : Nat := beAt h.body 1 1 % 4

theorem offerMsg_new (hs : s.keys.upSlot ≠ keySlot h) (hg : offerGood s h.body = true) : offerMsg h s = offerTake h s := by
  have hs' : (s.keys.upSlot == beAt h.body 1 1 % 4) = false := beq_false_of_ne hs
  unfold offerMsg
  simp [hs', hg]

theorem offerMsg_unsigned (hs : s.keys.upSlot ≠ keySlot h) (hg : offerGood s h.body = false) :
    offerMsg h s = fault (draw1 s) .cipher 3 0 (keyEpoch h.body) := by
  have hs' : (s.keys.upSlot == beAt h.body 1 1 % 4) = false := beq_false_of_ne hs
  unfold offerMsg
  simp [hs', hg]

theorem offerMsg_active (hs : s.keys.upSlot = keySlot h) (hg : offerGood s h.body = true) :
    offerMsg h s = fault (draw1 s) .cipher 4 (keySlot h) (keyEpoch h.body) := by
  have hs' : (s.keys.upSlot == beAt h.body 1 1 % 4) = true := beq_iff_eq.mpr hs
  unfold offerMsg
  simp [hs', hg, keySlot]

/-- An ACTIVATE in form names a slot with an upstream key. -/
theorem keyForm_activate (hf : keyForm s h.body = true) (hop : beAt h.body 0 1 = 3) : ∃ k, look none s.keys.up (keySlot h) = some k := by
  unfold keyForm at hf
  simp [hop] at hf
  exact Option.isSome_iff_exists.mp hf.2.1.2

/-- The keys that an OFFER taken in state `s` brings: the downstream one, the upstream one and the KEK. -/
def offeredWait (h : Hem) (s : State) : KeyWait :=
  let dn := sessionOctets s s.free h.body [0x44#8, 0x52#8, 0x50#8, 0x2D#8, 0x44#8] 36
  let up := sessionOctets s s.free h.body [0x44#8, 0x52#8, 0x50#8, 0x2D#8, 0x55#8] 36
  ⟨keySlot h, some ⟨dn.take 32, dn.drop 32, 0⟩, some (some ⟨up.take 32, up.drop 32, 1⟩), s.line.convoys⟩

def offeredKek (h : Hem) (s : State) : Bytes := sessionOctets s s.free h.body [0x44#8, 0x52#8, 0x50#8, 0x2D#8, 0x4B#8] 32

theorem offerTake_keys : (offerTake h s).keys = { s.keys with kek := some (offeredKek h s), waiting := s.keys.waiting ++ [offeredWait h s] } := rfl

theorem offerTake_replied : Replied h 0x02 s (offerTake h s) := (keyReply_replied 0x02 h _ (draw1 s)).congr rfl rfl

theorem activateMsg_replied : Replied h 0x07 s (activateMsg h s) := (keyReply_replied 0x07 h _ _).congr rfl rfl

theorem activateMsg_keys : (activateMsg h s).keys =
    { s.keys with upSlot := keySlot h, up := put none s.keys.up (keySlot h) ((look none s.keys.up (keySlot h)).map fun k => { k with pn := 1 }) } := by
  unfold activateMsg
  dsimp only
  rw [keyReply_frame.keys_eq rfl, event_frame.keys_eq rfl]
  rfl

theorem rbit_activateMsg : rbit (activateMsg h s) R.LINE_RANGE_EVENT 5 = true := by
  unfold activateMsg
  dsimp only
  rw [rbit_congr (keyReply_frame.regs_eq rfl), rbit_event_self _ (by decide)]

theorem groupMsg_some {k : Bytes} (hk : (s.keys.kek.bind fun k => keyUnwrap k (slice h.body 4 48)) = some k) :
    groupMsg h s = keyReply 0x07 h []
      (keyStage ⟨4 * (beAt h.body 1 1 / 16) + keySlot h, some ⟨slice k 0 32, slice k 32 4, 0⟩, none, s.line.convoys⟩ s) := by
  unfold groupMsg
  dsimp only
  rw [hk]
  rfl

theorem groupMsg_none (hk : (s.keys.kek.bind fun k => keyUnwrap k (slice h.body 4 48)) = none) :
    groupMsg h s = fault s .cipher 5 (beAt h.body 1 1 / 16) (keyEpoch h.body) := by
  unfold groupMsg
  dsimp only
  rw [hk]

/-- A change that is staged and answered. -/
theorem keyStage_replied (w : KeyWait) (op : Nat) : Replied h (BitVec.ofNat 8 op) s (keyReply op h [] (keyStage w s)) :=
  (keyReply_replied op h [] (keyStage w s)).congr rfl rfl

theorem keyStage_keys (w : KeyWait) (op : Nat) :
    (keyReply op h [] (keyStage w s)).keys = { s.keys with waiting := s.keys.waiting ++ [w] } := by
  rw [keyReply_frame.keys_eq rfl]
  rfl

end

/-! ### The row of an OP -/

/-- The row that takes a KEY_MSG with the OP `op`. -/
def keyRow (op : Nat) : Instr := match op with | 1 => .offer | 3 => .activate | 4 => .group | 5 => .retire | _ => .keyMsg

/-- The next message of the convoy in progress is a good KEY_MSG for the own ID. -/
structure KeyNext (s : State) (o : Octets) (h : Hem) : Prop where
  running : running s = true
  turn : hemTurn s = true
  octets : hemOctets s s.line.cursor = .octets o
  check : checkHem o = .good h
  addressed : hemAddressed s h.tid = true
  mine : hemMine s h = true
  type : h.type = 0x10

section
variable {s : State} {o : Octets} {h : Hem}

theorem KeyNext.messageEff_eq (hn : KeyNext s o h) {mine : HemCheck → Bool} (hm : mine (.good h) = true) :
    messageEff mine s = keyMessage h (delivered h o.length s) := by
  have hleft : meetsLeft s h = false := meetsLeft_of_type (by rw [hn.type]; decide)
  rw [messageEff_good hn.turn hn.octets hn.check hm hleft hn.addressed, hemAct_mine ((hemMine_delivered ..).trans hn.mine), hn.type]
  rfl

theorem KeyNext.row_runs (hn : KeyNext s o h) {mine : HemCheck → Bool} {i : Instr} (hi : exec i s = viaCore s (messageEff mine))
    (hm : mine (.good h) = true) : ∃ t, exec i s = .next t ∧ Frame [.intc] (keyMessage h (delivered h o.length s)) t := by
  obtain ⟨t, ht, hframe⟩ := viaCore_frame hn.running (messageEff mine)
  rw [hn.messageEff_eq hm] at hframe
  exact ⟨t, hi.trans ht, hframe⟩

theorem isKeyOp_good (ht : h.type = 0x10) {op : Nat} (hop : beAt h.body 0 1 = op) : isKeyOp op (.good h) = true := by simp [isKeyOp, ht, hop]

theorem KeyNext.runs (hn : KeyNext s o h) :
    ∃ t, exec (keyRow (beAt h.body 0 1)) s = .next t ∧ Frame [.intc] (keyMessage h (delivered h o.length s)) t := by
  unfold keyRow
  split
  next hop => exact hn.row_runs (mine := isKeyOp 1) rfl (isKeyOp_good hn.type hop)
  next hop => exact hn.row_runs (mine := isKeyOp 3) rfl (isKeyOp_good hn.type hop)
  next hop => exact hn.row_runs (mine := isKeyOp 4) rfl (isKeyOp_good hn.type hop)
  next hop => exact hn.row_runs (mine := isKeyOp 5) rfl (isKeyOp_good hn.type hop)
  next h1 h3 h4 h5 => exact hn.row_runs (mine := isKeyOther) rfl (by simp [isKeyOther, hn.type]; exact ⟨h1, h3, h4, h5⟩)

/-- One in form does what its OP says. -/
theorem KeyNext.runs_inForm (hn : KeyNext s o h) (hc : hasCipher s = true) (hf : keyForm s h.body = true) :
    ∃ t, exec (keyRow (beAt h.body 0 1)) s = .next t ∧ Frame [.intc] (match beAt h.body 0 1 with
      | 1 => offerMsg h (delivered h o.length s)
      | 3 => activateMsg h (delivered h o.length s)
      | 4 => groupMsg h (delivered h o.length s)
      | _ => retireMsg h (delivered h o.length s)) t := by
  have hd := delivered_frame h o.length s
  obtain ⟨t, ht, hframe⟩ := hn.runs
  rw [keyMessage_inForm ((hasCipher_congr (hd.fuses_eq rfl)).trans hc) ((keyForm_congr (hd.keys_eq rfl) _).trans hf)] at hframe
  exact ⟨t, ht, hframe⟩

theorem Replied.after {u v t : State} {op : Byte} (hr : Replied h op u v) (hu : u.msgs = s.msgs) (ht : Frame [.intc] v t) : Replied h op s t :=
  hr.congr hu (ht.msgs_eq rfl)

/-- A fault of the cipher's record that is all a message does. -/
theorem cipher_fault_only {v t : State} {code inst : Nat} {ident : DWord} (hcode : code < 32) (hv : Frame [.free, .line, .rings, .regs] s v)
    (hr : rd v (Block.cipher.base + 4) = rd s (Block.cipher.base + 4)) (ht : Frame [.intc] (fault v .cipher code inst ident) t) :
    t.keys = s.keys ∧ t.msgs = s.msgs ∧ recorded s t .cipher code := by
  refine ⟨?_, ?_, recorded_fault_after hcode hr (ht.regs_eq rfl)⟩
  · rw [ht.keys_eq rfl, fault_frame.keys_eq rfl, hv.keys_eq rfl]
  · rw [ht.msgs_eq rfl, fault_frame.msgs_eq rfl, hv.msgs_eq rfl]

theorem draw1_after_frame {v : State} (hv : Frame [.line, .rings, .regs] s v) : Frame [.free, .line, .rings, .regs] s (draw1 v) :=
  draw1_frame.andThen rfl (hv.weaken rfl)

end

end Sys2Proof.Machine

open Sys2Proof Sys2Proof.Machine

/-- Settles O27: the assigned ID at a convoy start, and each KEY_MSG. -/
theorem identityAndKeys : Obligations.IdentityAndKeys := by
  unfold Obligations.IdentityAndKeys
  refine ⟨fun s tid hrun hdue => ?_, fun s o h hrun hturn hocts hcheck haddr hmine htype => ?_⟩
  · obtain ⟨t, ht, hframe⟩ := viaCore_frame hrun assignIdEff
    rw [assignIdEff_due hdue] at hframe
    cases hu : unregistered s with
    | false =>
      rw [hu, if_neg Bool.false_ne_true] at hframe
      refine ⟨t, ht, by rw [hframe.line_eq rfl]; rfl, fun _ => hframe.intcOnly, fun h => absurd h Bool.false_ne_true⟩
    | true =>
      rw [hu, if_pos rfl] at hframe
      have ha := assignEffect_assigned tid (purgeRegister (identGone s))
      have hmode : t.mode = (setSub s .registered).mode := by
        rw [hframe.mode_eq rfl, ha.mode]
        have hpurge : (purgeRegister (identGone s)).mode = s.mode := purgeRegister_frame.mode_eq rfl
        exact setSub_mode_congr hpurge _
      have hreg {a : Nat} : rd t a = rd (assignEffect tid.toNat (purgeRegister (identGone s))) a := rd_congr (hframe.regs_eq rfl) a
      have hpm : pmEntry t 0 = ownTid tid := by
        unfold pmEntry
        rw [hframe.line_eq rfl]
        exact ha.live
      have hkeys := (hframe.keys_eq rfl).trans ha.keys
      refine ⟨t, ht, ?_, fun h => absurd h (by decide), fun _ => ⟨?_, ?_, ?_, ?_, ?_, ?_, ?_, ?_, ?_, fun hl => ?_, fun hl => ?_, ?_⟩⟩
      · rw [hframe.line_eq rfl, ha.ident, purgeRegister_frame.line_eq rfl]
        rfl
      · rw [ownId_congr (hframe.regs_eq rfl), ownId_assigned ha]
      · rw [hreg, hreg, ha.pm, ha.own]
      · rw [hpm, hreg, ha.own]
      · rw [hframe.line_eq rfl, ha.seq]
      · rw [rbit_of_rd hreg, ha.eqd (.inr rfl)]
      · rw [rbit_of_rd hreg, ha.eqd (.inl rfl)]
      · intro k
        rw [hkeys]
        exact ⟨rfl, rfl⟩
      · rw [hkeys]
      · rw [hmode]
        by_cases hl : s.mode.mode = .loading
        · rw [setSub_mode_loading hl]
        · rw [setSub_mode_ne hl]
      · rw [hmode, setSub_mode_ne hl]
      · rw [hmode, setSub_mode_loading hl]
      · rw [rbit_of_rd hreg, ha.ev]
  · have hn : KeyNext s o h := ⟨hrun, hturn, hocts, hcheck, haddr, hmine, htype⟩
    have hd := delivered_frame h o.length s
    have hkeys : (delivered h o.length s).keys = s.keys := hd.keys_eq rfl
    have hmsgs : (delivered h o.length s).msgs = s.msgs := hd.msgs_eq rfl
    have hline : (delivered h o.length s).line.convoys = s.line.convoys := by rw [delivered_line]
    have hcount : rd (delivered h o.length s) (Block.cipher.base + 4) = rd s (Block.cipher.base + 4) :=
      rd_delivered h o.length s (by decide) (by decide)
    have hsession (info : Bytes) (n : Nat) : sessionOctets (delivered h o.length s) (delivered h o.length s).free h.body info n =
        sessionOctets s s.free h.body info n := by
      unfold sessionOctets
      rw [hd.fuses_eq rfl, hd.free_eq rfl]
    have hgood := offerGood_delivered h o.length s h.body
    refine ⟨fun hc => ?_, fun hc hf => ?_, fun hc hf hop hs hg => ?_, fun hc hf hop hs hg => ?_, fun hc hf hop hs hg => ?_, fun hc hf hop => ?_,
      fun hc hf hop => ?_, fun hc hf hop => ?_⟩
    · obtain ⟨t, ht, hframe⟩ := hn.runs
      rw [keyMessage_noCipher ((hasCipher_congr (hd.fuses_eq rfl)).trans hc)] at hframe
      refine ⟨t, ht, ?_, (keyReply_replied 0x06 h [] _).after hmsgs hframe⟩
      rw [hframe.keys_eq rfl, keyReply_frame.keys_eq rfl, hkeys]
    · obtain ⟨t, ht, hframe⟩ := hn.runs
      rw [keyMessage_badForm ((hasCipher_congr (hd.fuses_eq rfl)).trans hc) ((keyForm_congr hkeys _).trans hf)] at hframe
      exact ⟨t, ht, cipher_fault_only (by decide) (hd.weaken rfl) hcount hframe⟩
    all_goals
      obtain ⟨t, ht, hframe⟩ := hn.runs_inForm hc hf
      rw [hop] at ht hframe
    · rw [offerMsg_new (by rw [hkeys]; exact hs) (hgood.trans hg)] at hframe
      have hk := (hframe.keys_eq rfl).trans offerTake_keys
      rw [hkeys] at hk
      refine ⟨t, ht, offerTake_replied.after hmsgs hframe, by rw [hk], by rw [hk], ?_, ?_⟩
      · rw [hk, offeredKek, hsession]
        rfl
      · rw [hk, offeredWait, hsession, hsession, hline]
        rfl
    · rw [offerMsg_unsigned (by rw [hkeys]; exact hs) (hgood.trans hg)] at hframe
      exact ⟨t, ht, cipher_fault_only (by decide) (draw1_after_frame hd) hcount hframe⟩
    · rw [offerMsg_active (by rw [hkeys]; exact hs) (hgood.trans hg)] at hframe
      exact ⟨t, ht, cipher_fault_only (by decide) (draw1_after_frame hd) hcount hframe⟩
    · obtain ⟨k, hslot⟩ := keyForm_activate hf hop
      have hk := (hframe.keys_eq rfl).trans activateMsg_keys
      rw [hkeys] at hk
      refine ⟨t, k, ht, activateMsg_replied.after hmsgs hframe, by rw [hk]; rfl, hslot, ?_, by rw [hk], ?_⟩
      · rw [hk]
        refine (look_put_same ..).trans ?_
        rw [hslot]
        rfl
      · exact (rbit_congr (hframe.regs_eq rfl) ..).trans rbit_activateMsg
    · cases hk : s.keys.kek.bind fun k => keyUnwrap k (slice h.body 4 48) with
      | none =>
        rw [groupMsg_none (by rw [hkeys, hk])] at hframe
        obtain ⟨htkeys, hall⟩ := cipher_fault_only (by decide) (hd.weaken rfl) hcount hframe
        exact ⟨t, ht, by rw [htkeys], by rw [htkeys], htkeys, hall⟩
      | some k =>
        rw [groupMsg_some (by rw [hkeys, hk])] at hframe
        have htkeys := (hframe.keys_eq rfl).trans (keyStage_keys ..)
        rw [hkeys, hline] at htkeys
        exact ⟨t, ht, by rw [htkeys], by rw [htkeys], (keyStage_replied _ 0x07).after hmsgs hframe, by rw [htkeys]; rfl⟩
    · have htkeys := (hframe.keys_eq rfl).trans (keyStage_keys ..)
      rw [hkeys, hline] at htkeys
      exact ⟨t, ht, (keyStage_replied _ 0x07).after hmsgs hframe, by rw [htkeys], by rw [htkeys]⟩

end

section
/-!
Entry to SILENT by a message (04 R252-R257, 02 R98): what it keeps of the registers of the line side.
-/
namespace Sys2Proof.Machine

/-- The registers of the line side read as before. -/
structure LineRegs (s t : State) : Prop where
  rd_eq : ∀ {a : Nat}, 0x500000 ≤ a → a < 0x580000 → rd t a = rd s a

section
variable {s t u : State}

theorem LineRegs.of_regs (h : t.regs = s.regs) : LineRegs s t := ⟨fun _ _ => rd_congr h _⟩

theorem LineRegs.trans (h : LineRegs s t) (h' : LineRegs t u) : LineRegs s u :=
  ⟨fun hl hu => (h'.rd_eq hl hu).trans (h.rd_eq hl hu)⟩

theorem LineRegs.foldl {α : Type} {g : State → α → State} (hg : ∀ s x, LineRegs s (g s x)) (l : List α) (s : State) : LineRegs s (l.foldl g s) := by
  induction l generalizing s with
  | nil => exact .of_regs rfl
  | cons x l ih => exact (hg s x).trans (ih _)

end

/-! ### FALLOW left -/

theorem lineRegs_writeRail (s : State) (t mv : Nat) (a : Ack) : LineRegs s (writeRail s t mv a) := by
  cases h : ackTaken a with
  | true =>
    obtain ⟨p, -, -, he⟩ := writeRail_acked s t mv a h
    rw [he]
    exact .of_regs ((setPace_frame.regs_eq rfl).trans (emit_frame.regs_eq rfl))
  | false =>
    rw [writeRail_failed s t mv a h]
    refine ⟨fun hl hu => ?_⟩
    unfold avsFail
    rw [rd_fault_out _ _ _ _ _ (.inl (by unfold Block.base; dsimp only; omega)), rd_congr (setPace_frame.regs_eq rfl), rd_congr (emit_frame.regs_eq rfl)]

theorem lineRegs_paceSelect (s : State) (t : Nat) (a : Ack) : LineRegs s (paceSelect s t a) := by
  have hset (p : Pace) : LineRegs s (setPace s t p) := .of_regs (setPace_frame.regs_eq rfl)
  unfold paceSelect
  dsimp only
  split
  · exact hset _
  · split
    · exact hset _
    · exact (hset _).trans (lineRegs_writeRail ..)

theorem lineRegs_railsFree (s : State) : LineRegs s (railsFree s) := by
  refine .foldl (fun s t => ?_) _ s
  split
  · have hstart : LineRegs s (draw1 (creditRaise s t)) := .of_regs (creditRaise_frame.regs_eq rfl)
    exact (hstart.trans (lineRegs_paceSelect ..)).trans (.of_regs (paceNewWindow_frame.regs_eq rfl))
  · exact .of_regs rfl

theorem lineRegs_leaveFallow (s : State) : LineRegs s (leaveFallow s) := by
  unfold leaveFallow
  dsimp only
  split
  · refine .trans ?_ (lineRegs_railsFree _)
    split
    · exact .of_regs rfl
    · exact .of_regs rfl
  · exact .of_regs rfl

/-! ### Assemblies given up -/

theorem lineRegs_gateBurst (k : BurstKind) (e : Entry) (s : State) : LineRegs s (gateBurst k e s) := .of_regs (gateBurst_frame.regs_eq rfl)

theorem lineRegs_setDrover (s : State) (t : Nat) (d : Drover) : LineRegs s (setDrover s t d) := .of_regs (setDrover_frame.regs_eq rfl)

theorem lineRegs_toIdle (t : Nat) (s : State) : LineRegs s (toIdle t s) := by
  unfold toIdle
  dsimp only
  split
  · exact (lineRegs_setDrover s t _).trans ((lineRegs_setDrover _ t _).trans (.foldl (fun s e => lineRegs_gateBurst .held e s) _ _))
  · exact lineRegs_setDrover ..

/-- A tract's counters of work lie above the line side's registers. -/
theorem perf_above {t a : Nat} (h : a < 0x580000) :
    a ≠ R.TRACT_LEDGER_OVF t ∧ a ≠ R.PERF_SAMPLE_LOST ∧ a ≠ R.PERF_EVENT ∧ a < 0x2010000 + t * 0x200000 := by
  unfold R.TRACT_LEDGER_OVF R.PERF_SAMPLE_LOST R.PERF_EVENT
  omega

theorem lineRegs_chargeOpen (s : State) (t k : Nat) : LineRegs s (chargeOpen s t k) :=
  ⟨fun _ hu => have ⟨hovf, _, hevent, _⟩ := perf_above hu
    rd_chargeOpen_ne s t k hovf hevent⟩

theorem lineRegs_closeAccount (s : State) (t : Nat) (carried : Bool) : LineRegs s (closeAccount s t carried) :=
  ⟨fun _ hu => have ⟨hovf, hlost, hevent, _⟩ := perf_above hu
    rd_closeAccount_ne s t carried hovf hlost hevent⟩

theorem lineRegs_tractEvent (s : State) (t n : Nat) (ev : TractEv) : LineRegs s (tractEvent s t ev n) :=
  ⟨fun _ hu => have ⟨_, _, hevent, hlow⟩ := perf_above hu
    rd_tractEvent_below s ev hlow hevent⟩

theorem lineRegs_takeAbort (t : Nat) (s : State) : LineRegs s (takeAbort t s) := by
  have hstart : LineRegs s (cancelReservations t (tractEvent s t .abort 1)) :=
    (lineRegs_tractEvent s t 1 .abort).trans (.of_regs (cancelReservations_frame.regs_eq rfl))
  unfold takeAbort
  dsimp only
  refine hstart.trans (.trans ?_ (lineRegs_toIdle ..))
  generalize cancelReservations t (tractEvent s t .abort 1) = s1
  cases (drover s1 t).settled with
  | none =>
    split
    · exact (lineRegs_closeAccount s1 t false).trans (lineRegs_gateBurst ..)
    · exact lineRegs_closeAccount s1 t false
  | some ok =>
    split
    · exact lineRegs_chargeOpen s1 t _
    · exact lineRegs_chargeOpen s1 t _

theorem lineRegs_sendAbort (a : Abort) (t : Nat) (s : State) : LineRegs s (sendAbort a t s) := by
  unfold sendAbort
  dsimp only
  split
  · split
    · exact (lineRegs_setDrover s t _).trans (lineRegs_takeAbort ..)
    · exact lineRegs_setDrover ..
  · exact .of_regs rfl

theorem lineRegs_abortDrovers (a : Abort) (s : State) : LineRegs s (abortDrovers a s) := by
  refine .foldl (fun s t => ?_) _ s
  dsimp only
  exact (lineRegs_setDrover s t _).trans (lineRegs_sendAbort ..)

/-! ### Entry to SILENT -/

/-- What the entry to SILENT leaves (04 R252-R257, 02 R98). -/
structure Silent (s t : State) : Prop where
  mode : t.mode.mode = .provision
  sub : t.mode.sub = .silent
  request : t.mode.request = s.mode.request
  met : t.mode.met = s.mode.request.isSome
  left : t.mode.left = s.mode.left
  eqd : ∀ {i : Nat}, i = 30 ∨ i = 31 → rbit t R.LINE_EQD i = false
  line : t.line = { s.line with eqd := none }
  event : rbit t R.LINE_RANGE_EVENT 3 = true
  table : ∀ e ∈ t.table, e.kind = .register
  emptyAt : t.keys.emptyAt = some s.line.convoys
  own : rd t R.LINE_TID = rd s R.LINE_TID

/-- The entries and assemblies that the entry to SILENT takes away. -/
def silenced (s : State) : State := purgeOwn (purgeData (abortDrovers .silent (leaveFallow s)))

theorem rd_purge_ne (s : State) (p : Entry → Bool) {a b : Nat} (h : b ≠ a) : rd (purge s p a) b = rd s b := rd_wr_ne _ _ h

theorem silenced_mode (s : State) : ∃ drain wake rails, (silenced s).mode = { s.mode with drain := drain, wake := wake, rails := rails } := by
  obtain ⟨drain, wake, rails, hmode⟩ := leaveFallow_mode s
  refine ⟨drain, wake, rails, ?_⟩
  rw [silenced, purgeOwn_frame.mode_eq rfl, purgeData_frame.mode_eq rfl, abortDrovers_frame.mode_eq rfl, hmode]

theorem silenced_frame {s : State} :
    Frame [.wire, .free, .mode, .intc, .perf, .paces, .robins, .marks, .table, .drovers, .gate, .msgs, .regs] s (silenced s) :=
  purgeOwn_frame.andThen rfl (purgeData_frame.andThen rfl (abortDrovers_frame.andThen rfl (leaveFallow_frame.weaken rfl)))

theorem silenced_table (s : State) : ∀ e ∈ (silenced s).table, e.kind = .register := by
  intro e he
  have hmem : e ∈ (purgeData (abortDrovers .silent (leaveFallow s))).table.filter fun e => !(e.kind != .register) := he
  simpa using (List.mem_filter.mp hmem).2

theorem rd_silenced_own (s : State) : rd (silenced s) R.LINE_TID = rd s R.LINE_TID := by
  unfold silenced purgeOwn purgeData
  rw [rd_purge_ne _ _ (by decide), rd_purge_ne _ _ (by decide),
    (lineRegs_abortDrovers ..).rd_eq (by decide) (by decide), (lineRegs_leaveFallow s).rd_eq (by decide) (by decide)]

theorem enterSilent_eq (s : State) : enterSilent s =
    emptyNext (event { clearEqd (toSilent { silenced s with mode := { (silenced s).mode with met := (silenced s).mode.request.isSome } }) with
      line := { (silenced s).line with eqd := none } } R.LINE_RANGE_EVENT 3) := rfl

theorem enterSilent_silent (s : State) : Silent s (enterSilent s) := by
  obtain ⟨drain, wake, rails, hmode⟩ := silenced_mode s
  have hline : (silenced s).line = s.line := silenced_frame.line_eq rfl
  rw [enterSilent_eq, hmode, hline]
  refine ⟨rfl, rfl, rfl, rfl, rfl, fun hi => ?_, rfl, rbit_event_self _ (by decide), silenced_table s, rfl, ?_⟩
  · exact (rbit_of_rd (rd_event_ne _ _ (by decide))).trans (rbit_clearEqd _ hi)
  · refine (rd_event_ne _ _ (by decide)).trans ((rd_clearEqd_ne _ (by decide)).trans ?_)
    exact rd_silenced_own s

end Sys2Proof.Machine
end

section
/-!
The rows of the head-end messages (O29): the division of the messages among them, a message's place in the convoy, discarded and site-defined
messages (03 R162, R167), and the registration, ranging, wake and epoch messages (04 R221-R252, 11 R621).
-/
namespace Sys2Proof.Machine

/-! ### The division into rows -/

/-- The message rows and the messages that are theirs. -/
def hemRows : List (Instr × (HemCheck → Bool)) := [(.hem, isSite), (.assignId, isType 1), (.assignEqd, isType 2), (.routeParams, isType 3),
  (.deregister, isType 4), (.wake, isType 0x20), (.timeEpoch, isType 0x21), (.offer, isKeyOp 1), (.activate, isKeyOp 3), (.group, isKeyOp 4),
  (.retire, isKeyOp 5), (.keyMsg, isKeyOther)]

theorem hemConsumed_false {ty : Nat} (h : ∀ k ∈ [0x01, 0x02, 0x03, 0x04, 0x10, 0x20, 0x21], ty ≠ k) : hemConsumed ty = false := by
  simp only [List.forall_mem_cons] at h
  unfold hemConsumed hemLengths
  split <;> simp_all

theorem hemRows_keyMsg {h : Hem} (h10 : h.type = 0x10) : (hemRows.filter fun r => r.2 (.good h)).length = 1 := by
  simp only [hemRows, List.filter_cons, List.filter_nil, isSite, isType, isKeyOp, isKeyOther, h10]
  by_cases h1 : beAt h.body 0 1 = 1
  · simp [h1, hemConsumed, hemLengths]
  by_cases h3 : beAt h.body 0 1 = 3
  · simp [h3, hemConsumed, hemLengths]
  by_cases h4 : beAt h.body 0 1 = 4
  · simp [h4, hemConsumed, hemLengths]
  by_cases h5 : beAt h.body 0 1 = 5
  · simp [h5, hemConsumed, hemLengths]
  · simp [h1, h3, h4, h5, hemConsumed, hemLengths]

theorem hemRows_good (h : Hem) : (hemRows.filter fun r => r.2 (.good h)).length = 1 := by
  by_cases h10 : h.type = 0x10
  · exact hemRows_keyMsg h10
  by_cases hmem : h.type ∈ [0x01, 0x02, 0x03, 0x04, 0x20, 0x21]
  · simp only [List.mem_cons, List.not_mem_nil, or_false] at hmem
    rcases hmem with ht | ht | ht | ht | ht | ht <;>
      simp [hemRows, isSite, isType, isKeyOp, isKeyOther, ht, hemConsumed, hemLengths]
  · have hsite : hemConsumed h.type = false := hemConsumed_false fun k hk hty => by
      subst hty
      simp_all
    simp only [List.mem_cons, List.not_mem_nil, or_false, not_or] at hmem
    simp [hemRows, isSite, isType, isKeyOp, isKeyOther, h10, hmem, hsite]

theorem hemRows_one (c : HemCheck) : (hemRows.filter fun r => r.2 c).length = 1 := by
  cases c with
  | good h => exact hemRows_good h
  | trusted => rfl
  | untrusted => rfl

theorem exec_hemRow {s : State} {r : Instr × (HemCheck → Bool)} (hr : r ∈ hemRows) (hrun : running s = true) :
    exec r.1 s = viaCore s (messageEff r.2) := by
  simp only [hemRows, List.mem_cons, List.not_mem_nil, or_false] at hr
  rcases hr with rfl | rfl | rfl | rfl | rfl | rfl | rfl | rfl | rfl | rfl | rfl | rfl
  case inr.inr.inr.inr.inl =>
    rw [viaCore_running hrun]
    exact if_pos (by rw [hrun]; rfl)
  all_goals rfl

/-! ### A message's place -/

/-- The next message is the same one, at the same place. -/
def SamePlace (s t : State) : Prop := t.line.hemsDone = s.line.hemsDone ∧ t.line.cursor = s.line.cursor

section
variable {s t u : State}

theorem SamePlace.of_line (h : t.line = s.line) : SamePlace s t := by
  unfold SamePlace
  rw [h]
  exact ⟨rfl, rfl⟩

theorem SamePlace.trans (h : SamePlace s t) (h' : SamePlace t u) : SamePlace s u := ⟨h'.1.trans h.1, h'.2.trans h.2⟩

theorem Silent.samePlace (h : Silent s t) : SamePlace s t := by
  unfold SamePlace
  rw [h.line]
  exact ⟨rfl, rfl⟩

theorem deregisterLate_samePlace (s : State) : SamePlace s (deregisterLate s) := by
  unfold deregisterLate
  split
  · exact .trans ⟨rfl, rfl⟩ (enterSilent_silent _).samePlace
  · exact .of_line rfl

theorem hemAct_samePlace (h : Hem) (s : State) : SamePlace s (hemAct h s) := by
  unfold hemAct
  split
  · exact .of_line rfl
  split
  · unfold assignIdMsg
    dsimp only
    split
    · exact ⟨rfl, rfl⟩
    · exact .of_line rfl
  · unfold assignEqdMsg
    split
    · exact ⟨rfl, rfl⟩
    · exact .of_line rfl
  · unfold routeParamsMsg
    dsimp only
    split
    · exact .of_line (fault_frame.line_eq rfl)
    · exact ⟨rfl, rfl⟩
  · unfold deregisterMsg
    split
    · split
      · exact .of_line rfl
      · exact (enterSilent_silent s).samePlace
    · exact .of_line rfl
  · exact .of_line (keyMessage_frame.line_eq rfl)
  · exact .of_line (wakeCondition_frame.line_eq rfl)
  · exact .of_line (timeEpochMsg_frame.line_eq rfl)
  · exact .of_line rfl

theorem takeHem_samePlace (idx : Nat) (o : Octets) (s : State) : SamePlace s (takeHem idx o s) := by
  have hbad : SamePlace s (hemBad idx o s) := .of_line (hemBad_frame.line_eq rfl)
  unfold takeHem
  split
  · have hdeliver (h : Hem) : SamePlace s (hemDeliver h s) := .of_line (hemDeliver_frame.line_eq rfl)
    split
    · exact (hdeliver _).trans (deregisterLate_samePlace _)
    · split
      · exact (hdeliver _).trans (hemAct_samePlace ..)
      · exact .of_line rfl
  · exact hbad
  · have hend : SamePlace (hemBad idx o s) (endConvoy (hemBad idx o s)) := ⟨rfl, rfl⟩
    exact hbad.trans (hend.trans (.of_line (abandonAll_frame.line_eq rfl)))

end

/-- A message to another terminal is not accepted. -/
theorem takeHem_unaddressed {idx : Nat} {o : Octets} {s : State} {h : Hem} (hc : checkHem o = .good h) (hl : meetsLeft s h = false)
    (ha : hemAddressed s h.tid = false) : takeHem idx o s = s := by
  unfold takeHem
  rw [hc]
  simp [hl, ha]

/-! ### Discarded messages -/

section
variable {idx : Nat} {o : Octets} {s : State}

theorem regsOnly_hemBad : regsOnly s (hemBad idx o s) (R.LINE_CNT_HEM_BAD :: recordOf .line) :=
  ((regsOnly_bump s _).mono (by simp)).trans ((regsOnly_fault ..).mono (by simp))

theorem rd_hemBad : rd (hemBad idx o s) R.LINE_CNT_HEM_BAD = sat32 ((rd s R.LINE_CNT_HEM_BAD).toNat + 1) := by
  rw [hemBad, rd_fault_out _ _ _ _ _ (by decide), rd_bump_same]

theorem recorded_hemBad {u : State} (hu : u.regs = s.regs) : recorded s (hemBad idx o u) .line 8 := by
  refine recorded_fault_after (u := bump u R.LINE_CNT_HEM_BAD) (by decide) ?_ rfl
  rw [rd_bump_ne _ (by decide), rd_congr hu]

theorem records_cutConvoy (s : State) : Records .line [R.LINE_CNT_REASM_DROP] s (cutConvoy s) :=
  (Records.of_regs (endConvoy_frame.regs_eq rfl)).trans (records_abandonAll _)

end

/-! ### Site-defined messages -/

theorem hemAct_site {h : Hem} (hc : hemConsumed h.type = false) (s : State) : hemAct h s = s := by
  unfold hemAct
  split
  · rfl
  split
  case h_8 => rfl
  all_goals
    next hty =>
      rw [hty] at hc
      exact absurd hc (by decide)

theorem meetsLeft_site {h : Hem} (hc : hemConsumed h.type = false) (s : State) : meetsLeft s h = false := by
  refine meetsLeft_of_type fun h4 => ?_
  rw [h4] at hc
  exact absurd hc (by decide)

section
variable {h : Hem} {s : State}

theorem hemDeliver_open (hc : hemConsumed h.type = false) (he : rbit s R.LINE_HEM_CTL 31 = true)
    (hr : ringOpen s (rfld s R.LINE_HEM_CTL 0 8) = true) :
    hemDeliver h s = setRing s true (rfld s R.LINE_HEM_CTL 0 8) { ring s true (rfld s R.LINE_HEM_CTL 0 8) with
      inbox := (ring s true (rfld s R.LINE_HEM_CTL 0 8)).inbox ++ [.hem h.raw s.line.reach s.line.number false] } := by
  unfold hemDeliver
  simp only [hc, he, hr, Bool.not_false, Bool.true_or, Bool.and_true, if_true]

theorem hemDeliver_closed (hc : hemConsumed h.type = false) (he : rbit s R.LINE_HEM_CTL 31 = true)
    (hr : ringOpen s (rfld s R.LINE_HEM_CTL 0 8) = false) :
    hemDeliver h s = hemDrop false (bump s (R.RING_CNT_OFF 1 (rfld s R.LINE_HEM_CTL 0 8))) := by
  unfold hemDeliver
  simp only [hc, he, hr, Bool.not_false, Bool.true_or, Bool.and_true, if_true, Bool.false_eq_true, if_false]

theorem hemDeliver_off (hc : hemConsumed h.type = false) (he : rbit s R.LINE_HEM_CTL 31 = false) : hemDeliver h s = hemDrop false s := by
  unfold hemDeliver
  simp only [hc, he, Bool.false_and, Bool.false_eq_true, if_false]

theorem regsOnly_hemDrop (s : State) : regsOnly s (hemDrop false s) [R.LINE_CNT_HEM_DROP] := regsOnly_bump s _

end

/-! ### Registration and ranging -/

theorem effMode_congr {s t : State} (h : t.mode = s.mode) : effMode t = effMode s := by
  unfold effMode
  rw [h]

theorem inSub_congr {s t : State} (h : t.mode = s.mode) (x : Sub) : inSub t x = inSub s x := by
  unfold inSub effSub effMode
  rw [h]

theorem unregistered_congr {s t : State} (h : t.mode = s.mode) : unregistered t = unregistered s := by
  unfold unregistered
  rw [inSub_congr h, inSub_congr h]

theorem registered_congr {s t : State} (h : t.mode = s.mode) : registered t = registered s := by
  unfold registered
  rw [inSub_congr h, inSub_congr h, effMode_congr h]

theorem serialMatches_congr {s t : State} (h : t.fuses = s.fuses) (b : Bytes) : serialMatches t b = serialMatches s b := by
  unfold serialMatches
  rw [h]

/-! ### TIME_EPOCH -/

theorem bit31_valid (n : Nat) (h : n < 2 ^ 31) : bit (BitVec.ofNat 32 (2 ^ 31 + n)) 31 = true := by
  unfold bit
  rw [BitVec.getLsbD_ofNat, Nat.testBit_two_pow_add_eq, Nat.testBit_lt_two_pow h]
  rfl

/-- The four registers of an epoch, in the order in which they are written. -/
def epochWritten (sec ref : DWord) (ns utc : Word) (s : State) : State :=
  wr64 (wr (wr (wr64 s (R.TIME_EPOCH_SEC 0) sec) (R.TIME_EPOCH_NS 0) ns) (R.TIME_EPOCH_UTC 0) utc) (R.TIME_EPOCH_REF 0) ref

theorem timeEpochMsg_held {b : Bytes} {s : State} (hd : beAt b 0 1 = 0) (hn : beAt b 4 4 = s.line.number.toNat) :
    timeEpochMsg b s = event (epochWritten (BitVec.ofNat 64 (beAt b 8 6)) s.line.domA (BitVec.ofNat 32 (beAt b 16 4))
      (BitVec.ofNat 32 (2 ^ 31 + beAt b 2 2)) s) R.TIME_EVENT 14 := by
  unfold timeEpochMsg
  dsimp only
  rw [hd, hn, if_neg (by decide), if_neg (by simp), if_neg (not_not_intro rfl)]
  rfl

theorem epochWritten_held (b : Bytes) (sec : DWord) (ns : Word) (s : State) :
    let t := event (epochWritten sec s.line.domA ns (BitVec.ofNat 32 (2 ^ 31 + beAt b 2 2)) s) R.TIME_EVENT 14
    epochHeld t false = true ∧ rd64 t (R.TIME_EPOCH_SEC 0) = sec ∧ rd t (R.TIME_EPOCH_NS 0) = ns ∧
      rd64 t (R.TIME_EPOCH_REF 0) = s.line.domA ∧ rbit t R.TIME_EVENT 14 = true := by
  refine ⟨?_, ?_, ?_, ?_, rbit_event_self _ (by decide)⟩
  · have hutc : rd (event (epochWritten sec s.line.domA ns (BitVec.ofNat 32 (2 ^ 31 + beAt b 2 2)) s) R.TIME_EVENT 14) (R.TIME_EPOCH_UTC 0) =
        BitVec.ofNat 32 (2 ^ 31 + beAt b 2 2) := by
      rw [rd_event_ne _ _ (by decide), epochWritten, rd_wr64_ne _ _ (by decide) (by decide), rd_wr_same]
    have hlt : beAt b 2 2 < 256 ^ 2 := beAt_lt b 2 2
    exact (congrArg (bit · 31) hutc).trans (bit31_valid _ (by omega))
  · unfold event epochWritten
    rw [rd64_wr_ne _ _ (by decide), rd64_wr64_ne _ _ (by decide), rd64_wr_ne _ _ (by decide), rd64_wr_ne _ _ (by decide), rd64_wr64_same]
  · rw [rd_event_ne _ _ (by decide), epochWritten, rd_wr64_ne _ _ (by decide) (by decide), rd_wr_ne _ _ (by decide), rd_wr_same]
  · unfold event epochWritten
    rw [rd64_wr_ne _ _ (by decide), rd64_wr64_same]

/-! ### The rows' effects -/

/-- What each row does with the next message of the convoy in progress. -/
theorem hemRow_effect {s t : State} {mine : HemCheck → Bool} (ht : Frame [.intc] (messageEff mine s) t) :
    (hemTurn s = false → intcOnly s t) ∧
    (hemTurn s = true → hemOctets s s.line.cursor = .wait → intcOnly s t) ∧
    (hemTurn s = true → hemOctets s s.line.cursor = .cut → t = { s with line := { s.line with ended := true }, intc := t.intc }) ∧
    (∀ o, hemTurn s = true → hemOctets s s.line.cursor = .octets o →
      (mine (checkHem o) = false → intcOnly s t) ∧
      (mine (checkHem o) = true → t.line.hemsDone = s.line.hemsDone + 1 ∧ t.line.cursor = s.line.cursor + o.length ∧
        ∀ h, checkHem o = .good h → hemAddressed s h.tid = false → meetsLeft s h = false →
          t = { s with line := { s.line with hemsDone := s.line.hemsDone + 1, cursor := s.line.cursor + o.length }, intc := t.intc })) := by
  refine ⟨fun hturn => ?_, fun hturn hw => ?_, fun hturn hcut => ?_, fun o hturn ho => ⟨fun hm => ?_, fun hm => ?_⟩⟩
  · have he : messageEff mine s = s := if_pos (by simp [hturn])
    rw [he] at ht
    exact ht.intcOnly
  · have he : messageEff mine s = s := by
      unfold messageEff
      rw [hturn, hw]
      rfl
    rw [he] at ht
    exact ht.intcOnly
  · have he : messageEff mine s = endConvoy s := by
      unfold messageEff
      rw [hturn, hcut]
      rfl
    rw [he] at ht
    exact ht.intcOnly
  · rw [messageEff_octets hturn ho, hm, if_neg Bool.false_ne_true] at ht
    exact ht.intcOnly
  · rw [messageEff_octets hturn ho, if_pos hm] at ht
    obtain ⟨hdone, hcursor⟩ := takeHem_samePlace s.line.hemsDone o (hemNext o.length s)
    refine ⟨?_, ?_, fun h hc ha hl => ?_⟩
    · rw [ht.line_eq rfl, hdone]
      rfl
    · rw [ht.line_eq rfl, hcursor]
      rfl
    · have hl' : meetsLeft (hemNext o.length s) h = false := hl
      have ha' : hemAddressed (hemNext o.length s) h.tid = false := ha
      rw [takeHem_unaddressed hc hl' ha'] at ht
      exact ht.intcOnly

section
variable {s : State} {o : Octets} {h : Hem}

/-- HEM takes what is discarded or site-defined. -/
theorem messageEff_isSite (hturn : hemTurn s = true) (ho : hemOctets s s.line.cursor = .octets o) (hm : isSite (checkHem o) = true) :
    messageEff isSite s = takeHem s.line.hemsDone o (hemNext o.length s) := by
  rw [messageEff_octets hturn ho, if_pos hm]

theorem messageEff_trusted (hturn : hemTurn s = true) (ho : hemOctets s s.line.cursor = .octets o) (hc : checkHem o = .trusted) :
    messageEff isSite s = hemBad s.line.hemsDone o (hemNext o.length s) := by
  rw [messageEff_isSite hturn ho (by rw [hc]; rfl), takeHem, hc]

theorem messageEff_untrusted (hturn : hemTurn s = true) (ho : hemOctets s s.line.cursor = .octets o) (hc : checkHem o = .untrusted) :
    messageEff isSite s = cutConvoy (hemBad s.line.hemsDone o (hemNext o.length s)) := by
  rw [messageEff_isSite hturn ho (by rw [hc]; rfl), takeHem, hc]

theorem messageEff_site (hturn : hemTurn s = true) (ho : hemOctets s s.line.cursor = .octets o) (hc : checkHem o = .good h)
    (ha : hemAddressed s h.tid = true) (hs : hemConsumed h.type = false) : messageEff isSite s = hemDeliver h (hemNext o.length s) := by
  rw [messageEff_good hturn ho hc (by simp [isSite, hs]) (meetsLeft_site hs s) ha, hemAct_site hs]
  rfl

/-- A consumed message in its row. -/
theorem messageEff_type (hturn : hemTurn s = true) (ho : hemOctets s s.line.cursor = .octets o) (hc : checkHem o = .good h)
    (ha : hemAddressed s h.tid = true) (hm : hemMine s h = true) (hl : meetsLeft s h = false) {ty : Nat} (hty : h.type = ty) :
    messageEff (isType ty) s = hemEffect ty h (delivered h o.length s) := by
  rw [messageEff_good hturn ho hc (by simp [isType, hty]) hl ha, hemAct_mine ((hemMine_delivered ..).trans hm), hty]

theorem assignIdMsg_waits {b : Bytes} (hs : serialMatches s b = true) (hu : unregistered s = true) (h0 : beAt b 8 2 % 4096 ≠ 0)
    (hf : beAt b 8 2 % 4096 ≠ 0xFFF) :
    (assignIdMsg b s).line = { s.line with ident := some ⟨BitVec.ofNat 12 (beAt b 8 2 % 4096), s.line.convoys⟩ } ∧ (assignIdMsg b s).mode = s.mode := by
  unfold assignIdMsg
  dsimp only
  rw [if_pos (by simp [hs, hu, h0, hf])]
  exact ⟨rfl, rfl⟩

theorem assignEqdMsg_waits {b : Bytes} (hr : registered s = true) :
    (assignEqdMsg b s).line = { s.line with eqd := some ⟨(BitVec.ofNat 30 (beAt b 0 4), (b.getD 4 0).getLsbD 0), s.line.convoys⟩ } ∧
      (assignEqdMsg b s).mode = s.mode := by
  unfold assignEqdMsg
  rw [if_pos hr]
  exact ⟨rfl, rfl⟩

theorem routeParamsMsg_waits {b : Bytes} (hl : beAt b 0 4 % 2 ^ 30 ≤ 838400000) (hp : beAt b 4 2 ≠ 0) :
    (routeParamsMsg b s).line =
      { s.line with route := some ⟨(BitVec.ofNat 30 (beAt b 0 4 % 2 ^ 30), BitVec.ofNat 32 (beAt b 4 2)), s.line.convoys⟩ } := by
  unfold routeParamsMsg
  dsimp only
  rw [if_neg (by omega)]

theorem routeParamsMsg_bad {b : Bytes} (h : 838400000 < beAt b 0 4 % 2 ^ 30 ∨ beAt b 4 2 = 0) :
    (routeParamsMsg b s).line = s.line ∧ rbit (routeParamsMsg b s) Block.line.base 12 = true := by
  unfold routeParamsMsg
  dsimp only
  rw [if_pos h]
  exact ⟨fault_frame.line_eq rfl, rbit_fault_self _ .line _ _ (by decide)⟩

theorem deregisterMsg_now {b : Bytes} (hr : registered s = true) (hs : serialMatches s b = true) (hl : s.mode.mode ≠ .loading) :
    deregisterMsg b s = enterSilent s := by
  unfold deregisterMsg
  rw [if_pos (by simp [hr, hs]), if_neg hl]

theorem deregisterMsg_loading {b : Bytes} (hr : registered s = true) (hs : serialMatches s b = true) (hl : s.mode.mode = .loading) :
    (deregisterMsg b s).mode = { s.mode with dereg := true } := by
  unfold deregisterMsg
  rw [if_pos (by simp [hr, hs]), if_pos hl]

theorem hemEffect_deregister : hemEffect 0x04 h s = deregisterMsg h.body s := rfl

theorem wakeCondition_fallow (hf : s.mode.mode = .fallow) : (wakeCondition s).mode.wake = true ∧ (wakeCondition s).mode.mode = .fallow ∧
    (wakeCondition s).mode.request = some (s.mode.request.getD .service) := by
  unfold wakeCondition
  rw [if_pos hf]
  exact ⟨rfl, hf, rfl⟩

/-- A DEREGISTER of the instant of a commit is in DEREGISTER's row. -/
theorem type_of_meetsLeft (hl : meetsLeft s h = true) : h.type = 0x04 := by
  by_contra h4
  rw [meetsLeft_of_type h4] at hl
  exact absurd hl (by decide)

theorem messageEff_late (hturn : hemTurn s = true) (ho : hemOctets s s.line.cursor = .octets o) (hc : checkHem o = .good h)
    (hl : meetsLeft s h = true) : messageEff (isType 0x04) s = deregisterLate (delivered h o.length s) := by
  have hl' : meetsLeft (hemNext o.length s) h = true := hl
  rw [messageEff_octets hturn ho, hc, if_pos (by simp [isType, type_of_meetsLeft hl]), takeHem, hc]
  exact if_pos hl'

/-- What the terminal was when the commit took it out of its mode, with its ID again the own one (02 R98). -/
def lateOwn (tid : Word) (m : Mode) (s : State) : State :=
  setPm0 (wr { s with mode := { s.mode with mode := if s.mode.mode = .dormant then m else s.mode.mode, left := none } } R.LINE_TID tid) tid

theorem lateOwn_frame {tid : Word} {m : Mode} : Frame [.mode, .line, .regs] s (lateOwn tid m s) :=
  setPm0_frame.andThen rfl (wr_frame.andThen rfl (.with_mode rfl .refl))

theorem rd_lateOwn (tid : Word) (m : Mode) : rd (lateOwn tid m s) R.LINE_TID = tid := by
  rw [lateOwn, rd_setPm0_ne _ _ (by decide), rd_wr_same]

theorem deregisterLate_of_left {n : Nat} {tid : Word} {m : Mode} (hl : s.mode.left = some (n, tid, m)) :
    deregisterLate s = enterSilent (lateOwn tid m s) := by
  unfold deregisterLate
  rw [hl]
  rfl

end

end Sys2Proof.Machine

open Sys2Proof Sys2Proof.Machine

/-- Settles O29: the rows' division and their common steps, discarded and site-defined messages, the consumed types, and a DEREGISTER of the
instant of a commit. -/
theorem headEndMessages : Obligations.HeadEndMessages := by
  unfold Obligations.HeadEndMessages
  refine ⟨⟨hemRows_one, fun s r hr hrun => ?_, fun s o hrun hturn ho => ?_⟩, fun s o h hrun hturn ho hc ha hm hl => ?_,
    fun s o h n tid m hrun hturn ho hc hl hleft => ?_⟩
  · obtain ⟨t, ht, hframe⟩ := viaCore_frame hrun (messageEff r.2)
    exact ⟨t, (exec_hemRow hr hrun).trans ht, hemRow_effect hframe⟩
  · obtain ⟨t, ht, hframe⟩ := viaCore_frame hrun (messageEff isSite)
    have hreg (a : Nat) : rd (hemNext o.length s) a = rd s a := rd_congr rfl a
    have hrec : recorded s (hemBad s.line.hemsDone o (hemNext o.length s)) .line 8 := recorded_hemBad (u := hemNext o.length s) rfl
    refine ⟨t, ht, fun hc => ?_, fun hc => ?_, fun h hc ha hs => ⟨fun he hr => ?_, fun he hr => ?_, fun he => ?_⟩⟩
    · rw [messageEff_trusted hturn ho hc] at hframe
      refine ⟨regsOnly_hemBad.andIntc hframe, ?_, recorded_congr (hframe.regs_eq rfl) hrec⟩
      rw [rd_congr (hframe.regs_eq rfl), rd_hemBad, hreg]
    · rw [messageEff_untrusted hturn ho hc] at hframe
      have hcut := records_cutConvoy (hemBad s.line.hemsDone o (hemNext o.length s))
      refine ⟨?_, ?_, ?_, ?_⟩
      · rw [hframe.line_eq rfl, cutConvoy, abandonAll_frame.line_eq rfl]
        rfl
      · rw [hframe.reasm_eq rfl, cutConvoy, abandonAll_reasm]
      · rw [rd_congr (hframe.regs_eq rfl), hcut.rd_out (by decide) (by decide), rd_hemBad, hreg]
      · rw [rbit_congr (hframe.regs_eq rfl)]
        obtain ⟨hbit, -⟩ := hrec
        exact hcut.bits (by decide) hbit
    all_goals rw [messageEff_site hturn ho hc ha hs] at hframe
    · have hopen := hemDeliver_open (s := hemNext o.length s) hs he hr
      rw [hopen] at hframe
      have hring : Frame [.rings, .intc] (hemNext o.length s) t := hframe.andThen rfl (setRing_frame.weaken rfl)
      refine ⟨hring.eq_of fun f => by cases f <;> rfl, ?_⟩
      unfold ring
      rw [hframe.rings_eq rfl]
      exact congrArg Ring.inbox (ring_setRing_same ..)
    · have hctl : rfld (hemNext o.length s) R.LINE_HEM_CTL 0 8 = rfld s R.LINE_HEM_CTL 0 8 := rfl
      rw [hemDeliver_closed (s := hemNext o.length s) hs he hr, hctl] at hframe
      refine ⟨(((regsOnly_bump _ _).mono (by simp)).trans ((regsOnly_hemDrop _).mono (by simp))).andIntc hframe, ?_⟩
      rw [rd_congr (hframe.regs_eq rfl), rd_hemDrop, rd_bump_ne, hreg]
      · rfl
      · unfold R.LINE_CNT_HEM_DROP R.RING_CNT_OFF
        omega
    · rw [hemDeliver_off (s := hemNext o.length s) hs he] at hframe
      refine ⟨(regsOnly_hemDrop _).andIntc hframe, ?_⟩
      rw [rd_congr (hframe.regs_eq rfl), rd_hemDrop, hreg]
      rfl
  · have hd := delivered_frame h o.length s
    have hmode : (delivered h o.length s).mode = s.mode := hd.mode_eq rfl
    have hline := delivered_line h o.length s
    have hserial : serialMatches (delivered h o.length s) h.body = serialMatches s h.body := serialMatches_congr (hd.fuses_eq rfl) _
    have hreg : registered (delivered h o.length s) = registered s := registered_congr hmode
    have hrow {i : Instr} {ty : Nat} (hi : exec i s = viaCore s (messageEff (isType ty))) (hty : h.type = ty) :
        ∃ t, exec i s = .next t ∧ Frame [.intc] (hemEffect ty h (delivered h o.length s)) t := by
      obtain ⟨t, ht, hframe⟩ := viaCore_frame hrun (messageEff (isType ty))
      rw [messageEff_type hturn ho hc ha hm hl hty] at hframe
      exact ⟨t, hi.trans ht, hframe⟩
    refine ⟨fun hty hs hu h0 hf => ?_, fun hty hr => ?_, fun hty hlo hp => ?_, fun hty hbad => ?_, fun hty hr hs hload => ?_, fun hty hr hs hload => ?_,
      fun hty hfallow => ?_, fun hty hd0 hn => ?_⟩
    · obtain ⟨t, ht, hframe⟩ := hrow (i := .assignId) rfl hty
      obtain ⟨hident, hkept⟩ := assignIdMsg_waits (hserial.trans hs) ((unregistered_congr hmode).trans hu) h0 hf
      refine ⟨t, ht, ?_, ((hframe.mode_eq rfl).trans hkept).trans hmode⟩
      rw [(hframe.line_eq rfl).trans hident, hline]
    · obtain ⟨t, ht, hframe⟩ := hrow (i := .assignEqd) rfl hty
      obtain ⟨heqd, hkept⟩ := assignEqdMsg_waits (b := h.body) (hreg.trans hr)
      refine ⟨t, ht, ?_, ((hframe.mode_eq rfl).trans hkept).trans hmode⟩
      rw [(hframe.line_eq rfl).trans heqd, hline]
    · obtain ⟨t, ht, hframe⟩ := hrow (i := .routeParams) rfl hty
      refine ⟨t, ht, ?_⟩
      rw [(hframe.line_eq rfl).trans (routeParamsMsg_waits hlo hp), hline]
    · obtain ⟨t, ht, hframe⟩ := hrow (i := .routeParams) rfl hty
      obtain ⟨hkept, hbit⟩ := routeParamsMsg_bad (s := delivered h o.length s) hbad
      refine ⟨t, ht, ?_, (rbit_congr (hframe.regs_eq rfl) ..).trans hbit⟩
      rw [(hframe.line_eq rfl).trans hkept, hline]
    · have hi : exec .deregister s = viaCore s (messageEff (isType 0x04)) := exec_hemRow (r := (.deregister, isType 4)) (by simp [hemRows]) hrun
      obtain ⟨t, ht, hframe⟩ := hrow hi hty
      rw [hemEffect_deregister, deregisterMsg_now (hreg.trans hr) (hserial.trans hs) (by rw [hmode]; exact hload)] at hframe
      have hsilent := enterSilent_silent (delivered h o.length s)
      have hrd (a : Nat) : rd t a = rd (enterSilent (delivered h o.length s)) a := rd_congr (hframe.regs_eq rfl) a
      refine ⟨t, ht, by rw [hframe.mode_eq rfl, hsilent.mode], by rw [hframe.mode_eq rfl, hsilent.sub], (rbit_of_rd (hrd _)).trans (hsilent.eqd (.inr rfl)),
        (rbit_of_rd (hrd _)).trans (hsilent.eqd (.inl rfl)), by rw [hframe.line_eq rfl, hsilent.line], (rbit_of_rd (hrd _)).trans hsilent.event,
        ?_, ?_, ?_, ?_, ?_⟩
      · rw [hframe.table_eq rfl]
        exact hsilent.table
      · rw [hframe.mode_eq rfl, hsilent.request, hmode]
      · rw [hframe.mode_eq rfl, hsilent.met, hmode]
      · rw [hframe.keys_eq rfl, hsilent.emptyAt, hline]
      · exact (ownId_of_rd ((hrd _).trans hsilent.own)).trans (ownId_delivered ..)
    · have hi : exec .deregister s = viaCore s (messageEff (isType 0x04)) := exec_hemRow (r := (.deregister, isType 4)) (by simp [hemRows]) hrun
      obtain ⟨t, ht, hframe⟩ := hrow hi hty
      refine ⟨t, ht, ?_⟩
      rw [(hframe.mode_eq rfl).trans (deregisterMsg_loading (hreg.trans hr) (hserial.trans hs) (by rw [hmode, hload])), hmode]
    · obtain ⟨t, ht, hframe⟩ := hrow (i := .wake) rfl hty
      obtain ⟨hwake, hkept, hrequest⟩ := wakeCondition_fallow (s := delivered h o.length s) (by rw [hmode, hfallow])
      have htmode := hframe.mode_eq rfl
      refine ⟨t, ht, by rw [htmode]; exact hwake, by rw [htmode]; exact hkept, ?_⟩
      rw [htmode]
      refine hrequest.trans ?_
      rw [hmode]
    · obtain ⟨t, ht, hframe⟩ := hrow (i := .timeEpoch) rfl hty
      have hnumber : (delivered h o.length s).line.number = s.line.number := by rw [hline]
      have hdomA : (delivered h o.length s).line.domA = s.line.domA := by rw [hline]
      have he : hemEffect 0x21 h (delivered h o.length s) = _ := timeEpochMsg_held hd0 (by rw [hnumber, hn])
      obtain ⟨hheld, hsec, hns, href, hevent⟩ :=
        epochWritten_held h.body (BitVec.ofNat 64 (beAt h.body 8 6)) (BitVec.ofNat 32 (beAt h.body 16 4)) (delivered h o.length s)
      rw [he] at hframe
      have hrd (a : Nat) := rd_congr (hframe.regs_eq rfl) a
      refine ⟨t, ht, (rbit_of_rd (hrd _)).trans hheld, (rd64_of_rd (hrd _) (hrd _)).trans hsec, (hrd _).trans hns, ?_, (rbit_of_rd (hrd _)).trans hevent⟩
      rw [rd64_of_rd (hrd _) (hrd _), href, hdomA]
  · have hd := delivered_frame h o.length s
    have hleft' : (delivered h o.length s).mode.left = some (n, tid, m) := by rw [hd.mode_eq rfl, hleft]
    have he := (messageEff_late hturn ho hc hl).trans (deregisterLate_of_left hleft')
    have hexec : exec .deregister s = done (messageEff (isType 0x04) s) := if_pos (by simpa using hrun)
    have hcore : s.power.coreUp = true := hrun.elim running_coreUp fun hf => (Bool.and_eq_true_iff.1 hf).1
    obtain ⟨t, ht, hframe⟩ := done_frame (messageEff (isType 0x04) s)
    rw [he] at hframe
    have hsilent := enterSilent_silent (lateOwn tid m (delivered h o.length s))
    have htmode := hframe.mode_eq rfl
    have hpower : t.power = s.power := by
      rw [hframe.power_eq rfl, enterSilent_frame.power_eq rfl, lateOwn_frame.power_eq rfl, hd.power_eq rfl]
    refine ⟨t, hexec.trans ht, by rw [htmode, hsilent.mode], by rw [htmode, hsilent.sub], by rw [htmode, hsilent.left]; rfl, ?_, ?_, ?_,
      (rbit_congr (hframe.regs_eq rfl) ..).trans hsilent.event⟩
    · unfold running
      rw [hpower, hcore, htmode, hsilent.mode]
      rfl
    · rw [rd_congr (hframe.regs_eq rfl), hsilent.own, rd_lateOwn]
    · unfold pmEntry
      rw [hframe.line_eq rfl, hsilent.line]
      exact look_put_same ..

end

section
/-!
A downstream segment (O30): what each step of 03 R176 leaves of the line's record, the contexts and the keys; the restart of an open frame
(R914), frames abandoned (R183), decryption (R177-R179) and reassembly (R181-R184).
-/
namespace Sys2Proof.Machine

/-! ### The faults of the line's record stay -/

/-- A fault that the line's record shows is shown afterwards. -/
structure KeepsFaults (s t : State) : Prop where
  bits : ∀ {i : Nat}, i < 32 → rbit s Block.line.base i = true → rbit t Block.line.base i = true

section
variable {s t u : State}

theorem KeepsFaults.of_rd (h : rd t Block.line.base = rd s Block.line.base) : KeepsFaults s t := ⟨fun _ hb => (rbit_of_rd h).trans hb⟩

theorem KeepsFaults.of_regs (h : t.regs = s.regs) : KeepsFaults s t := .of_rd (rd_congr h _)

theorem Records.keepsFaults {l : List Nat} (h : Records .line l s t) : KeepsFaults s t := ⟨h.bits⟩

theorem KeepsFaults.trans (h : KeepsFaults s t) (h' : KeepsFaults t u) : KeepsFaults s u := ⟨fun hi hb => h'.bits hi (h.bits hi hb)⟩

end

/-! ### Abandoned frames (03 R183) -/

section
variable (h : SegHeader) (s : State)

theorem findCtx_of_ctxs {s t : State} (h : t.reasm.ctxs = s.reasm.ctxs) (tid flow : Nat) : findCtx t tid flow = findCtx s tid flow := by
  unfold findCtx
  rw [h]

theorem reasmDrop_reasm (tid flow reason : Nat) : (reasmDrop s tid flow reason).reasm = s.reasm := reasmDrop_frame.reasm_eq rfl

theorem records_closedDrop (reason : Nat) :
    Records .line [R.LINE_CNT_REASM_DROP] s (reasmDrop (closeCtx s h.tid h.flow) h.tid h.flow reason) :=
  (Records.of_regs (closeCtx_frame.regs_eq rfl)).trans (records_reasmDrop ..)

/-- The segments passed over change no register and no context. -/
theorem segDrop_skips (reason : Nat) : ∃ k, segDrop h reason s =
    { reasmDrop (closeCtx s h.tid h.flow) h.tid h.flow reason with
      reasm := { (reasmDrop (closeCtx s h.tid h.flow) h.tid h.flow reason).reasm with skips := k } } := by
  unfold segDrop
  dsimp only
  split
  · split
    · exact ⟨_, rfl⟩
    · exact ⟨_, rfl⟩
  · exact ⟨_, rfl⟩

theorem records_segDrop (reason : Nat) : Records .line [R.LINE_CNT_REASM_DROP] s (segDrop h reason s) := by
  obtain ⟨k, he⟩ := segDrop_skips h s reason
  rw [he]
  exact (records_closedDrop h s reason).trans (.of_regs rfl)

theorem findCtx_segDrop (reason : Nat) : findCtx (segDrop h reason s) h.tid h.flow = none := by
  obtain ⟨k, he⟩ := segDrop_skips h s reason
  rw [he]
  have hctxs : (reasmDrop (closeCtx s h.tid h.flow) h.tid h.flow reason).reasm.ctxs = (closeCtx s h.tid h.flow).reasm.ctxs := by
    rw [reasmDrop_reasm]
  exact (findCtx_of_ctxs hctxs _ _).trans (findCtx_closeCtx s h.tid h.flow)

theorem records_segAbandon (reason : Nat) : Records .line [R.LINE_CNT_REASM_DROP] s (segAbandon h reason s) := by
  unfold segAbandon
  split
  · exact .of_regs (segPass_frame.regs_eq rfl)
  · exact records_segDrop ..

variable {h s}

theorem findCtx_segAbandon (hk : skipping s h = none) (reason : Nat) : findCtx (segAbandon h reason s) h.tid h.flow = none := by
  unfold segAbandon
  rw [hk]
  cases h.starts with
  | true => exact findCtx_segDrop ..
  | false => exact findCtx_segDrop ..

/-! ### The restart of an open frame (03 R914) -/

theorem segRestart_idle (hr : h.starts = false ∨ findCtx s h.tid h.flow = none) : segRestart h s = s := by
  refine if_neg ?_
  rcases hr with hr | hr <;> simp [hr]

theorem segRestart_open (hs : h.starts = true) (hc : findCtx s h.tid h.flow ≠ none) :
    segRestart h s = reasmDrop (closeCtx s h.tid h.flow) h.tid h.flow 7 :=
  if_pos (by simp [hs, Option.isSome_iff_ne_none, hc])

theorem records_segRestart : Records .line [R.LINE_CNT_REASM_DROP] s (segRestart h s) := by
  unfold segRestart
  split
  · exact records_closedDrop h s 7
  · exact .of_regs rfl

theorem segRestart_skips : (segRestart h s).reasm.skips = s.reasm.skips := by
  unfold segRestart
  split
  · rw [reasmDrop_reasm]
    rfl
  · rfl

theorem skipping_segRestart : skipping (segRestart h s) h = skipping s h := by
  unfold skipping
  rw [segRestart_skips]

theorem pmIndex_segRestart (tid : Nat) : pmIndex (segRestart h s) tid = pmIndex s tid :=
  pmIndex_congr (by rw [segRestart_frame.line_eq rfl]) (records_segRestart.rd_out (by decide) (by decide)) tid

theorem pmMatches_segRestart (tid : Nat) : pmMatches (segRestart h s) tid = pmMatches s tid := by
  unfold pmMatches
  rw [pmIndex_segRestart]

theorem segKey_segRestart : segKey (segRestart h s) h = segKey s h := by
  unfold segKey
  rw [pmIndex_segRestart, hasCipher_congr (segRestart_frame.fuses_eq rfl), segRestart_frame.keys_eq rfl]

theorem segNoKey_segRestart : segNoKey (segRestart h s) h = segNoKey s h := by
  unfold segNoKey
  rw [segKey_segRestart]

/-! ### Decryption (03 R177-R179) -/

/-- The payload is in the clear, or its PN is above the highest before and its tag verifies; and the keys with its PN the highest. -/
def PayloadRead (s : State) (h : SegHeader) (p : Octets) (b : Bytes) (keys : Keys) : Prop :=
  (h.key = 0 ∧ whole p = some b ∧ keys = s.keys) ∨ (∃ n k q, h.key ≠ 0 ∧ segKey s h = some (n, k) ∧ whole p = some q ∧
    k.high < beAt q 0 8 ∧ segTagOk k h q = true ∧ b = gcmApply k.key (k.salt ++ q.take 8) ((q.drop 8).take (q.length - 24)) ∧
    keys = { s.keys with down := put none s.keys.down n (some { k with high := beAt q 0 8 }) })

theorem segKey_of_zero (hz : h.key = 0) : segKey s h = none := if_neg (by simp [hz])

theorem PayloadRead.hasKey {p : Octets} {b : Bytes} {keys : Keys} (hp : PayloadRead s h p b keys) : segNoKey s h = false := by
  unfold segNoKey
  rcases hp with ⟨hz, -, -⟩ | ⟨n, k, q, -, hk, -⟩
  · simp [hz]
  · simp [hk]

/-- The state in which the payload is reassembled. -/
def withKeys (keys : Keys) (s : State) : State := { s with keys := keys }

theorem PayloadRead.congr {t : State} {p : Octets} {b : Bytes} {keys : Keys} (hp : PayloadRead s h p b keys) (hk : segKey t h = segKey s h)
    (ht : t.keys = s.keys) : PayloadRead t h p b keys := by
  unfold PayloadRead
  rwa [hk, ht]

theorem PayloadRead.clear {p : Octets} {b : Bytes} {keys : Keys} (hp : PayloadRead s h p b keys) :
    ∃ q, whole p = some q ∧ segClear h q s = (some b, withKeys keys s) := by
  unfold segClear
  rcases hp with ⟨hz, hw, rfl⟩ | ⟨n, k, q, -, hk, hw, hhigh, htag, rfl, rfl⟩
  · exact ⟨b, hw, by rw [segKey_of_zero hz]; rfl⟩
  · refine ⟨q, hw, ?_⟩
    rw [hk]
    simp [Nat.not_le.mpr hhigh, htag, withKeys]

/-! ### The steps of R176 -/

theorem segSteps_unmatched {payload : Option Bytes} {off : Nat} (hm : pmMatches s h.tid = false) : segSteps h payload off s = segRestart h s := by
  unfold segSteps
  dsimp only
  rw [pmMatches_segRestart, hm]
  rfl

theorem segSteps_noKey {payload : Option Bytes} {off : Nat} (hm : pmMatches s h.tid = true) (hk : segNoKey s h = true) :
    segSteps h payload off s = segAbandon h 8
      (fault (bump (segRestart h s) R.LINE_CNT_SEG_KEY) .line 11 (pmInstance (segRestart h s) h.tid) (BitVec.ofNat 64 (beNat h.raw))) := by
  unfold segSteps
  dsimp only
  rw [pmMatches_segRestart, hm, segNoKey_segRestart, hk]
  rfl

theorem segSteps_erased {off : Nat} (hm : pmMatches s h.tid = true) (hk : segNoKey s h = false) :
    segSteps h none off s = segAbandon h 10 (segRestart h s) := by
  unfold segSteps
  dsimp only
  rw [pmMatches_segRestart, hm, segNoKey_segRestart, hk]
  rfl

theorem segSteps_read {p : Octets} {b : Bytes} {keys : Keys} {off : Nat} (hm : pmMatches s h.tid = true) (hp : PayloadRead s h p b keys) :
    segSteps h (whole p) off s = segReassemble h b off (withKeys keys (segRestart h s)) := by
  obtain ⟨q, hw, hclear⟩ := (hp.congr segKey_segRestart (segRestart_frame.keys_eq rfl) : PayloadRead (segRestart h s) h p b keys).clear
  unfold segSteps
  dsimp only
  rw [pmMatches_segRestart, hm, segNoKey_segRestart, hp.hasKey, hw]
  dsimp only
  rw [hclear]
  rfl

/-! ### Reassembly (03 R181-R184) -/

/-- The windows change their own counts alone. -/
theorem rd_winCount (port : Option Nat) (t : DWord) (len : Nat) (s : State) {a : Nat} (ha : 0x400600 ≤ a) : rd (winCount port t len s) a = rd s a := by
  refine rd_foldl (fun s n hn => ?_) s
  have hn : n < 8 := List.mem_range.1 hn
  have hcounted (c : Prop) [Decidable c] : rd (if c then bump64 (bump s (R.TIME_WIN_FRAMES n)) (R.TIME_WIN_BYTES n) len else s) a = rd s a := by
    split
    · rw [rd_bump64_ne, rd_bump_ne] <;> simp only [R.TIME_WIN_FRAMES, R.TIME_WIN_BYTES] <;> omega
    · rfl
  exact hcounted _

/-- A completed frame is counted and starts at the reassembler's front. -/
structure Completed (b : Bytes) (stamp : DWord) (s t : State) : Prop where
  count : rd t R.LINE_CNT_REASM_OK = sat32 ((rd s R.LINE_CNT_REASM_OK).toNat + 1)
  flight : ∃ f, t.flights = s.flights ++ [f] ∧ f.data = b ∧ f.tok.port = 17 ∧ f.tok.len = b.length ∧ f.tok.stamp = stamp

theorem reasmDeliver_rd (tid flow : Nat) (b : Bytes) (stamp : DWord) (steps : Nat) (s : State) {a : Nat} (ha : 0x400600 ≤ a) :
    rd (reasmDeliver tid flow b stamp steps s) a = rd (bump s R.LINE_CNT_REASM_OK) a := by
  unfold reasmDeliver
  rw [rd_congr (startFlight_frame.regs_eq rfl), rd_winCount _ _ _ _ ha]

theorem startFlight_flights (tok : Token) (data : Bytes) (err runt : Bool) (pool : Nat) (s : State) :
    ∃ f, (startFlight tok data err runt pool s).flights = s.flights ++ [f] ∧ f.data = data ∧ f.tok.port = tok.port ∧ f.tok.len = tok.len ∧
      f.tok.stamp = tok.stamp :=
  ⟨_, congrArg (· ++ _) (takeVersion_frame.flights_eq rfl), rfl, rfl, rfl, rfl⟩

theorem reasmDeliver_completed (tid flow : Nat) (b : Bytes) (stamp : DWord) (steps : Nat) (s : State) :
    Completed b stamp s (reasmDeliver tid flow b stamp steps s) := by
  refine ⟨by rw [reasmDeliver_rd _ _ _ _ _ _ (by decide), rd_bump_same], ?_⟩
  obtain ⟨f, hf, hall⟩ := startFlight_flights { len := b.length, src := .line, port := 17, csum := csumResults b, stamp := stamp, steps := steps
                                                hash := flowHash (beBytes 2 tid ++ beBytes 2 flow) } b false false (granulesOf b.length)
    (winCount none stamp b.length (bump s R.LINE_CNT_REASM_OK))
  rw [winCount_frame.flights_eq rfl, bump_frame.flights_eq rfl] at hf
  exact ⟨f, hf, hall⟩

theorem reasmDeliver_keepsFaults (tid flow : Nat) (b : Bytes) (stamp : DWord) (steps : Nat) (s : State) :
    KeepsFaults s (reasmDeliver tid flow b stamp steps s) :=
  .of_rd (by rw [reasmDeliver_rd _ _ _ _ _ _ (by decide), rd_bump_ne _ (by decide)])

theorem Completed.after {b : Bytes} {stamp : DWord} {s u t v : State} (hc : Completed b stamp u t) (hr : u.regs = s.regs) (hf : u.flights = s.flights)
    (ht : Frame [.intc] t v) : Completed b stamp s v := by
  obtain ⟨hcount, f, hflight, hall⟩ := hc
  refine ⟨?_, f, ?_, hall⟩
  · rw [rd_congr (ht.regs_eq rfl), hcount, rd_congr hr]
  · rw [ht.flights_eq rfl, hflight, hf]

end

end Sys2Proof.Machine
end

section
/-!
Downstream segments, continued (O30): WHOLE, FIRST, MIDDLE and LAST in the reassembler (03 R181-R184), and the next segment of the convoy (R174-R176).
-/
namespace Sys2Proof.Machine

/-! ### The parts of a frame -/

section
variable {h : SegHeader} {b : Bytes} {off : Nat} {s : State}

theorem starts_iff : h.starts = true ↔ 2 ≤ h.frag := by
  unfold SegHeader.starts
  exact decide_eq_true_iff

theorem segReassemble_whole (hf : h.frag = 3) (hlo : 60 ≤ b.length) (hmax : b.length ≤ reasmMax s) (hpool : granulesOf b.length ≤ poolFree s) :
    segReassemble h b off s = reasmDeliver h.tid h.flow b (rowInstant s off).1 (rowInstant s off).2 (unskip h s) := by
  have hmax' : ¬reasmMax (unskip h s) < b.length := Nat.not_lt.mpr hmax
  have hpool' : ¬poolFree (unskip h s) < granulesOf b.length := Nat.not_lt.mpr hpool
  unfold segReassemble
  dsimp only
  rw [if_pos (starts_iff.mpr (by omega)), if_pos hf, segWhole, if_neg hmax', if_neg hpool', if_neg (by omega)]

/-- The context that a FIRST opens. -/
def firstContext (h : SegHeader) (b : Bytes) (at_ : DWord × Nat) (s : State) : Context := ⟨h.tid, h.flow, h.key, b, s.line.convoys, at_.1, at_.2⟩

theorem segReassemble_first (hf : h.frag = 2) (hn : s.reasm.ctxs.length < 4096) (hmax : b.length ≤ reasmMax s)
    (hpool : granulesOf b.length ≤ poolFree s) :
    (segReassemble h b off s).reasm.ctxs = s.reasm.ctxs ++ [firstContext h b (rowInstant s off) s] := by
  have hn' : ¬4096 ≤ (unskip h s).reasm.ctxs.length := Nat.not_le.mpr hn
  have hmax' : ¬reasmMax (unskip h s) < b.length := Nat.not_lt.mpr hmax
  have hpool' : ¬poolFree (unskip h s) < granulesOf b.length := Nat.not_lt.mpr hpool
  unfold segReassemble
  dsimp only
  rw [if_pos (starts_iff.mpr (by omega)), if_neg (by omega), segFirst, if_neg hn', if_neg hmax', if_neg hpool']
  rfl

variable {c : Context}

/-- The context of `c`'s frame extended to the bytes `b`. -/
def extended (c : Context) (b : Bytes) (s : State) : State :=
  { s with reasm := { s.reasm with ctxs := s.reasm.ctxs.map fun x =>
      if x.tid = c.tid ∧ x.flow = c.flow then { x with bytes := b, seen := s.line.convoys } else x } }

theorem segReassemble_more (hf : h.frag < 2) (hc : findCtx s h.tid h.flow = some c) (hk : h.key = c.key) (hmax : (c.bytes ++ b).length ≤ reasmMax s)
    (hpool : granulesOf (c.bytes ++ b).length ≤ poolFree s + granulesOf c.bytes.length) :
    segReassemble h b off s = if h.frag = 1 then segLast c (c.bytes ++ b) s else extended c (c.bytes ++ b) s := by
  have hstarts : ¬h.starts = true := fun hs => absurd (starts_iff.mp hs) (by omega)
  unfold segReassemble
  rw [if_neg hstarts, hc]
  dsimp only
  unfold segMore
  dsimp only
  rw [if_neg (not_not_intro hk), if_neg (Nat.not_lt.mpr hmax), if_neg (Nat.not_lt.mpr hpool)]
  rfl

theorem findCtx_extended (hc : findCtx s h.tid h.flow = some c) (b : Bytes) :
    findCtx (extended c b s) h.tid h.flow = some { c with bytes := b, seen := s.line.convoys } := by
  obtain ⟨htid, hflow⟩ := findCtx_key hc
  unfold findCtx extended at *
  rw [List.find?_map]
  have hsame : (fun x : Context => x.tid == h.tid && x.flow == h.flow) ∘
      (fun x : Context => if x.tid = c.tid ∧ x.flow = c.flow then { x with bytes := b, seen := s.line.convoys } else x) =
        fun x : Context => x.tid == h.tid && x.flow == h.flow := by
    funext x
    dsimp only [Function.comp]
    split
    · rfl
    · rfl
  rw [hsame, hc]
  exact congrArg some (if_pos ⟨rfl, rfl⟩)

theorem findCtx_segLast (hc : findCtx s h.tid h.flow = some c) (b : Bytes) : findCtx (segLast c b s) h.tid h.flow = none := by
  obtain ⟨htid, hflow⟩ := findCtx_key hc
  have hclosed : findCtx (closeCtx s c.tid c.flow) h.tid h.flow = none := by
    rw [← htid, ← hflow]
    exact findCtx_closeCtx s c.tid c.flow
  unfold segLast
  dsimp only
  split
  · rw [findCtx_congr (reasmDrop_reasm ..), hclosed]
  · rw [findCtx_congr (reasmDeliver_frame.reasm_eq rfl), hclosed]

theorem segLast_completes (hlo : 60 ≤ b.length) : segLast c b s = reasmDeliver c.tid c.flow b c.stamp c.steps (closeCtx s c.tid c.flow) :=
  if_neg (by omega)

end

/-! ### The line's faults stay -/

section
variable (h : SegHeader) (s : State)

theorem keepsFaults_segAbandon (reason : Nat) : KeepsFaults s (segAbandon h reason s) := (records_segAbandon h s reason).keepsFaults

theorem keepsFaults_reasmDrop (tid flow reason : Nat) : KeepsFaults s (reasmDrop s tid flow reason) := (records_reasmDrop ..).keepsFaults

theorem keepsFaults_segWhole (b : Bytes) (x : DWord × Nat) : KeepsFaults s (segWhole h b x s) := by
  unfold segWhole
  split
  · exact keepsFaults_segAbandon ..
  split
  · exact keepsFaults_segAbandon ..
  split
  · exact keepsFaults_reasmDrop ..
  · exact reasmDeliver_keepsFaults ..

theorem keepsFaults_segFirst (b : Bytes) (x : DWord × Nat) : KeepsFaults s (segFirst h b x s) := by
  unfold segFirst
  split
  · exact keepsFaults_segAbandon ..
  split
  · exact keepsFaults_segAbandon ..
  split
  · exact keepsFaults_segAbandon ..
  · exact .of_regs rfl

theorem keepsFaults_segLast (c : Context) (b : Bytes) : KeepsFaults s (segLast c b s) := by
  have hclose : KeepsFaults s (closeCtx s c.tid c.flow) := .of_regs (closeCtx_frame.regs_eq rfl)
  unfold segLast
  dsimp only
  split
  · exact hclose.trans (keepsFaults_reasmDrop ..)
  · exact hclose.trans (reasmDeliver_keepsFaults ..)

theorem keepsFaults_segMore (c : Context) (p : Bytes) : KeepsFaults s (segMore h c p s) := by
  unfold segMore
  dsimp only
  split
  · exact keepsFaults_segAbandon ..
  split
  · exact keepsFaults_segAbandon ..
  split
  · exact keepsFaults_segAbandon ..
  split
  · exact keepsFaults_segLast ..
  · exact .of_regs rfl

theorem keepsFaults_segReassemble (b : Bytes) (off : Nat) : KeepsFaults s (segReassemble h b off s) := by
  unfold segReassemble
  split
  · have hunskip : KeepsFaults s (unskip h s) := .of_regs (unskip_frame.regs_eq rfl)
    dsimp only
    split
    · exact hunskip.trans (keepsFaults_segWhole ..)
    · exact hunskip.trans (keepsFaults_segFirst ..)
  · split
    · exact keepsFaults_segMore ..
    · exact keepsFaults_segAbandon ..

theorem keepsFaults_segClear (p : Bytes) : KeepsFaults s (segClear h p s).2 := by
  have hcipher (c i : Nat) (d : DWord) : KeepsFaults s (fault (draw1 s) .cipher c i d) :=
    .of_rd ((rd_fault_out _ _ _ _ _ (by decide)).trans (rd_congr (draw1_regs s) _))
  unfold segClear
  split
  · exact .of_regs rfl
  dsimp only
  split
  · exact hcipher ..
  split
  · exact hcipher ..
  · exact .of_regs rfl

/-- What the restart of an open frame records is still shown after the segment. -/
theorem keepsFaults_segSteps (payload : Option Bytes) (off : Nat) : KeepsFaults (segRestart h s) (segSteps h payload off s) := by
  have hnokey (c i : Nat) (d : DWord) : KeepsFaults (segRestart h s) (fault (bump (segRestart h s) R.LINE_CNT_SEG_KEY) .line c i d) :=
    ((records_bump _ (by decide)).trans (records_fault ..)).keepsFaults
  unfold segSteps
  dsimp only
  split
  · exact .of_regs rfl
  split
  · exact (hnokey ..).trans (keepsFaults_segAbandon ..)
  split
  · exact keepsFaults_segAbandon ..
  next p =>
    have hclear := keepsFaults_segClear h (segRestart h s) p
    split
    next heq =>
      rw [heq] at hclear
      exact hclear.trans (keepsFaults_segReassemble ..)
    next heq =>
      rw [heq] at hclear
      exact hclear.trans (keepsFaults_segAbandon ..)

end

/-! ### The next segment -/

section
variable {s : State} {o p : Octets} {h : SegHeader}

/-- What the header at byte `off` comes to: none where its octets are erased or out of form. -/
def segHeaded (off : Nat) (s : State) : Option SegHeader → State
  | none => segBad off s
  | some h => if h.len = 0 then (if h.tid = 0xFFF then endConvoy s else segBad off s) else segTake h off s

theorem segmentEff_header (ht : segTurn s = true) (ho : bodyOctets s s.line.start (roundUp s.line.cursor 8) 8 = .octets o) :
    segmentEff s = segHeaded (roundUp s.line.cursor 8) s ((whole o).bind segFields) := by
  unfold segmentEff
  rw [ht]
  dsimp only
  rw [ho]
  rfl

theorem segTake_octets {off : Nat} (hp : bodyOctets s s.line.start (off + 8) h.len = .octets p) :
    segTake h off s = segSteps h (whole p) off (segNext off h.len s) := by
  unfold segTake
  rw [hp]

/-- A bad header ends the convoy and abandons every open context. -/
structure ConvoyCut (s t : State) : Prop where
  ended : t.line.ended = true
  ctxs : t.reasm.ctxs = []
  bit : rbit t Block.line.base 9 = true
  count : rd t R.LINE_CNT_SEG_BAD = sat32 ((rd s R.LINE_CNT_SEG_BAD).toNat + 1)

theorem segBad_cuts (off : Nat) : ConvoyCut s (segBad off s) := by
  unfold segBad
  refine ⟨?_, ?_, rbit_fault_self _ .line _ _ (by decide), ?_⟩
  · rw [fault_frame.line_eq rfl, bump_frame.line_eq rfl, cutConvoy, abandonAll_frame.line_eq rfl]
    rfl
  · rw [fault_frame.reasm_eq rfl, bump_frame.reasm_eq rfl, cutConvoy, abandonAll_reasm]
  · rw [rd_fault_out _ _ _ _ _ (by decide), rd_bump_same, (records_cutConvoy s).rd_out (by decide) (by decide)]

theorem ConvoyCut.after {t u : State} (h : ConvoyCut s t) (hf : Frame [.intc] t u) : ConvoyCut s u :=
  ⟨by rw [hf.line_eq rfl, h.ended], by rw [hf.reasm_eq rfl, h.ctxs], (rbit_congr (hf.regs_eq rfl) ..).trans h.bit,
    (rd_congr (hf.regs_eq rfl) _).trans h.count⟩

end

/-! ### A segment whose payload is there -/

section
variable {s : State} {p : Octets} {h : SegHeader} {off : Nat} {t : State}

theorem segSteps_line (payload : Option Bytes) : (segSteps h payload off s).line = s.line := segSteps_frame.line_eq rfl

/-- An ID that is not matched, without a frame that restarts. -/
theorem segSteps_passes (ht : Frame [.intc] (segSteps h (whole p) off s) t) (hm : pmMatches s h.tid = false)
    (hr : h.starts = false ∨ findCtx s h.tid h.flow = none) : Frame [.intc] s t := by
  rwa [segSteps_unmatched hm, segRestart_idle hr] at ht

/-- An open frame whose key restarts. -/
theorem segSteps_restarts (ht : Frame [.intc] (segSteps h (whole p) off s) t) (hs : h.starts = true) (hc : findCtx s h.tid h.flow ≠ none) :
    rbit t Block.line.base 10 = true ∧ (pmMatches s h.tid = false → findCtx t h.tid h.flow = none ∧
      rd t R.LINE_CNT_REASM_DROP = sat32 ((rd s R.LINE_CNT_REASM_DROP).toNat + 1)) := by
  have hopen := segRestart_open hs hc
  obtain ⟨hcount, hbit, -, -⟩ := reasmDrop_counts (closeCtx s h.tid h.flow) h.tid h.flow 7
  refine ⟨?_, fun hm => ?_⟩
  · rw [rbit_congr (ht.regs_eq rfl)]
    refine (keepsFaults_segSteps h s (whole p) off).bits (by decide) ?_
    rw [hopen, hbit]
  · rw [segSteps_unmatched hm, hopen] at ht
    refine ⟨?_, ?_⟩
    · rw [findCtx_congr (ht.reasm_eq rfl), findCtx_congr (reasmDrop_reasm ..), findCtx_closeCtx]
    · rw [rd_congr (ht.regs_eq rfl), hcount, rd_congr (closeCtx_frame.regs_eq rfl)]

/-- A KEY_INDEX without a key. -/
theorem segSteps_unkeyed (ht : Frame [.intc] (segSteps h (whole p) off s) t) (hm : pmMatches s h.tid = true) (hk : segNoKey s h = true) :
    rd t R.LINE_CNT_SEG_KEY = sat32 ((rd s R.LINE_CNT_SEG_KEY).toNat + 1) ∧ rbit t Block.line.base 11 = true ∧
      (skipping s h = none → findCtx t h.tid h.flow = none) := by
  rw [segSteps_noKey hm hk] at ht
  refine ⟨?_, ?_, fun hskip => ?_⟩
  · rw [rd_congr (ht.regs_eq rfl), (records_segAbandon ..).rd_out (by decide) (by decide), rd_fault_out _ _ _ _ _ (by decide), rd_bump_same,
      records_segRestart.rd_out (by decide) (by decide)]
  · rw [rbit_congr (ht.regs_eq rfl)]
    exact (records_segAbandon ..).bits (by decide) (rbit_fault_self _ .line _ _ (by decide))
  · rw [findCtx_congr (ht.reasm_eq rfl)]
    refine findCtx_segAbandon ?_ 8
    unfold skipping
    rw [fault_frame.reasm_eq rfl, bump_frame.reasm_eq rfl, segRestart_skips]
    exact hskip

/-- An erased payload. -/
theorem segSteps_lost (ht : Frame [.intc] (segSteps h (whole p) off s) t) (hm : pmMatches s h.tid = true) (hk : segNoKey s h = false)
    (hp : whole p = none) (hskip : skipping s h = none) : findCtx t h.tid h.flow = none := by
  rw [hp, segSteps_erased hm hk] at ht
  rw [findCtx_congr (ht.reasm_eq rfl)]
  exact findCtx_segAbandon (skipping_segRestart.trans hskip) 10

theorem segSteps_keys {b : Bytes} {keys : Keys} (ht : Frame [.intc] (segSteps h (whole p) off s) t) (hm : pmMatches s h.tid = true)
    (hp : PayloadRead s h p b keys) : t.keys = keys := by
  rw [segSteps_read hm hp] at ht
  rw [ht.keys_eq rfl, segReassemble_frame.keys_eq rfl]
  rfl

/-- Where no open frame restarts, the payload is reassembled with the state as it stands but for the keys. -/
theorem segSteps_reassembles {b : Bytes} {keys : Keys} (ht : Frame [.intc] (segSteps h (whole p) off s) t) (hm : pmMatches s h.tid = true)
    (hp : PayloadRead s h p b keys) (hr : h.starts = false ∨ findCtx s h.tid h.flow = none) :
    Frame [.intc] (segReassemble h b off (withKeys keys s)) t := by
  rwa [segSteps_read hm hp, segRestart_idle hr] at ht

end

/-- The state in which the payload of the next segment is reassembled. -/
def segRead (h : SegHeader) (keys : Keys) (s : State) : State := withKeys keys (segNext (roundUp s.line.cursor 8) h.len s)

section
variable (h : SegHeader) (keys : Keys) (s : State)

theorem reasmMax_segRead : reasmMax (segRead h keys s) = reasmMax s := rfl

theorem poolFree_segRead : poolFree (segRead h keys s) = poolFree s := rfl

theorem rowInstant_segRead (off : Nat) : rowInstant (segRead h keys s) off = rowInstant s off := rfl

theorem segRead_reasm : (segRead h keys s).reasm = s.reasm := rfl

theorem findCtx_segRead : findCtx (segRead h keys s) h.tid h.flow = findCtx s h.tid h.flow := rfl

theorem firstContext_segRead (b : Bytes) (x : DWord × Nat) : firstContext h b x (segRead h keys s) = firstContext h b x s := rfl

theorem Completed.of_segRead {b : Bytes} {stamp : DWord} {t u v : State} (hc : Completed b stamp t u) (ht : Frame [.reasm] (segRead h keys s) t)
    (hv : Frame [.intc] u v) : Completed b stamp s v :=
  hc.after ((ht.regs_eq rfl).trans rfl) ((ht.flights_eq rfl).trans rfl) hv

end

end Sys2Proof.Machine

open Sys2Proof Sys2Proof.Machine

/-- Settles O30: the segment's turn, its header, and the steps that its payload goes through. -/
theorem segmentSteps : Obligations.SegmentSteps := by
  unfold Obligations.SegmentSteps
  intro s hrun
  obtain ⟨t, ht, hframe⟩ := viaCore_frame hrun segmentEff
  refine ⟨t, ht, fun hturn => ?_, fun hturn hwait => ?_, fun hturn hcut => ?_, fun o hturn ho => ⟨fun hbad => ?_, fun h hh => ?_⟩⟩
  · have he : segmentEff s = s := if_pos (by simp [hturn])
    rw [he] at hframe
    exact hframe.intcOnly
  · have he : segmentEff s = s := by
      unfold segmentEff
      rw [hturn]
      dsimp only
      rw [hwait]
      rfl
    rw [he] at hframe
    exact hframe.intcOnly
  · have he : segmentEff s = endConvoy s := by
      unfold segmentEff
      rw [hturn]
      dsimp only
      rw [hcut]
      rfl
    rw [he] at hframe
    exact hframe.intcOnly
  · rw [segmentEff_header hturn ho, hbad] at hframe
    obtain ⟨hended, hctxs, hbit, hcount⟩ := (segBad_cuts _).after hframe
    exact ⟨hended, hctxs, hbit, hcount⟩
  · rw [segmentEff_header hturn ho, hh] at hframe
    refine ⟨fun h0 hend => ?_, fun h0 hend => ?_, fun h0 hwait => ?_, fun h0 hcut => ?_, fun p h0 hp => ?_⟩
    · have he : Frame [.intc] (endConvoy s) t := by simpa only [segHeaded, h0, hend, if_true] using hframe
      exact he.intcOnly
    · have he : Frame [.intc] (segBad (roundUp s.line.cursor 8) s) t := by simpa only [segHeaded, h0, hend, if_true, if_false] using hframe
      obtain ⟨hended, hctxs, hbit, -⟩ := (segBad_cuts _).after he
      exact ⟨hended, hctxs, hbit⟩
    all_goals have htake : Frame [.intc] (segTake h (roundUp s.line.cursor 8) s) t := by simpa only [segHeaded, h0, if_false] using hframe
    · have he : segTake h (roundUp s.line.cursor 8) s = s := by
        unfold segTake
        rw [hwait]
      rw [he] at htake
      exact htake.intcOnly
    · have he : segTake h (roundUp s.line.cursor 8) s = segSteps h none (roundUp s.line.cursor 8) (endConvoy s) := by
        unfold segTake
        rw [hcut]
      rw [he] at htake
      rw [htake.line_eq rfl, segSteps_line]
      rfl
    · rw [segTake_octets hp] at htake
      have hrestarts := segSteps_restarts htake
      have hunkeyed := segSteps_unkeyed htake
      have hlost := segSteps_lost htake
      refine ⟨by rw [htake.line_eq rfl, segSteps_line]; rfl, fun hm hr => ?_, hrestarts, hunkeyed, hlost, fun b keys hm hread => ⟨?_, fun hf hc hlo hmax hpool => ?_,
          fun hf hc hn hmax hpool => ?_, fun c hf hc hk hmax hpool => ⟨fun hf0 => ?_, fun hf1 => ⟨?_, fun hlo => ?_⟩⟩⟩⟩
      · exact (segSteps_passes htake hm hr).intcOnly
      · exact segSteps_keys htake hm hread
      · have hwhole : Frame [.intc] (segReassemble h b (roundUp s.line.cursor 8) (segRead h keys s)) t :=
          segSteps_reassembles htake hm hread (.inr hc)
        rw [segReassemble_whole hf hlo (by rwa [reasmMax_segRead]) (by rwa [poolFree_segRead]), rowInstant_segRead] at hwhole
        obtain ⟨hcount, hflight⟩ := (reasmDeliver_completed ..).of_segRead h keys s unskip_frame hwhole
        exact ⟨hcount, hflight⟩
      · have hfirst : Frame [.intc] (segReassemble h b (roundUp s.line.cursor 8) (segRead h keys s)) t :=
          segSteps_reassembles htake hm hread (.inr hc)
        rw [hfirst.reasm_eq rfl, segReassemble_first hf (by rwa [segRead_reasm]) (by rwa [reasmMax_segRead]) (by rwa [poolFree_segRead]), segRead_reasm,
          rowInstant_segRead, firstContext_segRead]
        rfl
      all_goals
        have hmore : Frame [.intc] (segReassemble h b (roundUp s.line.cursor 8) (segRead h keys s)) t :=
          segSteps_reassembles htake hm hread (.inl (Bool.eq_false_iff.mpr fun hs => absurd (starts_iff.mp hs) (by omega)))
        have hc' : findCtx (segRead h keys s) h.tid h.flow = some c := (findCtx_segRead h keys s).trans hc
        rw [segReassemble_more hf hc' hk (by rwa [reasmMax_segRead]) (by rwa [poolFree_segRead])] at hmore
      · rw [if_neg (by omega)] at hmore
        exact (findCtx_congr (hmore.reasm_eq rfl) ..).trans (findCtx_extended hc' _)
      · rw [if_pos hf1] at hmore
        exact (findCtx_congr (hmore.reasm_eq rfl) ..).trans (findCtx_segLast hc' _)
      · rw [if_pos hf1, segLast_completes hlo] at hmore
        obtain ⟨hcount, f, hflight, hdata, hport, -, hstamp⟩ := (reasmDeliver_completed ..).of_segRead h keys s closeCtx_frame hmore
        exact ⟨hcount, f, hflight, hdata, hport, hstamp⟩

end

section
/-!
The launch commit (O33): what gathering, the transparent clock and the counts of a launch keep of the bursts at the headgate and of the line
side's registers (06 R355-R358, 11 R643).
-/
namespace Sys2Proof.Machine

/-! ### The bursts at the headgate -/

/-- What tells a burst from the others: its entry and its assembly. -/
def burstName (b : Burst) : Nat × Nat := (b.entry.id, b.asm)

/-- The bursts, the edges of BURST_EN and its rises to come are as before. -/
structure SameGate (s t : State) : Prop where
  names : t.gate.bursts.map burstName = s.gate.bursts.map burstName
  edges : t.gate.edges = s.gate.edges
  rises : t.gate.rises = s.gate.rises

section
variable {s t u : State}

theorem SameGate.of_gate (h : t.gate = s.gate) : SameGate s t := ⟨by rw [h], by rw [h], by rw [h]⟩

theorem SameGate.trans (h : SameGate s t) (h' : SameGate t u) : SameGate s u :=
  ⟨h'.names.trans h.names, h'.edges.trans h.edges, h'.rises.trans h.rises⟩

theorem SameGate.foldl {α : Type} {g : State → α → State} (hg : ∀ s x, SameGate s (g s x)) (l : List α) (s : State) : SameGate s (l.foldl g s) := by
  induction l generalizing s with
  | nil => exact .of_gate rfl
  | cons x l ih => exact (hg s x).trans (ih _)

/-- Bursts changed one by one without their names. -/
theorem sameGate_map {f : Burst → Burst} (hf : ∀ c, burstName (f c) = burstName c)
    (h : t.gate = { s.gate with bursts := s.gate.bursts.map f }) : SameGate s t := by
  have hnames : burstName ∘ f = burstName := funext hf
  exact ⟨by rw [h, List.map_map, hnames], by rw [h], by rw [h]⟩

end

theorem burstName_patchGot (uid : Nat) : ∀ (i : Nat) (v : Bytes) (b : Burst), burstName (patchGot uid i v b) = burstName b
  | _, [], _ => rfl
  | i, _ :: l, _ => burstName_patchGot uid (i + 1) l _

section
variable (s : State)

theorem sameGate_writeBack (q uid : Nat) (o : Nat × Bytes) : SameGate s (writeBack q uid s o) := by
  have hparts : SameGate s (patchParts s (frameParts s q uid) o.1 o.2) := .of_gate (patchParts_frame.gate_eq rfl)
  exact hparts.trans (sameGate_map (burstName_patchGot uid o.1 o.2) rfl)

theorem sameGate_tcRestore (x : TcSave) : SameGate s (tcRestore s x) := .foldl (fun s o => sameGate_writeBack s x.q x.uid o) _ s

theorem sameGate_tcLaunch (x : TcSave) : SameGate s (tcLaunch s x) := by
  unfold tcLaunch
  split
  · exact (sameGate_tcRestore s x).trans (.of_gate ((event_frame.gate_eq rfl).trans (bump_frame.gate_eq rfl)))
  · dsimp only
    split
    · exact .of_gate ((bump_frame.gate_eq rfl).trans (bump_frame.gate_eq rfl))
    · exact .of_gate (bump_frame.gate_eq rfl)

theorem sameGate_keepBurst (b : Burst) : SameGate s (keepBurst b s) := by
  refine sameGate_map (f := fun c => if c.entry.id = b.entry.id ∧ c.asm = b.asm then b else c) (fun c => ?_) rfl
  split
  next h => exact (Prod.ext h.1 h.2).symm
  · rfl

theorem sameGate_gatherAll (l : List Burst) (room : Nat) (s : State) : SameGate s (gatherAll l room s) := by
  induction l generalizing room s with
  | nil => exact .of_gate rfl
  | cons b l ih => exact (SameGate.of_gate (gatherInto_frame.gate_eq rfl)).trans ((sameGate_keepBurst _ _).trans (ih _ _))

theorem sameGate_stageBursts : SameGate s (stageBursts s) := sameGate_gatherAll ..

end

/-- The bursts but those of a name. -/
theorem names_filter (l : List Burst) (b : Burst) :
    (l.filter fun c => c.entry.id != b.entry.id || c.asm != b.asm).map burstName =
      (l.map burstName).filter fun n => n.1 != b.entry.id || n.2 != b.asm := by
  rw [List.filter_map]
  rfl

/-! ### The registers of the line side -/

/-- The counts of a launch but for LINE_CNT_ALLOT_LAUNCHED and LINE_CNT_HG_GATHER, and the gasp's registers. -/
def launchCounts : List Nat := [R.LINE_GASP_CTL, R.LINE_GASP_LAUNCH, R.LINE_GASP_LAUNCH + 4, R.LINE_CNT_GASP, R.LINE_CNT_REG_SENT,
  R.LINE_CNT_RANGE_SENT, R.LINE_CNT_HG_FALLBACK, R.LINE_CNT_HG_HELD]

/-- The other registers of the line side read as before. -/
structure QuietRegs (s t : State) : Prop where
  rd_eq : ∀ {a : Nat}, 0x500000 ≤ a → a < 0x580000 → a ∉ launchCounts → rd t a = rd s a

section
variable {s t u : State}

theorem LineRegs.quiet (h : LineRegs s t) : QuietRegs s t := ⟨fun hl hu _ => h.rd_eq hl hu⟩

theorem QuietRegs.of_regs (h : t.regs = s.regs) : QuietRegs s t := (LineRegs.of_regs h).quiet

theorem QuietRegs.trans (h : QuietRegs s t) (h' : QuietRegs t u) : QuietRegs s u :=
  ⟨fun hl hu ha => (h'.rd_eq hl hu ha).trans (h.rd_eq hl hu ha)⟩

theorem QuietRegs.of_rd {k : List Nat} (h : ∀ a, a ∉ k → rd t a = rd s a) (hk : k ⊆ launchCounts) : QuietRegs s t :=
  ⟨fun _ _ ha => h _ fun hm => ha (hk hm)⟩

end

section
variable (s : State)

theorem quiet_bump {a : Nat} (h : a ∈ launchCounts) : QuietRegs s (bump s a) :=
  .of_rd (k := [a]) (fun _ hb => rd_bump_ne _ (List.ne_of_not_mem_cons hb)) (by simpa using h)

theorem quiet_bump_after {s u : State} {a : Nat} (h : u.regs = s.regs) (ha : a ∈ launchCounts) : QuietRegs s (bump u a) :=
  (QuietRegs.of_regs h).trans (quiet_bump u ha)

theorem quiet_gaspSent (launch : DWord) : QuietRegs s (gaspSent launch s) := by
  unfold gaspSent
  dsimp only
  refine .of_rd (k := [R.LINE_GASP_CTL, R.LINE_GASP_LAUNCH, R.LINE_GASP_LAUNCH + 4, R.LINE_CNT_GASP]) (fun a ha => ?_) (by decide)
  simp only [List.mem_cons, List.not_mem_nil, or_false, not_or] at ha
  obtain ⟨hctl, hlo, hhi, hcnt⟩ := ha
  rw [rd_bump_ne _ hcnt, rd_wr64_ne _ _ hlo hhi, rd_wr_ne _ _ hctl]

theorem lineRegs_upset (u : Upset) : LineRegs s (upset s u) := by
  refine ⟨fun _ hu => ?_⟩
  unfold upset bumpBy
  exact rd_wr_ne _ _ (by simp only [R.BUFFER_CIS_ECC_CORR]; omega)

theorem lineRegs_tcLaunch (x : TcSave) : LineRegs s (tcLaunch s x) := by
  have hregs : (tcRestore s x).regs = s.regs := tcRestore_frame.regs_eq rfl
  refine ⟨fun hl _ => ?_⟩
  unfold tcLaunch
  split
  · rw [rd_event_ne _ _ (by simp only [R.TIME_EVENT]; omega), rd_bump_ne _ (by simp only [R.TIME_TC_CNT_STEP]; omega), rd_congr hregs]
  · dsimp only
    split
    · rw [rd_bump_ne _ (by simp only [R.TIME_TC_CNT_SAT]; omega), rd_bump_ne _ (by simp only [R.TIME_TC_CNT]; omega)]
    · rw [rd_bump_ne _ (by simp only [R.TIME_TC_CNT]; omega)]

theorem lineRegs_cisRead (acc : Access) (a n : Nat) : LineRegs s (cisRead s acc a n).1 := by
  have haccess (x : Access) : LineRegs s (access s x) := ⟨fun _ hu => rd_access_out s x (.inl (by simp only [R.PERF_EVENT]; omega))⟩
  have hecc (s : State) (g : Nat) : LineRegs s (cisEcc s g) := by
    refine ⟨fun _ hu => ?_⟩
    unfold cisEcc
    rw [rd_fault_out _ _ _ _ _ (.inl (by unfold Block.base; dsimp only; omega)), rd_bump_ne _ (by simp only [R.BUFFER_CIS_ECC_UNCORR]; omega)]
  unfold cisRead
  dsimp only
  split
  · exact (haccess _).trans (hecc ..)
  · exact haccess _

theorem lineRegs_gatherInto (l : List (Access × Nat × Nat)) (room : Nat) (b : Burst) (s : State) : LineRegs s (gatherInto l room b s).1 := by
  induction l generalizing room b s with
  | nil => exact .of_regs rfl
  | cons r l ih =>
    unfold gatherInto
    split
    · exact .of_regs rfl
    split
    · exact .of_regs rfl
    dsimp only
    split
    · exact (lineRegs_cisRead ..).trans (ih _ _ _)
    · exact lineRegs_cisRead ..

theorem lineRegs_stageBursts : LineRegs s (stageBursts s) := by
  have hall (l : List Burst) (room : Nat) (s : State) : LineRegs s (gatherAll l room s) := by
    induction l generalizing room s with
    | nil => exact .of_regs rfl
    | cons b l ih => exact (lineRegs_gatherInto ..).trans ((LineRegs.of_regs (keepBurst_frame.regs_eq rfl)).trans (ih _ _))
  exact hall ..

theorem quiet_countLaunch (b : Burst) : QuietRegs s (countLaunch b s) := by
  unfold countLaunch
  dsimp only
  have hseq : QuietRegs s (if b.kind = .register then s else { s with line := { s.line with seq := some (nextSeq s + 1) } }) :=
    .of_regs (by split <;> rfl)
  refine hseq.trans ?_
  generalize (if b.kind = .register then s else { s with line := { s.line with seq := some (nextSeq s + 1) } }) = s1
  split
  · exact quiet_bump_after rfl (by decide)
  · have hbump : QuietRegs s1 (bump s1 R.LINE_CNT_RANGE_SENT) := quiet_bump _ (by decide)
    split
    · exact hbump.trans (.of_regs (setSub_frame.regs_eq rfl))
    · exact hbump
  · exact .of_regs rfl
  · exact (quiet_bump _ (by decide)).trans (lineRegs_tractEvent ..).quiet
  · exact (quiet_bump _ (by decide)).trans (lineRegs_tractEvent ..).quiet

end

/-! ### The transparent clock at a launch (11 R643-R645) -/

section
variable {s : State} {x : TcSave}

theorem tcLaunch_fresh (h : ¬(x.step = true ∨ x.steps ≠ s.time.steps)) :
    tcLaunch s x = if x.sat then bump (bump s R.TIME_TC_CNT) R.TIME_TC_CNT_SAT else bump s R.TIME_TC_CNT := by
  refine if_neg fun hc => h ?_
  simpa using hc

theorem tcLaunch_stale (h : x.step = true ∨ x.steps ≠ s.time.steps) :
    tcLaunch s x = event (bump (tcRestore s x) R.TIME_TC_CNT_STEP) R.TIME_EVENT 13 := if_pos (by simpa using h)

end

end Sys2Proof.Machine
end

section
/-!
The launch commit, continued (O33): the content of a burst (03 R188-R196, 06 R360, R361, R369), the burst on the lanes (06 R357-R363), and the burst
that is cancelled (06 R356, R368).
-/
namespace Sys2Proof.Machine

/-! ### The content -/

theorem length_kindData (s : State) (b : Burst) : (kindData s b).length ≤ 12 := by
  unfold kindData
  split
  · simp [length_beBytes]
  · split <;> simp [length_beBytes]

theorem length_manifestBytes {s : State} {m : Manifest} (h : m.data.length ≤ 12) : (manifestBytes s m).length = 64 := by
  have hpad : (padTo m.data 12).length = 12 := (length_padTo ..).trans (Nat.max_eq_left h)
  simp [manifestBytes, length_beBytes, hpad, List.length_flatMap]

theorem manifestBytes_congr {s t : State} (h : t.fuses = s.fuses) (m : Manifest) : manifestBytes t m = manifestBytes s m := by
  unfold manifestBytes capsWord hasCipher hasB tractCount tracts hasTract unitPresent
  rw [h]

/-- What gathering changes of a burst: the bytes gathered, the reads made, and whether one met bad data. -/
theorem gatherInto_burst (l : List (Access × Nat × Nat)) (room : Nat) (b : Burst) (s : State) :
    ∃ got reads bad, (gatherInto l room b s).2.1 = { b with got := got, reads := reads, bad := bad } := by
  induction l generalizing room b s with
  | nil => exact ⟨_, _, _, rfl⟩
  | cons r l ih =>
    unfold gatherInto
    split
    · exact ⟨_, _, _, rfl⟩
    split
    · exact ⟨_, _, _, rfl⟩
    dsimp only
    split
    · obtain ⟨got, reads, bad, he⟩ := ih (room - entryBytes r.2.2) { b with got := b.got ++ cisBytes s r.2.1 r.2.2, reads := b.reads + 1 }
        (cisRead s r.1 r.2.1 r.2.2).1
      exact ⟨got, reads, bad, he⟩
    · exact ⟨_, _, _, rfl⟩

/-- The manifest and the message area. -/
def contentTop (s : State) (m : Manifest) (b : Burst) : Bytes := manifestBytes s m ++ messageArea b.msgs

/-- The room that a content of `top` bytes before its segment area and `segs` bytes of it has for the area, where the FIFO runs dry. -/
def contentRoom (dry : Option Nat) (top segs : Nat) : Nat := match dry with | some n => Nat.max 64 n - top | none => segs

/-- The segment area of a content up to where the FIFO runs dry. -/
def contentSegs (m : Manifest) (b : Burst) (dry : Option Nat) (s : State) : State × Bytes × Bool :=
  sendSegs m.tid b.entry.aid b.ovr b.slot b.segs b.got (contentRoom dry (contentTop s m b).length m.segs) s

/-- The content up to the end of its segment area. -/
def contentBody (m : Manifest) (b : Burst) (dry : Option Nat) (s : State) : Bytes := contentTop s m b ++ (contentSegs m b dry s).2.1

/-- The trailer. -/
def contentTrailer (m : Manifest) (body : Bytes) : Bytes := beBytes 4 (crc32c (foldTag 0x54#8 m.tid m.seq ++ body)).toNat

/-- Where the content is cut short. -/
def contentCut (m : Manifest) (b : Burst) (dry : Option Nat) (s : State) : Option (Nat × Nat) :=
  if b.kind = .data then cutShort dry ((contentTop s m b).length + m.segs + 8) (contentBody m b dry s).length (contentSegs m b dry s).2.2 else none

section
variable {m : Manifest} {b : Burst} {dry : Option Nat} {s : State}

/-- A content ended after its body: cut short, or with its trailer. -/
def contentEnded (m : Manifest) (b : Burst) (body : Bytes) (s : State) : Option (Nat × Nat) → State × Bytes
  | some (n, reason) =>
    (fault (bump s R.LINE_CNT_HG_GATHER) .line 21 b.entry.aid (BitVec.ofNat 64 (reason * 2 ^ 48 + b.entry.start)), body.take n)
  | none => (s, body ++ contentTrailer m body ++ List.replicate 4 0#8)

theorem contentOf_eq (m : Manifest) (b : Burst) (dry : Option Nat) (s : State) :
    contentOf m b dry s = contentEnded m b (contentBody m b dry s) (contentSegs m b dry s).1 (contentCut m b dry s) := rfl

theorem contentOf_whole (h : contentCut m b dry s = none) :
    contentOf m b dry s = ((contentSegs m b dry s).1,
      contentBody m b dry s ++ contentTrailer m (contentBody m b dry s) ++ List.replicate 4 0#8) := by
  rw [contentOf_eq, h, contentEnded]

theorem contentOf_cut {n reason : Nat} (h : contentCut m b dry s = some (n, reason)) :
    contentOf m b dry s =
      (fault (bump (contentSegs m b dry s).1 R.LINE_CNT_HG_GATHER) .line 21 b.entry.aid (BitVec.ofNat 64 (reason * 2 ^ 48 + b.entry.start)),
        (contentBody m b dry s).take n) := by
  rw [contentOf_eq, h, contentEnded]

theorem contentSegs_frame : Frame [.keys] s (contentSegs m b dry s).1 := sendSegs_frame

/-- A cut comes after the manifest. -/
theorem cutShort_ge {full have_ : Nat} {bad : Bool} {n reason : Nat} (h64 : 64 ≤ have_) (h : cutShort dry full have_ bad = some (n, reason)) :
    64 ≤ n := by
  unfold cutShort at h
  cases dry with
  | none =>
    cases bad with
    | false => exact absurd h (by simp)
    | true =>
      simp at h
      omega
  | some k =>
    dsimp only [Option.map_some] at h
    have hmax : 64 ≤ Nat.max 64 k := Nat.le_max_left ..
    split at h
    · simp at h
      omega
    · split at h
      · simp at h
        omega
      · exact absurd h (by simp)

theorem take_contentBody (h : m.data.length ≤ 12) {n : Nat} (hn : 64 ≤ n) : ((contentBody m b dry s).take n).take 64 = manifestBytes s m := by
  rw [List.take_take, Nat.min_eq_left hn, contentBody, contentTop, List.append_assoc, List.take_left' (length_manifestBytes h)]

/-- Every content begins with its manifest. -/
theorem take_contentOf (h : m.data.length ≤ 12) : (contentOf m b dry s).2.take 64 = manifestBytes s m := by
  have hlen : 64 ≤ (contentBody m b dry s).length := by
    simp only [contentBody, contentTop, List.length_append, length_manifestBytes h]
    omega
  cases hcut : contentCut m b dry s with
  | none =>
    rw [contentOf_whole hcut, List.append_assoc, List.take_append_of_le_length hlen]
    have htake := take_contentBody (b := b) (dry := dry) (s := s) h hlen
    rwa [List.take_length] at htake
  | some x =>
    obtain ⟨n, reason⟩ := x
    rw [contentOf_cut hcut]
    refine take_contentBody h ?_
    unfold contentCut at hcut
    split at hcut
    · exact cutShort_ge hlen hcut
    · exact absurd hcut (by simp)

/-- Building the content changes at most the count and the record of a cut. -/
theorem records_contentOf : Records .line [R.LINE_CNT_HG_GATHER] s (contentOf m b dry s).1 := by
  have hsegs : Records .line [R.LINE_CNT_HG_GATHER] s (contentSegs m b dry s).1 := .of_regs (contentSegs_frame.regs_eq rfl)
  cases hcut : contentCut m b dry s with
  | none =>
    rw [contentOf_whole hcut]
    exact hsegs
  | some x =>
    obtain ⟨n, reason⟩ := x
    rw [contentOf_cut hcut]
    exact hsegs.trans ((records_bump _ (by decide)).trans (records_fault ..))

end

/-! ### The burst on the lanes -/

/-- What the sending of a burst goes by: the two registers of BURST_EN and P, and the lanes' assignment. -/
structure SameLaunch (s t : State) : Prop where
  p : rd t R.LINE_BURST_P = rd s R.LINE_BURST_P
  en : rd t R.LINE_HG_BURST_EN = rd s R.LINE_HG_BURST_EN
  loader : t.loader = s.loader

section
variable {s t : State}

theorem SameLaunch.burstP (h : SameLaunch s t) : burstP t = burstP s := by
  unfold Machine.burstP rfld
  rw [h.p]

theorem SameLaunch.setsOf (h : SameLaunch s t) (b : Burst) : setsOf t b = setsOf s b := by
  unfold Machine.setsOf codewordSets rfld
  rw [h.p]

theorem SameLaunch.riseAt (h : SameLaunch s t) (b : Burst) : riseAt t b = riseAt s b := by
  unfold Machine.riseAt rfld
  rw [h.burstP, h.en]

theorem SameLaunch.fallAt (h : SameLaunch s t) (b : Burst) : fallAt t b = fallAt s b := by
  unfold Machine.fallAt rfld
  rw [h.burstP, h.setsOf, h.en]

theorem onPins_congr (h : t.loader = s.loader) (l : List (List (BitVec 5600))) : onPins t l = onPins s l := by
  have hbyte (k : Nat) : llByte t k = llByte s k := by unfold llByte; rw [h]
  have hpin (k : Nat) : llPin t k = llPin s k := by unfold llPin; rw [h]
  have hpol (k : Nat) : txPolarity t k = txPolarity s k := by
    funext c
    unfold txPolarity
    rw [hbyte]
  unfold onPins
  simp only [hpin, hpol]

end

/-- The rises to come when the burst has joined them. -/
def risesWith (b : Burst) (s : State) : List DWord := s.gate.rises ++ [riseAt s b]

section
variable (b : Burst) (content : Bytes) (s : State)

/-- What leaves on the lanes with a burst. -/
def burstOutputs : List Output :=
  [.burst (b.launch + BitVec.ofNat 64 (burstP s)) content (onPins s (burstLanes content (setsOf s b))),
    .lineIdle ((onPins s (burstLanes [] 1)).map fun l => l.headD 0)]

/-- BURST_EN's edges and rises with those of the burst. -/
def gateSent : State := { s with gate := { s.gate with edges := addEdges (riseAt s b) (fallAt s b) s.gate.edges, rises := risesWith b s } }

theorem sendBurst_eq : sendBurst b content s = sendIdle (emit (countRises (gateSent b s))
    (.burst (b.launch + BitVec.ofNat 64 (burstP s)) content (onPins s (burstLanes content (setsOf s b))))) := rfl

theorem sendBurst_wire : (sendBurst b content s).wire = s.wire ++ burstOutputs b content s := by
  have hidle (u : State) (hu : u.loader = s.loader) :
      (sendIdle u).wire = u.wire ++ [.lineIdle ((onPins s (burstLanes [] 1)).map fun l => l.headD 0)] := by
    unfold sendIdle emit
    rw [onPins_congr hu]
  have hcount : (countRises (gateSent b s)).wire = s.wire := countRises_frame.wire_eq rfl
  have hloader : (countRises (gateSent b s)).loader = s.loader := countRises_frame.loader_eq rfl
  rw [sendBurst_eq, hidle _ ((emit_frame.loader_eq rfl).trans hloader)]
  unfold emit
  rw [hcount, List.append_assoc]
  rfl

theorem sendBurst_gate : (sendBurst b content s).gate =
    { s.gate with edges := addEdges (riseAt s b) (fallAt s b) s.gate.edges,
                  rises := (risesWith b s).filter fun r => decide (lead (reachNow s) r < 0) } := by
  rw [sendBurst_eq, sendIdle_frame.gate_eq rfl, emit_frame.gate_eq rfl]
  rfl

theorem rd_sendBurst_launched : rd (sendBurst b content s) R.LINE_CNT_ALLOT_LAUNCHED =
    sat32 ((rd s R.LINE_CNT_ALLOT_LAUNCHED).toNat + ((risesWith b s).filter fun r => decide (0 ≤ lead (reachNow s) r)).length) := by
  rw [sendBurst_eq, rd_congr (sendIdle_frame.regs_eq rfl), rd_congr (emit_frame.regs_eq rfl)]
  exact rd_wr_same ..

theorem rd_sendBurst_ne {a : Nat} (h : a ≠ R.LINE_CNT_ALLOT_LAUNCHED) : rd (sendBurst b content s) a = rd s a := by
  rw [sendBurst_eq, rd_congr (sendIdle_frame.regs_eq rfl), rd_congr (emit_frame.regs_eq rfl)]
  exact (rd_wr_ne _ _ h).trans (rd_congr rfl a)

end

/-! ### The launch, step by step -/

section
variable (b : Burst) (dry : Option Nat) (u : Upset) (s : State)

/-- The gasp has left with the burst, and its frames count for the transparent clock. -/
def launchStarted : State := b.tc.foldl tcLaunch (upset (if gasps s b then gaspSent b.launch s else s) u)

/-- The burst as held, with its last reads made. -/
def launchGathered : State × Burst × Nat :=
  gatherInto (lastReads (launchStarted b u s) (heldBurst (launchStarted b u s) b) dry)
    ((lastReads (launchStarted b u s) (heldBurst (launchStarted b u s) b) dry).foldl (fun n r => n + entryBytes r.2.2) 0)
    (heldBurst (launchStarted b u s) b) (launchStarted b u s)

/-- The content, and the state when it has been built. -/
def launchBuilt : State × Bytes := contentOf (manifestOf s b) (launchGathered b dry u s).2.1 dry (launchGathered b dry u s).1

/-- The burst has left the headgate and counts as launched. -/
def launchCounted : State := countLaunch b (dropBurst b (launchBuilt b dry u s).1)

theorem launchBurst_eq : launchBurst b dry u s = stageBursts (updateEntry
    (freeChunks (sendBurst b (launchBuilt b dry u s).2 (launchCounted b dry u s)) (b.segs.flatMap fun g => g.frame.parts)) b.entry.id
    fun e => { e with stage := .launched }) := rfl

theorem launchStarted_frame : Frame [.cistern, .res, .gate, .regs] s (launchStarted b u s) := by
  have hstart : Frame [.cistern, .res, .gate, .regs] s (upset (if gasps s b then gaspSent b.launch s else s) u) := by
    refine upset_frame.andThen rfl ?_
    split
    · exact gaspSent_frame.weaken rfl
    · exact .refl
  exact Frame.foldl (fun s x h => tcLaunch_frame.andThen rfl h) hstart

theorem launchGathered_frame : Frame [.intc, .cistern, .res, .gate, .regs] s (launchGathered b dry u s).1 :=
  gatherInto_frame.andThen rfl ((launchStarted_frame b u s).weaken rfl)

theorem launchBuilt_frame : Frame [.keys, .intc, .cistern, .res, .gate, .regs] s (launchBuilt b dry u s).1 :=
  contentOf_frame.andThen rfl ((launchGathered_frame b dry u s).weaken rfl)

theorem launchCounted_frame : Frame [.mode, .line, .perf, .keys, .intc, .cistern, .res, .gate, .regs] s (launchCounted b dry u s) :=
  countLaunch_frame.andThen rfl (dropBurst_frame.andThen rfl ((launchBuilt_frame b dry u s).weaken rfl))

theorem launchStarted_quiet : QuietRegs s (launchStarted b u s) := by
  have hgasp : QuietRegs s (if gasps s b then gaspSent b.launch s else s) := by
    split
    · exact quiet_gaspSent ..
    · exact .of_regs rfl
  exact hgasp.trans (((lineRegs_upset _ u).trans (.foldl (fun s x => lineRegs_tcLaunch s x) _ _)).quiet)

theorem launchGathered_quiet : QuietRegs s (launchGathered b dry u s).1 := (launchStarted_quiet b u s).trans (lineRegs_gatherInto ..).quiet

theorem launchBuilt_gate : SameGate s (launchBuilt b dry u s).1 := by
  have hstart : SameGate s (upset (if gasps s b then gaspSent b.launch s else s) u) := by
    refine .of_gate ((upset_frame.gate_eq rfl).trans ?_)
    split
    · exact gaspSent_frame.gate_eq rfl
    · rfl
  have hstarted : SameGate s (launchStarted b u s) := hstart.trans (.foldl (fun s x => sameGate_tcLaunch s x) _ _)
  exact hstarted.trans (.of_gate ((contentOf_frame.gate_eq rfl).trans (gatherInto_frame.gate_eq rfl)))

theorem launchCounted_gate : (launchCounted b dry u s).gate.bursts.map burstName =
      (s.gate.bursts.map burstName).filter (fun n => n.1 != b.entry.id || n.2 != b.asm) ∧
    (launchCounted b dry u s).gate.edges = s.gate.edges ∧ (launchCounted b dry u s).gate.rises = s.gate.rises := by
  obtain ⟨hnames, hedges, hrises⟩ := launchBuilt_gate b dry u s
  have hgate : (launchCounted b dry u s).gate = (dropBurst b (launchBuilt b dry u s).1).gate := countLaunch_frame.gate_eq rfl
  rw [hgate]
  refine ⟨?_, hedges, hrises⟩
  rw [← hnames, ← names_filter]
  rfl

/-- The registers that no launch changes before the burst is sent. -/
theorem rd_launchCounted {a : Nat} (hl : 0x500000 ≤ a) (hu : a < 0x580000) (hc : a ∉ launchCounts) :
    rd (launchCounted b dry u s) a = rd (launchBuilt b dry u s).1 a :=
  ((quiet_countLaunch _ b).rd_eq hl hu hc).trans (rd_congr (dropBurst_frame.regs_eq rfl) a)

theorem rd_launchBuilt {a : Nat} (hl : 0x500000 ≤ a) (hu : a < 0x580000) (hc : a ∉ launchCounts) (hg : a ∉ [R.LINE_CNT_HG_GATHER])
    (hr : a ∉ recordOf .line) : rd (launchBuilt b dry u s).1 a = rd s a :=
  (records_contentOf.rd_out hg hr).trans ((launchGathered_quiet b dry u s).rd_eq hl hu hc)

theorem launchCounted_same : SameLaunch s (launchCounted b dry u s) := by
  refine ⟨?_, ?_, (launchCounted_frame b dry u s).loader_eq rfl⟩
  · rw [rd_launchCounted _ _ _ _ (by decide) (by decide) (by decide),
      rd_launchBuilt _ _ _ _ (by decide) (by decide) (by decide) (by decide) (by decide)]
  · rw [rd_launchCounted _ _ _ _ (by decide) (by decide) (by decide),
      rd_launchBuilt _ _ _ _ (by decide) (by decide) (by decide) (by decide) (by decide)]

theorem launchCounted_seq : (launchCounted b dry u s).line.seq = if b.kind = .register then s.line.seq else some (nextSeq s + 1) := by
  have hline : (dropBurst b (launchBuilt b dry u s).1).line = s.line :=
    (dropBurst_frame.line_eq rfl).trans ((launchBuilt_frame b dry u s).line_eq rfl)
  have hrange (v : State) : (if inSub v .registered then setSub v .ranging else v).line = v.line := by
    split
    · exact setSub_frame.line_eq rfl
    · rfl
  have hcount (v : State) : (countLaunch b v).line.seq = if b.kind = .register then v.line.seq else some (nextSeq v + 1) := by
    unfold countLaunch
    cases b.kind with
    | register => rfl
    | range =>
      dsimp only
      rw [hrange]
      rfl
    | data => rfl
    | fallback =>
      dsimp only
      rw [tractEvent_frame.line_eq rfl]
      rfl
    | held =>
      dsimp only
      rw [tractEvent_frame.line_eq rfl]
      rfl
  rw [launchCounted, hcount, nextSeq, hline]
  rfl

/-- What follows the burst on the lanes: its entry is launched, its frames' granules are free, and what waits is gathered. -/
def launchClosed (v : State) : State :=
  stageBursts (updateEntry (freeChunks v (b.segs.flatMap fun g => g.frame.parts)) b.entry.id fun e => { e with stage := .launched })

theorem launchClosed_frame {v : State} : Frame [.intc, .cistern, .table, .gate, .regs] v (launchClosed b v) :=
  stageBursts_frame.andThen rfl (updateEntry_frame.andThen rfl (freeChunks_frame.weaken rfl))

theorem launchClosed_gate (v : State) : SameGate v (launchClosed b v) :=
  .trans (.of_gate ((updateEntry_frame.gate_eq rfl).trans (freeChunks_frame.gate_eq rfl))) (sameGate_stageBursts _)

theorem launchClosed_regs (v : State) : LineRegs v (launchClosed b v) :=
  .trans (.of_regs ((updateEntry_frame.regs_eq rfl).trans (freeChunks_frame.regs_eq rfl))) (lineRegs_stageBursts _)

theorem launchClosed_table (v : State) : ∀ e ∈ (launchClosed b v).table, e.id = b.entry.id → e.stage = .launched := by
  intro e he hid
  have htable : (launchClosed b v).table = v.table.map fun e => if e.id = b.entry.id then { e with stage := .launched } else e := by
    rw [launchClosed, stageBursts_frame.table_eq rfl, updateEntry, freeChunks_frame.table_eq rfl]
  rw [htable] at he
  obtain ⟨f, -, rfl⟩ := List.mem_map.1 he
  split at hid
  next h => rw [if_pos h]
  next h => exact absurd hid h

end

/-! ### A burst that is cancelled (06 R356, R368) -/

section
variable (b : Burst) (s : State)

theorem names_returnBurst : (returnBurst s b).gate.bursts.map burstName =
      (s.gate.bursts.map burstName).filter (fun n => n.1 != b.entry.id || n.2 != b.asm) ∧
    (returnBurst s b).gate.edges = s.gate.edges := by
  have hrestored : SameGate s (b.tc.foldl tcRestore s) := .foldl (fun s x => sameGate_tcRestore s x) _ _
  have hgate : (returnBurst s b).gate = (dropBurst b (b.tc.foldl tcRestore s)).gate := by
    have hsegs (l : List Seg) (v : State) : (l.foldl (returnSeg b.entry.aid) v).gate = v.gate :=
      Frame.gate_eq (l := [.cistern, .queues, .regs]) (Frame.foldl (fun s x h => returnSeg_frame.andThen rfl h) .refl) rfl
    unfold returnBurst
    dsimp only
    split
    · rw [bump_frame.gate_eq rfl, restoreRobins_frame.gate_eq rfl, returnMsgs_frame.gate_eq rfl, hsegs]
      rfl
    · rw [restoreRobins_frame.gate_eq rfl, returnMsgs_frame.gate_eq rfl, hsegs]
      rfl
  rw [hgate]
  refine ⟨?_, hrestored.edges⟩
  rw [← hrestored.names, ← names_filter]
  rfl

theorem cancelBurst_gate : (cancelBurst b s).gate = (stageBursts (returnBurst s b)).gate := by
  unfold cancelBurst
  dsimp only
  split
  · exact countOut_frame.gate_eq rfl
  · rfl

theorem inTable_cancelBurst : inTable (cancelBurst b s) b.entry.id = false := by
  unfold cancelBurst
  dsimp only
  split
  · have htable (v : State) (a : Nat) : (countOut v b.entry.id a).table = v.table.filter fun e => e.id != b.entry.id := bump_frame.table_eq rfl
    unfold inTable
    rw [htable]
    simp
  next h =>
    unfold inTable at h ⊢
    rw [stageBursts_frame.table_eq rfl, returnBurst_frame.table_eq rfl]
    exact Bool.eq_false_iff.mpr h

end

end Sys2Proof.Machine
end

section
/-!
The launch commit settled (O33): a burst launched and its content, over the steps of its launch; a burst cancelled.
-/
namespace Sys2Proof.Machine

section
variable (b : Burst) (dry : Option Nat) (u : Upset) (s : State)

/-- The burst as the headgate holds it at its launch. -/
def launchHeld : Burst := heldBurst (launchStarted b u s) b

/-- The manifest and the message area of the burst launched. -/
def launchTop : Bytes := manifestBytes s (manifestOf s b) ++ messageArea (launchHeld b u s).msgs

/-- Its segment area over the bytes gathered, and whether they ended early. -/
def launchArea : Bytes × Bool :=
  (sendSegs (manifestOf s b).tid (launchHeld b u s).entry.aid (launchHeld b u s).ovr (launchHeld b u s).slot (launchHeld b u s).segs
    (launchGathered b dry u s).2.1.got (contentRoom dry (launchTop b u s).length (manifestOf s b).segs) (launchGathered b dry u s).1).2

/-- Where its content is cut short. -/
def launchCut : Option (Nat × Nat) :=
  cutShort dry ((launchTop b u s).length + (manifestOf s b).segs + 8) (launchTop b u s ++ (launchArea b dry u s).1).length (launchArea b dry u s).2

/-- Gathering changes of the burst only the bytes gathered, the reads made, and whether one met bad data. -/
theorem launchGathered_burst :
    ∃ got reads bad, (launchGathered b dry u s).2.1 = { launchHeld b u s with got := got, reads := reads, bad := bad } := gatherInto_burst ..

theorem contentTop_launch :
    contentTop (launchGathered b dry u s).1 (manifestOf s b) (launchGathered b dry u s).2.1 = launchTop b u s := by
  obtain ⟨got, reads, bad, he⟩ := launchGathered_burst b dry u s
  have hmsgs : (launchGathered b dry u s).2.1.msgs = (launchHeld b u s).msgs := by rw [he]
  rw [contentTop, launchTop, manifestBytes_congr ((launchGathered_frame b dry u s).fuses_eq rfl), hmsgs]

theorem contentSegs_launch :
    (contentSegs (manifestOf s b) (launchGathered b dry u s).2.1 dry (launchGathered b dry u s).1).2 = launchArea b dry u s := by
  obtain ⟨got, reads, bad, he⟩ := launchGathered_burst b dry u s
  have hentry : (launchGathered b dry u s).2.1.entry = (launchHeld b u s).entry := by rw [he]
  have hovr : (launchGathered b dry u s).2.1.ovr = (launchHeld b u s).ovr := by rw [he]
  have hslot : (launchGathered b dry u s).2.1.slot = (launchHeld b u s).slot := by rw [he]
  have hsegs : (launchGathered b dry u s).2.1.segs = (launchHeld b u s).segs := by rw [he]
  unfold contentSegs launchArea
  rw [contentTop_launch, hentry, hovr, hslot, hsegs]

theorem contentBody_launch :
    contentBody (manifestOf s b) (launchGathered b dry u s).2.1 dry (launchGathered b dry u s).1 = launchTop b u s ++ (launchArea b dry u s).1 := by
  rw [contentBody, contentTop_launch, contentSegs_launch]

theorem contentCut_launch : contentCut (manifestOf s b) (launchGathered b dry u s).2.1 dry (launchGathered b dry u s).1 =
    if (launchHeld b u s).kind = .data then launchCut b dry u s else none := by
  obtain ⟨got, reads, bad, he⟩ := launchGathered_burst b dry u s
  have hkind : (launchGathered b dry u s).2.1.kind = (launchHeld b u s).kind := by rw [he]
  unfold contentCut launchCut
  rw [contentTop_launch, contentBody_launch, contentSegs_launch, hkind]

/-- What the launch's content is. -/
structure Content (content : Bytes) : Prop where
  manifest : content.take 64 = manifestBytes s (manifestOf s b)
  whole : (launchHeld b u s).kind ≠ .data ∨ (dry = none ∧ (launchArea b dry u s).2 = false) →
    content = launchTop b u s ++ (launchArea b dry u s).1 ++ contentTrailer (manifestOf s b) (launchTop b u s ++ (launchArea b dry u s).1) ++
      List.replicate 4 0#8
  cut : ∀ n reason, (launchHeld b u s).kind = .data → launchCut b dry u s = some (n, reason) →
    content = (launchTop b u s ++ (launchArea b dry u s).1).take n

theorem launchBuilt_content : Content b dry u s (launchBuilt b dry u s).2 := by
  refine ⟨?_, fun hw => ?_, fun n reason hk hcut => ?_⟩
  · rw [launchBuilt, take_contentOf (length_kindData s b), manifestBytes_congr ((launchGathered_frame b dry u s).fuses_eq rfl)]
  · have hnone : contentCut (manifestOf s b) (launchGathered b dry u s).2.1 dry (launchGathered b dry u s).1 = none := by
      rw [contentCut_launch]
      rcases hw with hk | ⟨rfl, hbad⟩
      · exact if_neg hk
      · rw [launchCut, hbad]
        exact ite_self _
    rw [launchBuilt, contentOf_whole hnone, contentBody_launch]
  · rw [launchBuilt, contentOf_cut ((contentCut_launch b dry u s).trans ((if_pos hk).trans hcut)), contentBody_launch]

/-- A content that is cut short is counted and recorded. -/
theorem launchBuilt_cut {n reason : Nat} (hk : (launchHeld b u s).kind = .data) (hcut : launchCut b dry u s = some (n, reason)) :
    rd (launchBuilt b dry u s).1 R.LINE_CNT_HG_GATHER = sat32 ((rd s R.LINE_CNT_HG_GATHER).toNat + 1) ∧
      rbit (launchBuilt b dry u s).1 Block.line.base 21 = true := by
  have he := contentOf_cut ((contentCut_launch b dry u s).trans ((if_pos hk).trans hcut))
  rw [launchBuilt, he]
  refine ⟨?_, rbit_fault_self _ .line _ _ (by decide)⟩
  rw [rd_fault_out _ _ _ _ _ (by decide), rd_bump_same, rd_congr (contentSegs_frame.regs_eq rfl),
    (launchGathered_quiet b dry u s).rd_eq (by decide) (by decide) (by decide)]

/-- The burst has left on the lanes. -/
def launchSent : State := sendBurst b (launchBuilt b dry u s).2 (launchCounted b dry u s)

theorem launchBurst_closed : launchBurst b dry u s = launchClosed b (launchSent b dry u s) := launchBurst_eq b dry u s

theorem risesWith_launch : risesWith b (launchCounted b dry u s) = s.gate.rises ++ [riseAt s b] := by
  obtain ⟨-, -, hrises⟩ := launchCounted_gate b dry u s
  rw [risesWith, hrises, (launchCounted_same b dry u s).riseAt]

theorem reachNow_launch : reachNow (launchCounted b dry u s) = reachNow s := by
  unfold reachNow
  rw [(launchCounted_frame b dry u s).time_eq rfl]

theorem burstOutputs_launch (content : Bytes) : burstOutputs b content (launchCounted b dry u s) = burstOutputs b content s := by
  have hsame := launchCounted_same b dry u s
  unfold burstOutputs
  rw [hsame.burstP, hsame.setsOf, onPins_congr hsame.loader, onPins_congr hsame.loader]

/-- What a launch leaves. -/
structure LaunchDone (t : State) : Prop where
  names : t.gate.bursts.map burstName = (s.gate.bursts.map burstName).filter fun n => n.1 != b.entry.id || n.2 != b.asm
  edges : t.gate.edges = addEdges (riseAt s b) (fallAt s b) s.gate.edges
  rises : t.gate.rises = (s.gate.rises ++ [riseAt s b]).filter fun r => decide (lead (reachNow s) r < 0)
  table : ∀ e ∈ t.table, e.id = b.entry.id → e.stage = .launched
  seq : t.line.seq = if b.kind = .register then s.line.seq else some (nextSeq s + 1)
  count : rd t R.LINE_CNT_ALLOT_LAUNCHED = sat32 ((rd s R.LINE_CNT_ALLOT_LAUNCHED).toNat +
    ((s.gate.rises ++ [riseAt s b]).filter fun r => decide (0 ≤ lead (reachNow s) r)).length)
  wire : t.wire = s.wire ++ burstOutputs b (launchBuilt b dry u s).2 s
  cut : ∀ n reason, (launchHeld b u s).kind = .data → launchCut b dry u s = some (n, reason) →
    rd t R.LINE_CNT_HG_GATHER = sat32 ((rd s R.LINE_CNT_HG_GATHER).toNat + 1) ∧ rbit t Block.line.base 21 = true

theorem launchBurst_done {t : State} (ht : Frame [.intc] (launchBurst b dry u s) t) : LaunchDone b dry u s t := by
  rw [launchBurst_closed] at ht
  obtain ⟨hnames, hedges, -⟩ := launchCounted_gate b dry u s
  have hsame := launchCounted_same b dry u s
  have hclosed := launchClosed_gate b (launchSent b dry u s)
  have hgate := sendBurst_gate b (launchBuilt b dry u s).2 (launchCounted b dry u s)
  have htgate := ht.gate_eq rfl
  have hrd {a : Nat} (hl : 0x500000 ≤ a) (hu : a < 0x580000) : rd t a = rd (launchSent b dry u s) a :=
    (rd_congr (ht.regs_eq rfl) a).trans ((launchClosed_regs b _).rd_eq hl hu)
  refine ⟨?_, ?_, ?_, ?_, ?_, ?_, ?_, fun n reason hk hcut => ?_⟩
  · rw [htgate, hclosed.names, launchSent, hgate, hnames]
  · rw [htgate, hclosed.edges, launchSent, hgate, hsame.riseAt, hsame.fallAt, hedges]
  · rw [htgate, hclosed.rises, launchSent, hgate, risesWith_launch, reachNow_launch]
  · rw [ht.table_eq rfl]
    exact launchClosed_table b _
  · rw [ht.line_eq rfl, (launchClosed_frame b).line_eq rfl, launchSent, sendBurst_frame.line_eq rfl, launchCounted_seq]
  · rw [hrd (by decide) (by decide), launchSent, rd_sendBurst_launched, risesWith_launch, reachNow_launch,
      rd_launchCounted _ _ _ _ (by decide) (by decide) (by decide),
      rd_launchBuilt _ _ _ _ (by decide) (by decide) (by decide) (by decide) (by decide)]
  · rw [ht.wire_eq rfl, (launchClosed_frame b).wire_eq rfl, launchSent, sendBurst_wire, burstOutputs_launch, (launchCounted_frame b dry u s).wire_eq rfl]
  · obtain ⟨hcount, hbit⟩ := launchBuilt_cut b dry u s hk hcut
    have hkept {a : Nat} (hl : 0x500000 ≤ a) (hu : a < 0x580000) (hc : a ∉ launchCounts) (hne : a ≠ R.LINE_CNT_ALLOT_LAUNCHED) :
        rd t a = rd (launchBuilt b dry u s).1 a := by
      rw [hrd hl hu, launchSent, rd_sendBurst_ne _ _ _ hne, rd_launchCounted _ _ _ _ hl hu hc]
    refine ⟨?_, ?_⟩
    · rw [hkept (by decide) (by decide) (by decide) (by decide), hcount]
    · rw [rbit_of_rd (hkept (by decide) (by decide) (by decide) (by decide)), hbit]

theorem launchCommitEff_due (hb : firstBurst s.gate.bursts = some b) (hlead : 0 ≤ lead (reachNow s) b.launch) :
    launchCommitEff dry u s = if cancels s b then cancelBurst b s else launchBurst b dry u s := by
  unfold launchCommitEff
  rw [hb]
  exact if_neg (by omega)

end

end Sys2Proof.Machine

open Sys2Proof Sys2Proof.Machine

/-- Settles O33: the earliest burst before its launch instant, cancelled and launched; and a frame's transparent-clock correction. -/
theorem launchCommitRules : Obligations.LaunchCommitRules := by
  unfold Obligations.LaunchCommitRules
  refine ⟨fun s dry u b hrun hb => ⟨fun hlead => ?_, fun hlead => ?_⟩, fun s x => ⟨fun hfresh => ?_, fun hstale => ?_⟩⟩
  · obtain ⟨t, ht, hframe⟩ := viaCore_frame hrun (launchCommitEff dry u)
    have he : launchCommitEff dry u s = s := by
      unfold launchCommitEff
      rw [hb]
      exact if_pos hlead
    rw [he] at hframe
    exact ⟨t, ht, hframe.intcOnly⟩
  · obtain ⟨t, ht, hframe⟩ := viaCore_frame hrun (launchCommitEff dry u)
    rw [launchCommitEff_due b dry u s hb hlead] at hframe
    cases hc : cancels s b with
    | true =>
      rw [hc, if_pos rfl] at hframe
      obtain ⟨hnames, hedges⟩ := names_returnBurst b s
      have hgate : SameGate (returnBurst s b) t := (sameGate_stageBursts _).trans (.of_gate ((hframe.gate_eq rfl).trans (cancelBurst_gate b s)))
      refine ⟨t, ht, ?_, fun _ => ⟨?_, hgate.edges.trans hedges, ?_⟩, fun h => absurd h (by decide)⟩
      · exact hgate.names.trans (hnames.trans (names_filter ..).symm)
      · rw [hframe.wire_eq rfl, cancelBurst_frame.wire_eq rfl]
      · have htable := inTable_cancelBurst b s
        unfold inTable at htable ⊢
        rwa [hframe.table_eq rfl]
    | false =>
      rw [hc, if_neg Bool.false_ne_true] at hframe
      have hdone := launchBurst_done b dry u s hframe
      have hcontent := launchBuilt_content b dry u s
      refine ⟨t, ht, hdone.names.trans (names_filter ..).symm, fun h => absurd h (by decide), fun _ => ⟨hdone.edges, hdone.table, hdone.seq, hdone.count,
        hdone.rises, hdone.wire, hcontent.manifest, hcontent.whole, fun n reason hk hcut => ⟨hcontent.cut n reason hk hcut, hdone.cut n reason hk hcut⟩⟩⟩
  · rw [tcLaunch_fresh hfresh]
    cases hsat : x.sat with
    | true =>
      rw [if_pos rfl]
      refine ⟨((regsOnly_bump s _).mono (by simp)).trans ((regsOnly_bump _ _).mono (by simp)), ?_, fun _ => ?_⟩
      · rw [rd_bump_ne _ (by decide), rd_bump_same]
      · rw [rd_bump_same, rd_bump_ne _ (by decide)]
    | false =>
      rw [if_neg Bool.false_ne_true]
      exact ⟨(regsOnly_bump s _).mono (by simp), rd_bump_same .., fun h => absurd h (by decide)⟩
  · rw [tcLaunch_stale hstale]
    have hregs : (tcRestore s x).regs = s.regs := tcRestore_frame.regs_eq rfl
    refine ⟨?_, ?_, rbit_event_self _ (by decide), ?_, ?_⟩
    · rw [rd_event_ne _ _ (by decide), rd_bump_same, rd_congr hregs]
    · rw [rd_event_ne _ _ (by decide), rd_bump_ne _ (by decide), rd_congr hregs]
    · rw [event_frame.cistern_eq rfl, bump_frame.cistern_eq rfl]
    · rw [event_frame.gate_eq rfl, bump_frame.gate_eq rfl]

end
